-- ==== Sys2Proof/Word.lean ====
section
/-! DEFINITION. The word types of the MB-GX2 and the small closed sets of names that its
encodings use (R27, R30, R77). -/

namespace Sys2Proof

/-- A scalar register, a global address. -/
abbrev Word := BitVec 64

/-- A byte of memory. -/
abbrev Byte := BitVec 8

/-- One accumulator row, which is also a vector operand: 2,048 bytes, byte 0 least significant (R77, R151). -/
abbrev Row := BitVec 16384

/-- A predicate register: bit i governs lane i (R77). -/
abbrev Pred := BitVec 1024

/-- The guard of a slot: predicate G and its complement bit GN (R27). -/
structure Guard where
  p : BitVec 5
  n : Bool
  deriving DecidableEq, Repr

/-- Vector element types, T and TD (R30). -/
inductive VType
  | f32 | i32 | f16 | bf16
  deriving DecidableEq, Repr

/-- Element formats, FC, FA, FB and EFMT (R30). -/
inductive ElemFmt
  | e4m3 | e5m2 | e2m1 | int8 | bf16 | fp16
  deriving DecidableEq, Repr

/-- Drain formats, DF (R30). -/
inductive DrainFmt
  | f32 | bf16 | f16 | e4m3 | e5m2 | i32 | int8
  deriving DecidableEq, Repr

/-- Scale modes, SM and SMODE (R30). -/
inductive ScaleMode
  | none | explicit | indexed
  deriving DecidableEq, Repr

/-- Rounding modes, RM (R30, R101). -/
inductive RMode
  | rne | rtz | rup | rdn
  deriving DecidableEq, Repr

/-- Access widths, W and the LIX element T (R30). -/
inductive Width
  | b1 | b2 | b4 | b8
  deriving DecidableEq, Repr

/-- The ten slots of a bundle (R24). -/
inductive Slot
  | ctl | sa | sb | vx | vy | mx | ls | eq | tf | sc
  deriving DecidableEq, Repr

/-- The kinds of a FENCE (R256). -/
inductive FenceKind
  | acq | rel | full
  deriving DecidableEq, Repr

/-- The coordinate box of a stream or copy: start and extent of each axis (R298). -/
abbrev Box := List (Int × Nat)

/-- An endpoint that a command arrives at (R326, R352, R390). -/
inductive Endpoint
  | part (p : Nat) | mgmt | debug
  deriving DecidableEq, Repr

/-- A command as it was sent: the endpoint and the port that it arrives at (R16, R326), the fabric address that it came from, and
the bytes of the send, header and body (R327); and whether it is now arriving (`arriving`) or beginning at the head of its queue
(R329). -/
structure Cmd where
  arriving : Bool
  ep       : Endpoint
  port     : Fin 12
  src      : Nat
  bytes    : List Byte
  deriving DecidableEq, Repr

/-- Who made a UET access: its fabric address and the port that it came by, and the tag that the answer repeats (R16, R415). -/
structure UetTag where
  src  : Nat
  port : Fin 12
  tag  : BitVec 64
  deriving DecidableEq, Repr

/-- A tenant's address space: partition and virtual device (R355). -/
structure Space where
  part : Nat
  vdev : Nat
  deriving DecidableEq, Repr

/-- The alarm sources, in the order of ALARMSET (R383, R386). -/
inductive AlarmSource
  | voltage | clock | temperature | tamper
  deriving DecidableEq, Repr

/-- The storage classes of R381. -/
inductive Storage
  | sram | clean | hbm | lpddr
  deriving DecidableEq, Repr

end Sys2Proof
end

