-- ==== Sys2Proof/Config.lean ====
section
/-! DEFINITION. What the manual fixes for every MB-GX2, and the values and choices it leaves open:
each of those is an opaque constant, so that no proof can lean on its value. -/

namespace Sys2Proof.Config

/-- The device hash of every MB-GX2 (R345). -/
def deviceHash : BitVec 64 := 0x6A1C0E379B42D805#64

/-- Landing-slot entries of a core (R10, R90). -/
def landingSlots : Nat := 3072

/-- Engine-queue buffer entries of a core (R277). -/
def engineBuffer : Nat := 4096

/-- Entries of one engine queue (R288). -/
def engineQueueDepth : Nat := 64

/-- Lineage-table entries (R271). -/
def lineageEntries : Nat := 1048576

/-- Run-time edges of one partition (R312). -/
def edgeTable : Nat := 65536

/-- Sync words of one base die's half: bytes of each half of a die's sync space (R282). -/
def syncHalf : Nat := 0x80000000

/-- FREE CHOICE (log entry 5). The n-th choice among the steps and values that the ordering
machine allows (R249, R251, R253, R261, R413). -/
opaque pick : Nat → Nat

/-- The five functions whose value within the bound is not specified (R162). -/
inductive SpecialFn
  | exp2 | log2 | rcp | rsq | tanh
  deriving DecidableEq, Repr

/-- FREE VALUE (log entry 4). The f32 bits that the device returns for a special function on an f32
input whose value R162 and R163 do not fix: one fixed function of the input bits (R162). -/
opaque special : SpecialFn → BitVec 32 → BitVec 32

/-- FREE VALUE (log entry 20). What the product of two floating elements gives an integer beat where it is no integer (R110). -/
opaque mixedProduct : BitVec 32 → BitVec 32 → Int

/-- FREE VALUE (log entry 6). What the on-die random bit generator gives at its n-th draw: a partition's key pair, or the handle key (R268,
R384, R389). -/
opaque random : Nat → BitVec 512

/-- FREE VALUE (log entry 6). The keyed digest CHECK of a handle, by the handle key, LIDX, GEN and PART (R268). -/
opaque handleCheck : BitVec 512 → BitVec 20 → BitVec 16 → BitVec 16 → BitVec 32

/-- FREE VALUE (log entry 6). SHA-256 of a byte string (R343), an uninterpreted function. -/
opaque sha256 : List Byte → BitVec 256

/-- FREE VALUE (log entry 6). What a symbol section gives (R341): kind (0 task entry, 1 function entry, 2 return point), bundle
index, and for a task its gang size. -/
opaque symbols : List (BitVec 8) → List (Nat × Nat × Nat)

/-- FREE VALUE (log entry 6). The SLH-DSA-SHA2-192s signature of a report (R385). -/
opaque signature : List Byte → List Byte

/-- FREE VALUE (log entry 6). Identity bytes of this module: boot ROM, firmware and penim-x digests
and the public attestation key, by their offset in the report (R385). -/
opaque identity : Nat → Byte

/-- FREE VALUE (log entry 7). Which place, of 64 MiB from 2^55 on in a tenant's space, the n-th save image takes where it is free (R212, R215). -/
opaque imageAddress : Nat → Nat

/-- FREE VALUE (log entry 29). The fabric addresses of administrators that were stored before power-on (R352, R389), and of the
hosts that partition management registers for a partition (R326). -/
opaque administrators : List Nat
opaque hosts : Nat → List Nat

/-- FREE CHOICE (log entry 44). The port by which the module reaches a fabric address. -/
opaque route : Nat → Nat

/-- FREE VALUE (log entry 44). The port by which the n-th arrival from a peer comes. -/
opaque peerPort : Nat → Nat

/-- FREE VALUE (log entry 29). The core map that fuses and firmware leave (R9, R389). -/
opaque coreMap : BitVec 64

/-- FREE VALUE (log entry 28). Where the stub of an entry lies in the code heap (R346), by the entry's address. -/
opaque stubAddress : Nat → Nat

/-- FREE VALUE. Where the HBM4E that firmware reserves for the lineage table lies (R271; log entry 65), in frames of 64 KiB. -/
opaque reservedBase : Nat

/-- FREE VALUE (log entry 28). The body that penim-x builds for a stub (R346), by the stub's address and the choices so far. -/
opaque translation : Nat → Nat → List (BitVec 8)

/-- FREE VALUE (log entry 31). The row of its HBM4E stack that holds a line, the banks of a stack, the bank of a row, and the spare rows of a
bank of a stack (R382). -/
opaque rowOf : Nat → Nat
opaque banks : Nat
opaque bankOf : Nat → Nat
opaque spareRows : Nat → Nat → Nat

/-- FREE VALUE (log entry 32). What the n-th checkpoint writes into its area, and the entries that an order log holds between two checkpoints, less
one (R402). -/
opaque checkpointBytes : Nat → List Byte
opaque logRoom : Nat

/-- FREE CHOICE (log entry 22). The set of a cache that a line belongs to, by the cache's level, and which line of a full set
makes room, by the number of the choice (R231). -/
opaque cacheSet : Nat → Nat → Nat
opaque victim : Nat → Nat

/-- Lines that one version way of one base die holds: 256 MiB in 16 ways of 64-byte lines (R12, R231). -/
def wayLines : Nat := 262144

end Sys2Proof.Config
end

