-- ==== Sys2Proof/Machine/Float.lean ====
section
/-! DEFINITION. Number formats and exact arithmetic (R97 to R103, R112, R113). A value is held
exactly, as a signed dyadic number, and is rounded once, where the manual rounds. -/

namespace Sys2Proof.Machine

/-- The value a float code stands for: (−1)^neg × m × 2^e, an infinity, or a NaN (R97, R100). -/
inductive FVal
  | nan
  | inf (neg : Bool)
  | fin (neg : Bool) (m : Nat) (e : Int)
  deriving DecidableEq, Repr

/-- What a format does with its top exponent (R97). -/
inductive TopCodes
  | ieee | nanOnly | finite
  deriving DecidableEq, Repr

/-- A float format: exponent and mantissa widths, bias and top codes (R97). -/
structure FloatFmt where
  ebits : Nat
  mbits : Nat
  bias  : Nat
  top   : TopCodes
  deriving DecidableEq, Repr

def fp32 : FloatFmt := ⟨8, 23, 127, .ieee⟩
def fp16 : FloatFmt := ⟨5, 10, 15, .ieee⟩
def bf16 : FloatFmt := ⟨8, 7, 127, .ieee⟩
def e5m2 : FloatFmt := ⟨5, 2, 15, .ieee⟩
def e4m3 : FloatFmt := ⟨4, 3, 7, .nanOnly⟩
def e2m1 : FloatFmt := ⟨2, 1, 1, .finite⟩

/-- Flag bits, in the order of R115. -/
abbrev FlagSet := BitVec 6

def flagNV : FlagSet := 0x01#6
def flagDZ : FlagSet := 0x02#6
def flagOF : FlagSet := 0x04#6
def flagUF : FlagSet := 0x08#6
def flagNX : FlagSet := 0x10#6
def flagSB : FlagSet := 0x20#6

def FloatFmt.width (f : FloatFmt) : Nat := 1 + f.ebits + f.mbits

/-- The sign bit of a code. -/
def FloatFmt.signOf (f : FloatFmt) (neg : Bool) : Nat := if neg then 2 ^ (f.ebits + f.mbits) else 0

/-- Magnitude code of +∞ under an ieee format. -/
def FloatFmt.infMag (f : FloatFmt) : Nat := (2 ^ f.ebits - 1) * 2 ^ f.mbits

/-- Magnitude code of the largest finite value (R97). -/
def FloatFmt.maxMag (f : FloatFmt) : Nat :=
  match f.top with
  | .ieee => f.infMag - 1
  | .nanOnly => 2 ^ (f.ebits + f.mbits) - 2
  | .finite => 2 ^ (f.ebits + f.mbits) - 1

/-- The canonical NaN (R97); E2M1 has none, and the packing of a NaN never reaches it. -/
def FloatFmt.nanCode (f : FloatFmt) : Nat :=
  match f.top with
  | .ieee => if f.mbits ≤ 2 then 2 ^ (f.ebits + f.mbits) - 1 else f.infMag + 2 ^ (f.mbits - 1)
  | .nanOnly => 2 ^ (f.ebits + f.mbits) - 1
  | .finite => 0

/-- The value of a code (R97). -/
def FloatFmt.decode (f : FloatFmt) (bits : Nat) : FVal :=
  let neg := bits.testBit (f.ebits + f.mbits)
  let ex := bits / 2 ^ f.mbits % 2 ^ f.ebits
  let m := bits % 2 ^ f.mbits
  let topEx := ex == 2 ^ f.ebits - 1
  match f.top with
  | .ieee =>
    if topEx then (if m == 0 then .inf neg else .nan)
    else if ex == 0 then .fin neg m (1 - f.bias - f.mbits)
    else .fin neg (2 ^ f.mbits + m) (ex - f.bias - f.mbits)
  | .nanOnly =>
    if topEx && m == 2 ^ f.mbits - 1 then .nan
    else if ex == 0 then .fin neg m (1 - f.bias - f.mbits)
    else .fin neg (2 ^ f.mbits + m) (ex - f.bias - f.mbits)
  | .finite =>
    if ex == 0 then .fin neg m (1 - f.bias - f.mbits)
    else .fin neg (2 ^ f.mbits + m) (ex - f.bias - f.mbits)

/-- m / 2^sh rounded to an integer under a rounding mode (R101); the flag says whether bits were lost. -/
def roundShift (rm : RMode) (neg : Bool) (m sh : Nat) : Nat × Bool :=
  let q := m / 2 ^ sh
  let r := m % 2 ^ sh
  let up : Bool :=
    match rm with
    | .rne => decide (2 * r > 2 ^ sh) || (2 * r == 2 ^ sh && q % 2 == 1)
    | .rtz => false
    | .rup => !neg && r != 0
    | .rdn => neg && r != 0
  (if up then q + 1 else q, r != 0)

/-- m × 2^e in units of 2^q, rounded. -/
def toQuantum (rm : RMode) (neg : Bool) (m : Nat) (e q : Int) : Nat × Bool :=
  if q ≤ e then (m * 2 ^ (e - q).toNat, false) else roundShift rm neg m (q - e).toNat

/-- Where a result rounds and whether it is tiny (R103): magnitude code before overflow, inexact, tiny. -/
def FloatFmt.roundParts (f : FloatFmt) (rm : RMode) (neg : Bool) (m : Nat) (e : Int) : Nat × Bool × Bool :=
  let top : Int := Nat.log2 m + e
  let emin : Int := 1 - f.bias
  let q : Int := max (top - f.mbits) (emin - f.mbits)
  let (m', ix) := toQuantum rm neg m e q
  let (mu, _) := toQuantum rm neg m e (top - f.mbits)
  let topU : Int := if mu == 2 ^ (f.mbits + 1) then top + 1 else top
  (((q - (emin - f.mbits)).toNat) * 2 ^ f.mbits + m', ix, decide (topU < emin))

/-- The code of an overflowed result (R103). -/
def FloatFmt.overflow (f : FloatFmt) (rm : RMode) (neg : Bool) : Nat :=
  match f.top with
  | .ieee =>
    match rm, neg with
    | .rne, _ => f.infMag
    | .rtz, _ => f.maxMag
    | .rup, false => f.infMag
    | .rup, true => f.maxMag
    | .rdn, false => f.maxMag
    | .rdn, true => f.infMag
  | _ => f.maxMag

/-- A finite value rounded to a format (R101, R103), with FTZ where it applies (R102). Whether a result exceeds the range of its target is
judged of the rounded value (log entry 62). -/
def FloatFmt.roundFin (f : FloatFmt) (rm : RMode) (ftz : Bool) (neg : Bool) (m : Nat) (e : Int) :
    Nat × FlagSet :=
  if m == 0 then (f.signOf neg, 0) else
  let (mag, ix, tiny) := f.roundParts rm neg m e
  if f.maxMag < mag then (f.signOf neg + f.overflow rm neg, flagOF ||| flagNX)
  else if ftz && decide (mag < 2 ^ f.mbits) then (f.signOf neg, flagUF ||| flagNX)
  else (f.signOf neg + mag, if ix then (if tiny then flagUF ||| flagNX else flagNX) else 0)

/-- Any value rounded to a format (R100, R103). An infinity into E4M3 gives NaN's magnitude with its sign and NV. -/
def FloatFmt.round (f : FloatFmt) (rm : RMode) (ftz : Bool) : FVal → Nat × FlagSet
  | .nan => (f.nanCode, 0)
  | .inf neg =>
    match f.top with
    | .ieee => (f.signOf neg + f.infMag, 0)
    | .nanOnly => (f.signOf neg + f.nanCode, flagNV)
    | .finite => (f.signOf neg + f.maxMag, flagOF ||| flagNX)
  | .fin neg m e => f.roundFin rm ftz neg m e

/-- FTZ on an operand: a subnormal reads as zero of its sign (R102). -/
def FloatFmt.read (f : FloatFmt) (ftz : Bool) (bits : Nat) : FVal :=
  match f.decode bits with
  | .fin neg m e => if ftz && decide (m < 2 ^ f.mbits) then .fin neg 0 e else .fin neg m e
  | v => v

namespace FVal

def isNeg : FVal → Bool
  | .nan => false
  | .inf n => n
  | .fin n _ _ => n

def isZero : FVal → Bool
  | .fin _ 0 _ => true
  | _ => false

def isNan : FVal → Bool
  | .nan => true
  | _ => false

def isInf : FVal → Bool
  | .inf _ => true
  | _ => false

def neg : FVal → FVal
  | .nan => .nan
  | .inf n => .inf (!n)
  | .fin n m e => .fin (!n) m e

/-- A product, exact; the flag says whether it is invalid, 0 × ∞ (R100). -/
def mul : FVal → FVal → FVal × Bool
  | .nan, _ => (.nan, false)
  | _, .nan => (.nan, false)
  | .inf a, .inf b => (.inf (a != b), false)
  | .inf a, .fin b m _ => if m == 0 then (.nan, true) else (.inf (a != b), false)
  | .fin a m _, .inf b => if m == 0 then (.nan, true) else (.inf (a != b), false)
  | .fin a m e, .fin b m' e' => (.fin (a != b) (m * m') (e + e'), false)

/-- The signed mantissa of a finite value in units of 2^q, q not above its exponent. -/
def scaled (n : Bool) (m : Nat) (e q : Int) : Int :=
  let v : Int := m * 2 ^ (e - q).toNat
  if n then -v else v

/-- The exact sum of two finite values; a zero sum takes its sign by R101. -/
def addFin (rm : RMode) (n : Bool) (m : Nat) (e : Int) (n' : Bool) (m' : Nat) (e' : Int) : FVal :=
  let q := min e e'
  let s := scaled n m e q + scaled n' m' e' q
  if s == 0 then .fin (if n == n' then n else rm == .rdn) 0 q
  else .fin (decide (s < 0)) s.natAbs q

/-- A sum, exact; the flag says whether it is invalid, ∞ − ∞ (R100). -/
def add (rm : RMode) : FVal → FVal → FVal × Bool
  | .nan, _ => (.nan, false)
  | _, .nan => (.nan, false)
  | .inf a, .inf b => if a == b then (.inf a, false) else (.nan, true)
  | .inf a, .fin _ _ _ => (.inf a, false)
  | .fin _ _ _, .inf b => (.inf b, false)
  | .fin a m e, .fin b m' e' => (addFin rm a m e b m' e', false)

/-- a < b; false with a NaN; −0 equals +0 (R146, R155). -/
def lt : FVal → FVal → Bool
  | .nan, _ => false
  | _, .nan => false
  | .inf a, .inf b => a && !b
  | .inf a, .fin _ _ _ => a
  | .fin _ _ _, .inf b => !b
  | .fin a m e, .fin b m' e' =>
    let q := min e e'
    decide (scaled a m e q < scaled b m' e' q)

/-- a == b; false with a NaN; −0 equals +0 (R146, R155). -/
def eq : FVal → FVal → Bool
  | .nan, _ => false
  | _, .nan => false
  | .inf a, .inf b => a == b
  | .inf _, .fin _ _ _ => false
  | .fin _ _ _, .inf _ => false
  | .fin a m e, .fin b m' e' =>
    let q := min e e'
    decide (scaled a m e q = scaled b m' e' q)

/-- a is below b when −0 counts as below +0 (R146, R154). -/
def below (a b : FVal) : Bool := a.lt b || (a.eq b && a.isNeg && !b.isNeg)

/-- An integer as a value. -/
def ofInt (x : Int) : FVal := .fin (decide (x < 0)) x.natAbs 0

/-- The square root in enough bits for a correct rounding: the last bit of the mantissa is sticky. -/
def sqrtPos (m : Nat) (e : Int) : FVal :=
  let odd : Nat := (e % 2).toNat
  let m' := m * 2 ^ (64 + odd)
  let r := Nat.sqrt m'
  .fin false (2 * r + (if r * r == m' then 0 else 1)) ((e - odd - 64) / 2 - 1)

/-- A quotient of positive mantissas in enough bits for a correct rounding, sticky at the last bit. -/
def quot (n : Bool) (m : Nat) (e : Int) (m' : Nat) (e' : Int) : FVal :=
  let a := m * 2 ^ 64
  .fin n (2 * (a / m') + (if a % m' == 0 then 0 else 1)) (e - e' - 65)

end FVal

/-- A value converted to a two's-complement integer of `w` bits: rounded, then saturated (R103). -/
def toIntSat (w : Nat) (rm : RMode) : FVal → Int × FlagSet
  | .nan => (0, flagNV)
  | .inf neg => (if neg then -(2 ^ (w - 1)) else 2 ^ (w - 1) - 1, flagNV)
  | .fin neg m e =>
    let (q, ix) := toQuantum rm neg m e 0
    let v : Int := if neg then -(q : Int) else q
    if v < -(2 ^ (w - 1)) then (-(2 ^ (w - 1)), flagNV)
    else if 2 ^ (w - 1) - 1 < v then (2 ^ (w - 1) - 1, flagNV)
    else (v, if ix then flagNX else 0)

/-- The value of an E3M5 scale byte; none for its NaN (R98). -/
def e3m5 (c : Nat) : Option (Nat × Int) :=
  if c == 0xFF then none
  else if c / 32 == 0 then some (c, -7)
  else some (32 + c % 32, (c / 32 : Nat) - 8)

/-- m × 2^e ≤ m' × 2^e'. -/
def dyadicLe (m : Nat) (e : Int) (m' : Nat) (e' : Int) : Bool :=
  let q := min e e'
  decide (m * 2 ^ (e - q).toNat ≤ m' * 2 ^ (e' - q).toNat)

/-- The smallest E3M5 code from 0x01 on whose value is at least amax / 6; none when amax / 6 is above 31 (R112). -/
def quantScale (m : Nat) (e : Int) : Option Nat :=
  (List.range 254).findSome? fun i =>
    match e3m5 (i + 1) with
    | some (ms, es) => if dyadicLe m e (6 * ms) es then some (i + 1) else none
    | none => none

/-- The vector type's float format; none for i32 (R30). -/
def vfmt : VType → Option FloatFmt
  | .f32 => some fp32
  | .i32 => none
  | .f16 => some fp16
  | .bf16 => some bf16

end Sys2Proof.Machine
end

