-- ==== Sys2Proof/Syntax.lean ====
section
/-! DEFINITION. The instructions and events of the MB-GX2: one constructor for each row of the table of
operations and events (spec/opcode_table.json). A slot operation carries, for a pair of slots that
share an opcode space, which of the two it stands in (`u`: false SA or VX, true SB or VY), then its guard, then
its fields from high bits to low (R31 to R37). An event carries what identifies it. -/

namespace Sys2Proof

inductive Instr
  /-- BODY_PUBLISH (R346). penim-x completes a translated body and publishes it by an atomic switch of its stub. -/
  | bodyPublish (sp : Space) (stub : Nat) (body : List Byte)
  /-- BR (R122). Branches PC-relative after one delay bundle when its guard is true. -/
  | br (g : Guard) (off : BitVec 24)
  /-- BRI (R122). Branches to the address in sA after one delay bundle, raising ALIGNMENT if unaligned. -/
  | bri (g : Guard) (a : BitVec 6)
  /-- CALL (R122). Branches PC-relative after one delay bundle and writes the return address to s62. -/
  | call (g : Guard) (off : BitVec 24)
  /-- CALLI (R122). Branches to sA after one delay bundle and writes the return address to s62. -/
  | calli (g : Guard) (a : BitVec 6)
  /-- RET (R122). Transfers to s62 after one delay bundle. -/
  | ret (g : Guard)
  /-- LOOP (R125). Starts a zero-overhead loop on a level with an immediate count. -/
  | loop (g : Guard) (lc : BitVec 2) (body : BitVec 12) (count : BitVec 20)
  /-- LOOPR (R125). Starts a loop with its count, and an epilogue count on level 3, taken from sA. -/
  | loopr (g : Guard) (lc : BitVec 2) (body : BitVec 12) (a : BitVec 6)
  /-- LBRK (R127). Ends the loop of a level and the levels activated after it, continuing at its exit. -/
  | lbrk (g : Guard) (lc : BitVec 2)
  /-- MARK (R136). Computes the drift of on-core clocks against an expected cycle, for logging and interlock tracing. -/
  | mark (g : Guard) (ex : BitVec 32)
  /-- TRAP (R137). Raises SOFTWARE_TRAP with a 16-bit immediate, or enters the trap handler if one is enabled. -/
  | trap (g : Guard) (imm : BitVec 16)
  /-- YIELD (R132). Ends the task's run on the core after a drain and suspends it, Ready at once. -/
  | yield (g : Guard)
  /-- COMMIT (R132). Drains, commits the task's version, and suspends it. -/
  | commit (g : Guard)
  /-- ENDT (R132). Drains, checks for live handles, commits the version and ends the task. -/
  | endt (g : Guard)
  /-- WAITC (R133). Inserts n ticking stall cycles after its bundle. -/
  | waitc (g : Guard) (n : BitVec 16)
  /-- CBAR (R134). Freezes the member until all four gang members reach the barrier and their scratchpad writes are performed. -/
  | cbar (g : Guard)
  /-- TRAPRET (R371). Clears ACTIVE and transfers to s60 after one delay bundle. -/
  | trapret (g : Guard)
  /-- IDLE (R372). Gives the core up without ending the task until another task, a stop, or a timeout. -/
  | idle (g : Guard)
  /-- ADD (R141). Writes sA + sB modulo 2^64. -/
  | add (u : Bool) (g : Guard) (d : BitVec 6) (a : BitVec 6) (b : BitVec 6)
  /-- SUB (R141). Writes sA - sB modulo 2^64. -/
  | sub (u : Bool) (g : Guard) (d : BitVec 6) (a : BitVec 6) (b : BitVec 6)
  /-- ADDI (R141). Adds a sign-extended 22-bit immediate to sA. -/
  | addi (u : Bool) (g : Guard) (d : BitVec 6) (a : BitVec 6) (imm : BitVec 22)
  /-- MUL (R141). Writes the low 64 bits of the product. -/
  | mul (u : Bool) (g : Guard) (d : BitVec 6) (a : BitVec 6) (b : BitVec 6)
  /-- MULH (R141). Writes the high 64 bits of the signed product. -/
  | mulh (u : Bool) (g : Guard) (d : BitVec 6) (a : BitVec 6) (b : BitVec 6)
  /-- MULHU (R141). Writes the high 64 bits of the unsigned product. -/
  | mulhu (u : Bool) (g : Guard) (d : BitVec 6) (a : BitVec 6) (b : BitVec 6)
  /-- AND (R141). Writes the bitwise AND. -/
  | and (u : Bool) (g : Guard) (d : BitVec 6) (a : BitVec 6) (b : BitVec 6)
  /-- OR (R141). Writes the bitwise OR. -/
  | or (u : Bool) (g : Guard) (d : BitVec 6) (a : BitVec 6) (b : BitVec 6)
  /-- XOR (R141). Writes the bitwise XOR. -/
  | xor (u : Bool) (g : Guard) (d : BitVec 6) (a : BitVec 6) (b : BitVec 6)
  /-- ANDN (R141). Writes sA AND NOT sB. -/
  | andn (u : Bool) (g : Guard) (d : BitVec 6) (a : BitVec 6) (b : BitVec 6)
  /-- SHL (R142). Shifts left by sB, giving 0 for counts of 64 or more. -/
  | shl (u : Bool) (g : Guard) (d : BitVec 6) (a : BitVec 6) (b : BitVec 6)
  /-- SHR (R142). Shifts right logically by sB. -/
  | shr (u : Bool) (g : Guard) (d : BitVec 6) (a : BitVec 6) (b : BitVec 6)
  /-- SAR (R142). Shifts right arithmetically by sB. -/
  | sar (u : Bool) (g : Guard) (d : BitVec 6) (a : BitVec 6) (b : BitVec 6)
  /-- SHLI (R142). Shifts left by an immediate count. -/
  | shli (u : Bool) (g : Guard) (d : BitVec 6) (a : BitVec 6) (n : BitVec 6)
  /-- SHRI (R142). Shifts right logically by an immediate count. -/
  | shri (u : Bool) (g : Guard) (d : BitVec 6) (a : BitVec 6) (n : BitVec 6)
  /-- SARI (R142). Shifts right arithmetically by an immediate count. -/
  | sari (u : Bool) (g : Guard) (d : BitVec 6) (a : BitVec 6) (n : BitVec 6)
  /-- MIN (R141). Writes the signed minimum. -/
  | min (u : Bool) (g : Guard) (d : BitVec 6) (a : BitVec 6) (b : BitVec 6)
  /-- MAX (R141). Writes the signed maximum. -/
  | max (u : Bool) (g : Guard) (d : BitVec 6) (a : BitVec 6) (b : BitVec 6)
  /-- MINU (R141). Writes the unsigned minimum. -/
  | minu (u : Bool) (g : Guard) (d : BitVec 6) (a : BitVec 6) (b : BitVec 6)
  /-- MAXU (R141). Writes the unsigned maximum. -/
  | maxu (u : Bool) (g : Guard) (d : BitVec 6) (a : BitVec 6) (b : BitVec 6)
  /-- CLZ (R141). Counts leading zero bits. -/
  | clz (u : Bool) (g : Guard) (d : BitVec 6) (a : BitVec 6)
  /-- POPC (R141). Counts one bits. -/
  | popc (u : Bool) (g : Guard) (d : BitVec 6) (a : BitVec 6)
  /-- MOVI (R143). Writes a sign-extended 28-bit immediate. -/
  | movi (u : Bool) (g : Guard) (d : BitVec 6) (imm : BitVec 28)
  /-- MOVHI (R143). Shifts sD left by 28 and ORs in a 28-bit immediate. -/
  | movhi (u : Bool) (g : Guard) (d : BitVec 6) (imm : BitVec 28)
  /-- SHADD (R141). Writes (sA << SH) + sB. -/
  | shadd (u : Bool) (g : Guard) (d : BitVec 6) (a : BitVec 6) (b : BitVec 6) (sh : BitVec 3)
  /-- SEL (R141). Selects sA or sB by bit 0 of a predicate. -/
  | sel (u : Bool) (g : Guard) (d : BitVec 6) (a : BitVec 6) (b : BitVec 6) (ps : BitVec 5)
  /-- EXTU (R141). Extracts and zero-extends a bit field. -/
  | extu (u : Bool) (g : Guard) (d : BitVec 6) (a : BitVec 6) (hi : BitVec 6) (lo : BitVec 6)
  /-- CMPEQ (R144). Sets a predicate to all ones if sA equals sB. -/
  | cmpeq (u : Bool) (g : Guard) (pd : BitVec 5) (a : BitVec 6) (b : BitVec 6)
  /-- CMPNE (R144). Sets a predicate if sA differs from sB. -/
  | cmpne (u : Bool) (g : Guard) (pd : BitVec 5) (a : BitVec 6) (b : BitVec 6)
  /-- CMPLT (R144). Sets a predicate on signed less-than. -/
  | cmplt (u : Bool) (g : Guard) (pd : BitVec 5) (a : BitVec 6) (b : BitVec 6)
  /-- CMPLE (R144). Sets a predicate on signed less-or-equal. -/
  | cmple (u : Bool) (g : Guard) (pd : BitVec 5) (a : BitVec 6) (b : BitVec 6)
  /-- CMPLTU (R144). Sets a predicate on unsigned less-than. -/
  | cmpltu (u : Bool) (g : Guard) (pd : BitVec 5) (a : BitVec 6) (b : BitVec 6)
  /-- CMPLEU (R144). Sets a predicate on unsigned less-or-equal. -/
  | cmpleu (u : Bool) (g : Guard) (pd : BitVec 5) (a : BitVec 6) (b : BitVec 6)
  /-- CMPEQI (R144). Sets a predicate if sA equals a sign-extended immediate. -/
  | cmpeqi (u : Bool) (g : Guard) (pd : BitVec 5) (a : BitVec 6) (imm : BitVec 22)
  /-- CMPLTI (R144). Sets a predicate if sA is signed-less than an immediate. -/
  | cmplti (u : Bool) (g : Guard) (pd : BitVec 5) (a : BitVec 6) (imm : BitVec 22)
  /-- PAND (R145). Writes the AND of two predicates. -/
  | pand (u : Bool) (g : Guard) (pd : BitVec 5) (pa : BitVec 5) (pb : BitVec 5)
  /-- POR (R145). Writes the OR of two predicates. -/
  | por (u : Bool) (g : Guard) (pd : BitVec 5) (pa : BitVec 5) (pb : BitVec 5)
  /-- PXOR (R145). Writes the XOR of two predicates. -/
  | pxor (u : Bool) (g : Guard) (pd : BitVec 5) (pa : BitVec 5) (pb : BitVec 5)
  /-- PANDN (R145). Writes pA AND NOT pB. -/
  | pandn (u : Bool) (g : Guard) (pd : BitVec 5) (pa : BitVec 5) (pb : BitVec 5)
  /-- PNOT (R145). Writes the complement of a predicate. -/
  | pnot (u : Bool) (g : Guard) (pd : BitVec 5) (pa : BitVec 5)
  /-- PMOV (R145). Copies a predicate. -/
  | pmov (u : Bool) (g : Guard) (pd : BitVec 5) (pa : BitVec 5)
  /-- PSETN (R145). Sets the low min(sA,1024) predicate bits. -/
  | psetn (u : Bool) (g : Guard) (pd : BitVec 5) (a : BitVec 6)
  /-- PANY (R145). Writes all ones if any bit of pA AND pB is set. -/
  | pany (u : Bool) (g : Guard) (pd : BitVec 5) (pa : BitVec 5) (pb : BitVec 5)
  /-- PALL (R145). Writes all ones if every bit of pB is set in pA. -/
  | pall (u : Bool) (g : Guard) (pd : BitVec 5) (pa : BitVec 5) (pb : BitVec 5)
  /-- FADD (R146). Adds two binary32 values with one rounding. -/
  | fadd (u : Bool) (g : Guard) (d : BitVec 6) (a : BitVec 6) (b : BitVec 6)
  /-- FSUB (R146). Subtracts two binary32 values. -/
  | fsub (u : Bool) (g : Guard) (d : BitVec 6) (a : BitVec 6) (b : BitVec 6)
  /-- FMUL (R146). Multiplies two binary32 values. -/
  | fmul (u : Bool) (g : Guard) (d : BitVec 6) (a : BitVec 6) (b : BitVec 6)
  /-- FFMA (R146). Computes a*b+c in binary32 with one rounding. -/
  | ffma (u : Bool) (g : Guard) (d : BitVec 6) (a : BitVec 6) (b : BitVec 6) (c : BitVec 6)
  /-- FMIN (R146). Writes the lesser binary32 operand. -/
  | fmin (u : Bool) (g : Guard) (d : BitVec 6) (a : BitVec 6) (b : BitVec 6)
  /-- FMAX (R146). Writes the greater binary32 operand. -/
  | fmax (u : Bool) (g : Guard) (d : BitVec 6) (a : BitVec 6) (b : BitVec 6)
  /-- FCMPLT (R146). Sets a predicate on binary32 less-than. -/
  | fcmplt (u : Bool) (g : Guard) (pd : BitVec 5) (a : BitVec 6) (b : BitVec 6)
  /-- FCMPEQ (R146). Sets a predicate on binary32 equality. -/
  | fcmpeq (u : Bool) (g : Guard) (pd : BitVec 5) (a : BitVec 6) (b : BitVec 6)
  /-- FCVTFI (R146). Converts binary32 to saturated INT32. -/
  | fcvtfi (u : Bool) (g : Guard) (d : BitVec 6) (a : BitVec 6)
  /-- FCVTIF (R146). Converts a signed 64-bit integer to binary32. -/
  | fcvtif (u : Bool) (g : Guard) (d : BitVec 6) (a : BitVec 6)
  /-- RDSYS (R147). Samples a special register and writes it to sD at +2. -/
  | rdsys (u : Bool) (g : Guard) (d : BitVec 6) (idx : BitVec 8)
  /-- WRSYS (R148). Writes a special register, effective from the next bundle. -/
  | wrsys (u : Bool) (g : Guard) (a : BitVec 6) (idx : BitVec 8)
  /-- RDDST (R149). Samples the drain-status file into a predicate at +8. -/
  | rddst (u : Bool) (g : Guard) (pd : BitVec 5)
  /-- VADD (R154). Adds two vectors lane by lane. -/
  | vadd (u : Bool) (g : Guard) (d : BitVec 8) (a : BitVec 8) (b : BitVec 8) (t : VType)
  /-- VSUB (R154). Subtracts two vectors lane by lane. -/
  | vsub (u : Bool) (g : Guard) (d : BitVec 8) (a : BitVec 8) (b : BitVec 8) (t : VType)
  /-- VMUL (R154). Multiplies two vectors lane by lane. -/
  | vmul (u : Bool) (g : Guard) (d : BitVec 8) (a : BitVec 8) (b : BitVec 8) (t : VType)
  /-- VFMA (R154). Computes a*b+c per lane with one rounding. -/
  | vfma (u : Bool) (g : Guard) (d : BitVec 8) (a : BitVec 8) (b : BitVec 8) (t : VType) (c : BitVec 8)
  /-- VFMS (R154). Computes a*b-c per lane with one rounding. -/
  | vfms (u : Bool) (g : Guard) (d : BitVec 8) (a : BitVec 8) (b : BitVec 8) (t : VType) (c : BitVec 8)
  /-- VMIN (R154). Writes the lesser lane. -/
  | vmin (u : Bool) (g : Guard) (d : BitVec 8) (a : BitVec 8) (b : BitVec 8) (t : VType)
  /-- VMAX (R154). Writes the greater lane. -/
  | vmax (u : Bool) (g : Guard) (d : BitVec 8) (a : BitVec 8) (b : BitVec 8) (t : VType)
  /-- VABS (R154). Writes the absolute value of each lane. -/
  | vabs (u : Bool) (g : Guard) (d : BitVec 8) (a : BitVec 8) (t : VType)
  /-- VNEG (R154). Negates each lane. -/
  | vneg (u : Bool) (g : Guard) (d : BitVec 8) (a : BitVec 8) (t : VType)
  /-- VAND (R154). Bitwise AND of two rows. -/
  | vand (u : Bool) (g : Guard) (d : BitVec 8) (a : BitVec 8) (b : BitVec 8) (t : VType)
  /-- VOR (R154). Bitwise OR of two rows. -/
  | vor (u : Bool) (g : Guard) (d : BitVec 8) (a : BitVec 8) (b : BitVec 8) (t : VType)
  /-- VXOR (R154). Bitwise XOR of two rows. -/
  | vxor (u : Bool) (g : Guard) (d : BitVec 8) (a : BitVec 8) (b : BitVec 8) (t : VType)
  /-- VSHL (R154). Shifts i32 lanes left. -/
  | vshl (u : Bool) (g : Guard) (d : BitVec 8) (a : BitVec 8) (b : BitVec 8) (t : VType)
  /-- VSHR (R154). Shifts i32 lanes right logically. -/
  | vshr (u : Bool) (g : Guard) (d : BitVec 8) (a : BitVec 8) (b : BitVec 8) (t : VType)
  /-- VSAR (R154). Shifts i32 lanes right arithmetically. -/
  | vsar (u : Bool) (g : Guard) (d : BitVec 8) (a : BitVec 8) (b : BitVec 8) (t : VType)
  /-- VCMPEQ (R155). Writes a per-lane equality predicate. -/
  | vcmpeq (u : Bool) (g : Guard) (pd : BitVec 5) (a : BitVec 8) (b : BitVec 8) (t : VType)
  /-- VCMPLT (R155). Writes a per-lane less-than predicate. -/
  | vcmplt (u : Bool) (g : Guard) (pd : BitVec 5) (a : BitVec 8) (b : BitVec 8) (t : VType)
  /-- VCMPLE (R155). Writes a per-lane less-or-equal predicate. -/
  | vcmple (u : Bool) (g : Guard) (pd : BitVec 5) (a : BitVec 8) (b : BitVec 8) (t : VType)
  /-- VSEL (R155). Selects lanes of vA or vB by a predicate. -/
  | vsel (u : Bool) (g : Guard) (d : BitVec 8) (a : BitVec 8) (b : BitVec 8) (t : VType) (ps : BitVec 5)
  /-- VMOV (R156). Copies a row. -/
  | vmov (u : Bool) (g : Guard) (d : BitVec 8) (a : BitVec 8) (t : VType)
  /-- VBCAST (R156). Broadcasts scalar bits into every lane. -/
  | vbcast (u : Bool) (g : Guard) (d : BitVec 8) (t : VType) (ss : BitVec 6)
  /-- VIOTA (R156). Writes each lane's index in type T. -/
  | viota (u : Bool) (g : Guard) (d : BitVec 8) (t : VType)
  /-- VLSH (R158). Shifts lanes by a signed scalar count, filling with zero. -/
  | vlsh (u : Bool) (g : Guard) (d : BitVec 8) (a : BitVec 8) (t : VType) (ss : BitVec 6)
  /-- VLSHD (R158). Shifts lanes across the concatenation of two rows. -/
  | vlshd (u : Bool) (g : Guard) (d : BitVec 8) (a : BitVec 8) (b : BitVec 8) (t : VType) (ss : BitVec 6)
  /-- VPERM (R158). Permutes lanes by an index vector. -/
  | vperm (u : Bool) (g : Guard) (d : BitVec 8) (a : BitVec 8) (b : BitVec 8) (t : VType)
  /-- VEXT (R157). Extracts one lane to a scalar register. -/
  | vext (u : Bool) (g : Guard) (sd : BitVec 6) (a : BitVec 8) (si : BitVec 6) (t : VType)
  /-- VINS (R157). Inserts scalar bits into one lane. -/
  | vins (u : Bool) (g : Guard) (d : BitVec 8) (sv : BitVec 6) (si : BitVec 6) (t : VType)
  /-- VREDADD (R159). Sums guard-true lanes by a fixed tree. -/
  | vredadd (u : Bool) (g : Guard) (d : BitVec 8) (a : BitVec 8) (t : VType)
  /-- VREDMAX (R159). Reduces guard-true lanes to their maximum. -/
  | vredmax (u : Bool) (g : Guard) (d : BitVec 8) (a : BitVec 8) (t : VType)
  /-- VREDMIN (R159). Reduces guard-true lanes to their minimum. -/
  | vredmin (u : Bool) (g : Guard) (d : BitVec 8) (a : BitVec 8) (t : VType)
  /-- VSCAN (R160). Writes the inclusive running sum from lane 0. -/
  | vscan (u : Bool) (g : Guard) (d : BitVec 8) (a : BitVec 8) (t : VType)
  /-- VCVT (R161). Converts each lane between types. -/
  | vcvt (u : Bool) (g : Guard) (d : BitVec 8) (a : BitVec 8) (t : VType) (td : VType)
  /-- VPACK (R161). Narrows two 32-bit rows into one 16-bit row. -/
  | vpack (u : Bool) (g : Guard) (d : BitVec 8) (a : BitVec 8) (b : BitVec 8) (t : VType) (td : VType)
  /-- VUNPK (R161). Widens half of a 16-bit row to 32-bit lanes. -/
  | vunpk (u : Bool) (g : Guard) (d : BitVec 8) (a : BitVec 8) (t : VType) (td : VType) (h : Bool)
  /-- VEXP2 (R162). Computes 2^a per lane. -/
  | vexp2 (u : Bool) (g : Guard) (d : BitVec 8) (a : BitVec 8) (t : VType)
  /-- VLOG2 (R162). Computes log2 a per lane. -/
  | vlog2 (u : Bool) (g : Guard) (d : BitVec 8) (a : BitVec 8) (t : VType)
  /-- VRCP (R162). Computes 1/a per lane. -/
  | vrcp (u : Bool) (g : Guard) (d : BitVec 8) (a : BitVec 8) (t : VType)
  /-- VRSQ (R162). Computes 1/sqrt a per lane. -/
  | vrsq (u : Bool) (g : Guard) (d : BitVec 8) (a : BitVec 8) (t : VType)
  /-- VSQRT (R162). Computes the correctly rounded square root per lane. -/
  | vsqrt (u : Bool) (g : Guard) (d : BitVec 8) (a : BitVec 8) (t : VType)
  /-- VTANH (R162). Computes tanh a per lane. -/
  | vtanh (u : Bool) (g : Guard) (d : BitVec 8) (a : BitVec 8) (t : VType)
  /-- VQUANT (R165). Quantises blocks of eight lanes to E3M5 scales and E2M1 codes, Steel only. -/
  | vquant (u : Bool) (g : Guard) (d : BitVec 8) (a : BitVec 8) (t : VType)
  /-- VDEQ (R166). Dequantises E2M1 blocks back to lanes of type T. -/
  | vdeq (u : Bool) (g : Guard) (d : BitVec 8) (a : BitVec 8) (t : VType)
  /-- MPUSH (R171). Pops a weight row from a queue into a SHADOW plane row. -/
  | mpush (g : Guard) (q : BitVec 2) (krow : BitVec 9)
  /-- MSEL (R172). Swaps the ACTIVE and SHADOW planes. -/
  | msel (g : Guard)
  /-- MSHIFT (R174). Advances the window delay D. -/
  | mshift (g : Guard) (ks : BitVec 9)
  /-- MACC (R175). Pops an A row and accumulates one beat into an accumulator row at +13. -/
  | macc (g : Guard) (acc : BitVec 12) (q : BitVec 2) (fc : ElemFmt) (push : Option (BitVec 2 × BitVec 9))
  /-- MACCZ (R175). Runs one beat onto a zero base and writes the row at +13. -/
  | maccz (g : Guard) (acc : BitVec 12) (q : BitVec 2) (fc : ElemFmt) (push : Option (BitVec 2 × BitVec 9))
  /-- MACCS (R176). Runs a 2:4 structured-sparse E4M3 beat, Steel only. -/
  | maccs (g : Guard) (acc : BitVec 12) (q : BitVec 2) (push : Option (BitVec 2 × BitVec 9))
  /-- MDRAIN (R180). Converts an accumulator row and writes it to scratchpad at +5, updating DSTAT. -/
  | mdrain (g : Guard) (acc : BitVec 12) (df : DrainFmt) (sb : BitVec 6) (off : BitVec 13)
  /-- MDRAINZ (R180). Drains an accumulator row and zeroes it. -/
  | mdrainz (g : Guard) (acc : BitVec 12) (df : DrainFmt) (sb : BitVec 6) (off : BitVec 13)
  /-- MZERO (R182). Writes zero to an accumulator row. -/
  | mzero (g : Guard) (acc : BitVec 12)
  /-- LDV (R195). Loads a 2,048-byte row from scratchpad. -/
  | ldv (g : Guard) (v : BitVec 8) (b : BitVec 4) (off : BitVec 22)
  /-- STV (R195). Stores a row to scratchpad. -/
  | stv (g : Guard) (v : BitVec 8) (b : BitVec 4) (off : BitVec 22)
  /-- LDS (R195). Loads a zero-extended scalar from scratchpad. -/
  | lds (g : Guard) (d : BitVec 6) (w : Width) (b : BitVec 4) (off : BitVec 22)
  /-- STS (R195). Stores a scalar to scratchpad. -/
  | sts (g : Guard) (d : BitVec 6) (w : Width) (b : BitVec 4) (off : BitVec 22)
  /-- LDVX (R195). Gathers elements from scratchpad by an index vector. -/
  | ldvx (g : Guard) (v : BitVec 8) (x : BitVec 8) (b : BitVec 4) (w : Width) (off : BitVec 12)
  /-- STVX (R195). Scatters elements to scratchpad by an index vector. -/
  | stvx (g : Guard) (v : BitVec 8) (x : BitVec 8) (b : BitVec 4) (w : Width) (off : BitVec 12)
  /-- LDVB (R195). Loads 64 bytes broadcast to every 64-byte group of a row. -/
  | ldvb (g : Guard) (v : BitVec 8) (b : BitVec 4) (off : BitVec 22)
  /-- ATL_ADD (R196). Atomically adds to a scratchpad word and returns the old value. -/
  | atlAdd (g : Guard) (d : BitVec 6) (a : BitVec 6) (b : BitVec 6) (w8 : Bool) (off : BitVec 8)
  /-- ATL_MIN (R196). Atomic signed minimum on a scratchpad word. -/
  | atlMin (g : Guard) (d : BitVec 6) (a : BitVec 6) (b : BitVec 6) (w8 : Bool) (off : BitVec 8)
  /-- ATL_MAX (R196). Atomic signed maximum on a scratchpad word. -/
  | atlMax (g : Guard) (d : BitVec 6) (a : BitVec 6) (b : BitVec 6) (w8 : Bool) (off : BitVec 8)
  /-- ATL_AND (R196). Atomic AND on a scratchpad word. -/
  | atlAnd (g : Guard) (d : BitVec 6) (a : BitVec 6) (b : BitVec 6) (w8 : Bool) (off : BitVec 8)
  /-- ATL_OR (R196). Atomic OR on a scratchpad word. -/
  | atlOr (g : Guard) (d : BitVec 6) (a : BitVec 6) (b : BitVec 6) (w8 : Bool) (off : BitVec 8)
  /-- ATL_XCHG (R196). Atomic exchange on a scratchpad word. -/
  | atlXchg (g : Guard) (d : BitVec 6) (a : BitVec 6) (b : BitVec 6) (w8 : Bool) (off : BitVec 8)
  /-- ATL_CAS (R196). Atomic compare-and-swap on a scratchpad word. -/
  | atlCas (g : Guard) (d : BitVec 6) (a : BitVec 6) (c : BitVec 6) (b : BitVec 6) (w8 : Bool) (off : BitVec 8)
  /-- ATL_FADD (R196). Atomic f32 add on a scratchpad word. -/
  | atlFadd (g : Guard) (d : BitVec 6) (a : BitVec 6) (b : BitVec 6) (off : BitVec 8)
  /-- LDG (R279). Loads a scalar from global memory at a named cycle. -/
  | ldg (g : Guard) (d : BitVec 6) (b : BitVec 6) (w : Width) (cls : BitVec 4) (aq : Bool) (arv : BitVec 12)
  /-- LDGV (R279). Loads a 2,048-byte row from global memory at a named cycle. -/
  | ldgv (g : Guard) (v : BitVec 8) (b : BitVec 6) (cls : BitVec 4) (aq : Bool) (arv : BitVec 12)
  /-- STG (R279). Stores a scalar to global memory, versioned or direct by class. -/
  | stg (g : Guard) (d : BitVec 6) (b : BitVec 6) (w : Width) (cls : BitVec 4) (rl : Bool)
  /-- STGV (R279). Stores a row to global memory. -/
  | stgv (g : Guard) (v : BitVec 8) (b : BitVec 6) (cls : BitVec 4) (rl : Bool)
  /-- ATG_ADD (R281). Atomic add at the home. -/
  | atgAdd (g : Guard) (d : BitVec 6) (b : BitVec 6) (w8 : Bool) (cls : BitVec 4) (aq : Bool) (rl : Bool) (arv : BitVec 12)
  /-- ATG_FADD (R281). Atomic f32 add at the home. -/
  | atgFadd (g : Guard) (d : BitVec 6) (b : BitVec 6) (cls : BitVec 4) (aq : Bool) (rl : Bool) (arv : BitVec 12)
  /-- ATG_MIN (R281). Atomic signed minimum at the home. -/
  | atgMin (g : Guard) (d : BitVec 6) (b : BitVec 6) (w8 : Bool) (cls : BitVec 4) (aq : Bool) (rl : Bool) (arv : BitVec 12)
  /-- ATG_MAX (R281). Atomic signed maximum at the home. -/
  | atgMax (g : Guard) (d : BitVec 6) (b : BitVec 6) (w8 : Bool) (cls : BitVec 4) (aq : Bool) (rl : Bool) (arv : BitVec 12)
  /-- ATG_AND (R281). Atomic AND at the home. -/
  | atgAnd (g : Guard) (d : BitVec 6) (b : BitVec 6) (w8 : Bool) (cls : BitVec 4) (aq : Bool) (rl : Bool) (arv : BitVec 12)
  /-- ATG_OR (R281). Atomic OR at the home. -/
  | atgOr (g : Guard) (d : BitVec 6) (b : BitVec 6) (w8 : Bool) (cls : BitVec 4) (aq : Bool) (rl : Bool) (arv : BitVec 12)
  /-- ATG_XOR (R281). Atomic XOR at the home. -/
  | atgXor (g : Guard) (d : BitVec 6) (b : BitVec 6) (w8 : Bool) (cls : BitVec 4) (aq : Bool) (rl : Bool) (arv : BitVec 12)
  /-- ATG_XCHG (R281). Atomic exchange at the home. -/
  | atgXchg (g : Guard) (d : BitVec 6) (b : BitVec 6) (w8 : Bool) (cls : BitVec 4) (aq : Bool) (rl : Bool) (arv : BitVec 12)
  /-- ATG_CAS (R281). Atomic compare-and-swap at the home using an even register pair. -/
  | atgCas (g : Guard) (d : BitVec 6) (b : BitVec 6) (w8 : Bool) (cls : BitVec 4) (aq : Bool) (rl : Bool) (arv : BitVec 12)
  /-- ARRIVE (R284). Decrements a phase variable's count, advancing the phase when it runs out. -/
  | arrive (g : Guard) (a : BitVec 6) (b : BitVec 6) (cls : BitVec 4) (rl : Bool)
  /-- WAITV (R285). Waits until a variable meets a condition, freezing or suspending the task. -/
  | waitv (g : Guard) (a : BitVec 6) (b : BitVec 6) (susp : Bool) (cls : BitVec 4) (aq : Bool) (arv : BitVec 12)
  /-- WAITV_SATISFIED (R285). A write at the home makes a waiting condition hold, so the value lands or the suspended task becomes Ready. -/
  | waitvSatisfied (k : Nat)
  /-- CPY (R286). Appends a linear copy to an engine queue. -/
  | cpy (g : Guard) (q : BitVec 3) (d : BitVec 6) (sr : BitVec 6) (n : BitVec 6) (lc : BitVec 4) (cls : BitVec 4)
  /-- CPYO (R286). Appends a copy followed by an arrival on a variable. -/
  | cpyo (g : Guard) (q : BitVec 3) (d : BitVec 6) (sr : BitVec 6) (n : BitVec 6) (lc : BitVec 4) (cls : BitVec 4)
  /-- CPYT (R286). Appends a tensor copy of a box. -/
  | cpyt (g : Guard) (q : BitVec 3) (d : BitVec 6) (sr : BitVec 6) (n : BitVec 6) (lc : BitVec 4) (cls : BitVec 4)
  /-- CPYG (R290). Registers a copy descriptor in memory as a graph node. -/
  | cpyg (g : Guard) (q : BitVec 3) (sr : BitVec 6) (cls : BitVec 4)
  /-- FENCE (R256). Orders the named classes as an acquire, release or full fence. -/
  | fence (g : Guard) (kind : FenceKind) (cmask : BitVec 16)
  /-- QFENCE (R257). Joins the named engine queues with one fence entry. -/
  | qfence (g : Guard) (qmask : BitVec 8)
  /-- RFENCE (R296). Empties the shape-record cache. -/
  | rfence (g : Guard)
  /-- SPAWN (R311). Releases and registers a child task, passing named handles to it. -/
  | spawn (g : Guard) (a : BitVec 6) (b : BitVec 6) (hm : BitVec 16)
  /-- DEPEND (R312). Adds a dependence edge between two registered nodes. -/
  | depend (g : Guard) (a : BitVec 6) (b : BitVec 6)
  /-- SIGNAL (R313). Releases and decrements a node's predecessor count. -/
  | signal (g : Guard) (a : BitVec 6) (b : BitVec 6)
  /-- HSPLIT (R273). Splits a handle's box along one axis into two child handles. -/
  | hsplit (g : Guard) (h1 : BitVec 4) (h2 : BitVec 4) (h3 : BitVec 4) (ax : BitVec 3) (sp : BitVec 6)
  /-- HREJOIN (R306). Rejoins two sibling halves into their parent handle after their accesses drain. -/
  | hrejoin (g : Guard) (h1 : BitVec 4) (h2 : BitVec 4) (h3 : BitVec 4)
  /-- HMOV (R306). Moves a handle between registers. -/
  | hmov (g : Guard) (h1 : BitVec 4) (h2 : BitVec 4)
  /-- HPUT (R307). Deposits a handle in a sync-space mailbox. -/
  | hput (g : Guard) (h1 : BitVec 4) (sb : BitVec 6)
  /-- HTAKE (R307). Takes a handle from a mailbox, freezing or suspending while it is empty. -/
  | htake (g : Guard) (h1 : BitVec 4) (sa : BitVec 6) (sb : BitVec 6) (susp : Bool)
  /-- HANDLE_DEPOSIT_WAKE (R307). A deposit goes to the earliest waiting HTAKE, which resumes or becomes Ready. -/
  | handleDepositWake (pa : Nat)
  /-- HLD (R308). Copies rows of a handle's box into scratchpad. -/
  | hld (g : Guard) (h1 : BitVec 4) (sa : BitVec 6) (sb : BitVec 6)
  /-- HST (R308). Copies rows from scratchpad into a handle's box. -/
  | hst (g : Guard) (h1 : BitVec 4) (sa : BitVec 6) (sb : BitVec 6)
  /-- HINFO (R309). Waits for the handle's HLD and HST to finish and returns an axis's bounds. -/
  | hinfo (g : Guard) (h1 : BitVec 4) (ax : BitVec 3) (sa : BitVec 6)
  /-- TLBINV (R246). Invalidates TLB entries by page, tenant or partition. -/
  | tlbinv (g : Guard) (a : BitVec 6) (b : BitVec 6)
  /-- CACHEWB (R246). Writes back dirty lines of a range. -/
  | cachewb (g : Guard) (a : BitVec 6) (b : BitVec 6)
  /-- CACHEINV (R246). Writes back and invalidates lines of a range. -/
  | cacheinv (g : Guard) (a : BitVec 6) (b : BitVec 6)
  /-- TFA (R299). Starts a stream of A rows into a queue. -/
  | tfa (g : Guard) (q : BitVec 2) (t : BitVec 6) (c : BitVec 6) (arv : BitVec 12)
  /-- TFB (R299). Starts a stream of B rows into a queue. -/
  | tfb (g : Guard) (q : BitVec 2) (t : BitVec 6) (c : BitVec 6) (arv : BitVec 12)
  /-- TFH (R301). Starts a stream of rows through a handle's box. -/
  | tfh (g : Guard) (q : BitVec 2) (h : BitVec 4) (c : BitVec 6) (arv : BitVec 12)
  /-- TFX (R302). Cancels every stream of the named queues. -/
  | tfx (g : Guard) (qm : BitVec 4)
  /-- TF_ROW_ARRIVAL (R299). A fetched row enters its queue, ending a queue-empty freeze. -/
  | tfRowArrival (q : BitVec 2)
  /-- SETFMT (R184). Sets the A and B formats, scale mode and accumulator type from +4. -/
  | setfmt (g : Guard) (fa : ElemFmt) (fb : ElemFmt) (sm : ScaleMode) (ty : Bool)
  /-- LDSCT (R185). Loads a 16-entry scale table from scratchpad. -/
  | ldsct (g : Guard) (tb : Bool) (b : BitVec 4) (off : BitVec 22)
  /-- SETBAND (R186). Sets one band scale. -/
  | setband (g : Guard) (tb : Bool) (s : BitVec 6) (band : BitVec 6)
  /-- SETRND (R187). Sets the rounding mode from +4. -/
  | setrnd (g : Guard) (rm : RMode)
  /-- CLRFLG (R188). Clears sticky flags, DSTAT and FEREC. -/
  | clrflg (g : Guard) (sm : BitVec 10) (fe : Bool)
  /-- ENTRY_PERFORM (R252). The oldest class-FIFO entry performs its step at the home or in the version. -/
  | entryPerform (k : Nat)
  /-- COPY_PERFORM (R288). The head of an engine queue reads its source and writes its destination granule by granule, arriving if asked. -/
  | copyPerform (q : Nat)
  /-- QFENCE_LEAVE (R257). A QFENCE leaves all named queues once it heads every one. -/
  | qfenceLeave (q : BitVec 3)
  /-- COMMIT_LINE (R261). One line of a committing version enters its coherence order at the home. -/
  | commitLine (k : Nat)
  /-- PAGE_WALK (R238). A TLB miss completes a page walk and its merged requests proceed. -/
  | pageWalk (sp : Space) (va : BitVec 64)
  /-- PAGE_IN (R239). A control core serves XLATE_MISS by allocating or moving backing and marking the page present. -/
  | pageIn (sp : Space) (va : BitVec 64)
  /-- SHOOTDOWN (R241). A control core unmaps or moves a page through invalidation, drain, write-back and remap. -/
  | shootdown (sp : Space) (va : BitVec 64) (newPa : Option Nat)
  /-- PIN_DROP_TIMEOUT (R242). After a shootdown waits 10 µs, a ticking core gives up its pins on the page. -/
  | pinDropTimeout (q : BitVec 2)
  /-- NODE_FINISH (R219). A finished task or copy node decrements its successors' counts, making some Ready. -/
  | nodeFinish (k : Nat)
  /-- TASK_PLACE (R356). A free core takes the first placeable Ready task of its cluster's tenant. -/
  | taskPlace (core : Nat)
  /-- LAUNCH_COMPLETE (R224). When all nodes have finished and committed bytes performed, the completion record and message are sent. -/
  | launchComplete (l : Nat)
  /-- SLICE_END (R359). A cluster's slice ends, PASS is charged, and the next tenant is chosen. -/
  | sliceEnd (cl : Nat)
  /-- TSPAN_EXPIRY (R360). TSPAN after a slice end, the stop flag is set on every core still running the old tenant. -/
  | tspanExpiry (cl : Nat)
  /-- GRACE_EXPIRY (R362). GRACE after a stop request, any task still running is hard-stopped. -/
  | graceExpiry (cl : Nat)
  /-- TENANT_DRAINED (R359). The old tenant's last task leaves the cluster, the drain is charged, and the new slice begins. -/
  | tenantDrained (cl : Nat)
  /-- LAUNCH (R335). Reads the launch record, loads the code object, creates handles and registers root tasks. -/
  | launch (c : Cmd)
  /-- COPY (R328). Host command that runs one copy descriptor at system scope. -/
  | copy (c : Cmd)
  /-- WAITEVENT (R328). Host command that holds its queue until a variable meets a condition. -/
  | waitevent (c : Cmd)
  /-- SIGNALEVENT (R414). Host command that performs an ARRIVE with a count as a release at system scope. -/
  | signalevent (c : Cmd)
  /-- RESIZEACK (R364). Host acknowledgement of a RESIZE event that releases the partition's queues. -/
  | resizeack (c : Cmd)
  /-- MAP (R332). Host command that sets a mapping for one tenant. -/
  | map (c : Cmd)
  /-- UNMAP (R332). Host command that removes mappings by shootdown. -/
  | unmap (c : Cmd)
  /-- HOST_UET_WRITE (R415). A host's UET write reaches tenant memory through its mappings. -/
  | hostUetWrite (sp : Space) (va : BitVec 64) (bytes : List Byte) (tag : UetTag)
  /-- HOST_UET_READ (R415). A host's UET read reaches tenant memory through its mappings. -/
  | hostUetRead (sp : Space) (va : BitVec 64) (n : Nat) (tag : UetTag)
  /-- PEER_ARRIVAL (R348). A send from a peer's CPYO is performed as ARRIVE.rel at system scope. -/
  | peerArrival (sp : Space) (va : BitVec 64) (n : BitVec 24)
  /-- PARTCREATE (R353). Reserves, scrubs and keys a new hard partition. -/
  | partcreate (c : Cmd)
  /-- PARTRESIZE (R364). Changes a partition's clusters, ways and ring slots. -/
  | partresize (c : Cmd)
  /-- RESIZE_APPLY (R364). When no launch runs, leaving clusters are scrubbed, masks applied and a RESIZE event sent. -/
  | resizeApply (p : Nat)
  /-- PARTDESTROY (R352). Destroys a partition, scrubbing its resources and erasing its key. -/
  | partdestroy (c : Cmd)
  /-- VDEVCREATE (R352). Creates a disabled tenant. -/
  | vdevcreate (c : Cmd)
  /-- VDEVSET (R366). Enables or disables tenants and sets their tickets. -/
  | vdevset (c : Cmd)
  /-- TENANT_DISABLED (R366). A stopping tenant's tasks and energy records are saved and it becomes DISABLED. -/
  | tenantDisabled (sp : Space)
  /-- QUEUECREATE (R352). Creates a command queue with a watchdog interval. -/
  | queuecreate (c : Cmd)
  /-- QUEUEDESTROY (R352). Destroys an empty command queue. -/
  | queuedestroy (c : Cmd)
  /-- ENERGY (R368). Writes a tenant's per-core energy records and applies resets and writes. -/
  | energy (c : Cmd)
  /-- SUMMARY (R387). Sends segmented device, counter, partition, tenant, queue and repair records. -/
  | summary (c : Cmd)
  /-- ATTEST (R385). Writes a signed attestation report into a tenant's space. -/
  | attest (c : Cmd)
  /-- ALARMSET (R383). Raises the responses of the security-alarm sources. -/
  | alarmset (c : Cmd)
  /-- QUEUERESET (R383). Returns a queue from ERROR, optionally discarding its held commands. -/
  | queuereset (c : Cmd)
  /-- WATCHDOG_EXPIRY (R379). A queue's watchdog expires and its partition is drained and reset. -/
  | watchdogExpiry (p : Nat) (q : Nat)
  /-- ROW_SPARE (R382). An HBM4E row reaching four corrected errors is copied to a spare row. -/
  | rowSpare (stack : BitVec 3) (row : Nat)
  /-- PAGE_RETIRE (R382). A page in a bank without spares is moved and its old frame retired. -/
  | pageRetire (stack : BitVec 3) (sp : Space) (va : BitVec 64) (newPa : Nat)
  /-- DBGARM (R391). Arms or disarms a tenant for debugging with breakpoints and a dump area. -/
  | dbgarm (c : Cmd)
  /-- DBGSTOP (R390). Requests a debug stop of one or all running tasks of a tenant. -/
  | dbgstop (c : Cmd)
  /-- DEBUG_STOP (R392). The core freezes with nothing drained and appends a dump of the task. -/
  | debugStop (cause : BitVec 2)
  /-- DBGRESUME (R393). Re-injects a held task, optionally from an edited dump or for a number of steps. -/
  | dbgresume (c : Cmd)
  /-- TRACE (R398). Sets event records, sampling, MARK records and counter selections. -/
  | trace (c : Cmd)
  /-- COUNTERS (R397). Writes the partition's 32 counters at system scope. -/
  | counters (c : Cmd)
  /-- TRACE_HEAD_ADVANCE (R401). HEAD of the trace buffer advances as a system-scope release at least every 1,024 ticks. -/
  | traceHeadAdvance (sp : Space)
  /-- REPLAY (R402). Sets a partition's record, replay or Retriever mode. -/
  | replay (c : Cmd)
  /-- CHECKPOINT (R402). Every PERIOD ms the partition freezes and saves images and written pages to the log area. -/
  | checkpoint (p : Nat)
  /-- REPLAY_HALT (R403). A replay step with no matching log entry halts the partition. -/
  | replayHalt (p : Nat)
  /-- TILE_ACCESS_PERFORM (R308). The last row of an HLD or HST is performed at the tile's home, lowering OUTSTANDING of its lineage entry. -/
  | tileAccessPerform (k : Nat)
  /-- PEER_TIMEOUT (R348). A peer that does not answer within the queue's watchdog interval faults the launch with TIMEOUT naming the copy's bundle and slot 7. -/
  | peerTimeout (id : Nat)
  /-- RETRIEVER_INJECTION (R404). In Retriever replay mode a port injects a logged arrival, or emulates a peer's buffer-slot return, at its logged offset from the checkpoint. -/
  | retrieverInjection (p : Nat) (port : BitVec 4) (bytes : List Byte)
  /-- UNSUPPORTED_PACKET (R325). A packet using an unsupported part of Ultra Ethernet is dropped and counted. -/
  | unsupportedPacket (die : Bool) (cmdBit : Bool)
  /-- UNREGISTERED_SEND (R326). A send from an unregistered address is dropped and counted. -/
  | unregisteredSend (die : Bool)
  /-- PEER_ACK (R348). A peer's acknowledgement marks a system-scope copy write as performed. -/
  | peerAck (id : Nat)
  /-- ALARM (R386). A voltage, clock, temperature or tamper source fires and its LOG, STOP or ERASE response applies. -/
  | alarm (src : AlarmSource)
  /-- ECC_ERROR (R381). A storage error is corrected and counted or marks the data poisoned. -/
  | eccError (st : Storage) (addr : Nat) (fatal : Bool)
  /-- PATROL_SCRUB (R381). Patrol scrubbing reads and corrects every DRAM line every 24 hours. -/
  | patrolScrub (addr : Nat)
  /-- PEER_READ_RESPONSE (R348). The data of a UET read made for a system-scope copy from a REMOTE page arrives from the peer. -/
  | peerReadResponse (id : Nat) (bytes : List Byte)
  /-- LINK_LEVEL_RETRY (R325). A port performs a link-level retry, which is counted in counter 12 of the device summary. -/
  | linkLevelRetry (die : Bool)
  /-- BUFFER_SLOT_RETURN (R404). A peer returns a buffer slot under credit-based flow control, and in Retriever record mode it is logged with its time. -/
  | bufferSlotReturn (p : Nat) (port : BitVec 4)
  /-- BUNDLE_ISSUE (R69). Before each bundle issues, the core applies the decode, span, energy, operand, migration, wait and budget steps, then issues the bundle. -/
  | bundleIssue
  /-- ENERGY_STRETCH (R70). The governor freezes issue, shifting a 0-eu entry into the window each clock, until the window admits the bundle. -/
  | energyStretch
  /-- BUDGET_REFILL (R73). Every 1,024 reference ticks REFILL is added to the resident context's BUDGET, which can end a budget freeze. -/
  | budgetRefill
  /-- STATIC_CHARGE (R75). After every 1,024 resident core clocks STATIC is added to ECOUNT, saturating and setting SAT. -/
  | staticCharge
  /-- RESULT_LAND (R83). An operation's result is written at the end of cycle t+L-1, with collisions resolved by slot and issue order. -/
  | resultLand
  /-- LANDING (R88). A variable-latency request writes its destination at the end of its named cycle, freeing its landing entry. -/
  | landing
  /-- LATE_DATA_ARRIVAL (R89). Data arriving during a late-landing freeze lets the named cycle run and ends the freeze. -/
  | lateDataArrival
  /-- FETCH_ARRIVAL (R412). A bundle fetched into the instruction cache arrives, ending a fetch freeze. -/
  | fetchArrival
  /-- CODE_PAGE_LOAD (R343). The first fetch from a .text page loads it and checks its SHA-256 against the page-hash digest. -/
  | codePageLoad
  /-- NOP (R27). An all-zero control slot does nothing. -/
  | nop
  /-- TASK_DRAIN_END (R132). When every in-flight result of a suspending or ending task has landed, the task suspends, commits or ends. -/
  | taskDrainEnd
  /-- BARRIER_COMPLETE (R134). The gang barrier completes and all four members issue their next bundles in the same clock. -/
  | barrierComplete
  /-- IDLE_TIMEOUT (R372). After 65,536 reference ticks of idling, issue resumes at the next bundle. -/
  | idleTimeout
  /-- WAITV_BOUND_EXPIRY (R285). After 16,384 reference ticks of freeze, a non-suspending WAITV lands the current value. -/
  | waitvBoundExpiry
  /-- HTAKE_BOUND_EXPIRY (R307). A non-suspending HTAKE that gets no deposit within 16,384 ticks returns sA = 0. -/
  | htakeBoundExpiry
  /-- HANDLE_STEP (R274). A handle operation takes its step at the lineage entry once OUTSTANDING reaches 0. -/
  | handleStep
  /-- COMMIT_COMPLETE (R221). When every line of a commit has performed, the event that caused it takes its next step. -/
  | commitComplete
  /-- LAUNCH_FAULT (R225). A fault stops the launch's tasks, discards versions and writes a KIND 1 completion record. -/
  | launchFault
  /-- GANG_SUSPEND (R217). When all four gang members reach suspension points, the gang suspends as one. -/
  | gangSuspend
  /-- SOFT_STOP (R361). At a quiet back edge or safe point with STOP set, the task suspends with a KIND 1 image. -/
  | softStop
  /-- HARD_STOP (R362). The core freezes at a bundle boundary and dumps replay and landing state into a KIND 2 image. -/
  | hardStop
  /-- IMAGE_SPILL (R363). A new image moves the least recently written images to spill areas until it fits. -/
  | imageSpill
  /-- ALARM_CLEAR (R386). After the condition has been absent 1,000,000 ticks, STOPPED returns to READY. -/
  | alarmClear
  /-- POWER_ON (R389). The module boots, checks firmware, zeroes memories and enters READY. -/
  | powerOn
  /-- PC_SAMPLE (R396). At each multiple of 2^PERIOD ticks each core writes a SAMPLE record. -/
  | pcSample
  /-- FREEZE_RECORD (R395). While interlock tracing is armed, a freeze's end writes a FREEZE record. -/
  | freezeRecord
  deriving DecidableEq, Repr

end Sys2Proof
end

