-- ==== Sys2Proof/Machine/State.lean ====
section
/-! DEFINITION. The state of the module: every piece of state the manual gives it, as plain data.
A core (`Core`) holds the context of the task that runs on it (`Ctx`); `State` holds the core that
steps now, the other cores, memory, the ordering machine, and what the walkers, schedulers,
endpoints and control cores keep. -/

namespace Sys2Proof.Machine

/-- Why the machine stops with a fault. NO meaning of this model raises one: every trap of the
manual is a next state (R225, R377), so a stop of this kind would be safe and does not occur. -/
inductive Fault
  /-- The module does not execute (raised by nothing; safe). -/
  | halted
  deriving DecidableEq, Repr

/-- Why a step has no meaning. -/
inductive Refusal
  /-- The row of the table named `mnemonic` has no meaning yet (raised by arms of `exec` alone; safe). -/
  | notModelled (mnemonic : String)
  deriving DecidableEq, Repr

/-- The traps of R377. -/
inductive Trap
  | migrate | xlateMiss | versionAuto | preempt | debugStop
  | illegalOpcode | illegalEncoding | schedule | energyViolation | protection | xlateFault
  | alignment | movedHandle | emptyHandle | mismatchedRejoin | handleLeak | versionFull
  | codeIntegrity | uncorrectableData | softwareTrap | timeout | privilege | span | xAccess
  deriving DecidableEq, Repr

/-- A trap as a record names it: its code, its slot (0 to 9, or 0xFF), its bundle, the immediate of a
TRAP, and DETAIL (R338). -/
structure TrapRec where
  code   : Trap
  slot   : BitVec 8
  bundle : Word
  imm    : BitVec 16
  detail : BitVec 64
  deriving DecidableEq, Repr

/-- The key of a task: partition, launch, task id (R211). -/
structure TaskKey where
  part   : Nat
  launch : Nat
  task   : Nat
  deriving DecidableEq, Repr

/-! ### The context of a task -/

/-- The state of a handle register (R270). -/
inductive HState
  | empty | live | moved
  deriving DecidableEq, Repr

/-- A handle register (R268, R270). -/
structure HReg where
  val : BitVec 128
  st  : HState
  deriving DecidableEq, Repr

/-- One level of the loop unit (R124). -/
structure LoopLevel where
  start  : BitVec 58
  last   : BitVec 58
  lcnt   : BitVec 20
  ecnt   : BitVec 4
  active : Bool
  age    : BitVec 2
  deriving DecidableEq, Repr

/-- FMT (R104). -/
structure Fmt where
  fa : ElemFmt
  fb : ElemFmt
  sm : ScaleMode
  ty : Bool
  rm : RMode
  deriving DecidableEq, Repr

/-- FEREC0 and FEREC1 (R117). -/
structure FeRec where
  addr  : BitVec 58
  valid : Bool
  slot  : BitVec 4
  cyc   : BitVec 56
  flag  : BitVec 6
  deriving DecidableEq, Repr

/-- What one group of products contributes to a column of a beat (R109 to R111): a NaN, with whether a product was
invalid and which infinities stood beside it; an infinity; or an exact sum. -/
inductive ColSum
  | nan (invalid pinf ninf : Bool)
  | inf (neg : Bool)
  | num (neg : Bool) (m : Nat) (e : Int)
  deriving DecidableEq, Repr

/-- A beat in flight: its exact column sums (R95), how its base is read and its result rounded. -/
structure Beat where
  int   : Bool
  zero  : Bool
  rm    : RMode
  ftz   : Bool
  lost  : Bool
  cols  : List (List ColSum)
  deriving DecidableEq, Repr

/-- The atomics of the scratchpad and of the homes (R196, R281). -/
inductive AtomOp
  | add | min | max | and | or | xor | xchg | cas | fadd
  deriving DecidableEq, Repr

/-- Where a result lands (R95): a physical register, a row with the bits it writes, scratchpad bytes,
or a state of the core that changes after its operation. -/
inductive Wr
  | nothing
  | s (n : BitVec 6) (v : Word)
  | p (n : BitVec 5) (mask v : Pred)
  | row (n : BitVec 12) (mask v : Row)
  | beat (n : BitVec 12) (b : Beat)
  | dstat (g : BitVec 6) (nan inf : Bool)
  | spm (bytes : List (Nat × Byte))
  | atom (op : AtomOp) (a : Nat) (size : Nat) (x y : Word) (rm : RMode) (ftz : Bool) (d : BitVec 6)
  | h (n : BitVec 4) (r : HReg)
  | sys (idx : BitVec 8) (v : Word)
  | rrb (v : BitVec 6)
  | fmt (fa fb : ElemFmt) (sm : ScaleMode) (ty : Bool)
  | rnd (rm : RMode)
  | table (b : Bool) (v : List Byte)
  | band (b : Bool) (i : BitVec 6) (v : BitVec 16)
  | tfx (qm : BitVec 4)
  | rfence
  deriving DecidableEq, Repr

/-- A result in flight (R95): destination, slot, issue order, remaining cycles, its flags, and the
bundle and cycle that issued it (R117). -/
structure Result where
  wr    : Wr
  slot  : Nat
  order : Nat
  rem   : Nat
  flags : FlagSet
  pc    : BitVec 58
  cyc   : Word
  deriving DecidableEq, Repr

/-- The destination of a landing (R88). -/
inductive LDest
  | s (n : BitVec 6)
  | row (n : BitVec 12)
  | queue (q : BitVec 2)
  deriving DecidableEq, Repr

/-- What a landing waits for (R89, R285). -/
inductive LKind
  | load | wait (susp : Bool) | stream
  deriving DecidableEq, Repr

/-- An entry of the landing-slot table (R89, R95). -/
structure Landing where
  id    : Nat
  slot  : Nat
  order : Nat
  rem   : Nat
  dest  : LDest
  kind  : LKind
  data  : Option Row
  err   : Option Trap
  pc    : BitVec 58
  cyc   : Word
  deriving DecidableEq, Repr

/-- A tensor shape record as read (R293). -/
structure Tsr where
  addr   : Word
  rank   : Nat
  efmt   : ElemFmt
  smode  : ScaleMode
  sparse : Bool
  kaxis  : Nat
  pad    : BitVec 16
  base   : Word
  sbase  : Word
  ibase  : Word
  dims   : List Nat
  stride : List Int
  sstr   : List Int
  limLo  : List Int
  limHi  : List Int
  deriving DecidableEq, Repr

/-- A tile-fetch stream: its operation, record, box, rows that have arrived, rows popped, the number
of its landing entry, and its bundle (R297 to R303). -/
structure Stream where
  id      : Nat
  isB     : Bool
  recAddr : Word
  handle  : Option (BitVec 128)
  tsr     : Option Tsr
  box     : Box
  total   : Nat
  fetched : Nat
  popped  : Nat
  rows    : List Row
  rowErr  : Option Trap
  first   : Bool
  pinned  : Bool
  counted : Bool
  since   : Nat
  pc      : BitVec 58
  deriving DecidableEq, Repr

/-- The context of a task: what a save image carries (R77, R168, R211, R228). `badS` and `badRow` name the scalar registers
and the 64-bit accumulator words (256 to a row) that are poisoned (R381). `matrix`: a plane or an AR lane has been written since the task
started (R228). -/
structure Ctx where
  sregs       : Vector Word 64
  pregs       : Vector Pred 32
  acc         : List (Nat × Row)
  hregs       : Vector HReg 16
  loops       : Vector LoopLevel 4
  pc          : BitVec 58
  delayTarget : Option (BitVec 58)
  redirect    : Option (BitVec 58)
  spanCount   : Nat
  cycle       : Word
  vbase       : BitVec 12
  rrb         : BitVec 6
  chk         : Bool
  autoc       : Bool
  ftz         : Bool
  fmt         : Fmt
  flags       : Vector FlagSet 10
  ferec       : FeRec
  dstatNan    : BitVec 64
  dstatInf    : BitVec 64
  tableA      : Vector Byte 16
  tableB      : Vector Byte 16
  bandA       : Vector (BitVec 16) 64
  bandB       : Vector (BitVec 16) 8
  active      : List (Nat × Row)
  shadow      : List (Nat × Row)
  ar          : BitVec 32768
  matrix      : Bool
  window      : BitVec 9
  trapHandler : BitVec 58
  trapActive  : Bool
  trapEn      : Bool
  results     : List Result
  landings    : List Landing
  queues      : Vector (List Stream) 4
  order       : Nat
  started     : Bool
  driftClocks : BitVec 32
  prevDrift   : Option (BitVec 32)
  armed       : Bool
  badS        : List Nat
  badRow      : List Nat
  deriving DecidableEq, Repr

/-! ### Requests under way -/

/-- The task that a core runs, as R81 and R211 name it. -/
structure Running where
  key  : TaskKey
  vdev : Nat
  gang : Bool
  mem  : BitVec 2
  priv : Bool
  deriving DecidableEq, Repr

/-- A copy descriptor (R286), with the record of a tensor copy once its engine has read it, the address of a box block that is yet to be read,
the bytes that peers have answered for the unit under way, by their address (R348), and whether the version has been committed for that unit
(`room`, R223). -/
structure Copy where
  dst    : Word
  src    : Word
  len    : Nat
  cls    : BitVec 4
  arr    : Bool
  arrv   : Word
  tensor : Bool
  box    : Box
  sys    : Bool
  scope  : BitVec 3
  tsr    : Option Tsr
  boxVa  : Option Word
  got    : List (Nat × Byte)
  room   : Bool
  deriving DecidableEq, Repr

/-- What a class-FIFO entry does when it performs (R250, R252). -/
inductive EOp
  | load (size : Nat)
  | store (bytes : List Byte)
  | atom (op : AtomOp) (size : Nat) (a b : Word) (rm : RMode) (ftz : Bool)
  | arrive (n : BitVec 24)
  | wait (cond : Word)
  | copy (q : BitVec 3) (c : Copy)
  | copyNode (q : BitVec 3) (desc : Word)
  | fence (kind : FenceKind) (mask : BitVec 16)
  | spawn (pred : Word) (child : Word) (hm : BitVec 16) (vals : List (Nat × BitVec 128))
  | signal (count : BitVec 16) (node : Word)
  | depend (pred succ : Word)
  | qfence (mask : BitVec 8)
  | tlbinv (kind : BitVec 2)
  | cachewb (len : Word)
  | cacheinv (len : Word)
  deriving DecidableEq, Repr

/-- An entry of the class FIFOs: the classes it stands in, its address, scope and modifiers, its landing entry, its
task, the granules yet to perform and the bytes that those performed have read (for a WAITV the instant and the value with which a write
made its condition hold, for a CACHEINV the time from which it waits for pins), whether its first step is to come
(`fresh`), whether the version has been committed for its next granule (`done`, R223), its bundle, and the time of its core when it was made,
which orders the requests of a task that has changed its core (R250, R251, R258). QFENCE and DEPEND stand in no class. -/
structure Entry where
  id      : Nat
  classes : BitVec 16
  cls     : BitVec 4
  op      : EOp
  va      : Word
  scope   : BitVec 3
  acq     : Bool
  rel     : Bool
  landing : Option Nat
  owner   : Running
  left    : List Nat
  part    : List (Nat × List Byte)
  fresh   : Bool
  done    : Bool
  pc      : BitVec 58
  at_     : Nat
  deriving DecidableEq, Repr

/-- An entry of an engine queue (R257, R259, R290). -/
inductive QEntry
  | copy (c : Copy) (moved : Nat) (owner : Running) (pc : BitVec 58)
  | qfence (mask : BitVec 8) (id : Nat)
  | node (desc : Word) (owner : Running) (pc : BitVec 58)
  deriving DecidableEq, Repr

/-- A handle step not yet taken (R274, R305): a TFH stream waits here for its entry, and a SPAWN that passes handles
keeps its place among the steps of its task. -/
inductive HOp
  | split (v : BitVec 128) (ax : Nat) (point : Int) (low high : Nat)
  | rejoin (hp hl hr : BitVec 4) (vl vr : BitVec 128) (movedSrc : Bool)
  | put (v : BitVec 128) (va : Word)
  | take (h : BitVec 4) (sa : BitVec 6) (va : Word) (susp : Bool)
  | rowLoad (v : BitVec 128) (e : Word) (rows : Word)
  | rowStore (v : BitVec 128) (e : Word) (rows : Word)
  | info (v : BitVec 128) (sa : BitVec 6) (ax : Nat)
  | stream (v : BitVec 128) (q : BitVec 2) (id : Nat)
  | spawn (entry : Nat)
  deriving DecidableEq, Repr

/-- A pending step with its task, its bundle, the module time from which an HTAKE waits at an EMPTY mailbox, and what the handle
registers that it changed at issue held before (R305). -/
structure HStep where
  op    : HOp
  owner : Running
  since : Option Nat
  pc    : BitVec 58
  undo  : List (BitVec 4 × HReg)
  deriving DecidableEq, Repr

/-- An HLD or HST between its step and its last row (R308). `after` names the streams through its handle that go before it (R266). -/
structure TAcc where
  lidx  : Nat
  store : Bool
  e     : Nat
  row   : Nat
  left  : Nat
  owner : Running
  pc    : BitVec 58
  after : List Nat
  deriving DecidableEq, Repr

/-- A commit under way (R221, R261): the task whose version it is, the lines left, the entry that caused it if any, whether
an overflow did (R223), and the bundle and slot that a fault of it names (R244). -/
structure Commit where
  key   : TaskKey
  lines : List Nat
  entry : Option Nat
  auto  : Bool
  pc    : BitVec 58
  slot  : Nat
  deriving DecidableEq, Repr

/-- How far the task on a core has come (R132 to R134, R372, R392); `waitc`: the cycles that a WAITC adds are under way, its back-edge test made
(R128). -/
inductive Phase
  | noTask
  | ready
  | issued
  | drainYield
  | drainCommit
  | drainEnd
  | drainIdle
  | idle (since : Nat)
  | waitc (left : Nat)
  | barrier
  | committing
  | held
  deriving DecidableEq, Repr

/-- What a suspended task waits for (R285, R307); `got` is the value, with its instant, with which a write has made the condition hold. -/
inductive Wait
  | none | value (member : Nat) (landing : Nat) (va : Word) (cond : Word) (got : Option (Nat × Nat)) | handle (member : Nat) (h : BitVec 4) (sa : BitVec 6) (pa : Nat) | held
  deriving DecidableEq, Repr

/-- Why a task is about to leave its core (R215, R227, R285, R307, R361, R362, R394): at a soft or hard stop, for a migration,
to wait suspended, with its gang, or at GRACE while a debugger holds it. -/
inductive Leave
  | soft | hard | migrate | wait (w : Wait) | gang | debug
  deriving DecidableEq, Repr

/-- The energy record of a tenant on a core (R72 to R75, R367, R368). -/
structure Energy where
  ebudget   : BitVec 32
  ecount    : BitVec 48
  esat      : Bool
  edebit    : Vector (BitVec 8) 16
  erefill   : BitVec 32
  estatic   : BitVec 16
  resClocks : BitVec 10
  resTotal  : BitVec 64
  deriving DecidableEq, Repr

/-- The debug state of a core (R391 to R393): whether the bundle due has passed its stop test, a stop that is due with
its cause and breakpoint, the bundles left of a step count, a DBGSTOP not yet met, the matches on this core of each breakpoint of each
tenant, whatever task met them (`hitKey`), and, on the core that stopped its task, the tick of the stop. -/
structure CoreDbg where
  skip    : Bool
  due     : Option (BitVec 2 × Nat)
  steps   : Option Nat
  request : Bool
  hits    : List (Nat × Nat)
  lead    : Option Nat
  deriving DecidableEq, Repr

/-- The last clock of a core: when it began, the bundle that issued in it or would issue next, CYCLE, and its stall code (R93,
R94, R396). -/
structure ClockRec where
  at_   : Nat
  pc    : BitVec 58
  cycle : Word
  code  : BitVec 4
  deriving DecidableEq, Repr

/-- A core. `phase` is where its task stands and `after` where it stands once the bundle now issuing has run its
stall cycles; `seen` is the energy record before the charges of that bundle (R147); `frozen` counts the clocks frozen
with codes 3 and 10 since the last BEATS record (R399); `froze` counts the clocks of the freeze under way and `worst` is the highest code of
them (R395); `judged` says that the bundle due has passed steps 1 to 5 of R69; `lateFrom` is when the core
began to wait for late landings; `lastBundle` is the last bundle that issued here. `stopAt` is the tick at which STOP was set (R362), and
`stopNow` says that the scheduler has set it in the clock under way (R369). -/
structure Core where
  id        : BitVec 6
  ctx       : Ctx
  task      : Option Running
  phase     : Phase
  after     : Phase
  hdr       : BitVec 32
  issuing   : List Instr
  mid       : Bool
  stall     : Nat
  freeze    : BitVec 4
  frozen    : Nat
  froze     : Nat
  worst     : BitVec 4
  ended     : Option (BitVec 4 × Nat)
  fetched   : Bool
  judged    : Bool
  lateFrom  : Option Nat
  edge      : Bool
  last      : ClockRec
  sampled   : Nat
  trap      : Option TrapRec
  lateFault : Option TrapRec
  weights   : List Nat
  weight    : Nat
  allowA1   : BitVec 8
  allowAW   : BitVec 10
  allowTrap : Bool
  energy    : Energy
  seen      : Energy
  energyOf  : Option Space
  refillDue : Bool
  staticDue : Bool
  pspan     : BitVec 16
  vquota    : BitVec 32
  stop      : Bool
  stopAt    : Option Nat
  stopNow   : Bool
  defer     : Bool
  leave     : Option Leave
  recCache  : List Tsr
  fifo      : List Entry
  equeues   : Vector (List QEntry) 8
  hsteps    : List HStep
  taccs     : List TAcc
  views     : List (Nat × Nat)
  viewBase  : Nat
  fenceRel  : List (Nat × Nat × Nat)
  readRel   : List (Nat × Nat × Nat × Nat)
  commit    : Option Commit
  commitPc    : BitVec 58
  commitSlot  : Nat
  streamIssue : Nat
  time      : Nat
  lastIssue : Option Nat
  lastBundle : BitVec 58
  dbg       : CoreDbg
  beats     : Vector (BitVec 16) 4
  deriving DecidableEq, Repr

/-! ### The module -/

/-- A write that has performed at a home: its instant, its bytes before and after, whether it is an
atomic, and the releases it carries, by core, instant and scope (R247, R255). -/
structure HistWrite where
  at_    : Nat
  addr   : Nat
  old    : List Byte
  new    : List Byte
  atomic : Bool
  rels   : List (Nat × Nat × Nat)
  deriving DecidableEq, Repr

/-- What stands behind a mapping: a frame; a frame of the code heap, or none there until a body is published (R346); the place of the save
images of a task, in a context area or a spill area (R212, R363); no frame until a page-in allocates one in its tier (R239, R332); or none,
because a page-in found none to allocate. -/
inductive Backing
  | frame
  | heap
  | stub
  | image (launch task : Nat)
  | later (lpddr : Bool)
  | refused (lpddr : Bool)
  deriving DecidableEq, Repr

/-- A mapping with its attributes (R237, R332). Where no frame stands behind it yet, `pa` names none. -/
structure Mapping where
  space   : Space
  va      : Nat
  pa      : Nat
  size    : Nat
  w       : Bool
  x       : Bool
  sync    : Bool
  remote  : Bool
  priv    : Bool
  present : Bool
  home    : BitVec 4
  peer    : BitVec 128
  peerPart : BitVec 16
  back    : Backing
  deriving DecidableEq, Repr

/-- The state of a lineage entry (R271). -/
inductive LinState
  | free | live | split
  deriving DecidableEq, Repr

/-- A lineage-table entry (R271). -/
structure Lineage where
  parent  : Nat
  childL  : Nat
  childH  : Nat
  st      : LinState
  gen     : BitVec 16
  axis    : Nat
  point   : Int
  tsr     : Word
  holder  : Nat
  launch  : Nat
  part    : Nat
  outst   : Nat
  lo      : List Int
  hi      : List Int
  deriving DecidableEq, Repr

/-- The state of a .text page: not loaded, verified, or poisoned (R343, R344). -/
inductive PageState
  | unloaded | verified | poisoned
  deriving DecidableEq, Repr

/-- A loaded code object (R341 to R344): its task entries, function entries and safe points; `bundled`: its .text holds bundles of the core,
not a body for penim-x to translate (R345). -/
structure CodeObj where
  space   : Space
  base    : Nat
  text    : Nat
  size    : Nat
  pages   : List PageState
  hashes  : List (BitVec 256)
  spad    : List (Nat × Byte)
  masks   : List (Nat × BitVec 64 × BitVec 32 × BitVec 256)
  safes   : List Nat
  entries : List Nat
  funcs   : List Nat
  bundled : Bool
  deriving DecidableEq, Repr

/-- A stub of the code heap: the entry of which it is one, its address, and its published body, if any (R346). -/
structure Stub where
  space : Space
  entry : Nat
  stub  : Nat
  body  : Option (Nat × Nat)
  deriving DecidableEq, Repr

/-- A hard partition (R349, R351, R353): `key` is its memory key until it is erased (R384, R386), `wipe` a watchdog reset under way, with the tick
of the expiry and the queues that have expired (R379, R380). -/
structure Part where
  id       : Nat
  flags    : BitVec 16
  clusters : BitVec 16
  vways    : Nat
  oways    : Nat
  a1       : BitVec 8
  aw       : BitVec 10
  pspan    : BitVec 16
  vquota   : BitVec 32
  slice    : Nat
  grace    : Nat
  tspan    : Nat
  ring     : BitVec 256
  hbm      : Nat
  lpddr    : Nat
  heap     : Nat
  spill    : Nat
  lineage  : Nat
  key      : Option (BitVec 512)
  wipe     : Option (Nat × List Nat)
  hbmUsed  : Nat
  lpddrUsed : Nat
  heapUsed : Nat
  launches : Nat
  rseq     : BitVec 32
  resize   : Option (BitVec 16 × BitVec 256 × Option Cmd)
  unacked  : Bool
  sources  : List Nat
  createBody : List Byte
  deriving DecidableEq, Repr

inductive TenState
  | disabled | enabled | stopping
  deriving DecidableEq, Repr

/-- A tenant (R355) with its PASS on each cluster where it is not 0 (R359), and the tick at which its stop began (R366). -/
structure Tenant where
  space   : Space
  tickets : Nat
  st      : TenState
  pass    : List (Nat × Nat)
  since   : Nat
  deriving DecidableEq, Repr

/-- A LAUNCH that its queue has begun to start (R335): the bytes of its launch record, read once, and the addresses in the pages that the
walker holds for it. -/
structure Begun where
  record : List Byte
  pages  : List Word
  deriving DecidableEq, Repr

/-- A command queue (R326, R329, R378): the commands accepted, those whose turn has not come (`ahead`) and those that wait to
begin (`held`), the one in progress with the tick at which it began and what a LAUNCH has read or that an UNMAP has been checked (`begun`), and
the module time that its timer has counted. Queues 64 to 75 and 76 to 87 of partition 0 are
those of the management and debug endpoints of ports 0 to 11 (R352, R390). -/
structure CmdQueue where
  space   : Space
  id      : Nat
  watchdog : Nat
  elapsed : Nat
  began   : Nat
  nextSeq : BitVec 32
  lastSeq : BitVec 32
  ahead   : List Cmd
  held    : List Cmd
  running : Option Cmd
  begun   : Option Begun
  error   : Bool
  deriving DecidableEq, Repr

/-- A running launch (R224, R334, R338). `ending` is the fault that ends it, with the tick at which it was found and the core
that found it, 64 for the walker (R225); `lack` is the code heap that a body lacked (R347), and `held` are the addresses of its handle list, whose pages the walker holds (R212). -/
structure Launch where
  space    : Space
  queue    : Nat
  id       : Nat
  record   : Word
  compl    : Word
  code     : Word
  args     : Word
  held     : List Word
  cmd      : Cmd
  fuse     : Bool
  created  : Nat
  finished : Nat
  start    : Nat
  ending   : Option TrapRec
  endTick  : Nat
  endCore  : Nat
  lack     : Option Nat
  endTask  : Nat
  deriving DecidableEq, Repr

/-- The state of a task or copy node (R214, R219); `ended`: its ENDT is done and its last accesses are yet to perform. -/
inductive NodeState
  | waiting | ready | running | suspended | migrating | ended | finished | discarded
  deriving DecidableEq, Repr

/-- A registered node: a task or a copy node (R211, R218, R219). `saved` holds the contexts of its members while it has a
save image of kind `kind`, and `store` where that image stands (0 and 1 the context areas of B0 and B1, 2 the spill area of
its partition), its size and when it was written (R363); `phases` is where each member stood, with its stall cycles left and the bundle of its barrier
or end; `fifo` holds the members' requests that are to be made again; `energies` are the energy records at the save, which serve inspection
alone (R215); `susp` is SUSPENDED, `spmBad`
names the poisoned words of its scratchpad (R381), and `dbg` is what its members' next cores take over of a DBGRESUME and of a step count
(R393). `core` last ran the task. -/
structure Node where
  key      : TaskKey
  vdev     : Nat
  copy     : Bool
  addr     : Word
  st       : NodeState
  preds    : Nat
  succ     : Word
  affinity : Nat
  prio     : Nat
  gang     : Bool
  started  : Bool
  migr     : Bool
  susp     : Bool
  readyAt  : Nat
  args     : Word
  resume   : BitVec 58
  version  : BitVec 32
  status   : BitVec 8
  hmask    : BitVec 16
  harea    : BitVec 48
  waits    : List Wait
  saved    : List Ctx
  phases   : List (Phase × Phase × BitVec 58 × Nat)
  fifo     : List (Nat × Entry)
  hsteps   : List (Nat × HStep)
  spm      : List Host.Cell
  spmBad   : List Nat
  energies : List Energy
  kind     : Nat
  image    : Word
  store    : Option (Nat × Nat × Nat)
  dbg      : List CoreDbg
  core     : Nat
  deriving DecidableEq, Repr

/-- A run-time edge between two nodes of one launch (R218, R312). -/
structure Edge where
  part   : Nat
  launch : Nat
  pred   : Word
  succ   : Word
  deriving DecidableEq, Repr

/-- The versioned bytes of a task, by virtual address (R220), the releases of fences that the store which wrote a byte carries: the byte, and the
release by core, instant and scope (R255); and its poisoned 8-byte words (R381). -/
structure Version where
  key   : TaskKey
  bytes : List (Nat × Byte)
  rels  : List (Nat × Nat × Nat × Nat)
  bad   : List Nat
  deriving DecidableEq, Repr

/-- A cluster's slice (R359, R360): its holder, the ticks at which the slice began and ended, that at which the old tenant's tasks were asked
to stop, the tenant chosen while its tasks leave, and the tenants that were eligible there when it was last judged. -/
structure Cluster where
  id      : Nat
  holder  : Option Space
  start   : Nat
  ended   : Option Nat
  asked   : Option Nat
  next    : Option Space
  elig    : List Nat
  deriving DecidableEq, Repr

inductive DevState
  | boot | ready | stopped | alarm | failed
  deriving DecidableEq, Repr

inductive AlarmAction
  | log | stop | erase
  deriving DecidableEq, Repr

/-- A breakpoint (R391). -/
structure Breakpoint where
  addr  : Word
  cycle : Word
  task  : BitVec 32
  count : BitVec 32
  deriving DecidableEq, Repr

/-- Debug arming of a tenant (R390 to R392). -/
structure DbgArm where
  space : Space
  bps   : List Breakpoint
  dump  : Word
  size  : Nat
  used  : Nat
  src   : Nat
  ep    : Endpoint
  port  : Fin 12
  deriving DecidableEq, Repr

/-- Trace settings and buffer of a tenant (R398 to R401); `since` is the tick from which records stand above HEAD. -/
structure Trace where
  space  : Space
  flags  : BitVec 8
  period : Nat
  thresh : BitVec 32
  buf    : Word
  size   : Nat
  head   : Nat
  pend   : Nat
  since  : Nat
  lost   : Nat
  lostBy : List (Nat × Nat)
  last   : List (Nat × Nat)
  deriving DecidableEq, Repr

/-- The counters of a partition and their selections (R397). -/
structure Pmc where
  part : Nat
  sels : List (BitVec 16)
  vals : List (BitVec 64)
  deriving DecidableEq, Repr

/-- One entry of an order log (R403, R404): its kind, the core, queue or unit whose choice it is, when it was made, and its value. The kinds: 0 a
choice of the ordering machine, 1 a value read, 2 a placement, 3 a command accepted, 4 a buffer-slot return, 5 an arrival, 6 a step at a
home in its place, 9 a checkpoint. -/
structure LogEntry where
  kind : Nat
  who  : Nat
  tick : Nat
  val  : Nat
  data : List Byte
  deriving DecidableEq, Repr

/-- Replay settings of a partition (R402 to R404): its mode, the period in ms, the tick of the last checkpoint, the area, the
bytes used, the checkpoints taken, the length of the log at the last of them (`mark`), the one replayed from, whether a replay step found no entry (`lack`) and whether the
partition is in a replay halt; the log as recorded (`full`), and what is being recorded or is left to replay (`log`). -/
structure Replay where
  part   : Nat
  mode   : Nat
  period : Nat
  last   : Nat
  area   : Word
  size   : Nat
  used   : Nat
  count  : Nat
  mark   : Nat
  ckpt   : Nat
  lack   : Bool
  halted : Bool
  full   : List LogEntry
  log    : List LogEntry
  deriving DecidableEq, Repr

/-- A request to a peer module that waits for its answer (R290, R348): the engine that made it (a core and queue, 64 plus
the number of a job, or 2^63 for a host's own access, R415), whether it is a read, the bytes that a write puts, or a read asks for, from an address of the tenant's space, the module
time since which it waits, and the port by which it went and is answered (log entry 44). -/
structure Peer where
  id    : Nat
  space : Space
  core  : Nat
  q     : BitVec 3
  read  : Bool
  dst   : Word
  len   : Nat
  since : Nat
  port  : Fin 12
  deriving DecidableEq, Repr

/-- A host's UET access that reaches pages of a peer (R348, R415): the n bytes from va, whether it is a write, who is to be answered, the
requests to peers that are still open, and the bytes that a read has got, by their address. -/
structure HostReq where
  space : Space
  va    : Nat
  n     : Nat
  write : Bool
  tag   : UetTag
  ids   : List Nat
  got   : List (Nat × Byte)
  deriving DecidableEq, Repr

/-- What a message is: a send (R330, R331, R354, R387), a UET write, read or arrival to a peer (R348), or the answer to a
host's UET access (R415). -/
inductive MsgKind
  | send
  | write (id part va : Nat)
  | read (id part va n : Nat)
  | arrival (part va : Nat)
  | reply (tag : BitVec 64) (ok : Bool)
  deriving DecidableEq, Repr

/-- A message that the module sends: from which endpoint, by which port (R16), where to, what it is, and its bytes. -/
structure Msg where
  ep    : Endpoint
  port  : Fin 12
  dst   : Nat
  kind  : MsgKind
  bytes : List Byte
  deriving DecidableEq, Repr

/-- A transfer on the copy engines of a base die that stands in no core's queue: a copy node (R290), by the address of its
descriptor, or the COPY command of a host (R328). -/
structure Job where
  id    : Nat
  die   : Nat
  copy  : Copy
  moved : Nat
  owner : Running
  node  : Option Word
  cmd   : Option Cmd
  pc    : BitVec 58
  deriving DecidableEq, Repr

/-- A line in a cache (R231): the core, chiplet or base die of the cache, the physical line, the partition that it is tagged with,
whether it holds bytes not yet written back, whether it is a read-only copy of a line homed elsewhere, and the core, the stream and
the row of each tile fetch that has read it and whose stream has not ended (R232, R242). -/
structure CLine where
  unit  : Nat
  line  : Nat
  part  : Nat
  dirty : Bool
  copy  : Bool
  tiles : List (Nat × Nat × Nat)
  deriving DecidableEq, Repr

/-- The cached levels (R10, R12, R231 to R233, R238): the L1 data caches of the cores, their instruction caches (core, space and
bundle), the L2 of each chiplet, the LLC of each base die, the second-level TLB of each chiplet (chiplet, space and page), and the
clusters whose L1s are fused. What a line holds is memory's: a cache changes no value (R233, R247). `fills` is the model's own: it counts the choices of
a line that makes room. -/
structure Caches where
  l1     : List CLine
  icache : List (Nat × Space × Nat)
  l2     : List CLine
  llc    : List CLine
  tlb2   : List (Nat × Space × Nat)
  fused  : List Nat
  fills  : Nat
  deriving DecidableEq, Repr

/-- What a checkpoint holds of a partition (R402): its cores, its tasks, graph, launches and queues, its versions, tiles and
mailboxes, the pages of its save images, and the bytes of its pages and scratchpads. -/
structure Checkpoint where
  part     : Nat
  number   : Nat
  cores    : List Core
  nodes    : List Node
  edges    : List Edge
  launches : List Launch
  cqueues  : List CmdQueue
  versions : List Version
  lineage  : List (Nat × Lineage)
  mailboxes : List (Nat × BitVec 128 × Nat)
  hwaits   : List (Nat × TaskKey × Nat)
  jobs     : List Job
  images   : List Mapping
  mem      : List Host.Cell
  spm      : List Host.Cell
  deriving DecidableEq, Repr

/-- The repair state of one HBM4E stack (R382, R387): the spare rows used of each bank that has used some; `rows` holds the corrected count of
each row that has one, and a line of the row. -/
structure Repair where
  used    : List (Nat × Nat)
  retired : Nat
  rows    : List (Nat × Nat × Nat)
  deriving DecidableEq, Repr

/-- The module. -/
structure State where
  core     : Core
  parked   : List Core
  mem      : List Host.Cell
  spm      : List Host.Cell
  spmLate  : List Host.Cell
  now      : Nat
  time     : Nat
  hist     : List HistWrite
  versions : List Version
  lineage  : List (Nat × Lineage)
  mailboxes : List (Nat × BitVec 128 × Nat)
  hwaits   : List (Nat × TaskKey × Nat)
  maps     : List Mapping
  frames   : List (Nat × Nat)
  objects  : List CodeObj
  stubs    : List Stub
  parts    : List Part
  tenants  : List Tenant
  cqueues  : List CmdQueue
  launches : List Launch
  nodes    : List Node
  edges    : List Edge
  jobs     : List Job
  clusters : List Cluster
  energies : List (Space × Nat × Energy)
  tlb      : List (Nat × Space × Nat)
  caches   : Caches
  pageWalks : List (Space × Nat × Nat)
  devState : DevState
  actions  : List AlarmAction
  alarmSrc : Option AlarmSource
  alarmAt  : Nat
  alarmGone : Option Nat
  counters : List (BitVec 32)
  repairs  : List Repair
  poison   : List Nat
  spmPoison : List Nat
  retired  : List Nat
  badFrames : List Nat
  admins   : List Nat
  handleKey : Option (BitVec 512)
  coreMap  : BitVec 64
  dbgArms  : List DbgArm
  traces   : List Trace
  pmcs     : List Pmc
  replays  : List Replay
  checkpoints : List Checkpoint
  peers    : List Peer
  hostReqs : List HostReq
  moves    : List (Space × Nat × Option Nat × Nat)
  inbox    : List Instr
  outbox   : List Msg
  picks    : Nat
  deriving DecidableEq, Repr

/-! ### The machine after reset -/

def HReg.reset : HReg := ⟨0#128, .empty⟩

def LoopLevel.reset : LoopLevel := ⟨0#58, 0#58, 0#20, 0#4, false, 0#2⟩

/-- FMT resets to E4M3 × E4M3 into f32, no block scales, RNE (R104). -/
def Fmt.reset : Fmt := ⟨.e4m3, .e4m3, .none, false, .rne⟩

def FeRec.reset : FeRec := ⟨0#58, false, 0#4, 0#56, 0#6⟩

/-- The context in which a task first starts (R77, R81, R104, R107, R108, R115 to R118, R124, R168,
R270, R369); scalars, predicates and rows by log entry 2. -/
def Ctx.reset : Ctx where
  sregs := Vector.replicate 64 0#64
  pregs := (Vector.replicate 32 0#1024).set 0 (BitVec.allOnes 1024)
  acc := []
  hregs := Vector.replicate 16 HReg.reset
  loops := Vector.replicate 4 LoopLevel.reset
  pc := 0#58
  delayTarget := none
  redirect := none
  spanCount := 0
  cycle := 0#64
  vbase := 0#12
  rrb := 0#6
  chk := false
  autoc := false
  ftz := false
  fmt := Fmt.reset
  flags := Vector.replicate 10 0#6
  ferec := FeRec.reset
  dstatNan := 0#64
  dstatInf := 0#64
  tableA := Vector.replicate 16 0x60#8
  tableB := Vector.replicate 16 0x60#8
  bandA := Vector.replicate 64 0x3F80#16
  bandB := Vector.replicate 8 0x3F80#16
  active := []
  shadow := []
  ar := 0#32768
  matrix := false
  window := 0#9
  trapHandler := 0#58
  trapActive := false
  trapEn := false
  results := []
  landings := []
  queues := Vector.replicate 4 []
  order := 0
  started := false
  driftClocks := 0#32
  prevDrift := none
  armed := false
  badS := []
  badRow := []

/-- The EDEBIT table after power-on: class c debits 4 × (c + 1) (R72). -/
def edebitReset : Vector (BitVec 8) 16 := Vector.ofFn fun c => BitVec.ofNat 8 (4 * (c.val + 1))

/-- The energy record of a new context: BUDGET equals REFILL (R73); ECOUNT by log entry 2. -/
def Energy.reset : Energy := ⟨0x00020000#32, 0#48, false, edebitReset, 0x00020000#32, 0#16, 0#10, 0#64⟩

def CoreDbg.reset : CoreDbg := ⟨false, none, none, false, [], none⟩

/-- Core `id` after power-on: idle, no task (R63, R389). -/
def Core.reset (id : BitVec 6) : Core where
  id := id
  ctx := Ctx.reset
  task := none
  phase := .noTask
  after := .ready
  hdr := 0#32
  issuing := []
  mid := false
  stall := 0
  freeze := 0#4
  frozen := 0
  froze := 0
  worst := 0#4
  ended := none
  fetched := false
  judged := false
  lateFrom := none
  edge := false
  last := ⟨0, 0#58, 0#64, 0#4⟩
  sampled := 0
  trap := none
  lateFault := none
  weights := []
  weight := 0
  allowA1 := 64#8
  allowAW := 384#10
  allowTrap := false
  energy := Energy.reset
  seen := Energy.reset
  energyOf := none
  refillDue := false
  staticDue := false
  pspan := 1024#16
  vquota := 524288#32
  stop := false
  stopAt := none
  stopNow := false
  defer := false
  leave := none
  recCache := []
  fifo := []
  equeues := Vector.replicate 8 []
  hsteps := []
  taccs := []
  views := []
  viewBase := 0
  fenceRel := []
  readRel := []
  commit := none
  commitPc := 0#58
  commitSlot := 0
  streamIssue := 0
  time := 0
  lastIssue := none
  lastBundle := 0#58
  dbg := CoreDbg.reset
  beats := Vector.replicate 4 0#16

/-- A queue as QUEUECREATE makes it; no command has completed (R352, R387). -/
def CmdQueue.reset (sp : Space) (id watchdog : Nat) : CmdQueue :=
  ⟨sp, id, watchdog, 0, 0, 0#32, BitVec.allOnes 32, [], [], none, none, false⟩

def Repair.reset : Repair := ⟨[], 0, []⟩

/-- Every cache is empty after power-on, and no cluster is fused. -/
def Caches.reset : Caches := ⟨[], [], [], [], [], [], 0⟩

/-- The module right after power comes on: in BOOT, with its bring-up (R389) the next step. Memory and
scratchpads list nothing; an unlisted byte reads zero. -/
def State.reset : State where
  core := Core.reset 0#6
  parked := []
  mem := []
  spm := []
  spmLate := []
  now := 0
  time := 0
  hist := []
  versions := []
  lineage := []
  mailboxes := []
  hwaits := []
  maps := []
  frames := []
  objects := []
  stubs := []
  parts := []
  tenants := []
  cqueues := (List.range 24).map fun i => CmdQueue.reset ⟨0, 0⟩ (64 + i) 0
  launches := []
  nodes := []
  edges := []
  jobs := []
  clusters := []
  energies := []
  tlb := []
  caches := Caches.reset
  pageWalks := []
  devState := .boot
  actions := [.stop, .stop, .stop, .erase]
  alarmSrc := none
  alarmAt := 0
  alarmGone := none
  counters := List.replicate 32 0#32
  repairs := List.replicate 8 Repair.reset
  poison := []
  spmPoison := []
  retired := []
  badFrames := []
  admins := Config.administrators
  handleKey := none
  coreMap := BitVec.allOnes 64
  dbgArms := []
  traces := []
  pmcs := []
  replays := []
  checkpoints := []
  peers := []
  hostReqs := []
  moves := []
  inbox := [.powerOn]
  outbox := []
  picks := 0

end Sys2Proof.Machine
end

