-- ==== Sys2Proof/Machine/Ops.lean ====
section
/-! DEFINITION. The named operations over memory, registers and results that every meaning is
written with, and the taking of a trap, once. -/

namespace Sys2Proof.Machine

/-! ### Sparse storage in canonical form

A store is a list of (address, value) pairs with strictly rising addresses and no pair that holds the
value an unlisted address reads as, so that equal contents are equal lists. -/

/-- What address `a` holds. -/
def assocGet {α : Type} (dflt : α) : List (Nat × α) → Nat → α
  | [], _ => dflt
  | (k, v) :: t, a => if k = a then v else assocGet dflt t a

/-- Writes address `a`. -/
def assocSet {α : Type} [DecidableEq α] (dflt : α) : List (Nat × α) → Nat → α → List (Nat × α)
  | [], a, b => if b = dflt then [] else [(a, b)]
  | (k, v) :: t, a, b =>
    if a < k then (if b = dflt then (k, v) :: t else (a, b) :: (k, v) :: t)
    else if a = k then (if b = dflt then t else (a, b) :: t)
    else (k, v) :: assocSet dflt t a b

/-- Every address of the store is above `lo`, they rise, and none holds the default value. -/
def assocAbove {α : Type} [DecidableEq α] (dflt : α) : Option Nat → List (Nat × α) → Bool
  | _, [] => true
  | lo, (k, v) :: t =>
    (match lo with | none => true | some l => decide (l < k)) && decide (v ≠ dflt)
      && assocAbove dflt (some k) t

/-- What an unlisted byte reads as: memory and scratchpads are zeroed at power-on (R389), sync frames
when they are taken (R282). -/
def unlistedByte : Byte := 0#8

/-- The canonical form of a byte store. -/
abbrev Memory.wf (m : List Host.Cell) : Prop := assocAbove unlistedByte none m = true

def readByte (m : List Host.Cell) (a : Nat) : Byte := assocGet unlistedByte m a

def writeByte (m : List Host.Cell) (a : Nat) (b : Byte) : List Host.Cell := assocSet unlistedByte m a b

/-- `n` bytes from address `a` up. -/
def readBytes (m : List Host.Cell) (a : Nat) : Nat → List Byte
  | 0 => []
  | n + 1 => readByte m a :: readBytes m (a + 1) n

/-- Bytes written from address `a` up. -/
def writeBytes (m : List Host.Cell) (a : Nat) : List Byte → List Host.Cell
  | [] => m
  | b :: bs => writeBytes (writeByte m a b) (a + 1) bs

/-- (address, byte) pairs written in order. -/
def writeCells (m : List Host.Cell) : List (Nat × Byte) → List Host.Cell
  | [] => m
  | (a, b) :: t => writeCells (writeByte m a b) t

/-- Little-endian bytes as a number (R2). -/
def leNat : List Byte → Nat
  | [] => 0
  | b :: bs => b.toNat + 256 * leNat bs

/-- A number as `n` little-endian bytes (R2). -/
def leBytes : Nat → Nat → List Byte
  | 0, _ => []
  | n + 1, v => BitVec.ofNat 8 v :: leBytes n (v / 256)

/-- `n` bytes at offset `o` of a byte string, as a number; missing bytes read zero. -/
def fieldNat (bs : List Byte) (o n : Nat) : Nat := leNat ((bs.drop o).take n)

/-- The Nat sum of `w`-bit digits `f 0`, `f 1`, …, `f (n-1)`. -/
def packNat (w : Nat) (f : Nat → Nat) : Nat → Nat
  | 0 => 0
  | n + 1 => packNat w f n + f n % 2 ^ w * 2 ^ (w * n)

/-- The `i`-th `w`-bit digit. -/
def digit (w : Nat) (x : Nat) (i : Nat) : Nat := x / 2 ^ (w * i) % 2 ^ w

/-- A signed reading of the low `w` bits. -/
def signedOf (w : Nat) (x : Nat) : Int :=
  let y := x % 2 ^ w
  if y < 2 ^ (w - 1) then y else (y : Int) - 2 ^ w

/-- An integer in `w` bits, modulo 2^w. -/
def wrapInt (w : Nat) (x : Int) : Nat := (x % (2 ^ w : Int)).toNat

/-! ### Parts of the state -/

def State.onCore (s : State) (f : Core → Core) : State := { s with core := f s.core }

def Core.onCtx (c : Core) (f : Ctx → Ctx) : Core := { c with ctx := f c.ctx }

/-- The 64-byte address of a bundle index. -/
def addrOf (pc : BitVec 58) : Word := pc ++ 0#6

/-- Bits [63:6] of an address. -/
def indexOf (a : Word) : BitVec 58 := a.extractLsb' 6 58

/-- CLASS: false on the cores of chiplets 3 and 7 (R8). -/
def isSteel (id : BitVec 6) : Bool := id.toNat / 8 != 3 && id.toNat / 8 != 7

/-- One clock of the core in 1/24 ns: 1.6 GHz Steel, 1.2 GHz Bronze (R11). -/
def clockOf (id : BitVec 6) : Nat := if isSteel id then 15 else 20

/-- The reference tick of a time (R17). -/
def tickOf (time : Nat) : Nat := time / 24

def Core.reftime (c : Core) : Nat := tickOf c.time

def Core.priv (c : Core) : Bool := match c.task with | some t => t.priv | none => false

def Core.scope (c : Core) : BitVec 3 := c.hdr.extractLsb' 25 3

def clusterOf (id : BitVec 6) : Nat := id.toNat / 4

/-- The chiplet of a core (R8). -/
def chipletOf (core : Nat) : Nat := core / 8

/-! ### Registers (R77, R78) -/

/-- s0 reads zero. -/
def Ctx.getS (c : Ctx) (n : BitVec 6) : Word := if n = 0#6 then 0#64 else c.sregs[n.toNat]'n.isLt

/-- A write to s0 is discarded (R29); a written word loses its poison (R381). -/
def Ctx.setS (c : Ctx) (n : BitVec 6) (v : Word) : Ctx :=
  if n = 0#6 then c else { c with sregs := c.sregs.set n.toNat v n.isLt, badS := c.badS.filter fun m => m != n.toNat }

/-- The physical predicate that pn names under RRB (R78). -/
def physPred (rrb : BitVec 6) (n : BitVec 5) : BitVec 5 :=
  if n.toNat < 16 then n else BitVec.ofNat 5 (16 + (n.toNat - 16 + rrb.toNat) % 16)

/-- p0 reads all ones. -/
def Ctx.getP (c : Ctx) (n : BitVec 5) : Pred :=
  if n = 0#5 then BitVec.allOnes 1024 else c.pregs[(physPred c.rrb n).toNat]'(physPred c.rrb n).isLt

/-- A write of the masked bits of a physical predicate; physical p0 is never written. -/
def Ctx.setPhysP (c : Ctx) (n : BitVec 5) (mask v : Pred) : Ctx :=
  if n = 0#5 then c
  else { c with pregs := c.pregs.set n.toNat ((c.pregs[n.toNat]'n.isLt &&& ~~~mask) ||| (v &&& mask)) n.isLt }

/-- The accumulator row that vn names under VBASE and RRB (R78). -/
def physRow (vbase : BitVec 12) (rrb : BitVec 6) (n : BitVec 8) : BitVec 12 :=
  if n.toNat < 192 then BitVec.ofNat 12 (vbase.toNat + n.toNat)
  else BitVec.ofNat 12 (vbase.toNat + 192 + (n.toNat - 192 + rrb.toNat) % 64)

def Ctx.rowName (c : Ctx) (n : BitVec 8) : BitVec 12 := physRow c.vbase c.rrb n

def Ctx.getRow (c : Ctx) (n : BitVec 12) : Row := assocGet 0#16384 c.acc n.toNat

def Ctx.getV (c : Ctx) (n : BitVec 8) : Row := c.getRow (c.rowName n)

/-- A write of the masked bits of an accumulator row. -/
def Ctx.setRow (c : Ctx) (n : BitVec 12) (mask v : Row) : Ctx :=
  { c with
    acc := assocSet 0#16384 c.acc n.toNat ((c.getRow n &&& ~~~mask) ||| (v &&& mask))
    badRow := c.badRow.filter fun w => !(w / 256 == n.toNat && mask.extractLsb' (64 * (w % 256)) 64 == BitVec.allOnes 64) }

def Ctx.getH (c : Ctx) (n : BitVec 4) : HReg := c.hregs[n.toNat]'n.isLt

def Ctx.setH (c : Ctx) (n : BitVec 4) (r : HReg) : Ctx := { c with hregs := c.hregs.set n.toNat r n.isLt }

/-- The guard's lanes (R27, R28). -/
def Ctx.guardMask (c : Ctx) (g : Guard) : Pred := if g.n then ~~~ c.getP g.p else c.getP g.p

/-- Bit 0 of the guard, which is all that counts outside the vector slots (R28). -/
def Ctx.guardBit (c : Ctx) (g : Guard) : Bool := (c.guardMask g).getLsbD 0

/-! ### Results in flight (R83, R95) -/

/-- An operation of latency `lat` in slot `slot`: its result is readable `lat` cycles after its issue. -/
def Ctx.push (c : Ctx) (slot lat : Nat) (flags : FlagSet) (wr : Wr) : Ctx :=
  { c with
    results := c.results ++ [⟨wr, slot, c.order, lat, flags, c.pc, c.cycle⟩]
    order := c.order + 1 }

/-- A landing entry of arrive count `arv` (R88, R89). -/
def Ctx.pushLanding (c : Ctx) (slot : Nat) (arv : BitVec 12) (dest : LDest) (kind : LKind) : Ctx :=
  { c with
    landings := c.landings ++ [⟨c.order, slot, c.order, arv.toNat, dest, kind, none, none, c.pc, c.cycle⟩]
    order := c.order + 1 }

/-! ### Traps (R121, R225)

A trap ends the issue of its task: the record waits in the core for the walker, which takes it in
LAUNCH_FAULT. The first trap of a core stands. -/

/-- Raises a trap that names the bundle at `pc`. -/
def Core.raiseAt (c : Core) (code : Trap) (slot : Nat) (pc : BitVec 58) : Core :=
  match c.trap with
  | some _ => c
  | none => { c with trap := some ⟨code, BitVec.ofNat 8 slot, addrOf pc, 0#16, 0#64⟩ }

/-- Raises a trap of the bundle that issues now. -/
def Core.raise (c : Core) (code : Trap) (slot : Nat) : Core := c.raiseAt code slot c.ctx.pc

def State.raise (s : State) (code : Trap) (slot : Nat) : State := s.onCore fun c => c.raise code slot

/-- SOFTWARE_TRAP with its immediate (R137). -/
def Core.raiseSoftware (c : Core) (imm : BitVec 16) : Core :=
  match c.trap with
  | some _ => c
  | none => { c with trap := some ⟨.softwareTrap, 0#8, addrOf c.ctx.pc, imm, 0#64⟩ }

/-- The trap handler is entered instead of a fault (R370): s60 and s61 are saved, ACTIVE is set, and
the handler's bundle is next, in the following cycle. The TRAP bundle does not issue; its cycle ticks
at 0 eu. -/
def Core.enterHandler (c : Core) (imm : BitVec 16) : Core :=
  let ctx := (c.ctx.push 0 1 0#6 (.s 60#6 (addrOf (c.ctx.pc + 1)))).push 0 1 0#6
    (.s 61#6 (0x1E#64 ||| (imm.setWidth 64 <<< 8)))
  { c with
    ctx := { ctx with trapActive := true, redirect := some ctx.trapHandler }
    phase := .issued
    issuing := []
    weight := 0
    stall := 0 }

/-- Whether a TRAP enters the handler (R370). -/
def Core.handlerOpen (c : Core) : Bool := c.priv && c.ctx.trapEn && !c.ctx.trapActive

/-- The return from the handler (R371): ACTIVE is cleared and control transfers to s60 after one delay
bundle. -/
def Ctx.returnFromHandler (c : Ctx) : Ctx :=
  { c with trapActive := false, delayTarget := some (indexOf (c.getS 60#6)) }

/-- The trap code of R377. -/
def Trap.code : Trap → BitVec 8
  | .migrate => 0x01#8
  | .xlateMiss => 0x02#8
  | .versionAuto => 0x03#8
  | .preempt => 0x04#8
  | .debugStop => 0x05#8
  | .illegalOpcode => 0x10#8
  | .illegalEncoding => 0x11#8
  | .schedule => 0x12#8
  | .energyViolation => 0x13#8
  | .protection => 0x14#8
  | .xlateFault => 0x15#8
  | .alignment => 0x16#8
  | .movedHandle => 0x17#8
  | .emptyHandle => 0x18#8
  | .mismatchedRejoin => 0x19#8
  | .handleLeak => 0x1A#8
  | .versionFull => 0x1B#8
  | .codeIntegrity => 0x1C#8
  | .uncorrectableData => 0x1D#8
  | .softwareTrap => 0x1E#8
  | .timeout => 0x1F#8
  | .privilege => 0x20#8
  | .span => 0x21#8
  | .xAccess => 0x22#8

/-! ### The shape of a slot operation

With bit 0 of its guard false an operation changes no state (R28). With it true, its issue-time check
is made (R69 step 4), and it then takes effect on the core. -/

/-- A guarded operation without an issue-time check. -/
def guarded (g : Guard) (s : State) (f : Core → Core) : Host.Outcome State Fault Refusal :=
  .next (if s.core.ctx.guardBit g then s.onCore f else s)

/-- A guarded operation that reaches beyond its core. -/
def guardedState (g : Guard) (s : State) (f : State → State) : Host.Outcome State Fault Refusal :=
  .next (if s.core.ctx.guardBit g then f s else s)

/-- A guarded operation with an issue-time check: a failed check raises its trap at `slot`. -/
def checked (g : Guard) (slot : Nat) (check : Core → Option Trap) (s : State) (f : Core → Core) :
    Host.Outcome State Fault Refusal :=
  .next (if s.core.ctx.guardBit g then
      (match check s.core with
       | some t => s.raise t slot
       | none => s.onCore f)
    else s)

/-- A guarded operation whose check and effect reach beyond its core. -/
def checkedState (g : Guard) (slot : Nat) (check : State → Option Trap) (s : State) (f : State → State) :
    Host.Outcome State Fault Refusal :=
  .next (if s.core.ctx.guardBit g then
      (match check s with
       | some t => s.raise t slot
       | none => f s)
    else s)

/-- A guarded operation of a privileged opcode (R44). -/
def privileged (g : Guard) (slot : Nat) (check : Core → Option Trap) (s : State) (f : Core → Core) :
    Host.Outcome State Fault Refusal :=
  if s.core.priv then checked g slot check s f else .next (s.raise .privilege slot)

def Core.space (c : Core) : Space :=
  match c.task with | some t => ⟨t.key.part, t.vdev⟩ | none => ⟨0, 0⟩

/-! ### The order log (R403)

In the record modes every choice that the ordering machine leaves open enters the log of its partition; in the replay modes
the log gives it back, and a step that finds no entry halts the partition. -/

def State.replayOf (s : State) (part : Nat) : Option Replay := s.replays.find? fun r => r.part == part

def State.setReplay (s : State) (r : Replay) : State :=
  { s with replays := s.replays.map fun q => if q.part = r.part then r else q }

def Replay.recording (r : Replay) : Bool := r.mode == 1 || r.mode == 3
def Replay.replaying (r : Replay) : Bool := r.mode == 2 || r.mode == 4

/-- A checkpoint of the partition is to be taken: the first at once, then one every PERIOD ms, and one early when the log is full (R402). -/
def Replay.checkpointDue (r : Replay) (now : Nat) : Bool :=
  r.recording && (r.count == 0 || decide (r.last + r.period * 1000000 ≤ now) || decide (r.mark + Config.logRoom < r.log.length))

/-- A watchdog reset of the partition is under way (R379). -/
def State.wiping (s : State) (part : Nat) : Bool := s.parts.any fun p => p.id == part && p.wipe.isSome

/-- The partition stands still: it is in a replay halt, a checkpoint is due, or it is being reset (R379, R402, R403). -/
def State.partStands (s : State) (part : Nat) : Bool :=
  s.wiping part || (match s.replayOf part with
    | some r => r.halted || r.checkpointDue (tickOf s.time)
    | none => false)

/-- The first entry of a kind for a core, queue or unit, and the log without it. -/
def takeKind (kind who : Nat) : List LogEntry → Option (LogEntry × List LogEntry)
  | [] => none
  | e :: t => if e.kind = kind ∧ e.who = who then some (e, t) else (takeKind kind who t).map fun r => (r.1, e :: r.2)

/-- A value of a partition's run: logged while recording, forced to its logged value in replay. -/
def State.logged (s : State) (part kind who val : Nat) : Nat × State :=
  match s.replayOf part with
  | none => (val, s)
  | some r =>
    if r.recording then (val, s.setReplay { r with log := r.log ++ [⟨kind, who, tickOf s.time, val, []⟩] })
    else if r.replaying then
      match takeKind kind who r.log with
      | some (e, rest) => (e.val, s.setReplay { r with log := rest })
      | none => (val, s.setReplay { r with lack := true })
    else (val, s)

/-- A free choice among `n` alternatives (log entry 5): its number, and the state that has taken it. -/
def State.pickAny (s : State) (n : Nat) : Nat × State :=
  if n ≤ 1 then (0, s) else (Config.pick s.picks % n, { s with picks := s.picks + 1 })

/-- A free choice of a partition's core or walker, which its order log records or forces. -/
def State.chooseFor (s : State) (part who n : Nat) : Nat × State :=
  if n ≤ 1 then (0, s)
  else
    let (k, s) := s.pickAny n
    let (k, s) := s.logged part 0 who k
    (k % n, s)

def State.choose (s : State) (n : Nat) : Nat × State := s.chooseFor s.core.space.part s.core.id.toNat n

/-! ### Cores -/

def State.cores (s : State) : List Core := s.core :: s.parked

def State.coreOf (s : State) (id : Nat) : Option Core := s.cores.find? fun c => c.id.toNat == id

def State.mapCores (s : State) (f : Core → Core) : State := { s with core := f s.core, parked := s.parked.map f }

/-- One core changed. -/
def State.onCoreId (s : State) (id : Nat) (f : Core → Core) : State :=
  s.mapCores fun c => if c.id.toNat = id then f c else c

/-- Core `id` becomes the core that steps. -/
def State.focus (s : State) (id : Nat) : State :=
  if s.core.id.toNat = id then s
  else
    match s.parked.find? fun c => c.id.toNat == id with
    | some c => { s with core := c, parked := s.core :: s.parked.filter fun d => d.id.toNat != id }
    | none => s

/-- One core clock of time passes on a core: where a tenant's record is resident the refill and the static charge may fall
due (R73, R75, R367), and the drift count of its task moves once its first bundle has issued (R136). -/
def Core.advance (c : Core) : Core :=
  let t := c.time + clockOf c.id
  let c := if c.task.isSome && c.ctx.started then { c with ctx := { c.ctx with driftClocks := c.ctx.driftClocks + 1 } } else c
  match c.energyOf with
  | none => { c with time := t }
  | some _ =>
    { c with
      time := t
      refillDue := c.refillDue || tickOf t / 1024 != tickOf c.time / 1024
      staticDue := c.staticDue || c.energy.resClocks == 1023#10
      energy := { c.energy with
        resClocks := c.energy.resClocks + 1
        resTotal := if c.energy.resTotal = BitVec.allOnes 64 then c.energy.resTotal else c.energy.resTotal + 1 } }

/-- Clocks of a core up to module time `t`, at most `n` of them. -/
def Core.catchUp (t : Nat) : Nat → Core → Core
  | 0, c => { c with time := max c.time t }
  | n + 1, c => if c.time + clockOf c.id ≤ t then c.advance.catchUp t n else { c with time := max c.time t }

/-- The core's time reaches `t`, its clocks passing. -/
def Core.reach (c : Core) (t : Nat) : Core := c.catchUp t ((t - c.time) / clockOf c.id)

/-- The task runs on a core whose debugger holds it, or waits held (R392, R394). -/
def State.launchHeld (s : State) (part launch : Nat) : Bool :=
  s.cores.any (fun c => c.phase == .held && (match c.task with | some t => t.key.part == part && t.key.launch == launch | none => false))
    || s.nodes.any fun n => n.key.part == part && n.key.launch == launch && n.waits.contains .held

/-- The watchdog timer of a queue counts (R378). -/
def State.watchRuns (s : State) (q : CmdQueue) : Bool :=
  q.running.isSome && q.watchdog != 0 && s.devState == .ready
    && (match s.tenants.find? fun t => decide (t.space = q.space) with | some t => t.st == .enabled | none => true)
    && (match s.replayOf q.space.part with | some r => !r.halted | none => true)
    && !(s.launches.any fun l => decide (l.space.part = q.space.part) && l.queue == q.id && s.launchHeld l.space.part l.id)

/-- Module time reaches `t`: the timers that count move with it. -/
def State.passTo (s : State) (t : Nat) : State :=
  if t ≤ s.time then s
  else
    { s with
      time := t
      cqueues := s.cqueues.map fun q => if s.watchRuns q then { q with elapsed := q.elapsed + (t - s.time) } else q }

/-- One clock of the core that steps; module time never runs behind a core. -/
def State.clock (s : State) : State :=
  let c := s.core.advance
  { s with core := c }.passTo c.time

/-- A line marked poisoned (R381). -/
def State.poisoned (s : State) (pa n : Nat) : Bool := s.poison.any fun l => decide (l * 64 < pa + n ∧ pa < l * 64 + 64)

end Sys2Proof.Machine
end

