-- ==== Sys2Proof/Machine/Cache.lean ====
section
/-! DEFINITION. Performance counters (R397); the home of a line (R232, R235); and which lines the caches hold (R10, R12, R231 to
R233, R242, R246). A cache changes no value that a program reads (R233): what the model keeps is which lines stand where, whose
they are and whether they are dirty, which the counters of misses, CACHEWB, CACHEINV and the scrubs act on. -/

namespace Sys2Proof.Machine

/-! ### Counters (R397) -/

/-- What a counter's selection counts of `n` events of kind `event` with cause `cause` (R397). -/
def selCounts (sel : BitVec 16) (event cause : Nat) : Bool :=
  decide (sel.toNat % 64 = event) &&
    (event != 3 || decide (sel.toNat / 64 = 0) || decide (sel.toNat / 64 = cause))

def satAdd64 (v : BitVec 64) (n : Nat) : BitVec 64 := BitVec.ofNat 64 (min (v.toNat + n) (2 ^ 64 - 1))

/-- `n` events counted for a partition; counters saturate. -/
def State.tally (s : State) (part event cause n : Nat) : State :=
  { s with pmcs := s.pmcs.map fun p =>
      if p.part = part then
        { p with vals := p.vals.zipWith (fun v sel => if selCounts sel event cause then satAdd64 v n else v) p.sels }
      else p }

/-! ### Homes (R232, R235) -/

/-- The populated physical ranges: HBM4E, LPDDR6 and the sync space of the two base dies (R235). -/
def hbmSize : Nat := 0x59682F0000
def lpddrBase : Nat := 0x10000000000
def lpddrEnd : Nat := 0x1EE6B280000
def syncBase : Nat := 0xE000000000000
def syncEnd : Nat := 0xE000200000000

def populated (pa : Nat) : Bool :=
  decide (pa < hbmSize) || (decide (lpddrBase ≤ pa) && decide (pa < lpddrEnd))
    || (decide (syncBase ≤ pa) && decide (pa < syncEnd))

/-- Sync space (R235). -/
def isSync (pa : Nat) : Bool := decide (syncBase ≤ pa) && decide (pa < syncEnd)

/-- The base die that holds an address: that of its HBM4E stack or LPDDR6 channel (R235). -/
def homeDie (pa : Nat) : Nat :=
  if pa < hbmSize then pa / 2 ^ 14 % 2 else if pa < syncBase then pa / 2 ^ 15 % 2 else (pa - syncBase) / 2 ^ 32

/-- The HBM4E that firmware reserves for the lineage table: 64 MiB on each die, and so 128 MiB of addresses that pass from die to die every
16 KiB (R235, R271); no program maps it. Where it lies is free. -/
def reservedSize : Nat := 2 ^ 27

def reservedFrom : Nat := Config.reservedBase % ((hbmSize - reservedSize) / 65536) * 65536

/-- Where the line of a lineage entry begins in that memory: an entry takes 128 bytes (R271). -/
def lineageAt (i : Nat) : Nat := reservedFrom + 128 * i

/-- Where the context areas and the spill areas stand: no MAP reaches them (R246, R363). -/
def contextBase : Nat := 2 ^ 47

/-- Where the accesses of a line are put in order: the L2 of a chiplet, the LLC of a base die, or a synchronisation engine. -/
inductive Home
  | chiplet (c : Nat)
  | die (d : Nat)
  | sync (d : Nat)
  deriving DecidableEq, Repr

/-- The home of a physical address in a page (R232). -/
def Mapping.homeAt (m : Mapping) (pa : Nat) : Home :=
  if isSync pa then .sync (homeDie pa)
  else if m.home.toNat < 8 then .chiplet m.home.toNat
  else .die (homeDie pa)

/-- The mapping whose frame holds a physical address. -/
def State.frameMap (s : State) (pa : Nat) : Option Mapping :=
  s.maps.find? fun m => !m.remote && decide (m.pa ≤ pa) && decide (pa < m.pa + m.size)

/-! ### Lines that enter a cache (R231) -/

/-- Ways and sets: an L1 of 256 KiB has 8 ways; an L2 slice of 2 MiB has 16, and so has an LLC of 256 MiB (R12, R231). -/
def l1Ways : Nat := 8
def l1Sets : Nat := 512
def l2Ways : Nat := 16
def l2Sets : Nat := 2048

/-- The set of a line in an L1, in an L2 (its slice is bits [10:6] of the address, R232) and in an LLC. -/
def l1Set (line : Nat) : Nat := Config.cacheSet 1 line % l1Sets
def l2Set (line : Nat) : Nat := line % 32 + 32 * (Config.cacheSet 2 line % l2Sets)
def llcSet (line : Nat) : Nat := Config.cacheSet 3 line % Config.wayLines

/-- The same line of the same cache, of the same partition: a lookup hits no other (R231). -/
def CLine.same (x y : CLine) : Bool := x.unit == y.unit && x.line == y.line && x.part == y.part

/-- Whether a cache holds a line. -/
def holdsLine (l : List CLine) (x : CLine) : Bool := l.any x.same

/-- A line that is there is accessed again. -/
def CLine.again (y x : CLine) : CLine :=
  { y with dirty := y.dirty || x.dirty, tiles := x.tiles ++ y.tiles.filter fun t => !x.tiles.contains t }

/-- A line enters its set among lines of `group`; where the set is full, a line that is not pinned makes room, and where all are
pinned the line is not placed. -/
def enterLine (ways : Nat) (set : Nat → Nat) (group : CLine → Bool) (pinned : CLine → Bool) (n : Nat) (l : List CLine) (x : CLine) :
    List CLine :=
  match l.find? x.same with
  | some y => y.again x :: l.erase y
  | none =>
    let mine := l.filter group
    let row := mine.filter fun y => set y.line == set x.line
    if decide (mine.length < ways) || decide (row.length < ways) then x :: l
    else
      match row.filter fun y => !pinned y with
      | [] => l
      | out => x :: l.erase (out.getD (Config.victim n % out.length) x)

def State.onCaches (s : State) (f : Caches → Caches) : State := { s with caches := f s.caches }

/-- A row that a tile-fetch stream holds and that is not yet popped pins its line (R242). -/
def State.tilePinned (s : State) (x : CLine) : Bool :=
  x.tiles.any fun t => s.cores.any fun c => c.id.toNat == t.1 && c.ctx.queues.toList.any fun q =>
    q.any fun st => st.id == t.2.1 && decide (st.popped ≤ t.2.2) && decide (t.2.2 < st.popped + st.rows.length)

/-- An access to a line in the L2 of a chiplet: a miss is counted, and fills it. -/
def State.l2Touch (s : State) (x : CLine) : State :=
  let t := if holdsLine s.caches.l2 x then s else s.tally x.part 8 0 1
  t.onCaches fun k => { k with
    l2 := enterLine l2Ways l2Set (fun y => y.unit == x.unit) s.tilePinned k.fills k.l2 x
    fills := k.fills + 1 }

/-- The ordinary ways of a partition in each LLC (R349). -/
def State.llcWays (s : State) (part : Nat) : Nat := match s.parts.find? fun p => p.id == part with | some p => p.oways | none => 0

/-- An access to a line in the LLC of a die: a miss is counted, and fills a way of its partition, if it has one. -/
def State.llcTouch (s : State) (x : CLine) : State :=
  let t := if holdsLine s.caches.llc x then s else s.tally x.part 9 0 1
  t.onCaches fun k => { k with
    llc := enterLine (s.llcWays x.part) llcSet (fun y => y.unit == x.unit && y.part == x.part) (fun _ => false) k.fills k.llc x
    fills := k.fills + 1 }

/-- An access to a line at its home (R232). -/
def State.homeTouch (s : State) (pa : Nat) (write : Bool) : State :=
  match s.frameMap pa with
  | none => s
  | some m =>
    match m.homeAt pa with
    | .sync _ => s
    | .chiplet c => s.l2Touch ⟨c, pa / 64, m.space.part, write, false, []⟩
    | .die d => s.llcTouch ⟨d, pa / 64, m.space.part, write, false, []⟩

/-- The L1 that holds a line for a core: in a fused cluster bits [7:6] of the address name the member (R233). -/
def Caches.l1Of (k : Caches) (core line : Nat) : Nat :=
  if k.fused.contains (core / 4) then core / 4 * 4 + line % 4 else core

/-- A load of a core: it hits its L1, or reads the line at its home and fills the L1. Stores write through and fill nothing. -/
def State.l1Touch (s : State) (core pa part : Nat) : State :=
  let x : CLine := ⟨s.caches.l1Of core (pa / 64), pa / 64, part, false, false, []⟩
  let t := if holdsLine s.caches.l1 x then s else s.homeTouch pa false
  t.onCaches fun k => { k with
    l1 := enterLine l1Ways l1Set (fun y => y.unit == x.unit) (fun _ => false) k.fills k.l1 x
    fills := k.fills + 1 }

/-- A tile fetch reads through the L2 of its core's chiplet, which keeps a copy of a line homed elsewhere (R232). -/
def State.tileTouch (s : State) (core pa : Nat) (tile : Nat × Nat × Nat) : State :=
  match s.frameMap pa with
  | none => s
  | some m =>
    let c := chipletOf core
    let here := decide (m.homeAt pa = .chiplet c)
    let x : CLine := ⟨c, pa / 64, m.space.part, false, !here, [tile]⟩
    let t := if here || holdsLine s.caches.l2 x then s else s.homeTouch pa false
    t.l2Touch x

/-! ### Lines that leave (R231, R233, R241, R246, R267) -/

/-- A line lies in a physical range. -/
def CLine.within (x : CLine) (pa size : Nat) : Bool := decide (pa < x.line * 64 + 64) && decide (x.line * 64 < pa + size)

/-- Dirty lines that `hit` names are written back, and stay valid. -/
def State.writeBack (s : State) (hit : CLine → Bool) : State :=
  let clean := fun (x : CLine) => if hit x then { x with dirty := false } else x
  s.onCaches fun k => { k with l2 := k.l2.map clean, llc := k.llc.map clean }

/-- Lines that `hit` names leave every level, what was dirty having been written back. -/
def State.dropLines (s : State) (hit : CLine → Bool) : State :=
  s.onCaches fun k => { k with
    l1 := k.l1.filter fun x => !hit x
    l2 := k.l2.filter fun x => !hit x
    llc := k.llc.filter fun x => !hit x }

/-- Streams of a core end. The copies that those through handles placed leave its chiplet's L2, but for a copy that another stream uses
(R267). -/
def State.dropTileCopies (s : State) (core : Nat) (ids handles : List Nat) : State :=
  let of := fun (l : List Nat) (t : Nat × Nat × Nat) => t.1 == core && l.contains t.2.1
  s.onCaches fun k => { k with
    l2 := (k.l2.filter fun x => !(x.copy && x.tiles.any (of handles) && x.tiles.all (of ids))).map fun x =>
      { x with tiles := x.tiles.filter fun t => !of ids t } }

/-- The L1s and instruction caches of some cores are emptied (R364). -/
def State.dropCores (s : State) (gone : Nat → Bool) : State :=
  s.onCaches fun k => { k with
    l1 := k.l1.filter fun x => !gone x.unit
    icache := k.icache.filter fun x => !gone x.1 }

/-- Everything that the caches hold of a partition leaves. -/
def State.dropPart (s : State) (part : Nat) : State :=
  (s.dropLines fun x => x.part == part).onCaches fun k => { k with
    icache := k.icache.filter fun x => x.2.1.part != part
    tlb2 := k.tlb2.filter fun x => x.2.1.part != part }

/-- Lines of a partition in the ways that it keeps of each set of each LLC; those in ways that are taken from it are written back and leave
(R365). -/
def State.trimWays (s : State) (part ways : Nat) : State :=
  let beside := fun (x y : CLine) => y.unit == x.unit && y.part == part && llcSet y.line == llcSet x.line
  s.onCaches fun k => { k with llc := k.llc.foldl (fun l x =>
    if x.part == part && decide (ways ≤ (l.filter (beside x)).length) then l else l ++ [x]) [] }

/-- The mode of a cluster: fused or not. A change empties its four L1s (R233). -/
def State.fuseCluster (s : State) (cl : Nat) (on : Bool) : State :=
  if s.caches.fused.contains cl = on then s
  else
    s.onCaches fun k => { k with
      l1 := k.l1.filter fun x => x.unit / 4 != cl
      fused := if on then cl :: k.fused else k.fused.filter fun c => c != cl }

/-! ### The instruction cache (R10, R412) -/

/-- Bundles that the instruction cache of a core holds. -/
def icacheSize : Nat := 4096

def State.inIcache (s : State) (core : Nat) (sp : Space) (va : Nat) : Bool := s.caches.icache.contains (core, sp, va)

/-- A bundle enters the instruction cache of a core; where it is full, one of its bundles makes room. -/
def State.icacheFill (s : State) (core : Nat) (sp : Space) (va : Nat) : State :=
  if s.inIcache core sp va then s
  else
    s.onCaches fun k =>
      let mine := k.icache.filter fun x => x.1 == core
      let rest := if mine.length < icacheSize then k.icache else k.icache.erase (mine.getD (Config.victim k.fills % mine.length) (core, sp, va))
      { k with icache := (core, sp, va) :: rest, fills := k.fills + 1 }

/-- Bundles of a range of a space leave every instruction cache. -/
def State.icacheDrop (s : State) (sp : Space) (va size : Nat) : State :=
  s.onCaches fun k => { k with icache := k.icache.filter fun x => !(decide (x.2.1 = sp) && decide (va ≤ x.2.2) && decide (x.2.2 < va + size)) }

end Sys2Proof.Machine
end

