-- ==== Sys2Proof/Machine/Space.lean ====
section
/-! DEFINITION. Address spaces: canonical addresses, mappings and their attribute checks (R235 to R237), and bytes
reached through a mapping. -/

namespace Sys2Proof.Machine

/-- The mailbox half of a die's sync space (R282). -/
def isMailbox (pa : Nat) : Bool := isSync pa && decide (Config.syncHalf ≤ pa % 2 ^ 32)

/-- Bits [63:57] of a global address equal bit 56 (R236). -/
def canonical (va : Word) : Bool := let t := va.toNat / 2 ^ 56; t == 0 || t == 255

/-- The addresses that a copy reads as the cluster's scratchpad window, and that no other access reaches (R287). -/
def windowBase : Nat := 0xFF00000000000000

def inWindow (a : Word) : Bool := decide (windowBase ≤ a.toNat) && decide (a.toNat < windowBase + 2 ^ 22)

/-- The mapping that holds an address of a tenant's space. -/
def State.mappingOf (s : State) (sp : Space) (va : Nat) : Option Mapping :=
  s.maps.find? fun m => decide (m.space = sp) && decide (m.va ≤ va) && decide (va < m.va + m.size)

/-- What an access asks of a mapping (R237). -/
structure Access where
  write   : Bool
  direct  : Bool
  handle  : Bool
  copySys : Bool
  priv    : Bool
  deriving DecidableEq, Repr

/-- Where an address leads: a trap, a page that is not present, or a physical address with its mapping. -/
inductive Xlate
  | trap (t : Trap)
  | miss
  | at_ (pa : Nat) (m : Mapping)
  deriving DecidableEq, Repr

/-- The attribute checks, in the order of R237, made before presence is considered. -/
def Mapping.breach (m : Mapping) (a : Access) : Option Trap :=
  if a.write && !m.w then some .protection
  else if a.direct && m.x then some .xAccess
  else if a.handle && !m.x then some .xAccess
  else if m.remote && !a.copySys then some .protection
  else if m.priv && !a.priv then some .privilege
  else none

/-- A frame stands behind the mapping. -/
def Mapping.held (m : Mapping) : Bool :=
  match m.back with
  | .frame => true
  | .heap => true
  | .image _ _ => true
  | .stub => false
  | .later _ => false
  | .refused _ => false

/-- No backing could be allocated for the page (R239). -/
def Mapping.isRefused (m : Mapping) : Bool :=
  match m.back with
  | .refused _ => true
  | .frame => false
  | .heap => false
  | .stub => false
  | .image _ _ => false
  | .later _ => false

/-- The page holds save images; it stands in a context area or a spill area, which R235 gives no addresses. -/
def Mapping.isImage (m : Mapping) : Bool :=
  match m.back with
  | .image _ _ => true
  | .frame => false
  | .heap => false
  | .stub => false
  | .later _ => false
  | .refused _ => false

/-- The translation of an address for an access (R236, R237); a page for which no backing can be allocated is as one that is not mapped
(R239). -/
def State.xlate (s : State) (sp : Space) (va : Word) (a : Access) : Xlate :=
  if canonical va && !inWindow va then
    match s.mappingOf sp va.toNat with
    | none => .trap .xlateFault
    | some m =>
      if m.remote || !m.held || m.isImage || populated (m.pa + (va.toNat - m.va)) then
        match m.breach a with
        | some t => .trap t
        | none => if m.present then .at_ (m.pa + (va.toNat - m.va)) m else if m.isRefused then .trap .xlateFault else .miss
      else .trap .xlateFault
  else .trap .xlateFault

/-- The physical address of a byte for the module's own use; none where no page of this module holds it. A page that is not
present has its frame all the same: whatever reads it waits for it (R237), and its move takes the frame's bytes along (R241), so that
an access of the module through the frame is one that waited for the page (R415; log entry 64). -/
def State.physOf (s : State) (sp : Space) (va : Nat) : Option Nat :=
  match s.mappingOf sp va with
  | some m => if m.remote || !m.held then none else some (m.pa + (va - m.va))
  | none => none

/-- The trap of an access of the module to a byte of a tenant's space (R237, R267, R282, R415): an address that is not mapped, a tile, a
peer's page, or sync space. W counts where `write` asks for it; PRIV does not. -/
def State.moduleTrap (s : State) (sp : Space) (va : Nat) (write : Bool) : Option Trap :=
  match s.xlate sp (BitVec.ofNat 64 va) ⟨write, true, false, false, true⟩ with
  | .trap t => some t
  | _ => match s.mappingOf sp va with | some m => if m.sync then some .protection else none | none => none

/-- What stands in the way of n bytes of a tenant's space for the module: a trap, or a page to wait for. -/
def State.reachAs (s : State) (sp : Space) (va : Word) (n : Nat) (write : Bool) : Option (Trap ⊕ Nat) :=
  let at_ := fun (i : Nat) => (va.toNat + min (i * 65536) (n - 1))
  let one := fun (a : Nat) =>
    match s.moduleTrap sp a write with
    | some t => some (Sum.inl t)
    | none => match s.mappingOf sp a with | some m => if m.present then none else some (.inr a) | none => none
  let l := (List.range (n / 65536 + 2)).map fun i => one (at_ i)
  match l.find? fun x => match x with | some (.inl _) => true | _ => false with
  | some x => x
  | none => (l.find? Option.isSome).getD none

/-- Bytes that the module reads, or writes as records of its own, whatever W says (R415). -/
def State.reachAll (s : State) (sp : Space) (va : Word) (n : Nat) : Option (Trap ⊕ Nat) := s.reachAs sp va n false

/-- Bytes read from a tenant's space by the module; a byte that no page holds reads zero. -/
def State.peek (s : State) (sp : Space) (va : Nat) : Nat → List Byte
  | 0 => []
  | n + 1 =>
    (match s.physOf sp va with | some pa => readByte s.mem pa | none => unlistedByte) :: s.peek sp (va + 1) n

/-- A write unit enters the coherence order of its bytes at the next instant (R247, R258); one of a whole line clears its
poison (R381). -/
def State.write (s : State) (pa : Nat) (bs : List Byte) (atomic : Bool) (rels : List (Nat × Nat × Nat)) : State :=
  { s.homeTouch pa true with
    now := s.now + 1
    hist := ⟨s.now + 1, pa, readBytes s.mem pa bs.length, bs, atomic, rels⟩ :: s.hist
    mem := writeBytes s.mem pa bs
    poison := if bs.length = 64 ∧ pa % 64 = 0 then s.poison.filter fun l => l != pa / 64 else s.poison }

/-- Bytes written to a tenant's space by the module, a line at a time; a line that no page holds is not written. -/
def State.pokeLines (s : State) (sp : Space) (va : Nat) (bs : List Byte) : Nat → State
  | 0 => s
  | n + 1 =>
    let k := 64 - va % 64
    let t := match s.physOf sp va with | some pa => s.write pa (bs.take k) false [] | none => s
    if bs.length ≤ k then t else t.pokeLines sp (va + k) (bs.drop k) n

def State.poke (s : State) (sp : Space) (va : Nat) (bs : List Byte) : State :=
  if bs = [] then s else s.pokeLines sp va bs (bs.length / 64 + 2)

end Sys2Proof.Machine
end

