-- ==== Sys2Proof/Machine/Trace.lean ====
section
/-! DEFINITION. Event records (R398 to R401). -/

namespace Sys2Proof.Machine

/-- A 32-byte record of a source (R399). -/
def recordBytes (ty src delta w1 w2 w3 : Nat) : List Byte :=
  leBytes 8 (ty % 256 + src % 256 * 256 + delta % 2 ^ 20 * 65536) ++ leBytes 8 w1 ++ leBytes 8 w2 ++ leBytes 8 w3

/-- Bytes that a buffer holds for records. -/
def Trace.room (t : Trace) : Nat := t.size - 64

/-- Bytes in use between TAIL, as the reader last wrote it, and the last record. -/
def State.traceUsed (s : State) (t : Trace) : Nat :=
  let tail := leNat (s.peek t.space (t.buf.toNat + 8) 8)
  (t.pend + t.room - tail % t.room) % t.room

/-- Whether one more record can be written (R401). -/
def State.traceFree (s : State) (t : Trace) : Bool :=
  t.flags.getLsbD 3 || decide (s.traceUsed t + 64 ≤ t.room)

/-- One record written at the end of the buffer. -/
def State.tracePut (s : State) (t : Trace) (bs : List Byte) : State × Trace :=
  (s.poke t.space (t.buf.toNat + 64 + t.pend) bs,
    { t with pend := (t.pend + 32) % t.room, since := if t.head = t.pend then tickOf s.time else t.since })

/-- One record is dropped for want of room: the header counts it, and its source (R401). -/
def State.traceDrop (s : State) (t : Trace) (src : Nat) : State × Trace :=
  (s.poke t.space (t.buf.toNat + 16) (leBytes 8 (t.lost + 1)),
    { t with lost := t.lost + 1, lostBy := assocSet 0 t.lostBy src (assocGet 0 t.lostBy src + 1) })

/-- The last record that a source has written stands at this tick. -/
def Trace.stamp (t : Trace) (src now : Nat) : Trace := { t with last := (src, now) :: t.last.filter fun x => x.1 != src }

/-- The ticks since the last record that a source has written, where DELTA can hold them. -/
def Trace.delta (t : Trace) (src now : Nat) : Option Nat :=
  match t.last.find? fun x => x.1 == src with
  | some x => if now - x.2 < 2 ^ 20 then some (now - x.2) else none
  | none => none

/-- One record of a source at tick `now`, preceded by TIME where R400 asks for it, which CLOCK does not need; whether it found room. -/
def State.traceOne (s : State) (t : Trace) (src now ty w1 w2 w3 : Nat) : State × Trace × Bool :=
  if !s.traceFree t then (s, t, false)
  else
    match if ty = 0x02 then some 0 else t.delta src now with
    | some d =>
      let (s, t) := s.tracePut t (recordBytes ty src d w1 w2 w3)
      (s, t.stamp src now, true)
    | none =>
      let (s, t) := s.tracePut t (recordBytes 0x01 src 0 now 0 0)
      let t := t.stamp src now
      if !s.traceFree t then (s, t, false)
      else
        let (s, t) := s.tracePut t (recordBytes ty src 0 w1 w2 w3)
        (s, t, true)

def State.setTrace (s : State) (t : Trace) : State :=
  { s with traces := s.traces.map fun u => if u.space = t.space then t else u }

def State.traceOf (s : State) (sp : Space) : Option Trace := s.traces.find? fun t => decide (t.space = sp)

/-- A record of source `src` at reference tick `now`. Records that the source has lost are told first, once there is room (R401). -/
def State.emit (s : State) (sp : Space) (src now ty w1 w2 w3 : Nat) : State :=
  match s.traceOf sp with
  | none => s
  | some t =>
    let n := assocGet 0 t.lostBy src
    let (s, t, told) := if n = 0 then (s, t, true) else s.traceOne t src now 0x03 n 0 0
    let t := if told then { t with lostBy := assocSet 0 t.lostBy src 0 } else t
    let (s, t, put) := if told then s.traceOne t src now ty w1 w2 w3 else (s, t, false)
    let (s, t) := if put then (s, t) else s.traceDrop t src
    s.setTrace t

/-- A record that the TRACE flags turn on: bit 0 engine records, bit 1 samples, bit 2 MARK records (R398). -/
def State.emitIf (s : State) (flag : Nat) (sp : Space) (src now ty w1 w2 w3 : Nat) : State :=
  match s.traceOf sp with
  | some t => if t.flags.getLsbD flag then s.emit sp src now ty w1 w2 w3 else s
  | none => s

end Sys2Proof.Machine
end

