-- ==== Sys2Proof/Machine/Image.lean ====
section
/-! DEFINITION. Save images (R228, R229): their sections, header and bytes. What R228 lists without laying it out byte by byte is a free
function of the values that it lists (log entry 7). -/

namespace Sys2Proof

/-- FREE VALUE (log entry 7). How the fields of a loop level lie in the 32 bytes that section 0x04 gives it. -/
opaque Config.levelWord : Machine.LoopLevel → BitVec 256

/-- FREE VALUE (log entry 7). The bundle count at the end of section 0x04. -/
opaque Config.spanBytes : Nat → List Byte

namespace Machine

/-- What section 0x05 lists. -/
structure ControlState where
  vbase   : BitVec 12
  rrb     : BitVec 6
  chk     : Bool
  autoc   : Bool
  ftz     : Bool
  fmt     : Fmt
  handler : BitVec 58
  inTrap  : Bool
  trapEn  : Bool
  flags   : Vector FlagSet 10
  ferec   : FeRec
  nan     : BitVec 64
  inf     : BitVec 64
  tableA  : Vector Byte 16
  tableB  : Vector Byte 16
  bandA   : Vector (BitVec 16) 64
  bandB   : Vector (BitVec 16) 8
  energy  : Energy
  deriving DecidableEq, Repr

/-- What section 0x0B lists of a stream: its record's address, its box, the rows popped and to refetch, and the cycles that its first row
still has, if it has not landed. -/
structure StreamState where
  addr    : Word
  box     : Box
  popped  : Nat
  refetch : Nat
  first   : Option Nat
  deriving DecidableEq, Repr

end Machine

/-- FREE VALUE (log entry 7). Sections 0x05, 0x09 to 0x0C, whose fields R228 lists without their places. -/
opaque Config.controlBody : Machine.ControlState → List Byte
opaque Config.replayBody : List Machine.Result → List Byte
opaque Config.landingBody : List (Machine.Landing × Option Machine.Entry) → List Byte
opaque Config.streamBody : List (List Machine.StreamState) → List Byte
opaque Config.pendingBody : List (Machine.Result × Option Machine.Wr) → List Byte

namespace Machine

/-- What an image holds of a task: its members' contexts and energy records, the requests that they make again, their scratchpad by window
offset, the class of the core and the kind of image. -/
structure Held where
  ctxs     : List Ctx
  energies : List Energy
  fifo     : List (Nat × Entry)
  spm      : List Host.Cell
  steel    : Bool
  kind     : Nat
  deriving DecidableEq, Repr

/-- A section: its ID, member and body. -/
structure Sect where
  id   : Nat
  mem  : Nat
  body : List Byte
  deriving DecidableEq, Repr

/-! ### Bodies -/

/-- Groups of 64 accumulator rows that hold anything: the touched ones (log entry 7). -/
def Ctx.groups (x : Ctx) : List Nat := (List.range 64).filter fun g => x.acc.any fun r => r.1 / 64 == g

def HState.code : HState → Nat
  | .empty => 0
  | .live => 1
  | .moved => 2

def Ctx.scalarBody (x : Ctx) : List Byte := x.sregs.toList.flatMap fun v => leBytes 8 v.toNat

def Ctx.predBody (x : Ctx) : List Byte := x.pregs.toList.flatMap fun v => leBytes 128 v.toNat

def Ctx.handleBody (x : Ctx) : List Byte :=
  x.hregs.toList.flatMap fun h => leBytes 16 h.val.toNat ++ leBytes 1 h.st.code ++ leBytes 15 0

def Ctx.loopBody (x : Ctx) : List Byte :=
  (x.loops.toList.flatMap fun l => leBytes 32 (Config.levelWord l).toNat) ++ Config.spanBytes x.spanCount

def Ctx.control (x : Ctx) (e : Energy) : ControlState :=
  { vbase := x.vbase, rrb := x.rrb, chk := x.chk, autoc := x.autoc, ftz := x.ftz, fmt := x.fmt, handler := x.trapHandler
    inTrap := x.trapActive, trapEn := x.trapEn, flags := x.flags, ferec := x.ferec, nan := x.dstatNan, inf := x.dstatInf
    tableA := x.tableA, tableB := x.tableB, bandA := x.bandA, bandB := x.bandB, energy := e }

/-- A plane, row by row; an element of 32 bits has the form of R229. -/
def planeBody (p : List (Nat × Row)) : List Byte := (List.range 512).flatMap fun i => leBytes 2048 (assocGet 0#16384 p i).toNat

/-- D as a word of 4 bytes, then AR, ACTIVE and SHADOW. -/
def Ctx.matrixBody (x : Ctx) : List Byte :=
  leBytes 4 x.window.toNat ++ leBytes 4096 x.ar.toNat ++ planeBody x.active ++ planeBody x.shadow

def Ctx.accBody (x : Ctx) : List Byte :=
  leBytes 8 (x.groups.foldl (fun n g => n + 2 ^ g) 0)
    ++ x.groups.flatMap fun g => (List.range 64).flatMap fun r => leBytes 2048 (x.getRow (BitVec.ofNat 12 (64 * g + r))).toNat

/-- A result that section 0x0C holds: a scratchpad write, with the status that a drain leaves in DSTAT (R320), or a change of the SC slot; the
others stand in section 0x09. -/
def Wr.isPending : Wr → Bool
  | .spm _ => true
  | .atom _ _ _ _ _ _ _ _ => true
  | .sys _ _ => true
  | .rrb _ => true
  | .fmt _ _ _ _ => true
  | .rnd _ => true
  | .table _ _ => true
  | .band _ _ _ => true
  | .tfx _ => true
  | .rfence => true
  | .nothing => false
  | .s _ _ => false
  | .p _ _ _ => false
  | .row _ _ _ => false
  | .beat _ _ => false
  | .dstat _ _ _ => true
  | .h _ _ => false

def Ctx.replayBody (x : Ctx) : List Byte := Config.replayBody (x.results.filter fun r => !r.wr.isPending)

def Wr.isDstat : Wr → Bool
  | .dstat _ _ _ => true
  | _ => false

/-- The entries of section 0x0C: a drain is one, its write with the DSTAT bits that it carries, which is the next result that it has issued. -/
def Ctx.pendingEntries (x : Ctx) : List (Result × Option Wr) :=
  (x.results.filter fun r => r.wr.isPending && !r.wr.isDstat).map fun r =>
    (r, (x.results.find? fun d => d.wr.isDstat && d.slot == r.slot && d.order == r.order + 1).map Result.wr)

def Ctx.pendingBody (x : Ctx) : List Byte := Config.pendingBody x.pendingEntries

/-- The landings (R96), each with the request that it waits for. -/
def Ctx.landingBody (x : Ctx) (fifo : List Entry) : List Byte :=
  Config.landingBody (x.landings.map fun l => (l, fifo.find? fun e => e.landing == some l.id))

/-- A stream as section 0x0B has it: every row that is not popped is to be refetched (R303). -/
def Ctx.streamState (x : Ctx) (st : Stream) : StreamState :=
  { addr := st.recAddr, box := st.box, popped := st.popped, refetch := st.total - st.popped
    first := (x.landings.find? fun l => l.id == st.id).map Landing.rem }

def Ctx.streamBody (x : Ctx) : List Byte := Config.streamBody (x.queues.toList.map fun q => q.map x.streamState)

def Ctx.queuesIdle (x : Ctx) : Bool := x.queues.toList.all List.isEmpty

/-- The requests of member m. -/
def Held.fifoOf (h : Held) (m : Nat) : List Entry := (h.fifo.filter fun e => e.1 == m).map Prod.snd

def Held.energyOf (h : Held) (m : Nat) : Energy := h.energies.getD m Energy.reset

/-- The first k pieces of n bytes. -/
def chunks (n : Nat) : Nat → List Byte → List (List Byte)
  | 0, _ => []
  | k + 1, bs => bs.take n :: chunks n k (bs.drop n)

/-- n bytes from address a of a store in canonical form that lists nothing below a. -/
def spread : List Host.Cell → Nat → Nat → List Byte
  | _, _, 0 => []
  | [], _, n + 1 => List.replicate (n + 1) unlistedByte
  | (k, v) :: t, a, n + 1 => if k = a then v :: spread t (a + 1) n else unlistedByte :: spread ((k, v) :: t) (a + 1) n

/-- The body of one section of member m, where the section is present; `full` asks for sections 0x07 and 0x08. -/
def Held.body (h : Held) (full : Bool) (id m : Nat) (x : Ctx) : Option (List Byte) :=
  match id with
  | 1 => some x.scalarBody
  | 2 => some x.predBody
  | 3 => some x.handleBody
  | 4 => some x.loopBody
  | 5 => some (Config.controlBody (x.control (h.energyOf m)))
  | 6 => if x.matrix then some x.matrixBody else none
  | 7 => if full then some x.accBody else none
  | 8 => if full && m == 0 then some (spread h.spm 0 (1048576 * h.ctxs.length)) else none
  | 9 => if h.kind = 1 then none else some x.replayBody
  | 10 => if h.kind = 1 then none else some (x.landingBody (h.fifoOf m))
  | 11 => if x.queuesIdle then none else some x.streamBody
  | 12 => if h.kind = 1 then none else some x.pendingBody
  | _ => none

/-- The bytes of that body. -/
def Held.bodySize (h : Held) (id m : Nat) (x : Ctx) : Option Nat :=
  match id with
  | 1 => some 512
  | 2 => some 4096
  | 3 => some 512
  | 6 => if x.matrix then some 2101252 else none
  | 7 => some (8 + 131072 * x.groups.length)
  | 8 => if m = 0 then some (1048576 * h.ctxs.length) else none
  | _ => (h.body true id m x).map List.length

/-- The sections, in ascending ID and then member order. -/
def Held.sections (h : Held) (full : Bool) : List Sect :=
  (List.range 12).flatMap fun i => h.ctxs.zipIdx.filterMap fun p => (h.body full (i + 1) p.2 p.1).map fun b => ⟨i + 1, p.2, b⟩

/-! ### The image -/

def padded (n : Nat) : Nat := (n + 63) / 64 * 64

def Sect.bytes (t : Sect) : List Byte :=
  leBytes 2 t.id ++ leBytes 1 t.mem ++ leBytes 5 0 ++ leBytes 8 t.body.length ++ t.body
    ++ List.replicate (padded t.body.length - t.body.length) 0#8

/-- Bytes of an image with these sections. -/
def imageSize (l : List Sect) : Nat := 64 + l.foldl (fun n t => n + 16 + padded t.body.length) 0

/-- Bytes of the whole image. -/
def Held.size (h : Held) : Nat :=
  64 + (((List.range 12).flatMap fun i => h.ctxs.zipIdx.filterMap fun p => h.bodySize (i + 1) p.2 p.1).map fun n => 16 + padded n).sum

/-- The image. -/
def Held.image (h : Held) (full : Bool) : List Byte :=
  let l := h.sections full
  leBytes 4 0x4D494731 ++ leBytes 2 1 ++ leBytes 1 h.kind ++ leBytes 1 (if h.steel then 1 else 0)
    ++ leBytes 8 (match h.ctxs with | x :: _ => x.cycle.toNat | [] => 0) ++ leBytes 8 (imageSize l) ++ leBytes 2 l.length
    ++ leBytes 1 h.ctxs.length ++ leBytes 37 0 ++ l.flatMap Sect.bytes

/-- The image of a task that has left its core. -/
def Node.held (n : Node) : Held := ⟨n.saved, n.energies, n.fifo, n.spm, isSteel (BitVec.ofNat 6 n.core), n.kind⟩

end Machine
end Sys2Proof
end

