-- ==== Sys2Proof/Machine/Flags.lean ====
section
/-! DEFINITION. Flag computations: what an operation raises with its rounded result (R100, R103), and what landing
flags do to FLAGS, FEREC and DSTAT (R115 to R118, R188). -/

namespace Sys2Proof.Machine

/-! ### Results with their flags -/

/-- A sum or product rounded to a format; an invalid operation gives the canonical NaN and NV (R100). -/
def roundResult (f : FloatFmt) (rm : RMode) (ftz : Bool) (r : FVal × Bool) : Nat × FlagSet :=
  if r.2 then (f.nanCode, flagNV) else f.round rm ftz r.1

/-- a × b + c with one rounding; a NaN operand gives the NaN and no flag. -/
def fusedValue (rm : RMode) (a b c : FVal) : FVal × Bool :=
  if a.isNan || b.isNan || c.isNan then (.nan, false)
  else
    let p := a.mul b
    if p.2 then (.nan, true) else p.1.add rm c

/-- The lesser of two values, −0 below +0; a NaN operand gives the canonical NaN. -/
def lesser (a b : FVal) : FVal := if a.isNan || b.isNan then .nan else if a.below b then a else b

def greater (a b : FVal) : FVal := if a.isNan || b.isNan then .nan else if a.below b then b else a

/-! ### Atomics (R196, R281) -/

/-- The new word of an atomic on the old word `m`, and its flags: `a` the operand (the expected value of a CAS), `b` the
new value of a CAS. -/
def atomNew (op : AtomOp) (size : Nat) (rm : RMode) (ftz : Bool) (m a b : Nat) : Nat × FlagSet :=
  let w := 8 * size
  match op with
  | .add => ((m + a) % 2 ^ w, 0#6)
  | .min => (if signedOf w a < signedOf w m then a else m, 0#6)
  | .max => (if signedOf w m < signedOf w a then a else m, 0#6)
  | .and => (m &&& a, 0#6)
  | .or => (m ||| a, 0#6)
  | .xor => (m ^^^ a, 0#6)
  | .xchg => (a, 0#6)
  | .cas => (if m = a then b else m, 0#6)
  | .fadd => roundResult fp32 rm ftz ((fp32.read ftz m).add rm (fp32.read ftz a))

/-! ### Landing flags -/

/-- FLAGS of a slot take in the flags of a result; hardware only sets them (R115). -/
def Ctx.raiseFlags (x : Ctx) (slot : Nat) (f : FlagSet) : Ctx :=
  { x with flags := if h : slot < 10 then x.flags.set slot (x.flags[slot] ||| f) h else x.flags }

/-- An event: any of NV, DZ, OF, UF or NX (R117). -/
def isEvent (f : FlagSet) : Bool := decide (f.toNat % 32 ≠ 0)

/-- The event of a cycle that FEREC records: that of the lowest slot, and within a slot of the earliest issue. -/
def firstEvent (rs : List Result) : Option Result :=
  (rs.filter fun r => isEvent r.flags).foldl
    (fun best r => match best with
      | none => some r
      | some b => if r.slot < b.slot ∨ (r.slot = b.slot ∧ r.order < b.order) then some r else some b) none

/-- FEREC filled by the first event since it was cleared (R117). -/
def Ctx.recordEvent (x : Ctx) (rs : List Result) : Ctx :=
  if x.ferec.valid then x
  else
    match firstEvent rs with
    | none => x
    | some r => { x with ferec := ⟨r.pc, true, BitVec.ofNat 4 r.slot, r.cyc.setWidth 56, r.flags⟩ }

/-- DSTAT bits of group `g` set by a drain (R118). -/
def Ctx.setDstat (x : Ctx) (g : BitVec 6) (nan inf : Bool) : Ctx :=
  { x with
    dstatNan := if nan then x.dstatNan ||| BitVec.twoPow 64 g.toNat else x.dstatNan
    dstatInf := if inf then x.dstatInf ||| BitVec.twoPow 64 g.toNat else x.dstatInf }

/-- CLRFLG (R188). -/
def Ctx.clearFlags (x : Ctx) (mask : BitVec 10) (fe : Bool) : Ctx :=
  { x with
    flags := Vector.ofFn fun i : Fin 10 => if mask.getLsbD i.val then 0#6 else x.flags[i]
    dstatNan := if mask.getLsbD 5 then 0#64 else x.dstatNan
    dstatInf := if mask.getLsbD 5 then 0#64 else x.dstatInf
    ferec := if fe then FeRec.reset else x.ferec }

end Sys2Proof.Machine
end

