-- ==== Sys2Proof/Machine/Operands.lean ====
section
/-! DEFINITION. Operand forms: the lanes of a row (R151, R164), the scratchpad window (R190, R191, R181) and the
identifying numbers that an address form needs. -/

namespace Sys2Proof

/-! ### Sizes -/

def VType.width : VType → Nat
  | .f32 => 32
  | .i32 => 32
  | .f16 => 16
  | .bf16 => 16

/-- N, the lane count of a type (R151). -/
def VType.lanes : VType → Nat
  | .f32 => 512
  | .i32 => 512
  | .f16 => 1024
  | .bf16 => 1024

def Width.bytes : Width → Nat
  | .b1 => 1
  | .b2 => 2
  | .b4 => 4
  | .b8 => 8

def DrainFmt.bytes : DrainFmt → Nat
  | .f32 => 4
  | .i32 => 4
  | .bf16 => 2
  | .f16 => 2
  | .e4m3 => 1
  | .e5m2 => 1
  | .int8 => 1

end Sys2Proof

namespace Sys2Proof.Machine

/-! ### Lanes -/

/-- Lane i of a row, as a number. -/
def laneOf (t : VType) (r : Row) (i : Nat) : Nat := digit (VType.width t) r.toNat i

/-- A row of n lanes of w bits. -/
def rowOf (w n : Nat) (f : Nat → Nat) : Row := BitVec.ofNat 16384 (packNat w f n)

/-- The row bits of the lanes that a predicate leaves on, n lanes of w bits. -/
def laneMask (w n : Nat) (p : Pred) : Row :=
  BitVec.ofNat 16384 (packNat w (fun i => if p.getLsbD i then 2 ^ w - 1 else 0) n)

/-- The predicate whose bit i, for i below n, is f i. -/
def predOf (n : Nat) (f : Nat → Bool) : Pred := BitVec.ofNat 1024 (packNat 1 (fun i => if f i then 1 else 0) n)

/-- Bits [n−1:0]. -/
def lowPred (n : Nat) : Pred := BitVec.ofNat 1024 (2 ^ n - 1)

/-- Bytes of a row as a list, byte 0 first. -/
def rowBytes (r : Row) (n : Nat) : List Byte := leBytes n r.toNat

/-- A row from bytes, byte 0 first; missing bytes are zero. -/
def bytesRow (bs : List Byte) : Row := BitVec.ofNat 16384 (leNat bs)

/-- The flags of lanes 0 to n−1 that are on, joined. -/
def joinFlags (p : Pred) (f : Nat → FlagSet) : Nat → FlagSet
  | 0 => 0
  | n + 1 => joinFlags p f n ||| (if p.getLsbD n then f n else 0)

/-- The size of an atomic: 4 or 8 bytes. -/
def atomBytes (w8 : Bool) : Nat := if w8 then 8 else 4

/-! ### The scratchpad window (R190, R191) -/

/-- The end of the window a task may reach: 4 MiB in a gang, else its own 1 MiB. -/
def Core.window (c : Core) : Nat := match c.task with | some t => if t.gang then 2 ^ 22 else 2 ^ 20 | none => 2 ^ 20

/-- The check of an access of `n` bytes at E with an alignment: PROTECTION before ALIGNMENT. -/
def windowCheck (window e n align : Nat) : Option Trap :=
  if window < e + n then some .protection
  else if e % align ≠ 0 ∨ e / 2 ^ 20 ≠ (e + n - 1) / 2 ^ 20 then some .alignment
  else none

/-- The key of a window byte in the module's scratchpads: its core and its offset. -/
def spmKey (c : Core) (e : Nat) : Nat :=
  match c.task with
  | some t => if t.gang then (c.id.toNat / 4 * 4 + e / 2 ^ 20) * 2 ^ 20 + e % 2 ^ 20 else c.id.toNat * 2 ^ 20 + e
  | none => c.id.toNat * 2 ^ 20 + e

/-- Bytes of the window from E up. -/
def readSpm (s : State) (e n : Nat) : List Byte := readBytes s.spm (spmKey s.core e) n

/-- A scratchpad write in its cells. -/
def spmCells (c : Core) (e : Nat) : List Byte → List (Nat × Byte)
  | [] => []
  | b :: bs => (spmKey c e, b) :: spmCells c (e + 1) bs

/-- E of the LVE, LSC and LIX forms (R190). -/
def Core.lsOffset (c : Core) (b : BitVec 4) (off : Nat) : Nat :=
  ((c.ctx.getS (b.setWidth 6)).toNat + off) % 2 ^ 64

/-- E of the LAT forms and of a drain: a base register and a scaled offset (R190, R180). -/
def Core.scaledOffset (c : Core) (b : BitVec 6) (off scale : Nat) : Nat :=
  ((c.ctx.getS b).toNat + off * scale) % 2 ^ 64

end Sys2Proof.Machine
end

