-- ==== Sys2Proof/Machine/Engine.lean ====
section
/-! DEFINITION. The engine-queue slot as it issues (R250, R256, R257, R277 to R291): an operation becomes an entry of
its class FIFOs, with a landing entry where it returns data. What it does when it performs is in Machine/Perform.lean. -/

namespace Sys2Proof.Machine

/-- The task of a core, as its entries carry it. -/
def Core.owner (c : Core) : Running := c.task.getD ⟨⟨0, 0, 0⟩, 0, false, 0#2, false⟩

/-! ### Entries (R250) -/

def allClasses : BitVec 16 := BitVec.allOnes 16

/-- The classes an access stands in: its own, or all of them with .acq or .rel. -/
def classesOf (cls : BitVec 4) (acq rel : Bool) : BitVec 16 :=
  if acq || rel then allClasses else BitVec.twoPow 16 cls.toNat

/-- The number of the next entry of a core. -/
def nextEntry (f : List Entry) : Nat := match f.getLast? with | some e => e.id + 1 | none => 0

/-- The single-copy atomic units of an access: the 16-byte granules of a row, or one (R258). -/
def granules : EOp → List Nat
  | .load size => if size = 2048 then List.range 128 else [0]
  | .store bs => if bs.length = 2048 then List.range 128 else [0]
  | _ => [0]

/-- An operation enters its FIFOs at the tail. -/
def Core.enter (c : Core) (op : EOp) (classes : BitVec 16) (cls : BitVec 4) (acq rel : Bool) (va : Word)
    (landing : Option Nat) : Core :=
  { c with fifo := c.fifo ++ [⟨nextEntry c.fifo, classes, cls, op, va, c.scope, acq, rel, landing, c.owner, granules op, [], true,
      false, c.ctx.pc, c.time⟩] }

/-- An entry that returns data through a landing entry (R88). -/
def Core.enterLanding (c : Core) (op : EOp) (cls : BitVec 4) (acq rel : Bool) (va : Word) (arv : BitVec 12)
    (dest : LDest) (kind : LKind) : Core :=
  (c.enter op (classesOf cls acq rel) cls acq rel va (some c.ctx.order)).onCtx fun x => x.pushLanding 7 arv dest kind

/-! ### Issue-time checks (R90, R277) -/

/-- The first check that fails. -/
def firstTrap : List (Option Trap) → Option Trap
  | [] => none
  | some t :: _ => some t
  | none :: ts => firstTrap ts

/-- A full landing-slot table: SCHEDULE. -/
def landingCheck (c : Core) : Option Trap :=
  if c.ctx.landings.length < Config.landingSlots then none else some .schedule

def alignCheck (a : Word) (n : Nat) : Option Trap := if a.toNat % n = 0 then none else some .alignment

def globalCheck (b : BitVec 6) (n : Nat) (c : Core) : Option Trap := alignCheck (c.ctx.getS b) n

def loadCheck (b : BitVec 6) (n : Nat) (c : Core) : Option Trap := firstTrap [landingCheck c, globalCheck b n c]

/-! ### Loads and stores (R279) -/

def execLdg (g : Guard) (d b : BitVec 6) (w : Width) (cls : BitVec 4) (aq : Bool) (arv : BitVec 12) (s : State) :
    Host.Outcome State Fault Refusal :=
  checked g 7 (loadCheck b w.bytes) s fun c =>
    c.enterLanding (.load w.bytes) cls aq false (c.ctx.getS b) arv (.s d) .load

def execLdgv (g : Guard) (v : BitVec 8) (b : BitVec 6) (cls : BitVec 4) (aq : Bool) (arv : BitVec 12) (s : State) :
    Host.Outcome State Fault Refusal :=
  checked g 7 (loadCheck b 64) s fun c =>
    c.enterLanding (.load 2048) cls aq false (c.ctx.getS b) arv (.row (c.ctx.rowName v)) .load

def execStg (g : Guard) (d b : BitVec 6) (w : Width) (cls : BitVec 4) (rl : Bool) (s : State) :
    Host.Outcome State Fault Refusal :=
  checked g 7 (globalCheck b w.bytes) s fun c =>
    c.enter (.store (leBytes w.bytes (c.ctx.getS d).toNat)) (classesOf cls false rl) cls false rl (c.ctx.getS b) none

def execStgv (g : Guard) (v : BitVec 8) (b : BitVec 6) (cls : BitVec 4) (rl : Bool) (s : State) :
    Host.Outcome State Fault Refusal :=
  checked g 7 (globalCheck b 64) s fun c =>
    c.enter (.store (rowBytes (c.ctx.getV v) 2048)) (classesOf cls false rl) cls false rl (c.ctx.getS b) none

/-! ### Atomics at the home (R281) -/

/-- The operand is sD; a CAS takes its new value from s(D+1). The RM and FTZ of issue travel with the request. -/
def globalAtomic (op : AtomOp) (g : Guard) (d b : BitVec 6) (size : Nat) (cls : BitVec 4) (aq rl : Bool)
    (arv : BitVec 12) (s : State) : Host.Outcome State Fault Refusal :=
  checked g 7 (loadCheck b size) s fun c =>
    c.enterLanding (.atom op size (c.ctx.getS d) (c.ctx.getS (d + 1)) c.ctx.fmt.rm c.ctx.ftz) cls aq rl (c.ctx.getS b)
      arv (.s d) .load

def execAtgAdd (g : Guard) (d b : BitVec 6) (w8 : Bool) (cls : BitVec 4) (aq rl : Bool) (arv : BitVec 12) (s : State) :
    Host.Outcome State Fault Refusal :=
  globalAtomic .add g d b (atomBytes w8) cls aq rl arv s

def execAtgMin (g : Guard) (d b : BitVec 6) (w8 : Bool) (cls : BitVec 4) (aq rl : Bool) (arv : BitVec 12) (s : State) :
    Host.Outcome State Fault Refusal :=
  globalAtomic .min g d b (atomBytes w8) cls aq rl arv s

def execAtgMax (g : Guard) (d b : BitVec 6) (w8 : Bool) (cls : BitVec 4) (aq rl : Bool) (arv : BitVec 12) (s : State) :
    Host.Outcome State Fault Refusal :=
  globalAtomic .max g d b (atomBytes w8) cls aq rl arv s

def execAtgAnd (g : Guard) (d b : BitVec 6) (w8 : Bool) (cls : BitVec 4) (aq rl : Bool) (arv : BitVec 12) (s : State) :
    Host.Outcome State Fault Refusal :=
  globalAtomic .and g d b (atomBytes w8) cls aq rl arv s

def execAtgOr (g : Guard) (d b : BitVec 6) (w8 : Bool) (cls : BitVec 4) (aq rl : Bool) (arv : BitVec 12) (s : State) :
    Host.Outcome State Fault Refusal :=
  globalAtomic .or g d b (atomBytes w8) cls aq rl arv s

def execAtgXor (g : Guard) (d b : BitVec 6) (w8 : Bool) (cls : BitVec 4) (aq rl : Bool) (arv : BitVec 12) (s : State) :
    Host.Outcome State Fault Refusal :=
  globalAtomic .xor g d b (atomBytes w8) cls aq rl arv s

def execAtgXchg (g : Guard) (d b : BitVec 6) (w8 : Bool) (cls : BitVec 4) (aq rl : Bool) (arv : BitVec 12) (s : State) :
    Host.Outcome State Fault Refusal :=
  globalAtomic .xchg g d b (atomBytes w8) cls aq rl arv s

def execAtgCas (g : Guard) (d b : BitVec 6) (w8 : Bool) (cls : BitVec 4) (aq rl : Bool) (arv : BitVec 12) (s : State) :
    Host.Outcome State Fault Refusal :=
  globalAtomic .cas g d b (atomBytes w8) cls aq rl arv s

def execAtgFadd (g : Guard) (d b : BitVec 6) (cls : BitVec 4) (aq rl : Bool) (arv : BitVec 12) (s : State) :
    Host.Outcome State Fault Refusal :=
  globalAtomic .fadd g d b 4 cls aq rl arv s

/-! ### Arrivals and waits (R284, R285) -/

def execArrive (g : Guard) (a b : BitVec 6) (cls : BitVec 4) (rl : Bool) (s : State) : Host.Outcome State Fault Refusal :=
  checked g 7 (globalCheck b 8) s fun c =>
    c.enter (.arrive ((c.ctx.getS a).setWidth 24)) (classesOf cls false rl) cls false rl (c.ctx.getS b) none

def execWaitv (g : Guard) (a b : BitVec 6) (susp : Bool) (cls : BitVec 4) (aq : Bool) (arv : BitVec 12) (s : State) :
    Host.Outcome State Fault Refusal :=
  checked g 7 (loadCheck b 8) s fun c =>
    c.enterLanding (.wait (c.ctx.getS a)) cls aq false (c.ctx.getS b) arv (.s a) (.wait susp)

/-! ### Copy commands (R286, R287) -/

/-- A scratchpad range of a copy lies in the window the task may reach. -/
def windowRange (c : Core) (a : Word) (len : Nat) : Bool := !inWindow a || decide (a.toNat - windowBase + len ≤ c.window)

/-- The length bound and the scratchpad ranges of a copy. -/
def copyCheck (dst src : Word) (len : Nat) (lc : BitVec 4) (c : Core) : Option Trap :=
  if 256 * 2 ^ lc.toNat < len then some .protection
  else if windowRange c dst len && windowRange c src len then none
  else some .protection

/-- LEN of a copy: bits [31:0] of sN. -/
def Core.copyLen (c : Core) (n : BitVec 6) : Nat := (c.ctx.getS n).toNat % 2 ^ 32

/-- The coordinate box of six registers from sN on: start in bits [31:0], signed, extent in [63:32] (R298). -/
def Ctx.boxAt (x : Ctx) (n : BitVec 6) : Box :=
  (List.range 6).map fun i =>
    let v := (x.getS (n + BitVec.ofNat 6 i)).toNat
    (signedOf 32 v, v / 2 ^ 32)

/-- A copy command's descriptor enters its class. -/
def Core.enterCopy (c : Core) (q : BitVec 3) (cls : BitVec 4) (d : Copy) : Core :=
  c.enter (.copy q d) (classesOf cls false false) cls false false d.src none

def execCpy (g : Guard) (q : BitVec 3) (d sr n : BitVec 6) (lc cls : BitVec 4) (s : State) : Host.Outcome State Fault Refusal :=
  checked g 7 (fun c => copyCheck (c.ctx.getS d) (c.ctx.getS sr) (c.copyLen n) lc c) s fun c =>
    c.enterCopy q cls ⟨c.ctx.getS d, c.ctx.getS sr, c.copyLen n, cls, false, 0#64, false, [], c.scope = 4#3, c.scope, none, none, [], false⟩

/-- CPYO arrives on the variable named by s(N+1). -/
def cpyoCheck (d sr n : BitVec 6) (lc : BitVec 4) (c : Core) : Option Trap :=
  firstTrap [copyCheck (c.ctx.getS d) (c.ctx.getS sr) (c.copyLen n) lc c, alignCheck (c.ctx.getS (n + 1)) 8]

def execCpyo (g : Guard) (q : BitVec 3) (d sr n : BitVec 6) (lc cls : BitVec 4) (s : State) : Host.Outcome State Fault Refusal :=
  checked g 7 (cpyoCheck d sr n lc) s fun c =>
    c.enterCopy q cls
      ⟨c.ctx.getS d, c.ctx.getS sr, c.copyLen n, cls, true, c.ctx.getS (n + 1), false, [], c.scope = 4#3, c.scope, none, none, [], false⟩

/-- What CPYT can tell at issue (R277, R287, R292): its destination, of one byte or more, and its record of 192 bytes lie in the window that
the task may reach, and the record is aligned. The length is the engine's to check, which reads the record. -/
def cpytCheck (d sr : BitVec 6) (c : Core) : Option Trap :=
  firstTrap [if windowRange c (c.ctx.getS d) 1 && windowRange c (c.ctx.getS sr) 192 then none else some .protection,
    alignCheck (c.ctx.getS sr) 64]

/-- CPYT: the length of a tensor copy follows from its record, which its engine reads; LEN holds the bound of its
length class until then. -/
def execCpyt (g : Guard) (q : BitVec 3) (d sr n : BitVec 6) (lc cls : BitVec 4) (s : State) : Host.Outcome State Fault Refusal :=
  checked g 7 (cpytCheck d sr) s fun c =>
    c.enterCopy q cls
      ⟨c.ctx.getS d, c.ctx.getS sr, 256 * 2 ^ lc.toNat, cls, false, 0#64, true, c.ctx.boxAt n, c.scope = 4#3, c.scope, none, none, [], false⟩

def execCpyg (g : Guard) (q : BitVec 3) (sr : BitVec 6) (cls : BitVec 4) (s : State) : Host.Outcome State Fault Refusal :=
  checked g 7 (globalCheck sr 64) s fun c =>
    c.enter (.copyNode q (c.ctx.getS sr)) (classesOf cls false false) cls false false (c.ctx.getS sr) none

/-! ### Fences and maintenance (R245, R246, R256, R257, R296) -/

def execFence (g : Guard) (kind : FenceKind) (cmask : BitVec 16) (s : State) : Host.Outcome State Fault Refusal :=
  guarded g s fun c => c.enter (.fence kind cmask) cmask 0#4 (kind != .rel) (kind != .acq) 0#64 none

/-- QFENCE stands in no class FIFO; it keeps its place in issue order until it is placed in its queues. -/
def execQfence (g : Guard) (qmask : BitVec 8) (s : State) : Host.Outcome State Fault Refusal :=
  guarded g s fun c => c.enter (.qfence qmask) 0#16 0#4 false false 0#64 none

/-- RFENCE empties the record cache at the end of its cycle. -/
def execRfence (g : Guard) (s : State) : Host.Outcome State Fault Refusal :=
  guarded g s fun c => c.onCtx fun x => x.push 7 1 0#6 .rfence

def execTlbinv (g : Guard) (a b : BitVec 6) (s : State) : Host.Outcome State Fault Refusal :=
  privileged g 7 (fun _ => none) s fun c =>
    c.enter (.tlbinv ((c.ctx.getS a).setWidth 2)) allClasses 0#4 false false (c.ctx.getS b) none

def execCachewb (g : Guard) (a b : BitVec 6) (s : State) : Host.Outcome State Fault Refusal :=
  privileged g 7 (fun _ => none) s fun c => c.enter (.cachewb (c.ctx.getS a)) allClasses 0#4 false false (c.ctx.getS b) none

def execCacheinv (g : Guard) (a b : BitVec 6) (s : State) : Host.Outcome State Fault Refusal :=
  privileged g 7 (fun _ => none) s fun c => c.enter (.cacheinv (c.ctx.getS a)) allClasses 0#4 false false (c.ctx.getS b) none

/-! ### Task operations (R310 to R313) -/

/-- A handle register as a source (R270), and the checks of R269 that need no entry. -/
def sourceState (c : Core) (h : BitVec 4) : Option Trap :=
  match (c.ctx.getH h).st with
  | .empty => some .emptyHandle
  | .moved => some .movedHandle
  | .live => none

/-- LIDX, GEN, PART and CHECK of a handle (R268). -/
def handleLidx (v : BitVec 128) : BitVec 20 := v.extractLsb' 0 20
def handleGen (v : BitVec 128) : BitVec 16 := v.extractLsb' 20 16
def handlePart (v : BitVec 128) : BitVec 16 := v.extractLsb' 36 16
def handleCheckField (v : BitVec 128) : BitVec 32 := v.extractLsb' 64 32

/-- The handle of an entry at a generation, under the handle key (0 before one is drawn; log entry 6). -/
def makeHandle (key : Option (BitVec 512)) (lidx : Nat) (gen : BitVec 16) (part : Nat) : BitVec 128 :=
  let l := BitVec.ofNat 20 lidx
  let p := BitVec.ofNat 16 part
  0#32 ++ Config.handleCheck (key.getD 0#512) l gen p ++ 0#12 ++ p ++ gen ++ l

/-- Reserved bits zero, CHECK matching, PART that of the task (R269). -/
def handleSound (key : Option (BitVec 512)) (v : BitVec 128) (part : Nat) : Bool :=
  decide (v = makeHandle key (handleLidx v).toNat (handleGen v) part)

def sourceCheck (key : Option (BitVec 512)) (c : Core) (h : BitVec 4) : Option Trap :=
  firstTrap [sourceState c h, if handleSound key (c.ctx.getH h).val c.owner.key.part then none else some .protection]

/-- The registers that a handle mask names. -/
def maskRegs (hm : BitVec 16) : List (BitVec 4) :=
  ((List.range 16).filter fun k => hm.getLsbD k).map (BitVec.ofNat 4)

def spawnCheck (key : Option (BitVec 512)) (b : BitVec 6) (hm : BitVec 16) (c : Core) : Option Trap :=
  firstTrap (globalCheck b 64 c :: (maskRegs hm).map (sourceCheck key c))

/-- A register state that changes at the end of this cycle (R305). -/
def Ctx.setHLater (x : Ctx) (h : BitVec 4) (r : HReg) : Ctx := x.push 7 1 0#6 (.h h r)

/-- Each named handle becomes MOVED. -/
def Ctx.moveAll (x : Ctx) (hs : List (BitVec 4)) : Ctx := hs.foldl (fun y h => y.setHLater h ⟨(y.getH h).val, .moved⟩) x

/-- A step of a handle operation waits in issue order; the registers that the operation changes at the end of its cycle are noted as they
are (R305). -/
def Core.hstep (c : Core) (op : HOp) (changed : List (BitVec 4)) : Core :=
  { c with hsteps := c.hsteps ++ [⟨op, c.owner, none, c.ctx.pc, changed.map fun h => (h, c.ctx.getH h)⟩] }

/-- A step that fails changes no register: those of its task are as they were before the operation (R270, R305). -/
def HStep.undone (h : HStep) (c : Core) : Core :=
  if c.task = some h.owner then c.onCtx fun x => h.undo.foldl (fun x p => x.setH p.1 p.2) x else c

/-- SPAWN: its handles become MOVED, and its place among the handle steps of the task is kept. -/
def Core.spawn (c : Core) (a b : BitVec 6) (hm : BitVec 16) : Core :=
  let vals := (maskRegs hm).map fun h => (h.toNat, (c.ctx.getH h).val)
  let d := (c.enter (.spawn (c.ctx.getS a) (c.ctx.getS b) hm vals) allClasses 0#4 false true (c.ctx.getS b) none).onCtx
    fun x => x.moveAll (maskRegs hm)
  if hm = 0#16 then d else { c with hsteps := (c.hstep (.spawn (nextEntry c.fifo)) (maskRegs hm)).hsteps, fifo := d.fifo, ctx := d.ctx }

def execSpawn (g : Guard) (a b : BitVec 6) (hm : BitVec 16) (s : State) : Host.Outcome State Fault Refusal :=
  checked g 7 (spawnCheck s.handleKey b hm) s fun c => c.spawn a b hm

def execDepend (g : Guard) (a b : BitVec 6) (s : State) : Host.Outcome State Fault Refusal :=
  guarded g s fun c => c.enter (.depend (c.ctx.getS a) (c.ctx.getS b)) 0#16 0#4 false false 0#64 none

def execSignal (g : Guard) (a b : BitVec 6) (s : State) : Host.Outcome State Fault Refusal :=
  guarded g s fun c =>
    c.enter (.signal ((c.ctx.getS a).setWidth 16) (c.ctx.getS b)) allClasses 0#4 false true (c.ctx.getS b) none

end Sys2Proof.Machine
end

