-- ==== Sys2Proof/Machine/Handle.lean ====
section
/-! DEFINITION. The handle operations as they issue (R269, R270, R304 to R309). Register checks are made here and
register states change at the end of the cycle; the step at the lineage entry waits in `Core.hsteps`, in issue order,
for HANDLE_STEP (Machine/Lineage.lean). -/

namespace Sys2Proof.Machine

/-! ### Steps that a core waits for (R93) -/

/-- The core does not tick while this step waits: the stall code (R93). -/
def HOp.blocks : HOp → Option (BitVec 4)
  | .take _ _ _ _ => some 7#4
  | .rejoin _ _ _ _ _ _ => some 8#4
  | .info _ _ _ => some 8#4
  | _ => none

/-- The step of its task that a core waits for, by its stall code. -/
def Core.blockedBy (c : Core) : Option (BitVec 4) :=
  c.hsteps.findSome? fun h => if some h.owner = c.task then h.op.blocks else none

/-! ### Lineage entries (R271) -/

/-- A FREE entry that no handle has named yet (log entry 2). -/
def Lineage.free : Lineage := ⟨0, 0, 0, .free, 0#16, 0, 0, 0#64, 0, 0, 0, 0, [], []⟩

def State.entryOf (s : State) (i : Nat) : Lineage := assocGet Lineage.free s.lineage i

/-- An entry is written: it is poisoned no more (R381). -/
def State.setEntry (s : State) (i : Nat) (l : Lineage) : State :=
  { s with
    lineage := assocSet Lineage.free s.lineage i l
    poison := s.poison.filter fun p => !(p == lineageAt i / 64 || p == lineageAt i / 64 + 1) }

/-- The memory of an entry is poisoned (R381). -/
def State.entryPoisoned (s : State) (i : Nat) : Bool := s.poisoned (lineageAt i) 128

/-- The entry that a handle names. -/
def State.handleEntry (s : State) (v : BitVec 128) : Lineage := s.entryOf (handleLidx v).toNat

/-- Entries that a pending HSPLIT will take. -/
def takenEntries (hs : List HStep) : List Nat :=
  hs.flatMap fun h => match h.op with | .split _ _ _ l r => [l, r] | _ => []

/-- Those of the steps that wait on a core, and of the steps that have left it with their task. -/
def State.allTaken (s : State) : List Nat :=
  takenEntries s.core.hsteps ++ (s.parked.flatMap fun c => takenEntries c.hsteps)
    ++ s.nodes.flatMap fun n => takenEntries (n.hsteps.map Prod.snd)

/-- The first FREE entry from `i` up that is not in `taken`. -/
def State.freeEntry (s : State) (taken : List Nat) : Nat → Nat → Nat
  | 0, i => i
  | n + 1, i =>
    if (s.entryOf i).st = .free ∧ i ∉ taken then i else s.freeEntry taken n ((i + 1) % Config.lineageEntries)

/-- A FREE entry of the table; which one is a free choice. -/
def State.pickEntry (s : State) (part who : Nat) (taken : List Nat) : Nat × State :=
  let r := s.chooseFor part who Config.lineageEntries
  (s.freeEntry taken (s.lineage.length + taken.length + 1) r.1, r.2)

/-! ### Register checks (R270) -/

/-- A destination that is LIVE, and that the operation does not consume first, would be lost. -/
def destCheck (c : Core) (h : BitVec 4) (consumed : List (BitVec 4)) : Option Trap :=
  if (c.ctx.getH h).st = .live ∧ h ∉ consumed then some .handleLeak else none

/-- A live TFH stream goes through this handle (R301). -/
def Ctx.streamThrough (x : Ctx) (v : BitVec 128) : Bool :=
  x.queues.toList.any fun q => q.any fun st => decide (st.handle = some v) && !(st.total != 0 && st.popped == st.total)

/-- A stream of a task on its core goes through a handle: what passes the handle on waits for its end (R266, R276). -/
def Core.heldByStream (c : Core) (o : Running) (v : BitVec 128) : Bool := decide (c.task = some o) && c.ctx.streamThrough v

def streamCheck (c : Core) (h : BitVec 4) : Option Trap :=
  if c.ctx.streamThrough (c.ctx.getH h).val then some .schedule else none

/-! ### Split, rejoin, move (R306) -/

def hsplitCheck (key : Option (BitVec 512)) (h1 h2 h3 : BitVec 4) (c : Core) : Option Trap :=
  firstTrap [sourceCheck key c h3, destCheck c h1 [h3], destCheck c h2 [h3]]

/-- HSPLIT: the parent becomes MOVED, and the halves LIVE on two FREE entries. -/
def State.hsplit (s : State) (h1 h2 h3 : BitVec 4) (ax : BitVec 3) (sp : BitVec 6) : State :=
  let v := (s.core.ctx.getH h3).val
  let part := s.core.owner.key.part
  let (l, s) := s.pickEntry part s.core.id.toNat s.allTaken
  let (r, s) := s.pickEntry part s.core.id.toNat (l :: s.allTaken)
  s.onCore fun c =>
    (c.hstep (.split v ax.toNat (signedOf 32 (c.ctx.getS sp).toNat) l r) [h3, h1, h2]).onCtx fun x =>
      ((x.setHLater h3 ⟨v, .moved⟩).setHLater h1 ⟨makeHandle s.handleKey l (s.entryOf l).gen part, .live⟩).setHLater h2
        ⟨makeHandle s.handleKey r (s.entryOf r).gen part, .live⟩

def execHsplit (g : Guard) (h1 h2 h3 : BitVec 4) (ax : BitVec 3) (sp : BitVec 6) (s : State) :
    Host.Outcome State Fault Refusal :=
  checkedState g 7 (fun s => hsplitCheck s.handleKey h1 h2 h3 s.core) s fun s => s.hsplit h1 h2 h3 ax sp

/-- The entry of a handle is SPLIT, or a step ahead in issue order splits it. -/
def State.splitNow (s : State) (v : BitVec 128) : Bool :=
  decide ((s.handleEntry v).st = .split) ||
    s.core.hsteps.any fun h => match h.op with | .split p _ _ _ _ => decide (handleLidx p = handleLidx v) | _ => false

/-- A half of a rejoin as a source: a MOVED register whose entry is SPLIT is left to the sibling check (R273). -/
def State.halfCheck (s : State) (h : BitVec 4) : Option Trap :=
  let r := s.core.ctx.getH h
  if r.st = .moved ∧ s.splitNow r.val then none else sourceCheck s.handleKey s.core h

def hrejoinCheck (h1 h2 h3 : BitVec 4) (s : State) : Option Trap :=
  firstTrap [s.halfCheck h2, s.halfCheck h3, destCheck s.core h1 [h2, h3], streamCheck s.core h2, streamCheck s.core h3]

/-- HREJOIN: the core then waits with code 8 for the step, which writes the registers. -/
def Core.hrejoin (c : Core) (h1 h2 h3 : BitVec 4) : Core :=
  c.hstep (.rejoin h1 h2 h3 (c.ctx.getH h2).val (c.ctx.getH h3).val
    (decide ((c.ctx.getH h2).st = .moved) || decide ((c.ctx.getH h3).st = .moved))) []

def execHrejoin (g : Guard) (h1 h2 h3 : BitVec 4) (s : State) : Host.Outcome State Fault Refusal :=
  checkedState g 7 (hrejoinCheck h1 h2 h3) s fun s => s.onCore fun c => c.hrejoin h1 h2 h3

def hmovCheck (key : Option (BitVec 512)) (h1 h2 : BitVec 4) (c : Core) : Option Trap := firstTrap [sourceCheck key c h2, destCheck c h1 [h2]]

/-- HMOV is a register move; it takes no step. -/
def execHmov (g : Guard) (h1 h2 : BitVec 4) (s : State) : Host.Outcome State Fault Refusal :=
  checked g 7 (hmovCheck s.handleKey h1 h2) s fun c => c.onCtx fun x =>
    (x.setHLater h2 ⟨(x.getH h2).val, .moved⟩).setHLater h1 ⟨(x.getH h2).val, .live⟩

/-! ### Mailboxes (R307) -/

def hputCheck (key : Option (BitVec 512)) (h1 : BitVec 4) (sb : BitVec 6) (c : Core) : Option Trap := firstTrap [globalCheck sb 16 c, sourceCheck key c h1]

def execHput (g : Guard) (h1 : BitVec 4) (sb : BitVec 6) (s : State) : Host.Outcome State Fault Refusal :=
  checked g 7 (hputCheck s.handleKey h1 sb) s fun c =>
    (c.hstep (.put (c.ctx.getH h1).val (c.ctx.getS sb)) [h1]).onCtx fun x => x.setHLater h1 ⟨(x.getH h1).val, .moved⟩

def htakeCheck (h1 : BitVec 4) (sb : BitVec 6) (c : Core) : Option Trap := firstTrap [globalCheck sb 16 c, destCheck c h1 []]

/-- HTAKE: the core then waits with code 7 for the mailbox, which writes the registers. -/
def execHtake (g : Guard) (h1 : BitVec 4) (sa sb : BitVec 6) (susp : Bool) (s : State) : Host.Outcome State Fault Refusal :=
  checked g 7 (htakeCheck h1 sb) s fun c => c.hstep (.take h1 sa (c.ctx.getS sb) susp) []

/-! ### Accesses (R308, R309) -/

def tileCheck (key : Option (BitVec 512)) (h1 : BitVec 4) (sa : BitVec 6) (c : Core) : Option Trap := firstTrap [globalCheck sa 64 c, sourceCheck key c h1]

def execHld (g : Guard) (h1 : BitVec 4) (sa sb : BitVec 6) (s : State) : Host.Outcome State Fault Refusal :=
  checked g 7 (tileCheck s.handleKey h1 sa) s fun c => c.hstep (.rowLoad (c.ctx.getH h1).val (c.ctx.getS sa) (c.ctx.getS sb)) []

def execHst (g : Guard) (h1 : BitVec 4) (sa sb : BitVec 6) (s : State) : Host.Outcome State Fault Refusal :=
  checked g 7 (tileCheck s.handleKey h1 sa) s fun c => c.hstep (.rowStore (c.ctx.getH h1).val (c.ctx.getS sa) (c.ctx.getS sb)) []

def hinfoCheck (key : Option (BitVec 512)) (h1 : BitVec 4) (c : Core) : Option Trap := firstTrap [sourceCheck key c h1, streamCheck c h1]

/-- HINFO: the core then waits with code 8 for the step, which writes sA. -/
def execHinfo (g : Guard) (h1 : BitVec 4) (ax : BitVec 3) (sa : BitVec 6) (s : State) : Host.Outcome State Fault Refusal :=
  checked g 7 (hinfoCheck s.handleKey h1) s fun c => c.hstep (.info (c.ctx.getH h1).val sa ax.toNat) []

end Sys2Proof.Machine
end

