-- ==== Sys2Proof/WellFormed.lean ====
section
/-! DEFINITION. The limits of every operation (R29 to R37, R80, R105, R150, R167, R189, R199, R292, R314): which
operand values are an instruction at all. An event has no encoding and no limit. -/

namespace Sys2Proof

def VType.is32 : VType → Bool
  | .f32 => true
  | .i32 => true
  | .f16 => false
  | .bf16 => false

/-- ARV of a request: 8 to 4,095 (R36, R37). -/
def arvOk (arv : BitVec 12) : Bool := decide (8#12 ≤ arv)

/-- The special registers of R80. -/
def sysListed (idx : BitVec 8) : Bool :=
  let n := idx.toNat
  decide (n ≤ 0x06) || (decide (0x08 ≤ n) && decide (n ≤ 0x0B)) || (decide (0x10 ≤ n) && decide (n ≤ 0x1B))
    || n == 0x20 || n == 0x21 || (decide (0x80 ≤ n) && decide (n ≤ 0x8A))

/-- The special registers that WRSYS may name (R80). -/
def sysWritable (idx : BitVec 8) : Bool :=
  let n := idx.toNat
  n == 0x08 || n == 0x09 || n == 0x0B || (decide (0x80 ≤ n) && decide (n ≤ 0x8A))

/-- The combinations that SETFMT accepts (R105). -/
def fmtListed (fa fb : ElemFmt) (sm : ScaleMode) (ty : Bool) : Bool :=
  match fa, fb, sm, ty with
  | .e4m3, .e4m3, .none, false | .e4m3, .e5m2, .none, false => true
  | .e5m2, .e4m3, .none, false | .e5m2, .e5m2, .none, false => true
  | .e2m1, .e2m1, _, false => true
  | .bf16, .bf16, .none, false | .bf16, .fp16, .none, false => true
  | .fp16, .bf16, .none, false | .fp16, .fp16, .none, false => true
  | .int8, .int8, .none, true => true
  | _, _, _, _ => false

/-- The slot an operation stands in; none for an event. -/
def Instr.slot : Instr → Option Slot
  | .nop => some .ctl
  | .bundleIssue => none
  | .energyStretch => none
  | .budgetRefill => none
  | .staticCharge => none
  | .resultLand => none
  | .landing => none
  | .lateDataArrival => none
  | .fetchArrival => none
  | .codePageLoad => none
  | .bodyPublish _ _ _ => none
  | .br _ _ => some .ctl
  | .bri _ _ => some .ctl
  | .call _ _ => some .ctl
  | .calli _ _ => some .ctl
  | .ret _ => some .ctl
  | .loop _ _ _ _ => some .ctl
  | .loopr _ _ _ _ => some .ctl
  | .lbrk _ _ => some .ctl
  | .mark _ _ => some .ctl
  | .trap _ _ => some .ctl
  | .yield _ => some .ctl
  | .commit _ => some .ctl
  | .endt _ => some .ctl
  | .taskDrainEnd => none
  | .waitc _ _ => some .ctl
  | .cbar _ => some .ctl
  | .barrierComplete => none
  | .trapret _ => some .ctl
  | .idle _ => some .ctl
  | .idleTimeout => none
  | .add u _ _ _ _ => some (if u then .sb else .sa)
  | .sub u _ _ _ _ => some (if u then .sb else .sa)
  | .addi u _ _ _ _ => some (if u then .sb else .sa)
  | .mul u _ _ _ _ => some (if u then .sb else .sa)
  | .mulh u _ _ _ _ => some (if u then .sb else .sa)
  | .mulhu u _ _ _ _ => some (if u then .sb else .sa)
  | .and u _ _ _ _ => some (if u then .sb else .sa)
  | .or u _ _ _ _ => some (if u then .sb else .sa)
  | .xor u _ _ _ _ => some (if u then .sb else .sa)
  | .andn u _ _ _ _ => some (if u then .sb else .sa)
  | .shl u _ _ _ _ => some (if u then .sb else .sa)
  | .shr u _ _ _ _ => some (if u then .sb else .sa)
  | .sar u _ _ _ _ => some (if u then .sb else .sa)
  | .shli u _ _ _ _ => some (if u then .sb else .sa)
  | .shri u _ _ _ _ => some (if u then .sb else .sa)
  | .sari u _ _ _ _ => some (if u then .sb else .sa)
  | .min u _ _ _ _ => some (if u then .sb else .sa)
  | .max u _ _ _ _ => some (if u then .sb else .sa)
  | .minu u _ _ _ _ => some (if u then .sb else .sa)
  | .maxu u _ _ _ _ => some (if u then .sb else .sa)
  | .clz u _ _ _ => some (if u then .sb else .sa)
  | .popc u _ _ _ => some (if u then .sb else .sa)
  | .movi u _ _ _ => some (if u then .sb else .sa)
  | .movhi u _ _ _ => some (if u then .sb else .sa)
  | .shadd u _ _ _ _ _ => some (if u then .sb else .sa)
  | .sel u _ _ _ _ _ => some (if u then .sb else .sa)
  | .extu u _ _ _ _ _ => some (if u then .sb else .sa)
  | .cmpeq u _ _ _ _ => some (if u then .sb else .sa)
  | .cmpne u _ _ _ _ => some (if u then .sb else .sa)
  | .cmplt u _ _ _ _ => some (if u then .sb else .sa)
  | .cmple u _ _ _ _ => some (if u then .sb else .sa)
  | .cmpltu u _ _ _ _ => some (if u then .sb else .sa)
  | .cmpleu u _ _ _ _ => some (if u then .sb else .sa)
  | .cmpeqi u _ _ _ _ => some (if u then .sb else .sa)
  | .cmplti u _ _ _ _ => some (if u then .sb else .sa)
  | .pand u _ _ _ _ => some (if u then .sb else .sa)
  | .por u _ _ _ _ => some (if u then .sb else .sa)
  | .pxor u _ _ _ _ => some (if u then .sb else .sa)
  | .pandn u _ _ _ _ => some (if u then .sb else .sa)
  | .pnot u _ _ _ => some (if u then .sb else .sa)
  | .pmov u _ _ _ => some (if u then .sb else .sa)
  | .psetn u _ _ _ => some (if u then .sb else .sa)
  | .pany u _ _ _ _ => some (if u then .sb else .sa)
  | .pall u _ _ _ _ => some (if u then .sb else .sa)
  | .fadd u _ _ _ _ => some (if u then .sb else .sa)
  | .fsub u _ _ _ _ => some (if u then .sb else .sa)
  | .fmul u _ _ _ _ => some (if u then .sb else .sa)
  | .ffma u _ _ _ _ _ => some (if u then .sb else .sa)
  | .fmin u _ _ _ _ => some (if u then .sb else .sa)
  | .fmax u _ _ _ _ => some (if u then .sb else .sa)
  | .fcmplt u _ _ _ _ => some (if u then .sb else .sa)
  | .fcmpeq u _ _ _ _ => some (if u then .sb else .sa)
  | .fcvtfi u _ _ _ => some (if u then .sb else .sa)
  | .fcvtif u _ _ _ => some (if u then .sb else .sa)
  | .rdsys u _ _ _ => some (if u then .sb else .sa)
  | .wrsys u _ _ _ => some (if u then .sb else .sa)
  | .rddst u _ _ => some (if u then .sb else .sa)
  | .vadd u _ _ _ _ _ => some (if u then .vy else .vx)
  | .vsub u _ _ _ _ _ => some (if u then .vy else .vx)
  | .vmul u _ _ _ _ _ => some (if u then .vy else .vx)
  | .vfma u _ _ _ _ _ _ => some (if u then .vy else .vx)
  | .vfms u _ _ _ _ _ _ => some (if u then .vy else .vx)
  | .vmin u _ _ _ _ _ => some (if u then .vy else .vx)
  | .vmax u _ _ _ _ _ => some (if u then .vy else .vx)
  | .vabs u _ _ _ _ => some (if u then .vy else .vx)
  | .vneg u _ _ _ _ => some (if u then .vy else .vx)
  | .vand u _ _ _ _ _ => some (if u then .vy else .vx)
  | .vor u _ _ _ _ _ => some (if u then .vy else .vx)
  | .vxor u _ _ _ _ _ => some (if u then .vy else .vx)
  | .vshl u _ _ _ _ _ => some (if u then .vy else .vx)
  | .vshr u _ _ _ _ _ => some (if u then .vy else .vx)
  | .vsar u _ _ _ _ _ => some (if u then .vy else .vx)
  | .vcmpeq u _ _ _ _ _ => some (if u then .vy else .vx)
  | .vcmplt u _ _ _ _ _ => some (if u then .vy else .vx)
  | .vcmple u _ _ _ _ _ => some (if u then .vy else .vx)
  | .vsel u _ _ _ _ _ _ => some (if u then .vy else .vx)
  | .vmov u _ _ _ _ => some (if u then .vy else .vx)
  | .vbcast u _ _ _ _ => some (if u then .vy else .vx)
  | .viota u _ _ _ => some (if u then .vy else .vx)
  | .vlsh u _ _ _ _ _ => some (if u then .vy else .vx)
  | .vlshd u _ _ _ _ _ _ => some (if u then .vy else .vx)
  | .vperm u _ _ _ _ _ => some (if u then .vy else .vx)
  | .vext u _ _ _ _ _ => some (if u then .vy else .vx)
  | .vins u _ _ _ _ _ => some (if u then .vy else .vx)
  | .vredadd u _ _ _ _ => some (if u then .vy else .vx)
  | .vredmax u _ _ _ _ => some (if u then .vy else .vx)
  | .vredmin u _ _ _ _ => some (if u then .vy else .vx)
  | .vscan u _ _ _ _ => some (if u then .vy else .vx)
  | .vcvt u _ _ _ _ _ => some (if u then .vy else .vx)
  | .vpack u _ _ _ _ _ _ => some (if u then .vy else .vx)
  | .vunpk u _ _ _ _ _ _ => some (if u then .vy else .vx)
  | .vexp2 u _ _ _ _ => some (if u then .vy else .vx)
  | .vlog2 u _ _ _ _ => some (if u then .vy else .vx)
  | .vrcp u _ _ _ _ => some (if u then .vy else .vx)
  | .vrsq u _ _ _ _ => some (if u then .vy else .vx)
  | .vsqrt u _ _ _ _ => some (if u then .vy else .vx)
  | .vtanh u _ _ _ _ => some (if u then .vy else .vx)
  | .vquant u _ _ _ _ => some (if u then .vy else .vx)
  | .vdeq u _ _ _ _ => some (if u then .vy else .vx)
  | .mpush _ _ _ => some .mx
  | .msel _ => some .mx
  | .mshift _ _ => some .mx
  | .macc _ _ _ _ _ => some .mx
  | .maccz _ _ _ _ _ => some .mx
  | .maccs _ _ _ _ => some .mx
  | .mdrain _ _ _ _ _ => some .mx
  | .mdrainz _ _ _ _ _ => some .mx
  | .mzero _ _ => some .mx
  | .ldv _ _ _ _ => some .ls
  | .stv _ _ _ _ => some .ls
  | .lds _ _ _ _ _ => some .ls
  | .sts _ _ _ _ _ => some .ls
  | .ldvx _ _ _ _ _ _ => some .ls
  | .stvx _ _ _ _ _ _ => some .ls
  | .ldvb _ _ _ _ => some .ls
  | .atlAdd _ _ _ _ _ _ => some .ls
  | .atlMin _ _ _ _ _ _ => some .ls
  | .atlMax _ _ _ _ _ _ => some .ls
  | .atlAnd _ _ _ _ _ _ => some .ls
  | .atlOr _ _ _ _ _ _ => some .ls
  | .atlXchg _ _ _ _ _ _ => some .ls
  | .atlCas _ _ _ _ _ _ _ => some .ls
  | .atlFadd _ _ _ _ _ => some .ls
  | .ldg _ _ _ _ _ _ _ => some .eq
  | .ldgv _ _ _ _ _ _ => some .eq
  | .stg _ _ _ _ _ _ => some .eq
  | .stgv _ _ _ _ _ => some .eq
  | .atgAdd _ _ _ _ _ _ _ _ => some .eq
  | .atgFadd _ _ _ _ _ _ _ => some .eq
  | .atgMin _ _ _ _ _ _ _ _ => some .eq
  | .atgMax _ _ _ _ _ _ _ _ => some .eq
  | .atgAnd _ _ _ _ _ _ _ _ => some .eq
  | .atgOr _ _ _ _ _ _ _ _ => some .eq
  | .atgXor _ _ _ _ _ _ _ _ => some .eq
  | .atgXchg _ _ _ _ _ _ _ _ => some .eq
  | .atgCas _ _ _ _ _ _ _ _ => some .eq
  | .arrive _ _ _ _ _ => some .eq
  | .waitv _ _ _ _ _ _ _ => some .eq
  | .waitvSatisfied _ => none
  | .waitvBoundExpiry => none
  | .cpy _ _ _ _ _ _ _ => some .eq
  | .cpyo _ _ _ _ _ _ _ => some .eq
  | .cpyt _ _ _ _ _ _ _ => some .eq
  | .cpyg _ _ _ _ => some .eq
  | .fence _ _ _ => some .eq
  | .qfence _ _ => some .eq
  | .rfence _ => some .eq
  | .spawn _ _ _ _ => some .eq
  | .depend _ _ _ => some .eq
  | .signal _ _ _ => some .eq
  | .hsplit _ _ _ _ _ _ => some .eq
  | .hrejoin _ _ _ _ => some .eq
  | .hmov _ _ _ => some .eq
  | .hput _ _ _ => some .eq
  | .htake _ _ _ _ _ => some .eq
  | .htakeBoundExpiry => none
  | .handleDepositWake _ => none
  | .hld _ _ _ _ => some .eq
  | .hst _ _ _ _ => some .eq
  | .hinfo _ _ _ _ => some .eq
  | .handleStep => none
  | .tlbinv _ _ _ => some .eq
  | .cachewb _ _ _ => some .eq
  | .cacheinv _ _ _ => some .eq
  | .tfa _ _ _ _ _ => some .tf
  | .tfb _ _ _ _ _ => some .tf
  | .tfh _ _ _ _ _ => some .tf
  | .tfx _ _ => some .tf
  | .tfRowArrival _ => none
  | .setfmt _ _ _ _ _ => some .sc
  | .ldsct _ _ _ _ => some .sc
  | .setband _ _ _ _ => some .sc
  | .setrnd _ _ => some .sc
  | .clrflg _ _ _ => some .sc
  | .entryPerform _ => none
  | .copyPerform _ => none
  | .qfenceLeave _ => none
  | .commitLine _ => none
  | .commitComplete => none
  | .pageWalk _ _ => none
  | .pageIn _ _ => none
  | .shootdown _ _ _ => none
  | .pinDropTimeout _ => none
  | .nodeFinish _ => none
  | .taskPlace _ => none
  | .launchComplete _ => none
  | .launchFault => none
  | .gangSuspend => none
  | .softStop => none
  | .hardStop => none
  | .sliceEnd _ => none
  | .tspanExpiry _ => none
  | .graceExpiry _ => none
  | .tenantDrained _ => none
  | .imageSpill => none
  | .launch _ => none
  | .copy _ => none
  | .waitevent _ => none
  | .signalevent _ => none
  | .resizeack _ => none
  | .map _ => none
  | .unmap _ => none
  | .unsupportedPacket _ _ => none
  | .unregisteredSend _ => none
  | .hostUetWrite _ _ _ _ => none
  | .hostUetRead _ _ _ _ => none
  | .peerAck _ => none
  | .peerArrival _ _ _ => none
  | .partcreate _ => none
  | .partresize _ => none
  | .resizeApply _ => none
  | .partdestroy _ => none
  | .vdevcreate _ => none
  | .vdevset _ => none
  | .tenantDisabled _ => none
  | .queuecreate _ => none
  | .queuedestroy _ => none
  | .energy _ => none
  | .summary _ => none
  | .attest _ => none
  | .alarmset _ => none
  | .queuereset _ => none
  | .watchdogExpiry _ _ => none
  | .alarm _ => none
  | .alarmClear => none
  | .powerOn => none
  | .eccError _ _ _ => none
  | .patrolScrub _ => none
  | .rowSpare _ _ => none
  | .pageRetire _ _ _ _ => none
  | .dbgarm _ => none
  | .dbgstop _ => none
  | .debugStop _ => none
  | .dbgresume _ => none
  | .trace _ => none
  | .counters _ => none
  | .pcSample => none
  | .freezeRecord => none
  | .traceHeadAdvance _ => none
  | .replay _ => none
  | .checkpoint _ => none
  | .replayHalt _ => none
  | .tileAccessPerform _ => none
  | .peerTimeout _ => none
  | .peerReadResponse _ _ => none
  | .linkLevelRetry _ => none
  | .bufferSlotReturn _ _ => none
  | .retrieverInjection _ _ _ => none

/-- The index of a slot (R24). -/
def Slot.index : Slot → Nat
  | .ctl => 0
  | .sa => 1
  | .sb => 2
  | .vx => 3
  | .vy => 4
  | .mx => 5
  | .ls => 6
  | .eq => 7
  | .tf => 8
  | .sc => 9

/-- The guard of an operation; an event and NOP have none. -/
def Instr.guard : Instr → Option Guard
  | .nop => none
  | .bundleIssue => none
  | .energyStretch => none
  | .budgetRefill => none
  | .staticCharge => none
  | .resultLand => none
  | .landing => none
  | .lateDataArrival => none
  | .fetchArrival => none
  | .codePageLoad => none
  | .bodyPublish _ _ _ => none
  | .br g _ => some g
  | .bri g _ => some g
  | .call g _ => some g
  | .calli g _ => some g
  | .ret g => some g
  | .loop g _ _ _ => some g
  | .loopr g _ _ _ => some g
  | .lbrk g _ => some g
  | .mark g _ => some g
  | .trap g _ => some g
  | .yield g => some g
  | .commit g => some g
  | .endt g => some g
  | .taskDrainEnd => none
  | .waitc g _ => some g
  | .cbar g => some g
  | .barrierComplete => none
  | .trapret g => some g
  | .idle g => some g
  | .idleTimeout => none
  | .add _ g _ _ _ => some g
  | .sub _ g _ _ _ => some g
  | .addi _ g _ _ _ => some g
  | .mul _ g _ _ _ => some g
  | .mulh _ g _ _ _ => some g
  | .mulhu _ g _ _ _ => some g
  | .and _ g _ _ _ => some g
  | .or _ g _ _ _ => some g
  | .xor _ g _ _ _ => some g
  | .andn _ g _ _ _ => some g
  | .shl _ g _ _ _ => some g
  | .shr _ g _ _ _ => some g
  | .sar _ g _ _ _ => some g
  | .shli _ g _ _ _ => some g
  | .shri _ g _ _ _ => some g
  | .sari _ g _ _ _ => some g
  | .min _ g _ _ _ => some g
  | .max _ g _ _ _ => some g
  | .minu _ g _ _ _ => some g
  | .maxu _ g _ _ _ => some g
  | .clz _ g _ _ => some g
  | .popc _ g _ _ => some g
  | .movi _ g _ _ => some g
  | .movhi _ g _ _ => some g
  | .shadd _ g _ _ _ _ => some g
  | .sel _ g _ _ _ _ => some g
  | .extu _ g _ _ _ _ => some g
  | .cmpeq _ g _ _ _ => some g
  | .cmpne _ g _ _ _ => some g
  | .cmplt _ g _ _ _ => some g
  | .cmple _ g _ _ _ => some g
  | .cmpltu _ g _ _ _ => some g
  | .cmpleu _ g _ _ _ => some g
  | .cmpeqi _ g _ _ _ => some g
  | .cmplti _ g _ _ _ => some g
  | .pand _ g _ _ _ => some g
  | .por _ g _ _ _ => some g
  | .pxor _ g _ _ _ => some g
  | .pandn _ g _ _ _ => some g
  | .pnot _ g _ _ => some g
  | .pmov _ g _ _ => some g
  | .psetn _ g _ _ => some g
  | .pany _ g _ _ _ => some g
  | .pall _ g _ _ _ => some g
  | .fadd _ g _ _ _ => some g
  | .fsub _ g _ _ _ => some g
  | .fmul _ g _ _ _ => some g
  | .ffma _ g _ _ _ _ => some g
  | .fmin _ g _ _ _ => some g
  | .fmax _ g _ _ _ => some g
  | .fcmplt _ g _ _ _ => some g
  | .fcmpeq _ g _ _ _ => some g
  | .fcvtfi _ g _ _ => some g
  | .fcvtif _ g _ _ => some g
  | .rdsys _ g _ _ => some g
  | .wrsys _ g _ _ => some g
  | .rddst _ g _ => some g
  | .vadd _ g _ _ _ _ => some g
  | .vsub _ g _ _ _ _ => some g
  | .vmul _ g _ _ _ _ => some g
  | .vfma _ g _ _ _ _ _ => some g
  | .vfms _ g _ _ _ _ _ => some g
  | .vmin _ g _ _ _ _ => some g
  | .vmax _ g _ _ _ _ => some g
  | .vabs _ g _ _ _ => some g
  | .vneg _ g _ _ _ => some g
  | .vand _ g _ _ _ _ => some g
  | .vor _ g _ _ _ _ => some g
  | .vxor _ g _ _ _ _ => some g
  | .vshl _ g _ _ _ _ => some g
  | .vshr _ g _ _ _ _ => some g
  | .vsar _ g _ _ _ _ => some g
  | .vcmpeq _ g _ _ _ _ => some g
  | .vcmplt _ g _ _ _ _ => some g
  | .vcmple _ g _ _ _ _ => some g
  | .vsel _ g _ _ _ _ _ => some g
  | .vmov _ g _ _ _ => some g
  | .vbcast _ g _ _ _ => some g
  | .viota _ g _ _ => some g
  | .vlsh _ g _ _ _ _ => some g
  | .vlshd _ g _ _ _ _ _ => some g
  | .vperm _ g _ _ _ _ => some g
  | .vext _ g _ _ _ _ => some g
  | .vins _ g _ _ _ _ => some g
  | .vredadd _ g _ _ _ => some g
  | .vredmax _ g _ _ _ => some g
  | .vredmin _ g _ _ _ => some g
  | .vscan _ g _ _ _ => some g
  | .vcvt _ g _ _ _ _ => some g
  | .vpack _ g _ _ _ _ _ => some g
  | .vunpk _ g _ _ _ _ _ => some g
  | .vexp2 _ g _ _ _ => some g
  | .vlog2 _ g _ _ _ => some g
  | .vrcp _ g _ _ _ => some g
  | .vrsq _ g _ _ _ => some g
  | .vsqrt _ g _ _ _ => some g
  | .vtanh _ g _ _ _ => some g
  | .vquant _ g _ _ _ => some g
  | .vdeq _ g _ _ _ => some g
  | .mpush g _ _ => some g
  | .msel g => some g
  | .mshift g _ => some g
  | .macc g _ _ _ _ => some g
  | .maccz g _ _ _ _ => some g
  | .maccs g _ _ _ => some g
  | .mdrain g _ _ _ _ => some g
  | .mdrainz g _ _ _ _ => some g
  | .mzero g _ => some g
  | .ldv g _ _ _ => some g
  | .stv g _ _ _ => some g
  | .lds g _ _ _ _ => some g
  | .sts g _ _ _ _ => some g
  | .ldvx g _ _ _ _ _ => some g
  | .stvx g _ _ _ _ _ => some g
  | .ldvb g _ _ _ => some g
  | .atlAdd g _ _ _ _ _ => some g
  | .atlMin g _ _ _ _ _ => some g
  | .atlMax g _ _ _ _ _ => some g
  | .atlAnd g _ _ _ _ _ => some g
  | .atlOr g _ _ _ _ _ => some g
  | .atlXchg g _ _ _ _ _ => some g
  | .atlCas g _ _ _ _ _ _ => some g
  | .atlFadd g _ _ _ _ => some g
  | .ldg g _ _ _ _ _ _ => some g
  | .ldgv g _ _ _ _ _ => some g
  | .stg g _ _ _ _ _ => some g
  | .stgv g _ _ _ _ => some g
  | .atgAdd g _ _ _ _ _ _ _ => some g
  | .atgFadd g _ _ _ _ _ _ => some g
  | .atgMin g _ _ _ _ _ _ _ => some g
  | .atgMax g _ _ _ _ _ _ _ => some g
  | .atgAnd g _ _ _ _ _ _ _ => some g
  | .atgOr g _ _ _ _ _ _ _ => some g
  | .atgXor g _ _ _ _ _ _ _ => some g
  | .atgXchg g _ _ _ _ _ _ _ => some g
  | .atgCas g _ _ _ _ _ _ _ => some g
  | .arrive g _ _ _ _ => some g
  | .waitv g _ _ _ _ _ _ => some g
  | .waitvSatisfied _ => none
  | .waitvBoundExpiry => none
  | .cpy g _ _ _ _ _ _ => some g
  | .cpyo g _ _ _ _ _ _ => some g
  | .cpyt g _ _ _ _ _ _ => some g
  | .cpyg g _ _ _ => some g
  | .fence g _ _ => some g
  | .qfence g _ => some g
  | .rfence g => some g
  | .spawn g _ _ _ => some g
  | .depend g _ _ => some g
  | .signal g _ _ => some g
  | .hsplit g _ _ _ _ _ => some g
  | .hrejoin g _ _ _ => some g
  | .hmov g _ _ => some g
  | .hput g _ _ => some g
  | .htake g _ _ _ _ => some g
  | .htakeBoundExpiry => none
  | .handleDepositWake _ => none
  | .hld g _ _ _ => some g
  | .hst g _ _ _ => some g
  | .hinfo g _ _ _ => some g
  | .handleStep => none
  | .tlbinv g _ _ => some g
  | .cachewb g _ _ => some g
  | .cacheinv g _ _ => some g
  | .tfa g _ _ _ _ => some g
  | .tfb g _ _ _ _ => some g
  | .tfh g _ _ _ _ => some g
  | .tfx g _ => some g
  | .tfRowArrival _ => none
  | .setfmt g _ _ _ _ => some g
  | .ldsct g _ _ _ => some g
  | .setband g _ _ _ => some g
  | .setrnd g _ => some g
  | .clrflg g _ _ => some g
  | .entryPerform _ => none
  | .copyPerform _ => none
  | .qfenceLeave _ => none
  | .commitLine _ => none
  | .commitComplete => none
  | .pageWalk _ _ => none
  | .pageIn _ _ => none
  | .shootdown _ _ _ => none
  | .pinDropTimeout _ => none
  | .nodeFinish _ => none
  | .taskPlace _ => none
  | .launchComplete _ => none
  | .launchFault => none
  | .gangSuspend => none
  | .softStop => none
  | .hardStop => none
  | .sliceEnd _ => none
  | .tspanExpiry _ => none
  | .graceExpiry _ => none
  | .tenantDrained _ => none
  | .imageSpill => none
  | .launch _ => none
  | .copy _ => none
  | .waitevent _ => none
  | .signalevent _ => none
  | .resizeack _ => none
  | .map _ => none
  | .unmap _ => none
  | .unsupportedPacket _ _ => none
  | .unregisteredSend _ => none
  | .hostUetWrite _ _ _ _ => none
  | .hostUetRead _ _ _ _ => none
  | .peerAck _ => none
  | .peerArrival _ _ _ => none
  | .partcreate _ => none
  | .partresize _ => none
  | .resizeApply _ => none
  | .partdestroy _ => none
  | .vdevcreate _ => none
  | .vdevset _ => none
  | .tenantDisabled _ => none
  | .queuecreate _ => none
  | .queuedestroy _ => none
  | .energy _ => none
  | .summary _ => none
  | .attest _ => none
  | .alarmset _ => none
  | .queuereset _ => none
  | .watchdogExpiry _ _ => none
  | .alarm _ => none
  | .alarmClear => none
  | .powerOn => none
  | .eccError _ _ _ => none
  | .patrolScrub _ => none
  | .rowSpare _ _ => none
  | .pageRetire _ _ _ _ => none
  | .dbgarm _ => none
  | .dbgstop _ => none
  | .debugStop _ => none
  | .dbgresume _ => none
  | .trace _ => none
  | .counters _ => none
  | .pcSample => none
  | .freezeRecord => none
  | .traceHeadAdvance _ => none
  | .replay _ => none
  | .checkpoint _ => none
  | .replayHalt _ => none
  | .tileAccessPerform _ => none
  | .peerTimeout _ => none
  | .peerReadResponse _ _ => none
  | .linkLevelRetry _ => none
  | .bufferSlotReturn _ _ => none
  | .retrieverInjection _ _ _ => none

/-- Whether the operand values are within the limits of the operation. -/
def Instr.wf : Instr → Bool
  | .bundleIssue => true
  | .energyStretch => true
  | .budgetRefill => true
  | .staticCharge => true
  | .resultLand => true
  | .landing => true
  | .lateDataArrival => true
  | .fetchArrival => true
  | .codePageLoad => true
  | .bodyPublish _ _ _ => true
  | .nop => true
  | .br _ _ => true
  | .bri _ _ => true
  | .call _ _ => true
  | .calli _ _ => true
  | .ret _ => true
  | .loop _ _ body _ => body != 0#12
  | .loopr _ _ body _ => body != 0#12
  | .lbrk _ _ => true
  | .mark _ _ => true
  | .trap _ _ => true
  | .yield _ => true
  | .commit _ => true
  | .endt _ => true
  | .taskDrainEnd => true
  | .waitc _ n => n != 0#16
  | .cbar _ => true
  | .barrierComplete => true
  | .trapret _ => true
  | .idle _ => true
  | .idleTimeout => true
  | .add _ _ _ _ _ => true
  | .sub _ _ _ _ _ => true
  | .addi _ _ _ _ _ => true
  | .mul _ _ _ _ _ => true
  | .mulh _ _ _ _ _ => true
  | .mulhu _ _ _ _ _ => true
  | .and _ _ _ _ _ => true
  | .or _ _ _ _ _ => true
  | .xor _ _ _ _ _ => true
  | .andn _ _ _ _ _ => true
  | .shl _ _ _ _ _ => true
  | .shr _ _ _ _ _ => true
  | .sar _ _ _ _ _ => true
  | .shli _ _ _ _ _ => true
  | .shri _ _ _ _ _ => true
  | .sari _ _ _ _ _ => true
  | .min _ _ _ _ _ => true
  | .max _ _ _ _ _ => true
  | .minu _ _ _ _ _ => true
  | .maxu _ _ _ _ _ => true
  | .clz _ _ _ _ => true
  | .popc _ _ _ _ => true
  | .movi _ _ _ _ => true
  | .movhi _ _ _ _ => true
  | .shadd _ _ _ _ _ _ => true
  | .sel _ _ _ _ _ _ => true
  | .extu _ _ _ _ hi lo => decide (lo ≤ hi)
  | .cmpeq _ _ pd _ _ => pd != 0#5
  | .cmpne _ _ pd _ _ => pd != 0#5
  | .cmplt _ _ pd _ _ => pd != 0#5
  | .cmple _ _ pd _ _ => pd != 0#5
  | .cmpltu _ _ pd _ _ => pd != 0#5
  | .cmpleu _ _ pd _ _ => pd != 0#5
  | .cmpeqi _ _ pd _ _ => pd != 0#5
  | .cmplti _ _ pd _ _ => pd != 0#5
  | .pand _ _ pd _ _ => pd != 0#5
  | .por _ _ pd _ _ => pd != 0#5
  | .pxor _ _ pd _ _ => pd != 0#5
  | .pandn _ _ pd _ _ => pd != 0#5
  | .pnot _ _ pd _ => pd != 0#5
  | .pmov _ _ pd _ => pd != 0#5
  | .psetn _ _ pd _ => pd != 0#5
  | .pany _ _ pd _ _ => pd != 0#5
  | .pall _ _ pd _ _ => pd != 0#5
  | .fadd _ _ _ _ _ => true
  | .fsub _ _ _ _ _ => true
  | .fmul _ _ _ _ _ => true
  | .ffma _ _ _ _ _ _ => true
  | .fmin _ _ _ _ _ => true
  | .fmax _ _ _ _ _ => true
  | .fcmplt _ _ pd _ _ => pd != 0#5
  | .fcmpeq _ _ pd _ _ => pd != 0#5
  | .fcvtfi _ _ _ _ => true
  | .fcvtif _ _ _ _ => true
  | .rdsys _ _ _ idx => sysListed idx
  | .wrsys _ _ _ idx => sysWritable idx
  | .rddst _ _ pd => pd != 0#5
  | .vadd _ _ _ _ _ _ => true
  | .vsub _ _ _ _ _ _ => true
  | .vmul _ _ _ _ _ _ => true
  | .vfma _ _ _ _ _ _ _ => true
  | .vfms _ _ _ _ _ _ _ => true
  | .vmin _ _ _ _ _ _ => true
  | .vmax _ _ _ _ _ _ => true
  | .vabs _ _ _ _ _ => true
  | .vneg _ _ _ _ _ => true
  | .vand _ _ _ _ _ _ => true
  | .vor _ _ _ _ _ _ => true
  | .vxor _ _ _ _ _ _ => true
  | .vshl _ _ _ _ _ t => t == .i32
  | .vshr _ _ _ _ _ t => t == .i32
  | .vsar _ _ _ _ _ t => t == .i32
  | .vcmpeq _ _ pd _ _ _ => pd != 0#5
  | .vcmplt _ _ pd _ _ _ => pd != 0#5
  | .vcmple _ _ pd _ _ _ => pd != 0#5
  | .vsel _ _ _ _ _ _ _ => true
  | .vmov _ _ _ _ _ => true
  | .vbcast _ _ _ _ _ => true
  | .viota _ _ _ _ => true
  | .vlsh _ _ _ _ _ _ => true
  | .vlshd _ _ _ _ _ _ _ => true
  | .vperm _ _ _ _ _ _ => true
  | .vext _ _ _ _ _ _ => true
  | .vins _ _ _ _ _ _ => true
  | .vredadd _ _ _ _ _ => true
  | .vredmax _ _ _ _ _ => true
  | .vredmin _ _ _ _ _ => true
  | .vscan _ _ _ _ _ => true
  | .vcvt _ _ _ _ t td => t != td
  | .vpack _ _ _ _ _ t td => t.is32 && !td.is32
  | .vunpk _ _ _ _ t td _ => !t.is32 && td.is32
  | .vexp2 _ _ _ _ t => t != .i32
  | .vlog2 _ _ _ _ t => t != .i32
  | .vrcp _ _ _ _ t => t != .i32
  | .vrsq _ _ _ _ t => t != .i32
  | .vsqrt _ _ _ _ t => t != .i32
  | .vtanh _ _ _ _ t => t != .i32
  | .vquant _ _ _ _ t => t != .i32
  | .vdeq _ _ _ _ t => t != .i32
  | .mpush _ _ _ => true
  | .msel _ => true
  | .mshift _ ks => ks != 0#9
  | .macc _ _ _ _ _ => true
  | .maccz _ _ _ _ _ => true
  | .maccs _ _ _ _ => true
  | .mdrain _ _ _ _ _ => true
  | .mdrainz _ _ _ _ _ => true
  | .mzero _ _ => true
  | .ldv _ _ _ _ => true
  | .stv _ _ _ _ => true
  | .lds _ _ _ _ _ => true
  | .sts _ _ _ _ _ => true
  | .ldvx _ _ _ _ w _ => w != .b8
  | .stvx _ _ _ _ w _ => w != .b8
  | .ldvb _ _ _ _ => true
  | .atlAdd _ _ _ _ _ _ => true
  | .atlMin _ _ _ _ _ _ => true
  | .atlMax _ _ _ _ _ _ => true
  | .atlAnd _ _ _ _ _ _ => true
  | .atlOr _ _ _ _ _ _ => true
  | .atlXchg _ _ _ _ _ _ => true
  | .atlCas _ _ _ _ _ _ _ => true
  | .atlFadd _ _ _ _ _ => true
  | .ldg _ _ _ _ _ _ arv => arvOk arv
  | .ldgv _ _ _ _ _ arv => arvOk arv
  | .stg _ _ _ _ _ _ => true
  | .stgv _ _ _ _ _ => true
  | .atgAdd _ _ _ _ _ _ _ arv => arvOk arv
  | .atgFadd _ _ _ _ _ _ arv => arvOk arv
  | .atgMin _ _ _ _ _ _ _ arv => arvOk arv
  | .atgMax _ _ _ _ _ _ _ arv => arvOk arv
  | .atgAnd _ _ _ _ _ _ _ arv => arvOk arv
  | .atgOr _ _ _ _ _ _ _ arv => arvOk arv
  | .atgXor _ _ _ _ _ _ _ arv => arvOk arv
  | .atgXchg _ _ _ _ _ _ _ arv => arvOk arv
  | .atgCas _ d _ _ _ _ _ arv => arvOk arv && !d.getLsbD 0
  | .arrive _ _ _ _ _ => true
  | .waitv _ _ _ _ _ _ arv => arvOk arv
  | .waitvSatisfied _ => true
  | .waitvBoundExpiry => true
  | .cpy _ _ _ _ _ _ _ => true
  | .cpyo _ _ _ _ n _ _ => n != 63#6
  | .cpyt _ _ _ _ n _ _ => decide (n ≤ 58#6)
  | .cpyg _ _ _ _ => true
  | .fence _ _ cmask => cmask != 0#16
  | .qfence _ qmask => qmask != 0#8
  | .rfence _ => true
  | .spawn _ _ _ _ => true
  | .depend _ _ _ => true
  | .signal _ _ _ => true
  | .hsplit _ h1 h2 _ ax _ => decide (ax ≤ 5#3) && h1 != h2
  | .hrejoin _ _ _ _ => true
  | .hmov _ _ _ => true
  | .hput _ _ _ => true
  | .htake _ _ _ _ _ => true
  | .htakeBoundExpiry => true
  | .handleDepositWake _ => true
  | .hld _ _ _ _ => true
  | .hst _ _ _ _ => true
  | .hinfo _ _ ax _ => decide (ax ≤ 5#3)
  | .handleStep => true
  | .tlbinv _ _ _ => true
  | .cachewb _ _ _ => true
  | .cacheinv _ _ _ => true
  | .tfa _ _ _ c arv => decide (c ≤ 58#6) && arvOk arv
  | .tfb _ _ _ c arv => decide (c ≤ 58#6) && arvOk arv
  | .tfh _ _ _ c arv => decide (c ≤ 58#6) && arvOk arv
  | .tfx _ qm => qm != 0#4
  | .tfRowArrival _ => true
  | .setfmt _ fa fb sm ty => fmtListed fa fb sm ty
  | .ldsct _ _ _ _ => true
  | .setband _ tb _ band => !tb || decide (band ≤ 7#6)
  | .setrnd _ _ => true
  | .clrflg _ _ _ => true
  | .entryPerform _ => true
  | .copyPerform _ => true
  | .qfenceLeave _ => true
  | .commitLine _ => true
  | .commitComplete => true
  | .pageWalk _ _ => true
  | .pageIn _ _ => true
  | .shootdown _ _ _ => true
  | .pinDropTimeout _ => true
  | .nodeFinish _ => true
  | .taskPlace _ => true
  | .launchComplete _ => true
  | .launchFault => true
  | .gangSuspend => true
  | .softStop => true
  | .hardStop => true
  | .sliceEnd _ => true
  | .tspanExpiry _ => true
  | .graceExpiry _ => true
  | .tenantDrained _ => true
  | .imageSpill => true
  | .launch _ => true
  | .copy _ => true
  | .waitevent _ => true
  | .signalevent _ => true
  | .resizeack _ => true
  | .map _ => true
  | .unmap _ => true
  | .unsupportedPacket _ _ => true
  | .unregisteredSend _ => true
  | .hostUetWrite _ _ _ _ => true
  | .hostUetRead _ _ _ _ => true
  | .peerAck _ => true
  | .peerArrival _ _ _ => true
  | .partcreate _ => true
  | .partresize _ => true
  | .resizeApply _ => true
  | .partdestroy _ => true
  | .vdevcreate _ => true
  | .vdevset _ => true
  | .tenantDisabled _ => true
  | .queuecreate _ => true
  | .queuedestroy _ => true
  | .energy _ => true
  | .summary _ => true
  | .attest _ => true
  | .alarmset _ => true
  | .queuereset _ => true
  | .watchdogExpiry _ _ => true
  | .alarm _ => true
  | .alarmClear => true
  | .powerOn => true
  | .eccError _ _ _ => true
  | .patrolScrub _ => true
  | .rowSpare _ _ => true
  | .pageRetire _ _ _ _ => true
  | .dbgarm _ => true
  | .dbgstop _ => true
  | .debugStop _ => true
  | .dbgresume _ => true
  | .trace _ => true
  | .counters _ => true
  | .pcSample => true
  | .freezeRecord => true
  | .traceHeadAdvance _ => true
  | .replay _ => true
  | .checkpoint _ => true
  | .replayHalt _ => true
  | .tileAccessPerform _ => true
  | .peerTimeout _ => true
  | .peerReadResponse _ _ => true
  | .linkLevelRetry _ => true
  | .bufferSlotReturn _ _ => true
  | .retrieverInjection _ _ _ => true

/-- A well-formed instruction. -/
abbrev WellFormed (i : Instr) : Prop := i.wf = true

end Sys2Proof
end

