-- ==== Sys2Proof/Decode.lean ====
section
/-! DEFINITION. The decoder of a slot and of a bundle, total on all bits, which refuses by name (R24 to R45), and
the encoder, written from the same formats. -/

namespace Sys2Proof

/-- Why a slot is no instruction (R44). -/
inductive DecodeError
  | illegalOpcode | privilege | illegalEncoding
  deriving DecidableEq, Repr

/-! ### Fields and codes -/

/-- `n` bits of a slot from bit `lo` up. -/
def fld (w : BitVec 48) (lo n : Nat) : BitVec n := BitVec.ofNat n (w.toNat / 2 ^ lo)

/-- One bit of a slot. -/
def bitAt (w : BitVec 48) (i : Nat) : Bool := decide (w.toNat / 2 ^ i % 2 = 1)

/-- A field that must be zero. -/
def zeroAt (w : BitVec 48) (lo n : Nat) : Bool := decide (w.toNat / 2 ^ lo % 2 ^ n = 0)

/-- The guard of a slot (R27). -/
def guardOf (w : BitVec 48) : Guard := ⟨fld w 35 5, bitAt w 34⟩

def vtypeOf (c : BitVec 2) : VType :=
  match c.toNat with
  | 0 => .f32
  | 1 => .i32
  | 2 => .f16
  | _ => .bf16

def vtypeCode : VType → Nat
  | .f32 => 0
  | .i32 => 1
  | .f16 => 2
  | .bf16 => 3

def elemOf (c : BitVec 4) : Option ElemFmt :=
  match c.toNat with
  | 0 => some .e4m3
  | 1 => some .e5m2
  | 2 => some .e2m1
  | 3 => some .int8
  | 4 => some .bf16
  | 5 => some .fp16
  | _ => none

def elemCode : ElemFmt → Nat
  | .e4m3 => 0
  | .e5m2 => 1
  | .e2m1 => 2
  | .int8 => 3
  | .bf16 => 4
  | .fp16 => 5

def drainOf (c : BitVec 3) : Option DrainFmt :=
  match c.toNat with
  | 0 => some .f32
  | 1 => some .bf16
  | 2 => some .f16
  | 3 => some .e4m3
  | 4 => some .e5m2
  | 5 => some .i32
  | 6 => some .int8
  | _ => none

def drainCode : DrainFmt → Nat
  | .f32 => 0
  | .bf16 => 1
  | .f16 => 2
  | .e4m3 => 3
  | .e5m2 => 4
  | .i32 => 5
  | .int8 => 6

def widthOf (c : BitVec 2) : Width :=
  match c.toNat with
  | 0 => .b1
  | 1 => .b2
  | 2 => .b4
  | _ => .b8

def widthCode : Width → Nat
  | .b1 => 0
  | .b2 => 1
  | .b4 => 2
  | .b8 => 3

/-- The width of an atomic: 4 or 8 bytes (R35, R36). -/
def wideOf (c : BitVec 2) : Option Bool :=
  match c.toNat with
  | 2 => some false
  | 3 => some true
  | _ => none

def wideCode (w8 : Bool) : Nat := if w8 then 3 else 2

def scaleOf (c : BitVec 2) : Option ScaleMode :=
  match c.toNat with
  | 0 => some .none
  | 1 => some .explicit
  | 2 => some .indexed
  | _ => none

def scaleCode : ScaleMode → Nat
  | .none => 0
  | .explicit => 1
  | .indexed => 2

def roundOf (c : BitVec 2) : RMode :=
  match c.toNat with
  | 0 => .rne
  | 1 => .rtz
  | 2 => .rup
  | _ => .rdn

def roundCode : RMode → Nat
  | .rne => 0
  | .rtz => 1
  | .rup => 2
  | .rdn => 3

def fenceOf (c : BitVec 2) : Option FenceKind :=
  match c.toNat with
  | 1 => some .acq
  | 2 => some .rel
  | 3 => some .full
  | _ => none

def fenceCode : FenceKind → Nat
  | .acq => 1
  | .rel => 2
  | .full => 3

/-- The fused push of a beat, PE, PQ and KROW in bits [15:4] (R34). -/
def pushOf (c : BitVec 12) : Option (Option (BitVec 2 × BitVec 9)) :=
  let n := c.toNat
  if 2048 ≤ n then some (some (BitVec.ofNat 2 (n / 512), BitVec.ofNat 9 n))
  else if n = 0 then some none else none

def pushCode : Option (BitVec 2 × BitVec 9) → Nat
  | none => 0
  | some (q, k) => 2048 + q.toNat * 512 + k.toNat

def flagCode (b : Bool) : Nat := if b then 1 else 0

/-- An operation whose reserved bits are as they must be, accepted if its values are within its limits. -/
def accept (reserved : Bool) (i : Instr) : Except DecodeError Instr :=
  if reserved && i.wf then .ok i else .error .illegalEncoding

/-- An operation with a coded field; a reserved code refuses it (R30). -/
def coded {α : Type} (c : Option α) (k : α → Except DecodeError Instr) : Except DecodeError Instr :=
  match c with
  | some x => k x
  | none => .error .illegalEncoding

/-- An operation that needs privilege where `needs` holds (R44, R45). -/
def needPriv (needs priv : Bool) (r : Except DecodeError Instr) : Except DecodeError Instr :=
  if needs && !priv then .error .privilege else r

/-! ### The slots -/

/-- The control slot (R31, R38). -/
def decodeCtl (priv : Bool) (opc : Nat) (w : BitVec 48) : Except DecodeError Instr :=
  match opc with
  | 0x01 => accept (zeroAt w 0 10) (.br (guardOf w) (fld w 10 24))
  | 0x02 => accept (zeroAt w 0 28) (.bri (guardOf w) (fld w 28 6))
  | 0x03 => accept (zeroAt w 0 10) (.call (guardOf w) (fld w 10 24))
  | 0x04 => accept (zeroAt w 0 28) (.calli (guardOf w) (fld w 28 6))
  | 0x05 => accept (zeroAt w 0 34) (.ret (guardOf w))
  | 0x06 => accept true (.loop (guardOf w) (fld w 32 2) (fld w 20 12) (fld w 0 20))
  | 0x07 => accept (zeroAt w 0 14) (.loopr (guardOf w) (fld w 32 2) (fld w 20 12) (fld w 14 6))
  | 0x08 => accept (zeroAt w 0 32) (.lbrk (guardOf w) (fld w 32 2))
  | 0x09 => accept (zeroAt w 32 2) (.mark (guardOf w) (fld w 0 32))
  | 0x0A => accept (zeroAt w 16 18) (.trap (guardOf w) (fld w 0 16))
  | 0x0B => accept (zeroAt w 0 34) (.yield (guardOf w))
  | 0x0C => accept (zeroAt w 0 34) (.commit (guardOf w))
  | 0x0D => accept (zeroAt w 0 34) (.endt (guardOf w))
  | 0x0E => accept (zeroAt w 16 18) (.waitc (guardOf w) (fld w 0 16))
  | 0x0F => accept (zeroAt w 0 34) (.cbar (guardOf w))
  | 0x10 => needPriv true priv <| accept (zeroAt w 0 34) (.trapret (guardOf w))
  | 0x11 => needPriv true priv <| accept (zeroAt w 0 34) (.idle (guardOf w))
  | _ => .error .illegalOpcode

/-- The scalar slots (R32, R39). -/
def decodeScalar (u priv : Bool) (opc : Nat) (w : BitVec 48) : Except DecodeError Instr :=
  match opc with
  | 0x01 => accept (zeroAt w 0 16) (.add u (guardOf w) (fld w 28 6) (fld w 22 6) (fld w 16 6))
  | 0x02 => accept (zeroAt w 0 16) (.sub u (guardOf w) (fld w 28 6) (fld w 22 6) (fld w 16 6))
  | 0x03 => accept true (.addi u (guardOf w) (fld w 28 6) (fld w 22 6) (fld w 0 22))
  | 0x04 => accept (zeroAt w 0 16) (.mul u (guardOf w) (fld w 28 6) (fld w 22 6) (fld w 16 6))
  | 0x05 => accept (zeroAt w 0 16) (.mulh u (guardOf w) (fld w 28 6) (fld w 22 6) (fld w 16 6))
  | 0x06 => accept (zeroAt w 0 16) (.mulhu u (guardOf w) (fld w 28 6) (fld w 22 6) (fld w 16 6))
  | 0x07 => accept (zeroAt w 0 16) (.and u (guardOf w) (fld w 28 6) (fld w 22 6) (fld w 16 6))
  | 0x08 => accept (zeroAt w 0 16) (.or u (guardOf w) (fld w 28 6) (fld w 22 6) (fld w 16 6))
  | 0x09 => accept (zeroAt w 0 16) (.xor u (guardOf w) (fld w 28 6) (fld w 22 6) (fld w 16 6))
  | 0x0A => accept (zeroAt w 0 16) (.andn u (guardOf w) (fld w 28 6) (fld w 22 6) (fld w 16 6))
  | 0x0B => accept (zeroAt w 0 16) (.shl u (guardOf w) (fld w 28 6) (fld w 22 6) (fld w 16 6))
  | 0x0C => accept (zeroAt w 0 16) (.shr u (guardOf w) (fld w 28 6) (fld w 22 6) (fld w 16 6))
  | 0x0D => accept (zeroAt w 0 16) (.sar u (guardOf w) (fld w 28 6) (fld w 22 6) (fld w 16 6))
  | 0x0E => accept (zeroAt w 6 16) (.shli u (guardOf w) (fld w 28 6) (fld w 22 6) (fld w 0 6))
  | 0x0F => accept (zeroAt w 6 16) (.shri u (guardOf w) (fld w 28 6) (fld w 22 6) (fld w 0 6))
  | 0x10 => accept (zeroAt w 6 16) (.sari u (guardOf w) (fld w 28 6) (fld w 22 6) (fld w 0 6))
  | 0x11 => accept (zeroAt w 0 16) (.min u (guardOf w) (fld w 28 6) (fld w 22 6) (fld w 16 6))
  | 0x12 => accept (zeroAt w 0 16) (.max u (guardOf w) (fld w 28 6) (fld w 22 6) (fld w 16 6))
  | 0x13 => accept (zeroAt w 0 16) (.minu u (guardOf w) (fld w 28 6) (fld w 22 6) (fld w 16 6))
  | 0x14 => accept (zeroAt w 0 16) (.maxu u (guardOf w) (fld w 28 6) (fld w 22 6) (fld w 16 6))
  | 0x15 => accept (zeroAt w 0 22) (.clz u (guardOf w) (fld w 28 6) (fld w 22 6))
  | 0x16 => accept (zeroAt w 0 22) (.popc u (guardOf w) (fld w 28 6) (fld w 22 6))
  | 0x17 => accept true (.movi u (guardOf w) (fld w 28 6) (fld w 0 28))
  | 0x18 => accept true (.movhi u (guardOf w) (fld w 28 6) (fld w 0 28))
  | 0x19 => accept (zeroAt w 3 13) (.shadd u (guardOf w) (fld w 28 6) (fld w 22 6) (fld w 16 6) (fld w 0 3))
  | 0x1A => accept (zeroAt w 0 11) (.sel u (guardOf w) (fld w 28 6) (fld w 22 6) (fld w 16 6) (fld w 11 5))
  | 0x1B => accept (zeroAt w 12 10) (.extu u (guardOf w) (fld w 28 6) (fld w 22 6) (fld w 6 6) (fld w 0 6))
  | 0x20 => accept (zeroAt w 0 16 && zeroAt w 28 1) (.cmpeq u (guardOf w) (fld w 29 5) (fld w 22 6) (fld w 16 6))
  | 0x21 => accept (zeroAt w 0 16 && zeroAt w 28 1) (.cmpne u (guardOf w) (fld w 29 5) (fld w 22 6) (fld w 16 6))
  | 0x22 => accept (zeroAt w 0 16 && zeroAt w 28 1) (.cmplt u (guardOf w) (fld w 29 5) (fld w 22 6) (fld w 16 6))
  | 0x23 => accept (zeroAt w 0 16 && zeroAt w 28 1) (.cmple u (guardOf w) (fld w 29 5) (fld w 22 6) (fld w 16 6))
  | 0x24 => accept (zeroAt w 0 16 && zeroAt w 28 1) (.cmpltu u (guardOf w) (fld w 29 5) (fld w 22 6) (fld w 16 6))
  | 0x25 => accept (zeroAt w 0 16 && zeroAt w 28 1) (.cmpleu u (guardOf w) (fld w 29 5) (fld w 22 6) (fld w 16 6))
  | 0x26 => accept (zeroAt w 28 1) (.cmpeqi u (guardOf w) (fld w 29 5) (fld w 22 6) (fld w 0 22))
  | 0x27 => accept (zeroAt w 28 1) (.cmplti u (guardOf w) (fld w 29 5) (fld w 22 6) (fld w 0 22))
  | 0x30 => accept (zeroAt w 0 19) (.pand u (guardOf w) (fld w 29 5) (fld w 24 5) (fld w 19 5))
  | 0x31 => accept (zeroAt w 0 19) (.por u (guardOf w) (fld w 29 5) (fld w 24 5) (fld w 19 5))
  | 0x32 => accept (zeroAt w 0 19) (.pxor u (guardOf w) (fld w 29 5) (fld w 24 5) (fld w 19 5))
  | 0x33 => accept (zeroAt w 0 19) (.pandn u (guardOf w) (fld w 29 5) (fld w 24 5) (fld w 19 5))
  | 0x34 => accept (zeroAt w 0 24) (.pnot u (guardOf w) (fld w 29 5) (fld w 24 5))
  | 0x35 => accept (zeroAt w 0 24) (.pmov u (guardOf w) (fld w 29 5) (fld w 24 5))
  | 0x36 => accept (zeroAt w 0 22 && zeroAt w 28 1) (.psetn u (guardOf w) (fld w 29 5) (fld w 22 6))
  | 0x37 => accept (zeroAt w 0 19) (.pany u (guardOf w) (fld w 29 5) (fld w 24 5) (fld w 19 5))
  | 0x38 => accept (zeroAt w 0 19) (.pall u (guardOf w) (fld w 29 5) (fld w 24 5) (fld w 19 5))
  | 0x40 => accept (zeroAt w 0 16) (.fadd u (guardOf w) (fld w 28 6) (fld w 22 6) (fld w 16 6))
  | 0x41 => accept (zeroAt w 0 16) (.fsub u (guardOf w) (fld w 28 6) (fld w 22 6) (fld w 16 6))
  | 0x42 => accept (zeroAt w 0 16) (.fmul u (guardOf w) (fld w 28 6) (fld w 22 6) (fld w 16 6))
  | 0x43 => accept (zeroAt w 0 10) (.ffma u (guardOf w) (fld w 28 6) (fld w 22 6) (fld w 16 6) (fld w 10 6))
  | 0x44 => accept (zeroAt w 0 16) (.fmin u (guardOf w) (fld w 28 6) (fld w 22 6) (fld w 16 6))
  | 0x45 => accept (zeroAt w 0 16) (.fmax u (guardOf w) (fld w 28 6) (fld w 22 6) (fld w 16 6))
  | 0x46 => accept (zeroAt w 0 16 && zeroAt w 28 1) (.fcmplt u (guardOf w) (fld w 29 5) (fld w 22 6) (fld w 16 6))
  | 0x47 => accept (zeroAt w 0 16 && zeroAt w 28 1) (.fcmpeq u (guardOf w) (fld w 29 5) (fld w 22 6) (fld w 16 6))
  | 0x48 => accept (zeroAt w 0 22) (.fcvtfi u (guardOf w) (fld w 28 6) (fld w 22 6))
  | 0x49 => accept (zeroAt w 0 22) (.fcvtif u (guardOf w) (fld w 28 6) (fld w 22 6))
  | 0x50 => needPriv (bitAt w 7) priv <| accept (zeroAt w 8 20) (.rdsys u (guardOf w) (fld w 28 6) (fld w 0 8))
  | 0x51 => needPriv (bitAt w 7) priv <| accept (zeroAt w 8 14 && zeroAt w 28 6) (.wrsys u (guardOf w) (fld w 22 6) (fld w 0 8))
  | 0x52 => accept (zeroAt w 0 29) (.rddst u (guardOf w) (fld w 29 5))
  | _ => .error .illegalOpcode

/-- The vector slots (R33, R40). -/
def decodeVector (u : Bool) (opc : Nat) (w : BitVec 48) : Except DecodeError Instr :=
  match opc with
  | 0x01 => accept (zeroAt w 0 8) (.vadd u (guardOf w) (fld w 26 8) (fld w 18 8) (fld w 10 8) (vtypeOf (fld w 8 2)))
  | 0x02 => accept (zeroAt w 0 8) (.vsub u (guardOf w) (fld w 26 8) (fld w 18 8) (fld w 10 8) (vtypeOf (fld w 8 2)))
  | 0x03 => accept (zeroAt w 0 8) (.vmul u (guardOf w) (fld w 26 8) (fld w 18 8) (fld w 10 8) (vtypeOf (fld w 8 2)))
  | 0x04 => accept true (.vfma u (guardOf w) (fld w 26 8) (fld w 18 8) (fld w 10 8) (vtypeOf (fld w 8 2)) (fld w 0 8))
  | 0x05 => accept true (.vfms u (guardOf w) (fld w 26 8) (fld w 18 8) (fld w 10 8) (vtypeOf (fld w 8 2)) (fld w 0 8))
  | 0x06 => accept (zeroAt w 0 8) (.vmin u (guardOf w) (fld w 26 8) (fld w 18 8) (fld w 10 8) (vtypeOf (fld w 8 2)))
  | 0x07 => accept (zeroAt w 0 8) (.vmax u (guardOf w) (fld w 26 8) (fld w 18 8) (fld w 10 8) (vtypeOf (fld w 8 2)))
  | 0x08 => accept (zeroAt w 0 8 && zeroAt w 10 8) (.vabs u (guardOf w) (fld w 26 8) (fld w 18 8) (vtypeOf (fld w 8 2)))
  | 0x09 => accept (zeroAt w 0 8 && zeroAt w 10 8) (.vneg u (guardOf w) (fld w 26 8) (fld w 18 8) (vtypeOf (fld w 8 2)))
  | 0x0A => accept (zeroAt w 0 8) (.vand u (guardOf w) (fld w 26 8) (fld w 18 8) (fld w 10 8) (vtypeOf (fld w 8 2)))
  | 0x0B => accept (zeroAt w 0 8) (.vor u (guardOf w) (fld w 26 8) (fld w 18 8) (fld w 10 8) (vtypeOf (fld w 8 2)))
  | 0x0C => accept (zeroAt w 0 8) (.vxor u (guardOf w) (fld w 26 8) (fld w 18 8) (fld w 10 8) (vtypeOf (fld w 8 2)))
  | 0x0D => accept (zeroAt w 0 8) (.vshl u (guardOf w) (fld w 26 8) (fld w 18 8) (fld w 10 8) (vtypeOf (fld w 8 2)))
  | 0x0E => accept (zeroAt w 0 8) (.vshr u (guardOf w) (fld w 26 8) (fld w 18 8) (fld w 10 8) (vtypeOf (fld w 8 2)))
  | 0x0F => accept (zeroAt w 0 8) (.vsar u (guardOf w) (fld w 26 8) (fld w 18 8) (fld w 10 8) (vtypeOf (fld w 8 2)))
  | 0x10 => accept (zeroAt w 0 8 && zeroAt w 26 3) (.vcmpeq u (guardOf w) (fld w 29 5) (fld w 18 8) (fld w 10 8) (vtypeOf (fld w 8 2)))
  | 0x11 => accept (zeroAt w 0 8 && zeroAt w 26 3) (.vcmplt u (guardOf w) (fld w 29 5) (fld w 18 8) (fld w 10 8) (vtypeOf (fld w 8 2)))
  | 0x12 => accept (zeroAt w 0 8 && zeroAt w 26 3) (.vcmple u (guardOf w) (fld w 29 5) (fld w 18 8) (fld w 10 8) (vtypeOf (fld w 8 2)))
  | 0x13 => accept (zeroAt w 0 3) (.vsel u (guardOf w) (fld w 26 8) (fld w 18 8) (fld w 10 8) (vtypeOf (fld w 8 2)) (fld w 3 5))
  | 0x18 => accept (zeroAt w 0 8 && zeroAt w 10 8) (.vmov u (guardOf w) (fld w 26 8) (fld w 18 8) (vtypeOf (fld w 8 2)))
  | 0x19 => accept (zeroAt w 6 2 && zeroAt w 10 16) (.vbcast u (guardOf w) (fld w 26 8) (vtypeOf (fld w 8 2)) (fld w 0 6))
  | 0x1A => accept (zeroAt w 0 8 && zeroAt w 10 16) (.viota u (guardOf w) (fld w 26 8) (vtypeOf (fld w 8 2)))
  | 0x1B => accept (zeroAt w 6 2 && zeroAt w 10 8) (.vlsh u (guardOf w) (fld w 26 8) (fld w 18 8) (vtypeOf (fld w 8 2)) (fld w 0 6))
  | 0x1C => accept (zeroAt w 6 2) (.vlshd u (guardOf w) (fld w 26 8) (fld w 18 8) (fld w 10 8) (vtypeOf (fld w 8 2)) (fld w 0 6))
  | 0x1D => accept (zeroAt w 0 8) (.vperm u (guardOf w) (fld w 26 8) (fld w 18 8) (fld w 10 8) (vtypeOf (fld w 8 2)))
  | 0x1E => accept (zeroAt w 0 8 && zeroAt w 10 2 && zeroAt w 26 2) (.vext u (guardOf w) (fld w 28 6) (fld w 18 8) (fld w 12 6) (vtypeOf (fld w 8 2)))
  | 0x1F => accept (zeroAt w 0 8 && zeroAt w 10 2 && zeroAt w 18 2) (.vins u (guardOf w) (fld w 26 8) (fld w 20 6) (fld w 12 6) (vtypeOf (fld w 8 2)))
  | 0x20 => accept (zeroAt w 0 8 && zeroAt w 10 8) (.vredadd u (guardOf w) (fld w 26 8) (fld w 18 8) (vtypeOf (fld w 8 2)))
  | 0x21 => accept (zeroAt w 0 8 && zeroAt w 10 8) (.vredmax u (guardOf w) (fld w 26 8) (fld w 18 8) (vtypeOf (fld w 8 2)))
  | 0x22 => accept (zeroAt w 0 8 && zeroAt w 10 8) (.vredmin u (guardOf w) (fld w 26 8) (fld w 18 8) (vtypeOf (fld w 8 2)))
  | 0x23 => accept (zeroAt w 0 8 && zeroAt w 10 8) (.vscan u (guardOf w) (fld w 26 8) (fld w 18 8) (vtypeOf (fld w 8 2)))
  | 0x28 => accept (zeroAt w 0 6 && zeroAt w 10 8) (.vcvt u (guardOf w) (fld w 26 8) (fld w 18 8) (vtypeOf (fld w 8 2)) (vtypeOf (fld w 6 2)))
  | 0x29 => accept (zeroAt w 0 6) (.vpack u (guardOf w) (fld w 26 8) (fld w 18 8) (fld w 10 8) (vtypeOf (fld w 8 2)) (vtypeOf (fld w 6 2)))
  | 0x2A => accept (zeroAt w 0 5 && zeroAt w 10 8) (.vunpk u (guardOf w) (fld w 26 8) (fld w 18 8) (vtypeOf (fld w 8 2)) (vtypeOf (fld w 6 2)) (bitAt w 5))
  | 0x30 => accept (zeroAt w 0 8 && zeroAt w 10 8) (.vexp2 u (guardOf w) (fld w 26 8) (fld w 18 8) (vtypeOf (fld w 8 2)))
  | 0x31 => accept (zeroAt w 0 8 && zeroAt w 10 8) (.vlog2 u (guardOf w) (fld w 26 8) (fld w 18 8) (vtypeOf (fld w 8 2)))
  | 0x32 => accept (zeroAt w 0 8 && zeroAt w 10 8) (.vrcp u (guardOf w) (fld w 26 8) (fld w 18 8) (vtypeOf (fld w 8 2)))
  | 0x33 => accept (zeroAt w 0 8 && zeroAt w 10 8) (.vrsq u (guardOf w) (fld w 26 8) (fld w 18 8) (vtypeOf (fld w 8 2)))
  | 0x34 => accept (zeroAt w 0 8 && zeroAt w 10 8) (.vsqrt u (guardOf w) (fld w 26 8) (fld w 18 8) (vtypeOf (fld w 8 2)))
  | 0x35 => accept (zeroAt w 0 8 && zeroAt w 10 8) (.vtanh u (guardOf w) (fld w 26 8) (fld w 18 8) (vtypeOf (fld w 8 2)))
  | 0x38 => accept (zeroAt w 0 8 && zeroAt w 10 8) (.vquant u (guardOf w) (fld w 26 8) (fld w 18 8) (vtypeOf (fld w 8 2)))
  | 0x39 => accept (zeroAt w 0 8 && zeroAt w 10 8) (.vdeq u (guardOf w) (fld w 26 8) (fld w 18 8) (vtypeOf (fld w 8 2)))
  | _ => .error .illegalOpcode

/-- The matrix slot (R34, R41). -/
def decodeMatrix (opc : Nat) (w : BitVec 48) : Except DecodeError Instr :=
  match opc with
  | 0x01 => accept (zeroAt w 0 4 && zeroAt w 13 7 && zeroAt w 22 12) (.mpush (guardOf w) (fld w 20 2) (fld w 4 9))
  | 0x02 => accept (zeroAt w 0 34) (.msel (guardOf w))
  | 0x03 => accept (zeroAt w 9 25) (.mshift (guardOf w) (fld w 0 9))
  | 0x04 => coded (elemOf (fld w 16 4)) fun fc => coded (pushOf (fld w 4 12)) fun push => accept (zeroAt w 0 4) (.macc (guardOf w) (fld w 22 12) (fld w 20 2) fc push)
  | 0x05 => coded (elemOf (fld w 16 4)) fun fc => coded (pushOf (fld w 4 12)) fun push => accept (zeroAt w 0 4) (.maccz (guardOf w) (fld w 22 12) (fld w 20 2) fc push)
  | 0x06 => coded (pushOf (fld w 4 12)) fun push => accept (zeroAt w 0 4 && zeroAt w 16 4) (.maccs (guardOf w) (fld w 22 12) (fld w 20 2) push)
  | 0x07 => coded (drainOf (fld w 19 3)) fun df => accept true (.mdrain (guardOf w) (fld w 22 12) df (fld w 13 6) (fld w 0 13))
  | 0x08 => coded (drainOf (fld w 19 3)) fun df => accept true (.mdrainz (guardOf w) (fld w 22 12) df (fld w 13 6) (fld w 0 13))
  | 0x09 => accept (zeroAt w 0 22) (.mzero (guardOf w) (fld w 22 12))
  | _ => .error .illegalOpcode

/-- The scratchpad slot (R35, R42). -/
def decodeScratch (opc : Nat) (w : BitVec 48) : Except DecodeError Instr :=
  match opc with
  | 0x01 => accept true (.ldv (guardOf w) (fld w 26 8) (fld w 22 4) (fld w 0 22))
  | 0x02 => accept true (.stv (guardOf w) (fld w 26 8) (fld w 22 4) (fld w 0 22))
  | 0x03 => accept true (.lds (guardOf w) (fld w 28 6) (widthOf (fld w 26 2)) (fld w 22 4) (fld w 0 22))
  | 0x04 => accept true (.sts (guardOf w) (fld w 28 6) (widthOf (fld w 26 2)) (fld w 22 4) (fld w 0 22))
  | 0x05 => accept true (.ldvx (guardOf w) (fld w 26 8) (fld w 18 8) (fld w 14 4) (widthOf (fld w 12 2)) (fld w 0 12))
  | 0x06 => accept true (.stvx (guardOf w) (fld w 26 8) (fld w 18 8) (fld w 14 4) (widthOf (fld w 12 2)) (fld w 0 12))
  | 0x07 => accept true (.ldvb (guardOf w) (fld w 26 8) (fld w 22 4) (fld w 0 22))
  | 0x10 => coded (wideOf (fld w 8 2)) fun w8 => accept (zeroAt w 16 6) (.atlAdd (guardOf w) (fld w 28 6) (fld w 22 6) (fld w 10 6) w8 (fld w 0 8))
  | 0x11 => coded (wideOf (fld w 8 2)) fun w8 => accept (zeroAt w 16 6) (.atlMin (guardOf w) (fld w 28 6) (fld w 22 6) (fld w 10 6) w8 (fld w 0 8))
  | 0x12 => coded (wideOf (fld w 8 2)) fun w8 => accept (zeroAt w 16 6) (.atlMax (guardOf w) (fld w 28 6) (fld w 22 6) (fld w 10 6) w8 (fld w 0 8))
  | 0x13 => coded (wideOf (fld w 8 2)) fun w8 => accept (zeroAt w 16 6) (.atlAnd (guardOf w) (fld w 28 6) (fld w 22 6) (fld w 10 6) w8 (fld w 0 8))
  | 0x14 => coded (wideOf (fld w 8 2)) fun w8 => accept (zeroAt w 16 6) (.atlOr (guardOf w) (fld w 28 6) (fld w 22 6) (fld w 10 6) w8 (fld w 0 8))
  | 0x15 => coded (wideOf (fld w 8 2)) fun w8 => accept (zeroAt w 16 6) (.atlXchg (guardOf w) (fld w 28 6) (fld w 22 6) (fld w 10 6) w8 (fld w 0 8))
  | 0x16 => coded (wideOf (fld w 8 2)) fun w8 => accept true (.atlCas (guardOf w) (fld w 28 6) (fld w 22 6) (fld w 16 6) (fld w 10 6) w8 (fld w 0 8))
  | 0x17 => accept (zeroAt w 16 6 && fld w 8 2 == 2#2) (.atlFadd (guardOf w) (fld w 28 6) (fld w 22 6) (fld w 10 6) (fld w 0 8))
  | _ => .error .illegalOpcode

/-- The engine-queue slot (R36, R42). -/
def decodeEngine (priv : Bool) (opc : Nat) (w : BitVec 48) : Except DecodeError Instr :=
  match opc with
  | 0x01 => accept (zeroAt w 0 2 && zeroAt w 14 1) (.ldg (guardOf w) (fld w 28 6) (fld w 22 6) (widthOf (fld w 20 2)) (fld w 16 4) (bitAt w 15) (fld w 2 12))
  | 0x02 => accept (zeroAt w 0 2 && zeroAt w 14 1) (.ldgv (guardOf w) (fld w 26 8) (fld w 20 6) (fld w 16 4) (bitAt w 15) (fld w 2 12))
  | 0x03 => accept (zeroAt w 0 14 && zeroAt w 15 1) (.stg (guardOf w) (fld w 28 6) (fld w 22 6) (widthOf (fld w 20 2)) (fld w 16 4) (bitAt w 14))
  | 0x04 => accept (zeroAt w 0 14 && zeroAt w 15 1) (.stgv (guardOf w) (fld w 26 8) (fld w 20 6) (fld w 16 4) (bitAt w 14))
  | 0x08 => accept (zeroAt w 0 5) (.cpy (guardOf w) (fld w 31 3) (fld w 25 6) (fld w 19 6) (fld w 13 6) (fld w 9 4) (fld w 5 4))
  | 0x09 => accept (zeroAt w 0 5) (.cpyo (guardOf w) (fld w 31 3) (fld w 25 6) (fld w 19 6) (fld w 13 6) (fld w 9 4) (fld w 5 4))
  | 0x0A => accept (zeroAt w 0 5) (.cpyt (guardOf w) (fld w 31 3) (fld w 25 6) (fld w 19 6) (fld w 13 6) (fld w 9 4) (fld w 5 4))
  | 0x0B => accept (zeroAt w 0 5 && zeroAt w 9 10 && zeroAt w 25 6) (.cpyg (guardOf w) (fld w 31 3) (fld w 19 6) (fld w 5 4))
  | 0x0C => accept (zeroAt w 0 8 && zeroAt w 16 18) (.qfence (guardOf w) (fld w 8 8))
  | 0x0D => coded (fenceOf (fld w 32 2)) fun kind => accept (zeroAt w 0 16) (.fence (guardOf w) kind (fld w 16 16))
  | 0x10 => coded (wideOf (fld w 20 2)) fun w8 => accept (zeroAt w 0 2) (.atgAdd (guardOf w) (fld w 28 6) (fld w 22 6) w8 (fld w 16 4) (bitAt w 15) (bitAt w 14) (fld w 2 12))
  | 0x11 => accept (zeroAt w 0 2 && fld w 20 2 == 2#2) (.atgFadd (guardOf w) (fld w 28 6) (fld w 22 6) (fld w 16 4) (bitAt w 15) (bitAt w 14) (fld w 2 12))
  | 0x12 => coded (wideOf (fld w 20 2)) fun w8 => accept (zeroAt w 0 2) (.atgMin (guardOf w) (fld w 28 6) (fld w 22 6) w8 (fld w 16 4) (bitAt w 15) (bitAt w 14) (fld w 2 12))
  | 0x13 => coded (wideOf (fld w 20 2)) fun w8 => accept (zeroAt w 0 2) (.atgMax (guardOf w) (fld w 28 6) (fld w 22 6) w8 (fld w 16 4) (bitAt w 15) (bitAt w 14) (fld w 2 12))
  | 0x14 => coded (wideOf (fld w 20 2)) fun w8 => accept (zeroAt w 0 2) (.atgAnd (guardOf w) (fld w 28 6) (fld w 22 6) w8 (fld w 16 4) (bitAt w 15) (bitAt w 14) (fld w 2 12))
  | 0x15 => coded (wideOf (fld w 20 2)) fun w8 => accept (zeroAt w 0 2) (.atgOr (guardOf w) (fld w 28 6) (fld w 22 6) w8 (fld w 16 4) (bitAt w 15) (bitAt w 14) (fld w 2 12))
  | 0x16 => coded (wideOf (fld w 20 2)) fun w8 => accept (zeroAt w 0 2) (.atgXor (guardOf w) (fld w 28 6) (fld w 22 6) w8 (fld w 16 4) (bitAt w 15) (bitAt w 14) (fld w 2 12))
  | 0x17 => coded (wideOf (fld w 20 2)) fun w8 => accept (zeroAt w 0 2) (.atgXchg (guardOf w) (fld w 28 6) (fld w 22 6) w8 (fld w 16 4) (bitAt w 15) (bitAt w 14) (fld w 2 12))
  | 0x18 => coded (wideOf (fld w 20 2)) fun w8 => accept (zeroAt w 0 2) (.atgCas (guardOf w) (fld w 28 6) (fld w 22 6) w8 (fld w 16 4) (bitAt w 15) (bitAt w 14) (fld w 2 12))
  | 0x20 => accept (zeroAt w 0 14 && zeroAt w 15 1 && zeroAt w 20 2) (.arrive (guardOf w) (fld w 28 6) (fld w 22 6) (fld w 16 4) (bitAt w 14))
  | 0x21 => accept (zeroAt w 0 2 && zeroAt w 14 1 && zeroAt w 20 1) (.waitv (guardOf w) (fld w 28 6) (fld w 22 6) (bitAt w 21) (fld w 16 4) (bitAt w 15) (fld w 2 12))
  | 0x28 => accept (zeroAt w 0 6) (.spawn (guardOf w) (fld w 28 6) (fld w 22 6) (fld w 6 16))
  | 0x29 => accept (zeroAt w 0 22) (.depend (guardOf w) (fld w 28 6) (fld w 22 6))
  | 0x2A => accept (zeroAt w 0 22) (.signal (guardOf w) (fld w 28 6) (fld w 22 6))
  | 0x30 => accept (zeroAt w 0 13) (.hsplit (guardOf w) (fld w 30 4) (fld w 26 4) (fld w 22 4) (fld w 19 3) (fld w 13 6))
  | 0x31 => accept (zeroAt w 0 22) (.hrejoin (guardOf w) (fld w 30 4) (fld w 26 4) (fld w 22 4))
  | 0x32 => accept (zeroAt w 0 26) (.hmov (guardOf w) (fld w 30 4) (fld w 26 4))
  | 0x33 => accept (zeroAt w 0 7 && zeroAt w 13 17) (.hput (guardOf w) (fld w 30 4) (fld w 7 6))
  | 0x34 => accept (zeroAt w 0 6 && zeroAt w 19 11) (.htake (guardOf w) (fld w 30 4) (fld w 13 6) (fld w 7 6) (bitAt w 6))
  | 0x35 => accept (zeroAt w 0 7 && zeroAt w 19 11) (.hld (guardOf w) (fld w 30 4) (fld w 13 6) (fld w 7 6))
  | 0x36 => accept (zeroAt w 0 7 && zeroAt w 19 11) (.hst (guardOf w) (fld w 30 4) (fld w 13 6) (fld w 7 6))
  | 0x37 => accept (zeroAt w 0 13 && zeroAt w 22 8) (.hinfo (guardOf w) (fld w 30 4) (fld w 19 3) (fld w 13 6))
  | 0x38 => accept (zeroAt w 0 34) (.rfence (guardOf w))
  | 0x40 => needPriv true priv <| accept (zeroAt w 0 22) (.tlbinv (guardOf w) (fld w 28 6) (fld w 22 6))
  | 0x41 => needPriv true priv <| accept (zeroAt w 0 22) (.cachewb (guardOf w) (fld w 28 6) (fld w 22 6))
  | 0x42 => needPriv true priv <| accept (zeroAt w 0 22) (.cacheinv (guardOf w) (fld w 28 6) (fld w 22 6))
  | _ => .error .illegalOpcode

/-- The tile-fetch slot (R37, R43). -/
def decodeTile (opc : Nat) (w : BitVec 48) : Except DecodeError Instr :=
  match opc with
  | 0x01 => accept (zeroAt w 0 8) (.tfa (guardOf w) (fld w 32 2) (fld w 26 6) (fld w 20 6) (fld w 8 12))
  | 0x02 => accept (zeroAt w 0 8) (.tfb (guardOf w) (fld w 32 2) (fld w 26 6) (fld w 20 6) (fld w 8 12))
  | 0x03 => accept (zeroAt w 0 8 && zeroAt w 26 2) (.tfh (guardOf w) (fld w 32 2) (fld w 28 4) (fld w 20 6) (fld w 8 12))
  | 0x04 => accept (zeroAt w 0 30) (.tfx (guardOf w) (fld w 30 4))
  | _ => .error .illegalOpcode

/-- The scale slot (R37, R43). -/
def decodeScale (opc : Nat) (w : BitVec 48) : Except DecodeError Instr :=
  match opc with
  | 0x01 => coded (elemOf (fld w 30 4)) fun fa => coded (elemOf (fld w 26 4)) fun fb => coded (scaleOf (fld w 24 2)) fun sm => accept (zeroAt w 0 23) (.setfmt (guardOf w) fa fb sm (bitAt w 23))
  | 0x02 => accept (zeroAt w 26 7) (.ldsct (guardOf w) (bitAt w 33) (fld w 22 4) (fld w 0 22))
  | 0x03 => accept (zeroAt w 6 16 && zeroAt w 28 5) (.setband (guardOf w) (bitAt w 33) (fld w 22 6) (fld w 0 6))
  | 0x04 => accept (zeroAt w 0 32) (.setrnd (guardOf w) (roundOf (fld w 32 2)))
  | 0x05 => accept (zeroAt w 0 23) (.clrflg (guardOf w) (fld w 24 10) (bitAt w 23))
  | _ => .error .illegalOpcode

/-- The operation in slot `k`. An all-zero slot is a no-operation; opcode 0 with another bit set is no encoding (R27). -/
def decodeSlot (k : Slot) (priv : Bool) (w : BitVec 48) : Except DecodeError Instr :=
  if w = 0#48 then .ok .nop
  else
    let opc := (fld w 40 8).toNat
    if opc = 0 then .error .illegalEncoding
    else
      match k with
      | .ctl => decodeCtl priv opc w
      | .sa => decodeScalar false priv opc w
      | .sb => decodeScalar true priv opc w
      | .vx => decodeVector false opc w
      | .vy => decodeVector true opc w
      | .mx => decodeMatrix opc w
      | .ls => decodeScratch opc w
      | .eq => decodeEngine priv opc w
      | .tf => decodeTile opc w
      | .sc => decodeScale opc w

/-! ### Bundles (R24, R25, R44, R45) -/

/-- The slots in index order. -/
def Slot.all : List Slot := [.ctl, .sa, .sb, .vx, .vy, .mx, .ls, .eq, .tf, .sc]

/-- The header of a bundle. -/
def headerOf (b : BitVec 512) : BitVec 32 := b.extractLsb' 0 32

/-- The bits of slot `k`. -/
def slotWord (b : BitVec 512) (k : Slot) : BitVec 48 := b.extractLsb' (32 + 48 * k.index) 48

/-- Header limits: SCOPE 0 to 4, bits [17:0] zero (R26). -/
def headerOk (h : BitVec 32) : Bool := decide (h.toNat % 2 ^ 18 = 0) && decide (h.toNat / 2 ^ 25 % 8 ≤ 4)

/-- The operations of the slots, the empty slots left out, or the first fault with its slot (R45). -/
def decodeSlots (priv : Bool) (b : BitVec 512) : List Slot → Except (DecodeError × Nat) (List Instr)
  | [] => .ok []
  | k :: ks =>
    match decodeSlot k priv (slotWord b k) with
    | .error e => .error (e, k.index)
    | .ok i =>
      match decodeSlots priv b ks with
      | .error e => .error e
      | .ok is => .ok (if i = .nop then is else i :: is)

/-- The operations of the slots before the first that does not decode. -/
def decodeBefore (priv : Bool) (b : BitVec 512) : List Slot → List Instr
  | [] => []
  | k :: ks =>
    match decodeSlot k priv (slotWord b k) with
    | .error _ => []
    | .ok i => if i = .nop then decodeBefore priv b ks else i :: decodeBefore priv b ks

/-- A bundle: the header is checked first and names the whole bundle, slot 0xFF. One whose slots are all empty is
a NOP. -/
def decodeBundle (priv : Bool) (b : BitVec 512) : Except (DecodeError × Nat) (List Instr) :=
  if headerOk (headerOf b) then
    match decodeSlots priv b Slot.all with
    | .ok [] => .ok [.nop]
    | r => r
  else .error (.illegalEncoding, 0xFF)

/-- The operation that stands alone in the first `nbits` bits read as a bundle; privileged, so that every encoding
is reached. An all-zero bundle is NOP. -/
def decodeTableWord (nbits w : Nat) : Option Instr :=
  match decodeBundle true (BitVec.ofNat 512 (w % 2 ^ nbits)) with
  | .ok [i] => some i
  | _ => none

/-! ### The encoder -/

/-- Fields, each a value and its lowest bit, as one number. -/
def fieldSum : List (Nat × Nat) → Nat
  | [] => 0
  | (v, lo) :: t => v * 2 ^ lo + fieldSum t

/-- A slot from its opcode, guard and operand fields (R27). -/
def slotBits (opc : Nat) (g : Guard) (operands : List (Nat × Nat)) : BitVec 48 :=
  BitVec.ofNat 48 (fieldSum ((opc, 40) :: (g.p.toNat, 35) :: (flagCode g.n, 34) :: operands))

/-- The 48 bits of an operation; none for an event, which has no encoding. -/
def encode : Instr → Option (BitVec 48)
  | .nop => some 0#48
  | .bundleIssue => none
  | .energyStretch => none
  | .budgetRefill => none
  | .staticCharge => none
  | .resultLand => none
  | .landing => none
  | .lateDataArrival => none
  | .fetchArrival => none
  | .codePageLoad => none
  | .bodyPublish _ _ _ => none
  | .br g off => some (slotBits 0x01 g [(off.toNat, 10)])
  | .bri g a => some (slotBits 0x02 g [(a.toNat, 28)])
  | .call g off => some (slotBits 0x03 g [(off.toNat, 10)])
  | .calli g a => some (slotBits 0x04 g [(a.toNat, 28)])
  | .ret g => some (slotBits 0x05 g [])
  | .loop g lc body count => some (slotBits 0x06 g [(lc.toNat, 32), (body.toNat, 20), (count.toNat, 0)])
  | .loopr g lc body a => some (slotBits 0x07 g [(lc.toNat, 32), (body.toNat, 20), (a.toNat, 14)])
  | .lbrk g lc => some (slotBits 0x08 g [(lc.toNat, 32)])
  | .mark g ex => some (slotBits 0x09 g [(ex.toNat, 0)])
  | .trap g imm => some (slotBits 0x0A g [(imm.toNat, 0)])
  | .yield g => some (slotBits 0x0B g [])
  | .commit g => some (slotBits 0x0C g [])
  | .endt g => some (slotBits 0x0D g [])
  | .taskDrainEnd => none
  | .waitc g n => some (slotBits 0x0E g [(n.toNat, 0)])
  | .cbar g => some (slotBits 0x0F g [])
  | .barrierComplete => none
  | .trapret g => some (slotBits 0x10 g [])
  | .idle g => some (slotBits 0x11 g [])
  | .idleTimeout => none
  | .add _ g d a b => some (slotBits 0x01 g [(d.toNat, 28), (a.toNat, 22), (b.toNat, 16)])
  | .sub _ g d a b => some (slotBits 0x02 g [(d.toNat, 28), (a.toNat, 22), (b.toNat, 16)])
  | .addi _ g d a imm => some (slotBits 0x03 g [(d.toNat, 28), (a.toNat, 22), (imm.toNat, 0)])
  | .mul _ g d a b => some (slotBits 0x04 g [(d.toNat, 28), (a.toNat, 22), (b.toNat, 16)])
  | .mulh _ g d a b => some (slotBits 0x05 g [(d.toNat, 28), (a.toNat, 22), (b.toNat, 16)])
  | .mulhu _ g d a b => some (slotBits 0x06 g [(d.toNat, 28), (a.toNat, 22), (b.toNat, 16)])
  | .and _ g d a b => some (slotBits 0x07 g [(d.toNat, 28), (a.toNat, 22), (b.toNat, 16)])
  | .or _ g d a b => some (slotBits 0x08 g [(d.toNat, 28), (a.toNat, 22), (b.toNat, 16)])
  | .xor _ g d a b => some (slotBits 0x09 g [(d.toNat, 28), (a.toNat, 22), (b.toNat, 16)])
  | .andn _ g d a b => some (slotBits 0x0A g [(d.toNat, 28), (a.toNat, 22), (b.toNat, 16)])
  | .shl _ g d a b => some (slotBits 0x0B g [(d.toNat, 28), (a.toNat, 22), (b.toNat, 16)])
  | .shr _ g d a b => some (slotBits 0x0C g [(d.toNat, 28), (a.toNat, 22), (b.toNat, 16)])
  | .sar _ g d a b => some (slotBits 0x0D g [(d.toNat, 28), (a.toNat, 22), (b.toNat, 16)])
  | .shli _ g d a n => some (slotBits 0x0E g [(d.toNat, 28), (a.toNat, 22), (n.toNat, 0)])
  | .shri _ g d a n => some (slotBits 0x0F g [(d.toNat, 28), (a.toNat, 22), (n.toNat, 0)])
  | .sari _ g d a n => some (slotBits 0x10 g [(d.toNat, 28), (a.toNat, 22), (n.toNat, 0)])
  | .min _ g d a b => some (slotBits 0x11 g [(d.toNat, 28), (a.toNat, 22), (b.toNat, 16)])
  | .max _ g d a b => some (slotBits 0x12 g [(d.toNat, 28), (a.toNat, 22), (b.toNat, 16)])
  | .minu _ g d a b => some (slotBits 0x13 g [(d.toNat, 28), (a.toNat, 22), (b.toNat, 16)])
  | .maxu _ g d a b => some (slotBits 0x14 g [(d.toNat, 28), (a.toNat, 22), (b.toNat, 16)])
  | .clz _ g d a => some (slotBits 0x15 g [(d.toNat, 28), (a.toNat, 22)])
  | .popc _ g d a => some (slotBits 0x16 g [(d.toNat, 28), (a.toNat, 22)])
  | .movi _ g d imm => some (slotBits 0x17 g [(d.toNat, 28), (imm.toNat, 0)])
  | .movhi _ g d imm => some (slotBits 0x18 g [(d.toNat, 28), (imm.toNat, 0)])
  | .shadd _ g d a b sh => some (slotBits 0x19 g [(d.toNat, 28), (a.toNat, 22), (b.toNat, 16), (sh.toNat, 0)])
  | .sel _ g d a b ps => some (slotBits 0x1A g [(d.toNat, 28), (a.toNat, 22), (b.toNat, 16), (ps.toNat, 11)])
  | .extu _ g d a hi lo => some (slotBits 0x1B g [(d.toNat, 28), (a.toNat, 22), (hi.toNat, 6), (lo.toNat, 0)])
  | .cmpeq _ g pd a b => some (slotBits 0x20 g [(pd.toNat, 29), (a.toNat, 22), (b.toNat, 16)])
  | .cmpne _ g pd a b => some (slotBits 0x21 g [(pd.toNat, 29), (a.toNat, 22), (b.toNat, 16)])
  | .cmplt _ g pd a b => some (slotBits 0x22 g [(pd.toNat, 29), (a.toNat, 22), (b.toNat, 16)])
  | .cmple _ g pd a b => some (slotBits 0x23 g [(pd.toNat, 29), (a.toNat, 22), (b.toNat, 16)])
  | .cmpltu _ g pd a b => some (slotBits 0x24 g [(pd.toNat, 29), (a.toNat, 22), (b.toNat, 16)])
  | .cmpleu _ g pd a b => some (slotBits 0x25 g [(pd.toNat, 29), (a.toNat, 22), (b.toNat, 16)])
  | .cmpeqi _ g pd a imm => some (slotBits 0x26 g [(pd.toNat, 29), (a.toNat, 22), (imm.toNat, 0)])
  | .cmplti _ g pd a imm => some (slotBits 0x27 g [(pd.toNat, 29), (a.toNat, 22), (imm.toNat, 0)])
  | .pand _ g pd pa pb => some (slotBits 0x30 g [(pd.toNat, 29), (pa.toNat, 24), (pb.toNat, 19)])
  | .por _ g pd pa pb => some (slotBits 0x31 g [(pd.toNat, 29), (pa.toNat, 24), (pb.toNat, 19)])
  | .pxor _ g pd pa pb => some (slotBits 0x32 g [(pd.toNat, 29), (pa.toNat, 24), (pb.toNat, 19)])
  | .pandn _ g pd pa pb => some (slotBits 0x33 g [(pd.toNat, 29), (pa.toNat, 24), (pb.toNat, 19)])
  | .pnot _ g pd pa => some (slotBits 0x34 g [(pd.toNat, 29), (pa.toNat, 24)])
  | .pmov _ g pd pa => some (slotBits 0x35 g [(pd.toNat, 29), (pa.toNat, 24)])
  | .psetn _ g pd a => some (slotBits 0x36 g [(pd.toNat, 29), (a.toNat, 22)])
  | .pany _ g pd pa pb => some (slotBits 0x37 g [(pd.toNat, 29), (pa.toNat, 24), (pb.toNat, 19)])
  | .pall _ g pd pa pb => some (slotBits 0x38 g [(pd.toNat, 29), (pa.toNat, 24), (pb.toNat, 19)])
  | .fadd _ g d a b => some (slotBits 0x40 g [(d.toNat, 28), (a.toNat, 22), (b.toNat, 16)])
  | .fsub _ g d a b => some (slotBits 0x41 g [(d.toNat, 28), (a.toNat, 22), (b.toNat, 16)])
  | .fmul _ g d a b => some (slotBits 0x42 g [(d.toNat, 28), (a.toNat, 22), (b.toNat, 16)])
  | .ffma _ g d a b c => some (slotBits 0x43 g [(d.toNat, 28), (a.toNat, 22), (b.toNat, 16), (c.toNat, 10)])
  | .fmin _ g d a b => some (slotBits 0x44 g [(d.toNat, 28), (a.toNat, 22), (b.toNat, 16)])
  | .fmax _ g d a b => some (slotBits 0x45 g [(d.toNat, 28), (a.toNat, 22), (b.toNat, 16)])
  | .fcmplt _ g pd a b => some (slotBits 0x46 g [(pd.toNat, 29), (a.toNat, 22), (b.toNat, 16)])
  | .fcmpeq _ g pd a b => some (slotBits 0x47 g [(pd.toNat, 29), (a.toNat, 22), (b.toNat, 16)])
  | .fcvtfi _ g d a => some (slotBits 0x48 g [(d.toNat, 28), (a.toNat, 22)])
  | .fcvtif _ g d a => some (slotBits 0x49 g [(d.toNat, 28), (a.toNat, 22)])
  | .rdsys _ g d idx => some (slotBits 0x50 g [(d.toNat, 28), (idx.toNat, 0)])
  | .wrsys _ g a idx => some (slotBits 0x51 g [(a.toNat, 22), (idx.toNat, 0)])
  | .rddst _ g pd => some (slotBits 0x52 g [(pd.toNat, 29)])
  | .vadd _ g d a b t => some (slotBits 0x01 g [(d.toNat, 26), (a.toNat, 18), (b.toNat, 10), (vtypeCode t, 8)])
  | .vsub _ g d a b t => some (slotBits 0x02 g [(d.toNat, 26), (a.toNat, 18), (b.toNat, 10), (vtypeCode t, 8)])
  | .vmul _ g d a b t => some (slotBits 0x03 g [(d.toNat, 26), (a.toNat, 18), (b.toNat, 10), (vtypeCode t, 8)])
  | .vfma _ g d a b t c => some (slotBits 0x04 g [(d.toNat, 26), (a.toNat, 18), (b.toNat, 10), (vtypeCode t, 8), (c.toNat, 0)])
  | .vfms _ g d a b t c => some (slotBits 0x05 g [(d.toNat, 26), (a.toNat, 18), (b.toNat, 10), (vtypeCode t, 8), (c.toNat, 0)])
  | .vmin _ g d a b t => some (slotBits 0x06 g [(d.toNat, 26), (a.toNat, 18), (b.toNat, 10), (vtypeCode t, 8)])
  | .vmax _ g d a b t => some (slotBits 0x07 g [(d.toNat, 26), (a.toNat, 18), (b.toNat, 10), (vtypeCode t, 8)])
  | .vabs _ g d a t => some (slotBits 0x08 g [(d.toNat, 26), (a.toNat, 18), (vtypeCode t, 8)])
  | .vneg _ g d a t => some (slotBits 0x09 g [(d.toNat, 26), (a.toNat, 18), (vtypeCode t, 8)])
  | .vand _ g d a b t => some (slotBits 0x0A g [(d.toNat, 26), (a.toNat, 18), (b.toNat, 10), (vtypeCode t, 8)])
  | .vor _ g d a b t => some (slotBits 0x0B g [(d.toNat, 26), (a.toNat, 18), (b.toNat, 10), (vtypeCode t, 8)])
  | .vxor _ g d a b t => some (slotBits 0x0C g [(d.toNat, 26), (a.toNat, 18), (b.toNat, 10), (vtypeCode t, 8)])
  | .vshl _ g d a b t => some (slotBits 0x0D g [(d.toNat, 26), (a.toNat, 18), (b.toNat, 10), (vtypeCode t, 8)])
  | .vshr _ g d a b t => some (slotBits 0x0E g [(d.toNat, 26), (a.toNat, 18), (b.toNat, 10), (vtypeCode t, 8)])
  | .vsar _ g d a b t => some (slotBits 0x0F g [(d.toNat, 26), (a.toNat, 18), (b.toNat, 10), (vtypeCode t, 8)])
  | .vcmpeq _ g pd a b t => some (slotBits 0x10 g [(pd.toNat, 29), (a.toNat, 18), (b.toNat, 10), (vtypeCode t, 8)])
  | .vcmplt _ g pd a b t => some (slotBits 0x11 g [(pd.toNat, 29), (a.toNat, 18), (b.toNat, 10), (vtypeCode t, 8)])
  | .vcmple _ g pd a b t => some (slotBits 0x12 g [(pd.toNat, 29), (a.toNat, 18), (b.toNat, 10), (vtypeCode t, 8)])
  | .vsel _ g d a b t ps => some (slotBits 0x13 g [(d.toNat, 26), (a.toNat, 18), (b.toNat, 10), (vtypeCode t, 8), (ps.toNat, 3)])
  | .vmov _ g d a t => some (slotBits 0x18 g [(d.toNat, 26), (a.toNat, 18), (vtypeCode t, 8)])
  | .vbcast _ g d t ss => some (slotBits 0x19 g [(d.toNat, 26), (vtypeCode t, 8), (ss.toNat, 0)])
  | .viota _ g d t => some (slotBits 0x1A g [(d.toNat, 26), (vtypeCode t, 8)])
  | .vlsh _ g d a t ss => some (slotBits 0x1B g [(d.toNat, 26), (a.toNat, 18), (vtypeCode t, 8), (ss.toNat, 0)])
  | .vlshd _ g d a b t ss => some (slotBits 0x1C g [(d.toNat, 26), (a.toNat, 18), (b.toNat, 10), (vtypeCode t, 8), (ss.toNat, 0)])
  | .vperm _ g d a b t => some (slotBits 0x1D g [(d.toNat, 26), (a.toNat, 18), (b.toNat, 10), (vtypeCode t, 8)])
  | .vext _ g sd a si t => some (slotBits 0x1E g [(sd.toNat, 28), (a.toNat, 18), (si.toNat, 12), (vtypeCode t, 8)])
  | .vins _ g d sv si t => some (slotBits 0x1F g [(d.toNat, 26), (sv.toNat, 20), (si.toNat, 12), (vtypeCode t, 8)])
  | .vredadd _ g d a t => some (slotBits 0x20 g [(d.toNat, 26), (a.toNat, 18), (vtypeCode t, 8)])
  | .vredmax _ g d a t => some (slotBits 0x21 g [(d.toNat, 26), (a.toNat, 18), (vtypeCode t, 8)])
  | .vredmin _ g d a t => some (slotBits 0x22 g [(d.toNat, 26), (a.toNat, 18), (vtypeCode t, 8)])
  | .vscan _ g d a t => some (slotBits 0x23 g [(d.toNat, 26), (a.toNat, 18), (vtypeCode t, 8)])
  | .vcvt _ g d a t td => some (slotBits 0x28 g [(d.toNat, 26), (a.toNat, 18), (vtypeCode t, 8), (vtypeCode td, 6)])
  | .vpack _ g d a b t td => some (slotBits 0x29 g [(d.toNat, 26), (a.toNat, 18), (b.toNat, 10), (vtypeCode t, 8), (vtypeCode td, 6)])
  | .vunpk _ g d a t td h => some (slotBits 0x2A g [(d.toNat, 26), (a.toNat, 18), (vtypeCode t, 8), (vtypeCode td, 6), (flagCode h, 5)])
  | .vexp2 _ g d a t => some (slotBits 0x30 g [(d.toNat, 26), (a.toNat, 18), (vtypeCode t, 8)])
  | .vlog2 _ g d a t => some (slotBits 0x31 g [(d.toNat, 26), (a.toNat, 18), (vtypeCode t, 8)])
  | .vrcp _ g d a t => some (slotBits 0x32 g [(d.toNat, 26), (a.toNat, 18), (vtypeCode t, 8)])
  | .vrsq _ g d a t => some (slotBits 0x33 g [(d.toNat, 26), (a.toNat, 18), (vtypeCode t, 8)])
  | .vsqrt _ g d a t => some (slotBits 0x34 g [(d.toNat, 26), (a.toNat, 18), (vtypeCode t, 8)])
  | .vtanh _ g d a t => some (slotBits 0x35 g [(d.toNat, 26), (a.toNat, 18), (vtypeCode t, 8)])
  | .vquant _ g d a t => some (slotBits 0x38 g [(d.toNat, 26), (a.toNat, 18), (vtypeCode t, 8)])
  | .vdeq _ g d a t => some (slotBits 0x39 g [(d.toNat, 26), (a.toNat, 18), (vtypeCode t, 8)])
  | .mpush g q krow => some (slotBits 0x01 g [(q.toNat, 20), (krow.toNat, 4)])
  | .msel g => some (slotBits 0x02 g [])
  | .mshift g ks => some (slotBits 0x03 g [(ks.toNat, 0)])
  | .macc g acc q fc push => some (slotBits 0x04 g [(acc.toNat, 22), (q.toNat, 20), (elemCode fc, 16), (pushCode push, 4)])
  | .maccz g acc q fc push => some (slotBits 0x05 g [(acc.toNat, 22), (q.toNat, 20), (elemCode fc, 16), (pushCode push, 4)])
  | .maccs g acc q push => some (slotBits 0x06 g [(acc.toNat, 22), (q.toNat, 20), (pushCode push, 4)])
  | .mdrain g acc df sb off => some (slotBits 0x07 g [(acc.toNat, 22), (drainCode df, 19), (sb.toNat, 13), (off.toNat, 0)])
  | .mdrainz g acc df sb off => some (slotBits 0x08 g [(acc.toNat, 22), (drainCode df, 19), (sb.toNat, 13), (off.toNat, 0)])
  | .mzero g acc => some (slotBits 0x09 g [(acc.toNat, 22)])
  | .ldv g v b off => some (slotBits 0x01 g [(v.toNat, 26), (b.toNat, 22), (off.toNat, 0)])
  | .stv g v b off => some (slotBits 0x02 g [(v.toNat, 26), (b.toNat, 22), (off.toNat, 0)])
  | .lds g d w b off => some (slotBits 0x03 g [(d.toNat, 28), (widthCode w, 26), (b.toNat, 22), (off.toNat, 0)])
  | .sts g d w b off => some (slotBits 0x04 g [(d.toNat, 28), (widthCode w, 26), (b.toNat, 22), (off.toNat, 0)])
  | .ldvx g v x b w off => some (slotBits 0x05 g [(v.toNat, 26), (x.toNat, 18), (b.toNat, 14), (widthCode w, 12), (off.toNat, 0)])
  | .stvx g v x b w off => some (slotBits 0x06 g [(v.toNat, 26), (x.toNat, 18), (b.toNat, 14), (widthCode w, 12), (off.toNat, 0)])
  | .ldvb g v b off => some (slotBits 0x07 g [(v.toNat, 26), (b.toNat, 22), (off.toNat, 0)])
  | .atlAdd g d a b w8 off => some (slotBits 0x10 g [(d.toNat, 28), (a.toNat, 22), (b.toNat, 10), (wideCode w8, 8), (off.toNat, 0)])
  | .atlMin g d a b w8 off => some (slotBits 0x11 g [(d.toNat, 28), (a.toNat, 22), (b.toNat, 10), (wideCode w8, 8), (off.toNat, 0)])
  | .atlMax g d a b w8 off => some (slotBits 0x12 g [(d.toNat, 28), (a.toNat, 22), (b.toNat, 10), (wideCode w8, 8), (off.toNat, 0)])
  | .atlAnd g d a b w8 off => some (slotBits 0x13 g [(d.toNat, 28), (a.toNat, 22), (b.toNat, 10), (wideCode w8, 8), (off.toNat, 0)])
  | .atlOr g d a b w8 off => some (slotBits 0x14 g [(d.toNat, 28), (a.toNat, 22), (b.toNat, 10), (wideCode w8, 8), (off.toNat, 0)])
  | .atlXchg g d a b w8 off => some (slotBits 0x15 g [(d.toNat, 28), (a.toNat, 22), (b.toNat, 10), (wideCode w8, 8), (off.toNat, 0)])
  | .atlCas g d a c b w8 off => some (slotBits 0x16 g [(d.toNat, 28), (a.toNat, 22), (c.toNat, 16), (b.toNat, 10), (wideCode w8, 8), (off.toNat, 0)])
  | .atlFadd g d a b off => some (slotBits 0x17 g [(d.toNat, 28), (a.toNat, 22), (b.toNat, 10), (off.toNat, 0), (2, 8)])
  | .ldg g d b w cls aq arv => some (slotBits 0x01 g [(d.toNat, 28), (b.toNat, 22), (widthCode w, 20), (cls.toNat, 16), (flagCode aq, 15), (arv.toNat, 2)])
  | .ldgv g v b cls aq arv => some (slotBits 0x02 g [(v.toNat, 26), (b.toNat, 20), (cls.toNat, 16), (flagCode aq, 15), (arv.toNat, 2)])
  | .stg g d b w cls rl => some (slotBits 0x03 g [(d.toNat, 28), (b.toNat, 22), (widthCode w, 20), (cls.toNat, 16), (flagCode rl, 14)])
  | .stgv g v b cls rl => some (slotBits 0x04 g [(v.toNat, 26), (b.toNat, 20), (cls.toNat, 16), (flagCode rl, 14)])
  | .atgAdd g d b w8 cls aq rl arv => some (slotBits 0x10 g [(d.toNat, 28), (b.toNat, 22), (wideCode w8, 20), (cls.toNat, 16), (flagCode aq, 15), (flagCode rl, 14), (arv.toNat, 2)])
  | .atgFadd g d b cls aq rl arv => some (slotBits 0x11 g [(d.toNat, 28), (b.toNat, 22), (cls.toNat, 16), (flagCode aq, 15), (flagCode rl, 14), (arv.toNat, 2), (2, 20)])
  | .atgMin g d b w8 cls aq rl arv => some (slotBits 0x12 g [(d.toNat, 28), (b.toNat, 22), (wideCode w8, 20), (cls.toNat, 16), (flagCode aq, 15), (flagCode rl, 14), (arv.toNat, 2)])
  | .atgMax g d b w8 cls aq rl arv => some (slotBits 0x13 g [(d.toNat, 28), (b.toNat, 22), (wideCode w8, 20), (cls.toNat, 16), (flagCode aq, 15), (flagCode rl, 14), (arv.toNat, 2)])
  | .atgAnd g d b w8 cls aq rl arv => some (slotBits 0x14 g [(d.toNat, 28), (b.toNat, 22), (wideCode w8, 20), (cls.toNat, 16), (flagCode aq, 15), (flagCode rl, 14), (arv.toNat, 2)])
  | .atgOr g d b w8 cls aq rl arv => some (slotBits 0x15 g [(d.toNat, 28), (b.toNat, 22), (wideCode w8, 20), (cls.toNat, 16), (flagCode aq, 15), (flagCode rl, 14), (arv.toNat, 2)])
  | .atgXor g d b w8 cls aq rl arv => some (slotBits 0x16 g [(d.toNat, 28), (b.toNat, 22), (wideCode w8, 20), (cls.toNat, 16), (flagCode aq, 15), (flagCode rl, 14), (arv.toNat, 2)])
  | .atgXchg g d b w8 cls aq rl arv => some (slotBits 0x17 g [(d.toNat, 28), (b.toNat, 22), (wideCode w8, 20), (cls.toNat, 16), (flagCode aq, 15), (flagCode rl, 14), (arv.toNat, 2)])
  | .atgCas g d b w8 cls aq rl arv => some (slotBits 0x18 g [(d.toNat, 28), (b.toNat, 22), (wideCode w8, 20), (cls.toNat, 16), (flagCode aq, 15), (flagCode rl, 14), (arv.toNat, 2)])
  | .arrive g a b cls rl => some (slotBits 0x20 g [(a.toNat, 28), (b.toNat, 22), (cls.toNat, 16), (flagCode rl, 14)])
  | .waitv g a b susp cls aq arv => some (slotBits 0x21 g [(a.toNat, 28), (b.toNat, 22), (flagCode susp, 21), (cls.toNat, 16), (flagCode aq, 15), (arv.toNat, 2)])
  | .waitvSatisfied _ => none
  | .waitvBoundExpiry => none
  | .cpy g q d sr n lc cls => some (slotBits 0x08 g [(q.toNat, 31), (d.toNat, 25), (sr.toNat, 19), (n.toNat, 13), (lc.toNat, 9), (cls.toNat, 5)])
  | .cpyo g q d sr n lc cls => some (slotBits 0x09 g [(q.toNat, 31), (d.toNat, 25), (sr.toNat, 19), (n.toNat, 13), (lc.toNat, 9), (cls.toNat, 5)])
  | .cpyt g q d sr n lc cls => some (slotBits 0x0A g [(q.toNat, 31), (d.toNat, 25), (sr.toNat, 19), (n.toNat, 13), (lc.toNat, 9), (cls.toNat, 5)])
  | .cpyg g q sr cls => some (slotBits 0x0B g [(q.toNat, 31), (sr.toNat, 19), (cls.toNat, 5)])
  | .fence g kind cmask => some (slotBits 0x0D g [(fenceCode kind, 32), (cmask.toNat, 16)])
  | .qfence g qmask => some (slotBits 0x0C g [(qmask.toNat, 8)])
  | .rfence g => some (slotBits 0x38 g [])
  | .spawn g a b hm => some (slotBits 0x28 g [(a.toNat, 28), (b.toNat, 22), (hm.toNat, 6)])
  | .depend g a b => some (slotBits 0x29 g [(a.toNat, 28), (b.toNat, 22)])
  | .signal g a b => some (slotBits 0x2A g [(a.toNat, 28), (b.toNat, 22)])
  | .hsplit g h1 h2 h3 ax sp => some (slotBits 0x30 g [(h1.toNat, 30), (h2.toNat, 26), (h3.toNat, 22), (ax.toNat, 19), (sp.toNat, 13)])
  | .hrejoin g h1 h2 h3 => some (slotBits 0x31 g [(h1.toNat, 30), (h2.toNat, 26), (h3.toNat, 22)])
  | .hmov g h1 h2 => some (slotBits 0x32 g [(h1.toNat, 30), (h2.toNat, 26)])
  | .hput g h1 sb => some (slotBits 0x33 g [(h1.toNat, 30), (sb.toNat, 7)])
  | .htake g h1 sa sb susp => some (slotBits 0x34 g [(h1.toNat, 30), (sa.toNat, 13), (sb.toNat, 7), (flagCode susp, 6)])
  | .htakeBoundExpiry => none
  | .handleDepositWake _ => none
  | .hld g h1 sa sb => some (slotBits 0x35 g [(h1.toNat, 30), (sa.toNat, 13), (sb.toNat, 7)])
  | .hst g h1 sa sb => some (slotBits 0x36 g [(h1.toNat, 30), (sa.toNat, 13), (sb.toNat, 7)])
  | .hinfo g h1 ax sa => some (slotBits 0x37 g [(h1.toNat, 30), (ax.toNat, 19), (sa.toNat, 13)])
  | .handleStep => none
  | .tlbinv g a b => some (slotBits 0x40 g [(a.toNat, 28), (b.toNat, 22)])
  | .cachewb g a b => some (slotBits 0x41 g [(a.toNat, 28), (b.toNat, 22)])
  | .cacheinv g a b => some (slotBits 0x42 g [(a.toNat, 28), (b.toNat, 22)])
  | .tfa g q t c arv => some (slotBits 0x01 g [(q.toNat, 32), (t.toNat, 26), (c.toNat, 20), (arv.toNat, 8)])
  | .tfb g q t c arv => some (slotBits 0x02 g [(q.toNat, 32), (t.toNat, 26), (c.toNat, 20), (arv.toNat, 8)])
  | .tfh g q h c arv => some (slotBits 0x03 g [(q.toNat, 32), (h.toNat, 28), (c.toNat, 20), (arv.toNat, 8)])
  | .tfx g qm => some (slotBits 0x04 g [(qm.toNat, 30)])
  | .tfRowArrival _ => none
  | .setfmt g fa fb sm ty => some (slotBits 0x01 g [(elemCode fa, 30), (elemCode fb, 26), (scaleCode sm, 24), (flagCode ty, 23)])
  | .ldsct g tb b off => some (slotBits 0x02 g [(flagCode tb, 33), (b.toNat, 22), (off.toNat, 0)])
  | .setband g tb s band => some (slotBits 0x03 g [(flagCode tb, 33), (s.toNat, 22), (band.toNat, 0)])
  | .setrnd g rm => some (slotBits 0x04 g [(roundCode rm, 32)])
  | .clrflg g sm fe => some (slotBits 0x05 g [(sm.toNat, 24), (flagCode fe, 23)])
  | .entryPerform _ => none
  | .copyPerform _ => none
  | .qfenceLeave _ => none
  | .commitLine _ => none
  | .commitComplete => none
  | .pageWalk _ _ => none
  | .pageIn _ _ => none
  | .shootdown _ _ _ => none
  | .pinDropTimeout _ => none
  | .nodeFinish _ => none
  | .taskPlace _ => none
  | .launchComplete _ => none
  | .launchFault => none
  | .gangSuspend => none
  | .softStop => none
  | .hardStop => none
  | .sliceEnd _ => none
  | .tspanExpiry _ => none
  | .graceExpiry _ => none
  | .tenantDrained _ => none
  | .imageSpill => none
  | .launch _ => none
  | .copy _ => none
  | .waitevent _ => none
  | .signalevent _ => none
  | .resizeack _ => none
  | .map _ => none
  | .unmap _ => none
  | .unsupportedPacket _ _ => none
  | .unregisteredSend _ => none
  | .hostUetWrite _ _ _ _ => none
  | .hostUetRead _ _ _ _ => none
  | .peerAck _ => none
  | .peerArrival _ _ _ => none
  | .partcreate _ => none
  | .partresize _ => none
  | .resizeApply _ => none
  | .partdestroy _ => none
  | .vdevcreate _ => none
  | .vdevset _ => none
  | .tenantDisabled _ => none
  | .queuecreate _ => none
  | .queuedestroy _ => none
  | .energy _ => none
  | .summary _ => none
  | .attest _ => none
  | .alarmset _ => none
  | .queuereset _ => none
  | .watchdogExpiry _ _ => none
  | .alarm _ => none
  | .alarmClear => none
  | .powerOn => none
  | .eccError _ _ _ => none
  | .patrolScrub _ => none
  | .rowSpare _ _ => none
  | .pageRetire _ _ _ _ => none
  | .dbgarm _ => none
  | .dbgstop _ => none
  | .debugStop _ => none
  | .dbgresume _ => none
  | .trace _ => none
  | .counters _ => none
  | .pcSample => none
  | .freezeRecord => none
  | .traceHeadAdvance _ => none
  | .replay _ => none
  | .checkpoint _ => none
  | .replayHalt _ => none
  | .tileAccessPerform _ => none
  | .peerTimeout _ => none
  | .peerReadResponse _ _ => none
  | .linkLevelRetry _ => none
  | .bufferSlotReturn _ _ => none
  | .retrieverInjection _ _ _ => none

/-- A bundle with header `h` and operations in their slots. -/
def encodeBundle (h : BitVec 32) (is : List Instr) : BitVec 512 :=
  is.foldl (fun b i =>
    match i.slot, encode i with
    | some k, some w => b ||| (w.setWidth 512 <<< (32 + 48 * k.index))
    | _, _ => b) (h.setWidth 512)

end Sys2Proof
end

