-- ==== Sys2Proof/Machine/Matrix.lean ====
section
/-! DEFINITION. The matrix slot (R106 to R111, R168 to R182). A plane is a sparse list of K-rows, a K-row 512
elements of 32 bits in the form of R229; AR holds 1,024 of them. A beat leaves its exact column sums in flight (R95),
and its row is read and rounded when it lands. -/

namespace Sys2Proof.Machine

/-! ### Elements (R169, R229) -/

def ElemFmt.float : ElemFmt → Option FloatFmt
  | .e4m3 => some e4m3
  | .e5m2 => some e5m2
  | .e2m1 => some e2m1
  | .int8 => none
  | .bf16 => some bf16
  | .fp16 => some fp16

def ElemFmt.width : ElemFmt → Nat
  | .e4m3 => 8
  | .e5m2 => 8
  | .e2m1 => 4
  | .int8 => 8
  | .bf16 => 16
  | .fp16 => 16

/-- K of a format (R105). -/
def ElemFmt.k : ElemFmt → Nat
  | .e4m3 => 256
  | .e5m2 => 256
  | .e2m1 => 512
  | .int8 => 256
  | .bf16 => 128
  | .fp16 => 128

/-- An element of 32 bits: value, format code, position index, scale byte and scale kind (R229). -/
def elementWord (f : ElemFmt) (value index scale kind : Nat) : Nat :=
  value % 2 ^ 16 + elemCode f * 2 ^ 16 + index % 4 * 2 ^ 20 + scale % 256 * 2 ^ 22 + kind % 4 * 2 ^ 30

def elementFmt (w : Nat) : Option ElemFmt := elemOf (BitVec.ofNat 4 (w / 2 ^ 16))

/-- The integer of an INT8 element; none for another kind. -/
def elementInt (w : Nat) : Option Int :=
  match elementFmt w with
  | some .int8 => some (signedOf 8 w)
  | _ => none

/-- The float value of an element; none for INT8. -/
def elementFloat (w : Nat) : Option FVal :=
  match elementFmt w with
  | none => none
  | some f => (ElemFmt.float f).map fun ff => ff.decode (w % 2 ^ 16)

def elementIndex (w : Nat) : Nat := w / 2 ^ 20 % 4

/-- A delivered block scale as SM reads it (R106, R171): none is 1, explicit takes the bits as an E3M5 byte, indexed the low
four as an index; a block that came with no scale has none (log entry 61). -/
def scaleEnter (sm : ScaleMode) (w : Nat) : Nat :=
  if w / 2 ^ 30 % 4 = 0 then w
  else
    match sm with
    | .none => w % 2 ^ 22
    | .explicit => w % 2 ^ 30 + 2 ^ 30
    | .indexed => w % 2 ^ 26 + 2 * 2 ^ 30

/-- An element as it enters AR or a plane: FTZ flushes a BF16 or FP16 subnormal, and SM chooses its scale (R102, R169). -/
def elementEnter (ftz : Bool) (sm : ScaleMode) (w : Nat) : Nat :=
  match elementFmt w with
  | some .bf16 => if ftz && decide (w / 2 ^ 7 % 2 ^ 8 = 0) then w - w % 2 ^ 15 else w
  | some .fp16 => if ftz && decide (w / 2 ^ 10 % 2 ^ 5 = 0) then w - w % 2 ^ 15 else w
  | _ => scaleEnter sm w

/-- A block scale: 1, an E3M5 byte, or an entry of the operand's table, as of issue (R106); none is NaN. -/
def elementScale (table : Vector Byte 16) (w : Nat) : Option (Nat × Int) :=
  match w / 2 ^ 30 % 4 with
  | 0 => some (1, 0)
  | 1 => e3m5 (w / 2 ^ 22 % 256)
  | _ => e3m5 (table.toList.getD (w / 2 ^ 22 % 16) 0x60#8).toNat

/-! ### Products and exact sums (R109 to R111) -/

/-- A factor of a product: a scale is a value too. -/
def scaleVal : Option (Nat × Int) → FVal
  | none => .nan
  | some (m, e) => .fin false m e

/-- What a product is: its value, and whether it is invalid (0 × ∞). A NaN factor makes it NaN. -/
def productOf : List FVal → FVal × Bool
  | [] => (.fin false 1 0, false)
  | v :: t => let r := productOf t; if r.2 then r else v.mul r.1

/-- What the products of a group are, one by one: each a value with its invalid mark. -/
structure GroupSum where
  nan     : Bool
  invalid : Bool
  pinf    : Bool
  ninf    : Bool
  terms   : List (Bool × Nat × Int)

def groupSum (ps : List (FVal × Bool)) : GroupSum :=
  ⟨ps.any fun p => p.1.isNan, ps.any Prod.snd, ps.any fun p => p.1 == .inf false, ps.any fun p => p.1 == .inf true,
    ps.filterMap fun p => match p.1 with | .fin n m e => some (n, m, e) | _ => none⟩

/-- An exact sum; a zero sum is −0 when every term is −0, +0 when every term is +0, and otherwise signed by the
rounding mode (R101, R111). -/
def exactSum (rm : RMode) (ts : List (Bool × Nat × Int)) : Bool × Nat × Int :=
  let q := ts.foldl (fun a t => min a t.2.2) (0 : Int)
  let v : Int := ts.foldl (fun a t => a + FVal.scaled t.1 t.2.1 t.2.2 q) 0
  if v = 0 then
    (if ts.all fun t => t.1 then !ts.isEmpty else if ts.all fun t => !t.1 then false else rm == .rdn, 0, q)
  else (decide (v < 0), v.natAbs, q)

/-- A term truncated toward zero to a multiple of 2^u, and whether bits were lost. -/
def truncTerm (u : Int) (t : Bool × Nat × Int) : (Bool × Nat × Int) × Bool :=
  if u ≤ t.2.2 then (t, false)
  else
    let k := (u - t.2.2).toNat
    ((t.1, t.2.1 / 2 ^ k, u), decide (t.2.1 % 2 ^ k ≠ 0))

/-- The terms of a 16-bit group, truncated 48 bits below the largest (R111). -/
def truncGroup (ts : List (Bool × Nat × Int)) : List (Bool × Nat × Int) × Bool :=
  let top := ts.foldl (fun (a : Option Int) t =>
    if t.2.1 = 0 then a
    else
      let e : Int := Nat.log2 t.2.1 + t.2.2
      match a with | none => some e | some b => some (max b e)) none
  match top with
  | none => (ts, false)
  | some e => let r := ts.map (truncTerm (e - 48)); (r.map Prod.fst, r.any Prod.snd)

/-- A group as its column takes it. Whether infinities beside a NaN are opposed to the accumulator's is judged for the one sum of R109; a
16-bit group is NaN by its own products alone (R111). -/
def GroupSum.col (g : GroupSum) (rm : RMode) (trunc : Bool) : ColSum × Bool :=
  if g.nan || g.invalid || (g.pinf && g.ninf) then
    (.nan (g.invalid || (g.pinf && g.ninf)) (g.pinf && !trunc) (g.ninf && !trunc), false)
  else if g.pinf then (.inf false, false)
  else if g.ninf then (.inf true, false)
  else
    let (ts, lost) := if trunc then truncGroup g.terms else (g.terms, false)
    let v := exactSum rm ts
    (.num v.1 v.2.1 v.2.2, lost)

/-- base + group, rounded once to f32 (R109, R111). -/
def addCol (rm : RMode) (ftz : Bool) (base : FVal) (c : ColSum) : FVal × FlagSet :=
  let clash : Bool := match base, c with
    | .inf b, .nan _ p n => if b then p else n
    | .inf b, .inf n => b != n
    | _, _ => false
  match base, c with
  | _, .nan inv _ _ => (.nan, if inv || clash then flagNV else 0#6)
  | .nan, _ => (.nan, 0#6)
  | .inf b, .inf _ => if clash then (.nan, flagNV) else (.inf b, 0#6)
  | .inf b, .num _ _ _ => (.inf b, 0#6)
  | .fin _ _ _, .inf n => (.inf n, 0#6)
  | .fin n m e, .num n' m' e' =>
    let r := fp32.round rm ftz (FVal.addFin rm n m e n' m' e')
    (fp32.decode r.1, r.2)

/-- Column n of a float beat: the groups added in order, one rounding each. -/
def finishCol (b : Beat) (base : Nat) (gs : List ColSum) : Nat × FlagSet :=
  let r := gs.foldl (fun (a : FVal × FlagSet) g => let x := addCol b.rm b.ftz a.1 g; (x.1, a.2 ||| x.2))
    (fp32.decode base, (0#6 : FlagSet))
  ((fp32.round .rne false r.1).1, r.2)

/-- Column n of an integer beat, modulo 2^32 (R110). -/
def finishInt (base : Nat) (gs : List ColSum) : Nat :=
  gs.foldl (fun a g => match g with | .num n m _ => wrapInt 32 ((a : Int) + (if n then -(m : Int) else m)) | _ => a) base

/-- The row that a beat writes over its base row, and its flags (R175). -/
def Beat.row (b : Beat) (base : Row) : Row × FlagSet :=
  let cols := b.cols.zipIdx.map fun p =>
    let lane := if b.zero then 0 else digit 32 base.toNat p.2
    if b.int then (finishInt lane p.1, (0#6 : FlagSet)) else finishCol b lane p.1
  (BitVec.ofNat 16384 (packNat 32 (fun i => (cols.getD i (0, 0#6)).1) 512),
    cols.foldl (fun a c => a ||| c.2) (if b.lost then flagNX else 0#6))

/-! ### Queues, planes and AR (R171 to R174) -/

/-- Whether every row of a stream has been popped. -/
def Stream.ended (st : Stream) : Bool := st.total != 0 && st.popped == st.total

/-- The next row of a queue: that of the first stream that still has rows to give. -/
def nextRow : List Stream → Option (Row × Stream)
  | [] => none
  | st :: t => if st.ended then nextRow t else st.rows.head?.map fun r => (r, st)

/-- The queue with its next row popped. -/
def popQueue : List Stream → List Stream
  | [] => []
  | st :: t => if st.ended then st :: popQueue t
    else { st with rows := st.rows.tail, popped := st.popped + 1 } :: t

def Ctx.queue (x : Ctx) (q : BitVec 2) : List Stream := x.queues[q.toNat]'q.isLt

def Ctx.setQueue (x : Ctx) (q : BitVec 2) (l : List Stream) : Ctx := { x with queues := x.queues.set q.toNat l q.isLt }

/-- The rows of 32-bit elements that a push writes, element n to column n. -/
def enterRow (ftz : Bool) (sm : ScaleMode) (r : Row) : Row := rowOf 32 512 fun n => elementEnter ftz sm (digit 32 r.toNat n)

/-- MPUSH: a row of qQ into SHADOW row KROW (R171); a queue without a row changes nothing. -/
def Ctx.pushPlane (x : Ctx) (q : BitVec 2) (krow : BitVec 9) : Ctx :=
  match nextRow (x.queue q) with
  | none => x
  | some (r, _) =>
    { x.setQueue q (popQueue (x.queue q)) with
      matrix := true
      shadow := assocSet 0#16384 x.shadow krow.toNat (enterRow x.ftz x.fmt.sm r) }

/-- AR after a pop of K elements: older lanes move toward lane 0 (R173). -/
def arAfter (ftz : Bool) (sm : ScaleMode) (ar : BitVec 32768) (k : Nat) (r : Row) : BitVec 32768 :=
  BitVec.ofNat 32768 (ar.toNat / 2 ^ (32 * k)
    + packNat 32 (fun i => elementEnter ftz sm (digit 32 r.toNat i)) k * 2 ^ (32 * (1024 - k)))

/-- Lane k of the A operand under the window delay D; lanes before lane 0 of AR read zero. -/
def aLane (ar : BitVec 32768) (k d i : Nat) : Nat :=
  if 1024 - k + i < d then 0 else digit 32 ar.toNat (1024 - k + i - d)

/-- The B element of plane row r, column n. -/
def planeElem (p : List (Nat × Row)) (r n : Nat) : Nat := digit 32 (assocGet 0#16384 p r).toNat n

/-- A bf16 band scale as a value. -/
def bandVal (b : BitVec 16) : FVal := bf16.decode b.toNat

/-- The values of two elements of one kind; none where their kinds differ (R169, R175). An INT8 element has its integer. A reset element is
the word 0, so that it is read as an E4M3 zero, and of another kind than an INT8 element (log entry 20). -/
def elementPair (a b : Nat) : Option (FVal × FVal) :=
  match elementFloat a, elementFloat b, elementInt a, elementInt b with
  | some va, some vb, _, _ => some (va, vb)
  | _, _, some i, some j => some (.fin (decide (i < 0)) i.natAbs 0, .fin (decide (j < 0)) j.natAbs 0)
  | _, _, _, _ => none

/-- The product of two elements with their scales and bands; elements of different kinds contribute 0 (R175). A product that is zero has the
sign that its factors give it, a scale's being +, which the zero of a 0x00 block scale keeps too: R109 says only that it is 0 (log entry 20). -/
def beatProduct (x : Ctx) (bandA bandB : FVal) (a b : Nat) : FVal × Bool :=
  match elementPair a b with
  | some (va, vb) =>
    let fs := [va, scaleVal (elementScale x.tableA a), vb, scaleVal (elementScale x.tableB b), bandA, bandB]
    if fs.any FVal.isNan then (.nan, false) else productOf fs
  | none => (.fin false 0 0, false)

/-- A product in an integer beat (R110, R175): of two integers, exact; of two floating elements, exact where it is an integer
and else free (log entry 20); of different kinds 0. -/
def intProduct (a b : Nat) : Int :=
  match elementPair a b with
  | some (va, vb) =>
    (match va.mul vb with
    | (.fin n m e, false) =>
      if 0 ≤ e then (if n then -1 else 1) * (m * 2 ^ e.toNat : Nat)
      else if m % 2 ^ (-e).toNat = 0 then (if n then -1 else 1) * (m / 2 ^ (-e).toNat : Nat)
      else Config.mixedProduct (BitVec.ofNat 32 a) (BitVec.ofNat 32 b)
    | _ => Config.mixedProduct (BitVec.ofNat 32 a) (BitVec.ofNat 32 b))
  | none => 0

/-- The exact integer sum of a column (R110). -/
def intColumn (as : List Nat) (b : Nat → Nat) : ColSum :=
  let v : Int := as.zipIdx.foldl (fun acc p => acc + intProduct p.1 (b p.2)) 0
  .num (decide (v < 0)) v.natAbs 0

/-- The A element that plane row r of a 2:4 beat multiplies (R176). -/
def sparseLane (b r : Nat) : Nat := 4 * (r / 2) + elementIndex b

/-- How a beat draws its products. -/
inductive BeatKind
  | dense | sparse
  deriving DecidableEq, Repr

/-- Plane rows that a beat reads, and the A lanes it forms. -/
def beatRows (kind : BeatKind) (fa : ElemFmt) : Nat × Nat :=
  match kind with
  | .dense => (ElemFmt.k fa, ElemFmt.k fa)
  | .sparse => (256, 512)

/-- The columns of a beat: its groups, and whether a 16-bit group lost bits. A MACCS multiplies each element's own block scale too, and takes
elements of different kinds as any beat does, where rows of another format are left in a plane or in AR: R176's formula names neither
(log entry 20). -/
def beatCols (x : Ctx) (kind : BeatKind) (acc : BitVec 12) (as : List Nat) : List (List ColSum × Bool) :=
  let fa := x.fmt.fa
  let rows := (beatRows kind fa).1
  let bandA := bandVal (x.bandA.toList.getD (acc.toNat / 64) 0x3F80#16)
  (List.range 512).map fun n =>
    if x.fmt.ty then ([intColumn as fun k => planeElem x.active k n], false)
    else
      let ps := (List.range rows).map fun k =>
        let b := planeElem x.active k n
        beatProduct x bandA (bandVal (x.bandB.toList.getD (k / 64) 0x3F80#16))
          (as.getD (if kind = .sparse then sparseLane b k else k) 0) b
      if ElemFmt.width fa = 16 then
        let gs := (List.range 4).map fun g => (groupSum ((ps.drop (32 * g)).take 32)).col x.fmt.rm true
        (gs.map Prod.fst, gs.any Prod.snd)
      else
        let c := (groupSum ps).col x.fmt.rm false
        ([c.1], c.2)

/-- Which BEATS count a beat adds to: 8-bit, E2M1, 16-bit, MACCS (R399). -/
def beatClass (kind : BeatKind) (fc : ElemFmt) : Nat :=
  match kind, fc with
  | .sparse, _ => 3
  | .dense, .e2m1 => 1
  | .dense, .bf16 => 2
  | .dense, .fp16 => 2
  | .dense, _ => 0

/-- A beat with its row present: pop, form A, push if fused, and put its sums in flight; its row is read at the start
of +13 and written at its end (R173, R175 to R178). -/
def Core.beat (c : Core) (kind : BeatKind) (zero : Bool) (acc : BitVec 12) (q : BitVec 2) (fc : ElemFmt)
    (push : Option (BitVec 2 × BitVec 9)) : Core :=
  match nextRow (c.ctx.queue q) with
  | none => { c with freeze := 3#4 }
  | some (r, _) =>
    let x := c.ctx.setQueue q (popQueue (c.ctx.queue q))
    let k := (beatRows kind x.fmt.fa).2
    let ar := arAfter x.ftz x.fmt.sm x.ar k r
    let as := (List.range k).map fun i => aLane ar k x.window.toNat i
    let x := { x with ar := ar, matrix := true }
    let cols := beatCols x kind acc as
    let wide := fc = .e2m1 && !isSteel c.id
    let x := match push with | some (p, krow) => x.pushPlane p krow | none => x
    let x := x.push 5 14 (if wide then flagSB else 0#6)
      (.beat acc ⟨x.fmt.ty, zero, x.fmt.rm, x.ftz, cols.any Prod.snd, cols.map Prod.fst⟩)
    { c with
      ctx := x
      freeze := if wide then 10#4 else c.freeze
      beats := c.beats.set (beatClass kind fc) (c.beats[beatClass kind fc]'(by cases kind <;> cases fc <;> decide) + 1)
        (by cases kind <;> cases fc <;> decide) }

/-! ### FMT-dependent checks, made in every case (R34, R44, R171, R176) -/

/-- KROW below the K of FB in effect. -/
def krowCheck (x : Ctx) (krow : BitVec 9) : Option Trap :=
  if krow.toNat < ElemFmt.k x.fmt.fb then none else some .illegalEncoding

def pushCheck (x : Ctx) : Option (BitVec 2 × BitVec 9) → Option Trap
  | none => none
  | some (_, krow) => krowCheck x krow

def beatCheck (fc : ElemFmt) (push : Option (BitVec 2 × BitVec 9)) (c : Core) : Option Trap :=
  if fc = c.ctx.fmt.fa then pushCheck c.ctx push else some .illegalEncoding

def sparseCheck (push : Option (BitVec 2 × BitVec 9)) (c : Core) : Option Trap :=
  if c.ctx.fmt.fa = .e4m3 ∧ c.ctx.fmt.fb = .e4m3 then pushCheck c.ctx push else some .illegalEncoding

/-- An operation whose check is made whatever its guard. -/
def alwaysChecked (g : Guard) (check : Core → Option Trap) (s : State) (f : Core → Core) :
    Host.Outcome State Fault Refusal :=
  match check s.core with
  | some t => .next (s.raise t 5)
  | none => guarded g s f

/-! ### The operations -/

def execMpush (g : Guard) (q : BitVec 2) (krow : BitVec 9) (s : State) : Host.Outcome State Fault Refusal :=
  alwaysChecked g (fun c => krowCheck c.ctx krow) s fun c =>
    match nextRow (c.ctx.queue q) with
    | none => { c with freeze := 3#4 }
    | some _ => c.onCtx fun x => x.pushPlane q krow

/-- The BEATS record of the beats since the last one, at a bundle (R399). -/
def State.emitBeats (s : State) (pc : BitVec 58) : State :=
  let c := s.core
  let task := match c.task with | some r => r.key.task | none => 0
  let s := s.emitIf 0 c.space c.id.toNat c.reftime 0x20 (addrOf pc).toNat
    (packNat 16 (fun i => (c.beats.toList.getD i 0#16).toNat) 4) (task + c.frozen % 2 ^ 32 * 2 ^ 32)
  s.onCore fun c => { c with beats := Vector.replicate 4 0#16, frozen := 0 }

/-- MSEL exchanges the planes (R172), and the matrix unit records its beats. -/
def execMsel (g : Guard) (s : State) : Host.Outcome State Fault Refusal :=
  guardedState g s fun s =>
    (s.emitBeats s.core.ctx.pc).onCore fun c => c.onCtx fun x => { x with active := x.shadow, shadow := x.active }

def execMshift (g : Guard) (ks : BitVec 9) (s : State) : Host.Outcome State Fault Refusal :=
  guarded g s fun c => c.onCtx fun x => { x with window := x.window + ks }

def execMacc (g : Guard) (acc : BitVec 12) (q : BitVec 2) (fc : ElemFmt) (push : Option (BitVec 2 × BitVec 9))
    (s : State) : Host.Outcome State Fault Refusal :=
  alwaysChecked g (beatCheck fc push) s fun c => c.beat .dense false acc q fc push

def execMaccz (g : Guard) (acc : BitVec 12) (q : BitVec 2) (fc : ElemFmt) (push : Option (BitVec 2 × BitVec 9))
    (s : State) : Host.Outcome State Fault Refusal :=
  alwaysChecked g (beatCheck fc push) s fun c => c.beat .dense true acc q fc push

/-- MACCS, Steel only: a bundle holding it migrates from Bronze, whatever its guard (R176). -/
def execMaccs (g : Guard) (acc : BitVec 12) (q : BitVec 2) (push : Option (BitVec 2 × BitVec 9)) (s : State) :
    Host.Outcome State Fault Refusal :=
  if isSteel s.core.id then alwaysChecked g (sparseCheck push) s fun c => c.beat .sparse false acc q .e4m3 push
  else alwaysChecked ⟨0#5, false⟩ (sparseCheck push) s fun c => c.raise .migrate 5

/-! ### Drains (R180, R181) -/

/-- Whether a drain reads i32 lanes. -/
def drainInt : DrainFmt → Bool
  | .i32 => true
  | .int8 => true
  | _ => false

/-- One lane converted to the drain format. -/
def drainLane (df : DrainFmt) (rm : RMode) (ftz : Bool) (a : Nat) : Nat × FlagSet :=
  match df with
  | .f32 => (a, 0#6)
  | .i32 => (a, 0#6)
  | .bf16 => bf16.round rm ftz (fp32.read ftz a)
  | .f16 => fp16.round rm ftz (fp32.read ftz a)
  | .e4m3 => e4m3.round rm false (fp32.read ftz a)
  | .e5m2 => e5m2.round rm false (fp32.read ftz a)
  | .int8 =>
    let v := signedOf 32 a
    if v < -128 then (0x80, flagNV) else if 127 < v then (0x7F, flagNV) else (wrapInt 8 v, 0#6)

def drainCheck (df : DrainFmt) (sb : BitVec 6) (off : BitVec 13) (c : Core) : Option Trap :=
  windowCheck c.window (c.scaledOffset sb off.toNat 256) (512 * df.bytes) 256

/-- A drain: 512 packed elements and the group's status, at the end of +5. -/
def Core.drain (c : Core) (acc : BitVec 12) (df : DrainFmt) (sb : BitVec 6) (off : BitVec 13) : Core :=
  let x := c.ctx
  let src := x.getRow acc
  let w := 8 * df.bytes
  let out : Nat → Nat × FlagSet := fun n => drainLane df x.fmt.rm x.ftz (digit 32 src.toNat n)
  let bytes := leBytes (512 * df.bytes) (packNat w (fun n => (out n).1) 512)
  let lanes := (List.range 512).map fun n => fp32.decode (digit 32 src.toNat n)
  let x := x.push 5 6 (joinFlags (BitVec.allOnes 1024) (fun n => (out n).2) 512)
    (.spm (spmCells c (c.scaledOffset sb off.toNat 256) bytes))
  let x := if drainInt df then x
    else x.push 5 6 0#6 (.dstat (BitVec.ofNat 6 (acc.toNat / 64)) (lanes.any FVal.isNan) (lanes.any FVal.isInf))
  { c with ctx := x }

/-- All-zero bits in row ACC at the end of this cycle. -/
def Core.zeroRow (c : Core) (acc : BitVec 12) : Core :=
  c.onCtx fun x => x.push 5 1 0#6 (.row acc (BitVec.allOnes 16384) 0#16384)

def execMdrain (g : Guard) (acc : BitVec 12) (df : DrainFmt) (sb : BitVec 6) (off : BitVec 13) (s : State) :
    Host.Outcome State Fault Refusal :=
  checked g 5 (drainCheck df sb off) s fun c => c.drain acc df sb off

def execMdrainz (g : Guard) (acc : BitVec 12) (df : DrainFmt) (sb : BitVec 6) (off : BitVec 13) (s : State) :
    Host.Outcome State Fault Refusal :=
  checked g 5 (drainCheck df sb off) s fun c => (c.drain acc df sb off).zeroRow acc

def execMzero (g : Guard) (acc : BitVec 12) (s : State) : Host.Outcome State Fault Refusal :=
  guarded g s fun c => c.zeroRow acc

end Sys2Proof.Machine
end

