-- ==== Sys2Proof/Machine/Tensor.lean ====
section
/-! DEFINITION. Tensor shape records: their fields and checks (R293, R300), where an element, its scale and its index
lie (R294), and the rows of a box (R298). -/

namespace Sys2Proof.Machine

/-! ### The record (R293) -/

def signedField (bs : List Byte) (o n : Nat) : Int := signedOf (8 * n) (fieldNat bs o n)

/-- Fields of axes at or above RANK are zero. -/
def unusedZero (bs : List Byte) (rank : Nat) : Bool :=
  (List.range 6).all fun i => decide (i < rank) ||
    (fieldNat bs (0x20 + 4 * i) 4 == 0 && (i == 0 || fieldNat bs (0x38 + 8 * (i - 1)) 8 == 0)
      && fieldNat bs (0x60 + 8 * i) 8 == 0 && fieldNat bs (0x90 + 4 * i) 4 == 0 && fieldNat bs (0xA8 + 4 * i) 4 == 0)

/-- A record read from memory; none where a field check of R300 fails. -/
def Tsr.parse (a : Word) (bs : List Byte) : Option Tsr :=
  let h := fieldNat bs 0 8
  let rank := h % 256
  match elemOf (BitVec.ofNat 4 (h / 2 ^ 8)), scaleOf (BitVec.ofNat 2 (h / 2 ^ 12)) with
  | some f, some sm =>
    let sparse := h / 2 ^ 14 % 2 == 1
    let kaxis := h / 2 ^ 15 % 2
    if decide (1 ≤ rank ∧ rank ≤ 6) && (sm == .none || f == .e2m1) && (!sparse || f == .e4m3) && decide (kaxis < rank)
        && (List.range rank).all (fun i => fieldNat bs (0x20 + 4 * i) 4 != 0) && h / 2 ^ 32 == 0 && unusedZero bs rank then
      some
        { addr := a, rank := rank, efmt := f, smode := sm, sparse := sparse, kaxis := kaxis
          pad := BitVec.ofNat 16 (h / 2 ^ 16)
          base := BitVec.ofNat 64 (fieldNat bs 8 8), sbase := BitVec.ofNat 64 (fieldNat bs 0x10 8)
          ibase := BitVec.ofNat 64 (fieldNat bs 0x18 8)
          dims := (List.range rank).map fun i => fieldNat bs (0x20 + 4 * i) 4
          stride := (List.range rank).map fun i => if i = 0 then 0 else signedField bs (0x38 + 8 * (i - 1)) 8
          sstr := (List.range rank).map fun i => signedField bs (0x60 + 8 * i) 8
          limLo := (List.range rank).map fun i => signedField bs (0x90 + 4 * i) 4
          limHi := (List.range rank).map fun i => signedField bs (0xA8 + 4 * i) 4 }
    else none
  | _, _ => none

/-! ### Elements (R294) -/

/-- A coordinate: one number for each axis below RANK. -/
abbrev Coord := List Int

def Coord.at (c : Coord) (i : Nat) : Int := c.getD i 0

def Tsr.inside (t : Tsr) (c : Coord) : Bool :=
  (List.range t.rank).all fun i => decide (0 ≤ c.at i) && decide (c.at i < t.dims.getD i 0)

/-- Sum over the axes of coordinate × stride. -/
def dot (c k : List Int) : Int := (List.zipWith (· * ·) c k).foldl (· + ·) 0

/-- elem(c) − BASE, exact. -/
def Tsr.elemDist (t : Tsr) (c : Coord) : Int := c.at 0 * ElemFmt.width t.efmt / 8 + dot c t.stride

/-- elem(c), modulo 2^64. -/
def Tsr.elemAddr (t : Tsr) (c : Coord) : Nat := wrapInt 64 (t.base.toNat + t.elemDist c)

/-- The coordinate with axis i at v. -/
def Coord.set (c : Coord) (i : Nat) (v : Int) : Coord := List.set c i v

/-- Some element of the K-block of c is inside. -/
def Tsr.blockInside (t : Tsr) (c : Coord) : Bool :=
  (List.range 8).any fun j => t.inside (Coord.set c t.kaxis (c.at t.kaxis / 8 * 8 + j))

/-- The scale number n of R294. -/
def Tsr.scaleNo (t : Tsr) (c : Coord) : Int := dot (Coord.set c t.kaxis (c.at t.kaxis / 8)) t.sstr

/-- Where one element of a row comes from: the address of its element byte and its nibble, of its scale and its
nibble, and of its index and its place; none for padding, for no scale and for index 0. -/
structure ElemSrc where
  elem  : Option (Nat × Nat)
  scale : Option (Nat × Nat)
  index : Option (Nat × Nat)
  deriving DecidableEq, Repr

/-- The source of element c of a record. `held` says whether c lies in the line the box names. -/
def Tsr.source (t : Tsr) (c : Coord) (held scaled : Bool) : ElemSrc :=
  let here := held && t.inside c
  let a := t.elemAddr c
  let n := t.scaleNo c
  { elem := if here then some (a, (c.at 0 % 2).toNat) else none
    scale := if scaled then
        match t.smode with
        | .none => none
        | .explicit => some (wrapInt 64 (t.sbase.toNat + n), 0)
        | .indexed => some (wrapInt 64 (t.sbase.toNat + n / 2), (n % 2).toNat)
      else none
    index := if here && t.sparse && t.kaxis == 1 then
        let o := t.elemDist c
        some (wrapInt 64 (t.ibase.toNat + o / 4), (o % 4).toNat)
      else none }

/-- Addresses of the element bytes, and of the scale and index bytes, of one element. -/
def Tsr.elemBytes (t : Tsr) (e : ElemSrc) : List Nat :=
  match e.elem with
  | none => []
  | some (a, _) => if ElemFmt.width t.efmt = 16 then [a, (a + 1) % 2 ^ 64] else [a]

def ElemSrc.sideBytes (e : ElemSrc) : List Nat := (e.scale.map Prod.fst).toList ++ (e.index.map Prod.fst).toList

/-- The value of an element from the bytes in memory, PAD where it is padding. -/
def Tsr.valueOf (t : Tsr) (rd : Nat → Byte) (e : ElemSrc) : Nat :=
  match e.elem with
  | none => t.pad.toNat % 2 ^ ElemFmt.width t.efmt
  | some (a, nib) =>
    match ElemFmt.width t.efmt with
    | 16 => (rd a).toNat + 256 * (rd ((a + 1) % 2 ^ 64)).toNat
    | 4 => (rd a).toNat / 16 ^ nib % 16
    | _ => (rd a).toNat

/-- The 32-bit element that a stream delivers (R229). -/
def Tsr.wordOf (t : Tsr) (rd : Nat → Byte) (e : ElemSrc) : Nat :=
  let sc : Nat × Nat := match e.scale, t.smode with
    | some (a, _), .explicit => ((rd a).toNat, 1)
    | some (a, nib), .indexed => ((rd a).toNat / 16 ^ nib % 16, 2)
    | _, _ => (0, 0)
  let ix := match e.index with | some (a, k) => (rd a).toNat / 4 ^ k % 4 | none => 0
  elementWord t.efmt (t.valueOf rd e) ix sc.1 sc.2

/-! ### Boxes and rows (R298, R300) -/

/-- The box on the axes below RANK. -/
def Tsr.clip (t : Tsr) (b : Box) : Box := b.take t.rank

/-- The row length of a stream (R298). -/
def Tsr.rowLen (t : Tsr) : Nat := if t.kaxis = 1 ∨ t.sparse then 512 else ElemFmt.k t.efmt

/-- Rows of a box: the product of the extents of axes 1 and above. -/
def rowCount (b : Box) : Nat := (b.drop 1).foldl (fun n p => n * p.2) 1

/-- The checks of a box (R300). -/
def Tsr.boxCheck (t : Tsr) (b : Box) (rowLen : Nat) : Option Trap :=
  let ok := b.zipIdx.all fun p =>
    decide (p.1.2 ≠ 0) && decide (t.limLo.getD p.2 0 ≤ p.1.1) && decide (p.1.1 + p.1.2 ≤ t.limHi.getD p.2 0)
  let start := fun i => (b.map Prod.fst).getD i 0
  if !ok || decide (rowLen < (b.map Prod.snd).getD 0 0) || decide (2 ^ 32 ≤ rowCount b) then some .protection
  else if (t.efmt == .e2m1 && decide (start 0 % 2 ≠ 0)) || (t.smode != .none && decide (start t.kaxis % 8 ≠ 0)) then
    some .alignment
  else none

/-- The coordinates of row j on axes 1 and up, axis 1 fastest. -/
def rowCoord : List (Int × Nat) → Nat → List Int
  | [], _ => []
  | (s, n) :: t, j => (s + ((j % n : Nat) : Int)) :: rowCoord t (j / n)

/-- The coordinate of element k of row j. -/
def boxCoord (b : Box) (j k : Nat) : Coord := ((b.map Prod.fst).getD 0 0 + (k : Int)) :: rowCoord (b.drop 1) j

/-- The extent of axis 0. -/
def Box.line (b : Box) : Nat := (b.map Prod.snd).getD 0 0

/-- The sources of row j of a stream: its line, then padding up to the row length. A padding element carries the scale
of its block where that block holds an inside element of the line. -/
def Tsr.rowSources (t : Tsr) (b : Box) (j : Nat) : List ElemSrc :=
  (List.range t.rowLen).map fun k =>
    let c := boxCoord b j k
    let held := decide (k < Box.line b)
    let scaled := if t.kaxis = 0 then
        (List.range 8).any fun i => decide (k / 8 * 8 + i < Box.line b) && t.inside (boxCoord b j (k / 8 * 8 + i))
      else held && t.blockInside c
    t.source c held scaled

/-- Row j as the queue holds it. -/
def Tsr.streamRow (t : Tsr) (rd : Nat → Byte) (es : List ElemSrc) : Row :=
  let ws := es.map (t.wordOf rd)
  rowOf 32 512 fun k => ws.getD k 0

end Sys2Proof.Machine
end

