-- ==== Sys2Proof/Machine/TileFetch.lean ====
section
/-! DEFINITION. The tile-fetch slot (R295 to R302): a stream takes a landing entry and a place in its queue, and looks
up its record. Its rows come by TF_ROW_ARRIVAL (Machine/Rows.lean). -/

namespace Sys2Proof.Machine

/-! ### Streams -/

/-- The stream numbered `id` of a queue changed. -/
def Ctx.mapStream (x : Ctx) (q : BitVec 2) (id : Nat) (f : Stream → Stream) : Ctx :=
  x.setQueue q ((x.queue q).map fun st => if st.id = id then f st else st)

/-- The landing entry numbered `id` changed. -/
def Ctx.mapLanding (x : Ctx) (id : Nat) (f : Landing → Landing) : Ctx :=
  { x with landings := x.landings.map fun l => if l.id = id then f l else l }

/-- A landing entry with the error of its request (R91). -/
def Ctx.failLanding (x : Ctx) (id : Nat) (t : Trap) : Ctx := x.mapLanding id fun l => { l with err := some t }

/-- A record enters the record cache as the most recently used of 32 (R295). -/
def Core.useRecord (c : Core) (t : Tsr) : Core :=
  { c with recCache := (t :: c.recCache.filter fun u => u.addr != t.addr).take 32 }

/-- The checks that a stream makes with its record (R300). -/
def Stream.check (st : Stream) (t : Tsr) : Option Trap :=
  if st.handle.isNone && (st.isB != (t.kaxis == 1)) then some .illegalEncoding
  else t.boxCheck (t.clip st.box) t.rowLen

/-- A stream with its record: its checks are made, and its rows are counted. -/
def Core.openStream (c : Core) (q : BitVec 2) (st : Stream) (t : Tsr) : Core :=
  (c.useRecord t).onCtx fun x =>
    match st.check t with
    | some e => x.failLanding st.id e
    | none =>
      x.mapStream q st.id fun st =>
        { st with tsr := some t, box := t.clip st.box, isB := t.kaxis == 1, total := rowCount (t.clip st.box) }

/-- A new stream of queue q: its first row lands through the entry that bears its number. -/
def Core.newStream (c : Core) (q : BitVec 2) (isB : Bool) (addr : Word) (h : Option (BitVec 128)) (box : Box)
    (arv : BitVec 12) : Core × Stream :=
  let x := c.ctx
  let st : Stream := ⟨x.order, isB, addr, h, none, box, 0, 0, 0, [], none, true, false, false, c.streamIssue, x.pc⟩
  (c.onCtx fun x => (x.setQueue q (x.queue q ++ [st])).pushLanding 8 arv (.queue q) .stream, st)

/-! ### Issue-time checks (R299, R300) -/

/-- A queue holds at most two streams. -/
def queueCheck (q : BitVec 2) (c : Core) : Option Trap :=
  if ((c.ctx.queue q).filter fun st => !st.ended).length < 2 then none else some .schedule

def tileFetchCheck (q : BitVec 2) (t : BitVec 6) (c : Core) : Option Trap :=
  firstTrap [landingCheck c, globalCheck t 64 c, queueCheck q c]

def tileHandleCheck (key : Option (BitVec 512)) (q : BitVec 2) (h : BitVec 4) (c : Core) : Option Trap :=
  firstTrap [landingCheck c, sourceCheck key c h, queueCheck q c]

/-! ### The operations -/

/-- TFA and TFB: a record in the cache is used at once; another is read by a later step. -/
def Core.startStream (c : Core) (q : BitVec 2) (isB : Bool) (t b : BitVec 6) (arv : BitVec 12) : Core :=
  let a := c.ctx.getS t
  let r := c.newStream q isB a none (c.ctx.boxAt b) arv
  match c.recCache.find? fun u => decide (u.addr = a) with
  | some u => r.1.openStream q r.2 u
  | none => r.1

def execTfa (g : Guard) (q : BitVec 2) (t c : BitVec 6) (arv : BitVec 12) (s : State) : Host.Outcome State Fault Refusal :=
  checked g 8 (tileFetchCheck q t) s fun k => k.startStream q false t c arv

def execTfb (g : Guard) (q : BitVec 2) (t c : BitVec 6) (arv : BitVec 12) (s : State) : Host.Outcome State Fault Refusal :=
  checked g 8 (tileFetchCheck q t) s fun k => k.startStream q true t c arv

/-- TFH: its record is the one its entry names, found at its step, which waits in issue order (R301, R305). -/
def execTfh (g : Guard) (q : BitVec 2) (h : BitVec 4) (c : BitVec 6) (arv : BitVec 12) (s : State) :
    Host.Outcome State Fault Refusal :=
  checked g 8 (tileHandleCheck s.handleKey q h) s fun k =>
    let v := (k.ctx.getH h).val
    let r := k.newStream q false 0#64 (some v) (k.ctx.boxAt c) arv
    r.1.hstep (.stream v q r.2.id) []

/-- TFX cancels the streams of its queues at the end of its cycle. -/
def execTfx (g : Guard) (qm : BitVec 4) (s : State) : Host.Outcome State Fault Refusal :=
  guarded g s fun c => c.onCtx fun x => x.push 8 1 0#6 (.tfx qm)

end Sys2Proof.Machine
end

