-- ==== Sys2Proof/Machine/Graph.lean ====
section
/-! DEFINITION. The dependence graph and the walker's part in it (R211 to R213, R218, R219, R310 to R313): continuation
records, registration, readiness, decrements, SPAWN, DEPEND and SIGNAL. -/

namespace Sys2Proof.Machine

/-! ### Faults found away from a bundle (R225, R277, R305) -/

/-- A launch changed. -/
def State.onLaunch (s : State) (part launch : Nat) (f : Launch → Launch) : State :=
  { s with launches := s.launches.map fun l => if l.space.part = part ∧ l.id = launch then f l else l }

/-- A launch is marked as ending with a fault of a task that this core, or the walker (64), found. The first fault stands; of two
in one tick, that of the lower core (R225). -/
def State.endLaunchAt (s : State) (key : TaskKey) (r : TrapRec) (core : Nat) : State :=
  let now := tickOf s.time
  s.onLaunch key.part key.launch fun l =>
    if l.ending.isNone || (l.endTick == now && decide (core < l.endCore)) then
      { l with ending := some r, endTask := key.task, endTick := now, endCore := core }
    else l

def State.endLaunch (s : State) (key : TaskKey) (r : TrapRec) : State := s.endLaunchAt key r 64

/-- The launch is to end with a fault. -/
def State.launchEnds (s : State) (part launch : Nat) : Bool :=
  s.launches.any fun l => l.space.part == part && l.id == launch && l.ending.isSome

/-- A fault with slot 0xFF and no bundle. -/
def bareFault (t : Trap) : TrapRec := ⟨t, 0xFF#8, 0#64, 0#16, 0#64⟩

/-- A fault found after issue is raised at the next bundle boundary of the core that runs the task, with the bundle and
slot of its operation. -/
def State.raiseLater (s : State) (o : Running) (t : Trap) (slot : Nat) (pc : BitVec 58) : State :=
  let r : TrapRec := ⟨t, BitVec.ofNat 8 slot, addrOf pc, 0#16, 0#64⟩
  if s.core.task = some o then
    s.onCore fun c => if c.lateFault.isNone then { c with lateFault := some r } else c
  else
    match s.parked.find? fun c => c.task == some o with
    | some c => s.onCoreId c.id.toNat fun c => if c.lateFault.isNone then { c with lateFault := some r } else c
    | none => s.endLaunch o.key r

/-! ### Continuation records (R211, R212) -/

def bitNat (b : Bool) (i : Nat) : Nat := if b then 2 ^ i else 0

/-- The space of a node. -/
def Node.space (n : Node) : Space := ⟨n.key.part, n.vdev⟩

/-- The 64 bytes of a node's continuation record. -/
def Node.record (n : Node) : List Byte :=
  leBytes 8 ((addrOf n.resume).toNat + bitNat n.susp 3 + bitNat n.gang 2 + bitNat n.migr 1 + bitNat n.started 0)
    ++ leBytes 4 n.key.task ++ leBytes 4 n.key.launch ++ leBytes 8 n.args.toNat
    ++ leBytes 8 (n.preds + n.affinity * 2 ^ 16 + n.prio * 2 ^ 24 + (if n.gang then 4 else 1) * 2 ^ 32 + n.key.part * 2 ^ 48)
    ++ leBytes 8 n.succ.toNat ++ leBytes 8 n.image.toNat ++ leBytes 8 (n.version.toNat + n.status.toNat * 2 ^ 32)
    ++ leBytes 8 (n.harea.toNat + n.hmask.toNat * 2 ^ 48)

/-- The node of a continuation record in memory; VERSION starts at 0, and the fields that the core writes count from there (R211). -/
def nodeOf (sp : Space) (launch : Nat) (addr : Word) (bs : List Byte) : Node where
  key := ⟨sp.part, launch, fieldNat bs 8 4⟩
  vdev := sp.vdev
  copy := false
  addr := addr
  st := .waiting
  preds := fieldNat bs 0x18 2
  succ := BitVec.ofNat 64 (fieldNat bs 0x20 8)
  affinity := fieldNat bs 0x1A 1
  prio := fieldNat bs 0x1B 1
  gang := fieldNat bs 0x1C 2 == 4
  started := false
  migr := false
  susp := false
  readyAt := 0
  args := BitVec.ofNat 64 (fieldNat bs 0x10 8)
  resume := indexOf (BitVec.ofNat 64 (fieldNat bs 0 8))
  version := 0#32
  status := 0#8
  hmask := BitVec.ofNat 16 (fieldNat bs 0x3E 2)
  harea := BitVec.ofNat 48 (fieldNat bs 0x38 6)
  waits := []
  saved := []
  phases := []
  fifo := []
  hsteps := []
  spm := []
  spmBad := []
  energies := []
  kind := 0
  image := 0#64
  store := none
  dbg := []
  core := 0

/-- The walker's check of a record (R212). -/
def recordCheck (part : Nat) (bs : List Byte) : Option Trap :=
  let w0 := fieldNat bs 0 8
  let gsize := fieldNat bs 0x1C 2
  if w0 / 16 % 4 ≠ 0 ∨ w0 % 2 = 1 ∨ w0 / 2 % 2 = 1 ∨ w0 / 8 % 2 = 1 ∨ fieldNat bs 0x35 3 ≠ 0 ∨ 2 < fieldNat bs 0x1A 1
      ∨ 3 < fieldNat bs 0x1B 1 ∨ ¬(gsize = 1 ∨ gsize = 4) ∨ (w0 / 4 % 2 = 1 ↔ gsize ≠ 4) then some .illegalEncoding
  else if fieldNat bs 0x1E 2 ≠ part then some .protection
  else none

/-! ### Nodes -/

/-- The same node by its address in its tenant's space and its launch. -/
def Node.isAt (n : Node) (part launch : Nat) (a : Word) : Bool :=
  n.key.part == part && n.key.launch == launch && n.addr.toNat / 64 == a.toNat / 64

def State.nodeAt (s : State) (part launch : Nat) (a : Word) : Option Node := s.nodes.find? fun n => n.isAt part launch a

/-- The node of a task. -/
def State.nodeOfKey (s : State) (k : TaskKey) : Option Node := s.nodes.find? fun n => !n.copy && n.key == k

/-- A node changed, in the walker alone. -/
def State.mapNode (s : State) (n : Node) : State :=
  { s with nodes := s.nodes.map fun m => if m.isAt n.key.part n.key.launch n.addr then n else m }

/-- A task node changed, with its record written by one 64-byte write at its home (R215). -/
def State.setNode (s : State) (n : Node) : State :=
  let t := s.mapNode n
  if n.copy then t.poke n.space (n.addr.toNat / 64 * 64 + 0x18) (leBytes 2 n.preds)
  else t.poke n.space (n.addr.toNat / 64 * 64) n.record

/-- A task's node changed. -/
def State.onNode (s : State) (k : TaskKey) (f : Node → Node) : State :=
  match s.nodeOfKey k with | some n => s.setNode (f n) | none => s

/-- The line of a record at an address is poisoned (R381). -/
def State.recordPoisoned (s : State) (sp : Space) (a : Nat) : Bool :=
  match s.physOf sp (a / 64 * 64) with | some pa => s.poisoned pa 64 | none => false

/-- The walker's check of a record in memory (R212, R381). -/
def State.recordFault (s : State) (sp : Space) (a : Nat) : Option Trap :=
  if s.recordPoisoned sp a then some .uncorrectableData else recordCheck sp.part (s.peek sp (a / 64 * 64) 64)

/-- A node becomes Ready, after the check of its record the first time (R212). -/
def State.readyNode (s : State) (n : Node) : State :=
  let bad := if n.copy || n.started then none else s.recordFault n.space n.addr.toNat
  match bad with
  | some t => s.endLaunch n.key (bareFault t)
  | none => s.mapNode { n with st := .ready, readyAt := tickOf s.time }

/-- The task id that a fault of a decrement names. -/
def Node.faultKey (n : Node) : TaskKey := if n.copy then { n.key with task := 0 } else n.key

/-- PREDS lowered by `k`; a decrement below zero ends the launch (R219). -/
def State.lowerNode (s : State) (n : Node) (k : Nat) : State :=
  if n.preds < k then s.endLaunch n.faultKey (bareFault .illegalEncoding)
  else
    let m := { n with preds := n.preds - k }
    let t := s.setNode m
    if m.preds = 0 ∧ m.st = .waiting then t.readyNode m else t

/-! ### Successor lists and finishes (R218, R219) -/

/-- The decrement for one entry of a successor list, of the node registered at NODE, whether KIND names it as a task or as a copy (R218; log
entry 64). -/
def State.decrement (s : State) (by_ : Node) (e : Word) : State :=
  match s.nodeAt by_.key.part by_.key.launch e with
  | none => s.endLaunch by_.faultKey (bareFault .protection)
  | some n =>
    if e.toNat / 4 % 16 ≠ 0 ∨ 2 ≤ e.toNat % 4 then s.endLaunch n.faultKey (bareFault .illegalEncoding)
    else s.lowerNode n 1

/-- The entries of a successor list, each as it is read: an entry that cannot be read is a trap (R415). Of a list that counts more than 65,535
entries, which R218 does not speak of, 65,535 are read (log entry 64). -/
def State.succList (s : State) (n : Node) : List (Except Trap Word) :=
  if n.succ = 0#64 then []
  else
    let word := fun (a : Nat) => match s.moduleTrap n.space a false with
      | some t => Except.error t
      | none => .ok (BitVec.ofNat 64 (leNat (s.peek n.space a 8)))
    match word n.succ.toNat with
    | .error t => [.error t]
    | .ok k => (List.range (min k.toNat 65535)).map fun i => word (n.succ.toNat + 8 + 8 * i)

/-- A page of the successor list that is not present: the walker waits for it (R415). -/
def State.succWait (s : State) (n : Node) : Option Nat :=
  if n.succ = 0#64 then none
  else
    let at_ := fun (a : Nat) => s.reachAll n.space (BitVec.ofNat 64 a) 8
    let first := match at_ n.succ.toNat with
      | some x => some x
      | none => (List.range (min (leNat (s.peek n.space n.succ.toNat 8)) 65535)).findSome? fun i => at_ (n.succ.toNat + 8 + 8 * i)
    match first with | some (.inr a) => some a | _ => none

/-- The decrement for one entry as it was read, unless the launch has met a fault: nothing is decremented after one (R219). -/
def State.decrementNext (s : State) (by_ : Node) (e : Except Trap Word) : State :=
  if s.launchEnds by_.key.part by_.key.launch then s
  else
    match e with
    | .error t => s.endLaunch by_.faultKey (bareFault t)
    | .ok e => s.decrement by_ e

/-- A run-time edge starts at a node. -/
def Edge.starts (e : Edge) (n : Node) : Bool :=
  e.part == n.key.part && e.launch == n.key.launch && e.pred.toNat / 64 == n.addr.toNat / 64

/-- A node is finished: its successors are decremented, those of its list and then those of run-time edges. -/
def State.finishNode (s : State) (n : Node) : State :=
  let s := s.mapNode { n with st := .finished }
  let s := s.onLaunch n.key.part n.key.launch fun l => { l with finished := l.finished + 1 }
  let s := (s.succList n).foldl (fun t e => t.decrementNext n e) s
  let mine := s.edges.filter fun e => e.starts n
  let s : State := { s with edges := s.edges.filter fun e => !e.starts n }
  mine.foldl (fun t e => t.decrementNext n (.ok e.succ)) s

/-! ### Run-time edges and counts (R312, R313) -/

/-- DEPEND: an edge from one registered node to another that waits; none if the first has finished. -/
def State.dependNodes (s : State) (part launch : Nat) (pred succ : Word) : Except Trap State :=
  match s.nodeAt part launch pred, s.nodeAt part launch succ with
  | some p, some n =>
    if n.st ≠ .waiting then .error .protection
    else if p.st = .finished then .ok s
    else if Config.edgeTable ≤ (s.edges.filter fun e => e.part == part).length then .error .protection
    else
      let t : State := { s with edges := s.edges ++ [⟨part, launch, pred, succ⟩] }
      .ok (t.setNode { n with preds := n.preds + 1 })
  | _, _ => .error .protection

/-- SIGNAL: a node's count lowered; a reserved KIND or bit faults the launch as any decrement of such an entry does (R219). -/
def State.signalNode (s : State) (part launch count : Nat) (node : Word) : Except Trap State :=
  if count = 0 then .ok s
  else
    match s.nodeAt part launch node with
    | none => .error .protection
    | some n =>
      if node.toNat / 4 % 16 ≠ 0 ∨ 2 ≤ node.toNat % 4 then .ok (s.endLaunch n.faultKey (bareFault .illegalEncoding))
      else .ok (s.lowerNode n count)

/-! ### SPAWN (R311) -/

/-- The walker's checks of a child record. -/
def State.spawnFault (s : State) (o : Running) (child : Word) (hm : BitVec 16) : Option Trap :=
  let sp : Space := ⟨o.key.part, o.vdev⟩
  let bs := s.peek sp child.toNat 64
  match (s.moduleTrap sp child.toNat false).orElse fun _ => s.recordFault sp child.toNat with
  | some t => some t
  | none =>
    if fieldNat bs 0x3E 2 ≠ 0 ∨ (hm ≠ 0#16 ∧ fieldNat bs 0x38 6 = 0) then some .illegalEncoding
    else if hm ≠ 0#16 ∧ (s.moduleTrap sp (fieldNat bs 0x38 6 * 256) false).isSome = true then s.moduleTrap sp (fieldNat bs 0x38 6 * 256) false
    else if fieldNat bs 0x0C 4 ≠ o.key.launch then some .protection
    else if s.nodes.any fun n => decide (n.space = sp) && n.addr.toNat / 64 == child.toNat / 64 then some .protection
    else none

/-- A page of a child record, or of its handle slots, that is not present: the walker waits for it (R415). -/
def State.spawnWait (s : State) (o : Running) (child : Word) (hm : BitVec 16) : Option Nat :=
  let sp : Space := ⟨o.key.part, o.vdev⟩
  match s.reachAll sp child 64 with
  | some (.inr a) => some a
  | some (.inl _) => none
  | none =>
    if hm = 0#16 then none
    else
      match s.reachAll sp (BitVec.ofNat 64 (fieldNat (s.peek sp child.toNat 64) 0x38 6 * 256)) 256 with
      | some (.inr a) => some a
      | _ => none

/-- The entry of a handle allows an operation of a task: GEN, STATE and HOLDER (R269, R273). -/
def State.holds (s : State) (v : BitVec 128) (task : Nat) : Bool :=
  let e := s.handleEntry v
  decide (e.st = .live) && e.gen == handleGen v && e.holder == task

/-- The handle passes to another holder. -/
def State.setHolder (s : State) (v : BitVec 128) (task : Nat) : State :=
  s.setEntry (handleLidx v).toNat { s.handleEntry v with holder := task }

/-- SPAWN at the walker: the child is registered, takes its handles, may become a predecessor, and is Ready at 0. -/
def State.spawnNode (s : State) (o : Running) (pred child : Word) (hm : BitVec 16) (vals : List (Nat × BitVec 128)) :
    Except Trap State :=
  match s.spawnFault o child hm with
  | some t => .error t
  | none =>
    if vals.any fun v => s.entryPoisoned (handleLidx v.2).toNat then .ok (s.endLaunch o.key (bareFault .uncorrectableData))
    else if !(vals.all fun v => s.holds v.2 o.key.task) then .error .protection
    else
      let sp : Space := ⟨o.key.part, o.vdev⟩
      let n := { nodeOf sp o.key.launch child (s.peek sp child.toNat 64) with hmask := hm }
      let s := vals.foldl (fun t v =>
        (t.setHolder v.2 n.key.task).poke sp (n.harea.toNat * 256 + 16 * v.1) (leBytes 16 v.2.toNat)) s
      let s : State := { s with nodes := s.nodes ++ [n] }
      let s := (s.onLaunch o.key.part o.key.launch fun l => { l with created := l.created + 1 }).setNode n
      let r : Except Trap State := if pred = 0#64 then .ok s else s.dependNodes o.key.part o.key.launch child pred
      match r with
      | .error t => .error t
      | .ok s => .ok (if n.preds = 0 then s.readyNode n else s)

end Sys2Proof.Machine
end

