-- ==== Sys2Proof/Machine/Cmds.lean ====
section
/-! DEFINITION. Commands (R326 to R331, R352, R390): how one is accepted at its endpoint, begins at the head of its queue,
and is answered; and the messages that the module sends of its own accord (R354, R388). A command stands for two events,
its arrival and its beginning (`Cmd.arriving`). -/

open Sys2Proof.Machine

/-! ### The header of a command (R327)

Bytes that a send lacks read zero. -/

def Sys2Proof.Cmd.op (c : Cmd) : BitVec 8 := BitVec.ofNat 8 (fieldNat c.bytes 0 1)

def Sys2Proof.Cmd.queue (c : Cmd) : BitVec 8 := BitVec.ofNat 8 (fieldNat c.bytes 2 1)

def Sys2Proof.Cmd.seq (c : Cmd) : BitVec 32 := BitVec.ofNat 32 (fieldNat c.bytes 4 4)

def Sys2Proof.Cmd.tag (c : Cmd) : BitVec 64 := BitVec.ofNat 64 (fieldNat c.bytes 8 8)

def Sys2Proof.Cmd.len (c : Cmd) : Nat := fieldNat c.bytes 0x10 4

/-- A reserved bit of the header is set. -/
def Sys2Proof.Cmd.rsvd (c : Cmd) : Bool :=
  fieldNat c.bytes 1 1 != 0 || fieldNat c.bytes 3 1 != 0 || fieldNat c.bytes 0x14 12 != 0

def Sys2Proof.Cmd.body (c : Cmd) : List Byte := c.bytes.drop 32

/-- LEN is out of range: above 992, or not the length of the body that the send carries (log entry 44); a send holds 32 to 1,024 bytes
(R326). -/
def Sys2Proof.Cmd.lenBad (c : Cmd) : Bool := decide (c.bytes.length < 32) || decide (992 < c.len) || c.len != c.body.length

namespace Sys2Proof.Machine

/-- The base die on which a port sits (R7): ports 0 to 5 on B0, false, and 6 to 11 on B1, true. -/
def portDie (port : Fin 12) : Bool := decide (6 ≤ port.val)

/-- The port by which a message goes to an address to which no command gives one (log entry 44). -/
def routePort (addr : Nat) : Fin 12 := ⟨Config.route addr % 12, Nat.mod_lt _ (by decide)⟩

/-! ### Messages -/

/-- A message leaves the module; a partition in Retriever replay sends nothing (R404). -/
def State.sendFrom (s : State) (part : Nat) (m : Msg) : State :=
  if (match s.replayOf part with | some r => r.mode == 4 | none => false) then s
  else { s with outbox := s.outbox ++ [m] }

/-- The 32 bytes of a response (kind 0) or completion message (kind 1) with its body (R330). -/
def cmdAnswer (c : Cmd) (kind status code : Nat) (body : List Byte) : List Byte :=
  leBytes 1 c.op.toNat ++ leBytes 1 kind ++ leBytes 1 c.queue.toNat ++ leBytes 1 0 ++ leBytes 4 c.seq.toNat
    ++ leBytes 8 c.tag.toNat ++ leBytes 4 body.length ++ leBytes 4 status ++ leBytes 1 code ++ leBytes 7 0 ++ body

/-- The partition of an endpoint; 0 for the module's own. -/
def Endpoint.owner : Endpoint → Nat
  | .part p => p
  | .mgmt => 0
  | .debug => 0

def State.respond (s : State) (c : Cmd) (status : Nat) : State :=
  s.sendFrom (Endpoint.owner c.ep) ⟨c.ep, c.port, c.src, .send, cmdAnswer c 0 status 0 []⟩

/-- A completion message alone (R331). -/
def State.tell (s : State) (c : Cmd) (status code : Nat) (body : List Byte) : State :=
  s.sendFrom (Endpoint.owner c.ep) ⟨c.ep, c.port, c.src, .send, cmdAnswer c 1 status code body⟩

/-- A counter of the summary of one base die, saturating (R387). -/
def State.count (s : State) (die : Bool) (i : Nat) : State :=
  let k := i + (if die then 16 else 0)
  { s with counters := s.counters.set k (BitVec.ofNat 32 (min ((s.counters.getD k 0#32).toNat + 1) (2 ^ 32 - 1))) }

/-- An event report (R354, R388). -/
def eventBytes (event part vdev new old rseq now : Nat) (tail : List Byte) : List Byte :=
  leBytes 2 event ++ leBytes 2 part ++ leBytes 1 vdev ++ leBytes 3 0 ++ leBytes 2 new ++ leBytes 2 old ++ leBytes 4 rseq
    ++ leBytes 8 now ++ tail

/-- An event goes to every host of a partition. -/
def State.reportHosts (s : State) (part : Nat) (bs : List Byte) : State :=
  match s.parts.find? fun p => p.id == part with
  | some p => p.sources.foldl (fun t a => t.sendFrom part ⟨.part part, routePort a, a, .send, bs⟩) s
  | none => s

/-- An event goes to every administrator address; `src` is byte 8 of an ALARM (R388). -/
def State.reportAdmins (s : State) (event src : Nat) : State :=
  let bs := leBytes 2 event ++ leBytes 2 0 ++ leBytes 1 0xFF ++ leBytes 3 0 ++ leBytes 8 src ++ leBytes 8 (tickOf s.time)
    ++ leBytes 8 0
  s.admins.foldl (fun t a => { t with outbox := t.outbox ++ [⟨.mgmt, routePort a, a, .send, bs⟩] }) s

/-! ### Queues -/

/-- The partition and number of the queue that a command enters: one of its partition, or that of the management or debug endpoint of its
port (R326, R352, R390). -/
def cmdHome (c : Cmd) : Nat × Nat :=
  match c.ep with
  | .part p => (p, c.queue.toNat)
  | .mgmt => (0, 64 + c.port.val)
  | .debug => (0, 76 + c.port.val)

def State.queueAt (s : State) (h : Nat × Nat) : Option CmdQueue :=
  s.cqueues.find? fun q => q.space.part == h.1 && q.id == h.2

def State.setQueue (s : State) (q : CmdQueue) : State :=
  { s with cqueues := s.cqueues.map fun r => if r.space.part = q.space.part ∧ r.id = q.id then q else r }

def State.partOf (s : State) (p : Nat) : Option Part := s.parts.find? fun x => x.id == p

def State.setPart (s : State) (p : Part) : State := { s with parts := s.parts.map fun x => if x.id = p.id then p else x }

def State.tenantOf (s : State) (sp : Space) : Option Tenant := s.tenants.find? fun t => decide (t.space = sp)

def State.setTenant (s : State) (t : Tenant) : State :=
  { s with tenants := s.tenants.map fun u => if u.space = t.space then t else u }

/-- Commands accepted and not yet completed (R326). -/
def CmdQueue.depth (q : CmdQueue) : Nat := q.ahead.length + q.held.length + (if q.running.isSome then 1 else 0)

/-- A SEQ that the queue has already accepted, whether or not its turn has come. -/
def CmdQueue.knows (q : CmdQueue) (seq : BitVec 32) : Bool :=
  decide (2 ^ 31 ≤ (seq - q.nextSeq).toNat) || q.ahead.any fun c => c.seq == seq

/-- Commands whose turn has come pass from `ahead` to `held`. -/
def CmdQueue.advance : Nat → CmdQueue → CmdQueue
  | 0, q => q
  | n + 1, q =>
    match q.ahead.find? fun c => c.seq == q.nextSeq with
    | some c =>
      CmdQueue.advance n
        { q with ahead := q.ahead.filter fun d => d.seq != c.seq, held := q.held ++ [c], nextSeq := q.nextSeq + 1 }
    | none => q

/-- A command enters its queue; one ahead of its turn waits (R329). -/
def CmdQueue.take (q : CmdQueue) (c : Cmd) : CmdQueue :=
  CmdQueue.advance (q.ahead.length + 1) { q with ahead := q.ahead ++ [c] }

/-- A queue that refuses new commands: it is in ERROR, or its tenant is not ENABLED (R330, R366, R379). -/
def State.queueShut (s : State) (q : CmdQueue) : Bool :=
  q.error || (match s.tenantOf q.space with | some t => t.st != .enabled | none => false)

/-- Whether the module answers commands, and with which refusal: BOOT and STOPPED refuse all but SUMMARY with status 3, ALARM
and FAILED answer SUMMARY alone (R386, R389). -/
def State.refusal (s : State) : Option Nat :=
  match s.devState with
  | .ready => none
  | .boot => some 3
  | .stopped => some 3
  | .alarm => some 99
  | .failed => some 99

/-- The send comes from a registered source: a host of the partition, or an administrator (R326, R352, R390). -/
def State.knownSource (s : State) (c : Cmd) (part : Nat) : Bool :=
  match c.ep with
  | .part p => (match s.partOf p with | some x => x.sources.contains c.src | none => false)
  | .mgmt => s.admins.contains c.src
  | .debug => s.admins.contains c.src || (match s.partOf part with | some x => x.sources.contains c.src | none => false)

/-- The answer to an arriving command, in the order of R330's causes: status 2 for its form, 3 for its queue, 4 for a SEQ
already accepted, 1 for a full queue, 0 when it is accepted. -/
def State.verdict (s : State) (c : Cmd) (bad : Bool) : Nat :=
  match s.queueAt (cmdHome c) with
  | none => 2
  | some q =>
    if bad || c.rsvd || c.lenBad || (c.ep != .mgmt && c.ep != .debug && decide (63 < c.queue.toNat))
        || ((c.ep == .mgmt || c.ep == .debug) && c.queue != 0#8) then 2
    else if s.queueShut q then 3
    else if q.knows c.seq then 4
    else if 256 ≤ q.depth then 1
    else 0

/-- The partition that a body names in its first two bytes. -/
def cmdPart (c : Cmd) : Nat := fieldNat c.body 0 2

/-- A command arrives; `bad` says that its form is refused with status 2. A send from an unregistered source is dropped and
counted (R326, R352, R390). -/
def State.arrive (s : State) (c : Cmd) (bad : Bool) : State :=
  if !s.knownSource c (cmdPart c) then s.count (portDie c.port) 11
  else
    match s.refusal with
    | some 99 => s
    | some k => s.respond c k
    | none =>
      let k := s.verdict c bad
      let s := s.respond c k
      if k = 0 then
        match s.queueAt (cmdHome c) with
        | some q => (s.logged (Endpoint.owner c.ep) 3 q.id (c.seq.toNat + 2 ^ 32 * c.port.val)).2.setQueue (q.take { c with arriving := false })
        | none => s
      else s

/-- The command is at the head of its queue and may begin (R329): a LAUNCH or COPY waits while its partition is being resized
(R364), and no command begins while its tenant is not ENABLED, or its partition is halted or being reset (R366, R379, R403). -/
def State.mayBegin (s : State) (q : CmdQueue) (c : Cmd) : Bool :=
  q.running.isNone && !s.queueShut q && s.devState == .ready && !s.wiping q.space.part
    && (match s.replayOf q.space.part with | some r => !r.halted | none => true)
    && (match s.partOf q.space.part with
      | some p => !(p.resize.isSome && (c.op == 0x01#8 || c.op == 0x02#8) && c.ep == .part p.id)
      | none => true)

/-- The command that is in progress, or about to begin, as its queue has it. -/
def State.begins (s : State) (c : Cmd) : Option CmdQueue :=
  match s.queueAt (cmdHome c) with
  | some q => if q.held.head? = some c ∧ s.mayBegin q c = true then some q else none
  | none => none

/-- A command in progress has ended: its completion message goes out and the queue may begin its next (R329, R331). -/
def State.finish (s : State) (c : Cmd) (status code : Nat) (body : List Byte) : State :=
  let s := s.tell c status code body
  match s.queueAt (cmdHome c) with
  | some q => if q.running = some c then s.setQueue { q with running := none, begun := none, lastSeq := c.seq } else s
  | none => s

/-- A command of the table, with its code: its arrival at an endpoint of its kind, its beginning, or a further step of it while
it is in progress. `ours` says that the endpoint is the right one, `bad` that the form of the body is refused with status 2. A
command with a code that the endpoint does not accept is refused in the same way. -/
def State.command (s : State) (c : Cmd) (op : BitVec 8) (ours bad : Bool) (act : State → Cmd → State) : State :=
  if c.arriving then s.arrive c (bad || !ours || c.op != op)
  else
    match s.begins c with
    | some q => act (s.setQueue { q with running := some c, elapsed := 0, began := tickOf s.time, begun := none, held := q.held.tail }) c
    | none =>
      match s.queueAt (cmdHome c) with
      | some q => if q.running = some c then act s c else s
      | none => s

/-- What a command in progress has done so far is noted in its queue. -/
def State.noteBegun (s : State) (c : Cmd) (b : Begun) : State :=
  match s.queueAt (cmdHome c) with | some q => s.setQueue { q with begun := some b } | none => s

/-- The endpoint is a partition's. -/
def cmdAtPart (c : Cmd) : Bool := match c.ep with | .part _ => true | _ => false

/-- The tenant of a command's queue. -/
def State.spaceOf (s : State) (c : Cmd) : Space :=
  match s.queueAt (cmdHome c) with | some q => q.space | none => ⟨Endpoint.owner c.ep, 0⟩

end Sys2Proof.Machine
end

