-- ==== Sys2Proof/Machine/Control.lean ====
section
/-! DEFINITION. The control slot: transfers, the loop unit, suspension points, markers and traps (R120 to R138,
R370 to R372). An operation takes effect in its issue cycle; where control goes is settled when the bundle's stall
cycles have run, and `Core.after` then says what the core does. -/

namespace Sys2Proof.Machine

/-! ### Transfers (R122) -/

/-- ALIGNMENT of a transfer target. -/
def targetCheck (a : Word) : Option Trap := if a.toNat % 64 = 0 then none else some .alignment

/-- Control goes to `t` after one delay bundle. -/
def Ctx.transfer (x : Ctx) (t : BitVec 58) : Ctx := { x with delayTarget := some t }

/-- The return address, PC + 128, lands in s62 as a slot-0 result. -/
def Ctx.link (x : Ctx) : Ctx := x.push 0 1 0#6 (.s 62#6 (addrOf (x.pc + 2)))

/-- The bundle at a signed offset from this one. -/
def Ctx.relative (x : Ctx) (off : BitVec 24) : BitVec 58 := x.pc + off.signExtend 58

def execBr (g : Guard) (off : BitVec 24) (s : State) : Host.Outcome State Fault Refusal :=
  guarded g s fun c => c.onCtx fun x => x.transfer (x.relative off)

def checkBri (a : BitVec 6) (c : Core) : Option Trap := targetCheck (c.ctx.getS a)

def execBri (g : Guard) (a : BitVec 6) (s : State) : Host.Outcome State Fault Refusal :=
  checked g 0 (checkBri a) s fun c => c.onCtx fun x => x.transfer (indexOf (x.getS a))

def execCall (g : Guard) (off : BitVec 24) (s : State) : Host.Outcome State Fault Refusal :=
  guarded g s fun c => c.onCtx fun x => x.link.transfer (x.relative off)

def execCalli (g : Guard) (a : BitVec 6) (s : State) : Host.Outcome State Fault Refusal :=
  checked g 0 (checkBri a) s fun c => c.onCtx fun x => x.link.transfer (indexOf (x.getS a))

def execRet (g : Guard) (s : State) : Host.Outcome State Fault Refusal :=
  checked g 0 (checkBri 62#6) s fun c => c.onCtx fun x => x.transfer (indexOf (x.getS 62#6))

/-! ### The loop unit (R124 to R129) -/

def Ctx.level (x : Ctx) (lc : BitVec 2) : LoopLevel := x.loops[lc.toNat]'lc.isLt

def Ctx.setLevel (x : Ctx) (lc : BitVec 2) (l : LoopLevel) : Ctx := { x with loops := x.loops.set lc.toNat l lc.isLt }

/-- A level that runs no loop. -/
def LoopLevel.idle (l : LoopLevel) : LoopLevel := { l with active := false, age := 0#2 }

/-- The level one place older. -/
def LoopLevel.older (l : LoopLevel) : LoopLevel := { l with age := l.age - 1 }

/-- Level `lc` becomes inactive; the levels activated after it move down one place in the order of activation. -/
def Ctx.endLevel (x : Ctx) (lc : BitVec 2) : Ctx :=
  let old := (x.level lc).age
  if (x.level lc).active then
    let shifted := x.loops.map fun l => if l.active && decide (old < l.age) then l.older else l
    { x with loops := shifted.set lc.toNat (x.level lc).idle lc.isLt }
  else x

/-- Every level activated after `lc` becomes inactive. -/
def Ctx.endNewer (x : Ctx) (lc : BitVec 2) : Ctx :=
  let old := (x.level lc).age
  if (x.level lc).active then
    { x with loops :=
        (x.loops.map fun l => if l.active && decide (old < l.age) then l.idle else l) }
  else x

/-- The number of active levels. -/
def Ctx.activeLevels (x : Ctx) : Nat := (x.loops.toList.filter LoopLevel.active).length

/-- The stage predicates of a modulo loop as it starts: RRB 0, p16 all ones, p17 to p31 all zeros. They are results of slot 0, so that a
WRSYS to RRB in the same bundle wins, which R82 and R125 leave open (log entry 62). -/
def Ctx.startModulo (x : Ctx) : Ctx :=
  (List.range 16).foldl
    (fun y i => y.push 0 1 0#6 (.p (BitVec.ofNat 5 (16 + i)) (BitVec.allOnes 1024) (if i = 0 then BitVec.allOnes 1024 else 0#1024)))
    (x.push 0 1 0#6 (.rrb 0#6))

/-- A loop of N iterations and E epilogue iterations starts on level `lc` (R125). -/
def Ctx.startLoop (x : Ctx) (lc : BitVec 2) (body : BitVec 12) (n : BitVec 20) (e : BitVec 4) : Ctx :=
  let x := (x.endNewer lc).endLevel lc
  let last := x.pc + body.setWidth 58
  if n = 0#20 then
    { x.setLevel lc ⟨x.pc + 1, last, 0#20, e, false, 0#2⟩ with redirect := some (last + 1) }
  else
    let y := x.setLevel lc ⟨x.pc + 1, last, n, e, true, BitVec.ofNat 2 x.activeLevels⟩
    if lc = 3#2 then y.startModulo else y

def execLoop (g : Guard) (lc : BitVec 2) (body : BitVec 12) (count : BitVec 20) (s : State) :
    Host.Outcome State Fault Refusal :=
  guarded g s fun c => c.onCtx fun x => x.startLoop lc body count 0#4

/-- LOOPR takes N from bits [19:0] of sA and, on level 3, E from bits [35:32]. -/
def execLoopr (g : Guard) (lc : BitVec 2) (body : BitVec 12) (a : BitVec 6) (s : State) :
    Host.Outcome State Fault Refusal :=
  guarded g s fun c => c.onCtx fun x =>
    x.startLoop lc body ((x.getS a).extractLsb' 0 20) (if lc = 3#2 then (x.getS a).extractLsb' 32 4 else 0#4)

def execLbrk (g : Guard) (lc : BitVec 2) (s : State) : Host.Outcome State Fault Refusal :=
  guarded g s fun c => c.onCtx fun x =>
    if (x.level lc).active then
      { (x.endNewer lc).endLevel lc with redirect := some ((x.level lc).last + 1) }
    else x

/-- The newest active level whose last bundle is `a`. -/
def Ctx.newestAt (x : Ctx) (a : BitVec 58) : Option (BitVec 2) :=
  ([3#2, 2#2, 1#2, 0#2].filter fun lc => (x.level lc).active && decide ((x.level lc).last = a)).foldl
    (fun best lc => match best with
      | none => some lc
      | some b => if (x.level b).age < (x.level lc).age then some lc else some b) none

/-- A back edge of level `lc`: newer levels end, level 3 rotates, and START is next (R126, R129). -/
def Ctx.back (x : Ctx) (lc : BitVec 2) (newp : Bool) : Ctx :=
  let x := x.endNewer lc
  let x := if lc = 3#2 then
      let y := { x with rrb := x.rrb - 1 }
      y.setPhysP (physPred y.rrb 16#5) (BitVec.allOnes 1024) (if newp then BitVec.allOnes 1024 else 0#1024)
    else x
  { x with pc := (x.level lc).start }

/-- The back-edge test at the end of the bundle at `x.pc`: the context with its next pc, and whether a back edge was
taken. Each of the four levels is tested at most once. -/
def Ctx.backTest : Nat → Ctx → Ctx × Bool
  | 0, x => ({ x with pc := x.pc + 1 }, false)
  | n + 1, x =>
    match x.newestAt x.pc with
    | none => ({ x with pc := x.pc + 1 }, false)
    | some lc =>
      let l := x.level lc
      if 1 < l.lcnt.toNat then ((x.setLevel lc { l with lcnt := l.lcnt - 1 }).back lc true, true)
      else if 0 < l.ecnt.toNat then ((x.setLevel lc { l with ecnt := l.ecnt - 1 }).back lc false, true)
      else (x.endLevel lc).backTest n

/-! ### Suspension points, waits and the barrier (R132 to R134, R372) -/

def execYield (g : Guard) (s : State) : Host.Outcome State Fault Refusal :=
  guarded g s fun c => { c with after := .drainYield }

def execCommit (g : Guard) (s : State) : Host.Outcome State Fault Refusal :=
  guarded g s fun c => { c with after := .drainCommit, commitPc := c.ctx.pc, commitSlot := 0 }

def execEndt (g : Guard) (s : State) : Host.Outcome State Fault Refusal :=
  guarded g s fun c => { c with after := .drainEnd, commitPc := c.ctx.pc, commitSlot := 0 }

/-- WAITC: n cycles after the bundle's own STALL cycles and its back-edge test (R128, R133). A soft stop taken at that back edge resumes at
START, without them (log entry 62). -/
def execWaitc (g : Guard) (n : BitVec 16) (s : State) : Host.Outcome State Fault Refusal :=
  guarded g s fun c => { c with after := .waitc n.toNat }

def execCbar (g : Guard) (s : State) : Host.Outcome State Fault Refusal :=
  guarded g s fun c => { c with after := .barrier, commitPc := c.ctx.pc }

def execIdle (g : Guard) (s : State) : Host.Outcome State Fault Refusal :=
  privileged g 0 (fun _ => none) s fun c => { c with after := .drainIdle }

/-! ### Markers and traps (R136, R137, R370, R371, R395) -/

/-- |drift − previous drift| of two signed drifts. -/
def driftStep (a b : BitVec 32) : Nat := (a.toInt - b.toInt).natAbs

/-- MARK records of the tenant are on, with this threshold (R398). -/
def State.markThresh (s : State) : Option (BitVec 32) :=
  match s.traceOf s.core.space with
  | some t => if t.flags.getLsbD 2 then some t.thresh else none
  | none => none

/-- A marker ends interlock tracing, and its drift is kept; with MARK records on, the drift is recorded and may arm it anew (R395). -/
def State.mark (s : State) (ex : BitVec 32) : State :=
  let drift := s.core.ctx.driftClocks - ex
  let armed := match s.markThresh, s.core.ctx.prevDrift with
    | some th, some p => decide (th.toNat < driftStep drift p)
    | _, _ => false
  let task := match s.core.task with | some r => r.key.task | none => 0
  (s.emitIf 2 s.core.space s.core.id.toNat s.core.reftime 0x11 (addrOf s.core.ctx.pc).toNat
    (drift.toNat + ex.toNat * 2 ^ 32) task).onCore fun c => c.onCtx fun x => { x with prevDrift := some drift, armed := armed }

def execMark (g : Guard) (ex : BitVec 32) (s : State) : Host.Outcome State Fault Refusal :=
  guardedState g s fun s => s.mark ex

/-- TRAP enters the handler where one is open, else raises SOFTWARE_TRAP. -/
def execTrap (g : Guard) (imm : BitVec 16) (s : State) : Host.Outcome State Fault Refusal :=
  guarded g s fun c => if c.handlerOpen then c.enterHandler imm else c.raiseSoftware imm

def checkTrapret (c : Core) : Option Trap :=
  if c.ctx.trapActive then targetCheck (c.ctx.getS 60#6) else some .illegalEncoding

def execTrapret (g : Guard) (s : State) : Host.Outcome State Fault Refusal :=
  privileged g 0 checkTrapret s fun c => c.onCtx Ctx.returnFromHandler

/-- NOP: an empty bundle does nothing (R27). -/
def execNop (s : State) : Host.Outcome State Fault Refusal := .next s

end Sys2Proof.Machine
end

