-- ==== Sys2Proof/Machine/Scale.lean ====
section
/-! DEFINITION. The scale slot (R183 to R188). Formats, tables, bands and the rounding mode govern operations issued
from +4; CLRFLG clears at the end of its cycle, before the flags that land in it. -/

namespace Sys2Proof.Machine

def execSetfmt (g : Guard) (fa fb : ElemFmt) (sm : ScaleMode) (ty : Bool) (s : State) : Host.Outcome State Fault Refusal :=
  guarded g s fun c => c.onCtx fun x => x.push 9 4 0#6 (.fmt fa fb sm ty)

def ldsctCheck (b : BitVec 4) (off : BitVec 22) (c : Core) : Option Trap := windowCheck c.window (c.lsOffset b off.toNat) 16 16

def execLdsct (g : Guard) (tb : Bool) (b : BitVec 4) (off : BitVec 22) (s : State) : Host.Outcome State Fault Refusal :=
  checked g 9 (ldsctCheck b off) s fun c => c.onCtx fun x =>
    x.push 9 4 0#6 (.table tb (readSpm s (c.lsOffset b off.toNat) 16))

def execSetband (g : Guard) (tb : Bool) (src band : BitVec 6) (s : State) : Host.Outcome State Fault Refusal :=
  guarded g s fun c => c.onCtx fun x => x.push 9 4 0#6 (.band tb band ((x.getS src).setWidth 16))

def execSetrnd (g : Guard) (rm : RMode) (s : State) : Host.Outcome State Fault Refusal :=
  guarded g s fun c => c.onCtx fun x => x.push 9 4 0#6 (.rnd rm)

def execClrflg (g : Guard) (sm : BitVec 10) (fe : Bool) (s : State) : Host.Outcome State Fault Refusal :=
  guarded g s fun c => c.onCtx fun x => x.clearFlags sm fe

end Sys2Proof.Machine
end

