-- ==== Sys2Proof/Machine/Scratch.lean ====
section
/-! DEFINITION. The scratchpad slot (R190 to R199). A load samples at issue; a store or atomic writes at the end of
t + 1. -/

namespace Sys2Proof.Machine

/-- A guarded scratchpad access: its check at issue names slot 6. -/
def lsAccess (g : Guard) (check : Core → Option Trap) (s : State) (f : Core → Core) : Host.Outcome State Fault Refusal :=
  checked g 6 check s f

/-! ### Whole rows and scalars (R195) -/

def lsCheck (b : BitVec 4) (off n align : Nat) (c : Core) : Option Trap :=
  windowCheck c.window (c.lsOffset b off) n align

/-- A row result of the bits in `mask`. -/
def Ctx.rowLoad (x : Ctx) (lat : Nat) (v : BitVec 8) (mask r : Row) : Ctx := x.push 6 lat 0#6 (.row (x.rowName v) mask r)

/-- A write of bytes at E, visible to loads issued from +2. -/
def Core.spmStore (c : Core) (e : Nat) (bs : List Byte) : Core := c.onCtx fun x => x.push 6 2 0#6 (.spm (spmCells c e bs))

def execLdv (g : Guard) (v : BitVec 8) (b : BitVec 4) (off : BitVec 22) (s : State) : Host.Outcome State Fault Refusal :=
  lsAccess g (lsCheck b off.toNat 2048 64) s fun c => c.onCtx fun x =>
    x.rowLoad 6 v (BitVec.allOnes 16384) (bytesRow (readSpm s (c.lsOffset b off.toNat) 2048))

def execStv (g : Guard) (v : BitVec 8) (b : BitVec 4) (off : BitVec 22) (s : State) : Host.Outcome State Fault Refusal :=
  lsAccess g (lsCheck b off.toNat 2048 64) s fun c =>
    c.spmStore (c.lsOffset b off.toNat) (rowBytes (c.ctx.getV v) 2048)

/-- LDVB: 64 bytes in each of the 32 places of a row. -/
def execLdvb (g : Guard) (v : BitVec 8) (b : BitVec 4) (off : BitVec 22) (s : State) : Host.Outcome State Fault Refusal :=
  lsAccess g (lsCheck b off.toNat 64 64) s fun c => c.onCtx fun x =>
    let n := leNat (readSpm s (c.lsOffset b off.toNat) 64)
    x.rowLoad 6 v (BitVec.allOnes 16384) (rowOf 512 32 fun _ => n)

def execLds (g : Guard) (d : BitVec 6) (w : Width) (b : BitVec 4) (off : BitVec 22) (s : State) :
    Host.Outcome State Fault Refusal :=
  lsAccess g (lsCheck b off.toNat w.bytes w.bytes) s fun c => c.onCtx fun x =>
    x.push 6 4 0#6 (.s d (BitVec.ofNat 64 (leNat (readSpm s (c.lsOffset b off.toNat) w.bytes))))

def execSts (g : Guard) (d : BitVec 6) (w : Width) (b : BitVec 4) (off : BitVec 22) (s : State) :
    Host.Outcome State Fault Refusal :=
  lsAccess g (lsCheck b off.toNat w.bytes w.bytes) s fun c =>
    c.spmStore (c.lsOffset b off.toNat) (leBytes w.bytes (c.ctx.getS d).toNat)

/-! ### Gathers and scatters -/

/-- Ei: the base offset and lane i of the index vector, their exact sum (R195, R6). -/
def Core.elemOffset (c : Core) (b : BitVec 4) (off : BitVec 12) (x : BitVec 8) (i : Nat) : Nat :=
  c.lsOffset b off.toNat + digit 32 (c.ctx.getV x).toNat i

/-- The check of 512 elements: PROTECTION if any breaks the window, else ALIGNMENT if any is misaligned (R191). -/
def elemCheck (b : BitVec 4) (off : BitVec 12) (x : BitVec 8) (size : Nat) (c : Core) : Option Trap :=
  let fates := (List.range 512).map fun i => windowCheck c.window (c.elemOffset b off x i) size size
  if fates.any fun t => t == some .protection then some .protection
  else if fates.any Option.isSome then some .alignment else none

def execLdvx (g : Guard) (v x : BitVec 8) (b : BitVec 4) (w : Width) (off : BitVec 12) (s : State) :
    Host.Outcome State Fault Refusal :=
  lsAccess g (elemCheck b off x w.bytes) s fun c => c.onCtx fun y =>
    y.rowLoad 10 v (BitVec.ofNat 16384 (2 ^ (512 * 8 * w.bytes) - 1))
      (rowOf (8 * w.bytes) 512 fun i => leNat (readSpm s (c.elemOffset b off x i) w.bytes))

/-- The cells of a scatter, in ascending element order. -/
def scatterCells (c : Core) (v : Row) (b : BitVec 4) (off : BitVec 12) (x : BitVec 8) (size : Nat) : List (Nat × Byte) :=
  (List.range 512).flatMap fun i => spmCells c (c.elemOffset b off x i) (leBytes size (digit (8 * size) v.toNat i))

def execStvx (g : Guard) (v x : BitVec 8) (b : BitVec 4) (w : Width) (off : BitVec 12) (s : State) :
    Host.Outcome State Fault Refusal :=
  lsAccess g (elemCheck b off x w.bytes) s fun c => c.onCtx fun y =>
    y.push 6 2 0#6 (.spm (scatterCells c (c.ctx.getV v) b off x w.bytes))

/-! ### Local atomics (R196, R197) -/

def atlCheck (b : BitVec 6) (off : BitVec 8) (size : Nat) (c : Core) : Option Trap :=
  windowCheck c.window (c.scaledOffset b off.toNat size) size size

/-- An atomic at the local bank: it reads and writes its word at the end of t + 1; the old word lands in sD at +6. -/
def localAtomic (op : AtomOp) (g : Guard) (d a new b : BitVec 6) (size : Nat) (off : BitVec 8) (s : State) :
    Host.Outcome State Fault Refusal :=
  lsAccess g (atlCheck b off size) s fun c => c.onCtx fun x =>
    x.push 6 2 0#6 (.atom op (spmKey c (c.scaledOffset b off.toNat size)) size (x.getS a) (x.getS new) x.fmt.rm x.ftz d)

def execAtlAdd (g : Guard) (d a b : BitVec 6) (w8 : Bool) (off : BitVec 8) (s : State) : Host.Outcome State Fault Refusal :=
  localAtomic .add g d a 0#6 b (atomBytes w8) off s

def execAtlMin (g : Guard) (d a b : BitVec 6) (w8 : Bool) (off : BitVec 8) (s : State) : Host.Outcome State Fault Refusal :=
  localAtomic .min g d a 0#6 b (atomBytes w8) off s

def execAtlMax (g : Guard) (d a b : BitVec 6) (w8 : Bool) (off : BitVec 8) (s : State) : Host.Outcome State Fault Refusal :=
  localAtomic .max g d a 0#6 b (atomBytes w8) off s

def execAtlAnd (g : Guard) (d a b : BitVec 6) (w8 : Bool) (off : BitVec 8) (s : State) : Host.Outcome State Fault Refusal :=
  localAtomic .and g d a 0#6 b (atomBytes w8) off s

def execAtlOr (g : Guard) (d a b : BitVec 6) (w8 : Bool) (off : BitVec 8) (s : State) : Host.Outcome State Fault Refusal :=
  localAtomic .or g d a 0#6 b (atomBytes w8) off s

def execAtlXchg (g : Guard) (d a b : BitVec 6) (w8 : Bool) (off : BitVec 8) (s : State) : Host.Outcome State Fault Refusal :=
  localAtomic .xchg g d a 0#6 b (atomBytes w8) off s

def execAtlCas (g : Guard) (d a c b : BitVec 6) (w8 : Bool) (off : BitVec 8) (s : State) : Host.Outcome State Fault Refusal :=
  localAtomic .cas g d a c b (atomBytes w8) off s

/-- ATL.FADD: a 4-byte word, under the RM and FTZ of issue; its flags land in FLAGS6. -/
def execAtlFadd (g : Guard) (d a b : BitVec 6) (off : BitVec 8) (s : State) : Host.Outcome State Fault Refusal :=
  localAtomic .fadd g d a 0#6 b 4 off s

end Sys2Proof.Machine
end

