-- ==== Sys2Proof/Machine/Special.lean ====
section
/-! DEFINITION. The special functions on an f32 input (R162, R163). Where the manual fixes the result it is computed;
where it fixes only a bound, the device's value is free within that bound (log entry 4): the free value is taken if it
meets the bound, and a value that meets it otherwise. -/

namespace Sys2Proof.Machine

open Config (SpecialFn)

/-! ### Values in fixed point, with far more bits than any bound needs -/

/-- Fractional bits. -/
def fracBits : Nat := 160

def fixOne : Nat := 2 ^ fracBits

/-- 2^f for the fraction f of `n` bits left in `x`, by the chain of square roots of 2. -/
def exp2Digits : Nat → Nat → Nat → Nat → Nat
  | 0, _, _, acc => acc
  | n + 1, x, root, acc =>
    let root := Nat.sqrt (root * fixOne)
    exp2Digits n x root (if x.testBit n then acc * root / fixOne else acc)

/-- 2^x for x in units of 2^−160, as a mantissa in the same units and an exponent. -/
def exp2Fix (x : Int) : Nat × Int :=
  let i := x / (fixOne : Int)
  (exp2Digits fracBits (x - i * fixOne).toNat (2 * fixOne) fixOne, i)

/-- Bits of log2 of a value from 1 to 2, by repeated squaring. -/
def log2Digits : Nat → Nat → Nat → Nat
  | 0, _, acc => acc
  | n + 1, y, acc =>
    let y := y * y / fixOne
    if 2 * fixOne ≤ y then log2Digits n (y / 2) (2 * acc + 1) else log2Digits n y (2 * acc)

/-- log2 of m × 2^e in units of 2^−96. -/
def log2Fix (m : Nat) (e : Int) : Int :=
  let top := Nat.log2 m
  (e + top) * 2 ^ 96 + log2Digits 96 (m * fixOne / 2 ^ top) 0

/-- log2 of Euler's number in units of 2^−160. -/
def log2e : Nat := 0x171547652B82FE1777D0FFDA0D23A7D11D6AEF551

/-- tanh of the positive value m × 2^e, as a mantissa and exponent. -/
def tanhFix (m : Nat) (e : Int) : Nat × Int :=
  if Nat.log2 m + e < -12 then
    -- a (1 − a²/3 + 2 a⁴/15)
    let num : Int := 15 * 2 ^ (4 * (-e).toNat) - 5 * m ^ 2 * 2 ^ (2 * (-e).toNat) + 2 * m ^ 4
    ((m * num.toNat * fixOne / 15) / 2 ^ (4 * (-e).toNat), e - fracBits)
  else
    let x : Int := if 0 ≤ e then 2 * m * log2e * 2 ^ e.toNat else 2 * m * log2e / 2 ^ (-e).toNat
    let (v, i) := exp2Fix x
    let en := v * 2 ^ i.toNat
    ((en - fixOne) * fixOne / (en + fixOne), -(fracBits : Int))

/-! ### Bounds -/

/-- The exact value, positive, near which the result lies: mantissa and exponent. -/
def specialValue (fn : SpecialFn) (neg : Bool) (m : Nat) (e : Int) : Bool × Nat × Int :=
  match fn with
  | .exp2 =>
    let x : Int := if 0 ≤ e + fracBits then m * 2 ^ (e + fracBits).toNat else m / 2 ^ (-(e + fracBits)).toNat
    let (v, i) := exp2Fix (if neg then -x else x)
    (false, v, i - fracBits)
  | .log2 => let v := log2Fix m e; (decide (v < 0), v.natAbs, -96)
  | .rcp => (neg, 2 ^ 192 / m, -192 - e)
  | .rsq =>
    let odd : Nat := (e % 2).toNat
    (false, Nat.sqrt (2 ^ 384 / (m * 2 ^ odd)), -192 - (e - odd) / 2)
  | .tanh => let (v, i) := tanhFix m e; (neg, v, i)

/-- How many units in the last place a result may be away (R162). -/
def specialUlps : SpecialFn → Nat
  | .exp2 => 2
  | .log2 => 2
  | .rcp => 1
  | .rsq => 1
  | .tanh => 2

/-- Whether an f32 code lies within `k` units in the last place of the value m × 2^e (2 ^ −149 being the least unit). -/
def withinUlps (k : Nat) (neg : Bool) (m : Nat) (e : Int) (code : Nat) : Bool :=
  match fp32.decode code with
  | .fin n mc ec =>
    let unit : Int := max (Nat.log2 m + e - 23) (-149)
    let q := min (min e ec) unit
    let x : Int := FVal.scaled neg m e q
    let y : Int := FVal.scaled n mc ec q
    decide ((x - y).natAbs ≤ k * 2 ^ (unit - q).toNat) && (n == neg)
  | _ => false

/-- What R162 and R163 ask of a value beside its bound: a tanh of at most 1, and for |a| > 2^126 a reciprocal that is
subnormal or zero. -/
def specialLimit (fn : SpecialFn) (m : Nat) (e : Int) (code : Nat) : Bool :=
  match fn with
  | .tanh => decide (code % 2 ^ 31 ≤ 0x3F800000)
  | .rcp => decide ((Nat.log2 m : Int) + e < 126) || decide (code % 2 ^ 31 < 2 ^ 23)
  | _ => true

/-- The device's value within its bound: the free value where it meets the bound and the limits, else the value rounded
toward zero, which always does. -/
def specialCode (fn : SpecialFn) (bits : Nat) (neg : Bool) (m : Nat) (e : Int) : Nat :=
  let (n, vm, ve) := specialValue fn neg m e
  let free := (Config.special fn (BitVec.ofNat 32 bits)).toNat
  if withinUlps (specialUlps fn) n vm ve free && specialLimit fn m e free then free
  else (fp32.roundFin .rtz false n vm ve).1

/-! ### The functions -/

/-- Whether m is a power of two. -/
def isPow2 (m : Nat) : Bool := m != 0 && decide (2 ^ Nat.log2 m = m)

/-- An f32 result that is a value of the function before FTZ: its code and flags; FTZ then applies to it. A tiny result is a
subnormal one, or one with UF (R102, R103). -/
def ftzResult (ftz : Bool) (code : Nat) (flags : FlagSet) : Nat × FlagSet :=
  if ftz && ((decide (code % 2 ^ 31 < 2 ^ 23) && decide (code % 2 ^ 31 ≠ 0)) || flags &&& flagUF != 0#6) then
    (code / 2 ^ 31 * 2 ^ 31, flags ||| flagUF ||| flagNX)
  else (code, flags)

def f32NaN : Nat := 0x7FC00000
def f32Inf (neg : Bool) : Nat := if neg then 0xFF800000 else 0x7F800000
def f32Zero (neg : Bool) : Nat := if neg then 0x80000000 else 0
def f32One (neg : Bool) : Nat := if neg then 0xBF800000 else 0x3F800000

/-- An exact power of two as a result. -/
def exactPow (neg : Bool) (e : Int) : Nat × FlagSet := fp32.roundFin .rne false neg 1 e

/-- VEXP2 (R162, R163). -/
def exp2Fn (bits : Nat) : FVal → Nat × FlagSet
  | .nan => (f32NaN, 0)
  | .inf neg => (if neg then 0 else f32Inf false, 0)
  | .fin neg m e =>
    let x : Int := if neg then -(m : Int) else m
    let whole : Bool := decide (0 ≤ e) || decide (m % 2 ^ (-e).toNat = 0)
    let i : Int := if 0 ≤ e then x * 2 ^ e.toNat else x / 2 ^ (-e).toNat
    if m = 0 then (f32One false, 0)
    else if 128 ≤ i then (f32Inf false, flagOF ||| flagNX)
    else if whole && decide (-149 ≤ i) then exactPow false i
    else if i < -200 then
      (if withinUlps 2 false 1 (-400) (Config.special .exp2 (BitVec.ofNat 32 bits)).toNat then
        (Config.special .exp2 (BitVec.ofNat 32 bits)).toNat else 0, flagUF ||| flagNX)
    else (specialCode .exp2 bits neg m e, if i < -126 then flagUF ||| flagNX else flagNX)

/-- VLOG2. -/
def log2Fn (bits : Nat) : FVal → Nat × FlagSet
  | .nan => (f32NaN, 0)
  | .inf neg => if neg then (f32NaN, flagNV) else (f32Inf false, 0)
  | .fin neg m e =>
    if m = 0 then (f32Inf true, flagDZ)
    else if neg then (f32NaN, flagNV)
    else if isPow2 m then
      let k : Int := Nat.log2 m + e
      fp32.roundFin .rne false (decide (k < 0)) k.natAbs 0
    else (specialCode .log2 bits neg m e, flagNX)

/-- VRCP. -/
def rcpFn (bits : Nat) : FVal → Nat × FlagSet
  | .nan => (f32NaN, 0)
  | .inf neg => (f32Zero neg, 0)
  | .fin neg m e =>
    let top : Int := Nat.log2 m + e
    if m = 0 then (f32Inf neg, flagDZ)
    else if top < -128 || (isPow2 m && decide (top = -128)) then (f32Inf neg, flagOF ||| flagNX)
    else if isPow2 m then exactPow neg (-top)
    else (specialCode .rcp bits neg m e, if 126 ≤ top then flagUF ||| flagNX else flagNX)

/-- VRSQ. -/
def rsqFn (bits : Nat) : FVal → Nat × FlagSet
  | .nan => (f32NaN, 0)
  | .inf neg => if neg then (f32NaN, flagNV) else (0, 0)
  | .fin neg m e =>
    let top : Int := Nat.log2 m + e
    if m = 0 then (f32Inf neg, flagDZ)
    else if neg then (f32NaN, flagNV)
    else if isPow2 m && decide (top % 2 = 0) then exactPow false (-(top / 2))
    else (specialCode .rsq bits neg m e, flagNX)

/-- VSQRT, correctly rounded under RM. -/
def sqrtFn (rm : RMode) : FVal → Nat × FlagSet
  | .nan => (f32NaN, 0)
  | .inf neg => if neg then (f32NaN, flagNV) else (f32Inf false, 0)
  | .fin neg m e =>
    if m = 0 then (f32Zero neg, 0)
    else if neg then (f32NaN, flagNV)
    else fp32.round rm false (FVal.sqrtPos m e)

/-- VTANH: ±1 from 9.01 on. -/
def tanhFn (bits : Nat) : FVal → Nat × FlagSet
  | .nan => (f32NaN, 0)
  | .inf neg => (f32One neg, 0)
  | .fin neg m e =>
    if m = 0 then (f32Zero neg, 0)
    else if dyadicLe 901 0 (100 * m) e then (f32One neg, flagNX)
    else (specialCode .tanh bits neg m e, flagNX)

end Sys2Proof.Machine
end

