-- ==== Sys2Proof/Machine/Vector.lean ====
section
/-! DEFINITION. The vector slots, VX and VY (R151 to R167). A result carries the row bits it writes, those of the
lanes its guard leaves on; with no lane on, nothing is written or raised. -/

namespace Sys2Proof.Machine

/-- The slot index of VX or VY. -/
def vectorSlot (u : Bool) : Nat := if u then 4 else 3

/-- A row result at +lat: lane i of n lanes of w bits is `(f i).1`, with the flags `(f i).2`, where the guard is on. -/
def Ctx.vecOut (x : Ctx) (u : Bool) (g : Guard) (lat w n : Nat) (d : BitVec 8) (f : Nat → Nat × FlagSet) : Ctx :=
  let on := x.guardMask g &&& lowPred n
  if on = 0#1024 then x
  else x.push (vectorSlot u) lat (joinFlags on (fun i => (f i).2) n)
    (.row (x.rowName d) (laneMask w n on) (rowOf w n fun i => if on.getLsbD i then (f i).1 else 0))

/-- A lane-wise form of type T. -/
def vecMap (u : Bool) (g : Guard) (lat : Nat) (d : BitVec 8) (t : VType) (f : Ctx → Nat → Nat × FlagSet) (s : State) :
    Host.Outcome State Fault Refusal :=
  .next (s.onCore fun c => c.onCtx fun x => x.vecOut u g lat t.width t.lanes d (f x))

/-- A lane-wise form that raises no flag. -/
def vecMove (u : Bool) (g : Guard) (lat : Nat) (d : BitVec 8) (t : VType) (f : Ctx → Nat → Nat) (s : State) :
    Host.Outcome State Fault Refusal :=
  vecMap u g lat d t (fun x i => (f x i, 0#6)) s

/-! ### Lane arithmetic (R154) -/

/-- A lane read as a value of its type, with FTZ. -/
def laneValue (t : VType) (ftz : Bool) (a : Nat) : FVal :=
  match vfmt t with
  | some f => f.read ftz a
  | none => FVal.ofInt (signedOf 32 a)

/-- A float form rounded once, or an i32 form modulo 2^32. -/
def laneArith (t : VType) (x : Ctx) (ff : FVal × Bool) (fi : Nat) : Nat × FlagSet :=
  match vfmt t with
  | some f => roundResult f x.fmt.rm x.ftz ff
  | none => (fi % 2 ^ 32, 0#6)

/-- VMIN and VMAX of a lane: a float operand after FTZ, exact; i32 signed. -/
def lanePick (t : VType) (ftz : Bool) (pick : FVal → FVal → FVal) (a b : Nat) : Nat :=
  match vfmt t with
  | some f => (f.round .rne false (pick (f.read ftz a) (f.read ftz b))).1
  | none =>
    match pick (FVal.ofInt (signedOf 32 a)) (FVal.ofInt (signedOf 32 b)) with
    | .fin neg m _ => wrapInt 32 (if neg then -(m : Int) else m)
    | _ => 0

/-- VABS: the sign bit cleared, or |a| modulo 2^32. -/
def laneAbs (t : VType) (a : Nat) : Nat :=
  match vfmt t with
  | some f => a % 2 ^ (f.ebits + f.mbits)
  | none => wrapInt 32 (signedOf 32 a).natAbs

/-- VNEG: the sign bit inverted, or 0 − a. -/
def laneNeg (t : VType) (a : Nat) : Nat :=
  match vfmt t with
  | some f => a ^^^ 2 ^ (f.ebits + f.mbits)
  | none => wrapInt 32 (-(a : Int))

def execVadd (u : Bool) (g : Guard) (d a b : BitVec 8) (t : VType) (s : State) : Host.Outcome State Fault Refusal :=
  vecMap u g 3 d t (fun x i =>
    let p := laneOf t (x.getV a) i
    let q := laneOf t (x.getV b) i
    laneArith t x ((laneValue t x.ftz p).add x.fmt.rm (laneValue t x.ftz q)) (p + q)) s

def execVsub (u : Bool) (g : Guard) (d a b : BitVec 8) (t : VType) (s : State) : Host.Outcome State Fault Refusal :=
  vecMap u g 3 d t (fun x i =>
    let p := laneOf t (x.getV a) i
    let q := laneOf t (x.getV b) i
    laneArith t x ((laneValue t x.ftz p).add x.fmt.rm (laneValue t x.ftz q).neg) (p + 2 ^ 32 - q)) s

def execVmul (u : Bool) (g : Guard) (d a b : BitVec 8) (t : VType) (s : State) : Host.Outcome State Fault Refusal :=
  vecMap u g 5 d t (fun x i =>
    let p := laneOf t (x.getV a) i
    let q := laneOf t (x.getV b) i
    laneArith t x ((laneValue t x.ftz p).mul (laneValue t x.ftz q)) (p * q)) s

def execVfma (u : Bool) (g : Guard) (d a b : BitVec 8) (t : VType) (c : BitVec 8) (s : State) :
    Host.Outcome State Fault Refusal :=
  vecMap u g 5 d t (fun x i =>
    let p := laneOf t (x.getV a) i
    let q := laneOf t (x.getV b) i
    let r := laneOf t (x.getV c) i
    laneArith t x (fusedValue x.fmt.rm (laneValue t x.ftz p) (laneValue t x.ftz q) (laneValue t x.ftz r)) (p * q + r)) s

def execVfms (u : Bool) (g : Guard) (d a b : BitVec 8) (t : VType) (c : BitVec 8) (s : State) :
    Host.Outcome State Fault Refusal :=
  vecMap u g 5 d t (fun x i =>
    let p := laneOf t (x.getV a) i
    let q := laneOf t (x.getV b) i
    let r := laneOf t (x.getV c) i
    laneArith t x (fusedValue x.fmt.rm (laneValue t x.ftz p) (laneValue t x.ftz q) (laneValue t x.ftz r).neg) (p * q + 2 ^ 32 - r)) s

def execVmin (u : Bool) (g : Guard) (d a b : BitVec 8) (t : VType) (s : State) : Host.Outcome State Fault Refusal :=
  vecMove u g 3 d t (fun x i => lanePick t x.ftz lesser (laneOf t (x.getV a) i) (laneOf t (x.getV b) i)) s

def execVmax (u : Bool) (g : Guard) (d a b : BitVec 8) (t : VType) (s : State) : Host.Outcome State Fault Refusal :=
  vecMove u g 3 d t (fun x i => lanePick t x.ftz greater (laneOf t (x.getV a) i) (laneOf t (x.getV b) i)) s

def execVabs (u : Bool) (g : Guard) (d a : BitVec 8) (t : VType) (s : State) : Host.Outcome State Fault Refusal :=
  vecMove u g 2 d t (fun x i => laneAbs t (laneOf t (x.getV a) i)) s

def execVneg (u : Bool) (g : Guard) (d a : BitVec 8) (t : VType) (s : State) : Host.Outcome State Fault Refusal :=
  vecMove u g 2 d t (fun x i => laneNeg t (laneOf t (x.getV a) i)) s

def execVand (u : Bool) (g : Guard) (d a b : BitVec 8) (t : VType) (s : State) : Host.Outcome State Fault Refusal :=
  vecMove u g 2 d t (fun x i => (laneOf t (x.getV a) i) &&& (laneOf t (x.getV b) i)) s

def execVor (u : Bool) (g : Guard) (d a b : BitVec 8) (t : VType) (s : State) : Host.Outcome State Fault Refusal :=
  vecMove u g 2 d t (fun x i => (laneOf t (x.getV a) i) ||| (laneOf t (x.getV b) i)) s

def execVxor (u : Bool) (g : Guard) (d a b : BitVec 8) (t : VType) (s : State) : Host.Outcome State Fault Refusal :=
  vecMove u g 2 d t (fun x i => (laneOf t (x.getV a) i) ^^^ (laneOf t (x.getV b) i)) s

/-- Lane shifts of i32 by an unsigned count; 32 and above clear or fill. -/
def laneShl (a n : Nat) : Nat := if 32 ≤ n then 0 else a * 2 ^ n % 2 ^ 32
def laneShr (a n : Nat) : Nat := if 32 ≤ n then 0 else a / 2 ^ n
def laneSar (a n : Nat) : Nat := wrapInt 32 (signedOf 32 a / 2 ^ (min n 31) : Int)

def execVshl (u : Bool) (g : Guard) (d a b : BitVec 8) (t : VType) (s : State) : Host.Outcome State Fault Refusal :=
  vecMove u g 3 d t (fun x i => laneShl (laneOf t (x.getV a) i) (laneOf t (x.getV b) i)) s

def execVshr (u : Bool) (g : Guard) (d a b : BitVec 8) (t : VType) (s : State) : Host.Outcome State Fault Refusal :=
  vecMove u g 3 d t (fun x i => laneShr (laneOf t (x.getV a) i) (laneOf t (x.getV b) i)) s

def execVsar (u : Bool) (g : Guard) (d a b : BitVec 8) (t : VType) (s : State) : Host.Outcome State Fault Refusal :=
  vecMove u g 3 d t (fun x i => laneSar (laneOf t (x.getV a) i) (laneOf t (x.getV b) i)) s

/-! ### Compares and selection (R155) -/

/-- A compare writes the guard-true bits below N and clears those from N up; with no guard-true lane it writes
nothing (log entry 12). -/
def vecCompare (u : Bool) (g : Guard) (pd : BitVec 5) (a b : BitVec 8) (t : VType) (f : FVal → FVal → Bool) (s : State) :
    Host.Outcome State Fault Refusal :=
  .next (s.onCore fun c => c.onCtx fun x =>
    let on := x.guardMask g &&& lowPred t.lanes
    if on = 0#1024 then x
    else
      let v := predOf t.lanes fun i =>
        on.getLsbD i && f (laneValue t x.ftz (laneOf t (x.getV a) i)) (laneValue t x.ftz (laneOf t (x.getV b) i))
      x.push (vectorSlot u) 3 0#6 (.p (physPred x.rrb pd) (on ||| ~~~lowPred t.lanes) v))

def execVcmpeq (u : Bool) (g : Guard) (pd : BitVec 5) (a b : BitVec 8) (t : VType) (s : State) :
    Host.Outcome State Fault Refusal :=
  vecCompare u g pd a b t FVal.eq s

def execVcmplt (u : Bool) (g : Guard) (pd : BitVec 5) (a b : BitVec 8) (t : VType) (s : State) :
    Host.Outcome State Fault Refusal :=
  vecCompare u g pd a b t FVal.lt s

def execVcmple (u : Bool) (g : Guard) (pd : BitVec 5) (a b : BitVec 8) (t : VType) (s : State) :
    Host.Outcome State Fault Refusal :=
  vecCompare u g pd a b t (fun a b => a.lt b || a.eq b) s

def execVsel (u : Bool) (g : Guard) (d a b : BitVec 8) (t : VType) (ps : BitVec 5) (s : State) :
    Host.Outcome State Fault Refusal :=
  vecMove u g 2 d t (fun x i => if (x.getP ps).getLsbD i then laneOf t (x.getV a) i else laneOf t (x.getV b) i) s

/-! ### Moves (R156, R157) -/

def execVmov (u : Bool) (g : Guard) (d a : BitVec 8) (t : VType) (s : State) : Host.Outcome State Fault Refusal :=
  vecMove u g 2 d t (fun x i => laneOf t (x.getV a) i) s

def execVbcast (u : Bool) (g : Guard) (d : BitVec 8) (t : VType) (ss : BitVec 6) (s : State) : Host.Outcome State Fault Refusal :=
  vecMove u g 2 d t (fun x _ => (x.getS ss).toNat % 2 ^ t.width) s

/-- VIOTA: i in type T; bf16 rounds it. -/
def execViota (u : Bool) (g : Guard) (d : BitVec 8) (t : VType) (s : State) : Host.Outcome State Fault Refusal :=
  vecMap u g 2 d t (fun x i => laneArith t x (FVal.ofInt i, false) i) s

/-- The lane that VEXT writes to a scalar. -/
def extractLane (t : VType) (r : Row) (i : Nat) : Word :=
  if t.lanes ≤ i then 0#64
  else if t = .i32 then BitVec.ofInt 64 (signedOf 32 (laneOf t r i))
  else BitVec.ofNat 64 (laneOf t r i)

/-- VEXT writes a scalar: bit 0 of the guard counts, and its result stands in slot 3 or 4. -/
def execVext (u : Bool) (g : Guard) (sd : BitVec 6) (a : BitVec 8) (si : BitVec 6) (t : VType) (s : State) :
    Host.Outcome State Fault Refusal :=
  guarded g s fun c => c.onCtx fun x =>
    x.push (vectorSlot u) 2 0#6 (.s sd (extractLane t (x.getV a) (x.getS si).toNat))

/-- VINS writes one lane, if its guard bit is on. -/
def execVins (u : Bool) (g : Guard) (d : BitVec 8) (sv si : BitVec 6) (t : VType) (s : State) :
    Host.Outcome State Fault Refusal :=
  .next (s.onCore fun c => c.onCtx fun x =>
    let i := (x.getS si).toNat
    if t.lanes ≤ i then x
    else if (x.guardMask g).getLsbD i then
      x.push (vectorSlot u) 2 0#6 (.row (x.rowName d)
        (BitVec.ofNat 16384 ((2 ^ t.width - 1) * 2 ^ (t.width * i)))
        (BitVec.ofNat 16384 ((x.getS sv).toNat % 2 ^ t.width * 2 ^ (t.width * i))))
    else x)

/-! ### Lane shifts and permutes (R158) -/

/-- Lane j of a row, zero outside its lanes. -/
def laneOr0 (t : VType) (r : Row) (j : Int) : Nat := if 0 ≤ j ∧ j < t.lanes then laneOf t r j.toNat else 0

def execVlsh (u : Bool) (g : Guard) (d a : BitVec 8) (t : VType) (ss : BitVec 6) (s : State) : Host.Outcome State Fault Refusal :=
  vecMove u g 3 d t (fun x i => laneOr0 t (x.getV a) (i + (x.getS ss).toInt)) s

def execVlshd (u : Bool) (g : Guard) (d a b : BitVec 8) (t : VType) (ss : BitVec 6) (s : State) : Host.Outcome State Fault Refusal :=
  vecMove u g 3 d t (fun x i =>
    let j := i + (x.getS ss).toNat
    if j < t.lanes then laneOf t (x.getV a) j else laneOr0 t (x.getV b) (j - t.lanes)) s

def execVperm (u : Bool) (g : Guard) (d a b : BitVec 8) (t : VType) (s : State) : Host.Outcome State Fault Refusal :=
  vecMove u g 3 d t (fun x i => laneOr0 t (x.getV a) (laneOf t (x.getV b) i)) s

/-! ### Reductions and scans (R159, R160) -/

/-- A lane as it enters a sum: widened to f32 for a float type, which is exact; i32 as it is. -/
def widen (t : VType) (ftz : Bool) (a : Nat) : Nat :=
  match vfmt t with
  | some f => (fp32.round .rne false (f.read ftz a)).1
  | none => a

/-- The sum step: an f32 sum rounded under RM, or an i32 sum. -/
def sumStep (t : VType) (x : Ctx) (a b : Nat) : Nat × FlagSet :=
  match vfmt t with
  | some _ => roundResult fp32 x.fmt.rm x.ftz ((fp32.read x.ftz a).add x.fmt.rm (fp32.read x.ftz b))
  | none => ((a + b) % 2 ^ 32, 0#6)

/-- A sum as it is written: rounded once more to a 16-bit type. -/
def narrow (t : VType) (x : Ctx) (a : Nat) : Nat × FlagSet :=
  match t with
  | .f16 => fp16.round x.fmt.rm x.ftz (fp32.decode a)
  | .bf16 => bf16.round x.fmt.rm x.ftz (fp32.decode a)
  | _ => (a, 0#6)

/-- A node of the tree; none is ABSENT. -/
abbrev TreeNode := Option (Nat × FlagSet)

def joinNodes (f : Nat → Nat → Nat × FlagSet) : TreeNode → TreeNode → TreeNode
  | none, y => y
  | x, none => x
  | some x, some y => let r := f x.1 y.1; some (r.1, r.2 ||| x.2 ||| y.2)

/-- One level of the tree. -/
def treeLevel (f : Nat → Nat → Nat × FlagSet) : List TreeNode → List TreeNode
  | x :: y :: t => joinNodes f x y :: treeLevel f t
  | l => l

def treeFold (f : Nat → Nat → Nat × FlagSet) : Nat → List TreeNode → TreeNode
  | 0, l => l.headD none
  | n + 1, l => treeFold f n (treeLevel f l)

/-- The levels of the tree: 9 for 32-bit types, 10 for 16-bit ones. -/
def treeDepth (t : VType) : Nat := if t.is32 then 9 else 10

/-- Level 0: the guard-true lanes. -/
def treeLeaves (t : VType) (on : Pred) (f : Nat → Nat) : List TreeNode :=
  (List.range t.lanes).map fun i => if on.getLsbD i then some (f i, 0#6) else none

/-- A reduction writes its result to every guard-true lane. -/
def vecReduce (u : Bool) (g : Guard) (d a : BitVec 8) (t : VType) (leaf : Ctx → Nat → Nat)
    (step : Ctx → Nat → Nat → Nat × FlagSet) (out : Ctx → Nat → Nat × FlagSet) (s : State) :
    Host.Outcome State Fault Refusal :=
  .next (s.onCore fun c => c.onCtx fun x =>
    let on := x.guardMask g &&& lowPred t.lanes
    match treeFold (step x) (treeDepth t) (treeLeaves t on fun i => leaf x (laneOf t (x.getV a) i)) with
    | none => x
    | some r => let v := out x r.1; x.vecOut u g 8 t.width t.lanes d fun _ => (v.1, v.2 ||| r.2))

def execVredadd (u : Bool) (g : Guard) (d a : BitVec 8) (t : VType) (s : State) : Host.Outcome State Fault Refusal :=
  vecReduce u g d a t (fun x => widen t x.ftz) (sumStep t) (narrow t) s

/-- One lane as VMAX or VMIN leaves it. -/
def pickLeaf (t : VType) (x : Ctx) (a : Nat) : Nat := lanePick t x.ftz greater a a

def execVredmax (u : Bool) (g : Guard) (d a : BitVec 8) (t : VType) (s : State) : Host.Outcome State Fault Refusal :=
  vecReduce u g d a t (pickLeaf t) (fun x p q => (lanePick t x.ftz greater p q, 0#6)) (fun _ v => (v, 0#6)) s

def execVredmin (u : Bool) (g : Guard) (d a : BitVec 8) (t : VType) (s : State) : Host.Outcome State Fault Refusal :=
  vecReduce u g d a t (pickLeaf t) (fun x p q => (lanePick t x.ftz lesser p q, 0#6)) (fun _ v => (v, 0#6)) s

/-- The running sums of the guard-true lanes, from lane 0 up: what each writes, in order. -/
def scanLanes (t : VType) (x : Ctx) (on : Pred) (lane : Nat → Nat) : List Nat → TreeNode → List (Nat × FlagSet)
  | [], _ => []
  | i :: is, acc =>
    if on.getLsbD i then
      let v := widen t x.ftz (lane i)
      let r : Nat × FlagSet := match acc with | none => (v, 0#6) | some p => sumStep t x p.1 v
      let o := narrow t x r.1
      (o.1, o.2 ||| r.2) :: scanLanes t x on lane is (some r)
    else (0, 0#6) :: scanLanes t x on lane is acc

def execVscan (u : Bool) (g : Guard) (d a : BitVec 8) (t : VType) (s : State) : Host.Outcome State Fault Refusal :=
  .next (s.onCore fun c => c.onCtx fun x =>
    let on := x.guardMask g &&& lowPred t.lanes
    let l := scanLanes t x on (laneOf t (x.getV a)) (List.range t.lanes) none
    x.vecOut u g 10 t.width t.lanes d fun i => l.getD i (0, 0#6))

/-! ### Conversions, packing and unpacking (R161) -/

/-- A lane of type T converted to TD (R103). -/
def convertLane (t td : VType) (x : Ctx) (a : Nat) : Nat × FlagSet :=
  match vfmt td with
  | some f => f.round x.fmt.rm x.ftz (laneValue t x.ftz a)
  | none => let r := toIntSat 32 x.fmt.rm (laneValue t x.ftz a); (wrapInt 32 r.1, r.2)

def execVcvt (u : Bool) (g : Guard) (d a : BitVec 8) (t td : VType) (s : State) : Host.Outcome State Fault Refusal :=
  vecMap u g 3 d td (fun x i => if i < t.lanes then convertLane t td x (laneOf t (x.getV a) i) else (0, 0#6)) s

def execVpack (u : Bool) (g : Guard) (d a b : BitVec 8) (t td : VType) (s : State) : Host.Outcome State Fault Refusal :=
  vecMap u g 3 d td (fun x i =>
    convertLane t td x (if i < 512 then laneOf t (x.getV a) i else laneOf t (x.getV b) (i - 512))) s

def execVunpk (u : Bool) (g : Guard) (d a : BitVec 8) (t td : VType) (h : Bool) (s : State) : Host.Outcome State Fault Refusal :=
  vecMap u g 3 d td (fun x i => convertLane t td x (laneOf t (x.getV a) (i + (if h then 512 else 0)))) s

/-! ### Special functions (R162, R163) -/

/-- A function on f32 applied to a lane: FTZ on the input in T; for f32 on the result, else one more rounding to T. -/
def specialLane (t : VType) (x : Ctx) (fn : Nat → FVal → Nat × FlagSet) (a : Nat) : Nat × FlagSet :=
  match vfmt t with
  | none => (0, 0#6)
  | some f =>
    let v := f.read x.ftz a
    let r := fn (fp32.round .rne false v).1 v
    if t = .f32 then ftzResult x.ftz r.1 r.2
    else
      let o := f.round x.fmt.rm x.ftz (fp32.decode r.1)
      (o.1, o.2 ||| r.2)

def execVexp2 (u : Bool) (g : Guard) (d a : BitVec 8) (t : VType) (s : State) : Host.Outcome State Fault Refusal :=
  vecMap u g 9 d t (fun x i => specialLane t x exp2Fn (laneOf t (x.getV a) i)) s

def execVlog2 (u : Bool) (g : Guard) (d a : BitVec 8) (t : VType) (s : State) : Host.Outcome State Fault Refusal :=
  vecMap u g 9 d t (fun x i => specialLane t x log2Fn (laneOf t (x.getV a) i)) s

def execVrcp (u : Bool) (g : Guard) (d a : BitVec 8) (t : VType) (s : State) : Host.Outcome State Fault Refusal :=
  vecMap u g 9 d t (fun x i => specialLane t x rcpFn (laneOf t (x.getV a) i)) s

def execVrsq (u : Bool) (g : Guard) (d a : BitVec 8) (t : VType) (s : State) : Host.Outcome State Fault Refusal :=
  vecMap u g 9 d t (fun x i => specialLane t x rsqFn (laneOf t (x.getV a) i)) s

def execVsqrt (u : Bool) (g : Guard) (d a : BitVec 8) (t : VType) (s : State) : Host.Outcome State Fault Refusal :=
  vecMap u g 9 d t (fun x i => specialLane t x (fun _ => sqrtFn x.fmt.rm) (laneOf t (x.getV a) i)) s

def execVtanh (u : Bool) (g : Guard) (d a : BitVec 8) (t : VType) (s : State) : Host.Outcome State Fault Refusal :=
  vecMap u g 9 d t (fun x i => specialLane t x tanhFn (laneOf t (x.getV a) i)) s

/-! ### Quantised rows (R112, R113, R164 to R166) -/

/-- One block: its scale byte, its eight codes and its flags. -/
def quantBlock (f : FloatFmt) (rm : RMode) (xs : List (Bool × FVal)) : Nat × List Nat × FlagSet :=
  if xs.any fun p => p.2.isNan || p.2.isInf then
    (0xFF, xs.map fun p => if p.1 then 8 else 0,
      (if xs.any fun p => p.2.isNan then flagNV else 0#6) ||| (if xs.any fun p => p.2.isInf then flagOF else 0#6))
  else if xs.all fun p => p.2.isZero then (0, xs.map fun _ => 0, 0#6)
  else
    let amax := xs.foldl (fun acc p =>
      match acc, p.2 with
      | (m, e), .fin _ m' e' => if dyadicLe m e m' e' then (m', e') else (m, e)
      | acc, _ => acc) ((0, -(f.bias : Int)) : Nat × Int)
    let sc := quantScale amax.1 amax.2
    let code := sc.getD 0xFE
    let unit := (e3m5 code).getD (32, -5)
    let qs := xs.map fun p =>
      match p.2 with
      | .fin n m e => if m = 0 then (if n then 8 else 0, 0#6)
        else e2m1.round rm false (FVal.quot n m e unit.1 unit.2)
      | _ => (0, 0#6)
    (code, qs.map Prod.fst,
      (if qs.any fun q => decide (q.2.toNat ≠ 0) then flagNX else 0#6) ||| (if sc.isNone then flagOF else 0#6))

/-- Whether any guard bit of block j is on. -/
def blockOn (on : Pred) (j : Nat) : Bool := (List.range 8).any fun m => on.getLsbD (8 * j + m)

/-- The lanes of block j as VQUANT reads them: a guard-false element is +0. -/
def blockLanes (t : VType) (f : FloatFmt) (ftz : Bool) (on : Pred) (r : Row) (j : Nat) : List (Bool × FVal) :=
  (List.range 8).map fun m =>
    let a := laneOf t r (8 * j + m)
    if on.getLsbD (8 * j + m) then (a.testBit (f.ebits + f.mbits), f.read ftz a) else (false, .fin false 0 0)

/-- The code bytes, scale bytes and zero bytes of R164. -/
def Ctx.quantise (x : Ctx) (u : Bool) (g : Guard) (d a : BitVec 8) (t : VType) : Ctx :=
  match vfmt t with
  | none => x
  | some f =>
    let blocks := t.lanes / 8
    let on := x.guardMask g &&& lowPred t.lanes
    if on = 0#1024 then x
    else
      let q : Nat → Nat × List Nat × FlagSet := fun j =>
        if blockOn on j then quantBlock f x.fmt.rm (blockLanes t f x.ftz on (x.getV a) j) else (0, [], 0#6)
      let codes := packNat 32 (fun j => packNat 4 (fun m => (q j).2.1.getD m 0) 8) blocks
      let scales := packNat 8 (fun j => (q j).1) blocks
      let low := 32 * blocks
      let high := 40 * blocks
      let mask := packNat 32 (fun j => if blockOn on j then 2 ^ 32 - 1 else 0) blocks
        + packNat 8 (fun j => if blockOn on j then 255 else 0) blocks * 2 ^ low + (2 ^ 16384 - 2 ^ high)
      x.push (vectorSlot u) 7 (joinFlags (BitVec.allOnes 1024) (fun j => (q j).2.2) blocks)
        (.row (x.rowName d) (BitVec.ofNat 16384 mask) (BitVec.ofNat 16384 (codes + scales * 2 ^ low)))

/-- VQUANT, Steel only: a bundle holding it migrates from Bronze, whatever its guard (R165). -/
def execVquant (u : Bool) (g : Guard) (d a : BitVec 8) (t : VType) (s : State) : Host.Outcome State Fault Refusal :=
  .next (if isSteel s.core.id then s.onCore fun c => c.onCtx fun x => x.quantise u g d a t
    else s.raise .migrate (vectorSlot u))

/-- A lane of VDEQ: a code times its block's scale, exact. -/
def dequantLane (t : VType) (r : Row) (i : Nat) : Nat :=
  match vfmt t with
  | none => 0
  | some f =>
    let code := digit 4 r.toNat i
    match e3m5 (digit 8 (r.toNat / 2 ^ (4 * t.lanes)) (i / 8)), e2m1.decode code with
    | some (ms, es), .fin n m e => (f.round .rne false (.fin n (m * ms) (e + es))).1
    | _, _ => f.nanCode

def execVdeq (u : Bool) (g : Guard) (d a : BitVec 8) (t : VType) (s : State) : Host.Outcome State Fault Refusal :=
  vecMove u g 5 d t (fun x i => dequantLane t (x.getV a) i) s

end Sys2Proof.Machine
end

