-- ==== Sys2Proof/Machine/Profile.lean ====
section
/-! DEFINITION. What the issue of a bundle asks of each operation: its weight (R58, R59), the registers it reads
(R87), the queues it pops (R299), whether it makes an entry in the engine-queue buffer (R277), the counter event that
it is (R397), and its issue-time check (R69 step 4). -/

namespace Sys2Proof.Machine

/-- A register that an operation reads. -/
inductive Rd
  | s (n : BitVec 6)
  | p (n : BitVec 5)
  | v (n : BitVec 8)
  | acc (n : BitVec 12)
  deriving DecidableEq, Repr

/-- A pop of a queue: by a beat, or by a push. -/
structure Pop where
  q    : BitVec 2
  beat : Option BeatKind
  deriving DecidableEq, Repr

/-- `lanes` is the lane count of a vector form, none where bit 0 of the guard decides. -/
structure Profile where
  eu    : Nat
  lanes : Option Nat
  reads : List Rd
  pops  : List Pop
  entry : Bool
  event : Nat
  deriving DecidableEq, Repr

/-- A beat is weighed by its FC. -/
def beatEu : ElemFmt → Nat
  | .e2m1 => 44
  | .bf16 => 36
  | .fp16 => 36
  | .e4m3 => 40
  | .e5m2 => 40
  | .int8 => 40

/-- A fused push adds the weight of MPUSH. -/
def pushEu : Option (BitVec 2 × BitVec 9) → Nat
  | none => 0
  | some _ => 6

def pushPops : Option (BitVec 2 × BitVec 9) → List Pop
  | none => []
  | some (p, _) => [⟨p, none⟩]

/-- The six registers of a box. -/
def boxReads (n : BitVec 6) : List Rd := (List.range 6).map fun i => .s (n + BitVec.ofNat 6 i)

/-- The profile of an operation; an event is none. -/
def profile : Instr → Profile
  | .bundleIssue => ⟨0, none, [], [], false, 0⟩
  | .energyStretch => ⟨0, none, [], [], false, 0⟩
  | .budgetRefill => ⟨0, none, [], [], false, 0⟩
  | .staticCharge => ⟨0, none, [], [], false, 0⟩
  | .resultLand => ⟨0, none, [], [], false, 0⟩
  | .landing => ⟨0, none, [], [], false, 0⟩
  | .lateDataArrival => ⟨0, none, [], [], false, 0⟩
  | .fetchArrival => ⟨0, none, [], [], false, 0⟩
  | .codePageLoad => ⟨0, none, [], [], false, 0⟩
  | .bodyPublish _ _ _ => ⟨0, none, [], [], false, 0⟩
  | .nop => ⟨0, none, [], [], false, 0⟩
  | .br _ _ => ⟨1, none, [], [], false, 0⟩
  | .bri _ a => ⟨1, none, [.s a], [], false, 0⟩
  | .call _ _ => ⟨1, none, [], [], false, 0⟩
  | .calli _ a => ⟨1, none, [.s a], [], false, 0⟩
  | .ret _ => ⟨1, none, [.s 62#6], [], false, 0⟩
  | .loop _ _ _ _ => ⟨1, none, [], [], false, 0⟩
  | .loopr _ _ _ a => ⟨1, none, [.s a], [], false, 0⟩
  | .lbrk _ _ => ⟨1, none, [], [], false, 0⟩
  | .mark _ _ => ⟨0, none, [], [], false, 0⟩
  | .trap _ _ => ⟨1, none, [], [], false, 0⟩
  | .yield _ => ⟨1, none, [], [], false, 0⟩
  | .commit _ => ⟨1, none, [], [], false, 0⟩
  | .endt _ => ⟨1, none, [], [], false, 0⟩
  | .taskDrainEnd => ⟨0, none, [], [], false, 0⟩
  | .waitc _ _ => ⟨0, none, [], [], false, 0⟩
  | .cbar _ => ⟨1, none, [], [], false, 0⟩
  | .barrierComplete => ⟨0, none, [], [], false, 0⟩
  | .trapret _ => ⟨1, none, [.s 60#6], [], false, 0⟩
  | .idle _ => ⟨0, none, [], [], false, 0⟩
  | .idleTimeout => ⟨0, none, [], [], false, 0⟩
  | .add _ _ _ a b => ⟨1, none, [.s a, .s b], [], false, 0⟩
  | .sub _ _ _ a b => ⟨1, none, [.s a, .s b], [], false, 0⟩
  | .addi _ _ _ a _ => ⟨1, none, [.s a], [], false, 0⟩
  | .mul _ _ _ a b => ⟨2, none, [.s a, .s b], [], false, 0⟩
  | .mulh _ _ _ a b => ⟨2, none, [.s a, .s b], [], false, 0⟩
  | .mulhu _ _ _ a b => ⟨2, none, [.s a, .s b], [], false, 0⟩
  | .and _ _ _ a b => ⟨1, none, [.s a, .s b], [], false, 0⟩
  | .or _ _ _ a b => ⟨1, none, [.s a, .s b], [], false, 0⟩
  | .xor _ _ _ a b => ⟨1, none, [.s a, .s b], [], false, 0⟩
  | .andn _ _ _ a b => ⟨1, none, [.s a, .s b], [], false, 0⟩
  | .shl _ _ _ a b => ⟨1, none, [.s a, .s b], [], false, 0⟩
  | .shr _ _ _ a b => ⟨1, none, [.s a, .s b], [], false, 0⟩
  | .sar _ _ _ a b => ⟨1, none, [.s a, .s b], [], false, 0⟩
  | .shli _ _ _ a _ => ⟨1, none, [.s a], [], false, 0⟩
  | .shri _ _ _ a _ => ⟨1, none, [.s a], [], false, 0⟩
  | .sari _ _ _ a _ => ⟨1, none, [.s a], [], false, 0⟩
  | .min _ _ _ a b => ⟨1, none, [.s a, .s b], [], false, 0⟩
  | .max _ _ _ a b => ⟨1, none, [.s a, .s b], [], false, 0⟩
  | .minu _ _ _ a b => ⟨1, none, [.s a, .s b], [], false, 0⟩
  | .maxu _ _ _ a b => ⟨1, none, [.s a, .s b], [], false, 0⟩
  | .clz _ _ _ a => ⟨1, none, [.s a], [], false, 0⟩
  | .popc _ _ _ a => ⟨1, none, [.s a], [], false, 0⟩
  | .movi _ _ _ _ => ⟨1, none, [], [], false, 0⟩
  | .movhi _ _ d _ => ⟨1, none, [.s d], [], false, 0⟩
  | .shadd _ _ _ a b _ => ⟨1, none, [.s a, .s b], [], false, 0⟩
  | .sel _ _ _ a b ps => ⟨1, none, [.s a, .s b, .p ps], [], false, 0⟩
  | .extu _ _ _ a _ _ => ⟨1, none, [.s a], [], false, 0⟩
  | .cmpeq _ _ _ a b => ⟨1, none, [.s a, .s b], [], false, 0⟩
  | .cmpne _ _ _ a b => ⟨1, none, [.s a, .s b], [], false, 0⟩
  | .cmplt _ _ _ a b => ⟨1, none, [.s a, .s b], [], false, 0⟩
  | .cmple _ _ _ a b => ⟨1, none, [.s a, .s b], [], false, 0⟩
  | .cmpltu _ _ _ a b => ⟨1, none, [.s a, .s b], [], false, 0⟩
  | .cmpleu _ _ _ a b => ⟨1, none, [.s a, .s b], [], false, 0⟩
  | .cmpeqi _ _ _ a _ => ⟨1, none, [.s a], [], false, 0⟩
  | .cmplti _ _ _ a _ => ⟨1, none, [.s a], [], false, 0⟩
  | .pand _ _ _ pa pb => ⟨1, none, [.p pa, .p pb], [], false, 0⟩
  | .por _ _ _ pa pb => ⟨1, none, [.p pa, .p pb], [], false, 0⟩
  | .pxor _ _ _ pa pb => ⟨1, none, [.p pa, .p pb], [], false, 0⟩
  | .pandn _ _ _ pa pb => ⟨1, none, [.p pa, .p pb], [], false, 0⟩
  | .pnot _ _ _ pa => ⟨1, none, [.p pa], [], false, 0⟩
  | .pmov _ _ _ pa => ⟨1, none, [.p pa], [], false, 0⟩
  | .psetn _ _ _ a => ⟨1, none, [.s a], [], false, 0⟩
  | .pany _ _ _ pa pb => ⟨1, none, [.p pa, .p pb], [], false, 0⟩
  | .pall _ _ _ pa pb => ⟨1, none, [.p pa, .p pb], [], false, 0⟩
  | .fadd _ _ _ a b => ⟨2, none, [.s a, .s b], [], false, 0⟩
  | .fsub _ _ _ a b => ⟨2, none, [.s a, .s b], [], false, 0⟩
  | .fmul _ _ _ a b => ⟨2, none, [.s a, .s b], [], false, 0⟩
  | .ffma _ _ _ a b c => ⟨2, none, [.s a, .s b, .s c], [], false, 0⟩
  | .fmin _ _ _ a b => ⟨2, none, [.s a, .s b], [], false, 0⟩
  | .fmax _ _ _ a b => ⟨2, none, [.s a, .s b], [], false, 0⟩
  | .fcmplt _ _ _ a b => ⟨2, none, [.s a, .s b], [], false, 0⟩
  | .fcmpeq _ _ _ a b => ⟨2, none, [.s a, .s b], [], false, 0⟩
  | .fcvtfi _ _ _ a => ⟨2, none, [.s a], [], false, 0⟩
  | .fcvtif _ _ _ a => ⟨2, none, [.s a], [], false, 0⟩
  | .rdsys _ _ _ _ => ⟨1, none, [], [], false, 0⟩
  | .wrsys _ _ a _ => ⟨1, none, [.s a], [], false, 0⟩
  | .rddst _ _ _ => ⟨1, none, [], [], false, 0⟩
  | .vadd _ _ _ a b t => ⟨8, (some t.lanes), [.v a, .v b], [], false, 0⟩
  | .vsub _ _ _ a b t => ⟨8, (some t.lanes), [.v a, .v b], [], false, 0⟩
  | .vmul _ _ _ a b t => ⟨12, (some t.lanes), [.v a, .v b], [], false, 0⟩
  | .vfma _ _ _ a b t c => ⟨14, (some t.lanes), [.v a, .v b, .v c], [], false, 0⟩
  | .vfms _ _ _ a b t c => ⟨14, (some t.lanes), [.v a, .v b, .v c], [], false, 0⟩
  | .vmin _ _ _ a b t => ⟨8, (some t.lanes), [.v a, .v b], [], false, 0⟩
  | .vmax _ _ _ a b t => ⟨8, (some t.lanes), [.v a, .v b], [], false, 0⟩
  | .vabs _ _ _ a t => ⟨5, (some t.lanes), [.v a], [], false, 0⟩
  | .vneg _ _ _ a t => ⟨5, (some t.lanes), [.v a], [], false, 0⟩
  | .vand _ _ _ a b t => ⟨5, (some t.lanes), [.v a, .v b], [], false, 0⟩
  | .vor _ _ _ a b t => ⟨5, (some t.lanes), [.v a, .v b], [], false, 0⟩
  | .vxor _ _ _ a b t => ⟨5, (some t.lanes), [.v a, .v b], [], false, 0⟩
  | .vshl _ _ _ a b t => ⟨8, (some t.lanes), [.v a, .v b], [], false, 0⟩
  | .vshr _ _ _ a b t => ⟨8, (some t.lanes), [.v a, .v b], [], false, 0⟩
  | .vsar _ _ _ a b t => ⟨8, (some t.lanes), [.v a, .v b], [], false, 0⟩
  | .vcmpeq _ _ _ a b t => ⟨8, (some t.lanes), [.v a, .v b], [], false, 0⟩
  | .vcmplt _ _ _ a b t => ⟨8, (some t.lanes), [.v a, .v b], [], false, 0⟩
  | .vcmple _ _ _ a b t => ⟨8, (some t.lanes), [.v a, .v b], [], false, 0⟩
  | .vsel _ _ _ a b t ps => ⟨5, (some t.lanes), [.v a, .v b, .p ps], [], false, 0⟩
  | .vmov _ _ _ a t => ⟨5, (some t.lanes), [.v a], [], false, 0⟩
  | .vbcast _ _ _ t ss => ⟨5, (some t.lanes), [.s ss], [], false, 0⟩
  | .viota _ _ _ t => ⟨5, (some t.lanes), [], [], false, 0⟩
  | .vlsh _ _ _ a t ss => ⟨6, (some t.lanes), [.v a, .s ss], [], false, 0⟩
  | .vlshd _ _ _ a b t ss => ⟨6, (some t.lanes), [.v a, .v b, .s ss], [], false, 0⟩
  | .vperm _ _ _ a b t => ⟨6, (some t.lanes), [.v a, .v b], [], false, 0⟩
  | .vext _ _ _ a si _ => ⟨5, none, [.v a, .s si], [], false, 0⟩
  | .vins _ _ _ sv si t => ⟨5, (some t.lanes), [.s sv, .s si], [], false, 0⟩
  | .vredadd _ _ _ a t => ⟨10, (some t.lanes), [.v a], [], false, 0⟩
  | .vredmax _ _ _ a t => ⟨10, (some t.lanes), [.v a], [], false, 0⟩
  | .vredmin _ _ _ a t => ⟨10, (some t.lanes), [.v a], [], false, 0⟩
  | .vscan _ _ _ a t => ⟨12, (some t.lanes), [.v a], [], false, 0⟩
  | .vcvt _ _ _ a _ td => ⟨8, (some td.lanes), [.v a], [], false, 0⟩
  | .vpack _ _ _ a b _ td => ⟨8, (some td.lanes), [.v a, .v b], [], false, 0⟩
  | .vunpk _ _ _ a _ td _ => ⟨8, (some td.lanes), [.v a], [], false, 0⟩
  | .vexp2 _ _ _ a t => ⟨12, (some t.lanes), [.v a], [], false, 0⟩
  | .vlog2 _ _ _ a t => ⟨12, (some t.lanes), [.v a], [], false, 0⟩
  | .vrcp _ _ _ a t => ⟨12, (some t.lanes), [.v a], [], false, 0⟩
  | .vrsq _ _ _ a t => ⟨12, (some t.lanes), [.v a], [], false, 0⟩
  | .vsqrt _ _ _ a t => ⟨12, (some t.lanes), [.v a], [], false, 0⟩
  | .vtanh _ _ _ a t => ⟨12, (some t.lanes), [.v a], [], false, 0⟩
  | .vquant _ _ _ a t => ⟨16, (some t.lanes), [.v a], [], false, 0⟩
  | .vdeq _ _ _ a t => ⟨10, (some t.lanes), [.v a], [], false, 0⟩
  | .mpush _ q _ => ⟨6, none, [], [⟨q, none⟩], false, 0⟩
  | .msel _ => ⟨1, none, [], [], false, 0⟩
  | .mshift _ _ => ⟨3, none, [], [], false, 0⟩
  | .macc _ _ q fc push => ⟨(beatEu fc + pushEu push), none, [], (⟨q, some .dense⟩ :: pushPops push), false, 5⟩
  | .maccz _ _ q fc push => ⟨(beatEu fc + pushEu push), none, [], (⟨q, some .dense⟩ :: pushPops push), false, 5⟩
  | .maccs _ _ q push => ⟨(30 + pushEu push), none, [], (⟨q, some .sparse⟩ :: pushPops push), false, 5⟩
  | .mdrain _ acc _ sb _ => ⟨10, none, [.acc acc, .s sb], [], false, 0⟩
  | .mdrainz _ acc _ sb _ => ⟨10, none, [.acc acc, .s sb], [], false, 0⟩
  | .mzero _ _ => ⟨4, none, [], [], false, 0⟩
  | .ldv _ _ b _ => ⟨6, none, [.s (b.setWidth 6)], [], false, 0⟩
  | .stv _ v b _ => ⟨6, none, [.v v, .s (b.setWidth 6)], [], false, 0⟩
  | .lds _ _ _ b _ => ⟨1, none, [.s (b.setWidth 6)], [], false, 0⟩
  | .sts _ d _ b _ => ⟨1, none, [.s d, .s (b.setWidth 6)], [], false, 0⟩
  | .ldvx _ _ x b _ _ => ⟨8, none, [.v x, .s (b.setWidth 6)], [], false, 0⟩
  | .stvx _ v x b _ _ => ⟨8, none, [.v v, .v x, .s (b.setWidth 6)], [], false, 0⟩
  | .ldvb _ _ b _ => ⟨4, none, [.s (b.setWidth 6)], [], false, 0⟩
  | .atlAdd _ _ a b _ _ => ⟨2, none, [.s a, .s b], [], false, 0⟩
  | .atlMin _ _ a b _ _ => ⟨2, none, [.s a, .s b], [], false, 0⟩
  | .atlMax _ _ a b _ _ => ⟨2, none, [.s a, .s b], [], false, 0⟩
  | .atlAnd _ _ a b _ _ => ⟨2, none, [.s a, .s b], [], false, 0⟩
  | .atlOr _ _ a b _ _ => ⟨2, none, [.s a, .s b], [], false, 0⟩
  | .atlXchg _ _ a b _ _ => ⟨2, none, [.s a, .s b], [], false, 0⟩
  | .atlCas _ _ a c b _ _ => ⟨2, none, [.s a, .s c, .s b], [], false, 0⟩
  | .atlFadd _ _ a b _ => ⟨2, none, [.s a, .s b], [], false, 0⟩
  | .ldg _ _ b _ _ _ _ => ⟨2, none, [.s b], [], true, 6⟩
  | .ldgv _ _ b _ _ _ => ⟨8, none, [.s b], [], true, 6⟩
  | .stg _ d b _ _ _ => ⟨2, none, [.s d, .s b], [], true, 0⟩
  | .stgv _ v b _ _ => ⟨8, none, [.v v, .s b], [], true, 0⟩
  | .atgAdd _ d b _ _ _ _ _ => ⟨3, none, [.s d, .s b], [], true, 6⟩
  | .atgFadd _ d b _ _ _ _ => ⟨3, none, [.s d, .s b], [], true, 6⟩
  | .atgMin _ d b _ _ _ _ _ => ⟨3, none, [.s d, .s b], [], true, 6⟩
  | .atgMax _ d b _ _ _ _ _ => ⟨3, none, [.s d, .s b], [], true, 6⟩
  | .atgAnd _ d b _ _ _ _ _ => ⟨3, none, [.s d, .s b], [], true, 6⟩
  | .atgOr _ d b _ _ _ _ _ => ⟨3, none, [.s d, .s b], [], true, 6⟩
  | .atgXor _ d b _ _ _ _ _ => ⟨3, none, [.s d, .s b], [], true, 6⟩
  | .atgXchg _ d b _ _ _ _ _ => ⟨3, none, [.s d, .s b], [], true, 6⟩
  | .atgCas _ d b _ _ _ _ _ => ⟨3, none, [.s d, .s (d + 1), .s b], [], true, 6⟩
  | .arrive _ a b _ _ => ⟨2, none, [.s a, .s b], [], true, 0⟩
  | .waitv _ a b _ _ _ _ => ⟨2, none, [.s a, .s b], [], true, 0⟩
  | .waitvSatisfied _ => ⟨0, none, [], [], false, 0⟩
  | .waitvBoundExpiry => ⟨0, none, [], [], false, 0⟩
  | .cpy _ _ d sr n _ _ => ⟨2, none, [.s d, .s sr, .s n], [], true, 0⟩
  | .cpyo _ _ d sr n _ _ => ⟨2, none, [.s d, .s sr, .s n, .s (n + 1)], [], true, 0⟩
  | .cpyt _ _ d sr n _ _ => ⟨2, none, ([.s d, .s sr] ++ boxReads n), [], true, 0⟩
  | .cpyg _ _ sr _ => ⟨2, none, [.s sr], [], true, 0⟩
  | .fence _ _ _ => ⟨1, none, [], [], true, 0⟩
  | .qfence _ _ => ⟨1, none, [], [], true, 0⟩
  | .rfence _ => ⟨1, none, [], [], false, 0⟩
  | .spawn _ a b _ => ⟨2, none, [.s a, .s b], [], true, 0⟩
  | .depend _ a b => ⟨2, none, [.s a, .s b], [], false, 0⟩
  | .signal _ a b => ⟨2, none, [.s a, .s b], [], true, 0⟩
  | .hsplit _ _ _ _ _ sp => ⟨2, none, [.s sp], [], false, 0⟩
  | .hrejoin _ _ _ _ => ⟨2, none, [], [], false, 0⟩
  | .hmov _ _ _ => ⟨2, none, [], [], false, 0⟩
  | .hput _ _ sb => ⟨2, none, [.s sb], [], false, 0⟩
  | .htake _ _ _ sb _ => ⟨2, none, [.s sb], [], false, 0⟩
  | .htakeBoundExpiry => ⟨0, none, [], [], false, 0⟩
  | .handleDepositWake _ => ⟨0, none, [], [], false, 0⟩
  | .hld _ _ sa sb => ⟨4, none, [.s sa, .s sb], [], false, 0⟩
  | .hst _ _ sa sb => ⟨4, none, [.s sa, .s sb], [], false, 0⟩
  | .hinfo _ _ _ _ => ⟨2, none, [], [], false, 0⟩
  | .handleStep => ⟨0, none, [], [], false, 0⟩
  | .tlbinv _ a b => ⟨2, none, [.s a, .s b], [], true, 0⟩
  | .cachewb _ a b => ⟨2, none, [.s a, .s b], [], true, 0⟩
  | .cacheinv _ a b => ⟨2, none, [.s a, .s b], [], true, 0⟩
  | .tfa _ _ t c _ => ⟨4, none, ([.s t] ++ boxReads c), [], false, 0⟩
  | .tfb _ _ t c _ => ⟨4, none, ([.s t] ++ boxReads c), [], false, 0⟩
  | .tfh _ _ _ c _ => ⟨4, none, ([] ++ boxReads c), [], false, 0⟩
  | .tfx _ _ => ⟨1, none, [], [], false, 0⟩
  | .tfRowArrival _ => ⟨0, none, [], [], false, 0⟩
  | .setfmt _ _ _ _ _ => ⟨1, none, [], [], false, 0⟩
  | .ldsct _ _ b _ => ⟨2, none, [.s (b.setWidth 6)], [], false, 0⟩
  | .setband _ _ src _ => ⟨1, none, [.s src], [], false, 0⟩
  | .setrnd _ _ => ⟨1, none, [], [], false, 0⟩
  | .clrflg _ _ _ => ⟨1, none, [], [], false, 0⟩
  | .entryPerform _ => ⟨0, none, [], [], false, 0⟩
  | .copyPerform _ => ⟨0, none, [], [], false, 0⟩
  | .qfenceLeave _ => ⟨0, none, [], [], false, 0⟩
  | .commitLine _ => ⟨0, none, [], [], false, 0⟩
  | .commitComplete => ⟨0, none, [], [], false, 0⟩
  | .pageWalk _ _ => ⟨0, none, [], [], false, 0⟩
  | .pageIn _ _ => ⟨0, none, [], [], false, 0⟩
  | .shootdown _ _ _ => ⟨0, none, [], [], false, 0⟩
  | .pinDropTimeout _ => ⟨0, none, [], [], false, 0⟩
  | .nodeFinish _ => ⟨0, none, [], [], false, 0⟩
  | .taskPlace _ => ⟨0, none, [], [], false, 0⟩
  | .launchComplete _ => ⟨0, none, [], [], false, 0⟩
  | .launchFault => ⟨0, none, [], [], false, 0⟩
  | .gangSuspend => ⟨0, none, [], [], false, 0⟩
  | .softStop => ⟨0, none, [], [], false, 0⟩
  | .hardStop => ⟨0, none, [], [], false, 0⟩
  | .sliceEnd _ => ⟨0, none, [], [], false, 0⟩
  | .tspanExpiry _ => ⟨0, none, [], [], false, 0⟩
  | .graceExpiry _ => ⟨0, none, [], [], false, 0⟩
  | .tenantDrained _ => ⟨0, none, [], [], false, 0⟩
  | .imageSpill => ⟨0, none, [], [], false, 0⟩
  | .launch _ => ⟨0, none, [], [], false, 0⟩
  | .copy _ => ⟨0, none, [], [], false, 0⟩
  | .waitevent _ => ⟨0, none, [], [], false, 0⟩
  | .signalevent _ => ⟨0, none, [], [], false, 0⟩
  | .resizeack _ => ⟨0, none, [], [], false, 0⟩
  | .map _ => ⟨0, none, [], [], false, 0⟩
  | .unmap _ => ⟨0, none, [], [], false, 0⟩
  | .unsupportedPacket _ _ => ⟨0, none, [], [], false, 0⟩
  | .unregisteredSend _ => ⟨0, none, [], [], false, 0⟩
  | .hostUetWrite _ _ _ _ => ⟨0, none, [], [], false, 0⟩
  | .hostUetRead _ _ _ _ => ⟨0, none, [], [], false, 0⟩
  | .peerAck _ => ⟨0, none, [], [], false, 0⟩
  | .peerArrival _ _ _ => ⟨0, none, [], [], false, 0⟩
  | .partcreate _ => ⟨0, none, [], [], false, 0⟩
  | .partresize _ => ⟨0, none, [], [], false, 0⟩
  | .resizeApply _ => ⟨0, none, [], [], false, 0⟩
  | .partdestroy _ => ⟨0, none, [], [], false, 0⟩
  | .vdevcreate _ => ⟨0, none, [], [], false, 0⟩
  | .vdevset _ => ⟨0, none, [], [], false, 0⟩
  | .tenantDisabled _ => ⟨0, none, [], [], false, 0⟩
  | .queuecreate _ => ⟨0, none, [], [], false, 0⟩
  | .queuedestroy _ => ⟨0, none, [], [], false, 0⟩
  | .energy _ => ⟨0, none, [], [], false, 0⟩
  | .summary _ => ⟨0, none, [], [], false, 0⟩
  | .attest _ => ⟨0, none, [], [], false, 0⟩
  | .alarmset _ => ⟨0, none, [], [], false, 0⟩
  | .queuereset _ => ⟨0, none, [], [], false, 0⟩
  | .watchdogExpiry _ _ => ⟨0, none, [], [], false, 0⟩
  | .alarm _ => ⟨0, none, [], [], false, 0⟩
  | .alarmClear => ⟨0, none, [], [], false, 0⟩
  | .powerOn => ⟨0, none, [], [], false, 0⟩
  | .eccError _ _ _ => ⟨0, none, [], [], false, 0⟩
  | .patrolScrub _ => ⟨0, none, [], [], false, 0⟩
  | .rowSpare _ _ => ⟨0, none, [], [], false, 0⟩
  | .pageRetire _ _ _ _ => ⟨0, none, [], [], false, 0⟩
  | .dbgarm _ => ⟨0, none, [], [], false, 0⟩
  | .dbgstop _ => ⟨0, none, [], [], false, 0⟩
  | .debugStop _ => ⟨0, none, [], [], false, 0⟩
  | .dbgresume _ => ⟨0, none, [], [], false, 0⟩
  | .trace _ => ⟨0, none, [], [], false, 0⟩
  | .counters _ => ⟨0, none, [], [], false, 0⟩
  | .pcSample => ⟨0, none, [], [], false, 0⟩
  | .freezeRecord => ⟨0, none, [], [], false, 0⟩
  | .traceHeadAdvance _ => ⟨0, none, [], [], false, 0⟩
  | .replay _ => ⟨0, none, [], [], false, 0⟩
  | .checkpoint _ => ⟨0, none, [], [], false, 0⟩
  | .replayHalt _ => ⟨0, none, [], [], false, 0⟩
  | .tileAccessPerform _ => ⟨0, none, [], [], false, 0⟩
  | .peerTimeout _ => ⟨0, none, [], [], false, 0⟩
  | .peerReadResponse _ _ => ⟨0, none, [], [], false, 0⟩
  | .linkLevelRetry _ => ⟨0, none, [], [], false, 0⟩
  | .bufferSlotReturn _ _ => ⟨0, none, [], [], false, 0⟩
  | .retrieverInjection _ _ _ => ⟨0, none, [], [], false, 0⟩

/-- An operation that takes an entry of the landing-slot table (R88, R90). -/
def takesLanding : Instr → Bool
  | .ldg _ _ _ _ _ _ _ => true
  | .ldgv _ _ _ _ _ _ => true
  | .atgAdd _ _ _ _ _ _ _ _ => true
  | .atgFadd _ _ _ _ _ _ _ => true
  | .atgMin _ _ _ _ _ _ _ _ => true
  | .atgMax _ _ _ _ _ _ _ _ => true
  | .atgAnd _ _ _ _ _ _ _ _ => true
  | .atgOr _ _ _ _ _ _ _ _ => true
  | .atgXor _ _ _ _ _ _ _ _ => true
  | .atgXchg _ _ _ _ _ _ _ _ => true
  | .atgCas _ _ _ _ _ _ _ _ => true
  | .waitv _ _ _ _ _ _ _ => true
  | .tfa _ _ _ _ _ => true
  | .tfb _ _ _ _ _ => true
  | .tfh _ _ _ _ _ => true
  | _ => false

/-- The check that an operation makes at issue, beyond the scoreboard. -/
def issueCheck (s : State) : Instr → Option Trap
  | .bundleIssue => none
  | .energyStretch => none
  | .budgetRefill => none
  | .staticCharge => none
  | .resultLand => none
  | .landing => none
  | .lateDataArrival => none
  | .fetchArrival => none
  | .codePageLoad => none
  | .bodyPublish _ _ _ => none
  | .nop => none
  | .br _ _ => none
  | .bri _ a => checkBri a s.core
  | .call _ _ => none
  | .calli _ a => checkBri a s.core
  | .ret _ => checkBri 62#6 s.core
  | .loop _ _ _ _ => none
  | .loopr _ _ _ _ => none
  | .lbrk _ _ => none
  | .mark _ _ => none
  | .trap _ _ => none
  | .yield _ => none
  | .commit _ => none
  | .endt _ => none
  | .taskDrainEnd => none
  | .waitc _ _ => none
  | .cbar _ => none
  | .barrierComplete => none
  | .trapret _ => checkTrapret s.core
  | .idle _ => none
  | .idleTimeout => none
  | .add _ _ _ _ _ => none
  | .sub _ _ _ _ _ => none
  | .addi _ _ _ _ _ => none
  | .mul _ _ _ _ _ => none
  | .mulh _ _ _ _ _ => none
  | .mulhu _ _ _ _ _ => none
  | .and _ _ _ _ _ => none
  | .or _ _ _ _ _ => none
  | .xor _ _ _ _ _ => none
  | .andn _ _ _ _ _ => none
  | .shl _ _ _ _ _ => none
  | .shr _ _ _ _ _ => none
  | .sar _ _ _ _ _ => none
  | .shli _ _ _ _ _ => none
  | .shri _ _ _ _ _ => none
  | .sari _ _ _ _ _ => none
  | .min _ _ _ _ _ => none
  | .max _ _ _ _ _ => none
  | .minu _ _ _ _ _ => none
  | .maxu _ _ _ _ _ => none
  | .clz _ _ _ _ => none
  | .popc _ _ _ _ => none
  | .movi _ _ _ _ => none
  | .movhi _ _ _ _ => none
  | .shadd _ _ _ _ _ _ => none
  | .sel _ _ _ _ _ _ => none
  | .extu _ _ _ _ _ _ => none
  | .cmpeq _ _ _ _ _ => none
  | .cmpne _ _ _ _ _ => none
  | .cmplt _ _ _ _ _ => none
  | .cmple _ _ _ _ _ => none
  | .cmpltu _ _ _ _ _ => none
  | .cmpleu _ _ _ _ _ => none
  | .cmpeqi _ _ _ _ _ => none
  | .cmplti _ _ _ _ _ => none
  | .pand _ _ _ _ _ => none
  | .por _ _ _ _ _ => none
  | .pxor _ _ _ _ _ => none
  | .pandn _ _ _ _ _ => none
  | .pnot _ _ _ _ => none
  | .pmov _ _ _ _ => none
  | .psetn _ _ _ _ => none
  | .pany _ _ _ _ _ => none
  | .pall _ _ _ _ _ => none
  | .fadd _ _ _ _ _ => none
  | .fsub _ _ _ _ _ => none
  | .fmul _ _ _ _ _ => none
  | .ffma _ _ _ _ _ _ => none
  | .fmin _ _ _ _ _ => none
  | .fmax _ _ _ _ _ => none
  | .fcmplt _ _ _ _ _ => none
  | .fcmpeq _ _ _ _ _ => none
  | .fcvtfi _ _ _ _ => none
  | .fcvtif _ _ _ _ => none
  | .rdsys _ _ _ _ => none
  | .wrsys _ _ _ _ => none
  | .rddst _ _ _ => none
  | .vadd _ _ _ _ _ _ => none
  | .vsub _ _ _ _ _ _ => none
  | .vmul _ _ _ _ _ _ => none
  | .vfma _ _ _ _ _ _ _ => none
  | .vfms _ _ _ _ _ _ _ => none
  | .vmin _ _ _ _ _ _ => none
  | .vmax _ _ _ _ _ _ => none
  | .vabs _ _ _ _ _ => none
  | .vneg _ _ _ _ _ => none
  | .vand _ _ _ _ _ _ => none
  | .vor _ _ _ _ _ _ => none
  | .vxor _ _ _ _ _ _ => none
  | .vshl _ _ _ _ _ _ => none
  | .vshr _ _ _ _ _ _ => none
  | .vsar _ _ _ _ _ _ => none
  | .vcmpeq _ _ _ _ _ _ => none
  | .vcmplt _ _ _ _ _ _ => none
  | .vcmple _ _ _ _ _ _ => none
  | .vsel _ _ _ _ _ _ _ => none
  | .vmov _ _ _ _ _ => none
  | .vbcast _ _ _ _ _ => none
  | .viota _ _ _ _ => none
  | .vlsh _ _ _ _ _ _ => none
  | .vlshd _ _ _ _ _ _ _ => none
  | .vperm _ _ _ _ _ _ => none
  | .vext _ _ _ _ _ _ => none
  | .vins _ _ _ _ _ _ => none
  | .vredadd _ _ _ _ _ => none
  | .vredmax _ _ _ _ _ => none
  | .vredmin _ _ _ _ _ => none
  | .vscan _ _ _ _ _ => none
  | .vcvt _ _ _ _ _ _ => none
  | .vpack _ _ _ _ _ _ _ => none
  | .vunpk _ _ _ _ _ _ _ => none
  | .vexp2 _ _ _ _ _ => none
  | .vlog2 _ _ _ _ _ => none
  | .vrcp _ _ _ _ _ => none
  | .vrsq _ _ _ _ _ => none
  | .vsqrt _ _ _ _ _ => none
  | .vtanh _ _ _ _ _ => none
  | .vquant _ _ _ _ _ => none
  | .vdeq _ _ _ _ _ => none
  | .mpush _ _ _ => none
  | .msel _ => none
  | .mshift _ _ => none
  | .macc _ _ _ _ _ => none
  | .maccz _ _ _ _ _ => none
  | .maccs _ _ _ _ => none
  | .mdrain _ _ df sb off => drainCheck df sb off s.core
  | .mdrainz _ _ df sb off => drainCheck df sb off s.core
  | .mzero _ _ => none
  | .ldv _ _ b off => lsCheck b off.toNat 2048 64 s.core
  | .stv _ _ b off => lsCheck b off.toNat 2048 64 s.core
  | .lds _ _ w b off => lsCheck b off.toNat w.bytes w.bytes s.core
  | .sts _ _ w b off => lsCheck b off.toNat w.bytes w.bytes s.core
  | .ldvx _ _ x b w off => elemCheck b off x w.bytes s.core
  | .stvx _ _ x b w off => elemCheck b off x w.bytes s.core
  | .ldvb _ _ b off => lsCheck b off.toNat 64 64 s.core
  | .atlAdd _ _ _ b w8 off => atlCheck b off (atomBytes w8) s.core
  | .atlMin _ _ _ b w8 off => atlCheck b off (atomBytes w8) s.core
  | .atlMax _ _ _ b w8 off => atlCheck b off (atomBytes w8) s.core
  | .atlAnd _ _ _ b w8 off => atlCheck b off (atomBytes w8) s.core
  | .atlOr _ _ _ b w8 off => atlCheck b off (atomBytes w8) s.core
  | .atlXchg _ _ _ b w8 off => atlCheck b off (atomBytes w8) s.core
  | .atlCas _ _ _ _ b w8 off => atlCheck b off (atomBytes w8) s.core
  | .atlFadd _ _ _ b off => atlCheck b off 4 s.core
  | .ldg _ _ b w _ _ _ => loadCheck b w.bytes s.core
  | .ldgv _ _ b _ _ _ => loadCheck b 64 s.core
  | .stg _ _ b w _ _ => globalCheck b w.bytes s.core
  | .stgv _ _ b _ _ => globalCheck b 64 s.core
  | .atgAdd _ _ b w8 _ _ _ _ => loadCheck b (atomBytes w8) s.core
  | .atgFadd _ _ b _ _ _ _ => loadCheck b 4 s.core
  | .atgMin _ _ b w8 _ _ _ _ => loadCheck b (atomBytes w8) s.core
  | .atgMax _ _ b w8 _ _ _ _ => loadCheck b (atomBytes w8) s.core
  | .atgAnd _ _ b w8 _ _ _ _ => loadCheck b (atomBytes w8) s.core
  | .atgOr _ _ b w8 _ _ _ _ => loadCheck b (atomBytes w8) s.core
  | .atgXor _ _ b w8 _ _ _ _ => loadCheck b (atomBytes w8) s.core
  | .atgXchg _ _ b w8 _ _ _ _ => loadCheck b (atomBytes w8) s.core
  | .atgCas _ _ b w8 _ _ _ _ => loadCheck b (atomBytes w8) s.core
  | .arrive _ _ b _ _ => globalCheck b 8 s.core
  | .waitv _ _ b _ _ _ _ => loadCheck b 8 s.core
  | .waitvSatisfied _ => none
  | .waitvBoundExpiry => none
  | .cpy _ _ d sr n lc _ => copyCheck (s.core.ctx.getS d) (s.core.ctx.getS sr) (s.core.copyLen n) lc s.core
  | .cpyo _ _ d sr n lc _ => cpyoCheck d sr n lc s.core
  | .cpyt _ _ d sr _ _ _ => cpytCheck d sr s.core
  | .cpyg _ _ sr _ => globalCheck sr 64 s.core
  | .fence _ _ _ => none
  | .qfence _ _ => none
  | .rfence _ => none
  | .spawn _ _ b hm => spawnCheck s.handleKey b hm s.core
  | .depend _ _ _ => none
  | .signal _ _ _ => none
  | .hsplit _ h1 h2 h3 _ _ => hsplitCheck s.handleKey h1 h2 h3 s.core
  | .hrejoin _ h1 h2 h3 => hrejoinCheck h1 h2 h3 s
  | .hmov _ h1 h2 => hmovCheck s.handleKey h1 h2 s.core
  | .hput _ h1 sb => hputCheck s.handleKey h1 sb s.core
  | .htake _ h1 _ sb _ => htakeCheck h1 sb s.core
  | .htakeBoundExpiry => none
  | .handleDepositWake _ => none
  | .hld _ h1 sa _ => tileCheck s.handleKey h1 sa s.core
  | .hst _ h1 sa _ => tileCheck s.handleKey h1 sa s.core
  | .hinfo _ h1 _ _ => hinfoCheck s.handleKey h1 s.core
  | .handleStep => none
  | .tlbinv _ _ _ => none
  | .cachewb _ _ _ => none
  | .cacheinv _ _ _ => none
  | .tfa _ q t _ _ => tileFetchCheck q t s.core
  | .tfb _ q t _ _ => tileFetchCheck q t s.core
  | .tfh _ q h _ _ => tileHandleCheck s.handleKey q h s.core
  | .tfx _ _ => none
  | .tfRowArrival _ => none
  | .setfmt _ _ _ _ _ => none
  | .ldsct _ _ b off => ldsctCheck b off s.core
  | .setband _ _ _ _ => none
  | .setrnd _ _ => none
  | .clrflg _ _ _ => none
  | .entryPerform _ => none
  | .copyPerform _ => none
  | .qfenceLeave _ => none
  | .commitLine _ => none
  | .commitComplete => none
  | .pageWalk _ _ => none
  | .pageIn _ _ => none
  | .shootdown _ _ _ => none
  | .pinDropTimeout _ => none
  | .nodeFinish _ => none
  | .taskPlace _ => none
  | .launchComplete _ => none
  | .launchFault => none
  | .gangSuspend => none
  | .softStop => none
  | .hardStop => none
  | .sliceEnd _ => none
  | .tspanExpiry _ => none
  | .graceExpiry _ => none
  | .tenantDrained _ => none
  | .imageSpill => none
  | .launch _ => none
  | .copy _ => none
  | .waitevent _ => none
  | .signalevent _ => none
  | .resizeack _ => none
  | .map _ => none
  | .unmap _ => none
  | .unsupportedPacket _ _ => none
  | .unregisteredSend _ => none
  | .hostUetWrite _ _ _ _ => none
  | .hostUetRead _ _ _ _ => none
  | .peerAck _ => none
  | .peerArrival _ _ _ => none
  | .partcreate _ => none
  | .partresize _ => none
  | .resizeApply _ => none
  | .partdestroy _ => none
  | .vdevcreate _ => none
  | .vdevset _ => none
  | .tenantDisabled _ => none
  | .queuecreate _ => none
  | .queuedestroy _ => none
  | .energy _ => none
  | .summary _ => none
  | .attest _ => none
  | .alarmset _ => none
  | .queuereset _ => none
  | .watchdogExpiry _ _ => none
  | .alarm _ => none
  | .alarmClear => none
  | .powerOn => none
  | .eccError _ _ _ => none
  | .patrolScrub _ => none
  | .rowSpare _ _ => none
  | .pageRetire _ _ _ _ => none
  | .dbgarm _ => none
  | .dbgstop _ => none
  | .debugStop _ => none
  | .dbgresume _ => none
  | .trace _ => none
  | .counters _ => none
  | .pcSample => none
  | .freezeRecord => none
  | .traceHeadAdvance _ => none
  | .replay _ => none
  | .checkpoint _ => none
  | .replayHalt _ => none
  | .tileAccessPerform _ => none
  | .peerTimeout _ => none
  | .peerReadResponse _ _ => none
  | .linkLevelRetry _ => none
  | .bufferSlotReturn _ _ => none
  | .retrieverInjection _ _ _ => none

end Sys2Proof.Machine
end

