-- ==== Sys2Proof/Machine/Issue.lean ====
section
/-! DEFINITION. The issue of a bundle (R69): its fetch (R411, R412), its stop test (R391), the seven steps, and the
freezes that stand before it (R92 to R94). The operations of an issued bundle wait in `Core.issuing`; the step that
issues the bundle runs them in slot order. -/

namespace Sys2Proof.Machine

/-! ### Frozen clocks (R92) -/

/-- The higher of two codes (R94). -/
def codeMax (a b : BitVec 4) : BitVec 4 := if a.toNat < b.toNat then b else a

/-- The context at the next bundle, and whether a back edge was taken (R122, R126). A TRAPRET in the last bundle of a body, which R128 does
not list, has its delay bundle after it and no back-edge test (log entry 62). -/
def Ctx.nextBundle (x : Ctx) : Ctx × Bool :=
  match x.redirect with
  | some t => ({ x with pc := t, redirect := none }, false)
  | none => if x.delayTarget.isSome then ({ x with pc := x.pc + 1 }, false) else x.backTest 4

/-- The bundle that will issue next: after an issued bundle, the one that follows it. -/
def Core.nextPc (c : Core) : BitVec 58 := if c.phase = .issued then c.ctx.nextBundle.1.pc else c.ctx.pc

/-- A clock of the core that steps passes, with its stall code and the bundle that a sample of it names (R396). -/
def State.clockAs (s : State) (pc : BitVec 58) (cycle : Word) (code : BitVec 4) : State :=
  let t := s.core.time
  s.clock.onCore fun c => { c with last := ⟨t, pc, cycle, code⟩ }

/-- A freeze ends: its record is due while interlock tracing is armed, with the highest code of its clocks (R94, R395). -/
def Core.thaw (c : Core) : Core :=
  if c.froze = 0 then { c with freeze := 0#4 }
  else
    { c with
      freeze := 0#4, froze := 0, worst := 0#4, lateFrom := none
      ended := if c.ctx.armed then some (c.worst, c.froze) else c.ended }

/-! ### Fetch (R343, R344, R346, R411, R412) -/

/-- What a fetch meets. -/
inductive Fetch
  | fault (t : Trap) (detail : Nat)
  | wait
  | bundle (b : BitVec 512)
  deriving DecidableEq, Repr

/-- The place of an address in the code of a tenant: a page of a loaded .text, or a stub or body of the code heap. -/
inductive CodePlace
  | none
  | page (st : PageState) (index : Nat)
  | published
  | unpublished
  deriving DecidableEq, Repr

def CodeObj.holds (o : CodeObj) (sp : Space) (va : Nat) : Bool :=
  decide (o.space = sp) && o.bundled && decide (o.text ≤ va) && decide (va < o.text + o.size)

def Stub.holds (b : Stub) (sp : Space) (va : Nat) : Bool :=
  decide (b.space = sp) && (decide (b.stub ≤ va ∧ va < b.stub + 128) ||
    (match b.body with | some (a, n) => decide (a ≤ va ∧ va < a + n) | none => false))

def State.codePlace (s : State) (sp : Space) (va : Nat) : CodePlace :=
  match s.objects.find? fun o => o.holds sp va with
  | some o => let i := (va - o.text) / 65536; .page (o.pages.getD i .unloaded) i
  | none =>
    match s.stubs.find? fun b => b.holds sp va with
    | some b => if b.body.isSome then .published else .unpublished
    | none => .none

/-- 64 bytes of memory as a bundle (R22). -/
def bundleAt (m : List Host.Cell) (pa : Nat) : BitVec 512 := BitVec.ofNat 512 (leNat (readBytes m pa 64))

/-- The fetch of the bundle due. -/
def State.fetch (s : State) : Fetch :=
  let va := addrOf s.core.ctx.pc
  match s.xlate s.core.space va ⟨false, true, false, false, s.core.priv⟩ with
  | .trap t => if t = .xlateFault then .fault t 0 else
      (match s.codePlace s.core.space va.toNat with | .none => .fault .protection 0 | _ => .fault t 0)
  | .miss => (match s.codePlace s.core.space va.toNat with | .none => .fault .protection 0 | _ => .wait)
  | .at_ pa _ =>
    match s.codePlace s.core.space va.toNat with
    | .none => .fault .protection 0
    | .unpublished => .wait
    | .page .unloaded _ => .wait
    | .page .poisoned i => .fault .codeIntegrity i
    | .page .verified _ => if s.poisoned pa 64 then .fault .uncorrectableData 0 else .bundle (bundleAt s.mem pa)
    | .published => if s.poisoned pa 64 then .fault .uncorrectableData 0 else .bundle (bundleAt s.mem pa)

/-- A trap of the bundle as a whole, with DETAIL. -/
def Core.raiseWhole (c : Core) (code : Trap) (detail : Nat) : Core :=
  match c.trap with
  | some _ => c
  | none => { c with trap := some ⟨code, 0xFF#8, addrOf c.ctx.pc, 0#16, BitVec.ofNat 64 detail⟩ }

/-! ### The stop test (R391) -/

def State.armOf (s : State) (sp : Space) : Option DbgArm := s.dbgArms.find? fun a => decide (a.space = sp)

/-- A breakpoint matches the bundle due. -/
def Breakpoint.hit (b : Breakpoint) (c : Core) : Bool :=
  (b.addr == BitVec.allOnes 64 || b.addr == addrOf c.ctx.pc) && (b.cycle == BitVec.allOnes 64 || b.cycle == c.ctx.cycle)
    && (b.task == 0#32 || (match c.task with | some t => b.task.toNat == t.key.task | none => false))

/-- Where a core counts the matches of breakpoint i of a tenant. -/
def hitKey (sp : Space) (i : Nat) : Nat := (sp.part * 256 + sp.vdev) * 64 + i

/-- The match counts of a core's breakpoints after the bundle due. -/
def countHits (bps : List Breakpoint) (c : Core) : List (Nat × Nat) :=
  bps.zipIdx.foldl (fun h p =>
    if p.1.hit c then assocSet 0 h (hitKey c.space p.2) (assocGet 0 h (hitKey c.space p.2) + 1) else h) c.dbg.hits

/-- The first breakpoint that stops here. -/
def stopBreak (bps : List Breakpoint) (c : Core) (h : List (Nat × Nat)) : Option Nat :=
  (bps.zipIdx.find? fun p => p.1.hit c && decide (assocGet 0 h (hitKey c.space p.2) = max 1 p.1.count.toNat)).map Prod.snd

/-- The stop test made once for the bundle due; `stopBit` is its STOP bit. The lowest cause is taken (R394). -/
def Core.stopTest (c : Core) (arm : Option DbgArm) (stopBit : Bool) : Core :=
  match arm with
  | none => { c with dbg := { c.dbg with skip := true } }
  | some a =>
    if c.dbg.skip then c
    else
      let h := countHits a.bps c
      let due : Option (BitVec 2 × Nat) :=
        if stopBit then some (0#2, 0xFF)
        else
          match stopBreak a.bps c h with
          | some i => some (1#2, i)
          | none => if c.dbg.request then some (2#2, 0xFF) else if c.dbg.steps = some 0 then some (3#2, 0xFF) else none
      { c with dbg := { c.dbg with hits := h, due := due, skip := due.isNone } }

/-! ### The scoreboard (R87) -/

/-- A write to this physical register is in flight. -/
def Ctx.pendingS (x : Ctx) (n : BitVec 6) : Bool :=
  n != 0#6 && (x.results.any (fun r => match r.wr with | .s m _ => m == n | .atom _ _ _ _ _ _ _ m => m == n | _ => false)
    || x.landings.any fun l => match l.dest with | .s m => m == n | _ => false)

def Ctx.pendingP (x : Ctx) (n : BitVec 5) : Bool :=
  n != 0#5 && x.results.any fun r => match r.wr with | .p m _ _ => m == n | _ => false

def Ctx.pendingRow (x : Ctx) (n : BitVec 12) (beats : Bool) : Bool :=
  x.results.any (fun r => match r.wr with | .row m _ _ => m == n | .beat m _ => beats && m == n | _ => false)
    || x.landings.any fun l => match l.dest with | .row m => m == n | _ => false

def Ctx.pending (x : Ctx) : Rd → Bool
  | .s n => x.pendingS n
  | .p n => n != 0#5 && x.pendingP (physPred x.rrb n)
  | .v n => x.pendingRow (x.rowName n) true
  | .acc n => x.pendingRow n true

/-- Some guard-true lane, or bit 0 where that decides. -/
def Ctx.guardOn (x : Ctx) (g : Guard) (lanes : Option Nat) : Bool :=
  match lanes with
  | none => x.guardBit g
  | some n => x.guardMask g &&& lowPred n != 0#1024

/-- The guard of an operation. -/
def guardIn (i : Instr) : Guard := i.guard.getD ⟨0#5, false⟩

/-- Whether an operation of the bundle takes effect. -/
def Ctx.runs (x : Ctx) (i : Instr) : Bool := x.guardOn (guardIn i) (profile i).lanes

/-- A read of a pending register: SCHEDULE, while CHK is set. -/
def Ctx.scoreboard (x : Ctx) (i : Instr) : Option Trap :=
  if x.chk && (x.pending (.p (guardIn i).p) || (x.runs i && (profile i).reads.any x.pending)) then some .schedule else none

/-! ### Poison (R381) -/

/-- The scratchpad words that a load, an atomic or a table load reads. -/
def spmWords (c : Core) (e n : Nat) : List Nat := (List.range ((n + 7) / 8)).map fun i => spmKey c (e + 8 * i) / 8

def readWords (c : Core) : Instr → List Nat
  | .ldv _ _ b off => spmWords c (c.lsOffset b off.toNat) 2048
  | .ldvb _ _ b off => spmWords c (c.lsOffset b off.toNat) 64
  | .lds _ _ _ b off => spmWords c (c.lsOffset b off.toNat) 1
  | .ldvx _ _ x b _ off => ((List.range 512).map fun i => spmKey c (c.elemOffset b off x i) / 8).dedup
  | .ldsct _ _ b off => spmWords c (c.lsOffset b off.toNat) 16
  | .atlAdd _ _ _ b w off => spmWords c (c.scaledOffset b off.toNat (atomBytes w)) 1
  | .atlMin _ _ _ b w off => spmWords c (c.scaledOffset b off.toNat (atomBytes w)) 1
  | .atlMax _ _ _ b w off => spmWords c (c.scaledOffset b off.toNat (atomBytes w)) 1
  | .atlAnd _ _ _ b w off => spmWords c (c.scaledOffset b off.toNat (atomBytes w)) 1
  | .atlOr _ _ _ b w off => spmWords c (c.scaledOffset b off.toNat (atomBytes w)) 1
  | .atlXchg _ _ _ b w off => spmWords c (c.scaledOffset b off.toNat (atomBytes w)) 1
  | .atlCas _ _ _ _ b w off => spmWords c (c.scaledOffset b off.toNat (atomBytes w)) 1
  | .atlFadd _ _ _ b off => spmWords c (c.scaledOffset b off.toNat 4) 1
  | _ => []

/-- The rows that a beat reads. -/
def beatRow : Instr → Option (BitVec 12)
  | .macc _ acc _ _ _ => some acc
  | .maccs _ acc _ _ => some acc
  | _ => none

def Ctx.rowPoisoned (x : Ctx) (n : BitVec 12) : Bool := x.badRow.any fun w => w / 256 == n.toNat

/-- A source of an operation is poisoned. -/
def Ctx.sourcePoisoned (x : Ctx) : Rd → Bool
  | .s n => x.badS.contains n.toNat
  | .p _ => false
  | .v n => x.rowPoisoned (x.rowName n)
  | .acc n => x.rowPoisoned n

/-- An operation that takes effect uses a poisoned word. -/
def State.poisonCheck (s : State) (i : Instr) : Option Trap :=
  let x := s.core.ctx
  if (profile i).reads.any x.sourcePoisoned || (match beatRow i with | some n => x.rowPoisoned n | none => false)
      || (s.spmPoison != [] && (readWords s.core i).any s.spmPoison.contains) then some .uncorrectableData else none

/-! ### Pops (R299) -/

/-- The kind check of the row that a pop takes. -/
def Stream.popCheck (st : Stream) (x : Ctx) (b : Option BeatKind) : Option Trap :=
  match st.tsr with
  | none => none
  | some t =>
    match b with
    | none => if st.isB && t.efmt == x.fmt.fb then none else some .illegalEncoding
    | some k => if !st.isB && t.efmt == x.fmt.fa && (t.sparse == (k == .sparse)) then none else some .illegalEncoding

/-- The stream that a queue gives its next row of, with the rows that pops ahead have taken. -/
def liveStream : List Stream → Nat → Option (Stream × Nat)
  | [], _ => none
  | st :: t, ahead =>
    if st.total != 0 && st.popped + ahead ≥ st.total then liveStream t (st.popped + ahead - st.total) else some (st, ahead)

/-- The issue-time checks of the pops of one operation, in order. -/
def popChecks (x : Ctx) : List Pop → List Pop → Option Trap
  | [], _ => none
  | p :: t, before =>
    match liveStream (x.queue p.q) (before.filter fun b => b.q == p.q).length with
    | none => some .schedule
    | some (st, _) =>
      if st.first then some .schedule
      else match st.popCheck x p.beat with | some e => some e | none => popChecks x t (before ++ [p])

/-- What stands in the way of a pop: its row has not come, or an error came in its place (R303). -/
def popWait (x : Ctx) (ps : List Pop) : Bool × Option Trap :=
  ps.zipIdx.foldl (fun a p =>
    let ahead := ((ps.take p.2).filter fun b => b.q == p.1.q).length
    match liveStream (x.queue p.1.q) ahead with
    | none => a
    | some (st, k) =>
      if k < st.rows.length then a
      else match st.rowErr with
        | some e => (a.1, if a.2.isNone && k == st.rows.length then some e else a.2)
        | none => (true, a.2)) (false, none)

/-! ### Steps 1 to 5 -/

/-- A slot of the bundle and its trap. -/
abbrev Fate := Option (Trap × Nat)

def firstFate : List Fate → Fate
  | [] => none
  | some t :: _ => some t
  | none :: ts => firstFate ts

/-- CTL operations that a delay bundle may hold (R123). -/
def delayOk : Instr → Bool
  | .mark _ _ => true
  | .waitc _ _ => true
  | .nop => true
  | _ => false

/-- CTL operations that the last bundle of an active body may not hold with a true guard (R128). -/
def endsBody : Instr → Bool
  | .br _ _ => true
  | .bri _ _ => true
  | .call _ _ => true
  | .calli _ _ => true
  | .ret _ => true
  | .loop _ _ _ _ => true
  | .loopr _ _ _ _ => true
  | _ => false

def ctlOf (ops : List Instr) : Option Instr := ops.find? fun i => i.slot == some .ctl && i != .nop

/-- The loop and delay-bundle checks of slot 0. -/
def Ctx.ctlCheck (x : Ctx) (ops : List Instr) : Fate :=
  let last := (x.newestAt x.pc).isSome
  if x.delayTarget.isSome && ((match ctlOf ops with | some i => !delayOk i | none => false) || last) then
    some (.illegalEncoding, 0)
  else if last && (match ctlOf ops with | some i => endsBody i && x.guardBit (guardIn i) | none => false) then
    some (.illegalEncoding, 0)
  else none

/-- The checks against FMT, made whatever the guard (R34, R44). -/
def fmtCheck (c : Core) : Instr → Option Trap
  | .mpush _ _ krow => krowCheck c.ctx krow
  | .macc _ _ _ fc push => beatCheck fc push c
  | .maccz _ _ _ fc push => beatCheck fc push c
  | .maccs _ _ _ push => sparseCheck push c
  | _ => none

/-- The number that the bundle would bear since the last stop point (R131). -/
def Ctx.spanNext (x : Ctx) (safe : Bool) : Nat := if safe then 1 else x.spanCount + 1

def weightOf (ops : List Instr) : Nat := ops.foldl (fun n i => n + (profile i).eu) 2

/-- The window sum that the bundle would close (R61). -/
def Core.windowSum (c : Core) (w : Nat) : Nat := c.weights.foldl (· + ·) 0 + w

def isTrapOp : Instr → Bool
  | .trap _ _ => true
  | _ => false

/-- Slot numbers of the operations of a bundle: its place for an operation of a shared opcode space. -/
def slotNo (i : Instr) : Nat := match i.slot with | some k => k.index | none => 0

/-- Step 4 for one operation, with `used` landing entries taken by lower slots of the bundle: the scoreboard, the landing-slot
table, its own checks, its pops, and last its poisoned sources (R381; log entry 62). A TRAP with a true guard is no check. -/
def State.operandCheck (s : State) (used : Nat) (i : Instr) : Fate :=
  let x := s.core.ctx
  (firstTrap [x.scoreboard i,
    if x.runs i && takesLanding i && decide (Config.landingSlots ≤ x.landings.length + used) then some .schedule else none,
    if x.runs i then issueCheck s i else none,
    if x.runs i then popChecks x (profile i).pops [] else none,
    if x.runs i then s.poisonCheck i else none]).map fun t => (t, slotNo i)

/-- The checks of step 1 that depend on the state of the task, in slot order: those of slot 0 (R123, R128; log entry 62) and
those of slot 5 against FMT. -/
def Core.slotFate (c : Core) (ops : List Instr) : Fate :=
  firstFate [c.ctx.ctlCheck ops, (ops.findSome? fun i => fmtCheck c i).map fun t => (t, 5)]

/-- Steps 1 to 3, with the window: the fate of the bundle before its operands are looked at. -/
def Core.earlyFate (c : Core) (hdr : BitVec 32) (ops : List Instr) : Fate :=
  let w := weightOf ops
  firstFate
    [c.slotFate ops,
      if c.pspan.toNat < c.ctx.spanNext (hdr.getLsbD 19) then some (.span, 0xFF) else none,
      if c.allowA1.toNat < w ∨ c.allowAW.toNat < w then some (.energyViolation, 0xFF) else none,
      if c.allowTrap && decide (c.allowAW.toNat < c.windowSum w) then some (.energyViolation, 0xFF) else none]

/-- Step 4: the lowest slot that fails a check. A TRAP with a true guard in slot 0 comes before the other slots. -/
def State.operandFate (s : State) (used : Nat) (ops : List Instr) : Fate :=
  match ops with
  | [] => none
  | i :: t =>
    match s.operandCheck used i with
    | some f => some f
    | none =>
      if isTrapOp i && s.core.ctx.guardBit (guardIn i) then none
      else s.operandFate (used + if s.core.ctx.runs i && takesLanding i then 1 else 0) t

/-- Step 5: a Steel-only operation on a Bronze core (R227). -/
def steelOnly : Instr → Bool
  | .vquant _ _ _ _ _ => true
  | .maccs _ _ _ _ => true
  | _ => false

/-! ### Step 6: resource waits and budget -/

/-- The entry of an HLD, HST or TFH has no room for one more access (R274). -/
def State.accessFull (s : State) : Instr → Bool
  | .hld _ h _ _ => decide (65535 ≤ (s.handleEntry (s.core.ctx.getH h).val).outst)
  | .hst _ h _ _ => decide (65535 ≤ (s.handleEntry (s.core.ctx.getH h).val).outst)
  | .tfh _ _ h _ _ => decide (65535 ≤ (s.handleEntry (s.core.ctx.getH h).val).outst)
  | _ => false

/-- Entries of the engine-queue buffer that have not performed (R277). -/
def Core.buffered (c : Core) : Nat := (c.fifo.filter fun e => e.classes != 0#16).length

def eclassOf (hdr : BitVec 32) : BitVec 4 := hdr.extractLsb' 28 4

def Energy.debit (e : Energy) (cls : BitVec 4) : Nat := (e.edebit[cls.toNat]'cls.isLt).toNat

/-- The freeze that holds the bundle, the highest of its causes; 0 when nothing does. -/
def State.waitCode (s : State) (hdr : BitVec 32) (ops : List Instr) : BitVec 4 :=
  let c := s.core
  let on := ops.filter c.ctx.runs
  if on.any s.accessFull then 14#4
  else if on.any (fun i => (profile i).entry) && decide (Config.engineBuffer ≤ c.buffered) then 13#4
  else if c.energy.ebudget.toNat < c.energy.debit (eclassOf hdr) then 5#4
  else if (popWait c.ctx (on.flatMap fun i => (profile i).pops)).1 then 3#4
  else 0#4

/-- An error that came in place of a row to be popped. -/
def Core.rowFate (c : Core) (ops : List Instr) : Option Trap :=
  (popWait c.ctx ((ops.filter c.ctx.runs).flatMap fun i => (profile i).pops)).2

/-- The operation of a TRAP that takes effect. -/
def Ctx.trapOp (x : Ctx) (ops : List Instr) : Option Instr := ops.find? fun i => isTrapOp i && x.guardBit (guardIn i)

/-- The freeze that would hold a decoded bundle in this cycle; 0 where none does. -/
def State.opsCode (s : State) (hdr : BitVec 32) (ops : List Instr) : BitVec 4 :=
  if s.core.judged then s.waitCode hdr ops
  else if (s.core.earlyFate hdr ops).isSome then 0#4
  else if s.core.allowAW.toNat < s.core.windowSum (weightOf ops) then 4#4
  else if (s.operandFate 0 ops).isSome || (s.core.ctx.trapOp ops).isSome || (!isSteel s.core.id && ops.any steelOnly) then 0#4
  else s.waitCode hdr ops

/-- The freeze that would hold the bundle due (R94). -/
def State.dueCode (s : State) : BitVec 4 :=
  match s.fetch with
  | .bundle b => (match decodeBundle s.core.priv b with | .ok ops => s.opsCode (headerOf b) ops | .error _ => 0#4)
  | _ => 0#4

/-! ### The causes of a freeze (R93, R94) -/

/-- Landings whose named cycle is the next (R88). -/
def Ctx.dueLandings (x : Ctx) : List Landing := x.landings.filter fun l => l.rem == 1

def Landing.missing (l : Landing) : Bool := l.data.isNone && l.err.isNone

/-- The code of a freeze for late landings: that of a WAITV is higher. -/
def lateKind (late : List Landing) : BitVec 4 := if late.any fun l => l.kind == .wait false then 6#4 else 2#4

/-- The stall code of a core whose task neither issues nor drains. -/
def Phase.frozenCode : Phase → Option (BitVec 4)
  | .barrier => some 9#4
  | .held => some 11#4
  | .committing => some 12#4
  | _ => none

/-- The module is STOPPED, or the partition of the core's task stands still (R386, R402, R403). -/
def State.stands (s : State) : Bool := s.devState == .stopped || s.partStands s.core.space.part

/-- An overflow commits the task's version: the core is frozen until that is done (R223). -/
def Core.autoCommit (c : Core) : Bool := match c.commit with | some m => m.auto && m.key == c.owner.key | none => false

/-- The causes that hold the core now, each of them judged when it arose. -/
def State.activeCodes (s : State) : List (BitVec 4) :=
  let c := s.core
  let late := c.ctx.dueLandings.filter Landing.missing
  [if c.lateFrom.isSome && late.any (fun l => l.kind != .wait true) then lateKind late else 0#4,
    if c.phase = .ready ∧ c.freeze = 15#4 ∧ (c.fetched = false ∨ s.fetch = .wait) then 15#4 else 0#4,
    if c.phase = .ready ∧ c.judged = true then s.dueCode else 0#4,
    c.blockedBy.getD 0#4,
    c.phase.frozenCode.getD 0#4,
    if s.stands || s.core.autoCommit then 12#4 else 0#4]

/-- The highest active code, beside one that has just been judged. -/
def State.sampledCode (s : State) (code : BitVec 4) : BitVec 4 := s.activeCodes.foldl codeMax code

/-- One core clock frozen for a cause: time passes and nothing ticks. The code is the highest active one. -/
def State.freezeClock (s : State) (cause : BitVec 4) : State :=
  let code := s.sampledCode cause
  let s := (s.clockAs s.core.nextPc s.core.ctx.cycle code).onCore fun c =>
    { c with
      freeze := code, froze := c.froze + 1, worst := codeMax code c.worst, stopNow := false
      frozen := if code = 3#4 ∨ code = 10#4 then c.frozen + 1 else c.frozen }
  s.tally s.core.space.part 3 code.toNat 1

/-! ### Step 7: issue -/

/-- COUNT plus n, saturating (R75). -/
def Energy.credit (e : Energy) (n : Nat) : Energy :=
  if e.esat then e
  else if 2 ^ 48 - 1 < e.ecount.toNat + n then { e with ecount := BitVec.allOnes 48, esat := true }
  else { e with ecount := BitVec.ofNat 48 (e.ecount.toNat + n) }

def Energy.spend (e : Energy) (n : Nat) : Energy := { e with ebudget := BitVec.ofNat 32 (e.ebudget.toNat - n) }

/-- The bundle issues: its cycle is under way, and its operations are about to run. -/
def Core.startBundle (c : Core) (now : Nat) (hdr : BitVec 32) (ops : List Instr) : Core :=
  let w := weightOf ops
  let c := c.thaw
  { c with
    defer := c.defer || (c.stop && (c.edge || hdr.getLsbD 19))
    phase := .issued
    after := .ready
    hdr := hdr
    issuing := ops
    mid := true
    stall := (hdr.extractLsb' 20 5).toNat
    weight := w
    lastIssue := some c.time
    lastBundle := c.ctx.pc
    seen := c.energy
    energy := (c.energy.spend (c.energy.debit (eclassOf hdr))).credit w
    streamIssue := now
    judged := false
    edge := false
    dbg := { c.dbg with skip := false, steps := c.dbg.steps.map fun n => n - 1 }
    ctx := { c.ctx with
      started := true
      spanCount := c.ctx.spanNext (hdr.getLsbD 19)
      redirect := c.ctx.delayTarget
      delayTarget := none } }

/-- Counter events of an issued bundle (R397). -/
def State.tallyBundle (s : State) (ops : List Instr) : State :=
  let p := s.core.space.part
  let s := (s.tally p 1 0 1).tally p 4 0 (weightOf ops)
  let n := fun e => (ops.filter fun i => (profile i).event == e && s.core.ctx.runs i).length
  (s.tally p 5 0 (n 5)).tally p 6 0 (n 6)

/-- The TRAP of a bundle that does not issue: its operation alone is run, without charge (R121, R370). -/
def Core.startTrap (c : Core) (i : Instr) : Core :=
  let c := c.thaw
  { c with
    issuing := [i], mid := true, phase := .issued, after := .ready, stall := 0, weight := 0, judged := false
    dbg := { c.dbg with skip := false } }

def State.startIssue (s : State) (hdr : BitVec 32) (ops : List Instr) : State :=
  (s.tallyBundle ops).onCore fun c => c.startBundle s.now hdr ops

/-- Steps 6 and 7. While they freeze the bundle, it is not judged again; an error that came in place of a row is met when
nothing is left to wait for (R303; log entry 62). -/
def State.issueResources (s : State) (hdr : BitVec 32) (ops : List Instr) : State :=
  if s.waitCode hdr ops ≠ 0#4 then (s.freezeClock (s.waitCode hdr ops)).onCore fun c => { c with judged := true }
  else
    match s.core.rowFate ops with
    | some t => s.raise t 5
    | none => s.startIssue hdr ops

/-- Steps 4 to 7. -/
def State.issueOperands (s : State) (hdr : BitVec 32) (ops : List Instr) : State :=
  match s.operandFate 0 ops with
  | some (t, k) => s.raise t k
  | none =>
    match s.core.ctx.trapOp ops with
    | some i => s.onCore fun c => c.startTrap i
    | none =>
      if !isSteel s.core.id && ops.any steelOnly then s.raise .migrate 0xFF
      else s.issueResources hdr ops

/-- The steps of R69 for a decoded bundle; a window that does not admit it is stretched (R70). -/
def State.issueOps (s : State) (hdr : BitVec 32) (ops : List Instr) : State :=
  if s.core.judged then s.issueResources hdr ops
  else
    match s.core.earlyFate hdr ops with
    | some (t, k) => s.raise t k
    | none =>
      if s.core.allowAW.toNat < s.core.windowSum (weightOf ops) then s.onCore fun c => { c with freeze := 4#4 }
      else s.issueOperands hdr ops

/-- The trap of a decode fault. -/
def decodeTrap : DecodeError → Trap
  | .illegalOpcode => .illegalOpcode
  | .privilege => .privilege
  | .illegalEncoding => .illegalEncoding

/-- Step 1 for the bytes of a bundle. A fault of slot k stands behind the checks of the slots below it (R45). -/
def State.issueBits (s : State) (b : BitVec 512) : State :=
  match decodeBundle s.core.priv b with
  | .error (e, k) =>
    (match if k = 0 ∨ k = 0xFF then none else s.core.slotFate (decodeBefore s.core.priv b Slot.all) with
    | some (t, j) => s.raise t j
    | none => s.raise (decodeTrap e) k)
  | .ok ops => s.issueOps (headerOf b) ops

/-- The bundle due, after its stop test. -/
def State.issueDue (s : State) (f : Fetch) : State :=
  match f with
  | .fault t d => s.onCore fun c => c.raiseWhole t d
  | .wait => s.freezeClock 15#4
  | .bundle b => s.issueBits b

/-- With CHK set, a beat that reads its row in this cycle while another operation's write to it is pending (R87). A MACCZ
reads no row. -/
def Ctx.beatErrors (x : Ctx) : List (Trap × Nat × BitVec 58) :=
  if x.chk then
    x.results.filterMap fun r =>
      match r.wr with
      | .beat n b => if r.rem = 1 ∧ b.zero = false ∧ x.pendingRow n false = true then some (.schedule, 5, r.pc) else none
      | _ => none
  else []

/-- The cycle that is about to run has landings due, or a beat that fails its check. -/
def Core.landsNow (c : Core) : Bool := !c.mid && (!c.ctx.dueLandings.isEmpty || !c.ctx.beatErrors.isEmpty)

/-- The core is at a bundle boundary with a task that may issue. -/
def Core.atBoundary (c : Core) : Bool :=
  c.phase == .ready && c.blockedBy.isNone && !c.mid && c.trap.isNone && c.task.isSome && c.dbg.due.isNone && c.freeze != 4#4

/-- BUNDLE_ISSUE (R69): a fetch freeze comes before every step, then the stop test, then the landings of the cycle, then the
bundle. -/
def State.bundleIssue (s : State) : State :=
  if s.core.atBoundary then
    let f := s.fetch
    if s.stands || s.core.autoCommit then s.freezeClock 12#4
    else match f with
    | .wait => s.freezeClock 15#4
    | _ =>
      if !s.core.fetched && (match f with | .bundle _ => true | _ => false) then s.freezeClock 15#4
      else
        let s := s.onCore fun c => c.stopTest (s.armOf c.space) (match f with | .bundle b => b.getLsbD 18 | _ => false)
        if s.core.dbg.due.isSome || s.core.landsNow then s else s.issueDue f
  else s

def execBundleIssue (s : State) : Host.Outcome State Fault Refusal := .next s.bundleIssue

/-- The bundle due enters the instruction cache, fetched as a load of its line is (R412). -/
def State.fetchIn (s : State) : State :=
  let va := (addrOf s.core.ctx.pc).toNat
  match s.physOf s.core.space va with
  | some pa => ((s.homeTouch pa false).icacheFill s.core.id.toNat s.core.space va).onCore fun c => { c with fetched := true }
  | none => s

/-- FETCH_ARRIVAL (R412): the bundle due is in the instruction cache, if its page can be fetched. -/
def execFetchArrival (s : State) : Host.Outcome State Fault Refusal :=
  .next (match s.fetch with
    | .bundle _ => s.fetchIn
    | _ => s)

/-- At a bundle boundary the bundle due is in the instruction cache where it has been fetched before and has not made room since, or where it is the
next of straight-line code, which the core has fetched ahead (R407, R412); whether a fetch ahead has brought any other, such as a transfer's target,
is a free choice (log entry 10). -/
def State.fetchAhead (s : State) (straight : Bool) : State :=
  if s.inIcache s.core.id.toNat s.core.space (addrOf s.core.ctx.pc).toNat then s.onCore fun c => { c with fetched := true }
  else
    let (k, s) := if straight then (0, s) else s.pickAny 2
    let s := s.onCore fun c => { c with fetched := false }
    if k = 0 then (match s.fetch with | .bundle _ => s.fetchIn | _ => s) else s

/-- ENERGY_STRETCH (R70): a stretched clock shifts a 0-eu entry into the window; the bundle is then tried again, in the same freeze. -/
def execEnergyStretch (s : State) : Host.Outcome State Fault Refusal :=
  .next (if s.core.phase = .ready ∧ s.core.mid = false ∧ s.core.freeze = 4#4 then
      (s.freezeClock 4#4).onCore fun c => { c with freeze := 0#4, weights := (c.weights ++ [0]).drop (c.weights.length + 1 - 7) }
    else s)

/-- BUDGET_REFILL (R73): REFILL is added, saturating, once every 1,024 reference ticks. -/
def Energy.refill (e : Energy) : Energy :=
  { e with ebudget := BitVec.ofNat 32 (min (e.ebudget.toNat + e.erefill.toNat) (2 ^ 32 - 1)) }

def execBudgetRefill (s : State) : Host.Outcome State Fault Refusal :=
  .next (if s.core.refillDue then s.onCore fun c => { c with energy := c.energy.refill, refillDue := false } else s)

/-- STATIC_CHARGE (R75): STATIC is added to ECOUNT after every 1,024 resident clocks. -/
def execStaticCharge (s : State) : Host.Outcome State Fault Refusal :=
  .next (if s.core.staticDue then
      s.onCore fun c => { c with energy := c.energy.credit c.energy.estatic.toNat, staticDue := false }
    else s)

/-- The FREEZE record of a freeze that has ended: cause, clocks, bundle and task (R395). -/
def State.freezeRecord (s : State) : State :=
  match s.core.ended with
  | none => s
  | some (code, n) =>
    let c := s.core
    (s.emitIf 2 c.space c.id.toNat c.reftime 0x12 (addrOf c.ctx.pc).toNat (code.toNat + n * 256) c.owner.key.task).onCore
      fun c => { c with ended := none }

/-- FREEZE_RECORD. -/
def execFreezeRecord (s : State) : Host.Outcome State Fault Refusal := .next s.freezeRecord

/-- PC_SAMPLE (R396): one SAMPLE record of the core's clock in a tick that is a multiple of 2^PERIOD: its bundle, CYCLE and stall
reason (R93, R94). -/
def execPcSample (s : State) : Host.Outcome State Fault Refusal :=
  let c := s.core
  .next (match c.task with
    | some t =>
      (s.emitIf 1 c.space c.id.toNat (tickOf c.last.at_) 0x10 (addrOf c.last.pc).toNat c.last.cycle.toNat
        (t.key.task + c.last.code.toNat * 2 ^ 32)).onCore fun c => { c with sampled := tickOf c.last.at_ }
    | none => s)

end Sys2Proof.Machine
end

