-- ==== Sys2Proof/Machine/Perform.lean ====
section
/-! DEFINITION. The ordering machine (R247 to R263, R277 to R285): views and coherence orders, releases and acquires,
and the perform steps of class-FIFO entries; commits of versions (R220 to R223, R261); maintenance (R245, R246). -/

namespace Sys2Proof.Machine

/-! ### Coherence orders and views (R247, R253) -/

def HistWrite.covers (h : HistWrite) (pa : Nat) : Bool := decide (h.addr ≤ pa) && decide (pa < h.addr + h.new.length)

/-- The byte that CO holds at instant u: what the first later write of it replaced, else what it holds now. -/
def State.readAt (s : State) (u pa : Nat) : Byte :=
  match (s.hist.filter fun h => decide (u < h.at_) && h.covers pa).getLast? with
  | some h => h.old.getD (pa - h.addr) 0#8
  | none => readByte s.mem pa

/-- The last write of a byte at or before instant u. -/
def State.writeOf (s : State) (u pa : Nat) : Option HistWrite := s.hist.find? fun h => decide (h.at_ ≤ u) && h.covers pa

def Core.view (c : Core) (line : Nat) : Nat := max c.viewBase (assocGet 0 c.views line)

def Core.setView (c : Core) (line u : Nat) : Core := { c with views := assocSet 0 c.views line u }

/-- A write of the core at instant u: the view of its line rises to it. -/
def Core.wrote (c : Core) (pa u : Nat) : Core := c.setView (pa / 64) (max (c.view (pa / 64)) u)

/-! ### Releases and acquires (R248, R254, R255) -/

/-- Core d is in the scope domain of core c. -/
def inDomain (c scope d : Nat) : Bool :=
  match scope with
  | 0 => c == d
  | 1 => c / 4 == d / 4
  | 2 => c / 8 == d / 8
  | _ => true

/-- An acquire of core c at a scope meets the releases that a write carries: views rise to each it synchronises
with. -/
def Core.acquire (c : Core) (scope : Nat) (rels : List (Nat × Nat × Nat)) : Core :=
  rels.foldl (fun k r =>
    if inDomain r.1 r.2.2 c.id.toNat && inDomain c.id.toNat scope r.1 then { k with viewBase := max k.viewBase r.2.1 } else k) c

/-- Releases that a load has read, kept for later acquire fences of its class. -/
def Core.noteRead (c : Core) (cls : Nat) (rels : List (Nat × Nat × Nat)) : Core :=
  { c with readRel := rels.foldl (fun l r =>
      let x := (cls, r.1, r.2.1, r.2.2)
      if x ∈ l then l else x :: l) c.readRel }

/-- The releases that a write of core c in class cls at instant u carries: those of its fences and, for a release
access, its own. -/
def Core.relsOf (c : Core) (cls : Nat) (own : Option Nat) (u : Nat) : List (Nat × Nat × Nat) :=
  (match own with | some scope => [(c.id.toNat, u, scope)] | none => [])
    ++ (c.fenceRel.filter fun f => f.1 == cls).map fun f => (c.id.toNat, f.2.1, f.2.2)

/-! ### Translation of a request (R237 to R239, R282) -/

/-- The page of a mapping is held by the walker: one that holds a continuation record, its handle slots or save images, or a copy
descriptor, of a node that is registered; or the launch record, the root records, the handle list or COMPL of a launch that runs or
is being started (R212, R335). It cannot be unmapped until the launch is over. Those of the first kind no task or copy writes (`write`), but
that a copy descriptor may be written once its node has finished (R212, R268, R290). -/
def State.pageHeld (s : State) (m : Mapping) (write : Bool) : Bool :=
  let inside := fun (a : Word) => decide (m.va ≤ a.toNat ∧ a.toNat < m.va + m.size)
  m.isImage || s.nodes.any (fun n => decide (n.space = m.space) && ((inside n.addr && !(write && n.copy && n.st == .finished))
      || (n.harea != 0#48 && inside (BitVec.ofNat 64 (n.harea.toNat * 256)))))
    || !write && (s.launches.any (fun l => decide (l.space = m.space) && (inside l.record || inside l.compl || l.held.any inside))
      || s.cqueues.any fun q => decide (q.space = m.space) && (match q.begun with | some b => b.pages.any inside | none => false))

/-- The walker lets no task write the page. -/
def State.walkerHeld (s : State) (m : Mapping) : Bool := s.pageHeld m true

/-- A byte of the handle slots of a registered node, which only hardware and the walker write (R213, R268). -/
def State.handleSlot (s : State) (sp : Space) (a : Nat) : Bool :=
  s.nodes.any fun n => decide (n.space = sp) && n.harea != 0#48 && decide (n.harea.toNat * 256 ≤ a ∧ a < n.harea.toNat * 256 + 256)

/-- A core's TLB holds the page. -/
def State.tlbHit (s : State) (m : Mapping) : Bool := s.tlb.any fun e => e == (s.core.id.toNat, m.space, m.va)

/-- Where a request stands: it may perform, it waits, or it fails. -/
inductive Reach
  | go (pa : Nat) (m : Mapping)
  | wait
  | fault (t : Trap)
  deriving DecidableEq, Repr

/-- How an access may use a SYNC page: not at all, or as one 8-byte variable; and whether it must (R282). -/
structure SyncUse where
  word : Bool
  must : Bool
  deriving DecidableEq, Repr

def Mapping.syncBreach (m : Mapping) (va : Nat) (u : SyncUse) : Bool :=
  if m.sync then !u.word || isMailbox (m.pa + (va - m.va)) else u.must

/-- A request of the current core to one address. -/
def State.reach (s : State) (sp : Space) (va : Word) (a : Access) (u : SyncUse) : Reach :=
  match s.xlate sp va a with
  | .trap t => .fault t
  | r =>
    match s.mappingOf sp va.toNat with
    | none => .fault .xlateFault
    | some m =>
      if m.syncBreach va.toNat u || (a.write && s.walkerHeld m) then .fault .protection
      else match r with
        | .at_ pa _ => if s.tlbHit m then .go pa m else .wait
        | _ => .wait

/-- A request of a unit that waits asks for its page; the misses of one unit to one page merge (R238). The units are the eight chiplets and,
from 8 on, the engines and walkers of the two base dies. -/
def State.askFor (s : State) (unit : Nat) (sp : Space) (va : Nat) : State :=
  let page := match s.mappingOf sp va with | some m => m.va | none => va / 65536 * 65536
  if (sp, page, unit) ∈ s.pageWalks then s
  else { (s.tally sp.part 10 0 1) with pageWalks := s.pageWalks ++ [(sp, page, unit)] }

/-- A request of the current core asks for its page. -/
def State.askPage (s : State) (sp : Space) (va : Nat) : State := s.askFor (chipletOf s.core.id.toNat) sp va

/-- The page that a command or a walker of the module waits for is asked for: the units from 8 on are those of the base dies (R238). -/
def State.askModule (s : State) (sp : Space) (va : Nat) : State := s.askFor 8 sp va

/-! ### Entries leave and fail -/

def State.setEntryRec (s : State) (e : Entry) : State :=
  s.onCore fun c => { c with fifo := c.fifo.map fun f => if f.id = e.id then e else f }

def State.dropEntry (s : State) (e : Entry) : State := s.onCore fun c => { c with fifo := c.fifo.filter fun f => f.id != e.id }

/-- Data for the landing entry of a request; the entry leaves its FIFOs. -/
def State.deliver (s : State) (e : Entry) (v : Row) : State :=
  (s.dropEntry e).onCore fun c =>
    match e.landing with
    | some l => if c.task = some e.owner then c.onCtx fun x => x.mapLanding l fun r => { r with data := some v } else c
    | none => c

/-- A fault of a request (R91, R237): at its named cycle if it has a landing entry, else at the next boundary. -/
def State.failEntry (s : State) (e : Entry) (t : Trap) : State :=
  match e.landing with
  | some l =>
    if s.core.task = some e.owner then (s.dropEntry e).onCore fun c => c.onCtx fun x => x.failLanding l t
    else (s.dropEntry e).raiseLater e.owner t 7 e.pc
  | none => (s.dropEntry e).raiseLater e.owner t 7 e.pc

def Entry.space (e : Entry) : Space := ⟨e.owner.key.part, e.owner.vdev⟩

def Entry.access (e : Entry) (write : Bool) : Access := ⟨write, true, false, false, e.owner.priv⟩

/-! ### Versions (R220) -/

def State.versionOf (s : State) (k : TaskKey) : List (Nat × Byte) :=
  match s.versions.find? fun v => v.key == k with | some v => v.bytes | none => []

/-- A byte of a version, if it holds it. -/
def State.versionByte (s : State) (k : TaskKey) (va : Nat) : Option Byte :=
  ((s.versionOf k).find? fun p => p.1 == va).map Prod.snd

def putPair (l : List (Nat × Byte)) (a : Nat) (b : Byte) : List (Nat × Byte) :=
  match l with
  | [] => [(a, b)]
  | (k, v) :: t => if a < k then (a, b) :: (k, v) :: t else if a = k then (a, b) :: t else (k, v) :: putPair t a b

def putPairs (l : List (Nat × Byte)) (a : Nat) : List Byte → List (Nat × Byte)
  | [] => l
  | b :: bs => putPairs (putPair l a b) (a + 1) bs

/-- The releases that the bytes of a version carry. -/
def State.versionRels (s : State) (k : TaskKey) : List (Nat × Nat × Nat × Nat) :=
  match s.versions.find? fun v => v.key == k with | some v => v.rels | none => []

/-- The releases that the byte at `va` of a version carries. -/
def State.byteRels (s : State) (k : TaskKey) (va : Nat) : List (Nat × Nat × Nat) :=
  ((s.versionRels k).filter fun r => r.1 == va).map Prod.snd

/-- The poisoned words of a version. -/
def State.versionBad (s : State) (k : TaskKey) : List Nat :=
  match s.versions.find? fun v => v.key == k with | some v => v.bad | none => []

/-- The bytes of a version replaced; bytes that leave it take their releases and their poison along. -/
def State.setVersion (s : State) (k : TaskKey) (bytes : List (Nat × Byte)) : State :=
  let there := fun (line : Nat) => bytes.any fun p => p.1 / 64 == line
  let rels := (s.versionRels k).filter fun r => bytes.any fun p => p.1 == r.1
  let bad := (s.versionBad k).filter fun w => there (w / 8)
  { s with versions := (if bytes = [] then [] else [⟨k, bytes, rels, bad⟩]) ++ s.versions.filter fun v => v.key != k }

/-- Whole 64-bit words written lose their poison (R381). -/
def cleanWords (bad : List Nat) (keys : List Nat) : List Nat :=
  bad.filter fun w => !((List.range 8).all fun i => keys.contains (8 * w + i))

/-- Bytes stored into a version, with the releases that their store carries, in place of those of the bytes before (R220, R255). -/
def State.putVersion (s : State) (k : TaskKey) (va : Nat) (bs : List Byte) (rels : List (Nat × Nat × Nat)) : State :=
  let s := s.setVersion k (putPairs (s.versionOf k) va bs)
  let keys := (List.range bs.length).map fun i => va + i
  { s with versions := s.versions.map fun v =>
      if v.key = k then
        { v with
          bad := cleanWords v.bad keys
          rels := keys.flatMap (fun a => rels.map fun r => (a, r)) ++ v.rels.filter fun r => !keys.contains r.1 }
      else v }

/-- The lines that a set of versioned bytes touches. -/
def linesOf (l : List (Nat × Byte)) : List Nat := (l.map fun p => p.1 / 64).dedup

/-- A versioned store would add a line beyond VQUOTA, or find no entry free in the partition's version ways (R223). -/
def State.overflows (s : State) (k : TaskKey) (after : List (Nat × Byte)) : Bool :=
  let added := (linesOf after).length - (linesOf (s.versionOf k)).length
  let used := (s.versions.filter fun v => v.key.part == k.part).foldl (fun n v => n + (linesOf v.bytes).length) 0
  let ways := match s.parts.find? fun p => p.id == k.part with | some p => p.vways | none => 0
  decide (0 < added) && (decide (s.core.vquota.toNat < (linesOf after).length)
    || decide (2 * ways * Config.wayLines < used + added))

/-! ### Commits (R221, R223, R261) -/

/-- A bundle of the task has issued: STARTED (R211). -/
def State.hasStarted (s : State) (k : TaskKey) : Bool :=
  s.cores.any fun c => c.ctx.started && (match c.task with | some t => t.key == k | none => false)

/-- A commit event: VERSION rises, and the lines of the version are to enter their coherence orders. -/
def State.startCommit (s : State) (k : TaskKey) (entry : Option Nat) (auto : Bool) (pc : BitVec 58) (slot : Nat) : State :=
  (s.onNode k fun n => { n with version := n.version + 1, started := n.started || s.hasStarted k }).onCore fun c =>
    { c with commit := some ⟨k, linesOf (s.versionOf k), entry, auto, pc, slot⟩ }

/-- A commit of the task's version is under way, on any core: no second one begins (R221, R261). -/
def State.committing (s : State) (k : TaskKey) : Bool := s.cores.any fun c => c.commit.any fun m => decide (m.key = k)

/-- An auto-commit for an access that overflowed the version (R223); one of an empty version is complete at once (R221, R413), so that
`commit` is none. -/
def State.autoCommit (s : State) (k : TaskKey) (entry : Option Nat) (pc : BitVec 58) : State :=
  let t := (s.startCommit k entry true pc 7).onNode k fun n => { n with status := 0x03#8 }
  if s.versionOf k = [] then t.onCore fun c => { c with commit := none } else t

/-- MODE bit AUTOC of a task, on this core, on another that runs it, or in its image (R223). -/
def State.autocOf (s : State) (k : TaskKey) : Bool :=
  match s.cores.find? fun c => match c.task with | some t => t.key == k | none => false with
  | some c => c.ctx.autoc
  | none => match s.nodeOfKey k with | some n => n.saved.any Ctx.autoc | none => false

/-- The cores that run a task. -/
def State.coresOf (s : State) (k : TaskKey) (f : Core → Core) : State :=
  s.mapCores fun c => if (match c.task with | some t => t.key == k | none => false) then f c else c

/-- The masked bytes of one line of a version. -/
def lineBytes (l : List (Nat × Byte)) (line : Nat) : List (Nat × Byte) := l.filter fun p => p.1 / 64 == line

/-- The view of the performing core, and of every core that runs the task, rises to a write of the task (R253). -/
def State.wroteBy (s : State) (k : TaskKey) (pa : Nat) : State :=
  let u := s.now
  (s.onCore fun c => c.wrote pa u).coresOf k fun c => c.wrote pa u

/-- One line of a commit enters CO at its home as one write unit of its masked bytes, each of which carries the releases of the store that
wrote it (R255, R258, R261). -/
def State.writeMasked (s : State) (pa : Nat) (bs : List (Nat × Byte)) (rels : Nat → List (Nat × Nat × Nat)) : State :=
  let cells := bs.map fun p => (pa + p.1 % 64, p.2)
  { s.homeTouch pa true with
    now := s.now + 1
    hist := (bs.map fun p => ⟨s.now + 1, pa + p.1 % 64, [readByte s.mem (pa + p.1 % 64)], [p.2], false, rels p.1⟩) ++ s.hist
    mem := writeCells s.mem cells
    poison := if bs.length = 64 then s.poison.filter fun l => l != pa / 64 else s.poison }

/-- COMMIT_LINE of line `k` of the commit under way (R261); a fault names the event's bundle and slot (R244, R381). With its last line the
version is empty: bytes that have entered it meanwhile are lines of the commit too. A line without bytes is no write. -/
def State.commitStep (s : State) (k : Nat) : State :=
  match s.core.commit with
  | none => s
  | some m =>
    match m.lines[k]? with
    | none => s
    | some line =>
      let o := match s.core.task with | some t => t | none => ⟨m.key, 0, false, 0#2, false⟩
      let vdev := match s.nodeOfKey m.key with | some n => n.vdev | none => o.vdev
      let sp : Space := ⟨m.key.part, vdev⟩
      let va := BitVec.ofNat 64 (line * 64)
      let bytes := s.versionOf m.key
      let rest := m.lines.eraseIdx k
      if lineBytes bytes line = [] then s.onCore fun c => { c with commit := some { m with lines := rest } }
      else if (s.versionBad m.key).any fun w => w / 8 == line then
        (s.onCore fun c => { c with commit := none }).endLaunch m.key
          ⟨.uncorrectableData, BitVec.ofNat 8 m.slot, addrOf m.pc, 0#16, 0#64⟩
      else match s.xlate sp va ⟨true, true, false, false, true⟩ with
      | .trap t =>
        (s.onCore fun c => { c with commit := none }).endLaunch m.key
          ⟨t, BitVec.ofNat 8 m.slot, addrOf m.pc, 0#16, 0#64⟩
      | .miss => s.askPage sp va.toNat
      | .at_ pa _ =>
        let s := (s.writeMasked pa (lineBytes bytes line) (s.byteRels m.key)).setVersion m.key (bytes.filter fun p => p.1 / 64 != line)
        let s := (s.coresOf m.key fun c => c.wrote pa s.now).tally m.key.part 15 0 1
        s.onCore fun c => { c with commit := some { m with lines := if rest = [] then linesOf (s.versionOf m.key) else rest } }

def execCommitLine (k : Nat) (s : State) : Host.Outcome State Fault Refusal := .next (s.commitStep k)

/-! ### Perform steps (R252) -/

/-- A byte that a load takes from its task's version; sync variables have no versions. -/
def State.ownByte (s : State) (e : Entry) (m : Mapping) (va : Nat) : Option Byte :=
  if m.sync then none else s.versionByte e.owner.key va

/-- A load unit takes poisoned data: from its task's version, or else from memory (R381). -/
def State.unitPoisoned (s : State) (e : Entry) (va pa : Nat) (m : Mapping) (n : Nat) : Bool :=
  (List.range n).any fun i =>
    if (s.ownByte e m (va + i)).isSome then (s.versionBad e.owner.key).contains ((va + i) / 8) else s.poisoned (pa + i) 1

/-- One read unit through the core's view, at an instant it picks (R253); bytes of V(t) bring the releases of the store that wrote them
(R255). -/
def State.readUnit (s : State) (e : Entry) (va pa : Nat) (m : Mapping) (n : Nat) : List Byte × State :=
  let s := if m.sync then s else s.l1Touch s.core.id.toNat pa m.space.part
  let w := s.core.view (pa / 64)
  let (k, s) := s.choose (s.now - w + 1)
  let u := w + k
  let own := fun i => s.ownByte e m (va + i)
  let bs := (List.range n).map fun i => (own i).getD (s.readAt u (pa + i))
  let rels := ((List.range n).flatMap fun i =>
    if (own i).isSome then s.byteRels e.owner.key (va + i) else match s.writeOf u (pa + i) with | some h => h.rels | none => []).dedup
  (bs, s.onCore fun c =>
    let c := (c.setView (pa / 64) u).noteRead e.cls.toNat rels
    if e.acq then c.acquire e.scope.toNat rels else c)

/-- Bytes as a landing's data. -/
def rowFrom (bs : List Byte) : Row := BitVec.ofNat 16384 (leNat bs)

/-- The parts of a load joined in address order. -/
def joinParts (size : Nat) (ps : List (Nat × List Byte)) : List Byte :=
  if size = 2048 then (List.range 128).flatMap fun g =>
    match ps.find? fun p => p.1 == g with | some p => p.2 | none => []
  else ps.flatMap Prod.snd

/-- One unit of a load: any granule that is left. -/
def State.performLoad (s : State) (e : Entry) (size : Nat) : State :=
  let (k, s) := s.choose e.left.length
  match e.left[k]? with
  | none => s.dropEntry e
  | some g =>
    let va := e.va + BitVec.ofNat 64 (16 * g)
    let n := min size 16
    match s.reach e.space va (e.access false) ⟨size == 8, false⟩ with
    | .fault t => s.failEntry e t
    | .wait => s.askPage e.space va.toNat
    | .go pa m =>
      if s.unitPoisoned e va.toNat pa m n then s.failEntry e .uncorrectableData
      else
        let (bs, s) := s.readUnit e va.toNat pa m n
        let e := { e with left := e.left.eraseIdx k, part := (g, bs) :: e.part }
        if e.left = [] then s.deliver e (rowFrom (joinParts size e.part)) else s.setEntryRec e

/-- The condition of a WAITV on a variable (R285). -/
def waitHolds (cond : Word) (v : Nat) : Bool :=
  let a := cond.toNat
  match a / 2 ^ 62 with
  | 0 => v / 2 ^ 48 != a % 2 ^ 16
  | 1 => v % 2 ^ 32 == a % 2 ^ 32
  | 2 => decide (a % 2 ^ 32 ≤ v % 2 ^ 32)
  | _ => (v % 2 ^ 32) &&& (a % 2 ^ 32) != 0

/-- A waiting request of a suspended task ends: its value is stored in the image's landing entry as arrived data, and the request is made
no more; with no wait left the task becomes Ready (R285). -/
def State.wakeNode (s : State) (n : Node) (w : Wait) (f : Ctx → Ctx) (member : Nat) : State :=
  let gone := fun (e : Nat × Entry) => match w with | .value m l _ _ _ => e.1 == m && e.2.landing == some l | _ => false
  let m : Node := { n with
    waits := n.waits.filter fun x => x != w
    fifo := n.fifo.filter fun e => !gone e
    saved := n.saved.zipIdx.map fun p => if p.2 = member then f p.1 else p.1 }
  if m.waits = [] then s.mapNode { m with st := .ready, readyAt := tickOf s.time } else s.mapNode m

/-- What keeps the wait of a suspended task from being the oldest of its FIFOs (R251): an earlier request of the task that stands on the core
which it left, or one that goes with the task, to be made again. -/
inductive WaitTurn
  | free | behind | carried
  deriving DecidableEq, Repr

/-- The turn of a suspended task's wait. -/
def State.waitTurn (s : State) (n : Node) (member landing : Nat) : WaitTurn :=
  let mine := (n.fifo.filter fun e => e.1 == member).map Prod.snd
  match mine.find? fun e => e.landing == some landing with
  | none => .free
  | some e =>
    let bars := fun (x : Entry) => decide (x.classes &&& e.classes ≠ 0#16)
    if (mine.takeWhile fun x => x.id != e.id).any bars then .carried
    else if s.cores.any fun c => (!n.gang || c.id.toNat % 4 == member) && c.fifo.any fun x => decide (x.owner.key = n.key) && bars x then .behind
    else .free

/-- A wait of a suspended task, re-tested at a write of the variable at pa. -/
def State.retestWait (s : State) (n : Node) (pa v : Nat) (w : Wait) : Wait :=
  match w with
  | .value member landing va cond none =>
    if s.physOf n.space va.toNat = some pa ∧ waitHolds cond v = true ∧ s.waitTurn n member landing = .free then
      .value member landing va cond (some (s.now, v))
    else w
  | w => w

/-- A WAITV that waits, re-tested at a write of the variable at pa. -/
def State.retestEntry (s : State) (pa v : Nat) (e : Entry) : Entry :=
  match e.op with
  | .wait cond =>
    if e.fresh = false ∧ e.part = [] ∧ s.physOf e.space e.va.toNat = some pa ∧ waitHolds cond v = true then { e with part := [(s.now, leBytes 8 v)] }
    else e
  | _ => e

/-- The home re-tests every wait on the variable at pa at each write to it (R283, R285): a wait whose condition holds has the value. -/
def State.retest (s : State) (pa : Nat) : State :=
  let v := leNat (readBytes s.mem pa 8)
  let t := s.mapCores fun c => { c with fifo := c.fifo.map (s.retestEntry pa v) }
  { t with nodes := t.nodes.map fun n => if n.st = .suspended then { n with waits := n.waits.map (s.retestWait n pa v) } else n }

/-- The access of a granule is to a SYNC page. -/
def State.onSync (s : State) (e : Entry) (va : Word) : Bool := match s.mappingOf e.space va.toNat with | some m => m.sync | none => false

/-- Granules of a store that fill their line: with the last of them written the line has been written whole, and its poison goes (R381). -/
def Entry.fillsLine (e : Entry) (bytes : List Byte) (va : Word) : Bool :=
  let line := va.toNat / 64 * 64
  decide (e.va.toNat ≤ line ∧ line + 64 ≤ e.va.toNat + bytes.length)
    && e.left.all fun g => (e.va.toNat + 16 * g) / 64 * 64 != line

/-- Poison of a line that has been written whole goes. -/
def State.cleanLine (s : State) (pa : Nat) : State := { s with poison := s.poison.filter fun l => l != pa / 64 }

/-- Granule k of the granules left of a direct store, at `va`. -/
def State.performDirect (s : State) (e : Entry) (bytes : List Byte) (k g : Nat) (va : Word) : State :=
  match s.reach e.space va (e.access true) ⟨bytes.length == 8, false⟩ with
  | .fault t => s.failEntry e t
  | .wait => s.askPage e.space va.toNat
  | .go pa m =>
    let rels := s.core.relsOf e.cls.toNat (if e.rel then some e.scope.toNat else none) (s.now + 1)
    let s := (s.write pa ((bytes.drop (16 * g)).take 16) false rels).wroteBy e.owner.key pa
    let s := if m.sync then s.retest pa else s
    let e := { e with left := e.left.eraseIdx k }
    let s := if e.fillsLine bytes va then s.cleanLine pa else s
    if e.left = [] then s.dropEntry e else s.setEntryRec e

/-- A store of a version would overflow it: at its first step the whole of it is judged, so that an overflow splits the stores and not one
store, and a store that no version can hold whole is split by granules (R223, R258; log entry 64). A granule for which the version has been
committed is taken whatever the version ways hold (`done`). -/
def State.storeOverflows (s : State) (e : Entry) (bytes : List Byte) (g : Nat) : Bool :=
  let v := s.versionOf e.owner.key
  let one := s.overflows e.owner.key (putPairs v (e.va.toNat + 16 * g) ((bytes.drop (16 * g)).take 16))
  !e.done && (if e.left.length = (granules e.op).length ∧ v ≠ [] then one || s.overflows e.owner.key (putPairs v e.va.toNat bytes) else one)

/-- Granule k of the granules left of a versioned store enters V(t). -/
def State.enterVersion (s : State) (e : Entry) (bytes : List Byte) (k g : Nat) (va : Word) : State :=
  let rels := s.core.relsOf e.cls.toNat none s.now
  let s := s.putVersion e.owner.key va.toNat ((bytes.drop (16 * g)).take 16) rels
  let e := { e with left := e.left.eraseIdx k, done := false }
  if e.left = [] then s.dropEntry e else s.setEntryRec e

/-- A granule of a versioned store: an overflow commits first with AUTOC, and the store is then taken into the empty version; else it raises
VERSION_FULL (R223). -/
def State.performVersioned (s : State) (e : Entry) (bytes : List Byte) (k g : Nat) (va : Word) : State :=
  match s.reach e.space va (e.access true) ⟨false, false⟩ with
  | .fault t => s.failEntry e t
  | .wait => s.askPage e.space va.toNat
  | .go _ _ =>
    if s.storeOverflows e bytes g then
      if s.autocOf e.owner.key then
        if s.core.commit.isSome || s.committing e.owner.key then s
        else
          let t := s.autoCommit e.owner.key (some e.id) e.pc
          let e := { e with fresh := false, done := true }
          if t.core.commit.isNone then t.enterVersion e bytes k g va else t.setEntryRec e
      else s.failEntry e .versionFull
    else s.enterVersion e bytes k g va

/-- One granule of a store: any that is left. One of class 0 to 7 is versioned, but on a SYNC page and in a release (R220, R280). -/
def State.performStore (s : State) (e : Entry) (bytes : List Byte) : State :=
  let (k, s) := s.choose e.left.length
  match e.left[k]? with
  | none => s.dropEntry e
  | some g =>
    let va := e.va + BitVec.ofNat 64 (16 * g)
    if e.cls.toNat < 8 && !e.rel && !s.onSync e va then s.performVersioned e bytes k g va else s.performDirect e bytes k g va

/-- The new value of a phase variable after `n` arrivals (R284). -/
def arriveNew (v n : Nat) : Nat :=
  let count := v % 2 ^ 24
  let expect := v / 2 ^ 24 % 2 ^ 24
  if count ≤ n then expect + expect * 2 ^ 24 + (v / 2 ^ 48 + 1) % 2 ^ 16 * 2 ^ 48 else v - n

/-- The releases that the last writes of n bytes carry (R255). -/
def State.relsAt (s : State) (pa n : Nat) : List (Nat × Nat × Nat) :=
  ((List.range n).flatMap fun i => match s.writeOf s.now (pa + i) with | some h => h.rels | none => []).dedup

/-- Arrivals on the variable at pa, at its home in one step: an atomic write that carries the releases given and those
of the writes it follows (R255). -/
def State.arriveAt (s : State) (pa n : Nat) (rels : Nat → List (Nat × Nat × Nat)) : State :=
  let v := leNat (readBytes s.mem pa 8)
  (s.write pa (leBytes 8 (arriveNew v n)) true ((rels (s.now + 1) ++ s.relsAt pa 8).dedup)).retest pa

/-- An atomic at the home (R281). -/
def State.performAtomic (s : State) (e : Entry) (op : AtomOp) (size : Nat) (a b : Word) (rm : RMode) (ftz : Bool) : State :=
  match s.reach e.space e.va (e.access true) ⟨size == 8, false⟩ with
  | .fault t => s.failEntry e t
  | .wait => s.askPage e.space e.va.toNat
  | .go pa page =>
    if s.poisoned pa size then s.failEntry e .uncorrectableData
    else
      let m := leNat (readBytes s.mem pa size)
      let w := 2 ^ (8 * size)
      let chain := s.relsAt pa size
      let own := s.core.relsOf e.cls.toNat (if e.rel then some e.scope.toNat else none) (s.now + 1)
      let s := s.write pa (leBytes size (atomNew op size rm ftz m (a.toNat % w) (b.toNat % w)).1) true (own ++ chain).dedup
      let s := s.wroteBy e.owner.key pa
      let s := if page.sync then s.retest pa else s
      let s := s.onCore fun c =>
        let c := c.noteRead e.cls.toNat chain
        if e.acq then c.acquire e.scope.toNat chain else c
      s.deliver e (BitVec.ofNat 16384 m)

def State.performArrive (s : State) (e : Entry) (n : BitVec 24) : State :=
  match s.reach e.space e.va (e.access true) ⟨true, true⟩ with
  | .fault t => s.failEntry e t
  | .wait => s.askPage e.space e.va.toNat
  | .go pa _ =>
    let s := s.arriveAt pa n.toNat fun u => s.core.relsOf e.cls.toNat (if e.rel then some e.scope.toNat else none) u
    (s.wroteBy e.owner.key pa).dropEntry e

/-- A WAITV ends with the value that its home held at instant u. -/
def State.endWaitAt (s : State) (e : Entry) (pa u v : Nat) : State :=
  let chain := match s.writeOf u pa with | some h => h.rels | none => []
  let s := s.onCore fun c =>
    let c := (c.setView (pa / 64) (max u (c.view (pa / 64)))).noteRead e.cls.toNat chain
    if e.acq then c.acquire e.scope.toNat chain else c
  s.deliver e (BitVec.ofNat 16384 v)

/-- A WAITV ends with the value that its home holds. -/
def State.endWait (s : State) (e : Entry) (pa : Nat) : State := s.endWaitAt e pa s.now (leNat (readBytes s.mem pa 8))

/-- WAITV at the home: it ends when its condition holds, or with the value with which a write made it hold since, and else stays (`fresh`
false: it has been tested). -/
def State.performWait (s : State) (e : Entry) (cond : Word) (force : Bool) : State :=
  match s.reach e.space e.va (e.access false) ⟨true, true⟩ with
  | .fault t => s.failEntry e t
  | .wait => s.askPage e.space e.va.toNat
  | .go pa _ =>
    if s.poisoned pa 8 then s.failEntry e .uncorrectableData
    else match e.part with
    | (u, bs) :: _ => s.endWaitAt e pa u (leNat bs)
    | [] =>
    if force || waitHolds cond (leNat (readBytes s.mem pa 8)) then s.endWait e pa
    else s.setEntryRec { e with fresh := false }

/-- A FENCE (R256). -/
def State.performFence (s : State) (e : Entry) (kind : FenceKind) (mask : BitVec 16) : State :=
  let s := s.onCore fun c =>
    let rels := (c.readRel.filter fun r => mask.getLsbD r.1).map Prod.snd
    let c := if kind = .rel then c else c.acquire e.scope.toNat rels
    let c := if kind = .full ∧ e.scope ≠ 0#3 then { c with viewBase := s.now } else c
    if kind = .acq then c
    else { c with fenceRel := (((List.range 16).filter fun k => mask.getLsbD k).map fun k => (k, s.now, e.scope.toNat))
      ++ c.fenceRel.filter fun f => !mask.getLsbD f.1 }
  s.dropEntry e

/-- A copy command goes to the tail of its engine queue; a full queue keeps it waiting (R259, R288). -/
def State.performCopy (s : State) (e : Entry) (q : BitVec 3) (x : QEntry) : State :=
  if (s.core.equeues[q.toNat]'q.isLt).length < Config.engineQueueDepth then
    (s.dropEntry e).onCore fun c =>
      { c with equeues := c.equeues.set q.toNat ((c.equeues[q.toNat]'q.isLt) ++ [x]) q.isLt }
  else s

/-- A QFENCE is placed at the tail of every queue it names, in one step (R257). -/
def State.performQfence (s : State) (e : Entry) (mask : BitVec 8) : State :=
  if (List.range 8).all fun q => !mask.getLsbD q || decide ((s.core.equeues.toList.getD q []).length < Config.engineQueueDepth) then
    (s.dropEntry e).onCore fun c =>
      { c with equeues := Vector.ofFn fun q : Fin 8 =>
          if mask.getLsbD q.val then c.equeues[q] ++ [.qfence mask e.id] else c.equeues[q] }
  else s

/-! ### Maintenance (R246) -/

/-- TLBINV drops entries of the TLBs that its scope reaches, and from chiplet scope on of the second-level TLBs. -/
def State.tlbinv (s : State) (e : Entry) (kind : BitVec 2) : State :=
  let page := (s.mappingOf e.space e.va.toNat).map fun m => m.va
  let named := fun (sp : Space) (va : Nat) => decide (sp.part = e.space.part)
    && (match kind.toNat with
      | 0 => decide (sp = e.space) && decide (page = some va)
      | 1 => decide (sp = e.space)
      | _ => true)
  let scope := e.scope.toNat
  let second := fun (chiplet : Nat) => decide (2 < scope) || (scope == 2 && chiplet == chipletOf s.core.id.toNat)
  ({ s with tlb := s.tlb.filter fun t => !(inDomain s.core.id.toNat scope t.1 && named t.2.1 t.2.2) }).onCaches fun k =>
    { k with tlb2 := k.tlb2.filter fun t => !(second t.1 && named t.2.1 t.2.2) }

/-- A cached line of the partition lies in a range of the tenant's space, on a page that is mapped and present. -/
def State.lineIn (s : State) (e : Entry) (len : Nat) (x : CLine) : Bool :=
  x.part == e.space.part && decide (0 < len) && s.maps.any fun m => decide (m.space = e.space) && m.present && !m.remote && x.within m.pa m.size
    && decide (m.va + (x.line * 64 - m.pa) < e.va.toNat + len) && decide (e.va.toNat < m.va + (x.line * 64 - m.pa) + 64)

/-- CACHEWB: dirty lines of the range are written back; LEN is at most 2^30. -/
def State.performCachewb (s : State) (e : Entry) (len : Word) : State := (s.writeBack (s.lineIn e (min len.toNat (2 ^ 30)))).dropEntry e

/-- CACHEINV: the lines of the range are written back and leave every cache; while one of them is pinned it waits (R242). -/
def State.performCacheinv (s : State) (e : Entry) (len : Word) : State :=
  let hit := s.lineIn e (min len.toNat (2 ^ 30))
  if s.caches.l2.any fun x => hit x && s.tilePinned x then
    s.setEntryRec { e with fresh := false, part := if e.part = [] then [(s.time, [])] else e.part }
  else (s.dropLines hit).dropEntry e

/-! ### The step of an entry (R251, R252) -/

/-- The place of a SPAWN among the handle steps of its task has come, and its handles have no access in flight. A step comes after the cycle of
the bundle that issued it, at whose end its registers change (R305). -/
def State.spawnReady (s : State) (e : Entry) (vals : List (Nat × BitVec 128)) : Bool :=
  vals.isEmpty || (!s.core.mid && (match s.core.hsteps with | h :: _ => decide (h.op = .spawn e.id) | [] => false)
    && vals.all fun v => (s.handleEntry v.2).outst == 0 && !s.core.heldByStream e.owner v.2)

/-- A SPAWN that fails leaves its handle registers as they were. -/
def State.spawnUndone (s : State) (e : Entry) : State :=
  s.onCore fun c => match c.hsteps.find? fun h => decide (h.op = .spawn e.id) with | some h => h.undone c | none => c

/-- The place of a SPAWN is given up. -/
def State.spawnDone (s : State) (e : Entry) : State :=
  s.onCore fun c => { c with hsteps := c.hsteps.filter fun h => h.op != .spawn e.id }

/-- The walker's answer to a task operation. -/
def State.walkerStep (s : State) (e : Entry) (r : Except Trap State) : State :=
  match r with
  | .ok t => t.dropEntry e
  | .error t => (s.spawnUndone e).failEntry e t

def State.performNow (s : State) (e : Entry) : State :=
  match e.op with
  | .load size => s.performLoad e size
  | .store bytes => s.performStore e bytes
  | .atom op size a b rm ftz => s.performAtomic e op size a b rm ftz
  | .arrive n => s.performArrive e n
  | .wait cond => s.performWait e cond false
  | .copy q c => s.performCopy e q (.copy c 0 e.owner e.pc)
  | .copyNode q desc => s.performCopy e q (.node desc e.owner e.pc)
  | .fence kind mask => s.performFence e kind mask
  | .qfence mask => s.performQfence e mask
  | .spawn pred child hm vals =>
    (match s.spawnWait e.owner child hm with
    | some a => s.askModule e.space a
    | none => (s.walkerStep e (s.spawnNode e.owner pred child hm vals)).spawnDone e)
  | .depend pred succ => s.walkerStep e (s.dependNodes e.owner.key.part e.owner.key.launch pred succ)
  | .signal count node => s.walkerStep e (s.signalNode e.owner.key.part e.owner.key.launch count.toNat node)
  | .tlbinv kind => (s.tlbinv e kind).dropEntry e
  | .cachewb len => s.performCachewb e len
  | .cacheinv len => s.performCacheinv e len

/-- A release whose classes include any of 0 to 7 commits V(t) first (R254). -/
def Entry.commits (e : Entry) : Bool := e.rel && e.classes &&& 0x00FF#16 != 0#16

def isCopyOp : EOp → Bool
  | .copy _ _ => true
  | .copyNode _ _ => true
  | _ => false

def isQfence : EOp → Bool
  | .qfence _ => true
  | _ => false

def isTaskOp : EOp → Bool
  | .spawn _ _ _ _ => true
  | .depend _ _ => true
  | .signal _ _ => true
  | _ => false

/-- No earlier entry keeps this one from performing: the heads of its FIFOs (R251), the placing of a QFENCE (R257), and
the order of task operations at the walker (R310). -/
def freeToPerform (f : List Entry) (e : Entry) : Bool :=
  (f.takeWhile fun x => x.id != e.id).all fun x =>
    decide (x.classes &&& e.classes = 0#16) && !(isCopyOp e.op && isQfence x.op) && !(isQfence e.op && (isCopyOp x.op || isQfence x.op))
      && !(isTaskOp e.op && isTaskOp x.op && decide (x.owner = e.owner))

/-- An entry of its task that was made earlier, on a core which the task has left, keeps an entry of the current core from performing: a task
that changes its core keeps the order of its requests (R251, R310). -/
def State.elderLeft (s : State) (e : Entry) : Bool :=
  s.parked.any fun c => (!e.owner.gang || c.id.toNat % 4 == s.core.id.toNat % 4) && c.fifo.any fun x =>
    decide (x.owner.key = e.owner.key) && decide (x.at_ < e.at_)
      && (decide (x.classes &&& e.classes ≠ 0#16) || (isTaskOp e.op && isTaskOp x.op))

/-- An entry of the current core may perform: its turn has come. -/
def State.entryFree (s : State) (e : Entry) : Bool := freeToPerform s.core.fifo e && !s.elderLeft e

/-- An entry's task operation waits for its handles. -/
def State.opReady (s : State) (e : Entry) : Bool :=
  match e.op with | .spawn _ _ _ vals => s.spawnReady e vals | _ => true

/-- ENTRY_PERFORM (R252) of the entry numbered k. -/
def State.entryPerform (s : State) (k : Nat) : State :=
  match s.core.fifo.find? fun e => e.id == k with
  | none => s
  | some e =>
    if !(s.entryFree e) || !s.opReady e then s
    else if e.commits && e.fresh then
      if s.core.commit.isSome || s.committing e.owner.key then s
      else
        let t := (s.setEntryRec { e with fresh := false }).startCommit e.owner.key (some e.id) false e.pc 7
        if linesOf (s.versionOf e.owner.key) = [] then (t.onCore fun c => { c with commit := none }).performNow { e with fresh := false }
        else t
    else if (s.core.commit.any fun m => m.entry == some e.id) then s
    else s.performNow e

def execEntryPerform (k : Nat) (s : State) : Host.Outcome State Fault Refusal := .next (s.entryPerform k)

/-- A QFENCE leaves every queue it names in the step in which it is the head of all of them (R257). -/
def State.qfenceLeave (s : State) (q : BitVec 3) : State :=
  match (s.core.equeues[q.toNat]'q.isLt).head? with
  | some (.qfence mask id) =>
    let heads := (List.range 8).all fun j => !mask.getLsbD j || decide ((s.core.equeues.toList.getD j []).head? = some (.qfence mask id))
    let rest : Vector (List QEntry) 8 :=
      Vector.ofFn fun j : Fin 8 => if mask.getLsbD j.val then s.core.equeues[j].tail else s.core.equeues[j]
    if heads then s.onCore fun c => { c with equeues := rest } else s
  | _ => s

def execQfenceLeave (q : BitVec 3) (s : State) : Host.Outcome State Fault Refusal := .next (s.qfenceLeave q)

/-! ### WAITV (R285) -/

/-- The number of a suspended node's first wait, as WAITV_SATISFIED names it. -/
def nodeWaitBase : Nat := 2 ^ 40

/-- The partition is privileged (R351). -/
def State.privPart (s : State) (part : Nat) : Bool := s.parts.any fun p => p.id == part && p.flags.getLsbD 0

/-- A wait of a suspended task that can end: with the value that made its condition hold, or an error of the variable (R237, R282, R381). One
that is not the oldest of its FIFOs is not tested: it waits for what the task left behind, and for what goes with the task the task becomes
Ready, to make its requests again in order (R251; log entry 64). -/
def State.endNodeWait (s : State) (n : Node) (w : Wait) : State :=
  match w with
  | .value member landing va cond got =>
    let wake := fun (f : Landing → Landing) => s.wakeNode n w (fun x => x.mapLanding landing f) member
    (match got, s.waitTurn n member landing with
    | some (_, v), _ => wake fun r => { r with data := some (BitVec.ofNat 16384 v) }
    | none, .behind => s
    | none, .carried =>
      let m : Node := { n with waits := n.waits.filter fun x => x != w }
      s.mapNode (if m.waits = [] then { m with st := .ready, readyAt := tickOf s.time } else m)
    | none, .free =>
      match s.xlate n.space va ⟨false, true, false, false, s.privPart n.key.part⟩ with
      | .trap t => wake fun r => { r with err := some t }
      | r =>
        if (match s.mappingOf n.space va.toNat with | some m => m.syncBreach va.toNat ⟨true, true⟩ | none => false) then
          wake fun r => { r with err := some .protection }
        else
          match r with
          | .at_ pa _ =>
            if s.poisoned pa 8 then wake fun r => { r with err := some .uncorrectableData }
            else
              let v := leNat (readBytes s.mem pa 8)
              if waitHolds cond v then wake fun r => { r with data := some (BitVec.ofNat 16384 v) } else s
          | _ => s.askModule n.space va.toNat)
  | _ => s

/-- Every wait of a suspended task for a variable is looked at. -/
def State.waitNode (s : State) (n : Node) : State :=
  n.waits.foldl (fun s w => match s.nodeOfKey n.key with | some m => if m.waits.contains w then s.endNodeWait m w else s | none => s) s

/-- WAITV_SATISFIED: a write makes the condition of a waiting entry, or of a suspended task, hold. -/
def execWaitvSatisfied (k : Nat) (s : State) : Host.Outcome State Fault Refusal :=
  .next (
    if nodeWaitBase ≤ k then
      match s.nodes[k - nodeWaitBase]? with | some n => if n.st = .suspended then s.waitNode n else s | none => s
    else
      match s.core.fifo.find? fun e => e.id == k with
      | some e => (match e.op with | .wait cond => if e.fresh then s else s.performWait e cond false | _ => s)
      | none => s)

/-- The WAITV that has kept the core frozen for its bound, if it is the oldest entry of its FIFOs and waits for no page (R251, R285). -/
def State.boundWait (s : State) : Option Entry :=
  if s.core.lateFrom.any fun t => decide (t + 16384 * 24 ≤ s.core.time) then
    (s.core.ctx.landings.filter fun l => l.rem == 1 && l.kind == .wait false && l.missing).findSome? fun l =>
      s.core.fifo.find? fun e => e.landing == some l.id && s.entryFree e
        && (match s.reach e.space e.va (e.access false) ⟨true, true⟩ with | .wait => false | _ => true)
  else none

/-- WAITV_BOUND_EXPIRY: after 16,384 reference ticks of freeze the entry performs with the value its home holds. -/
def execWaitvBoundExpiry (s : State) : Host.Outcome State Fault Refusal :=
  .next (match s.boundWait with
    | some e => (match e.op with | .wait cond => s.performWait e cond true | _ => s)
    | none => s)

end Sys2Proof.Machine
end

