-- ==== Sys2Proof/Machine/Copies.lean ====
section
/-! DEFINITION. Copy transfers (R259, R260, R286 to R290, R348): the head of an engine queue, a copy node and a host's COPY
command move their bytes granule by granule; peers answer for REMOTE pages. -/

namespace Sys2Proof.Machine

/-! ### The engine of a transfer -/

/-- Who performs a transfer: the core whose queue holds it with that queue, or 64 plus the number of a job; the task or tenant
it acts for; the base die of its engines; and the bundle of its command. -/
structure Engine where
  core  : Nat
  q     : BitVec 3
  owner : Running
  die   : Nat
  pc    : BitVec 58
  deriving DecidableEq, Repr

def Engine.isJob (e : Engine) : Bool := decide (64 ≤ e.core)

def Engine.space (e : Engine) : Space := ⟨e.owner.key.part, e.owner.vdev⟩

/-- The SRC of its records: four engines to a base die, taken by queue number (R399; log entry 27). -/
def Engine.source (e : Engine) : Nat := 64 + 4 * e.die + e.q.toNat % 4

/-- The base die that carries a core (R7). -/
def dieOf (core : Nat) : Nat := core / 32

/-- A page that an engine waits for is asked for by the walkers of its base die (R238). -/
def State.engineAsk (s : State) (e : Engine) (va : Nat) : State := s.askFor (8 + e.die) e.space va

/-- The window that R191 allows the task of a queue. -/
def Engine.window (e : Engine) : Nat := if e.owner.gang then 2 ^ 22 else 2 ^ 20

/-- The key of a window offset for the task of a queue (R190, R287). -/
def Engine.spmKey (e : Engine) (off : Nat) : Nat :=
  if e.owner.gang then (e.core / 4 * 4 + off / 2 ^ 20) * 2 ^ 20 + off % 2 ^ 20 else e.core * 2 ^ 20 + off

/-! ### The source of each destination byte (R288) -/

/-- Elements of a tensor copy's box. -/
def boxElems (b : Box) : Nat := b.foldl (fun n p => n * p.2) 1

/-- Bytes of a box: its elements packed, a last half byte filled with zero. -/
def Tsr.boxBytes (t : Tsr) (b : Box) : Nat := (boxElems b * ElemFmt.width t.efmt + 7) / 8

/-- Element i of a box in the order of TFA: axis 0 fastest. -/
def Tsr.boxElem (t : Tsr) (b : Box) (i : Nat) : ElemSrc :=
  t.source (boxCoord b (i / Box.line b) (i % Box.line b)) true false

/-- The elements that destination byte j of a tensor copy holds, low bits first. -/
def Tsr.byteElems (t : Tsr) (b : Box) (j : Nat) : List ElemSrc :=
  match ElemFmt.width t.efmt with
  | 4 => ((List.range 2).filter fun k => decide (2 * j + k < boxElems b)).map fun k => t.boxElem b (2 * j + k)
  | w => [t.boxElem b (j / (w / 8))]

/-- The addresses that destination byte j is made from. -/
def Copy.addrs (c : Copy) (j : Nat) : List Nat :=
  match c.tsr with
  | none => [(c.src.toNat + j) % 2 ^ 64]
  | some t =>
    (t.byteElems c.box j).flatMap fun e =>
      match e.elem with
      | none => []
      | some (a, _) => if ElemFmt.width t.efmt = 16 then [(a + j % 2) % 2 ^ 64] else [a]

/-- Destination byte j from the bytes of its sources. -/
def Copy.byte (c : Copy) (j : Nat) (rd : Nat → Byte) : Byte :=
  match c.tsr with
  | none => rd ((c.src.toNat + j) % 2 ^ 64)
  | some t =>
    let es := t.byteElems c.box j
    match ElemFmt.width t.efmt with
    | 4 => BitVec.ofNat 8 (es.zipIdx.foldl (fun n p => n + t.valueOf rd p.1 * 16 ^ p.2) 0)
    | 16 => BitVec.ofNat 8 (digit 8 ((es.map (t.valueOf rd)).headD 0) (j % 2))
    | _ => BitVec.ofNat 8 ((es.map (t.valueOf rd)).headD 0)

/-! ### Addresses of a copy (R237, R287) -/

/-- Where a byte of a copy lies. -/
inductive Place
  | spm (key : Nat)
  | mem (pa : Nat)
  | peer (m : Mapping) (va : Nat)
  | wait (va : Nat)
  | fault (t : Trap)
  deriving DecidableEq, Repr

/-- A range of n bytes from a, modulo 2^64, meets a page. -/
def rangeMeets (a n va size : Nat) : Bool :=
  decide (0 < n) && (decide ((va + 2 ^ 64 - a % 2 ^ 64) % 2 ^ 64 < n) || decide ((a + 2 ^ 64 - va % 2 ^ 64) % 2 ^ 64 < size))

/-- Some of the n bytes of a copy from byte `j` are read from a page, or written to it. -/
def Copy.uses (c : Copy) (j n va size : Nat) : Bool :=
  rangeMeets (c.dst.toNat + j) n va size ||
    (if c.tsr.isSome then (List.range n).any fun i => (c.addrs (j + i)).any fun a => decide (va ≤ a ∧ a < va + size)
     else rangeMeets (c.src.toNat + j) n va size)

/-- A copy is part of the way through a page: it has started it, and has bytes left on it (R241, R243). -/
def Copy.midPage (c : Copy) (moved va size : Nat) : Bool :=
  decide (0 < moved ∧ moved < c.len) && c.uses 0 moved va size && c.uses moved (c.len - moved) va size

/-- The page of a byte is under a shootdown, and the transfer, with `done` bytes behind it, had started it: it ends the page under its old
translation (R243). -/
def Copy.begun (s : State) (e : Engine) (c : Copy) (done a : Nat) : Bool :=
  match s.mappingOf e.space a with
  | some m => (s.moves.any fun x => decide (x.1 = e.space) && x.2.1 == m.va) && c.uses 0 done m.va m.size
  | none => false

/-- A REMOTE page needs system scope; a SYNC, X or PRIV page may not be named at all. -/
def State.copyPlace (s : State) (e : Engine) (c : Copy) (write : Bool) (done a : Nat) : Place :=
  let va := BitVec.ofNat 64 a
  if inWindow va then
    if e.isJob || decide (e.window ≤ a - windowBase) then .fault .protection else .spm (e.spmKey (a - windowBase))
  else
    match s.xlate e.space va ⟨write, true, false, c.sys, false⟩ with
    | .trap t => .fault t
    | r =>
      match s.mappingOf e.space a with
      | none => .fault .xlateFault
      | some m =>
        if m.sync || (write && s.walkerHeld m) then .fault .protection
        else match r with
          | .at_ pa m => if m.remote then .peer m pa else .mem pa
          | _ => if c.begun s e done a then .mem (m.pa + (a - m.va)) else .wait a

/-- A scratchpad byte as the engines see it: one that a copy has written, seen by its task or not yet (R265). -/
def State.copiedByte (s : State) (k : Nat) : Byte :=
  match s.spmLate.find? fun c => c.1 == k with | some c => c.2 | none => readByte s.spm k

/-- A byte of the scratchpads or of memory. -/
def State.placeByte (s : State) : Place → Byte
  | .spm k => s.copiedByte k
  | .mem pa => readByte s.mem pa
  | _ => 0#8

/-- A byte whose data is poisoned (R381). -/
def State.placePoisoned (s : State) : Place → Bool
  | .spm k => s.spmPoison.contains (k / 8)
  | .mem pa => s.poisoned pa 1
  | _ => false

/-! ### One unit of a transfer (R258, R288) -/

/-- What a step of a transfer does: nothing yet, a commit for its unit that has begun, a fault, or `n` bytes moved. -/
inductive CopyStep
  | stay (s : State)
  | commit (s : State)
  | fail (t : Trap)
  | moved (s : State) (n : Nat)
  deriving DecidableEq, Repr

/-- Scratchpad bytes written at the bank; those that copies wrote and no task has seen yet stay to come. -/
def State.putSpm (s : State) (cells : List (Nat × Byte)) : State :=
  { s with
    spm := writeCells s.spm cells
    spmPoison := cleanWords s.spmPoison (cells.map Prod.fst) }

/-- Bytes that copies wrote into some scratchpads are seen from here on (R265, R289). -/
def State.settleSpm (s : State) (inside : Nat → Bool) : State :=
  let t : State := { s with spmLate := s.spmLate.filter fun c => !inside c.1 }
  t.putSpm (s.spmLate.filter fun c => inside c.1).reverse

/-- The granules of the bytes that copies have written and no task has seen yet. -/
def State.lateGranules (s : State) : List Nat := (s.spmLate.map fun c => c.1 / 16).dedup

/-- Of some granules that copies wrote, any may come to be seen (R265). -/
def State.seeSome (s : State) (gs : List Nat) : State :=
  gs.foldl (fun s g => let (k, s) := s.choose 2; if k = 0 then s.settleSpm fun a => a / 16 == g else s) s

/-- A copy writes scratchpad bytes. When its running task comes to see each granule is a free choice: at once, at the end of any later cycle,
or at the latest when the task leaves its cores or ends; what a copy wrote earlier need not be seen earlier (R265). -/
def State.copySpm (s : State) (cells : List (Nat × Byte)) : State :=
  let t : State := { s with spmLate := cells.reverse ++ s.spmLate.filter fun c => !cells.any fun d => d.1 == c.1 }
  t.seeSome (cells.map fun c => c.1 / 16).dedup

/-- Scratchpad bytes that a core writes at the bank. A copy's write of the same granule that no task has seen yet comes wholly before it or
wholly after it (R193, R197). -/
def State.writeSpm (s : State) (cells : List (Nat × Byte)) : State :=
  (s.seeSome (s.lateGranules.filter fun g => cells.any fun c => c.1 / 16 == g)).putSpm cells

/-- The number of the next request to a peer. -/
def State.nextPeer (s : State) : Nat := s.peers.foldl (fun n p => max n (p.id + 1)) 0

/-- A request to a peer module; it waits for its answer (R348). -/
def State.askPeer (s : State) (e : Engine) (m : Mapping) (va : Nat) (read : Bool) (dst : Word) (n : Nat) (bs : List Byte) :
    State :=
  let id := s.nextPeer
  let k : MsgKind := if read then .read id m.peerPart.toNat va n else .write id m.peerPart.toNat va
  let s := s.sendFrom e.owner.key.part ⟨.part e.owner.key.part, routePort m.peer.toNat, m.peer.toNat, k, bs⟩
  { s with peers := s.peers ++ [⟨id, e.space, e.core, e.q, read, dst, n, s.time, routePort m.peer.toNat⟩] }

/-- Copy writes of class 0 to 7 from a task's queue enter its version (R259). -/
def copyVersioned (e : Engine) (c : Copy) : Bool := !e.isJob && decide (c.cls.toNat < 8)

/-- Granules that fill their line: with the last of them written the line has been written whole, and its poison goes (R381). -/
def State.copyClean (s : State) (c : Copy) (done va pa n : Nat) : State :=
  if (va + n) % 64 = 0 ∧ 64 ≤ done + n ∧ done + n ≤ c.len then s.cleanLine pa else s

/-- Bytes of a unit at their destination. -/
def State.copyPut (s : State) (e : Engine) (c : Copy) (done va : Nat) (bs : List Byte) : CopyStep :=
  let go := fun (t : State) => CopyStep.moved (t.tally e.owner.key.part 7 0 bs.length) bs.length
  match s.copyPlace e c true done va with
  | .fault t => .fail t
  | .wait a => .stay (s.engineAsk e a)
  | .spm k => go (s.copySpm (bs.zipIdx.map fun p => (k + p.2, p.1)))
  | .peer m a => go (s.askPeer e m a false (BitVec.ofNat 64 va) bs.length bs)
  | .mem pa =>
    if copyVersioned e c then
      let enter := fun (t : State) => go (t.putVersion e.owner.key va bs [])
      if c.room then (if s.core.commit.isSome then .stay s else enter s)
      else if s.overflows e.owner.key (putPairs (s.versionOf e.owner.key) va bs) then
        if s.autocOf e.owner.key then
          if s.core.commit.isSome || s.committing e.owner.key then .stay s
          else
            let t := s.autoCommit e.owner.key none e.pc
            if t.core.commit.isNone then enter t else .commit t
        else .fail .versionFull
      else enter s
    else go ((s.write pa bs false []).copyClean c done va pa bs.length)

/-- The first fault among places, and the first page to wait for. -/
def firstStop : List Place → Option (Trap ⊕ Nat)
  | [] => none
  | .fault t :: _ => some (.inl t)
  | .wait a :: ps => match firstStop ps with | some (.inl t) => some (.inl t) | _ => some (.inr a)
  | _ :: ps => firstStop ps

/-- Bytes that an engine has read, by address; or what stands in their way: a fault, a page to wait for, or bytes of a peer's page to ask for. -/
inductive CopyGet
  | fail (t : Trap)
  | wait (a : Nat)
  | ask (m : Mapping) (pa a n : Nat)
  | ok (bytes : List (Nat × Byte))
  deriving DecidableEq, Repr

/-- The bytes of peers' pages that have not been asked for: the first, and those that follow it there without a gap. -/
def Copy.toAsk (c : Copy) (l : List (Nat × Place)) : Option (Mapping × Nat × Nat × Nat) :=
  let need := l.filterMap fun p =>
    match p.2 with | .peer m pa => if c.got.any fun g => g.1 == p.1 then none else some (p.1, m, pa) | _ => none
  match need with
  | [] => none
  | (a, m, pa) :: _ => some (m, pa, a, (need.zipIdx.takeWhile fun x => x.1 == (a + x.2, m, pa + x.2)).length)

/-- The bytes at some addresses, each with the byte of the transfer that it serves, as the engine reads them at their home now: of a peer's page
it takes what the peer has answered (R288, R348). -/
def State.copyGet (s : State) (e : Engine) (c : Copy) (l : List (Nat × Nat)) : CopyGet :=
  let ps := l.map fun x => (x.2, s.copyPlace e c false x.1 x.2)
  match firstStop (ps.map Prod.snd) with
  | some (.inl t) => .fail t
  | some (.inr a) => .wait a
  | none =>
    match c.toAsk ps with
    | some (m, pa, a, n) => .ask m pa a n
    | none =>
      if ps.any fun p => s.placePoisoned p.2 then .fail .uncorrectableData
      else .ok (ps.map fun p => (p.1, match c.got.find? fun g => g.1 == p.1, p.2 with | some g, .peer _ _ => g.2 | _, q => s.placeByte q))

/-- A byte among those read. -/
def gotAt (l : List (Nat × Byte)) (a : Nat) : Byte := match l.find? fun g => g.1 == a with | some g => g.2 | none => 0#8

/-- The lines of this module that a unit is read from. -/
def State.copyLines (s : State) (e : Engine) (c : Copy) (l : List (Nat × Nat)) : List Nat :=
  (l.filterMap fun x => match s.copyPlace e c false x.1 x.2 with | .mem pa => some (pa / 64) | _ => none).dedup

/-- The next unit: the granule of the destination that byte `done` lies in, to its end or the end of the copy. -/
def State.copyUnit (s : State) (e : Engine) (c : Copy) (done : Nat) : CopyStep :=
  let va := (c.dst.toNat + done) % 2 ^ 64
  let n := min (16 - va % 16) (c.len - done)
  let l := (List.range n).flatMap fun i => (c.addrs (done + i)).map fun a => (done + i, a)
  match s.copyGet e c l with
  | .fail t => .fail t
  | .wait a => .stay (s.engineAsk e a)
  | .ask m pa a k => .stay (s.askPeer e m pa true (BitVec.ofNat 64 a) k [])
  | .ok bs =>
    let s := (s.copyLines e c l).foldl (fun s l => s.homeTouch (l * 64) false) s
    s.copyPut e c done va ((List.range n).map fun i => c.byte (done + i) (gotAt bs))

/-! ### The start of a tensor copy (R286, R288, R300) -/

/-- The coordinate box of a box block: six starts and extents (R286, R298). -/
def boxBlock (bs : List Byte) : Box :=
  (List.range 6).map fun i => (signedOf 32 (fieldNat bs (8 * i) 4), fieldNat bs (8 * i + 4) 4)

/-- The record is read and its box checked; LEN becomes the bytes of the box, within the bound that it held. -/
def Copy.opened (e : Engine) (c : Copy) (t : Tsr) : Except Trap Copy :=
  let b := t.clip c.box
  match t.boxCheck b t.rowLen with
  | some f => .error f
  | none =>
    let n := t.boxBytes b
    if c.len < n then .error .protection
    else if inWindow c.dst && decide (e.window < c.dst.toNat - windowBase + n) then .error .protection
    else .ok { c with tsr := some t, box := b, len := n, got := [] }

/-- A transfer that has yet to read its box block or its record: where that stands. -/
def Copy.unread (c : Copy) : Option (Word × Nat) :=
  if !c.tensor || c.tsr.isSome then none
  else match c.boxVa with | some b => some (b, 48) | none => some (c.src, 192)

/-- The bytes of the box block, or of the record, have been read. -/
def Copy.readIn (e : Engine) (c : Copy) (bs : List Byte) : Except Trap Copy :=
  if c.boxVa.isSome then .ok { c with box := boxBlock bs, boxVa := none, got := [] }
  else match Tsr.parse c.src bs with | none => .error .illegalEncoding | some t => Copy.opened e c t

/-- An engine reads the box block or the record of a tensor copy as it reads a source: the step's state, with the copy. -/
def State.openCopy (s : State) (e : Engine) (c : Copy) (a : Word) (n : Nat) : Except Trap (State × Copy) :=
  if c.boxVa.isNone && a.toNat % 64 != 0 then .error .alignment
  else
    let l := (List.range n).map fun i => (0, (a.toNat + i) % 2 ^ 64)
    match s.copyGet e c l with
    | .fail t => .error t
    | .wait p => .ok (s.engineAsk e p, c)
    | .ask m pa p k => .ok (s.askPeer e m pa true (BitVec.ofNat 64 p) k [], c)
    | .ok bs =>
      match Copy.readIn e c (bs.map Prod.snd) with
      | .error t => .error t
      | .ok d => .ok (s, d)

/-! ### Arrivals (R260, R284, R348) -/

/-- The arrival that ends a transfer, as a release of the engine's core at the scope of the descriptor; on a REMOTE page it is
sent to the peer. -/
def State.copyArrive (s : State) (e : Engine) (c : Copy) : CopyStep :=
  let a := c.arrv.toNat
  match s.xlate e.space c.arrv ⟨true, true, false, c.sys, false⟩ with
  | .trap t => .fail t
  | r =>
    match s.mappingOf e.space a with
    | none => .fail .xlateFault
    | some m =>
      if m.remote then
        match r with
        | .at_ pa m =>
          .moved (s.sendFrom e.owner.key.part ⟨.part e.owner.key.part, routePort m.peer.toNat, m.peer.toNat, .arrival m.peerPart.toNat pa, []⟩) 0
        | _ => .stay (s.engineAsk e a)
      else if m.syncBreach a ⟨true, true⟩ then .fail .protection
      else match r with
        | .at_ pa _ => .moved (s.arriveAt pa 1 fun u => [(e.core, u, c.scope.toNat)]) 0
        | _ => .stay (s.engineAsk e a)

/-! ### Records (R399) -/

def State.emitCopy (s : State) (e : Engine) (c : Copy) (ty : Nat) : State :=
  s.emitIf 0 e.space e.source (tickOf s.time) ty c.dst.toNat (c.len % 2 ^ 32 + e.q.toNat * 2 ^ 32 + e.core % 64 * 2 ^ 40)
    e.owner.key.task

/-! ### Copy nodes (R287, R290) -/

/-- The descriptor of 64 bytes as a copy. -/
def copyOf (bs : List Byte) : Copy :=
  let w := fieldNat bs 0x10 8
  { dst := BitVec.ofNat 64 (fieldNat bs 0 8)
    src := BitVec.ofNat 64 (fieldNat bs 8 8)
    len := if w / 2 ^ 41 % 2 = 1 then 256 * 2 ^ (w / 2 ^ 32 % 16) else w % 2 ^ 32
    cls := BitVec.ofNat 4 (w / 2 ^ 36)
    arr := w / 2 ^ 40 % 2 == 1
    arrv := BitVec.ofNat 64 (fieldNat bs 0x28 8)
    tensor := w / 2 ^ 41 % 2 == 1
    box := []
    sys := w / 2 ^ 42 % 2 == 1
    scope := if w / 2 ^ 42 % 2 = 1 then 4#3 else 3#3
    tsr := none
    boxVa := if w / 2 ^ 41 % 2 = 1 then some (BitVec.ofNat 64 (fieldNat bs 0x30 8)) else none
    got := []
    room := false }

/-- A range of n bytes from a meets the scratchpad window. -/
def touchesWindow (a : Word) (n : Nat) : Bool := decide (a.toNat < windowBase + 2 ^ 22) && decide (windowBase < a.toNat + max n 1)

/-- A reserved bit of a descriptor is set (R286). -/
def descReserved (bs : List Byte) : Bool := decide (fieldNat bs 0x10 8 / 2 ^ 43 ≠ 0 ∨ fieldNat bs 0x1A 2 ≠ 0 ∨ fieldNat bs 0x38 8 ≠ 0)

/-- The checks of a descriptor in memory (R287). -/
def descCheck (bs : List Byte) : Option Trap :=
  let w := fieldNat bs 0x10 8
  if descReserved bs then some .illegalEncoding
  else
    let c := copyOf bs
    if !c.tensor && decide (256 * 2 ^ (w / 2 ^ 32 % 16) < c.len) then some .protection
    else if touchesWindow c.dst (if c.tensor then 1 else c.len) || touchesWindow c.src (if c.tensor then 192 else c.len)
        || (c.arr && inWindow c.arrv) || (c.tensor && touchesWindow (BitVec.ofNat 64 (fieldNat bs 0x30 8)) 48) then some .protection
    else if c.arr && c.arrv.toNat % 8 != 0 then some .alignment
    else none

/-- The node of a registered descriptor; `pc` is the bundle of its CPYG, kept in RESUME. -/
def copyNodeOf (o : Running) (desc : Word) (pc : BitVec 58) (bs : List Byte) : Node :=
  { nodeOf ⟨o.key.part, o.vdev⟩ o.key.launch desc (List.replicate 64 0#8) with
    copy := true
    preds := fieldNat bs 0x18 2
    succ := BitVec.ofNat 64 (fieldNat bs 0x20 8)
    resume := pc }

/-- CPYG at the head of its queue: the walker registers the descriptor, and the command leaves (R290). The attributes of its page are
looked at before its presence (R237). -/
def State.registerCopy (s : State) (e : Engine) (desc : Word) : CopyStep :=
  match s.xlate e.space desc ⟨false, true, false, false, e.owner.priv⟩ with
  | .trap t => .fail t
  | r =>
    if (match s.mappingOf e.space desc.toNat with | some m => m.sync || m.priv | none => true) then .fail .protection
    else
      match r with
      | .at_ pa _ =>
        let bs := readBytes s.mem pa 64
        if s.poisoned pa 64 then .fail .uncorrectableData
        else
          (match descCheck bs with
          | some t => .fail t
          | none =>
            if (s.nodeAt e.owner.key.part e.owner.key.launch desc).isSome then .fail .protection
            else
              let n := copyNodeOf e.owner desc e.pc bs
              let s : State := { s with nodes := s.nodes ++ [n] }
              let s := s.poke e.space (desc.toNat + 0x1C) (leBytes 4 e.owner.key.launch)
              let s := s.onLaunch e.owner.key.part e.owner.key.launch fun l => { l with created := l.created + 1 }
              .moved (if n.preds = 0 then s.readyNode n else s) 0)
      | _ => .stay (s.engineAsk e desc.toNat)

/-! ### The step of a transfer -/

/-- Requests of this engine that peers have not answered. -/
def State.peersOf (s : State) (e : Engine) : List Peer := s.peers.filter fun p => p.core == e.core && p.q == e.q

/-- One step of a copy with `moved` bytes behind it, whose box and record are read. The result of a step that ends the copy is its state with
`none`. -/
def State.moveOn (s : State) (e : Engine) (c : Copy) (moved : Nat) : Except Trap (State × Option (Copy × Nat)) :=
  let first := decide (moved = 0 ∧ c.got = [])
  if moved < c.len then
    match s.copyUnit e c moved with
    | .fail t => .error t
    | .commit t => .ok (t, some ({ c with room := true }, moved))
    | .stay t => .ok (if first && decide (s.peers.length < t.peers.length) then t.emitCopy e c 0x30 else t, some (c, moved))
    | .moved t n => .ok (if first then t.emitCopy e c 0x30 else t, some ({ c with got := [], room := false }, moved + n))
  else if s.peersOf e ≠ [] then .ok (s, some (c, moved))
  else
    let s := if c.len = 0 then s.emitCopy e c 0x30 else s
    if c.arr then
      match s.copyArrive e c with
      | .fail t => .error t
      | .stay t => .ok (t, some (c, moved))
      | .commit t => .ok (t, some (c, moved))
      | .moved t _ => .ok (t.emitCopy e c 0x31, none)
    else .ok (s.emitCopy e c 0x31, none)

/-- One step of a copy: while a peer is to answer a read of it, none; then its box block and its record are read; then it moves on. -/
def State.copyStep (s : State) (e : Engine) (c : Copy) (moved : Nat) : Except Trap (State × Option (Copy × Nat)) :=
  if (s.peersOf e).any Peer.read then .ok (s, some (c, moved))
  else
    match c.unread with
    | none => s.moveOn e c moved
    | some (a, n) =>
      match s.openCopy e c a n with
      | .error t => .error t
      | .ok (t, d) => .ok (t, some (d, moved))

/-! ### Queues and jobs -/

def Core.setHead (c : Core) (q : BitVec 3) (l : List QEntry) : Core := { c with equeues := c.equeues.set q.toNat l q.isLt }

/-- The engine of a queue of the current core. -/
def Core.engine (c : Core) (q : BitVec 3) (o : Running) (pc : BitVec 58) : Engine := ⟨c.id.toNat, q, o, dieOf c.id.toNat, pc⟩

/-- The head of an engine queue takes a step; a fault names the command's bundle and slot 7 (R288). -/
def State.queueStep (s : State) (q : BitVec 3) : State :=
  match s.core.equeues[q.toNat]'q.isLt with
  | .copy c moved o pc :: rest =>
    (match s.copyStep (s.core.engine q o pc) c moved with
    | .error t => (s.raiseLater o t 7 pc).onCore fun k => k.setHead q rest
    | .ok (t, some (c, n)) => t.onCore fun k => k.setHead q (.copy c n o pc :: rest)
    | .ok (t, none) => t.onCore fun k => k.setHead q rest)
  | .node desc o pc :: rest =>
    (match s.registerCopy (s.core.engine q o pc) desc with
    | .fail t => (s.raiseLater o t 7 pc).onCore fun k => k.setHead q rest
    | .stay t => t
    | .commit t => t
    | .moved t _ => t.onCore fun k => k.setHead q rest)
  | _ => s

def State.nextJob (s : State) : Nat := s.jobs.foldl (fun n j => max n (j.id + 1)) 0

def Job.engine (j : Job) : Engine := ⟨64 + j.id, BitVec.ofNat 3 j.id, j.owner, j.die, j.pc⟩

/-- A Ready copy node starts on the engines of the base die that holds its descriptor (R290). -/
def State.startNode (s : State) (n : Node) : State :=
  match s.physOf n.space n.addr.toNat with
  | none => s
  | some pa =>
    let o : Running := ⟨{ n.key with task := 0 }, n.vdev, false, 0#2, false⟩
    { s.mapNode { n with st := .running } with
      jobs := s.jobs ++ [⟨s.nextJob, homeDie pa, copyOf (readBytes s.mem pa 64), 0, o, some n.addr, none, n.resume⟩] }

def State.dropJob (s : State) (j : Job) : State := { s with jobs := s.jobs.filter fun k => k.id != j.id }

/-- The node of a job. -/
def State.jobNode (s : State) (j : Job) : Option Node :=
  match j.node with | some a => s.nodeAt j.owner.key.part j.owner.key.launch a | none => none

/-- A job ends: its node finishes (R219), or the command that asked for it completes (R331). -/
def State.endJob (s : State) (j : Job) (f : Option Trap) : State :=
  let s := s.dropJob j
  match j.cmd with
  | some c => (match f with | some t => s.finish c 7 (Trap.code t).toNat [] | none => s.finish c 0 0 [])
  | none =>
    match f, s.jobNode j with
    | some t, _ => s.endLaunch j.owner.key ⟨t, 7#8, addrOf j.pc, 0#16, 0#64⟩
    | none, some n => s.finishNode n
    | none, none => s

/-- A page of the successor list of a node whose transfer is over: its finish waits for it (R415). -/
def State.jobWait (s : State) (j : Job) : Option Nat :=
  if j.moved < j.copy.len ∨ j.copy.unread.isSome = true then none
  else match s.jobNode j with | some n => s.succWait n | none => none

def State.jobStep (s : State) (j : Job) : State :=
  match s.jobWait j with
  | some a => s.askModule j.engine.space a
  | none =>
  match s.copyStep j.engine j.copy j.moved with
  | .error t => s.endJob j (some t)
  | .ok (t, some (c, n)) => { t with jobs := t.jobs.map fun k => if k.id = j.id then { k with copy := c, moved := n } else k }
  | .ok (t, none) => t.endJob j none

/-- The numbers of COPY_PERFORM: the eight queues of the current core, then jobs by their place, then from here on nodes by
theirs. -/
def nodeCopyBase : Nat := 2 ^ 40

/-- COPY_PERFORM (R259, R288). -/
def execCopyPerform (q : Nat) (s : State) : Host.Outcome State Fault Refusal :=
  .next (
    if q < 8 then s.queueStep (BitVec.ofNat 3 q)
    else if nodeCopyBase ≤ q then
      match s.nodes[q - nodeCopyBase]? with
      | some n => if n.copy && n.st == .ready then s.startNode n else s
      | none => s
    else match s.jobs[q - 8]? with | some j => s.jobStep j | none => s)

/-! ### Peers (R348) -/

def State.dropPeer (s : State) (id : Nat) : State := { s with peers := s.peers.filter fun p => p.id != id }

/-- Requests for a host's own access name no engine. -/
def hostEngine : Nat := 2 ^ 63

/-- The answer goes to the requester, by the port that its access came by. -/
def State.replyHost (s : State) (sp : Space) (tag : UetTag) (ok : Bool) (bs : List Byte) : State :=
  s.sendFrom sp.part ⟨.part sp.part, tag.port, tag.src, .reply tag.tag ok, bs⟩

/-- A peer has answered a request of a host's access; with the last answer the host is answered. -/
def State.hostTake (s : State) (p : Peer) (bs : List Byte) : State :=
  match s.hostReqs.find? fun r => r.ids.contains p.id with
  | none => s
  | some r =>
    let ids := r.ids.filter fun i => i != p.id
    let got := r.got ++ bs.zipIdx.map fun b => (p.dst.toNat + b.2, b.1)
    if ids = [] then
      let t : State := { s with hostReqs := s.hostReqs.filter fun q => !q.ids.contains p.id }
      t.replyHost r.space r.tag true (if r.write then [] else (List.range r.n).filterMap fun i => (got.find? fun g => g.1 == r.va + i).map Prod.snd)
    else { s with hostReqs := s.hostReqs.map fun q => if q.ids.contains p.id then { q with ids := ids, got := got } else q }

/-- The requests to peers for the parts of n bytes that stand on REMOTE pages, a line of an access each, and their numbers (R348, R415). -/
def State.hostAsk (s : State) (sp : Space) (write : Bool) (va n : Nat) (bs : List Byte) : Nat → State × List Nat
  | 0 => (s, [])
  | f + 1 =>
    if n = 0 then (s, [])
    else
      let k := min (64 - va % 64) n
      let e : Engine := ⟨hostEngine, 0#3, ⟨⟨sp.part, 0, 0⟩, sp.vdev, false, 0#2, false⟩, 0, 0#58⟩
      let (t, l) := match s.mappingOf sp va with
        | some m =>
          if m.remote then (s.askPeer e m (m.pa + (va - m.va)) (!write) (BitVec.ofNat 64 va) k (bs.take k), [s.nextPeer]) else (s, [])
        | none => (s, [])
      let (u, r) := t.hostAsk sp write (va + k) (n - k) (bs.drop k) f
      (u, l ++ r)

/-- A host's access to pages of peers, in whole or in part: the bytes of this module are written, or have been read, and the peers are
asked for the others. -/
def State.hostRelay (s : State) (sp : Space) (va n : Nat) (write : Bool) (tag : UetTag) (bs : List Byte) (got : List (Nat × Byte)) :
    State :=
  let (t, ids) := (s.poke sp va bs).hostAsk sp write va n bs (n / 64 + 2)
  { t with hostReqs := t.hostReqs ++ [⟨sp, va, n, write, tag, ids, got⟩] }

/-- A peer has performed a write. -/
def State.peerAcked (s : State) (p : Peer) : State :=
  if p.core = hostEngine then (s.dropPeer p.id).hostTake p [] else s.dropPeer p.id

/-- PEER_ACK: the peer has performed a write at system scope. -/
def execPeerAck (id : Nat) (s : State) : Host.Outcome State Fault Refusal :=
  .next (match s.peers.find? fun p => p.id == id && !p.read with
    | some p => s.peerAcked p
    | none => s)

/-- Bytes that a peer has answered, for the unit that the transfer reads. -/
def Copy.take (c : Copy) (p : Peer) (bs : List Byte) : Copy :=
  { c with got := c.got ++ bs.zipIdx.map fun b => ((p.dst.toNat + b.2) % 2 ^ 64, b.1) }

/-- The bytes of a read come to the transfer, or the host's access, that asked for them. -/
def State.peerPut (s : State) (p : Peer) (bs : List Byte) : State :=
  let s := s.dropPeer p.id
  if p.core < 64 then
    s.onCoreId p.core fun k =>
      match k.equeues[p.q.toNat]'p.q.isLt with
      | .copy c moved o pc :: rest => k.setHead p.q (.copy (c.take p bs) moved o pc :: rest)
      | _ => k
  else if p.core = hostEngine then s.hostTake p bs
  else { s with jobs := s.jobs.map fun k => if k.id = p.core - 64 then { k with copy := k.copy.take p bs } else k }

/-- PEER_READ_RESPONSE: the bytes asked for; an answer of another length is no answer. -/
def execPeerReadResponse (id : Nat) (bytes : List Byte) (s : State) : Host.Outcome State Fault Refusal :=
  .next (match s.peers.find? fun p => p.id == id && p.read with
    | some p => if bytes.length = p.len then s.peerPut p bytes else s
    | none => s)

/-- The watchdog interval of the queue whose launch an engine works for, in 1/24 ns; 0 where there is none. -/
def State.patience (s : State) (o : Running) : Nat :=
  match s.launches.find? fun l => l.space.part == o.key.part && l.id == o.key.launch with
  | some l => (match s.queueAt (l.space.part, l.queue) with | some q => q.watchdog * 24000 | none => 0)
  | none => 0

/-- PEER_TIMEOUT: a peer that has not answered within the queue's watchdog interval faults the launch with TIMEOUT. -/
def execPeerTimeout (id : Nat) (s : State) : Host.Outcome State Fault Refusal :=
  .next (match s.peers.find? fun p => p.id == id with
    | none => s
    | some p =>
      let late := fun (o : Running) => decide (0 < s.patience o) && decide (p.since + s.patience o ≤ s.time)
      if p.core < 64 then
        match s.coreOf p.core with
        | some c =>
          (match (c.equeues[p.q.toNat]'p.q.isLt).head? with
          | some (.copy _ _ o pc) => if late o then (s.dropPeer id).raiseLater o .timeout 7 pc else s
          | _ => s)
        | none => s
      else
        match s.jobs.find? fun j => j.id == p.core - 64 with
        | some j => if late j.owner then (s.dropPeer id).endJob j (some .timeout) else s
        | none => s)

/-- PEER_ARRIVAL: a peer's arrival on a variable, performed as ARRIVE.rel at system scope; one that its mapping does not admit
moves nothing, and one whose page is not present waits for it, as a message still to come (R239, R415). -/
def execPeerArrival (sp : Space) (va : BitVec 64) (n : BitVec 24) (s : State) : Host.Outcome State Fault Refusal :=
  .next (match s.xlate sp va ⟨true, true, false, false, false⟩ with
    | .at_ pa m =>
      if m.syncBreach va.toNat ⟨true, true⟩ || va.toNat % 8 != 0 then s
      else s.arriveAt pa n.toNat fun u => [(64, u, 4)]
    | .miss => { s.askModule sp va.toNat with inbox := s.inbox ++ [.peerArrival sp va n] }
    | .trap _ => s)

end Sys2Proof.Machine
end

