-- ==== Sys2Proof/Machine/Lineage.lean ====
section
/-! DEFINITION. The lineage table and its steps (R271 to R276, R305 to R309): HANDLE_STEP, the rows of HLD and HST, and the
waits at mailboxes. -/

namespace Sys2Proof.Machine

/-! ### Entries -/

/-- GEN matches and the entry is not FREE (R269). -/
def Lineage.valid (l : Lineage) (v : BitVec 128) : Bool := l.st != .free && l.gen == handleGen v

/-- OUTSTANDING changed by an access that begins or ends. -/
def State.addOutst (s : State) (i : Nat) (up : Bool) : State :=
  let l := s.entryOf i
  { s with lineage := assocSet Lineage.free s.lineage i { l with outst := if up then l.outst + 1 else l.outst - 1 } }

/-- Entries of a partition that are not FREE (R271). -/
def State.usedEntries (s : State) (part : Nat) : Nat :=
  (s.lineage.filter fun p => p.2.st != .free && p.2.part == part).length

def State.lineageQuota (s : State) (part : Nat) : Nat := match s.partOf part with | some p => p.lineage | none => 65536

/-! ### Reading through the core's view (R253, R264) -/

/-- Where a byte that a stream reads lies; a page not in the TLB is waited for. -/
def State.rowPlace (s : State) (handle : Bool) (a : Nat) : Place :=
  let c := s.core
  match s.reach c.space (BitVec.ofNat 64 a) ⟨false, !handle, handle, false, c.priv⟩ ⟨false, false⟩ with
  | .fault t => .fault t
  | .wait => .wait a
  | .go pa _ => .mem pa

/-- A 16-byte granule read at an instant that is picked no earlier than the core's view of its line and than `since`. -/
def State.granuleRead (s : State) (since g : Nat) : (Nat → Byte) × State :=
  let w := max since (s.core.view (g / 4))
  let (k, s) := s.choose (s.now - w + 1)
  let u := min s.now (w + k)
  (fun pa => s.readAt u pa, s.onCore fun c => c.setView (g / 4) u)

/-- The physical bytes of a list of addresses, each granule at one instant. -/
def State.granulesRead (s : State) (since : Nat) : List Nat → List (Nat × Byte) × State
  | [] => ([], s)
  | pa :: t =>
    let (bs, s) := s.granulesRead since t
    if bs.any fun b => b.1 / 16 == pa / 16 then (bs, s)
    else
      let (rd, s) := s.granuleRead since (pa / 16)
      ((List.range 16).map (fun i => (pa / 16 * 16 + i, rd (pa / 16 * 16 + i))) ++ bs, s)

/-- Bytes at physical addresses, from those that were read. -/
def byteIn (bs : List (Nat × Byte)) (pa : Nat) : Byte := match bs.find? fun b => b.1 == pa with | some b => b.2 | none => 0#8

/-! ### Records (R271, R295, R301) -/

/-- Where a byte of a record lies for a step at a lineage entry, by the attributes of its page before presence (R237). -/
def State.recordPlace (s : State) (o : Running) (a : Nat) : Place :=
  let sp : Space := ⟨o.key.part, o.vdev⟩
  match s.xlate sp (BitVec.ofNat 64 a) ⟨false, true, false, false, o.priv⟩ with
  | .trap t => .fault t
  | r =>
    match s.mappingOf sp a with
    | none => .fault .xlateFault
    | some m => if m.sync then .fault .protection else (match r with | .at_ pa _ => .mem pa | _ => .wait a)

/-- The record of an entry for a step, read where it stands: a fault, a page to wait for, or the record. -/
def State.entryTsr (s : State) (o : Running) (l : Lineage) : Except (Trap ⊕ Nat) Tsr :=
  let places := (List.range 192).map fun i => s.recordPlace o (l.tsr.toNat + i)
  match firstStop places with
  | some x => .error x
  | none =>
    if places.any s.placePoisoned then .error (.inl .uncorrectableData)
    else match Tsr.parse l.tsr (places.map s.placeByte) with
      | some t => .ok t
      | none => .error (.inl .illegalEncoding)

/-- The record at an address as a stream of the current core reads it: through its view, the task's version included (R253, R295). -/
def State.viewedTsr (s : State) (addr : Word) : Except (Trap ⊕ Nat) Tsr × State :=
  let a := addr.toNat
  let own := s.versionOf s.core.owner.key
  let mine := fun (i : Nat) => (own.find? fun b => b.1 == a + i).map Prod.snd
  let places := (List.range 192).map fun i => s.rowPlace false (a + i)
  match firstStop places with
  | some x => (.error x, s)
  | none =>
    let bad := places.zipIdx.any fun p =>
      if (mine p.2).isSome then (s.versionBad s.core.owner.key).contains ((a + p.2) / 8) else s.placePoisoned p.1
    if bad then (.error (.inl .uncorrectableData), s)
    else
      let pas := places.filterMap fun p => match p with | .mem pa => some pa | _ => none
      let (bs, s) := s.granulesRead 0 pas
      match Tsr.parse addr (pas.zipIdx.map fun p => (mine p.2).getD (byteIn bs p.1)) with
      | some t => (.ok t, s)
      | none => (.error (.inl .illegalEncoding), s)

/-- The box of an entry on the axes of its record. -/
def Lineage.box (l : Lineage) (rank : Nat) : Box :=
  (List.range rank).map fun i => (l.lo.getD i 0, (l.hi.getD i 1 - l.lo.getD i 0).toNat)

/-! ### What a step answers -/

/-- A step of a handle operation: it waits, it finds its mailbox with nothing for it, it fails, or it is taken. -/
inductive HAns
  | wait (s : State)
  | idle (s : State)
  | fail (t : Trap)
  | done (s : State)
  deriving DecidableEq, Repr

def HStep.space (h : HStep) : Space := ⟨h.owner.key.part, h.owner.vdev⟩

/-- HSPLIT (R273). -/
def State.splitStep (s : State) (h : HStep) (v : BitVec 128) (ax : Nat) (point : Int) (low high : Nat) : HAns :=
  let i := (handleLidx v).toNat
  let l := s.entryOf i
  if l.outst ≠ 0 ∨ s.core.heldByStream h.owner v = true then .wait s
  else if !l.valid v || l.st != .live || l.holder != h.owner.key.task then .fail .protection
  else
    match s.entryTsr h.owner l with
    | .error (.inl t) => .fail t
    | .error (.inr a) => .wait (s.askPage h.space a)
    | .ok t =>
      if t.rank ≤ ax then .fail .protection
      else if !(decide (l.lo.getD ax 0 < point) && decide (point < l.hi.getD ax 1)) then .fail .protection
      else if s.lineageQuota l.part < s.usedEntries l.part + 2 then .fail .protection
      else
        let child := fun (k : Nat) (lo hi : List Int) =>
          { l with parent := i, childL := 0, childH := 0, st := LinState.live, gen := (s.entryOf k).gen, lo := lo, hi := hi }
        let a := child low l.lo (l.hi.set ax point)
        let b := child high (l.lo.set ax point) l.hi
        .done (((s.setEntry i { l with
          st := .split, axis := ax, point := point, childL := low, childH := high, gen := l.gen + 1 }).setEntry low a).setEntry
            high b)

/-- A handle register and a scalar of the core that waits at a step, readable from the next cycle. -/
def Core.setHandle (c : Core) (h : BitVec 4) (r : HReg) : Core := c.onCtx fun x => x.setH h r

/-- HREJOIN (R273, R306). -/
def State.rejoinStep (s : State) (h : HStep) (hp hl hr : BitVec 4) (vl vr : BitVec 128) (movedSrc : Bool) : HAns :=
  let il := (handleLidx vl).toNat
  let ir := (handleLidx vr).toNat
  let a := s.entryOf il
  let b := s.entryOf ir
  if a.outst ≠ 0 ∨ b.outst ≠ 0 then .wait s
  else if movedSrc then .fail .mismatchedRejoin
  else if !a.valid vl || !b.valid vr || a.holder != h.owner.key.task || b.holder != h.owner.key.task then .fail .protection
  else
    let p := s.entryOf a.parent
    if p.st != .split || p.childL != il || p.childH != ir || a.st != .live || b.st != .live || a.parent != b.parent then
      .fail .mismatchedRejoin
    else
      let free := fun (l : Lineage) => { Lineage.free with gen := l.gen + 1 }
      let s := ((s.setEntry a.parent { p with st := .live, holder := h.owner.key.task }).setEntry il (free a)).setEntry ir (free b)
      .done (s.onCore fun c =>
        let c := if hl = hp then c else c.setHandle hl HReg.reset
        let c := if hr = hp then c else c.setHandle hr HReg.reset
        c.setHandle hp ⟨makeHandle s.handleKey a.parent p.gen p.part, .live⟩)

/-- Where a mailbox lies: the attribute checks of R307. -/
def State.mailboxAt (s : State) (h : HStep) (va : Word) : Except (Trap ⊕ Nat) Nat :=
  match s.xlate h.space va ⟨true, false, false, false, h.owner.priv⟩ with
  | .trap t => .error (.inl t)
  | r =>
    match s.mappingOf h.space va.toNat with
    | none => .error (.inl .xlateFault)
    | some m =>
      if !m.sync || !isMailbox (m.pa + (va.toNat - m.va)) then .error (.inl .protection)
      else match r with | .at_ pa _ => .ok pa | _ => .error (.inr va.toNat)

def State.mailbox (s : State) (pa : Nat) : Option (BitVec 128) := (s.mailboxes.find? fun m => m.1 == pa).map fun m => m.2.1

/-- The time at which the handle in a mailbox was deposited. -/
def State.depositTime (s : State) (pa : Nat) : Nat := match s.mailboxes.find? fun m => m.1 == pa with | some m => m.2.2 | none => 0

def State.emptyMailbox (s : State) (pa : Nat) : State := { s with mailboxes := s.mailboxes.filter fun m => m.1 != pa }

/-- HPUT (R273, R307). -/
def State.putStep (s : State) (h : HStep) (v : BitVec 128) (va : Word) : HAns :=
  let i := (handleLidx v).toNat
  let l := s.entryOf i
  if l.outst ≠ 0 ∨ s.core.heldByStream h.owner v = true then .wait s
  else if !l.valid v || l.st != .live || l.holder != h.owner.key.task then .fail .protection
  else
    match s.mailboxAt h va with
    | .error (.inl t) => .fail t
    | .error (.inr a) => .wait (s.askPage h.space a)
    | .ok pa =>
      if (s.mailbox pa).isSome then .fail .handleLeak
      else
        let t := s.setEntry i { l with holder := 0 }
        .done { t with mailboxes := t.mailboxes ++ [(pa, v, s.time)] }

/-- The handle in a mailbox passes to a task (R273); none where it is not valid. -/
def State.takeFrom (s : State) (pa : Nat) (v : BitVec 128) (task : Nat) : Option State :=
  let i := (handleLidx v).toNat
  let l := s.entryOf i
  if l.valid v && l.st == .live && l.holder == 0 then some ((s.emptyMailbox pa).setEntry i { l with holder := task }) else none

/-- The request of an HTAKE at its mailbox: the task, and which member of a gang. -/
def HStep.request (h : HStep) (core pa : Nat) : Nat × TaskKey × Nat := (pa, h.owner.key, if h.owner.gang then core % 4 else 0)

/-- The instant at which an unsuspended HTAKE gives up (R307). -/
def takeBound (since : Nat) : Nat := since + 16384 * 24

/-- The deposit in a mailbox came in time for an HTAKE. -/
def State.inTime (s : State) (h : HStep) (pa : Nat) : Bool :=
  match h.since with | some t => decide (s.depositTime pa ≤ takeBound t) | none => true

/-- A poisoned entry faults the launch that owns it, with the task id (R381). -/
def State.entryLost (s : State) (k : TaskKey) : State := s.endLaunch k (bareFault .uncorrectableData)

/-- HTAKE (R307): a deposit goes to the earliest request that waits. -/
def State.takeStep (s : State) (h : HStep) (hd : BitVec 4) (sa : BitVec 6) (va : Word) (susp : Bool) : HAns :=
  match s.mailboxAt h va with
  | .error (.inl t) => .fail t
  | .error (.inr a) => .wait (s.askPage h.space a)
  | .ok pa =>
    let me := h.request s.core.id.toNat pa
    let first := match s.hwaits.find? fun w => w.1 == pa with | some w => w == me | none => true
    match s.mailbox pa, first && s.inTime h pa with
    | some v, true =>
      if s.entryPoisoned (handleLidx v).toNat then .done (s.entryLost h.owner.key)
      else
      (match s.takeFrom pa v h.owner.key.task with
      | none => .fail .protection
      | some t => .done (({ t with hwaits := s.hwaits.erase me } : State).onCore fun c =>
          (c.setHandle hd ⟨v, .live⟩).onCtx fun x => x.setS sa 1#64))
    | _, _ =>
      let t : State := { s with hwaits := if s.hwaits.contains me then s.hwaits else s.hwaits ++ [me] }
      if susp then .done (t.onCore fun c => { c with leave := some (.wait (.handle me.2.2 hd sa pa)) }) else .idle t

/-- The checks of HLD and HST at their step (R308). -/
def rowAccessCheck (h : HStep) (l : Lineage) (v : BitVec 128) (t : Tsr) (e rows : Word) : Option Trap :=
  let b := l.box t.rank
  let r0 := rows.toNat % 2 ^ 32
  let n := rows.toNat / 2 ^ 32 % 2 ^ 16
  let slot := ((Box.line b * ElemFmt.width t.efmt + 7) / 8 + 63) / 64 * 64
  let window := if h.owner.gang then 2 ^ 22 else 2 ^ 20
  if !l.valid v || l.st != .live || l.holder != h.owner.key.task then some .protection
  else if n = 0 ∨ rows.toNat / 2 ^ 48 ≠ 0 ∨ rowCount b < r0 + n ∨ window < e.toNat + n * slot then some .protection
  else none

/-- HLD and HST: the access counts in OUTSTANDING, and its rows are to be performed. -/
def State.accessStep (s : State) (h : HStep) (store : Bool) (v : BitVec 128) (e rows : Word) : HAns :=
  let i := (handleLidx v).toNat
  let l := s.entryOf i
  if !l.valid v || l.st != .live || l.holder != h.owner.key.task then .fail .protection
  else
    match s.entryTsr h.owner l with
    | .error (.inl t) => .fail t
    | .error (.inr a) => .wait (s.askPage h.space a)
    | .ok t =>
      match rowAccessCheck h l v t e rows with
      | some f => .fail f
      | none =>
        .done ((s.addOutst i true).onCore fun c =>
          let after := c.ctx.queues.toList.flatMap fun q => (q.filter fun st => st.counted && decide (st.handle = some v)).map Stream.id
          { c with taccs := c.taccs ++ [⟨i, store, e.toNat, rows.toNat % 2 ^ 32, rows.toNat / 2 ^ 32 % 2 ^ 16, h.owner, h.pc, after⟩] })

/-- HINFO (R309). -/
def State.infoStep (s : State) (h : HStep) (v : BitVec 128) (sa : BitVec 6) (ax : Nat) : HAns :=
  let l := s.entryOf (handleLidx v).toNat
  if l.outst ≠ 0 then .wait s
  else if !l.valid v || l.st != .live || l.holder != h.owner.key.task then .fail .protection
  else
    match s.entryTsr h.owner l with
    | .error (.inl t) => .fail t
    | .error (.inr a) => .wait (s.askPage h.space a)
    | .ok t =>
      let w := if t.rank ≤ ax then 0 else wrapInt 32 (l.lo.getD ax 0) + wrapInt 32 (l.hi.getD ax 1) * 2 ^ 32
      .done (s.onCore fun c => c.onCtx fun x => x.setS sa (BitVec.ofNat 64 w))

/-- A box lies inside the bounds of an entry. -/
def boxWithin (b : Box) (l : Lineage) : Bool :=
  b.zipIdx.all fun p => decide (l.lo.getD p.2 0 ≤ p.1.1) && decide (p.1.1 + p.1.2 ≤ l.hi.getD p.2 1)

/-- TFH at its entry (R301): the lineage checks, then the record and the box; the stream then counts in OUTSTANDING. A
failure is its landing's. -/
def State.streamStep (s : State) (h : HStep) (v : BitVec 128) (q : BitVec 2) (id : Nat) : HAns :=
  let i := (handleLidx v).toNat
  let l := s.entryOf i
  let failed := fun (t : Trap) => HAns.done (s.onCore fun c => c.onCtx fun x => x.failLanding id t)
  if !l.valid v || l.st != .live || l.holder != h.owner.key.task then failed .protection
  else
    match (s.core.ctx.queue q).find? fun st => st.id == id with
    | none => .done s
    | some st =>
      let r : Except (Trap ⊕ Nat) Tsr × State := match s.core.recCache.find? fun u => decide (u.addr = l.tsr) with
        | some u => (.ok u, s)
        | none => s.viewedTsr l.tsr
      match r with
      | (.error (.inl t), _) => failed t
      | (.error (.inr a), _) => .wait (s.askPage h.space a)
      | (.ok t, s) =>
        if st.check t = none ∧ boxWithin (t.clip st.box) l = false then failed .protection
        else
          let s := s.onCore fun c => c.openStream q st t
          if st.check t = none then
            .done ((s.addOutst i true).onCore fun c => c.onCtx fun x => x.mapStream q id fun u => { u with counted := true })
          else .done s

/-! ### HANDLE_STEP (R274, R305) -/

/-- The entries that a step reads; that of a handle in a mailbox is read by the HTAKE that it answers. -/
def State.readEntries (s : State) : HOp → List Nat
  | .split v _ _ _ _ => [(handleLidx v).toNat]
  | .rejoin _ _ _ vl vr _ => [(handleLidx vl).toNat, (handleLidx vr).toNat, (s.entryOf (handleLidx vl).toNat).parent]
  | .put v _ => [(handleLidx v).toNat]
  | .take _ _ _ _ => []
  | .rowLoad v _ _ => [(handleLidx v).toNat]
  | .rowStore v _ _ => [(handleLidx v).toNat]
  | .info v _ _ => [(handleLidx v).toNat]
  | .stream v _ _ => [(handleLidx v).toNat]
  | .spawn _ => []

/-- The step of a handle operation at its entry. -/
def State.hopStep (s : State) (h : HStep) : HAns :=
  if (s.readEntries h.op).any s.entryPoisoned then .done (s.entryLost h.owner.key)
  else
  match h.op with
  | .split v ax point low high => s.splitStep h v ax point low high
  | .rejoin hp hl hr vl vr movedSrc => s.rejoinStep h hp hl hr vl vr movedSrc
  | .put v va => s.putStep h v va
  | .take hd sa va susp => s.takeStep h hd sa va susp
  | .rowLoad v e rows => s.accessStep h false v e rows
  | .rowStore v e rows => s.accessStep h true v e rows
  | .info v sa ax => s.infoStep h v sa ax
  | .stream v q id => s.streamStep h v q id
  | .spawn _ => .wait s

/-- The oldest handle operation of the core takes its step, waits, or fails with its bundle and slot 7 (R305). -/
def State.handleStep (s : State) : State :=
  match s.core.hsteps with
  | [] => s
  | h :: rest =>
    match s.hopStep h with
    | .done t => t.onCore fun c => { c with hsteps := rest }
    | .fail f => (s.onCore fun c => h.undone { c with hsteps := rest }).raiseLater h.owner f 7 h.pc
    | .wait t => t
    | .idle t => t.onCore fun c => { c with hsteps := { h with since := some (h.since.getD s.time) } :: rest }

def execHandleStep (s : State) : Host.Outcome State Fault Refusal := .next s.handleStep

/-- The handle that an HTAKE waits for lies in its mailbox, in time. -/
def State.takeAnswered (s : State) (h : HStep) (va : Word) : Bool :=
  match s.mailboxAt h va with
  | .ok pa => (s.mailbox pa).isSome && s.inTime h pa
      && (s.hwaits.find? fun w => w.1 == pa) == some (h.request s.core.id.toNat pa)
  | .error _ => false

/-- An HTAKE at the head of the core's steps whose bound has passed, with no handle for it: its scalar (R307). -/
def State.takeOver (s : State) : Option (HStep × BitVec 6) :=
  match s.core.hsteps with
  | h :: _ =>
    (match h.op, h.since with
    | .take _ sa va false, some t0 => if takeBound t0 ≤ s.time ∧ s.takeAnswered h va = false then some (h, sa) else none
    | _, _ => none)
  | [] => none

/-- HTAKE_BOUND_EXPIRY: no handle came within 16,384 reference ticks of the step; sA = 0, and the request is withdrawn (R307). -/
def execHtakeBoundExpiry (s : State) : Host.Outcome State Fault Refusal :=
  .next (match s.takeOver with
    | some (h, sa) =>
      let member := (h.request s.core.id.toNat 0).2.2
      { s with hwaits := s.hwaits.filter fun w => !(decide (w.2.1 = h.owner.key) && w.2.2 == member) }.onCore fun c =>
        { c with hsteps := c.hsteps.tail }.onCtx fun x => x.setS sa 0#64
    | none => s)

/-- HANDLE_DEPOSIT_WAKE (R307): a deposit goes to the earliest suspended request: the handle is written into the image as
LIVE, sA as 1, and the task becomes Ready. -/
def State.depositWake (s : State) (pa : Nat) : State :=
  match s.hwaits.find? fun w => w.1 == pa with
  | none => s
  | some (_, key, member) =>
    match s.mailbox pa, s.nodeOfKey key with
    | some v, some n =>
      (match n.waits.find? fun w => match w with | .handle m _ _ p => m == member && p == pa | _ => false with
      | some (.handle m h sa p) =>
        if n.st != .suspended then s
        else
          let rest := s.hwaits.erase (pa, key, member)
          if s.entryPoisoned (handleLidx v).toNat then ({ s with hwaits := rest }).entryLost key
          else
          (match s.takeFrom pa v key.task with
          | none => ({ s with hwaits := rest }).endLaunch key (bareFault .protection)
          | some t =>
            ({ t with hwaits := rest }).wakeNode n (.handle m h sa p)
              (fun x => (x.setH h ⟨v, .live⟩).setS sa 1#64) member)
      | _ => s)
    | _, _ => s

def execHandleDepositWake (pa : Nat) (s : State) : Host.Outcome State Fault Refusal := .next (s.depositWake pa)

/-! ### The rows of HLD and HST (R308) -/

/-- Tile bytes are written at their home; they have no views (R266). -/
def State.writeTile (s : State) (pa : Nat) (b : Byte) : State := { s with mem := writeByte s.mem pa b }

/-- Where a byte of a tile lies for a handle access, by the attributes of its page before presence (R237). -/
def State.tilePlace (s : State) (o : Running) (write : Bool) (a : Nat) : Place :=
  let sp : Space := ⟨o.key.part, o.vdev⟩
  match s.xlate sp (BitVec.ofNat 64 a) ⟨write, false, true, false, o.priv⟩ with
  | .trap t => .fault t
  | r =>
    match s.mappingOf sp a with
    | none => .fault .xlateFault
    | some m => if m.sync then .fault .protection else (match r with | .at_ pa _ => .mem pa | _ => .wait a)

/-- The elements of row j of a box. -/
def Tsr.tileRow (t : Tsr) (b : Box) (j : Nat) : List ElemSrc :=
  (List.range (Box.line b)).map fun k => t.source (boxCoord b j k) true false

/-- The scratchpad bytes of a row, packed, PAD where outside DIM, and zeros up to its slot. -/
def Tsr.packRow (t : Tsr) (rd : Nat → Byte) (es : List ElemSrc) : List Byte :=
  let w := ElemFmt.width t.efmt
  let n := (es.length * w + 7) / 8
  let v := packNat w (fun k => match es[k]? with | some e => t.valueOf rd e | none => 0) es.length
  let slot := (n + 63) / 64 * 64
  leBytes slot v

/-- The row of a store: each element inside DIM takes its packed value. -/
def State.storeRow (s : State) (o : Running) (t : Tsr) (es : List ElemSrc) (bs : List Byte) : State :=
  let w := ElemFmt.width t.efmt
  let v := leNat bs
  es.zipIdx.foldl (fun s p =>
    match p.1.elem with
    | none => s
    | some (a, nib) =>
      let x := digit w v p.2
      let put := fun (s : State) (a : Nat) (b : Byte) => match s.tilePlace o true a with | .mem pa => s.writeTile pa b | _ => s
      match w with
      | 4 =>
        let old := (s.placeByte (s.tilePlace o true a)).toNat
        put s a (BitVec.ofNat 8 (if nib = 0 then old / 16 * 16 + x else old % 16 + x * 16))
      | 16 => put (put s a (BitVec.ofNat 8 x)) ((a + 1) % 2 ^ 64) (BitVec.ofNat 8 (x / 256))
      | _ => put s a (BitVec.ofNat 8 x)) s

/-- Bytes that a row writes whole. -/
def Tsr.wholeBytes (t : Tsr) (es : List ElemSrc) : List Nat :=
  let at_ := es.filterMap ElemSrc.elem
  match ElemFmt.width t.efmt with
  | 4 => (at_.filter fun p => p.2 == 0 && at_.any fun q => q.1 == p.1 && q.2 != 0).map Prod.fst
  | _ => es.flatMap t.elemBytes

/-- A memory line that a row writes whole is poisoned no more (R381). -/
def State.cleanTile (s : State) (o : Running) (t : Tsr) (es : List ElemSrc) : State :=
  let pas := (t.wholeBytes es).filterMap fun a => match s.tilePlace o true a with | .mem pa => some pa | _ => none
  { s with poison := s.poison.filter fun l => !((List.range 64).all fun i => pas.contains (64 * l + i)) }

/-- The lines of some places are accessed at their homes (R232, R267). -/
def State.touchPlaces (s : State) (write : Bool) (places : List Place) : State :=
  (places.filterMap fun p => match p with | .mem pa => some (pa / 64) | _ => none).dedup.foldl (fun s l => s.homeTouch (l * 64) write) s

/-- The scratchpad cells of an access from offset e up. -/
def tileCells (c : Core) (o : Running) (e : Nat) (bs : List Byte) : List (Nat × Byte) :=
  bs.zipIdx.map fun p => (Engine.spmKey ⟨c.id.toNat, 0#3, o, 0, 0#58⟩ (e + p.2), p.1)

/-- One row of an access; with its last row it leaves OUTSTANDING. -/
def State.tileRowStep (s : State) (k : Nat) (a : TAcc) : State :=
  let sp : Space := ⟨a.owner.key.part, a.owner.vdev⟩
  let l := s.entryOf a.lidx
  let drop := fun (s : State) => (s.addOutst a.lidx false).onCore fun c => { c with taccs := c.taccs.eraseIdx k }
  if s.entryPoisoned a.lidx then (s.onCore fun c => { c with taccs := c.taccs.eraseIdx k }).entryLost a.owner.key
  else
  match s.entryTsr a.owner l with
  | .error (.inl t) => (drop s).raiseLater a.owner t 7 a.pc
  | .error (.inr p) => s.askPage sp p
  | .ok t =>
    let b := l.box t.rank
    let es := t.tileRow b a.row
    let places := (es.flatMap t.elemBytes).map fun x => s.tilePlace a.owner a.store x
    match firstStop places with
    | some (.inl f) => (drop s).raiseLater a.owner f 7 a.pc
    | some (.inr p) => s.askPage sp p
    | none =>
      if !a.store && places.any s.placePoisoned then (drop s).raiseLater a.owner .uncorrectableData 7 a.pc
      else
        let slot := ((es.length * ElemFmt.width t.efmt + 7) / 8 + 63) / 64 * 64
        let s := s.touchPlaces a.store places
        let s :=
          if a.store then
            let bs := (List.range slot).map fun i => readByte s.spm (Engine.spmKey ⟨s.core.id.toNat, 0#3, a.owner, 0, 0#58⟩ (a.e + i))
            (s.storeRow a.owner t es bs).cleanTile a.owner t es
          else
            s.writeSpm (tileCells s.core a.owner a.e (t.packRow (fun x => s.placeByte (s.tilePlace a.owner false x)) es))
        if a.left ≤ 1 then drop s
        else
          s.onCore fun c =>
            { c with taccs := c.taccs.set k { a with row := a.row + 1, left := a.left - 1, e := a.e + slot } }

/-- Accesses through the handle that go before the access numbered k: earlier ones, and streams issued before it that have not ended. -/
def Core.taccWaits (c : Core) (k : Nat) (a : TAcc) : Bool :=
  (c.taccs.take k).any (fun b => b.lidx == a.lidx)
    || c.ctx.queues.toList.any fun q => q.any fun st => st.counted && a.after.contains st.id

/-- TILE_ACCESS_PERFORM of the access numbered k: accesses through one handle perform in program order (R266). -/
def execTileAccessPerform (k : Nat) (s : State) : Host.Outcome State Fault Refusal :=
  .next (match s.core.taccs[k]? with
    | some a => if s.core.taccWaits k a then s else s.tileRowStep k a
    | none => s)

end Sys2Proof.Machine
end

