-- ==== Sys2Proof/Machine/Rows.lean ====
section
/-! DEFINITION. The rows of tile-fetch streams (R264, R294, R295, R299, R303): how a stream reads its record and its rows, and
how it gives up its pins (R242). -/

namespace Sys2Proof.Machine

/-! ### The record of a stream (R295, R300) -/

/-- A stream without a record reads it, the task's version included, and enters it in the cache; an error is that of its first
row. -/
def State.readRecord (s : State) (q : BitVec 2) (st : Stream) : State :=
  match s.viewedTsr st.recAddr with
  | (.error (.inl t), _) => s.onCore fun c => c.onCtx fun x => x.failLanding st.id t
  | (.error (.inr p), _) => s.askPage s.core.space p
  | (.ok t, s) => s.onCore fun c => c.openStream q st t

/-! ### A row (R264, R298, R301) -/

/-- The next row of a stream, or what stands in its way. Element bytes of a TFH stream are reached through the handle and have
no views; scales and indices lie in ordinary memory. -/
def State.readRow (s : State) (st : Stream) (t : Tsr) : Except (Trap ⊕ Nat) (Row × State) :=
  let es := t.rowSources st.box st.fetched
  let elems := (es.flatMap t.elemBytes).dedup
  let sides := (es.flatMap ElemSrc.sideBytes).dedup
  let places := elems.map (fun a => (a, s.rowPlace st.handle.isSome a)) ++ sides.map fun a => (a, s.rowPlace false a)
  match firstStop (places.map Prod.snd) with
  | some x => .error x
  | none =>
    if places.any fun p => s.placePoisoned p.2 then .error (.inl .uncorrectableData)
    else
      let pas := places.filterMap fun p => match p.2 with | .mem pa => some (p.1, pa) | _ => none
      let viewed := if st.handle.isSome then pas.filter fun p => sides.contains p.1 else pas
      let (bs, s) := s.granulesRead st.since (viewed.map Prod.snd)
      let s := (pas.map fun p => p.2 / 64).dedup.foldl (fun s l => s.tileTouch s.core.id.toNat (l * 64) (s.core.id.toNat, st.id, st.fetched)) s
      let rd := fun a =>
        match pas.find? fun p => p.1 == a with
        | some p => if st.handle.isSome && elems.contains a && !sides.contains a then readByte s.mem p.2 else byteIn bs p.2
        | none => 0#8
      .ok (t.streamRow rd es, s)

/-- A row enters its queue; the first row waits in its landing entry (R299). -/
def Ctx.enterStreamRow (x : Ctx) (q : BitVec 2) (st : Stream) (r : Row) : Ctx :=
  let x := x.mapStream q st.id fun u => { u with rows := u.rows ++ [r], fetched := u.fetched + 1, pinned := true }
  if st.fetched = 0 ∧ st.first = true then x.mapLanding st.id fun l => { l with data := some r } else x

/-- Rows that a queue holds. -/
def queueRows (l : List Stream) : Nat := l.foldl (fun n st => n + st.rows.length) 0

/-- The stream that fetches next: the first that has rows to come, or the first row of the one behind it. -/
def nextFetch : List Stream → Option Stream
  | [] => none
  | st :: t =>
    if st.ended || st.rowErr.isSome || (st.total != 0 && st.fetched == st.total) then nextFetch t
    else some st

/-- The waiting stream's first row, when the stream ahead still fetches. -/
def waitingFirst : List Stream → Option Stream
  | [] => none
  | st :: t =>
    if st.ended then waitingFirst t
    else t.find? fun u => u.first && u.fetched == 0 && u.rowErr.isNone

/-- An HLD or HST through the handle of a stream, issued before it, has not performed: the stream's rows come after it (R266; streams of one
handle only read, and are not ordered among themselves). -/
def Core.streamBehind (c : Core) (st : Stream) : Bool :=
  match st.handle with
  | some v => c.taccs.any fun a => a.lidx == (handleLidx v).toNat && decide (a.owner = c.owner) && !a.after.contains st.id
  | none => false

/-- One fetch of a stream. -/
def State.fetchStream (s : State) (q : BitVec 2) (st : Stream) : State :=
  match st.tsr with
  | none => if st.handle.isSome then s else s.readRecord q st
  | some t =>
    if s.core.streamBehind st || (st.handle.isSome && !st.counted) then s
    else if 64 ≤ queueRows (s.core.ctx.queue q) && !(st.first && st.fetched == 0) then s
    else
      match s.readRow st t with
      | .error (.inr p) => s.askPage s.core.space p
      | .error (.inl f) =>
        s.onCore fun c => c.onCtx fun x =>
          if st.fetched = 0 ∧ st.first = true then x.failLanding st.id f
          else x.mapStream q st.id fun u => { u with rowErr := some f }
      | .ok (r, s) => s.onCore fun c => c.onCtx fun x => x.enterStreamRow q st r

/-- The landing of a stream has met an error, so that it fetches nothing more. -/
def Ctx.landingFailed (x : Ctx) (id : Nat) : Bool := x.landings.any fun l => l.id == id && l.err.isSome

/-- TF_ROW_ARRIVAL of queue q (R299). -/
def State.rowArrival (s : State) (q : BitVec 2) : State :=
  let x := s.core.ctx
  let open_ := (x.queue q).filter fun st => !x.landingFailed st.id
  match nextFetch open_, waitingFirst open_ with
  | some st, none => s.fetchStream q st
  | some st, some w =>
    let (k, s) := s.choose 2
    if k = 0 then s.fetchStream q st else s.fetchStream q w
  | none, _ => s

def execTfRowArrival (q : BitVec 2) (s : State) : Host.Outcome State Fault Refusal := .next (s.rowArrival q)

/-! ### Pins (R242) -/

/-- Row j of a stream has bytes on a page. -/
def Tsr.rowOnPage (t : Tsr) (b : Box) (j va size : Nat) : Bool :=
  (t.rowSources b j).any fun e => (t.elemBytes e ++ e.sideBytes).any fun a => decide (va ≤ a ∧ a < va + size)

/-- Rows that the stream holds and that lie on a page. -/
def Stream.pinsOn (st : Stream) (va size : Nat) : Bool :=
  match st.tsr with
  | some t => (List.range st.rows.length).any fun i => t.rowOnPage st.box (st.popped + i) va size
  | none => false

/-- A stream gives up its pins on a page: from the first row on that page, its rows are to be fetched again. -/
def Stream.dropPins (st : Stream) (va size : Nat) : Stream :=
  match st.tsr with
  | none => st
  | some t =>
    let keep := ((List.range st.rows.length).takeWhile fun i => !(t.rowOnPage st.box (st.popped + i) va size)).length
    { st with rows := st.rows.take keep, fetched := st.popped + keep }

/-- The streams of a queue give up their pins on a page: a first row that waits in its landing entry leaves it, to come late. -/
def Ctx.dropPins (x : Ctx) (q : BitVec 2) (va size : Nat) : Ctx :=
  let sts := (x.queue q).map fun st => st.dropPins va size
  { x.setQueue q sts with
    landings := x.landings.map fun l => if sts.any fun st => st.id == l.id && st.first && st.fetched == 0 then { l with data := none } else l }

/-- A stream that gives up every pin: its rows are to be fetched again, but for a first row that waits in its landing entry, which lands at its
named cycle from the saved data (R96). -/
def Stream.dropRows (st : Stream) : Stream :=
  let kept := if st.first then st.rows.take 1 else []
  { st with rows := kept, fetched := st.popped + kept.length, rowErr := none, pinned := false }

/-- The task's streams give up every pin (R230, R242, R276). -/
def Ctx.dropRows (x : Ctx) : Ctx := { x with queues := x.queues.map fun q => q.map Stream.dropRows }

/-- What waits for pins: the pages of shootdowns, and the ranges of invalidations (R241, R246), each with the time from which it waits. -/
def State.pinWaits (s : State) : List (Space × Nat × Nat × Nat) :=
  (s.moves.filterMap fun m => (s.mappingOf m.1 m.2.1).map fun p => (m.1, p.va, p.size, m.2.2.2))
    ++ s.cores.flatMap fun c => c.fifo.filterMap fun e =>
      match e.op, e.part with
      | .cacheinv len, (t, _) :: _ =>
        let n := min len.toNat (2 ^ 30)
        if n = 0 then none
        else some (e.space, e.va.toNat / 64 * 64, (e.va.toNat + n + 63) / 64 * 64 - e.va.toNat / 64 * 64, t)
      | _, _ => none

/-- Where the current core must give up its pins for a shootdown or an invalidation that waits: at once if it does not tick, after 10 µs if it
does. -/
def State.pinsDue (s : State) : List (Space × Nat × Nat × Nat) :=
  let c := s.core
  let still := c.freeze != 0#4 || c.phase == .held
  s.pinWaits.filter fun m => decide (m.1 = c.space) && (still || decide (m.2.2.2 + 10000 * 24 ≤ s.time))

/-- The first queue that has such pins. -/
def State.pinQueue (s : State) : Option Nat :=
  if s.core.ctx.queues.toList.all List.isEmpty then none
  else (List.range 4).find? fun q => s.pinsDue.any fun m =>
    (s.core.ctx.queue (BitVec.ofNat 2 q)).any fun st => st.pinsOn m.2.1 m.2.2.1

/-- The core gives up the pins of a queue that it must. -/
def State.pinDrop (s : State) (q : BitVec 2) : State :=
  s.pinsDue.foldl (fun s m => s.onCore fun c => c.onCtx fun x => x.dropPins q m.2.1 m.2.2.1) s

def execPinDropTimeout (q : BitVec 2) (s : State) : Host.Outcome State Fault Refusal := .next (s.pinDrop q)

end Sys2Proof.Machine
end

