-- ==== Sys2Proof/Machine/Paging.lean ====
section
/-! DEFINITION. Page walks and page-ins (R238, R239), shootdowns (R241 to R243), and the loading of code pages (R343, R344). -/

namespace Sys2Proof.Machine

/-! ### Walks (R238) -/

/-- A core has work of a tenant that may need a translation. -/
def Core.serves (c : Core) (sp : Space) : Bool :=
  (c.task.isSome && decide (c.space = sp)) || c.fifo.any fun e => decide (e.space = sp)

/-- A TLB of 2,048 entries takes a page; the oldest entry makes room (log entry 24). -/
def fillTlb (tlb : List (Nat × Space × Nat)) (core : Nat) (sp : Space) (page : Nat) : List (Nat × Space × Nat) :=
  let mine := tlb.filter fun e => e.1 == core
  let tlb := if 2048 ≤ mine.length then (match mine.getLast? with | some e => tlb.erase e | none => tlb) else tlb
  if tlb.contains (core, sp, page) then tlb else (core, sp, page) :: tlb

/-- The second-level TLB of a chiplet, of 32,768 entries, takes a page (R238). -/
def fillTlb2 (tlb : List (Nat × Space × Nat)) (unit : Nat) (sp : Space) (page : Nat) : List (Nat × Space × Nat) :=
  let mine := tlb.filter fun e => e.1 == unit
  let tlb := if 32768 ≤ mine.length then (match mine.getLast? with | some e => tlb.erase e | none => tlb) else tlb
  if tlb.contains (unit, sp, page) then tlb else (unit, sp, page) :: tlb

/-- The walk of a page for a unit is complete: every merged request proceeds. -/
def State.endWalk (s : State) (sp : Space) (page unit : Nat) : State := { s with pageWalks := s.pageWalks.erase (sp, page, unit) }

/-- The units that wait for a page. -/
def State.walkUnits (s : State) (sp : Space) (va : Nat) : List Nat :=
  (s.pageWalks.filter fun w => decide (w.1 = sp) && w.2.1 == va).map fun w => w.2.2

/-- The walk of one unit ends: the page enters the second-level TLB of the chiplet, which may hold it already (no walk is then made), and
the TLBs of the cores there that wait. -/
def State.walkDone (s : State) (m : Mapping) (va unit : Nat) : State :=
  let hit := s.caches.tlb2.contains (unit, m.space, m.va)
  let tlb := (s.cores.filter fun c => c.serves m.space && chipletOf c.id.toNat == unit).foldl
    (fun t c => fillTlb t c.id.toNat m.space m.va) s.tlb
  let t := ({ s with tlb := tlb }.endWalk m.space va unit).onCaches fun k =>
    { k with tlb2 := if unit < 8 then fillTlb2 k.tlb2 unit m.space m.va else k.tlb2 }
  if hit then t else t.tally m.space.part 11 0 1

/-- PAGE_WALK: of the units that wait for the page, one's walk ends, in no fixed order. A present page enters its TLBs; one that is not
mapped, or that no backing can be allocated for, ends the walk, and the requests then fault; one that is not present stays for its page-in. -/
def State.pageWalk (s : State) (sp : Space) (va : Nat) : State :=
  let us := s.walkUnits sp va
  let (k, s) := s.pickAny us.length
  match us[k]? with
  | none => s
  | some unit =>
    match s.mappingOf sp va with
    | none => s.endWalk sp va unit
    | some m => if m.present then s.walkDone m va unit else if m.isRefused then s.endWalk sp va unit else s

def execPageWalk (sp : Space) (va : BitVec 64) (s : State) : Host.Outcome State Fault Refusal := .next (s.pageWalk sp va.toNat)

/-! ### Frames -/

/-- A byte or line address of one frame, in another. -/
def shiftAddr (old new size a : Nat) : Nat := if old ≤ a ∧ a < old + size then new + (a - old) else a

/-- Whether an address lies in a frame. -/
def inFrame (pa size a : Nat) : Bool := decide (pa ≤ a) && decide (a < pa + size)

/-- A frame is zeroed: no earlier write of it can be seen, and no cache holds a line of it (R332, R410). -/
def State.zeroFrame (s : State) (pa size : Nat) : State :=
  { s.dropLines (fun x => x.within pa size) with
    mem := s.mem.filter fun c => !inFrame pa size c.1
    hist := s.hist.filter fun h => !inFrame pa size h.addr
    poison := s.poison.filter fun l => !inFrame pa size (l * 64) }

/-! ### Free frames (R235, R332, R353) -/

/-- Ranges of two frames or pages meet. -/
def meets (a n b m : Nat) : Bool := decide (a < b + m) && decide (b < a + n)

/-- What keeps a frame from being free: where it ends. -/
def State.frameBusy (s : State) (pa size : Nat) : Option Nat :=
  let coming := s.moves.filterMap fun x =>
    match x.2.2.1, s.mappingOf x.1 x.2.1 with | some to_, some m => some (to_, m.size) | _, _ => none
  match ((s.maps.filter fun m => !m.remote).map (fun m => (m.pa, m.size)) ++ coming).find? fun f => meets pa size f.1 f.2 with
  | some f => some (f.1 + f.2)
  | none =>
    match s.retired.find? fun f => meets pa size f 65536 with
    | some f => some (f + 65536)
    | none =>
      match s.frames.find? fun f => meets pa size f.1 65536 with
      | some f => some (f.1 + 65536)
      | none => if meets pa size reservedFrom reservedSize then some (reservedFrom + reservedSize) else none

/-- The first free frame from `pa` up, below `top`. -/
def State.frameFrom (s : State) (size top : Nat) : Nat → Nat → Option Nat
  | 0, _ => none
  | n + 1, pa =>
    if top < pa + size then none
    else
      match s.frameBusy pa size with
      | none => some pa
      | some e => s.frameFrom size top n ((e + size - 1) / size * size)

/-- A free frame of a tier, anywhere in it: from a place that is picked, then from its bottom (log entry 5). -/
def State.freeFrame (s : State) (base top size : Nat) : Option Nat × State :=
  let lo := (base + size - 1) / size * size
  let n := s.maps.length + s.moves.length + s.retired.length + s.frames.length + 3
  let (k, s) := s.pickAny ((top - lo) / size)
  match s.frameFrom size top n (lo + k * size) with
  | some pa => (some pa, s)
  | none => (s.frameFrom size top n lo, s)

/-- Bytes of its memory that a partition has left for MAP in a tier (R353). -/
def Part.left (p : Part) (lpddr : Bool) : Nat :=
  if lpddr then p.lpddr - p.lpddrUsed else p.hbm - p.heap - p.spill * 1048576 - p.hbmUsed

/-- Memory that a page takes from its partition. -/
def Part.takes (p : Part) (lpddr : Bool) (n : Nat) : Part :=
  if lpddr then { p with lpddrUsed := p.lpddrUsed + n } else { p with hbmUsed := p.hbmUsed + n }

/-- Memory that a page gives back to its partition. -/
def Part.gives (p : Part) (lpddr : Bool) (n : Nat) : Part :=
  if lpddr then { p with lpddrUsed := p.lpddrUsed - n } else { p with hbmUsed := p.hbmUsed - n }

/-- The partition numbered id changed. -/
def State.onPart (s : State) (id : Nat) (f : Part → Part) : State :=
  { s with parts := s.parts.map fun p => if p.id = id then f p else p }

/-- A zeroed frame of a tier for a partition, within its memory; none where there is none. -/
def State.newFrame (s : State) (part : Nat) (lpddr : Bool) (size : Nat) : Option (Nat × State) :=
  match s.parts.find? fun p => p.id == part with
  | none => none
  | some p =>
    if p.left lpddr < size then none
    else
      match if lpddr then s.freeFrame lpddrBase lpddrEnd size else s.freeFrame 0 hbmSize size with
      | (none, _) => none
      | (some pa, s) => some (pa, (s.zeroFrame pa size).onPart part fun p => p.takes lpddr size)

/-! ### Page-ins (R239) -/

def State.setMapping (s : State) (m : Mapping) : State :=
  { s with maps := s.maps.map fun n => if n.space = m.space ∧ n.va = m.va then m else n }

/-- The places of stubs, a page for each, below the pages of save images. -/
def stubSlot (i : Nat) : Nat := i % 2 ^ 39 * 65536

/-- Where the stub of an entry comes to lie: at a free place or, where something is mapped there, behind a mapped page (log entry 28). -/
def State.stubPlace (s : State) (sp : Space) (entry : Nat) : Nat :=
  let start := Config.stubAddress entry
  let open_ := fun (i : Nat) => !s.maps.any fun m => decide (m.space = sp) && meets (stubSlot i) 65536 m.va m.size
  stubSlot (((start :: s.maps.map fun m => (m.va + m.size) / 65536).find? open_).getD start)

def State.stubOf (s : State) (sp : Space) (entry : Nat) : Option Stub := s.stubs.find? fun b => decide (b.space = sp) && b.entry == entry

/-- A page of the code heap that holds an unpublished stub: it is not present until penim-x publishes the body (R346). -/
def State.unpublished (s : State) (m : Mapping) : Bool :=
  s.stubs.any fun b => decide (b.space = m.space) && b.body.isNone && decide (m.va ≤ b.stub ∧ b.stub < m.va + m.size)

/-- The physical address of a page without a frame: it is populated nowhere. -/
def noFrame : Nat := 2 ^ 52

/-- A page of a tenant's code heap: on a frame and present, or with neither. -/
def heapPage (sp : Space) (va : Nat) (pa : Option Nat) : Mapping :=
  { space := sp, va := va, pa := pa.getD noFrame, size := 65536, w := false, x := false, sync := false, remote := false, priv := false
    present := pa.isSome, home := 15#4, peer := 0#128, peerPart := 0#16, back := if pa.isSome then .heap else .stub }

/-- The stub of an entry, unpublished, takes 128 bytes of the code heap. -/
def State.addStub (s : State) (sp : Space) (entry : Nat) : State :=
  if (s.stubOf sp entry).isSome then s
  else
    let va := s.stubPlace sp entry
    { s with
      stubs := s.stubs ++ [⟨sp, entry, va, none⟩]
      maps := s.maps ++ [heapPage sp va none]
      parts := s.parts.map fun p => if p.id = sp.part then { p with heapUsed := p.heapUsed + 128 } else p }

/-- A page without backing is given a zeroed frame, or is refused one (R239). -/
def State.backPage (s : State) (m : Mapping) (lpddr : Bool) : State :=
  match s.newFrame m.space.part lpddr m.size with
  | some (pa, s) => s.setMapping { m with pa := pa, present := true, back := .frame }
  | none => s.setMapping { m with back := .refused lpddr }

/-- PAGE_IN: a page that is wanted and not present becomes present; one that is being moved waits for its move. -/
def State.pageIn (s : State) (sp : Space) (va : Nat) : State :=
  match s.mappingOf sp va with
  | none => s
  | some m =>
    if m.present || s.unpublished m || s.moves.any (fun x => decide (x.1 = sp) && x.2.1 == m.va) then s
    else match m.back with
      | .later d => s.backPage m d
      | .refused d => s.backPage m d
      | .frame => s.setMapping { m with present := true }
      | .heap => s.setMapping { m with present := true }
      | .image _ _ => s.setMapping { m with present := true }
      | .stub => s

def execPageIn (sp : Space) (va : BitVec 64) (s : State) : Host.Outcome State Fault Refusal := .next (s.pageIn sp va.toNat)

/-! ### Moves of frames -/

/-- Views of a core on the lines of a frame, moved to another. -/
def Core.moveViews (c : Core) (old new size : Nat) : Core :=
  let keep := c.views.filter fun v => !inFrame new size (v.1 * 64) && !inFrame old size (v.1 * 64)
  let moved := c.views.filter fun v => inFrame old size (v.1 * 64)
  { c with views := moved.foldl (fun l v => assocSet 0 l (shiftAddr old new size (v.1 * 64) / 64) v.2) keep }

/-- A page is copied to a new frame, with the coherence order of its bytes and its poison (R241, R381). -/
def State.copyFrame (s : State) (old new size : Nat) : State :=
  let cells := s.mem.filter fun c => inFrame old size c.1
  let hist := s.hist.map fun h => { h with addr := shiftAddr old new size h.addr }
  let kept := s.hist.zip hist |>.filter fun p => !inFrame new size p.1.addr
  let s := { s with
    mem := writeCells (s.mem.filter fun c => !inFrame new size c.1) (cells.map fun (c : Nat × Byte) => (new + (c.1 - old), c.2))
    hist := kept.map Prod.snd
    poison := (s.poison.filter fun l => !inFrame new size (l * 64)).map fun l => shiftAddr old new size (l * 64) / 64 }
  s.mapCores fun c => c.moveViews old new size

/-! ### Shootdowns (R241) -/

/-- Transfers that have begun the page and not ended it. -/
def State.copiesOn (s : State) (sp : Space) (va size : Nat) : Bool :=
  s.cores.any (fun c => c.equeues.toList.any fun q =>
    match q.head? with
    | some (.copy k moved o _) => decide (o.key.part = sp.part ∧ o.vdev = sp.vdev) && k.midPage moved va size
    | _ => false)
  || s.jobs.any fun j => decide (j.owner.key.part = sp.part ∧ j.owner.vdev = sp.vdev) && j.copy.midPage j.moved va size

/-- Pins of any core on the page. -/
def State.pinsOn (s : State) (sp : Space) (va size : Nat) : Bool :=
  s.cores.any fun c => decide (c.space = sp) && c.ctx.queues.toList.any fun q => q.any fun st => st.pinsOn va size

/-- The 64 KiB frames of a range that no mapping of a partition names. -/
def State.unnamed (s : State) (part pa size : Nat) : List Nat :=
  ((List.range (size / 65536)).map fun i => pa + 65536 * i).filter fun f =>
    !s.maps.any fun m => m.space.part == part && !m.remote && meets f 65536 m.pa m.size

/-- The sync frames of a page that no mapping names any more are released, with their waiters and mailbox contents (R410). -/
def State.releaseFrame (s : State) (pa size part : Nat) : State :=
  if !isSync pa then s
  else
    let gone := s.unnamed part pa size
    let in_ := fun (a : Nat) => gone.contains (a / 65536 * 65536)
    { s with
      frames := s.frames.filter fun f => !in_ f.1
      mailboxes := s.mailboxes.filter fun m => !in_ m.1
      hwaits := s.hwaits.filter fun w => !in_ w.1 }

/-- Memory of a tier that no page of the partition names any more goes back to it (R332, R353), and pages that found none may find some. -/
def State.giveBack (s : State) (m : Mapping) : State :=
  if m.remote || isSync m.pa || m.back != .frame then s
  else
    let n := 65536 * (s.unnamed m.space.part m.pa m.size).length
    let again := fun (x : Mapping) => match x.back with | .refused d => { x with back := .later d } | _ => x
    { s.onPart m.space.part fun p => p.gives (decide (hbmSize ≤ m.pa)) n with maps := s.maps.map again }

/-- The mappings that name frames of a page, the page itself among them: they move together (R241). -/
def State.aliases (s : State) (m : Mapping) : List Mapping := s.maps.filter fun n => !n.remote && n.held && meets m.pa m.size n.pa n.size

/-- The lines of a page are written back and leave every cache. -/
def State.dropPage (s : State) (m : Mapping) : State :=
  if m.remote then s else (s.dropLines fun x => x.within m.pa m.size).icacheDrop m.space m.va m.size

/-- A page is under no shootdown any more. -/
def State.moveOver (s : State) (m : Mapping) : State := { s with moves := s.moves.filter fun x => !(decide (x.1 = m.space) && x.2.1 == m.va) }

/-- The last steps of an unmap: the page is gone, and its memory goes back. -/
def State.endUnmap (s : State) (m : Mapping) : State :=
  let s := (s.dropPage m).moveOver m
  let s := { s with maps := s.maps.filter fun n => !(decide (n.space = m.space) && n.va == m.va) }.giveBack m
  if m.remote then s else s.releaseFrame m.pa m.size m.space.part

/-- The last steps of a move: the page is copied, and every mapping of it stands in the new frame, present. -/
def State.endMove (s : State) (m : Mapping) (pa : Nat) : State :=
  let group := s.aliases m
  let s := group.foldl (fun s n => (s.dropPage n).moveOver n) s
  (group.foldl (fun s n => s.setMapping { n with pa := pa + (n.pa - m.pa), present := true }) (s.copyFrame m.pa pa m.size)).onPart
    m.space.part fun p => (p.gives (decide (hbmSize ≤ m.pa)) m.size).takes (decide (hbmSize ≤ pa)) m.size

/-- A control core may move the page: it lies on a frame of a tier, and no larger page names that frame. Which pages it moves, when, and to
which frames is open (R14, R241; log entry 65). -/
def State.movable (s : State) (m : Mapping) : Bool :=
  let group := s.aliases m
  m.back == .frame && !m.remote && !m.sync && group.all (fun n => decide (m.pa ≤ n.pa) && decide (n.pa + n.size ≤ m.pa + m.size))
    && (group.find? fun n => n.pa == m.pa && n.size == m.size) == some m

/-- A page may begin to move to a frame: the frame is free, and the walker holds no page of the old one, which would be remapped (R212). -/
def State.frameOpen (s : State) (m : Mapping) (pa : Nat) : Bool :=
  !((s.aliases m).any fun n => s.pageHeld n false) &&
  pa % m.size == 0 && (s.frameBusy pa m.size).isNone && populated pa && populated (pa + m.size - 1) && !isSync pa

/-- A page is under a move to this frame. -/
def State.movingTo (s : State) (m : Mapping) (pa : Nat) : Bool :=
  s.moves.any fun x => decide (x.1 = m.space) && x.2.1 == m.va && decide (x.2.2.1 = some pa)

/-- A page is under a shootdown. -/
def State.moving (s : State) (m : Mapping) : Bool := s.moves.any fun x => decide (x.1 = m.space) && x.2.1 == m.va

/-- The first steps: the page is not present, and no TLB holds it. -/
def State.beginShoot (s : State) (m : Mapping) (newPa : Option Nat) : State :=
  if s.moving m then s
  else
    let keep := fun (e : Nat × Space × Nat) => !(decide (e.2.1 = m.space) && e.2.2 == m.va)
    { s.setMapping { m with present := false } with
      tlb := s.tlb.filter keep
      caches := { s.caches with tlb2 := s.caches.tlb2.filter keep }
      moves := s.moves ++ [(m.space, m.va, newPa, s.time)] }

/-- Nothing keeps a shootdown of the page: no transfer is part of the way through it, and no pin on it is left. -/
def State.shootClear (s : State) (m : Mapping) : Bool := !s.copiesOn m.space m.va m.size && !s.pinsOn m.space m.va m.size

/-- SHOOTDOWN of the page that holds `va`: to a new frame, or away (R241). It does not begin for an unmap of a page that the walker holds. -/
def State.shootdown (s : State) (sp : Space) (va : Nat) (newPa : Option Nat) : State :=
  match s.mappingOf sp va with
  | none => s
  | some m =>
    match newPa with
    | none =>
      if !s.moving m && s.pageHeld m false then s
      else
        let s := s.beginShoot m none
        if s.shootClear m then s.endUnmap { m with present := false } else s
    | some pa =>
      if !s.movable m || !(s.movingTo m pa || (!s.moving m && s.frameOpen m pa)) then s
      else
        let s := (s.aliases m).foldl (fun s n => s.beginShoot n (some (pa + (n.pa - m.pa)))) s
        if (s.aliases m).all s.shootClear then s.endMove m pa else s

def execShootdown (sp : Space) (va : BitVec 64) (newPa : Option Nat) (s : State) : Host.Outcome State Fault Refusal :=
  .next (s.shootdown sp va.toNat newPa)

/-! ### Code pages (R343, R344) -/

/-- The bytes of page i of a .text. -/
def State.codePage (s : State) (o : CodeObj) (i : Nat) : List Byte :=
  s.peek o.space (o.text + i * 65536) (min 65536 (o.size - i * 65536))

/-- Page i of a .text has the digest that the object gives for it. -/
def State.pageSound (s : State) (o : CodeObj) (i : Nat) : Bool := o.hashes[i]? == some (Config.sha256 (s.codePage o i))

/-- What stands in the way of page i of a .text (R415). -/
def State.codePageStop (s : State) (o : CodeObj) (i : Nat) : Option (Trap ⊕ Nat) :=
  s.reachAll o.space (BitVec.ofNat 64 (o.text + i * 65536)) (min 65536 (o.size - i * 65536))

/-- CODE_PAGE_LOAD: the page of the bundle due is loaded and checked against its digest; a page that is not present is asked
for. A page that fails is poisoned, and counted. -/
def State.codePageLoad (s : State) : State :=
  let sp := s.core.space
  let va := addrOf s.core.ctx.pc
  match s.xlate sp va ⟨false, true, false, false, s.core.priv⟩ with
  | .miss => s.askPage sp va.toNat
  | .trap _ => s
  | .at_ _ _ =>
    match s.objects.find? fun o => o.holds sp va.toNat with
    | none => s
    | some o =>
      let i := (va.toNat - o.text) / 65536
      if o.pages.getD i .unloaded != .unloaded then s
      else match s.codePageStop o i with
      | some (.inr a) => s.askPage sp a
      | _ =>
        let ok := s.pageSound o i
        let o' := { o with pages := o.pages.set i (if ok then .verified else .poisoned) }
        let s : State := { s with objects := s.objects.map fun p => if p.space = o.space ∧ p.base = o.base then o' else p }
        if ok then s else s.count (decide (32 ≤ s.core.id.toNat)) 15

def execCodePageLoad (s : State) : Host.Outcome State Fault Refusal := .next s.codePageLoad

end Sys2Proof.Machine
end

