-- ==== Sys2Proof/Machine/SysReg.lean ====
section
/-! DEFINITION. The special registers as RDSYS reads and WRSYS writes them (R63, R72 to R74, R80 to R82, R104, R115,
R117, R147, R148, R369). -/

namespace Sys2Proof.Machine

def bitWord (b : Bool) (i : Nat) : Word := if b then BitVec.ofNat 64 (2 ^ i) else 0#64

/-- FMT (R104). -/
def Fmt.word (f : Fmt) : Word :=
  BitVec.ofNat 64 (elemCode f.fa + elemCode f.fb * 2 ^ 4 + scaleCode f.sm * 2 ^ 8 + flagCode f.ty * 2 ^ 10
    + roundCode f.rm * 2 ^ 12)

/-- MODE (R81). -/
def Ctx.mode (x : Ctx) : Word := bitWord x.chk 0 ||| bitWord x.autoc 1 ||| bitWord x.ftz 2

/-- FEREC0 and FEREC1 (R117). -/
def FeRec.word0 (f : FeRec) : Word := addrOf f.addr ||| bitWord f.valid 5 ||| f.slot.setWidth 64
def FeRec.word1 (f : FeRec) : Word := f.cyc ++ 0#2 ++ f.flag

/-- ECOUNT (R74). -/
def Energy.ecountWord (e : Energy) : Word := e.ecount.setWidth 64 ||| bitWord e.esat 63

/-- EDEBIT register j (R72). -/
def Energy.edebitWord (e : Energy) (j : Nat) : Word :=
  BitVec.ofNat 64 (packNat 8 (fun i => (e.edebit.toList.getD (4 * j + i) 0#8).toNat) 4)

/-- ALLOW (R63). -/
def Core.allow (c : Core) : Word :=
  c.allowA1.setWidth 64 ||| (c.allowAW.setWidth 64 <<< 8) ||| bitWord c.allowTrap 18

/-- TRAPVEC (R369). -/
def Ctx.trapvec (x : Ctx) : Word := addrOf x.trapHandler ||| bitWord x.trapActive 1 ||| bitWord x.trapEn 0

/-- The value RDSYS samples; reserved bits read zero. -/
def Core.rdsys (c : Core) (idx : BitVec 8) : Word :=
  let key : TaskKey := match c.task with | some t => t.key | none => ⟨0, 0, 0⟩
  match idx.toNat with
  | 0x00 => c.ctx.cycle
  | 0x01 => BitVec.ofNat 64 c.reftime
  | 0x02 => BitVec.ofNat 64 (key.task % 2 ^ 32)
  | 0x03 => BitVec.ofNat 64 (key.launch % 2 ^ 32)
  | 0x04 => c.id.setWidth 64
  | 0x05 => bitWord (isSteel c.id) 0
  | 0x06 => BitVec.ofNat 64 (key.part % 2 ^ 16)
  | 0x08 => c.ctx.vbase.setWidth 64
  | 0x09 => c.ctx.rrb.setWidth 64
  | 0x0A => c.ctx.fmt.word
  | 0x0B => c.ctx.mode
  | 0x1A => c.ctx.ferec.word0
  | 0x1B => c.ctx.ferec.word1
  | 0x20 => c.seen.ecountWord
  | 0x21 => c.seen.ebudget.setWidth 64
  | 0x80 => c.allow
  | 0x85 => c.energy.erefill.setWidth 64
  | 0x86 => c.energy.estatic.setWidth 64
  | 0x87 => c.pspan.setWidth 64
  | 0x88 => c.vquota.setWidth 64
  | 0x89 => bitWord c.stop 0 ||| bitWord c.defer 1
  | 0x8A => c.ctx.trapvec
  | n =>
    if 0x10 ≤ n ∧ n ≤ 0x19 then (c.ctx.flags.toList.getD (n - 0x10) 0#6).setWidth 64
    else if 0x81 ≤ n ∧ n ≤ 0x84 then c.energy.edebitWord (n - 0x81)
    else 0#64

/-- A value held between two limits. -/
def clampNat (lo hi x : Nat) : Nat := max lo (min hi x)

/-- EDEBIT register j written. -/
def Energy.setEdebit (e : Energy) (j : Nat) (v : Word) : Energy :=
  { e with edebit := Vector.ofFn fun i : Fin 16 =>
      if i.val / 4 = j then BitVec.ofNat 8 (digit 8 v.toNat (i.val % 4)) else e.edebit[i] }

/-- STOP written, with the tick at which it was first set (R362). -/
def Core.writeStop (c : Core) (b : Bool) : Core :=
  { c with stop := b, stopAt := if b then some (c.stopAt.getD c.reftime) else none }

/-- The scheduler sets STOP: after a task's own write of the same clock (R369). -/
def Core.askStop (c : Core) : Core := { c.writeStop true with stopNow := true }

/-- WRSYS as it takes effect: the field map of each register; reserved and RO bits are ignored, and the clamps of
R63 and R369 apply. -/
def Core.wrsys (c : Core) (idx : BitVec 8) (v : Word) : Core :=
  match idx.toNat with
  | 0x08 => { c with ctx := { c.ctx with vbase := v.setWidth 12 } }
  | 0x09 => { c with ctx := { c.ctx with rrb := v.setWidth 6 } }
  | 0x0B => { c with ctx := { c.ctx with chk := v.getLsbD 0, autoc := v.getLsbD 1, ftz := v.getLsbD 2 } }
  | 0x80 =>
    { c with
      allowA1 := BitVec.ofNat 8 (clampNat 2 64 (v.toNat % 2 ^ 8))
      allowAW := BitVec.ofNat 10 (clampNat 2 512 (v.toNat / 2 ^ 8 % 2 ^ 10))
      allowTrap := v.getLsbD 18 }
  | 0x85 => { c with energy := { c.energy with erefill := v.setWidth 32 } }
  | 0x86 => { c with energy := { c.energy with estatic := v.setWidth 16 } }
  | 0x87 => { c with pspan := if v.setWidth 16 = 0#16 then 1#16 else v.setWidth 16 }
  | 0x88 => { c with vquota := v.setWidth 32 }
  | 0x89 => c.writeStop (v.getLsbD 0 || c.stopNow)
  | 0x8A => { c with ctx := { c.ctx with trapHandler := indexOf v, trapEn := v.getLsbD 0 } }
  | n => if 0x81 ≤ n ∧ n ≤ 0x84 then { c with energy := c.energy.setEdebit (n - 0x81) v } else c

end Sys2Proof.Machine
end

