-- ==== Sys2Proof/Machine/Land.lean ====
section
/-! DEFINITION. The end of a ticking cycle (R83 to R85, R95) and its start, where landings are due (R88 to R91); where the
task stands once a bundle's stall cycles have run (R126, R131); the clocks of cores that do not tick (R92). -/

namespace Sys2Proof.Machine

/-! ### Landings at the start of their named cycle (R88 to R91) -/

def Landing.suspends (l : Landing) : Bool := l.kind == .wait true

/-- The result of a landing whose data is there: it is written at the end of the cycle (R88). A row of a stream is in its
queue. -/
def Landing.result (l : Landing) : List Result :=
  match l.data with
  | none => []
  | some v =>
    match l.dest with
    | .s n => [⟨.s n (v.setWidth 64), l.slot, l.order, 1, 0#6, l.pc, l.cyc⟩]
    | .row n => [⟨.row n (BitVec.allOnes 16384) v, l.slot, l.order, 1, 0#6, l.pc, l.cyc⟩]
    | .queue _ => []

/-- The due landings become results of this cycle. -/
def Ctx.landDue (x : Ctx) : Ctx :=
  { x with
    results := x.results ++ x.dueLandings.flatMap Landing.result
    landings := x.landings.map fun l => if l.rem = 1 then { l with rem := 0 } else l }

/-- Errors due at this cycle, by slot and bundle: those of landings. -/
def Ctx.landingErrors (x : Ctx) : List (Trap × Nat × BitVec 58) :=
  x.dueLandings.filterMap fun l => l.err.map fun t => (t, l.slot, l.pc)

/-- The error of the lowest slot; of one slot, the earliest. -/
def lowestError (l : List (Trap × Nat × BitVec 58)) : Option (Trap × Nat × BitVec 58) :=
  l.foldl (fun best e =>
    match best with
    | none => some e
    | some b => if e.2.1 < b.2.1 then some e else some b) none

/-- The task waits suspended for a variable (R285). -/
def Core.suspendWait (c : Core) (l : Landing) : Core :=
  match c.fifo.find? fun e => e.landing == some l.id && decide (some e.owner = c.task) with
  | some e =>
    (match e.op with
    | .wait cond => { c.thaw with leave := some (.wait (.value (if c.owner.gang then c.id.toNat % 4 else 0) l.id e.va cond (e.part.head?.map fun p => (p.1, leNat p.2)))) }
    | _ => c)
  | none => c

/-- The code of a freeze for late landings; one that holds the bundle due in the same cycle may be higher (R94). -/
def State.lateCode (s : State) (late : List Landing) : BitVec 4 :=
  codeMax (lateKind late) (if s.core.phase = .ready ∧ s.core.dbg.skip = true then s.dueCode else 0#4)

/-- The landings due at this cycle: with one late the core freezes, or suspends for a WAITV.susp; an error is raised; else all
land. -/
def State.landing (s : State) : State :=
  let x := s.core.ctx
  let late := x.dueLandings.filter Landing.missing
  match late.find? fun l => !l.suspends with
  | some _ => (s.onCore fun c => { c with lateFrom := some (c.lateFrom.getD c.time) }).freezeClock (s.lateCode late)
  | none =>
    match late with
    | l :: _ => s.onCore fun c => c.suspendWait l
    | [] =>
      match lowestError (x.beatErrors ++ x.landingErrors) with
      | some (t, k, pc) => s.onCore fun c => c.thaw.raiseAt t k pc
      | none => s.onCore fun c => c.thaw.onCtx Ctx.landDue

def Core.ticking (c : Core) : Bool :=
  match c.phase with
  | .ready => true
  | .issued => true
  | .drainYield => true
  | .drainCommit => true
  | .drainEnd => true
  | .drainIdle => true
  | .idle _ => true
  | .waitc _ => true
  | _ => false

def execLanding (s : State) : Host.Outcome State Fault Refusal :=
  .next (if s.core.landsNow && s.core.ticking && s.core.trap.isNone then s.landing else s)

/-- LATE_DATA_ARRIVAL (R89): the last late data has come, and the freeze ends. -/
def execLateDataArrival (s : State) : Host.Outcome State Fault Refusal :=
  .next (if s.core.landsNow && s.core.lateFrom.isSome
      && s.core.ctx.dueLandings.all fun l => !l.missing then s.landing else s)

/-! ### Results (R83, R85, R95) -/

/-- A result enters a list in the order of slot, then issue. -/
def insertResult (r : Result) : List Result → List Result
  | [] => [r]
  | q :: t => if r.slot < q.slot ∨ (r.slot = q.slot ∧ r.order < q.order) then r :: q :: t else q :: insertResult r t

def sortResults (l : List Result) : List Result := l.foldr insertResult []

/-- A beat reads its row as the cycle began, and then is a write of the whole row. -/
def Result.finished (r : Result) (x : Ctx) : Result :=
  match r.wr with
  | .beat n b =>
    let v := b.row (x.getRow n)
    { r with wr := .row n (BitVec.allOnes 16384) v.1, flags := r.flags ||| v.2 }
  | _ => r

/-- Streams through handles drop the copies that they placed in the L2, and then leave OUTSTANDING (R267, R301). -/
def State.releaseStreams (s : State) (sts : List Stream) : State :=
  let s := s.dropTileCopies s.core.id.toNat (sts.map Stream.id) ((sts.filter fun st => st.handle.isSome).map Stream.id)
  sts.foldl (fun s st => match st.handle with | some v => if st.counted then s.addOutst (handleLidx v).toNat false else s | none => s) s

/-- TFX: the streams of a queue end; one that counted in OUTSTANDING no longer does. -/
def State.cancelQueue (s : State) (q : BitVec 2) : State :=
  let sts := s.core.ctx.queue q
  let s := s.releaseStreams sts
  s.onCore fun c => c.onCtx fun x =>
    { x.setQueue q [] with landings := x.landings.filter fun l => !(sts.any fun st => st.id == l.id) }

/-- An atomic at the local bank; its old word lands four cycles later, with its flags (R196). A copy's write of its granule comes wholly before
its read or wholly after its write (R197). -/
def State.localAtom (s : State) (r : Result) (op : AtomOp) (a size : Nat) (x y : Word) (rm : RMode) (ftz : Bool)
    (d : BitVec 6) : State :=
  let s := s.seeSome (s.lateGranules.filter fun g => g == a / 16)
  let m := leNat (readBytes s.spm a size)
  let n := atomNew op size rm ftz m (x.toNat % 2 ^ (8 * size)) (y.toNat % 2 ^ (8 * size))
  (s.putSpm ((leBytes size n.1).zipIdx.map fun p => (a + p.2, p.1))).onCore fun c => c.onCtx fun z =>
    { z with results := z.results ++ [{ r with wr := .s d (BitVec.ofNat 64 m), rem := 4, flags := n.2 }] }

/-- A table of sixteen scales. -/
def tableOf (v : List Byte) : Vector Byte 16 := Vector.ofFn fun i : Fin 16 => v.getD i.val 0#8

/-- One result is written. -/
def State.apply (s : State) (r : Result) : State :=
  match r.wr with
  | .nothing => s
  | .beat _ _ => s
  | .s n v => s.onCore fun c => c.onCtx fun x => x.setS n v
  | .p n mask v => s.onCore fun c => c.onCtx fun x => x.setPhysP n mask v
  | .row n mask v => s.onCore fun c => c.onCtx fun x => x.setRow n mask v
  | .dstat g nan inf => s.onCore fun c => c.onCtx fun x => x.setDstat g nan inf
  | .spm cells => s.writeSpm cells
  | .atom op a size x y rm ftz d => s.localAtom r op a size x y rm ftz d
  | .h n v => s.onCore fun c => c.onCtx fun x => x.setH n v
  | .sys idx v => s.onCore fun c => c.wrsys idx v
  | .rrb v => s.onCore fun c => c.onCtx fun x => { x with rrb := v }
  | .fmt fa fb sm ty => s.onCore fun c => c.onCtx fun x => { x with fmt := { x.fmt with fa := fa, fb := fb, sm := sm, ty := ty } }
  | .rnd rm => s.onCore fun c => c.onCtx fun x => { x with fmt := { x.fmt with rm := rm } }
  | .table b v => s.onCore fun c => c.onCtx fun x => if b then { x with tableB := tableOf v } else { x with tableA := tableOf v }
  | .band b i v => s.onCore fun c => c.onCtx fun x =>
      if b then { x with bandB := x.bandB.set (i.toNat % 8) v (Nat.mod_lt _ (by decide)) }
      else { x with bandA := x.bandA.set i.toNat v i.isLt }
  | .tfx qm => (List.range 4).foldl (fun s q => if qm.getLsbD q then s.cancelQueue (BitVec.ofNat 2 q) else s) s
  | .rfence => s.onCore fun c => { c with recCache := [] }

/-- The results and landings of a context one cycle later; those that are due have left. -/
def Ctx.nextCycle (x : Ctx) : Ctx :=
  let gone := (x.landings.filter fun l => l.rem == 0).map Landing.id
  { x with
    results := (x.results.filter fun r => r.rem != 1).map fun r => { r with rem := r.rem - 1 }
    landings := (x.landings.filter fun l => l.rem != 0).map fun l => { l with rem := l.rem - 1 }
    queues := x.queues.map fun q => q.map fun st => if gone.contains st.id then { st with first := false } else st
    cycle := x.cycle + 1 }

/-- A stream whose last row is popped leaves its queue; a TFH stream then leaves OUTSTANDING (R267, R301). -/
def State.endStreams (s : State) : State :=
  let done := s.core.ctx.queues.toList.flatMap fun q => q.filter Stream.ended
  if done.isEmpty then s
  else (s.releaseStreams done).onCore fun c => c.onCtx fun x => { x with queues := x.queues.map fun q => q.filter fun st => !st.ended }

/-- Every result due is written, in the order of slot and issue (R85), and its flags are raised. -/
def State.landResults (s : State) : State :=
  let x := s.core.ctx
  let due := (sortResults (x.results.filter fun r => r.rem == 1)).map fun r => r.finished x
  let s := s.onCore fun c => c.onCtx Ctx.nextCycle
  let s := due.foldl State.apply s
  (s.onCore fun c => c.onCtx fun x => (due.foldl (fun x r => x.raiseFlags r.slot r.flags) x).recordEvent due).endStreams

/-! ### The end of a bundle (R122, R126, R131) -/

/-- The bundle and its stall cycles have run: its back-edge test is made, before the cycles that a WAITC adds (R128, R133). -/
def Core.boundary (c : Core) : Core :=
  let n := c.ctx.nextBundle
  { c with
    phase := c.after
    edge := n.2
    ctx := if n.2 then { n.1 with spanCount := 0 } else n.1 }

/-- The clock of a cycle that ends: its weight enters the window (R61). -/
def Core.endTick (c : Core) : Core :=
  { c with
    mid := false
    stopNow := false
    weights := (c.weights ++ [c.weight]).drop (c.weights.length + 1 - 7)
    weight := 0 }

/-- A cycle that a WAITC adds has passed. A back edge before it was no stop for a STOP that was set (R369). -/
def Core.afterWait (c : Core) (left : Nat) : Core :=
  { c with
    defer := c.defer || (c.stop && c.edge)
    edge := false
    phase := if left ≤ 1 then .ready else .waitc (left - 1)
    after := .ready }

/-- After its issue cycle or a stall cycle a bundle stalls on, or is over. -/
def Core.afterTick (c : Core) (issue : Bool) : Core :=
  match c.phase with
  | .issued =>
    if issue then (if c.stall = 0 then c.boundary else c)
    else if c.stall ≤ 1 then { c with stall := 0 }.boundary
    else { c with stall := c.stall - 1 }
  | .waitc n => c.afterWait n
  | _ => c

/-- One clock frozen after a widened beat (R93). -/
def State.widen (s : State) : State := (s.freezeClock 10#4).onCore Core.thaw

/-- ENDT cancels every stream of the task before its steps (R302). -/
def State.cancelAll (s : State) : State :=
  if s.core.ctx.queues.toList.all List.isEmpty then s else (List.range 4).foldl (fun s q => s.cancelQueue (BitVec.ofNat 2 q)) s

/-- RESULT_LAND: the cycle under way ends. A result that lands in the cycle of a taken back edge lands before the back edge writes its
predicate and RRB, which no rule orders (R85, R126; log entry 64). -/
def State.tick (s : State) : State :=
  let issue := s.core.mid
  let pc := if issue then s.core.ctx.pc else s.core.nextPc
  let cycle := s.core.ctx.cycle
  let s := (s.landResults.onCore fun c => (c.endTick.afterTick issue)).clockAs pc cycle (if issue then 0#4 else 1#4)
  let s := (s.tally s.core.space.part 2 0 1).seeSome s.lateGranules
  if s.core.phase = .ready then s.fetchAhead (s.core.ctx.pc == s.core.lastBundle + 1) else if s.core.phase = .drainEnd then s.cancelAll else s

/-! ### Cores that do not tick (R92, R93) -/

/-- RESULT_LAND: the end of a ticking cycle of the core; a core with no task, or whose task is frozen, passes a clock, and so
does one whose beat was widened. -/
def State.resultLand (s : State) : State :=
  if s.core.mid = false ∧ s.core.freeze = 10#4 then s.widen
  else match s.core.phase.frozenCode with
  | some k => s.freezeClock k
  | none =>
    if s.core.phase = .noTask then s.clock
    else if !s.core.mid && (s.stands || s.core.autoCommit) then s.freezeClock 12#4
    else if !s.core.mid && s.core.blockedBy.isSome then s.freezeClock (s.core.blockedBy.getD 8#4)
    else if !s.core.mid && s.core.phase = .ready then s
    else (s.onCore fun c => if c.mid then c else c.thaw).tick

def execResultLand (s : State) : Host.Outcome State Fault Refusal := .next s.resultLand

end Sys2Proof.Machine
end

