-- ==== Sys2Proof/Machine/Tasks.lean ====
section
/-! DEFINITION. How a task leaves its core (R132 to R135, R215 to R217, R227, R361 to R363, R372) and how one is placed
(R62, R213, R214, R253, R356, R367). -/

namespace Sys2Proof.Machine

/-! ### Members (R216) -/

/-- The cores that run the task of the current core, lowest first. -/
def State.members (s : State) : List Core :=
  if s.core.owner.gang then
    ((List.range 4).filterMap fun m => s.coreOf (s.core.id.toNat / 4 * 4 + m)).filter fun c => decide (c.task = s.core.task)
  else [s.core]

/-- Every member changed. -/
def State.onMembers (s : State) (f : Core → Core) : State :=
  let ids := s.members.map fun c => c.id.toNat
  s.mapCores fun c => if ids.contains c.id.toNat then f c else c

/-- The number of a core in its gang; 0 in a task of gang size 1. -/
def Core.member (c : Core) : Nat := if c.owner.gang then c.id.toNat % 4 else 0

/-- Nothing is in flight (R130). -/
def Core.quiet (c : Core) : Bool := c.ctx.results.isEmpty && c.ctx.landings.isEmpty

/-- A member drained at a suspension point, at a quiet stop point or at its end, which waits for its gang (R217). -/
def Core.waitsGang (c : Core) : Bool := c.phase == .committing && c.commit.isNone

/-- A task has issued YIELD, COMMIT or ENDT, which it carries out before any stop (R362). -/
def Core.departs (c : Core) : Bool :=
  match c.phase with
  | .drainYield => true
  | .drainCommit => true
  | .drainEnd => true
  | .committing => c.after != .ready
  | .issued => c.after == .drainYield || c.after == .drainCommit || c.after == .drainEnd
  | _ => false

/-- The stall cycles of a bundle, or those that a WAITC adds, are under way. -/
def Core.stalls (c : Core) : Bool := match c.phase with | .issued => true | .waitc _ => true | _ => false

/-- A task that suspends to wait stops before the cycle that its wait names, which may be a stall cycle or one of a drain (R285). -/
def Core.waitStops (c : Core) : Bool :=
  (match c.leave with | some (.wait _) => true | _ => false) && (c.stalls || c.phase == .drainIdle || c.departs)

/-- Between two cycles, with no trap and no handle step that the core waits for. -/
def Core.settled (c : Core) : Bool :=
  !c.mid && c.trap.isNone && (match c.hsteps with | h :: _ => (HOp.blocks h.op).isNone | [] => true)

/-- A core whose task may leave hard: at a bundle boundary, or where it waits (R96). -/
def Core.stopped (c : Core) : Bool :=
  c.settled
    && (c.phase == .ready || c.phase == .barrier || c.phase == .held || c.waitsGang || c.waitStops
      || (match c.phase with | .idle _ => true | _ => false))

/-! ### What a save waits for (R276, R289) -/

/-- A copy of a task that has not left its queue on this core: one into its scratchpad window, or any. -/
def Core.copiesLeft (c : Core) (k : TaskKey) (all : Bool) : Bool :=
  let counts := fun (d : Copy) => all || inWindow d.dst
  c.fifo.any (fun e => decide (e.owner.key = k) && (match e.op with | .copy _ d => counts d | .copyNode _ _ => all | _ => false))
    || c.equeues.toList.any fun q => q.any fun e =>
      match e with | .copy d _ p _ => decide (p.key = k) && counts d | .node _ p _ => all && decide (p.key = k) | _ => false

/-- A copy of a task that has not left the queue of any core that ran it (R289). -/
def State.copiesLeft (s : State) (k : TaskKey) (all : Bool) : Bool := s.cores.any fun c => c.copiesLeft k all

/-- A versioned store of the task that has not entered its version: a commit covers it (R132). -/
def Core.storesLeft (c : Core) (k : TaskKey) : Bool :=
  c.fifo.any fun e => decide (e.owner.key = k) && (match e.op with | .store _ => decide (e.cls.toNat < 8) && !e.rel | _ => false)

/-- The handles that a step passes on or splits. -/
def Core.stepHandles (c : Core) (h : HStep) : List (BitVec 128) :=
  match h.op with
  | .put v _ => [v]
  | .split v _ _ _ _ => [v]
  | .spawn k =>
    (match c.fifo.find? fun e => e.id == k with
    | some e => (match e.op with | .spawn _ _ _ vals => vals.map Prod.snd | _ => [])
    | none => [])
  | _ => []

/-- A step that cannot be taken while the task is away: a stream that it resumes goes through its handle. -/
def Core.stuck (c : Core) (h : HStep) : Bool := (c.stepHandles h).any (c.heldByStream h.owner)

/-- The steps of the task that go with it when it leaves its core: those of its streams, and those from the first on that is stuck. -/
def Core.stepsAlong (c : Core) : List HStep :=
  let mine := c.hsteps.filter fun h => decide (some h.owner = c.task)
  let cut := (mine.takeWhile fun h => !c.stuck h).length
  (mine.zipIdx.filter fun p => decide (cut ≤ p.2) || (match p.1.op with | .stream _ _ _ => true | _ => false)).map Prod.fst

/-- The steps of the task that stay. -/
def Core.stepsHere (c : Core) : List HStep := c.hsteps.filter fun h => decide (some h.owner = c.task) && !c.stepsAlong.contains h

/-- An HLD or HST of the task that is in flight. -/
def Core.tilesLeft (c : Core) (k : TaskKey) : Bool :=
  c.taccs.any (fun a => decide (a.owner.key = k)) || c.stepsHere.any fun h =>
    (match h.op with | .rowLoad _ _ _ => true | .rowStore _ _ _ => true | _ => false)

/-- The save of a member may be made. -/
def Core.saveReady (c : Core) : Bool := c.commit.isNone && !c.tilesLeft c.owner.key

/-- The streams of the current core drop their copies and leave OUTSTANDING (R276). -/
def State.dropStreams (s : State) : State :=
  (s.releaseStreams (s.core.ctx.queues.toList.flatMap id)).onCore fun c => c.onCtx fun x =>
    { x.dropRows with queues := x.dropRows.queues.map fun q => q.map fun st => { st with counted := false } }

/-! ### Save images (R228, R363) -/

/-- The live masks of a resume bundle; none saves all (R342). -/
def State.liveMask (s : State) (sp : Space) (pc : BitVec 58) : Option (BitVec 64 × BitVec 32 × BitVec 256) :=
  match s.objects.find? fun o => o.holds sp (addrOf pc).toNat with
  | some o => (o.masks.find? fun m => m.1 == ((addrOf pc).toNat - o.text) / 64).map Prod.snd
  | none => none

/-- Registers outside the live masks read zero after the resume (R215): scalars, predicates, and the accumulator rows that vector names
outside the vector mask name (R77, R342; log entry 46). -/
def Ctx.mask (x : Ctx) (m : Option (BitVec 64 × BitVec 32 × BitVec 256)) : Ctx :=
  match m with
  | none => x
  | some (sm, pm, vm) =>
    let live := fun (i : Nat) => (List.range 32).any fun n =>
      pm.getLsbD n && decide ((physPred x.rrb (BitVec.ofNat 5 n)).toNat = i)
    let dead := ((List.range 256).filter fun n => !vm.getLsbD n).map fun n => (x.rowName (BitVec.ofNat 8 n)).toNat
    { x with
      sregs := Vector.ofFn fun i : Fin 64 => if sm.getLsbD i.val then x.sregs[i] else 0#64
      pregs := Vector.ofFn fun i : Fin 32 => if i.val = 0 ∨ live i.val = true then x.pregs[i] else 0#1024
      acc := x.acc.filter fun r => !dead.contains r.1
      badS := x.badS.filter fun i => sm.getLsbD i
      badRow := x.badRow.filter fun w => !dead.contains (w / 256) }

/-- A scratchpad write with its bytes elsewhere. -/
def movedWrite (f : Nat → Nat) : Wr → Wr
  | .spm cells => .spm (cells.map fun c => (f c.1, c.2))
  | .atom op a size x y rm ftz d => .atom op (f a) size x y rm ftz d
  | w => w

/-- The scratchpad writes under way, moved: in an image they stand at their window offset (R228, R320). -/
def Ctx.moveWrites (x : Ctx) (f : Nat → Nat) : Ctx :=
  { x with results := x.results.map fun r => { r with wr := movedWrite f r.wr } }

/-- What a task takes from its core: a task that leaves its handler resumes with TRAPVEC 0 (R370). -/
def Ctx.image (x : Ctx) : Ctx :=
  if x.trapActive then { x with trapActive := false, trapHandler := 0#58, trapEn := false } else x

/-- Bytes of the images that stand in the context area of a die, or in a partition's spill area. -/
def State.storeUsed (s : State) (place part : Nat) : Nat :=
  s.nodes.foldl (fun a n =>
    match n.store with
    | some (p, size, _) => if p = place ∧ (place < 2 ∨ n.key.part = part) then a + size else a
    | none => a) 0

def contextArea : Nat := 67108864

/-- The image of that area that was written least recently and for which its partition's spill area has room. -/
def State.oldestImage (s : State) : Option Node :=
  (s.nodes.filter fun n =>
    match n.store with
    | some (p, size, _) => p == dieOf s.core.id.toNat &&
        (match s.partOf n.key.part with | some q => decide (s.storeUsed 2 q.id + size ≤ q.spill * 1048576) | none => false)
    | none => false).foldl (fun best n =>
      match best, n.store with
      | some b, some (_, _, t) => (match b.store with | some (_, _, u) => if t < u then some n else best | none => best)
      | none, _ => some n
      | _, none => best) none

/-- IMAGE_SPILL (R363): while the image of a task that leaves does not fit, the oldest image moves to its spill area. -/
def State.imageSpill (s : State) : State :=
  match s.oldestImage with
  | some n => (match n.store with | some (_, size, t) => s.mapNode { n with store := some (2, size, t) } | none => s)
  | none => s

def Leave.kind : Leave → Nat
  | .soft => 1
  | .migrate => 3
  | _ => 2

/-- The kind of image that the task of the current core is about to leave. -/
def Core.imageKind (c : Core) : Nat := match c.leave with | some l => Leave.kind l | none => 1

/-! ### Requests that a resumed task makes again (R96, R230) -/

/-- The requests of the task that go with it: an entry that waits with a landing, a SPAWN whose step goes along, and every later entry that
may not pass one of those. -/
def Core.carried (c : Core) : List Entry :=
  let along := c.stepsAlong
  c.fifo.foldl (fun got e =>
    if some e.owner = c.task ∧ (e.landing.isSome || along.any (fun h => decide (h.op = .spawn e.id)) || got.any fun g =>
        decide (g.classes &&& e.classes ≠ 0#16) || (isTaskOp g.op && isTaskOp e.op)) then got ++ [e] else got) []

/-- The core without its task; what it holds for the tenant stays. -/
def Core.vacate (c : Core) : Core :=
  let gone := c.carried
  { c with
    ctx := Ctx.reset
    task := none
    phase := .noTask
    after := .ready
    issuing := []
    mid := false
    stall := 0
    freeze := 0#4
    froze := 0
    worst := 0#4
    ended := none
    judged := false
    lateFrom := none
    edge := false
    trap := none
    lateFault := none
    weights := []
    weight := 0
    stop := false
    stopAt := none
    stopNow := false
    defer := false
    leave := none
    fifo := c.fifo.filter fun e => !gone.any fun g => g.id == e.id
    hsteps := c.hsteps.filter fun h => !c.stepsAlong.contains h
    commit := none
    dbg := { CoreDbg.reset with hits := c.dbg.hits } }

/-- A refill and a charge that have fallen due are made (R73, R75). -/
def Core.settle (c : Core) : Core :=
  let e := if c.refillDue then c.energy.refill else c.energy
  { c with energy := if c.staticDue then e.credit e.estatic.toNat else e, refillDue := false, staticDue := false }

/-! ### Leaving (R215, R399) -/

/-- The records of a core that a task leaves: a freeze that its leaving ends (R395), its beats since the last BEATS record at its last bundle,
and LEAVE. -/
def State.emitLeave (s : State) (status : Nat) : State :=
  let s := (s.freezeRecord.onCore Core.thaw).freezeRecord
  let s := s.emitBeats s.core.lastBundle
  let c := s.core
  s.emitIf 0 c.space (96 + clusterOf c.id) c.reftime 0x41 (c.owner.key.task % 2 ^ 32 + c.owner.key.launch % 2 ^ 32 * 2 ^ 32)
    (c.id.toNat + status * 256) c.ctx.cycle.toNat

/-- What copies wrote into the scratchpads of the task stands there at the latest when it leaves its cores (R265, R289). -/
def State.settleTask (s : State) : State :=
  let ids := s.members.map fun c => c.id.toNat
  s.settleSpm fun a => ids.contains (a / 2 ^ 20)

/-- Every member of the current task leaves its core, the current one last. -/
def State.vacateAll (s : State) (status : Nat) : State :=
  let s := s.settleTask
  let home := s.core.id.toNat
  let ids := s.members.map fun c => c.id.toNat
  (ids.foldl (fun s id => (((s.focus id).dropStreams).emitLeave status).onCore Core.vacate) s).focus home

/-- Scratchpad bytes of the members, by window offset. -/
def State.windowOf (s : State) (ids : List Nat) : List Host.Cell :=
  ids.zipIdx.flatMap fun p =>
    (s.spm.filter fun c => decide (p.1 * 2 ^ 20 ≤ c.1 ∧ c.1 < (p.1 + 1) * 2 ^ 20)).map fun (c : Nat × Byte) =>
      (c.1 - p.1 * 2 ^ 20 + p.2 * 2 ^ 20, c.2)

/-- Poisoned scratchpad words of the members, by window offset (R381). -/
def State.windowBad (s : State) (ids : List Nat) : List Nat :=
  ids.zipIdx.flatMap fun p =>
    (s.spmPoison.filter fun w => decide (p.1 * 2 ^ 17 ≤ w ∧ w < (p.1 + 1) * 2 ^ 17)).map fun w => w - p.1 * 2 ^ 17 + p.2 * 2 ^ 17

/-- Where a member will stand when it resumes, with the stall cycles that its bundle has left. A suspension with an image of KIND 1 ends
the YIELD that asked for it. -/
def Core.standing (c : Core) (kind : Nat) : Phase × Phase × BitVec 58 × Nat :=
  match if kind = 1 then .ready else c.phase with
  | .barrier => (.barrier, c.after, c.commitPc, 0)
  | .committing => if c.after = .drainEnd then (.committing, .drainEnd, c.commitPc, 0) else (.ready, .ready, 0#58, 0)
  | .issued => (.issued, c.after, c.commitPc, c.stall)
  | .waitc n => (.waitc n, .ready, 0#58, 0)
  | .drainYield => (.drainYield, c.after, c.commitPc, 0)
  | .drainCommit => (.drainCommit, c.after, c.commitPc, 0)
  | .drainEnd => (.drainEnd, c.after, c.commitPc, 0)
  | .drainIdle => (.drainIdle, c.after, c.commitPc, 0)
  | _ => (.ready, .ready, 0#58, 0)

/-- What a member of the task waits for as it leaves: a WAITV that has ended meanwhile is no wait, and one whose condition a write has made hold
has its value (R285). -/
def Core.awaited (c : Core) : Option Wait :=
  match c.leave with
  | some (.wait (.value m l va cond _)) =>
    (c.fifo.find? fun e => e.landing == some l && decide (some e.owner = c.task)).map fun e =>
      .value m l va cond (e.part.head?.map fun p => (p.1, leNat p.2))
  | some (.wait w) => some w
  | some .debug => some .held
  | _ => none

/-- The image of the current task with a change to each context (R228, R230, R320): with rows to refetch, scratchpad writes under way at their
window offsets, and at a suspension point or soft stop only what the live masks of the resume bundle keep. -/
def State.heldWith (s : State) (f : Ctx → Ctx) (kind : Nat) : Held :=
  let ms := s.members
  let base := (match ms with | c :: _ => c.id.toNat | [] => 0) * 2 ^ 20
  let xs := ms.map fun c => (f c.ctx.dropRows).moveWrites fun a => a - base
  { ctxs := if kind = 1 then xs.map fun x => x.mask (s.liveMask s.core.space x.pc) else xs
    energies := ms.map fun c => c.settle.energy
    fifo := ms.flatMap fun c => c.carried.map fun e => (c.member, e)
    spm := s.windowOf (ms.map fun c => c.id.toNat)
    steel := isSteel s.core.id
    kind := kind }

/-- The image as the task leaves its cores (R215, R370). -/
def State.heldHere (s : State) (kind : Nat) : Held := s.heldWith Ctx.image kind

/-- The context area of the current core's die has room for the image of its task. -/
def State.imageRoom (s : State) (kind : Nat) : Bool :=
  decide (s.storeUsed (dieOf s.core.id.toNat) 0 + (s.heldHere kind).size ≤ contextArea)

/-- The task of the current core is about to leave, or has been asked to give its core up, and waits for room for its image. -/
def State.wantsRoom (s : State) : Bool :=
  let c := s.core
  c.task.isSome &&
    (c.leave.isSome || (c.phase == .drainYield && c.quiet) || (c.waitsGang && s.members.all Core.waitsGang)
      || (match c.phase with | .idle _ => c.freeze == 12#4 | _ => false))
    && !s.imageRoom c.imageKind

def execImageSpill (s : State) : Host.Outcome State Fault Refusal :=
  .next (if s.core.task.isSome && !s.imageRoom s.core.imageKind then s.imageSpill else s)

/-! ### Where images stand (R212, R215, R363)

A task's images stand on a page of its own, in the context area of a die or a spill area, which the tenant may read and no task, copy or
host may write. The page stays until its launch is over; where it lies in the tenant's space is free (log entry 7). -/

/-- The page of a task's images. -/
def State.imagePage (s : State) (sp : Space) (k : TaskKey) : Option Mapping :=
  s.maps.find? fun m => decide (m.space = sp) && decide (m.back = .image k.launch k.task)

/-- The place of such a page: of 64 MiB, above the stubs and below the upper half of the address space. -/
def imageSlot (i : Nat) : Nat := 2 ^ 55 + i % 2 ^ 28 * 2 ^ 26

/-- The first place from a free one on where nothing is mapped. -/
def State.imageVa (s : State) (sp : Space) : Nat :=
  let start := Config.imageAddress s.picks
  let open_ := fun (i : Nat) => !s.maps.any fun m => decide (m.space = sp) && meets (imageSlot (start + i)) (2 ^ 26) m.va m.size
  imageSlot (start + ((List.range (16 * s.maps.length + 1)).find? open_).getD 0)

/-- Where it lies physically: no other image is there. -/
def State.imagePa (s : State) : Nat :=
  let taken := ((s.maps ++ s.checkpoints.flatMap Checkpoint.images).filter Mapping.isImage).map Mapping.pa
  contextBase + ((List.range (taken.length + 1)).find? fun i => !taken.contains (contextBase + i * 2 ^ 26)).getD 0 * 2 ^ 26

/-- The page for an image of n bytes of a task: its own, or a new one. -/
def State.imageHome (s : State) (sp : Space) (k : TaskKey) (n : Nat) : Mapping × State :=
  let size := (n + 65535) / 65536 * 65536
  match s.imagePage sp k with
  | some m =>
    let m := { m with size := max m.size size }
    (m, s.setMapping m)
  | none =>
    let m : Mapping :=
      { space := sp, va := s.imageVa sp, pa := s.imagePa, size := size, w := false, x := false, sync := false, remote := false, priv := false
        present := true, home := 15#4, peer := 0#128, peerPart := 0#16, back := .image k.launch k.task }
    (m, { s with maps := s.maps ++ [m], picks := s.picks + 1 })

/-- The writes of lines in the order of addresses; a line that was zero and stays so is none. `old` lists what stands from the first on. -/
def lineWrites (now : Nat) : List Host.Cell → Nat → List (List Byte) → List HistWrite
  | _, _, [] => []
  | old, pa, bs :: t =>
    let here := old.takeWhile fun c => decide (c.1 < pa + 64)
    let rest := lineWrites now (old.drop here.length) (pa + 64) t
    if here = [] ∧ bs.all (fun b => b == 0#8) = true then rest
    else ⟨now, pa, spread here pa bs.length, bs, false, []⟩ :: rest

/-- The bytes of a list that are not zero, from address a up. -/
def cellsFrom : List Byte → Nat → List Host.Cell
  | [], _ => []
  | b :: t, a => if b = unlistedByte then cellsFrom t (a + 1) else (a, b) :: cellsFrom t (a + 1)

/-- An image is written on its page, before the record that names it (R215). -/
def State.writeImage (s : State) (m : Mapping) (bs : List Byte) : State :=
  let below := s.mem.filter fun c => decide (c.1 < m.pa)
  let above := s.mem.filter fun c => decide (m.pa + bs.length ≤ c.1)
  let old := s.mem.filter fun c => decide (m.pa ≤ c.1 ∧ c.1 < m.pa + bs.length)
  { s with
    now := s.now + 1
    hist := lineWrites (s.now + 1) old m.pa (chunks 64 (bs.length / 64) bs) ++ s.hist
    mem := below ++ cellsFrom bs m.pa ++ above
    poison := s.poison.filter fun l => !(decide (m.pa ≤ l * 64) && decide (l * 64 < m.pa + bs.length)) }

/-- The bytes of a task's image as they stand on its page. -/
def State.imageBytes (s : State) (m : Mapping) (n : Nat) : List Byte :=
  spread (s.mem.filter fun c => decide (m.pa ≤ c.1 ∧ c.1 < m.pa + n)) m.pa n

/-- Sections follow one another to the end of an image: each has an ID of R228, and their sizes come to SIZE. -/
def sectionsSound : Nat → List Byte → Bool
  | 0, _ => false
  | n + 1, bs =>
    if bs = [] then true
    else
      let len := padded (fieldNat bs 8 8)
      decide (1 ≤ fieldNat bs 0 2 ∧ fieldNat bs 0 2 ≤ 12 ∧ 16 + len ≤ bs.length) && sectionsSound n (bs.drop (16 + len))

/-- An image that is refused when it is loaded: of an unknown FORM or ID, or of a SIZE that its sections do not have (R228). -/
def imageRefused (bs : List Byte) : Bool :=
  let n := fieldNat bs 0x18 2
  decide (fieldNat bs 4 2 ≠ 1 ∨ fieldNat bs 0x10 8 ≠ bs.length) || !sectionsSound (n + 1) (bs.drop 64)

/-- The image of a task that resumes is refused, or poisoned (R228, R381). -/
def State.imageFault (s : State) (n : Node) : Option Trap :=
  if n.saved = [] then none
  else
    match s.imagePage n.space n.key with
    | none => none
    | some m =>
      if s.poisoned m.pa n.held.size then some .uncorrectableData
      else if imageRefused (s.imageBytes m n.held.size) then some .illegalEncoding else none

/-- HMASK of a task that leaves: where it has a handle area, the LIVE registers of its first member, whose values go to their slots (R211,
R213; log entry 64). -/
def liveHandles (n : Node) (xs : List Ctx) : BitVec 16 :=
  match xs with
  | x :: _ => if n.harea = 0#48 then n.hmask else BitVec.ofNat 16 ((List.range 16).foldl (fun v k =>
      if (x.getH (BitVec.ofNat 4 k)).st = .live then v + 2 ^ k else v) 0)
  | [] => n.hmask

/-- What stands in the way of the handle slots that a node uses: a trap, or a page to wait for (R267, R415). -/
def State.slotsReach (s : State) (n : Node) (mask : BitVec 16) : Option (Trap ⊕ Nat) :=
  if n.harea = 0#48 ∨ mask = 0#16 then none else s.reachAll n.space (BitVec.ofNat 64 (n.harea.toNat * 256)) 256

/-- That of the current task as it leaves its core. -/
def State.slotsHere (s : State) : Option (Trap ⊕ Nat) :=
  match s.nodeOfKey s.core.owner.key, s.members with
  | some n, c :: _ => s.slotsReach n (liveHandles n [c.ctx])
  | _, _ => none

/-- The slots of the handles that a task carries are written. -/
def State.writeSlots (s : State) (n : Node) : State :=
  match n.saved with
  | x :: _ =>
    if n.harea = 0#48 then s
    else
    match s.slotsReach n n.hmask with
    | some (.inl t) => s.endLaunch n.key (bareFault t)
    | _ => (List.range 16).foldl (fun s k =>
      if n.hmask.getLsbD k then s.poke n.space (n.harea.toNat * 256 + 16 * k) (leBytes 16 (x.getH (BitVec.ofNat 4 k)).val.toNat) else s) s
  | [] => s

/-- The counter event of a task that leaves with an image of this kind and STATUS (R397): a soft stop, a hard stop or a migration, and not a
suspension that the task asked for or waits in. -/
def leaveEvent (kind status : Nat) : Option Nat :=
  if kind = 3 then some 14 else if status = 0 then none else if kind = 1 then some 12 else some 13

/-- The task of the current core is suspended: its image is written, its CR set, and its cores are free. -/
def State.suspend (s : State) (kind status : Nat) (migr : Bool) : State :=
  let s := s.settleTask
  let ms := s.members
  match s.nodeOfKey s.core.owner.key with
  | none => s.vacateAll status
  | some n =>
    let st := if status = 0 then n.status.toNat else status
    let h := s.heldHere kind
    let waits := ms.filterMap Core.awaited
    let (home, s) := s.imageHome n.space n.key h.size
    let m : Node := { n with
      st := if migr then .migrating else if waits = [] then .ready else .suspended
      started := n.started || ms.any fun c => c.ctx.started
      migr := migr
      susp := !migr
      affinity := if migr then 1 else n.affinity
      readyAt := tickOf s.time
      resume := match ms with | c :: _ => c.ctx.pc | [] => n.resume
      status := BitVec.ofNat 8 st
      hmask := liveHandles n h.ctxs
      waits := waits
      saved := h.ctxs
      phases := ms.map fun c => c.standing kind
      fifo := h.fifo
      hsteps := ms.flatMap fun c => c.stepsAlong.map fun x => (c.member, x)
      spm := h.spm
      spmBad := s.windowBad (ms.map fun c => c.id.toNat)
      energies := h.energies
      kind := kind
      image := BitVec.ofNat 64 home.va
      store := some (dieOf s.core.id.toNat, h.size, s.time)
      dbg := ms.map fun c => { CoreDbg.reset with lead := c.dbg.lead, steps := c.dbg.steps }
      core := s.core.id.toNat }
    let s := (((s.vacateAll st).writeImage home (h.image true)).writeSlots m).setNode m
    match leaveEvent kind status with | some e => s.tally n.key.part e 0 1 | none => s

/-- The members' saves may be made, no copy into the task's scratchpads is left, their image fits, and the page of the handle slots that it uses is
present. -/
def State.leaveReady (s : State) (kind : Nat) : Bool :=
  s.members.all Core.saveReady && !s.copiesLeft s.core.owner.key false && s.imageRoom kind
    && (match s.slotsHere with | some (.inr _) => false | _ => true)

/-- A core that is about to give its task up is frozen with code 12 until the save is complete; its streams give up their
copies at once (R276). -/
def State.leaveWait (s : State) : State :=
  let s := match s.slotsHere with | some (.inr a) => s.askModule s.core.space a | _ => s
  s.dropStreams.freezeClock 12#4

/-! ### Ends and commits (R132, R221) -/

/-- A LIVE handle register. -/
def Ctx.holdsHandle (x : Ctx) : Bool := x.hregs.toList.any fun r => r.st == .live

/-- The task of the current core ends: its loop state and registers are discarded, and the walker is told. SUSPENDED of its record is 0 from here
on (R211). -/
def State.endTask (s : State) : State :=
  let key := s.core.owner.key
  let id := s.core.id.toNat
  let s := s.vacateAll 0
  match s.nodeOfKey key with
  | some n =>
    let m : Node := { n with st := .ended, susp := false, core := id, saved := [], store := none }
    if n.susp then s.setNode m else s.mapNode m
  | none => s

/-- COMMIT_COMPLETE (R221, R223): every line has performed, and the event that caused the commit takes its next step. -/
def State.commitComplete (s : State) : State :=
  match s.core.commit with
  | none => s
  | some m =>
    if m.lines ≠ [] then s
    else
      let s := s.onCore fun c => { c with commit := none }
      if m.entry.isSome || m.auto then s.onCore fun c => if c.phase = .committing then c else c.thaw
      else
        match s.core.after with
        | .drainEnd => s.endTask
        | _ => s.onMembers fun c =>
          if c.owner.gang then (if c.after = .drainCommit then { c with after := .drainYield } else c)
          else { c with phase := .drainYield, after := .ready }

/-- The commit of a suspending or ending task begins; the core is frozen until it is complete, which an empty one is at once (R221, R413). -/
def State.beginCommit (s : State) (next : Phase) : State :=
  let t := (s.startCommit s.core.owner.key none false s.core.commitPc s.core.commitSlot).onCore fun c =>
    { c with phase := .committing, after := next }
  if linesOf (s.versionOf s.core.owner.key) = [] then t.commitComplete else t

/-- The commit may begin: none is under way, and every versioned store has entered the version. -/
def State.commitReady (s : State) : Bool :=
  s.members.all (fun c => c.commit.isNone) && !s.committing s.core.owner.key && !s.cores.any fun c => c.storesLeft s.core.owner.key

/-- The commit of an ENDT may begin: every tile access of the task has performed (R266), and every copy has left its queue (R289). -/
def State.endReady (s : State) : Bool :=
  s.members.all (fun c => !c.tilesLeft c.owner.key) && !s.copiesLeft s.core.owner.key true && s.commitReady

/-- A drained member waits for its gang. -/
def State.joinGang (s : State) (next : Phase) : State := s.onCore fun c => { c with phase := .committing, after := next }

/-- A drained task is suspended as YIELD gives, once its save can be made. -/
def State.yieldNow (s : State) : State := if s.leaveReady 1 then s.suspend 1 0 false else s.leaveWait

/-- TASK_DRAIN_END (R132, R372): the core is quiet after YIELD, COMMIT, ENDT or IDLE. -/
def State.drainEnd (s : State) : State :=
  let c := s.core
  if !c.quiet || c.mid then s
  else
    match c.phase with
    | .drainYield => if c.owner.gang then s.joinGang .drainYield else s.yieldNow
    | .drainCommit => if c.owner.gang then s.joinGang .drainCommit else if s.commitReady then s.beginCommit .drainCommit else s.leaveWait
    | .drainEnd =>
      if c.ctx.holdsHandle then s.onCore fun c => c.raiseAt .handleLeak 0 c.commitPc
      else if c.owner.gang then s.joinGang .drainEnd
      else if s.endReady then s.beginCommit .drainEnd
      else s.freezeClock 12#4
    | .drainIdle => s.onCore fun c => { c with phase := .idle c.time }
    | _ => s

def execTaskDrainEnd (s : State) : Host.Outcome State Fault Refusal := .next s.drainEnd

def execCommitComplete (s : State) : Host.Outcome State Fault Refusal := .next s.commitComplete

/-! ### Gangs (R134, R135, R217) -/

def Core.atBarrier (c : Core) : Bool := c.phase == .barrier

def Core.atEnd (c : Core) : Bool := c.waitsGang && c.after == .drainEnd

/-- SCHEDULE of a gang, naming a member's suspension or barrier bundle. -/
def State.gangFault (s : State) (c : Core) : State := s.onCoreId c.id.toNat fun d => d.raiseAt .schedule 0 c.commitPc

/-- GANG_SUSPEND (R135, R217): all four members wait. A member at ENDT beside one at a soft stop goes on waiting, until GRACE decides. -/
def State.gangSuspend (s : State) : State :=
  let ms := s.members
  if !s.core.owner.gang || ms.length ≠ 4 || !(ms.all fun c => c.waitsGang || c.atBarrier) then s
  else
    match ms.find? Core.atBarrier, ms.find? Core.atEnd with
    | some b, some _ => s.gangFault b
    | some _, none => s
    | none, some e =>
      if ms.any fun c => c.after == .drainYield || c.after == .drainCommit then s.gangFault e
      else if !ms.all Core.atEnd then s
      else if s.endReady then s.beginCommit .drainEnd
      else s.freezeClock 12#4
    | none, none =>
      if ms.any fun c => c.after == .drainCommit then
        let home := s.core.id.toNat
        match ms.find? fun c => c.after == .drainCommit with
        | some c => if s.commitReady then ((s.focus c.id.toNat).beginCommit .drainCommit).focus home else s.freezeClock 12#4
        | none => s
      else if s.leaveReady 1 then s.suspend 1 (if ms.any (fun c => c.stop) then 0x04 else 0) false
      else s.leaveWait

def execGangSuspend (s : State) : Host.Outcome State Fault Refusal := .next s.gangSuspend

/-- What is left of a result whose scratchpad bytes have been written early: its flags, which rise in its own cycle (R116, R117). -/
def Result.flagsLeft (r : Result) : Option Result :=
  match r.wr with
  | .spm _ => some { r with wr := .nothing }
  | .atom _ _ _ _ _ _ _ _ => none
  | _ => some r

/-- The scratchpad writes that a member has issued are performed, in order (R134). -/
def State.flushWrites (s : State) : State :=
  let isWrite := fun (r : Result) => match r.wr with | .spm _ => true | .atom _ _ _ _ _ _ _ _ => true | _ => false
  let due := sortResults (s.core.ctx.results.filter isWrite)
  let soon := (List.range 15).flatMap fun k => due.filter fun r => r.rem == k
  let s := s.onCore fun c => c.onCtx fun x => { x with results := x.results.filterMap Result.flagsLeft }
  soon.foldl (fun s r =>
    match r.wr with
    | .atom op a size x y rm ftz d =>
      (s.localAtom r op a size x y rm ftz d).onCore fun c => c.onCtx fun z =>
        { z with results := z.results.zipIdx.map fun p =>
            if p.2 + 1 = z.results.length then { p.1 with rem := r.rem + 4 } else p.1 }
    | _ => s.apply r) s

/-- BARRIER_COMPLETE (R134): every member stands at the barrier; their scratchpad writes are performed, and all issue in the
same clock. Of writes of two members to one byte the higher core's stands, since the members come in core order, which no rule fixes (log
entry 26). -/
def State.barrierComplete (s : State) : State :=
  let ms := s.members
  if !(ms.all Core.atBarrier) || (s.core.owner.gang && ms.length ≠ 4) then s
  else
    let home := s.core.id.toNat
    let s := (ms.foldl (fun s c => ((s.focus c.id.toNat).flushWrites)) s).focus home
    let t := ms.foldl (fun t c => max t c.time) 0
    let s := s.onMembers fun c => { (c.reach t).thaw with phase := .ready, after := .ready }
    (ms.foldl (fun s c => (s.focus c.id.toNat).fetchIn) s).focus home

def execBarrierComplete (s : State) : Host.Outcome State Fault Refusal := .next s.barrierComplete

/-! ### Stops (R361, R362) -/

/-- The bundle due has SAFE set. -/
def State.safeDue (s : State) : Bool := match s.fetch with | .bundle b => b.getLsbD 19 | _ => false

/-- A soft stop is taken here: at a quiet taken back edge, at a quiet safe point, or while the core idles (R130, R361, R372). A back edge whose
bundle holds CBAR is tested once the barrier is complete (log entry 62). -/
def State.softDue (s : State) : Bool :=
  let c := s.core
  c.stop && c.trap.isNone && !c.mid &&
    (match c.phase with
    | .ready => c.quiet && (c.edge || s.safeDue)
    | .waitc _ => c.quiet && c.edge
    | .idle _ => true
    | _ => false)

/-- SOFT_STOP: the task is suspended with an image of KIND 1; a member of a gang waits for the others. -/
def State.softStop (s : State) : State :=
  if s.core.leave = some .soft ∨ s.softDue = true then
    if s.core.owner.gang then s.joinGang .ready
    else if s.leaveReady 1 then s.suspend 1 0x04 false
    else s.leaveWait.onCore fun c => { c with leave := some .soft }
  else s

def execSoftStop (s : State) : Host.Outcome State Fault Refusal := .next s.softStop

/-- The trap MIGRATE becomes a request to leave (R227). -/
def Core.migrates (c : Core) : Core :=
  match c.trap with
  | some r => if r.code = .migrate then { c with trap := none, leave := some .migrate } else c
  | none => c

/-- An address lies on a page that is mapped and not present. -/
def State.absentAt (s : State) (sp : Space) (va : Nat) : Bool := match s.mappingOf sp va with | some m => !m.present | none => false

/-- The next row of a stream, or its record, waits for a page. -/
def State.rowAbsent (s : State) (st : Stream) : Bool :=
  match st.tsr with
  | none =>
    let a := match st.handle with | some v => (s.handleEntry v).tsr.toNat | none => st.recAddr.toNat
    s.absentAt s.core.space a || s.absentAt s.core.space (a + 191)
  | some t => (t.rowSources st.box st.fetched).any fun e => (t.elemBytes e ++ e.sideBytes).any (s.absentAt s.core.space)

/-- A granule that an entry has yet to perform lies on such a page. -/
def State.entryAbsent (s : State) (e : Entry) : Bool :=
  e.left.any fun g => s.absentAt ⟨e.owner.key.part, e.owner.vdev⟩ (e.va + BitVec.ofNat 64 (16 * g)).toNat

/-- A late landing waits for a page. -/
def State.landingAbsent (s : State) (l : Landing) : Bool :=
  match l.kind with
  | .stream => s.core.ctx.queues.toList.any fun q => q.any fun st => st.id == l.id && s.rowAbsent st
  | _ => s.core.fifo.any fun e => e.landing == some l.id && s.entryAbsent e

/-- What the current core's task is frozen on is a page-in (R226, R239, R303): of a late landing, of the bundle due, or of a row that the bundle
due pops. -/
def State.onPageIn (s : State) : Bool :=
  let c := s.core
  (c.lateFrom.isSome && c.ctx.landings.any fun l => l.rem == 1 && l.data.isNone && l.err.isNone && s.landingAbsent l)
    || (c.phase == .ready && !c.mid && s.absentAt c.space (addrOf c.ctx.pc).toNat)
    || (c.judged && s.dueCode == 3#4 && c.ctx.queues.toList.any fun q =>
      match q.find? fun st => !st.ended with | some st => st.rows.isEmpty && s.rowAbsent st | none => false)

/-- A core whose task may leave hard, or whose task waits for a page before a stall cycle or in the drain of IDLE: the wait may outlast GRACE
(R239, R362). -/
def State.stopsHere (s : State) (c : Core) : Bool :=
  c.stopped || (c.settled && !c.departs && (c.stalls || c.phase == .drainIdle) && c.lateFrom.isSome
    && (s.focus c.id.toNat).onPageIn)

/-- The STATUS of a hard stop. -/
def State.hardStatus (s : State) : Nat :=
  let ls := s.members.filterMap Core.leave
  if ls.contains .migrate then 0x01
  else if ls.contains .debug then 0x05
  else if ls.any fun l => (match l with | .wait _ => true | _ => false) then 0
  else if s.members.any (fun c => (s.focus c.id.toNat).onPageIn) then 0x02 else 0x04

/-- HARD_STOP (R362): the core freezes at its next bundle boundary. Once every member is stopped and the save can be made, the
task leaves; the COMMIT of a member that waits is carried out first (R217). -/
def State.hardStop (s : State) : State :=
  let s := s.onCore Core.migrates
  if s.core.leave.isNone || s.core.leave == some .soft || !s.stopsHere s.core then s
  else
    let s := s.onMembers fun c => if c.leave.isNone || c.leave == some .soft then { c with leave := some .gang } else c
    let ms := s.members
    if !ms.all s.stopsHere then s.freezeClock 12#4
    else
      match ms.find? fun c => c.phase == .committing && c.after == .drainCommit with
      | some c =>
        let home := s.core.id.toNat
        if s.commitReady then ((s.focus c.id.toNat).beginCommit .drainCommit).focus home else s.freezeClock 12#4
      | none =>
        let migr := (ms.filterMap Core.leave).contains .migrate
        let kind := if migr then 3 else 2
        if s.leaveReady kind then s.suspend kind s.hardStatus migr else s.leaveWait

def execHardStop (s : State) : Host.Outcome State Fault Refusal := .next s.hardStop

/-! ### A node has finished (R219) -/

/-- Accesses of a task that have not performed. -/
def State.workLeft (s : State) (k : TaskKey) : Bool :=
  s.cores.any fun c =>
    c.fifo.any (fun e => decide (e.owner.key = k)) || c.hsteps.any (fun h => decide (h.owner.key = k))
      || c.taccs.any (fun a => decide (a.owner.key = k))
      || c.equeues.toList.any fun q => q.any fun e =>
        match e with | .copy _ _ o _ => decide (o.key = k) | .node _ o _ => decide (o.key = k) | _ => false

/-- NODE_FINISH: an ended task, every access of which has performed. -/
def execNodeFinish (k : Nat) (s : State) : Host.Outcome State Fault Refusal :=
  .next (match s.nodes[k]? with
    | some n =>
      if n.st = .ended ∧ s.workLeft n.key = false then
        (match s.succWait n with | some a => s.askModule n.space a | none => s.finishNode n)
      else s
    | none => s)

/-! ### Energy records (R367) -/

/-- The record that a core holds is saved, with what has fallen due on it. -/
def State.saveEnergy (s : State) (id : Nat) : State :=
  match s.coreOf id with
  | some c =>
    (match c.energyOf with
    | some sp =>
      let s : State := { s with
        energies := (sp, id, c.settle.energy) :: s.energies.filter fun e => !(decide (e.1 = sp) && e.2.1 == id) }
      s.onCoreId id fun c => { c with energyOf := none, refillDue := false, staticDue := false }
    | none => s)
  | none => s

/-- A record with the STATIC that firmware writes at bring-up: the share of leakage of a Steel or a Bronze core (R76). -/
def Energy.fresh (id : BitVec 6) : Energy := { Energy.reset with estatic := if isSteel id then 6154#16 else 5333#16 }

/-- The record of a tenant on a core (R367; a new one by log entry 60). -/
def State.energyFor (s : State) (sp : Space) (id : Nat) : Energy :=
  match s.energies.find? fun e => decide (e.1 = sp) && e.2.1 == id with
  | some e => e.2.2
  | none => Energy.fresh (BitVec.ofNat 6 id)

/-- A task of the tenant is placed: its record is on the core. -/
def State.loadEnergy (s : State) (sp : Space) (id : Nat) : State :=
  match s.coreOf id with
  | some c =>
    if c.energyOf = some sp then s
    else
      let s := s.saveEnergy id
      let e := s.energyFor sp id
      s.onCoreId id fun c => { c with energy := e, seen := e, energyOf := some sp }
  | none => s

/-! ### Placement (R62, R214, R356) -/

def State.clusterAt (s : State) (cl : Nat) : Option Cluster := s.clusters.find? fun c => c.id == cl

/-- The core is enabled (R9). -/
def State.enabled (s : State) (id : Nat) : Bool := s.coreMap.getLsbD id

/-- Eight core clocks have passed since the last bundle issued there (R62). -/
def Core.rested (c : Core) : Bool := match c.lastIssue with | some t => decide (t + 9 * clockOf c.id ≤ c.time) | none => true

/-- The core can take a task now, or would with its idle task suspended (R372). -/
def Core.free (c : Core) : Bool := c.task.isNone || (match c.phase with | .idle _ => !c.mid && c.commit.isNone | _ => false)

/-- One ready task comes before another (R356). -/
def Node.before (a b : Node) : Bool :=
  if a.migr != b.migr then a.migr
  else if a.prio ≠ b.prio then decide (b.prio < a.prio)
  else if a.key.launch = b.key.launch ∧ a.started ≠ b.started then a.started
  else if a.key.launch ≠ b.key.launch then decide (a.key.launch < b.key.launch)
  else if a.readyAt ≠ b.readyAt then decide (a.readyAt < b.readyAt)
  else decide (a.key.task < b.key.task)

/-- A node that waits for a core. -/
def Node.waitsCore (n : Node) : Bool := !n.copy && (n.st == .ready || n.st == .migrating)

/-- Cores that a partition holds. -/
def Part.holdsCore (p : Part) (id : Nat) : Bool := p.clusters.getLsbD (id / 4)

/-- Every core of a cluster is enabled and runs no task. -/
def State.clusterIdle (s : State) (cl : Nat) : Bool :=
  (List.range 4).all fun m => s.enabled (4 * cl + m) && s.cores.any fun c => c.id.toNat == 4 * cl + m && c.task.isNone

/-- A Bronze core, or for a gang a Bronze cluster, on which a task of AFFINITY 2 could be placed now (R214). -/
def State.bronzeIdle (s : State) (n : Node) : Bool :=
  match s.partOf n.key.part with
  | none => false
  | some p => s.cores.any fun c =>
      !isSteel c.id && p.holdsCore c.id.toNat && s.enabled c.id.toNat && c.task.isNone && (!n.gang || s.clusterIdle (c.id.toNat / 4)) &&
        (match s.clusterAt (clusterOf c.id) with
        | some k => k.ended.isNone && (k.holder == none || k.holder == some n.space)
        | none => false)

/-- The core's class is one that the task allows (R9, R214, R216). -/
def State.classAllows (s : State) (n : Node) (c : Core) : Bool :=
  s.enabled c.id.toNat
    && (if n.gang then (List.range 4).all fun m => s.enabled (c.id.toNat / 4 * 4 + m) else true)
    && (if n.affinity = 1 ∨ n.st = .migrating then isSteel c.id
      else if n.affinity = 2 then !isSteel c.id || !s.bronzeIdle n else true)

/-- The launch of the node runs, and its tenant is enabled and not halted. -/
def State.mayRun (s : State) (n : Node) : Bool :=
  (match s.tenantOf n.space with | some t => t.st == .enabled | none => false)
    && s.devState == .ready && !s.wiping n.key.part
    && (match s.replayOf n.key.part with | some r => !r.halted | none => true)
    && s.launches.any fun l => l.space.part == n.key.part && l.id == n.key.launch && l.ending.isNone

/-- The first of the tasks that wait and that a core's class allows. -/
def State.firstTask (s : State) (sp : Space) (c : Core) : Option Node :=
  (s.nodes.filter fun n => n.waitsCore && decide (n.space = sp) && s.mayRun n && s.classAllows n c).foldl
    (fun best n => match best with | none => some n | some b => if n.before b then some n else best) none

/-- A handle that a starting task carries (R213). -/
def State.carriedHandle (s : State) (n : Node) (k : Nat) : HReg :=
  if n.hmask.getLsbD k then ⟨BitVec.ofNat 128 (leNat (s.peek n.space (n.harea.toNat * 256 + 16 * k) 16)), .live⟩ else HReg.reset

/-- The first bundle of a task: its entry, or the entry's stub where its bodies are built here (R346). -/
def State.firstBundle (s : State) (n : Node) : BitVec 58 :=
  let e := (addrOf n.resume).toNat
  if s.objects.any fun o => decide (o.space = n.space) && !o.bundled && o.entries.contains e then
    match s.stubOf n.space e with | some b => indexOf (BitVec.ofNat 64 b.stub) | none => n.resume
  else n.resume

/-- The context with which member m starts or resumes. The carried handles of a gang come to its first member (R270; log entry 64). A
register that was MOVED resumes MOVED, as section 0x03 and R276 say, where R213 says EMPTY of a register whose HMASK bit is 0 (log entry
64). -/
def State.contextFor (s : State) (n : Node) (m : Nat) : Ctx :=
  match n.saved[m]? with
  | some x => x
  | none => { Ctx.reset with pc := s.firstBundle n, hregs := Vector.ofFn fun k : Fin 16 => if m = 0 then s.carriedHandle n k.val else HReg.reset }

/-- A core as member m of the task is placed on it. -/
def Core.take (c : Core) (p : Part) (o : Running) (x : Ctx) (ph : Phase × Phase × BitVec 58 × Nat) (now m : Nat)
    (carry : List (Nat × Entry)) (steps : List (Nat × HStep)) (dbg : CoreDbg) : Core :=
  let old := (carry.filter fun e => e.1 == m).map Prod.snd
  let mine := old.zipIdx.map fun e => { e.1 with
    id := nextEntry c.fifo + e.2, owner := o, fresh := if e.1.commits then e.1.fresh else true, done := false, part := []
    left := granules e.1.op, at_ := c.time }
  let moved := fun (h : HStep) =>
    let op := match h.op with | .spawn k => HOp.spawn (nextEntry c.fifo + (old.findIdx fun e => e.id == k)) | op => op
    { h with op := op, owner := o, since := none }
  { c with
    ctx := { x with queues := x.queues.map fun q => q.map fun st => { st with since := now } }
    task := some o
    phase := ph.1
    after := ph.2.1
    commitPc := ph.2.2.1
    commitSlot := 0
    hdr := 0#32
    issuing := []
    mid := false
    stall := ph.2.2.2
    freeze := 0#4
    froze := 0
    worst := 0#4
    ended := none
    fetched := false
    judged := false
    lateFrom := none
    lastBundle := x.pc
    edge := false
    trap := none
    lateFault := none
    weights := []
    weight := 0
    allowA1 := p.a1
    allowAW := p.aw
    allowTrap := p.flags.getLsbD 2
    pspan := p.pspan
    vquota := p.vquota
    stop := false
    stopAt := none
    stopNow := false
    defer := false
    leave := none
    recCache := []
    fifo := c.fifo ++ mine
    hsteps := c.hsteps ++ ((steps.filter fun h => h.1 == m).map Prod.snd).map moved
    views := []
    viewBase := now
    readRel := []
    commit := none
    dbg := { dbg with hits := c.dbg.hits }
    beats := Vector.replicate 4 0#16
    frozen := 0 }

/-- The task's scratchpad: as it was left, or zeros with the object's .spad image on top (R198). Bytes of an image past the task's window, which
a partition with UNCHK does not refuse (R351), go where their offsets lead, which no rule says (log entry 63). -/
def State.placeSpm (s : State) (n : Node) (base size : Nat) : State :=
  let inside := fun (a : Nat) => decide (base ≤ a ∧ a < base + size)
  let spad := match s.objects.find? fun o => decide (o.space = n.space) && o.entries.contains (addrOf n.resume).toNat with
    | some o => o.spad
    | none => []
  let cells := if n.saved = [] then spad else n.spm
  { s with
    spm := writeCells (s.spm.filter fun c => !inside c.1) (cells.map fun (c : Nat × Byte) => (base + c.1, c.2))
    spmLate := s.spmLate.filter fun c => !inside c.1
    spmPoison := (if n.saved = [] then [] else n.spmBad.map fun w => base / 8 + w) ++ s.spmPoison.filter fun w => !inside (w * 8) }

/-- The handle streams of the current core count in OUTSTANDING again (R276). -/
def State.recountStreams (s : State) : State :=
  let sts := (s.core.ctx.queues.toList.flatMap id).filter fun st => st.handle.isSome && st.tsr.isSome && !st.ended
  let s := sts.foldl (fun s st => match st.handle with | some v => s.addOutst (handleLidx v).toNat true | none => s) s
  s.onCore fun c => c.onCtx fun x => { x with queues := x.queues.map fun q => q.map fun st =>
    if st.handle.isSome && st.tsr.isSome && !st.ended then { st with counted := true } else st }

/-- One core takes its member of a task. -/
def State.placeMember (s : State) (n : Node) (p : Part) (id m : Nat) : State :=
  let o : Running := ⟨n.key, n.vdev, n.gang, 0#2, p.flags.getLsbD 0⟩
  let x := (s.contextFor n m).moveWrites fun a => a + (id - m) * 2 ^ 20
  let s := (s.loadEnergy n.space id).focus id
  let s := (s.onCore fun c => c.take p o x (n.phases.getD m (.ready, .ready, 0#58, 0)) s.now m n.fifo n.hsteps (n.dbg.getD m CoreDbg.reset)).recountStreams.fetchAhead false
  s.emitIf 0 n.space (96 + clusterOf s.core.id) s.core.reftime 0x40
    (n.key.task % 2 ^ 32 + n.key.launch % 2 ^ 32 * 2 ^ 32) id x.cycle.toNat

/-- A placement as the order log has it. -/
def placeLog (n : Node) (ids : List Nat) : Nat :=
  n.key.task + 2 ^ 32 * ids.headD 0 + 2 ^ 40 * n.key.launch + 2 ^ 72 * (match n.saved with | x :: _ => x.cycle.toNat | [] => 0)

/-- In replay, the placement is the one that the log gives next (R403); with no entry left the partition halts. -/
def State.replayPlaces (s : State) (n : Node) (ids : List Nat) : Bool :=
  match s.replayOf n.key.part with
  | some r => if r.replaying then (match takeKind 2 0 r.log with | some (e, _) => e.val == placeLog n ids | none => false) else true
  | none => true

/-- The replay log holds no placement for a task that waits. -/
def State.replayEnds (s : State) (n : Node) : State :=
  match s.replayOf n.key.part with
  | some r => if r.replaying && (takeKind 2 0 r.log).isNone then s.setReplay { r with lack := true } else s
  | none => s

/-- The L1s of a cluster on whose cores no task runs take the mode that the launch asks for (R233). -/
def State.setL1 (s : State) (n : Node) (cl : Nat) : State :=
  match s.launches.find? fun l => l.space.part == n.key.part && l.id == n.key.launch with
  | some l => if s.cores.any fun c => c.task.isSome && clusterOf c.id == cl then s else s.fuseCluster cl l.fuse
  | none => s

/-- The task runs. -/
def State.placeNode (s : State) (n : Node) (p : Part) (ids : List Nat) : State :=
  let home := s.core.id.toNat
  let base := ids.headD 0 * 2 ^ 20
  let s := (s.placeSpm n base (ids.length * 2 ^ 20)).setL1 n (ids.headD 0 / 4)
  let t := ids.foldl (fun t id => match s.coreOf id with | some c => max t c.time | none => t) 0
  let s := s.mapCores fun c => if ids.contains c.id.toNat then c.reach t else c
  let s := (ids.zipIdx.foldl (fun s q => s.placeMember n p q.1 q.2) s).focus home
  let s := (s.logged n.key.part 2 0 (placeLog n ids)).2
  s.mapNode { n with
    st := .running, migr := false, saved := [], phases := [], fifo := [], hsteps := [], spm := [], spmBad := [], energies := [], waits := [], store := none, image := 0#64, dbg := []
    core := ids.headD 0 }

/-- A task is placed, unless its image is poisoned (R381) or the handle slots that it starts from cannot be read (R213, R415), which ends the launch;
one whose image is refused faults at its resume bundle (R228). -/
def State.startNodeOn (s : State) (n : Node) (p : Part) (ids : List Nat) : State :=
  match (if n.saved = [] then s.slotsReach n n.hmask else none), s.imageFault n with
  | some (.inl t), _ => s.endLaunch n.key (bareFault t)
  | some (.inr a), _ => s.askModule n.space a
  | none, some .uncorrectableData => s.endLaunch n.key (bareFault .uncorrectableData)
  | none, some t => (s.placeNode n p ids).onCoreId (ids.headD 0) fun c => c.raiseAt t 0xFF c.ctx.pc
  | none, none => s.placeNode n p ids

/-- Cores of a placement on core `id`: itself, or its whole cluster. -/
def placeIds (n : Node) (id : Nat) : List Nat := if n.gang then (List.range 4).map fun m => id / 4 * 4 + m else [id]

/-- An idle task gives way to a task that waits (R372). -/
def State.idleGives (s : State) (id : Nat) : State :=
  let home := s.core.id.toNat
  let s := s.focus id
  (match s.core.phase with | .idle _ => if s.core.owner.gang then s.joinGang .drainYield else s.yieldNow | _ => s).focus home

/-- The task that core `id` is to take: the first in order or, in replay, the one of the next logged placement, where it is for this core (R403). -/
def State.nextTask (s : State) (sp : Space) (c : Core) (id : Nat) : Option Node :=
  match s.replayOf sp.part with
  | some r =>
    if r.replaying && (takeKind 2 0 r.log).isSome then
      s.nodes.find? fun n => n.waitsCore && decide (n.space = sp) && s.mayRun n && s.replayPlaces n (placeIds n id)
    else s.firstTask sp c
  | none => s.firstTask sp c

/-- TASK_PLACE on core `id`: the first task in order of the tenant that holds the cluster; while that is a gang, the cluster
places nothing else. -/
def State.taskPlace (s : State) (id : Nat) : State :=
  match s.coreOf id, s.clusterAt (id / 4) with
  | some c, some k =>
    if !c.free || k.ended.isSome then s
    else
      match k.holder with
      | none => s
      | some sp =>
        match s.nextTask sp c id, s.partOf sp.part with
        | some n, some p =>
          let ids := placeIds n id
          let cs := ids.filterMap s.coreOf
          if !(cs.all Core.free) || cs.length ≠ ids.length then s
          else if cs.any fun c => c.task.isSome then cs.foldl (fun s c => s.idleGives c.id.toNat) s
          else if !s.replayPlaces n ids then s.replayEnds n
          else if cs.all Core.rested then s.startNodeOn n p ids else s
        | _, _ => s
  | _, _ => s

def execTaskPlace (core : Nat) (s : State) : Host.Outcome State Fault Refusal := .next (s.taskPlace core)

/-! ### Idling (R372) -/

/-- IDLE_TIMEOUT: after 65,536 reference ticks issue resumes at the next bundle, and the stop-point count restarts. -/
def execIdleTimeout (s : State) : Host.Outcome State Fault Refusal :=
  .next (match s.core.phase with
    | .idle t0 =>
      if s.core.mid = false ∧ t0 + 65536 * 24 ≤ s.core.time then
        s.onCore fun c => { c with phase := .ready, after := .ready, ctx := { c.ctx with spanCount := 0 } }
      else s
    | _ => s)

end Sys2Proof.Machine
end

