-- ==== Sys2Proof/Machine/Sched.lean ====
section
/-! DEFINITION. Stride scheduling in each cluster (R355, R358 to R360, R362, R366). -/

namespace Sys2Proof.Machine

/-! ### Eligibility (R359) -/

/-- The partition that holds a cluster. -/
def State.partOfCluster (s : State) (cl : Nat) : Option Part := s.parts.find? fun p => p.clusters.getLsbD cl

def State.coresIn (s : State) (cl : Nat) : List Core := s.cores.filter fun c => c.id.toNat / 4 == cl

/-- A tenant has a Ready task that may be placed on some core of the cluster. -/
def State.eligible (s : State) (cl : Nat) (sp : Space) : Bool :=
  (match s.tenantOf sp with | some t => t.st == .enabled | none => false)
    && s.nodes.any fun n => n.waitsCore && decide (n.space = sp) && s.mayRun n && (s.coresIn cl).any fun c => s.classAllows n c

def State.eligibles (s : State) (cl : Nat) : List Tenant :=
  match s.partOfCluster cl with
  | some p => s.tenants.filter fun t => t.space.part == p.id && s.eligible cl t.space
  | none => []

def Tenant.passAt (t : Tenant) (cl : Nat) : Nat := assocGet 0 t.pass cl

def Tenant.setPass (t : Tenant) (cl v : Nat) : Tenant := { t with pass := assocSet 0 t.pass cl (v % 2 ^ 64) }

def State.setCluster (s : State) (k : Cluster) : State := { s with clusters := s.clusters.map fun c => if c.id = k.id then k else c }

/-- The least PASS among tenants. -/
def leastPass (cl : Nat) : List Tenant → Nat
  | [] => 0
  | [t] => t.passAt cl
  | t :: ts => min (t.passAt cl) (leastPass cl ts)

/-- Tenants that have become eligible: their PASS is raised to the least of those eligible or holding. -/
def State.judge (s : State) (k : Cluster) : State :=
  let now := s.eligibles k.id
  let vs := now.map fun t => t.space.vdev
  if vs = k.elig then s
  else
    let others := (now.filter fun t => k.elig.contains t.space.vdev)
      ++ (match k.holder with | some sp => (s.tenantOf sp).toList | none => [])
    let floor := leastPass k.id others
    let s := (now.filter fun t => !k.elig.contains t.space.vdev).foldl (fun s t =>
      if others ≠ [] ∧ t.passAt k.id < floor then s.setTenant (t.setPass k.id floor) else s) s
    s.setCluster { k with elig := vs }

/-- Every cluster judged. -/
def State.judgeAll (s : State) : State := s.clusters.foldl (fun s k => match s.clusterAt k.id with | some k => s.judge k | none => s) s

/-! ### Slices -/

/-- Tasks of a tenant on a cluster. -/
def State.tasksOn (s : State) (cl : Nat) (sp : Space) : List Core := (s.coresIn cl).filter fun c => c.task.isSome && decide (c.space = sp)

/-- ceil(STRIDE × held / SLICE), with SLICE in µs and ticks of 1 ns. -/
def charge (t : Tenant) (held slice : Nat) : Nat :=
  let st := 2 ^ 20 / max 1 t.tickets
  let n := slice * 1000
  (st * held + n - 1) / max 1 n

def State.chargePass (s : State) (sp : Space) (cl held : Nat) : State :=
  match s.tenantOf sp, s.partOf sp.part with
  | some t, some p => s.setTenant (t.setPass cl (t.passAt cl + charge t held p.slice))
  | _, _ => s

/-- A tenant whose MIGRATING task finds none of the partition's Steel clusters held by it, nor already about to be (R358). -/
def State.migrant (s : State) (cl : Nat) : Option Space :=
  match s.partOfCluster cl with
  | none => none
  | some p =>
    if !isSteel (BitVec.ofNat 6 (4 * cl)) then none
    else
      (s.nodes.find? fun n => n.st == .migrating && n.key.part == p.id && s.eligible cl n.space &&
        !(s.clusters.any fun k => p.clusters.getLsbD k.id && isSteel (BitVec.ofNat 6 (4 * k.id)) &&
          (k.holder == some n.space || k.next == some n.space))).map
        Node.space

/-- The eligible tenant with the least PASS; of equal ones, the lower VDEV. -/
def State.leastTenant (s : State) (cl : Nat) : Option Space :=
  ((s.eligibles cl).foldl (fun (best : Option Tenant) t =>
    match best with
    | none => some t
    | some b => if t.passAt cl < b.passAt cl ∨ (t.passAt cl = b.passAt cl ∧ t.space.vdev < b.space.vdev) then some t else some b)
    none).map Tenant.space

def State.nextTenant (s : State) (cl : Nat) : Option Space :=
  match s.migrant cl with | some sp => some sp | none => s.leastTenant cl

/-- A SLICE record (R399). -/
def State.emitSlice (s : State) (cl : Nat) (old new : Option Space) : State :=
  let v := fun (x : Option Space) => match x with | some sp => sp.vdev | none => 0xFF
  let put := fun (s : State) (x : Option Space) =>
    match x with
    | some sp => s.emitIf 0 sp (96 + cl) (tickOf s.time) 0x42 cl (v old + v new * 256) 0
    | none => s
  if old = new then put s old else put (put s old) new

/-- The records of the old tenant on the cluster's cores are saved (R367). -/
def State.saveCluster (s : State) (cl : Nat) : State := (s.coresIn cl).foldl (fun s c => s.saveEnergy c.id.toNat) s

/-- The cluster passes to a tenant, or to none. -/
def State.give (s : State) (k : Cluster) (dest : Option Space) : State :=
  let s := if dest = k.holder then s else s.saveCluster k.id
  let s := s.emitSlice k.id k.holder dest
  s.setCluster { k with holder := dest, start := tickOf s.time, ended := none, asked := none, next := none }

/-- A slice is over: SLICE has passed, its holder has nothing more to run, or its holder is being disabled. -/
def State.sliceOver (s : State) (k : Cluster) (sp : Space) : Bool :=
  let idle := (s.tasksOn k.id sp).isEmpty && !s.eligible k.id sp
  idle || (match s.tenantOf sp with | some t => t.st != .enabled | none => true)
    || (match s.partOf sp.part with | some p => decide (k.start + p.slice * 1000 ≤ tickOf s.time) | none => true)

/-- SLICE_END: the holder is charged, and the next tenant is chosen; a cluster that no tenant holds goes to the first that is
eligible. -/
def State.sliceEnd (s : State) (cl : Nat) : State :=
  match s.clusterAt cl with
  | none => s
  | some k =>
    if k.ended.isSome then s
    else
      match k.holder with
      | none => (match s.nextTenant cl with | some sp => s.give k (some sp) | none => s)
      | some sp =>
        if !s.sliceOver k sp then s
        else
          let now := tickOf s.time
          let s := s.chargePass sp cl (now - k.start)
          let busy := !(s.tasksOn cl sp).isEmpty
          let on := match s.tenantOf sp with | some t => t.st == .enabled | none => false
          let dest := match s.nextTenant cl with | some x => some x | none => if busy && on then some sp else none
          if dest = some sp then s.setCluster { k with start := now }
          else if busy then s.setCluster { k with ended := some now, next := dest }
          else s.give k dest

def execSliceEnd (cl : Nat) (s : State) : Host.Outcome State Fault Refusal := .next (s.sliceEnd cl)

/-- Cores of a cluster that still run the tenant whose slice has ended. -/
def State.leavers (s : State) (k : Cluster) : List Core := match k.holder with | some sp => s.tasksOn k.id sp | none => []

/-- The tenant that holds a cluster is being disabled, since this tick. -/
def State.stoppingSince (s : State) (k : Cluster) : Option Nat :=
  match k.holder with
  | some sp => (match s.tenantOf sp with | some t => if t.st = .stopping then some t.since else none | none => none)
  | none => none

/-- The instant from which the tasks of the tenant that holds a cluster are stopped hard: GRACE after the first soft request, that of TSPAN after
a slice's end or that of a disable. -/
def State.graceAt (s : State) (k : Cluster) (p : Part) : Option Nat :=
  match s.stoppingSince k, k.asked with
  | some a, some b => some (min a b + p.grace * 1000)
  | some a, none => some (a + p.grace * 1000)
  | none, some b => some (b + p.grace * 1000)
  | none, none => none

/-- TSPAN has passed since the slice ended, and the old tenant's tasks have not been asked to stop yet. -/
def State.tspanDue (s : State) (k : Cluster) (p : Part) : Bool :=
  match k.ended with
  | some e => k.asked.isNone && decide (e + p.tspan * 1000 ≤ tickOf s.time)
  | none => false

/-- TSPAN_EXPIRY: the stop flag is set on every core that still runs the old tenant's tasks. -/
def State.tspanExpiry (s : State) (cl : Nat) : State :=
  match s.clusterAt cl, s.partOfCluster cl with
  | some k, some p =>
    if s.tspanDue k p then
      ((s.leavers k).foldl (fun s c => s.onCoreId c.id.toNat Core.askStop) s).setCluster { k with asked := some (tickOf s.time) }
    else s
  | _, _ => s

def execTspanExpiry (cl : Nat) (s : State) : Host.Outcome State Fault Refusal := .next (s.tspanExpiry cl)

/-- A task is stopped hard at its next bundle boundary, unless it carries out its own departure (R362). -/
def Core.askHard (c : Core) : Core :=
  if c.departs then c
  else match c.leave with
    | none => { c with leave := some (if c.phase = .held then .debug else .hard) }
    | some .soft => { c with leave := some .hard }
    | some _ => c

/-- A task that is asked to leave hard only now. -/
def Core.maySharpen (c : Core) : Bool :=
  !c.departs && (match c.leave with | none => true | some .soft => true | _ => false)

/-- The cores of a cluster whose tasks have not left GRACE after a soft request: that of the scheduler to the tenant, or the task's own (R362). -/
def State.overdue (s : State) (k : Cluster) (p : Part) : List Core :=
  let late := match s.graceAt k p with | some g => decide (g ≤ tickOf s.time) | none => false
  (s.coresIn k.id).filter fun c => c.task.isSome && c.maySharpen &&
    ((late && some c.space == k.holder)
      || (match c.stopAt with | some t => c.stop && decide (t + p.grace * 1000 ≤ tickOf s.time) | none => false))

/-- GRACE_EXPIRY. -/
def State.graceExpiry (s : State) (cl : Nat) : State :=
  match s.clusterAt cl, s.partOfCluster cl with
  | some k, some p => (s.overdue k p).foldl (fun s c => s.onCoreId c.id.toNat Core.askHard) s
  | _, _ => s

def execGraceExpiry (cl : Nat) (s : State) : Host.Outcome State Fault Refusal := .next (s.graceExpiry cl)

/-- TENANT_DRAINED: the old tenant's last task has left; the drain is charged and the new slice begins. -/
def State.tenantDrained (s : State) (cl : Nat) : State :=
  match s.clusterAt cl with
  | none => s
  | some k =>
    match k.ended, k.holder with
    | some e, some sp =>
      if (s.tasksOn cl sp).isEmpty then (s.chargePass sp cl (tickOf s.time - e)).give k k.next else s
    | _, _ => s

def execTenantDrained (cl : Nat) (s : State) : Host.Outcome State Fault Refusal := .next (s.tenantDrained cl)

/-- What a cluster's scheduler has to do at this tick (R359, R360, R362), the first that is due: a drain that is over, the stop flags at TSPAN, the
hard stops at GRACE, the end of a slice, or the choice of a tenant that has become eligible. -/
def State.clusterDue (s : State) (k : Cluster) : Option Instr :=
  match s.partOfCluster k.id with
  | none => none
  | some p =>
    if k.ended.isSome && (match k.holder with | some sp => (s.tasksOn k.id sp).isEmpty | none => false) then some (.tenantDrained k.id)
    else if s.tspanDue k p then some (.tspanExpiry k.id)
    else if !(s.overdue k p).isEmpty then some (.graceExpiry k.id)
    else if k.ended.isNone && p.slice != 0 &&
        (match k.holder with | some sp => s.sliceOver k sp | none => (s.nextTenant k.id).isSome) then some (.sliceEnd k.id)
    else none

/-- A stopping tenant has no task on a core any more (R366). -/
def State.tenantOff (s : State) (sp : Space) : Bool :=
  (match s.tenantOf sp with | some t => t.st == .stopping | none => false)
    && !(s.cores.any fun c => c.task.isSome && decide (c.space = sp))

end Sys2Proof.Machine
end

