-- ==== Sys2Proof/Machine/Loader.lean ====
section
/-! DEFINITION. The loader's checks of a code object (R46, R65 to R68, R90, R131, R198). A path is a list of places; the checks
look back from a bundle along every path that reaches it. -/

namespace Sys2Proof.Machine

/-- The decoded bundles of a .text, by index. -/
abbrev Prog := Array (BitVec 32 × List Instr)

/-- What the symbol table gives (R341): task entries with their gang size, function entries, and return points, as bundle
indices. -/
structure Symbols where
  tasks   : List (Nat × Nat)
  funcs   : List Nat
  returns : List Nat
  deriving DecidableEq, Repr

/-- The symbols of a section of KIND 9, whose layout the manual does not give (log entry 6). -/
def symbolsOf (bs : List Byte) : Symbols :=
  let l := Config.symbols bs
  ⟨(l.filter fun x => x.1 == 0).map Prod.snd, (l.filter fun x => x.1 == 1).map fun x => x.2.1,
    (l.filter fun x => x.1 == 2).map fun x => x.2.1⟩

/-! ### Paths (R65, R66) -/

/-- A bundle on a path, with the transfer just before it whose delay bundle it is. -/
structure Pos where
  at_   : Nat
  delay : Option Nat
  deriving DecidableEq, Repr

def alwaysOn (i : Instr) : Bool := match i.guard with | some g => g.p == 0#5 && !g.n | none => true
def neverOn (i : Instr) : Bool := match i.guard with | some g => g.p == 0#5 && g.n | none => false

def Prog.ops (p : Prog) (i : Nat) : List Instr := (p.getD i (0#32, [])).2
def Prog.hdr (p : Prog) (i : Nat) : BitVec 32 := (p.getD i (0#32, [])).1

/-- The loops of a program that may run: level, bundle before the first of the body, last bundle. A LOOP that is never on or that
counts 0 never makes its level active (R27, R125). -/
def Prog.loops (p : Prog) : List (BitVec 2 × Nat × Nat) :=
  p.toList.zipIdx.filterMap fun b =>
    match ctlOf b.1.2 with
    | some (.loop g lc body n) => if neverOn (.loop g lc body n) ∨ n = 0#20 then none else some (lc, b.2, b.2 + body.toNat)
    | some (.loopr g lc body a) => if neverOn (.loopr g lc body a) then none else some (lc, b.2, b.2 + body.toNat)
    | _ => none

/-- The body of a loop bundle that is not turned off (R131). -/
def Prog.bodyLength (p : Prog) (i : Nat) : Nat :=
  match ctlOf (p.ops i) with
  | some (.loop g lc body n) => if neverOn (.loop g lc body n) then 0 else body.toNat
  | some (.loopr g lc body a) => if neverOn (.loopr g lc body a) then 0 else body.toNat
  | _ => 0

def isTransfer : Instr → Bool
  | .br _ _ => true
  | .bri _ _ => true
  | .call _ _ => true
  | .calli _ _ => true
  | .ret _ => true
  | .trapret _ => true
  | _ => false

/-- A transfer to an address in a register (R66). -/
def isIndirect : Instr → Bool
  | .bri _ _ => true
  | .calli _ _ => true
  | _ => false

/-- The bundles that follow a TRAP, where a handler returns to (R370). -/
def Prog.afterTraps (p : Prog) : List Nat :=
  p.toList.zipIdx.filterMap fun b => if b.1.2.any isTrapOp then some (b.2 + 1) else none

/-- Where a transfer at bundle a may go. -/
def Prog.targets (p : Prog) (y : Symbols) (a : Nat) : List Nat :=
  let rel := fun (off : BitVec 24) => if 0 ≤ (a : Int) + off.toInt then [((a : Int) + off.toInt).toNat] else []
  match ctlOf (p.ops a) with
  | some (.br _ off) => rel off
  | some (.call _ off) => rel off
  | some (.ret _) => y.returns
  | some (.bri _ _) => y.tasks.map Prod.fst ++ y.funcs ++ y.returns
  | some (.calli _ _) => y.tasks.map Prod.fst ++ y.funcs ++ y.returns
  | some (.trapret _) => p.afterTraps
  | _ => []

/-- The bundles after one that ends in order: the next, and the first body bundle of each loop that it ends. -/
def Prog.after (loops : List (BitVec 2 × Nat × Nat)) (i : Nat) : List Nat :=
  (i + 1) :: (loops.filter fun l => l.2.2 == i).map fun l => l.2.1 + 1

/-- Where an LBRK of a level may go (R65, R127): the exits of the loops of that level whose body holds it. Where none does, the level
may be inactive, or that of a caller: the next bundle, and the exit of any loop of the level (log entry 63). -/
def Prog.breakTo (loops : List (BitVec 2 × Nat × Nat)) (lc : BitVec 2) (i : Nat) : List Nat :=
  let own := loops.filter fun l => l.1 == lc
  match own.filter fun l => decide (l.2.1 < i ∧ i ≤ l.2.2) with
  | [] => Prog.after loops i ++ own.map fun l => l.2.2 + 1
  | inner => inner.map fun l => l.2.2 + 1

/-- The places that follow a place. -/
def Prog.next (p : Prog) (y : Symbols) (loops : List (BitVec 2 × Nat × Nat)) (q : Pos) : List Pos :=
  let plain := fun (l : List Nat) => l.map fun i => (⟨i, none⟩ : Pos)
  let after := Prog.after loops
  match q.delay with
  | some a => plain (p.targets y a)
  | none =>
    let i := q.at_
    match ctlOf (p.ops i) with
    | none => plain (after i)
    | some op =>
      if neverOn op then plain (after i)
      else if isTransfer op then ⟨i + 1, some i⟩ :: (if alwaysOn op then [] else plain (after i))
      else
        match op with
        | .loop _ _ body n =>
          if n = 0#20 then plain ((i + body.toNat + 1) :: after i) else plain (after i)
        | .loopr _ _ body _ => plain ((i + body.toNat + 1) :: after i)
        | .lbrk _ lc => plain (Prog.breakTo loops lc i ++ (if alwaysOn op then [] else after i))
        | _ => plain (after i)

/-- Places are numbered: two to a bundle, the second as the delay bundle of the one before it. -/
def Pos.key (q : Pos) : Nat := 2 * q.at_ + (if q.delay.isSome then 1 else 0)
def keyPos (k : Nat) : Pos := ⟨k / 2, if k % 2 = 1 ∧ 1 < k then some (k / 2 - 1) else none⟩

/-- What follows each place. -/
def Prog.succs (p : Prog) (y : Symbols) : Array (List Nat) :=
  let loops := p.loops
  Array.ofFn fun (k : Fin (2 * p.size)) =>
    ((p.next y loops (keyPos k.val)).filter fun q => decide (q.at_ < p.size)).map Pos.key

/-- The places reached from those in a list, of which each is visited once; n bounds the visits. -/
def reached (succs : Array (List Nat)) : Nat → List Nat → Array Bool → Array Bool
  | 0, _, seen => seen
  | _ + 1, [], seen => seen
  | n + 1, k :: t, seen =>
    if seen.getD k true then reached succs n t seen else reached succs n (succs.getD k [] ++ t) (seen.set! k true)

/-- The object holds an indirect transfer that may be taken. -/
def Prog.indirect (p : Prog) : Bool := p.toList.any fun b => match ctlOf b.2 with | some op => isIndirect op && !neverOn op | none => false

/-- The places where a path begins: the task entries (R65), and, of an object with an indirect transfer, its possible targets, entered with the
tail of one (R66). -/
def Prog.starts (p : Prog) (y : Symbols) : List Nat :=
  (y.tasks.map Prod.fst ++ if p.indirect then y.funcs ++ y.returns else []).map fun i => 2 * i

/-- The places on paths. -/
def Prog.onPath (p : Prog) (y : Symbols) (succs : Array (List Nat)) : Array Bool :=
  let visits := succs.foldl (fun n l => n + l.length) ((p.starts y).length + 1)
  reached succs visits (p.starts y) (Array.replicate (2 * p.size) false)

/-- A place is the delay bundle of an indirect transfer. -/
def Prog.indirectTail (p : Prog) (k : Nat) : Bool :=
  match (keyPos k).delay with
  | some a => (match ctlOf (p.ops a) with | some op => isIndirect op && !neverOn op | none => false)
  | none => false

/-- The places from which each place is reached. Of code that no path reaches, only the tail of an indirect transfer enters a
place on a path (R66). -/
def Prog.preds (p : Prog) (succs : Array (List Nat)) (on : Array Bool) : Array (List Nat) :=
  (List.range (2 * p.size)).foldl (fun pr k =>
    (succs.getD k []).foldl (fun pr j =>
      if on.getD k false || p.indirectTail k || !on.getD j false then pr.modify j fun l => l ++ [k] else pr) pr)
    (Array.replicate (2 * p.size) [])

/-- The cycles that a bundle may take, with its stalls and its WAITC. -/
def Prog.cycles (p : Prog) (i : Nat) : List Nat :=
  let base := 1 + ((p.hdr i).extractLsb' 20 5).toNat
  match ctlOf (p.ops i) with
  | some (.waitc g n) =>
    if neverOn (.waitc g n) then [base] else if alwaysOn (.waitc g n) then [base + n.toNat] else [base, base + n.toNat]
  | _ => [base]

/-- The paths of a program, place by place: those before each, and the cycles, weight and bundle of each. -/
structure Paths where
  on     : Array Bool
  preds  : Array (List Nat)
  cycles : Array (List Nat)
  weight : Array Nat
  loops  : List (BitVec 2 × Nat × Nat)

def Prog.paths (p : Prog) (y : Symbols) : Paths :=
  let succs := p.succs y
  let on := p.onPath y succs
  ⟨on, p.preds succs on, Array.ofFn fun (k : Fin (2 * p.size)) => p.cycles (k.val / 2),
    Array.ofFn fun (k : Fin (2 * p.size)) => weightOf (p.ops (k.val / 2)), p.loops⟩

/-! ### What a path carries into a bundle

What holds some cycles before a bundle is found layer by layer, from the most cycles down: layer t holds, for each place, what the
paths that end there contribute when t cycles more are to come. The layers above t are at hand, the next first. -/

def heavier (a b : Nat × Nat) : Nat × Nat := if a.1 < b.1 then b else a

/-- Over the places before a place and the cycles of each: the value that the layer so many cycles up has there. -/
def Paths.before {α β : Type} (w : Paths) (layers : List (Array α)) (k : Nat) (f : β → α → β) (b : β) : β :=
  (w.preds.getD k []).foldl (fun b r => (w.cycles.getD r []).foldl (fun b c =>
    match (layers[c - 1]?).bind fun l => l[r]? with
    | some x => f b x
    | none => b) b) b

/-- A layer above those at hand. -/
def Paths.layer {α : Type} (w : Paths) (f : List (Array α) → Nat → α) (layers : List (Array α)) : List (Array α) :=
  (Array.ofFn fun (k : Fin w.weight.size) => f layers k.val) :: layers

/-- The layers from n - 1 down to 0. -/
def Paths.layers {α : Type} (w : Paths) (f : Nat → List (Array α) → Nat → α) : Nat → Nat → List (Array α) → List (Array α)
  | 0, _, l => l
  | n + 1, t, l => w.layers f n (t - 1) (w.layer (f t) l)

/-- The heaviest window that ends at each place, with its first bundle (R61). -/
def Paths.windows (w : Paths) : Array (Nat × Nat) :=
  (w.layers (fun _ l k =>
    let own := w.weight.getD k 0
    w.before l k (fun (best : Nat × Nat) (x : Nat × Nat) => heavier best (own + x.1, x.2)) (own, k / 2)) 8 7 []).headD #[]

/-- The arrive count of a request. -/
def arriveOf : Instr → Option (BitVec 12)
  | .ldg _ _ _ _ _ _ arv => some arv
  | .ldgv _ _ _ _ _ arv => some arv
  | .atgAdd _ _ _ _ _ _ _ arv => some arv
  | .atgMin _ _ _ _ _ _ _ arv => some arv
  | .atgMax _ _ _ _ _ _ _ arv => some arv
  | .atgAnd _ _ _ _ _ _ _ arv => some arv
  | .atgOr _ _ _ _ _ _ _ arv => some arv
  | .atgXor _ _ _ _ _ _ _ arv => some arv
  | .atgXchg _ _ _ _ _ _ _ arv => some arv
  | .atgCas _ _ _ _ _ _ _ arv => some arv
  | .atgFadd _ _ _ _ _ _ arv => some arv
  | .waitv _ _ _ _ _ _ arv => some arv
  | .tfa _ _ _ _ arv => some arv
  | .tfb _ _ _ _ arv => some arv
  | .tfh _ _ _ _ arv => some arv
  | _ => none

/-- The arrive counts of the landing entries that a bundle takes. -/
def Prog.arrives (p : Prog) (i : Nat) : List Nat :=
  (p.ops i).filterMap fun op => if neverOn op then none else (arriveOf op).map BitVec.toNat

/-- Landing entries that paths hold at each place: the most, with those that its own bundle takes (R90). -/
def Prog.occupied (p : Prog) (w : Paths) : Array Nat :=
  let arrives := Array.ofFn fun (k : Fin w.weight.size) => p.arrives (k.val / 2)
  let most := arrives.foldl (fun m l => l.foldl max m) 0
  (w.layers (fun t l k =>
    ((arrives.getD k []).filter fun a => decide (t < a)).length + w.before l k (fun (best x : Nat) => max best x) 0)
    most (most - 1) []).headD #[]

/-- A loop's back edge from a place to a bundle; a delay bundle goes to the target of its transfer. -/
def Paths.backEdge (w : Paths) (r b : Nat) : Bool :=
  (keyPos r).delay.isNone && w.loops.any fun l => l.2.2 == r / 2 && l.2.1 + 1 == b

/-- Runs of bundles since a stop point, longer by one bundle. -/
def Prog.longer (p : Prog) (w : Paths) (runs : Array (Nat × Nat)) : Array (Nat × Nat) :=
  Array.ofFn fun (k : Fin w.weight.size) =>
    let i := k.val / 2
    if (p.hdr i).getLsbD 19 then (1, i)
    else
      (w.preds.getD k.val []).foldl (fun best r =>
        if w.backEdge r i then best
        else
          let x := runs.getD r (0, i)
          heavier best (x.1 + 1, x.2)) (1, i)

/-- The longest run of bundles since a stop point at each place, up to n, with its first bundle (R131). -/
def Prog.runs (p : Prog) (w : Paths) : Nat → Array (Nat × Nat) → Array (Nat × Nat)
  | 0, l => l
  | n + 1, l =>
    let m := p.longer w l
    if m = l then l else p.runs w n m

/-! ### The report (R68) -/

/-- The loader's report: bundle index, kind, Found, Limit, Window start. -/
structure Report where
  bundle : Nat
  kind   : Nat
  found  : Nat
  limit  : Nat
  start  : Nat
  deriving DecidableEq, Repr

/-- Encoding fates known without FMT or a guard (R46, R123, R128). -/
def Prog.ctlFault (p : Prog) (i : Nat) : Bool :=
  let prev := i != 0 && (match ctlOf (p.ops (i - 1)) with | some op => isTransfer op && alwaysOn op | none => false)
  let last := p.loops.any fun l => l.2.2 == i
  (prev && (last || (match ctlOf (p.ops i) with | some op => !delayOk op | none => false)))
    || (last && (match ctlOf (p.ops i) with | some op => endsBody op && alwaysOn op | none => false))

/-- What paths carry into every place. -/
structure Carried where
  windows  : Array (Nat × Nat)
  occupied : Array Nat
  runs     : Array (Nat × Nat)

def Prog.carried (p : Prog) (w : Paths) (pspan : Nat) : Carried :=
  ⟨w.windows, p.occupied w, p.runs w (pspan + 1) (Array.ofFn fun (k : Fin w.weight.size) => (0, k.val / 2))⟩

/-- A loop whose body is longer than PSPAN is reported at a bundle: the first beyond PSPAN, or the last of a .text that ends before it (R131; log
entry 63). The run begins with the first bundle of the body. -/
def Prog.longBody (p : Prog) (pspan i : Nat) : Option Nat :=
  let fails := fun j => decide (pspan < p.bodyLength j) && (i == j + pspan + 1 || (i + 1 == p.size && decide (i ≤ j + pspan)))
  if i + 1 = p.size then (List.range p.size).find? fails
  else if pspan < i ∧ fails (i - pspan - 1) = true then some (i - pspan - 1)
  else none

/-- The checks of one decoded bundle, in the order of kinds. The first request that meets a full table finds no more than the full
table and the requests of its own bundle (R90). -/
def Prog.check (p : Prog) (w : Paths) (c : Carried) (a1 aw pspan : Nat) (i : Nat) : Option Report :=
  let own := weightOf (p.ops i)
  let here := [2 * i, 2 * i + 1].filter fun k => w.on.getD k false
  let win := here.foldl (fun b k => heavier b (c.windows.getD k (0, i))) (own, i)
  let lands := here.foldl (fun b k => max b (c.occupied.getD k 0)) 0
  let run := here.foldl (fun b k => heavier b (c.runs.getD k (0, i))) (0, i)
  let cls := 4 * ((eclassOf (p.hdr i)).toNat + 1)
  let takes := (p.arrives i).length
  let run := match p.longBody pspan i with | some j => heavier run (pspan + 1, j + 1) | none => run
  if p.ctlFault i then some ⟨i, 6, 0x11, 0, 0⟩
  else if a1 < own then some ⟨i, 1, own, a1, 0⟩
  else if aw < win.1 then some ⟨i, 2, win.1, aw, win.2 * 64⟩
  else if cls < own then some ⟨i, 3, own, cls, 0⟩
  else if Config.landingSlots < lands ∧ takes ≠ 0 then some ⟨i, 4, min lands (Config.landingSlots + takes), Config.landingSlots, 0⟩
  else if pspan < run.1 then some ⟨i, 5, run.1, pspan, run.2 * 64⟩
  else none

/-- The first failing .spad image (R198). -/
def spadReport (y : Symbols) (spads : List (Nat × Nat)) : Option Report :=
  let single := y.tasks.any fun t => t.2 != 4
  let limit := if single then 2 ^ 20 else 2 ^ 22
  (spads.find? fun s => decide (limit < s.1 + s.2)).map fun s =>
    let failing := y.tasks.filter fun t => decide (2 ^ 22 < s.1 + s.2) || t.2 != 4
    let entry := failing.foldl (fun b t => match b with | none => some t.1 | some e => some (min e t.1)) none
    ⟨entry.getD 0, 7, s.1 + s.2, limit, 0⟩

/-- The loader's verdict on a .text: bundles decoded for a partition of this privilege, in order, then the .spad images. -/
def loaderReport (priv : Bool) (a1 aw pspan : Nat) (y : Symbols) (bundles : List (BitVec 512)) (spads : List (Nat × Nat)) :
    Option Report :=
  let p : Prog := (bundles.map fun b => (headerOf b, match decodeBundle priv b with | .ok ops => ops | .error _ => [])).toArray
  let w := p.paths y
  let c := p.carried w pspan
  match bundles.zipIdx.findSome? fun b =>
      match decodeBundle priv b.1 with
      | .error (e, _) => some (⟨b.2, 6, (decodeTrap e).code.toNat, 0, 0⟩ : Report)
      | .ok _ => p.check w c a1 aw pspan b.2 with
  | some r => some r
  | none => spadReport y spads

/-- The trap code that a refused launch carries (R335). -/
def Report.code (r : Report) : BitVec 8 :=
  if r.kind ≤ 3 then 0x13#8
  else if r.kind = 4 then 0x12#8
  else if r.kind = 5 then 0x21#8
  else if r.kind = 6 then BitVec.ofNat 8 r.found
  else 0x14#8

end Sys2Proof.Machine
end

