-- ==== Sys2Proof/Machine/Launch.lean ====
section
/-! DEFINITION. Launches: their start (R334 to R345), their completion (R224, R338, R339) and their end by a fault (R225, R272). -/

namespace Sys2Proof.Machine

/-! ### Completion records (R338) -/

/-- What a completion record says. -/
structure Done where
  code   : Nat
  kind   : Nat
  slot   : Nat
  launch : Nat
  task   : Nat
  imm    : Nat
  bundle : Nat
  start  : Nat
  nodes  : Nat
  wstart : Nat
  detail : Nat
  deriving DecidableEq, Repr

def Done.bytes (d : Done) (now : Nat) : List Byte :=
  leBytes 1 d.code ++ leBytes 1 d.kind ++ leBytes 1 d.slot ++ leBytes 1 0 ++ leBytes 4 d.launch ++ leBytes 4 d.task
    ++ leBytes 2 d.imm ++ leBytes 2 0 ++ leBytes 8 d.bundle ++ leBytes 8 d.start ++ leBytes 8 now ++ leBytes 4 d.nodes
    ++ leBytes 4 d.wstart ++ leBytes 8 d.detail ++ leBytes 4 1 ++ leBytes 4 0

/-- The record is written at its home, and then the completion message carries it (R339). -/
def State.complete (s : State) (sp : Space) (compl : Option Word) (c : Cmd) (d : Done) : State :=
  let bs := d.bytes (tickOf s.time)
  let s := match compl with | some a => s.poke sp a.toNat bs | none => s
  s.finish c 0 0 bs

/-! ### The launch record (R334, R335 step 1) -/

structure LaunchRec where
  fuse    : Bool
  nroot   : Nat
  code    : Word
  roots   : Word
  args    : Word
  nhandle : Nat
  handles : Word
  compl   : Word
  deriving DecidableEq, Repr

def launchRecOf (bs : List Byte) : LaunchRec :=
  let w := fun (o : Nat) => BitVec.ofNat 64 (fieldNat bs o 8)
  ⟨fieldNat bs 6 2 == 1, fieldNat bs 0x0C 4, w 0x10, w 0x18, w 0x20, fieldNat bs 0x2C 4, w 0x30, w 0x38⟩

/-- The form of a launch record. -/
def launchRecBad (bs : List Byte) : Bool :=
  let r := launchRecOf bs
  decide (fieldNat bs 0 4 ≠ 0x4C524331 ∨ fieldNat bs 4 2 ≠ 1 ∨ 2 ≤ fieldNat bs 6 2 ∨ fieldNat bs 0x40 32 ≠ 0
    ∨ fieldNat bs 0x60 32 ≠ 0 ∨ r.nroot = 0 ∨ 65535 < r.nroot ∨ fieldNat bs 0x28 4 < 16 ∨ 65536 < fieldNat bs 0x28 4
    ∨ 65535 < r.nhandle)

/-- How a start goes: a page to wait for, a refusal with its record, COMPL where it can take it and what the steps before have
done, or the machine after it. -/
inductive Start (α : Type)
  | wait (va : Nat)
  | refuse (d : Done) (compl : Option Word) (s : State)
  | ok (a : α)

def Start.bind {α β : Type} (x : Start α) (f : α → Start β) : Start β :=
  match x with
  | .wait a => .wait a
  | .refuse d c s => .refuse d c s
  | .ok a => f a

/-- A refusal with a trap code alone. -/
def refused (t : Trap) (launch task start : Nat) : Done := ⟨(Trap.code t).toNat, 2, 0xFF, launch, task, 0, 0, start, 0, 0, 0⟩

/-- n bytes that a step of the start needs. -/
def State.needs (s : State) (sp : Space) (va : Word) (n launch task start : Nat) (compl : Option Word) : Start Unit :=
  match s.reachAll sp va n with
  | none => .ok ()
  | some (.inr a) => .wait a
  | some (.inl t) => .refuse (refused t launch task start) compl s

/-- Step 1, with the bytes of the record as they were read. -/
def State.readLaunch (s : State) (sp : Space) (bs : List Byte) (start : Nat) : Start LaunchRec :=
    let r := launchRecOf bs
    let okCompl := decide (r.compl.toNat % 64 = 0) &&
      (match s.reachAll sp r.compl 64 with | some (.inl _) => false | _ => true)
    let compl := if okCompl then some r.compl else none
    match s.reachAll sp r.compl 64 with
    | some (.inr p) => .wait p
    | x =>
      if launchRecBad bs then .refuse (refused .illegalEncoding 0 0 start) compl s
      else if r.roots.toNat % 64 ≠ 0 ∨ r.args.toNat % 64 ≠ 0 ∨ r.compl.toNat % 64 ≠ 0 ∨ (r.nhandle ≠ 0 ∧ r.handles.toNat % 64 ≠ 0) then
        .refuse (refused .alignment 0 0 start) compl s
      else match x with
        | some (.inl t) => .refuse (refused t 0 0 start) none s
        | _ => .ok r

/-! ### The code object (R340 to R346, step 2) -/

/-- An entry of the section table: kind, OFFSET, SIZE, LOAD. -/
structure Section where
  kind : Nat
  off  : Nat
  size : Nat
  load : Nat
  deriving DecidableEq, Repr

def sectionOf (bs : List Byte) : Section := ⟨fieldNat bs 0 2, fieldNat bs 8 8, fieldNat bs 16 8, fieldNat bs 24 8⟩

/-- The header breaks R340. -/
def objectHeaderBad (bs : List Byte) : Bool :=
  decide (fieldNat bs 0 4 ≠ 0x434F4231 ∨ fieldNat bs 4 2 ≠ 1 ∨ fieldNat bs 6 2 = 0 ∨ 256 < fieldNat bs 6 2 ∨ fieldNat bs 0x24 28 ≠ 0)

/-- A section-table entry breaks R341. -/
def sectionBad (size : Nat) (bs : List Byte) : Bool :=
  let e := sectionOf bs
  decide (e.kind = 0 ∨ 10 < e.kind ∨ fieldNat bs 2 6 ≠ 0 ∨ size < e.off + e.size ∨ (e.kind ≠ 2 ∧ e.load ≠ 0) ∨ (e.kind = 1 ∧ (e.off % 64 ≠ 0 ∨ e.size % 64 ≠ 0)))

/-- A live-mask entry (R342). -/
def maskOf (bs : List Byte) : Nat × BitVec 64 × BitVec 32 × BitVec 256 :=
  (fieldNat bs 0 4, BitVec.ofNat 64 (fieldNat bs 8 8), BitVec.ofNat 32 (fieldNat bs 16 4), BitVec.ofNat 256 (fieldNat bs 24 32))

/-- A code object as it is loaded: no page of its .text yet. -/
def State.parseObject (s : State) (sp : Space) (base : Nat) (bundled : Bool) (secs : List Section) : CodeObj × Symbols × Bool :=
  let bytes := fun (e : Section) => s.peek sp (base + e.off) e.size
  let text := (secs.find? fun e => e.kind == 1).getD ⟨1, 0, 0, 0⟩
  let hashes := (secs.filter fun e => e.kind == 10).flatMap fun e => (chunks 32 (e.size / 32) (bytes e)).map fun d =>
    BitVec.ofNat 256 (leNat d)
  let npages := (text.size + 65535) / 65536
  let others := (secs.filter fun e => e.kind ≠ 1 ∧ e.kind ≠ 10).flatMap bytes
  let syms := symbolsOf ((secs.filter fun e => e.kind == 9).flatMap bytes)
  let obj : CodeObj :=
    { space := sp, base := base, text := base + text.off, size := text.size
      pages := List.replicate npages .unloaded
      hashes := hashes.take npages
      spad := (secs.filter fun e => e.kind == 2).flatMap fun e => (bytes e).zipIdx.map fun p => (e.load + p.2, p.1)
      masks := (secs.filter fun e => e.kind == 6).flatMap fun e => (chunks 64 (e.size / 64) (bytes e)).map maskOf
      safes := (secs.filter fun e => e.kind == 5).flatMap fun e => (chunks 4 (e.size / 4) (bytes e)).map leNat
      entries := syms.tasks.map fun t => base + text.off + 64 * t.1
      funcs := syms.funcs.map fun f => base + text.off + 64 * f
      bundled := bundled }
  (obj, syms, hashes.getLast? == some (Config.sha256 others) && hashes.length == npages + 1)

/-- The bundles of a .text as they stand in memory. -/
def State.textOf (s : State) (o : CodeObj) : List (BitVec 512) :=
  (List.range (o.size / 64)).map fun i => BitVec.ofNat 512 (leNat (s.peek o.space (o.text + 64 * i) 64))

/-! ### Bodies built here, and their eviction (R346, R347) -/

/-- An address lies in a published body. -/
def Stub.inBody (b : Stub) (a : Nat) : Bool := match b.body with | some (va, n) => decide (va ≤ a ∧ a < va + n) | none => false

/-- A save image refers to a body: its s62, or the loop state of a level that is active. -/
def Ctx.refersTo (x : Ctx) (b : Stub) : Bool :=
  b.inBody (x.getS 62#6).toNat
    || x.loops.toList.any fun l => l.active && (b.inBody (addrOf l.start).toNat || b.inBody (addrOf l.last).toNat)

/-- Something live refers to a body. -/
def State.bodyLive (s : State) (b : Stub) : Bool :=
  s.nodes.any (fun n => decide (n.space = b.space) && !n.copy && n.st != .finished && n.st != .ended
      && (b.inBody (addrOf n.resume).toNat || n.saved.any fun x => x.refersTo b))
    || s.cores.any fun c => c.task.isSome && decide (c.space = b.space) && b.inBody (addrOf c.ctx.pc).toNat

def State.heapMove (s : State) (part : Nat) (f : Nat → Nat) : State :=
  { s with parts := s.parts.map fun p => if p.id = part then { p with heapUsed := f p.heapUsed } else p }

/-- A body leaves the heap; its stub is unpublished again, and the stub's page, no longer present, gives its frame back. -/
def State.evict (s : State) (b : Stub) : State :=
  match b.body with
  | none => s
  | some (va, n) =>
    let gone := fun (a : Nat) => decide (va ≤ a ∧ a < va + n) || a == b.stub
    let s : State := { s with
      stubs := s.stubs.map fun c => if c.space = b.space ∧ c.stub = b.stub then { c with body := none } else c
      maps := (s.maps.filter fun m => !(decide (m.space = b.space) && gone m.va)) ++ [heapPage b.space b.stub none]
      tlb := s.tlb.filter fun e => !(decide (e.2.1 = b.space) && gone e.2.2)
      caches := { s.caches with tlb2 := s.caches.tlb2.filter fun e => !(decide (e.2.1 = b.space) && gone e.2.2) } }
    ((s.icacheDrop b.space va n).icacheDrop b.space b.stub 128).heapMove b.space.part fun u => u - n

/-- Bodies that nothing refers to are evicted, in the order of their stubs, until `need` bytes are free. -/
def State.evictFor (s : State) (part need : Nat) : State :=
  (s.stubs.filter fun b => b.space.part == part).foldl (fun s b =>
    match s.partOf part with
    | some p => if p.heapUsed + need ≤ p.heap ∨ s.bodyLive b = true then s else s.evict b
    | none => s) s

/-- The entries that have stubs: every call and every task entry of an object whose bodies are built here goes through one (R346). -/
def CodeObj.stubbed (o : CodeObj) : List Nat := if o.bundled then [] else (o.entries ++ o.funcs).dedup

/-- The tenant already holds an object unchanged: with the same sections, and with every page of its .text that has been loaded still as it
was (R335 step 2, R344). -/
def State.holdsSame (s : State) (o p : CodeObj) : Bool :=
  decide ({ p with pages := o.pages } = o) &&
    p.pages.zipIdx.all fun x => match x.1 with | .unloaded => true | .verified => s.pageSound p x.2 | .poisoned => !s.pageSound p x.2

def State.heldAt (s : State) (o : CodeObj) : Option CodeObj := s.objects.find? fun p => decide (p.space = o.space) && p.base == o.base

/-- A loaded page of the .text that the object already has in the partition is not present (R415). -/
def State.heldWait (s : State) (o : CodeObj) : Option Nat :=
  match s.heldAt o with
  | some p => p.pages.zipIdx.findSome? fun x =>
    if x.1 = .unloaded then none else match s.codePageStop p x.2 with | some (.inr a) => some a | _ => none
  | none => none

/-- The object is held; one that the tenant already holds unchanged keeps its pages. The bodies of an object that it replaces go, where nothing
refers to them. The entries of an object whose bodies are built here have stubs, unpublished, on pages that are not present (R346). -/
def State.holdObject (s : State) (o : CodeObj) : State :=
  let s : State := match s.heldAt o with
    | some p =>
      if s.holdsSame o p then s
      else
        let t : State := { s with objects := s.objects.map fun q => if q.space = o.space ∧ q.base = o.base then o else q }
        p.stubbed.foldl (fun t e => match t.stubOf p.space e with | some b => if t.bodyLive b then t else t.evict b | none => t) t
    | none => { s with objects := s.objects ++ [o] }
  o.stubbed.foldl (fun s e => s.addStub o.space e) s

/-- Bytes of code heap that the stubs of an object need and that the partition lacks. -/
def State.stubLack (s : State) (p : Part) (o : CodeObj) : Nat :=
  let n := (o.stubbed.filter fun e => (s.stubOf o.space e).isNone).length * 128
  if o.bundled then 0 else p.heapUsed + n - p.heap

/-- The bytes of sections that a step of the start needs. -/
def State.needsAll (s : State) (sp : Space) (base : Nat) (l : List Section) (launch task start : Nat) (compl : Option Word) :
    Start Unit :=
  l.foldl (fun x e => x.bind fun _ =>
    if e.size = 0 then .ok () else s.needs sp (BitVec.ofNat 64 (base + e.off)) e.size launch task start compl) (.ok ())

/-- Step 2: the header, the section table and every section except .text are read, and the .text where its bundles are checked (R343). Of an
object whose bodies penim-x builds, the .spad images are checked here, and each body when it is published; its .text, which never runs, is
not (R345, R346; log entry 63). Where an object both fails a check and lacks code heap, the code heap is answered first (log entry 63). -/
def State.loadObject (s : State) (sp : Space) (r : LaunchRec) (start : Nat) : Start State :=
  let compl := some r.compl
  let no := fun (t : Trap) => Start.refuse (refused t 0 0 start) compl s
  (s.needs sp r.code 64 0 0 start compl).bind fun _ =>
    let h := s.peek sp r.code.toNat 64
    if objectHeaderBad h then no .illegalEncoding
    else
      let base := r.code.toNat
      let n := fieldNat h 6 2
      let size := fieldNat h 0x10 8
      let tab := fieldNat h 0x18 8
      if size < tab + 32 * n then no .illegalEncoding
      else
        (s.needs sp (BitVec.ofNat 64 (base + tab)) (32 * n) 0 0 start compl).bind fun _ =>
          let raw := chunks 32 n (s.peek sp (base + tab) (32 * n))
          let secs := raw.map sectionOf
          if raw.any (sectionBad size) || (secs.filter fun e => e.kind == 1).length != 1 then no .illegalEncoding
          else
            let all := secs.filter fun e => e.kind != 1
            (s.needsAll sp base all 0 0 start compl).bind fun _ =>
              let (o, syms, sound) := s.parseObject sp base (decide (fieldNat h 8 8 = Config.deviceHash.toNat)) secs
              if !sound then no .codeIntegrity
              else
                match s.heldWait o with
                | some a => .wait a
                | none =>
                  match s.partOf sp.part with
                  | none => .ok (s.holdObject o)
                  | some p =>
                    let lack := s.stubLack p o
                    let checked := !p.flags.getLsbD 1
                    let spads := (secs.filter fun e => e.kind == 2).map fun e => (e.load, e.size)
                    let text := if checked && o.bundled then secs.filter fun e => e.kind == 1 else []
                    (s.needsAll sp base text 0 0 start compl).bind fun _ =>
                      let rep := if !checked then none
                        else if !o.bundled then spadReport syms spads
                        else loaderReport (p.flags.getLsbD 0) p.a1.toNat p.aw.toNat p.pspan.toNat syms (s.textOf o) spads
                      if 0 < lack then .refuse ⟨0, 3, 0xFF, 0, 0, 0, 0, start, 0, 0, lack⟩ compl s
                      else match rep with
                      | none => .ok (s.holdObject o)
                      | some x => .refuse ⟨x.code.toNat, 2, 0xFF, 0, 0, 0, o.text + 64 * x.bundle, start, 0, x.start,
                          x.found % 2 ^ 32 + x.limit % 2 ^ 28 * 2 ^ 32 + x.kind * 2 ^ 60⟩ compl s

/-! ### Roots and handles (R212, R272, R336, R337; steps 3 to 6) -/

/-- Step 3: the launch id, in the launch record and in the header of the argument block. -/
def State.assignLaunch (s : State) (sp : Space) (a : Word) (r : LaunchRec) (queue : Nat) (start : Nat) : Start (Nat × State) :=
  match s.partOf sp.part with
  | none => .ok (0, s)
  | some p =>
    let id := p.launches + 1
    let s := s.setPart { p with launches := id }
    let s := s.poke sp (a.toNat + 8) (leBytes 4 id)
    (s.needs sp r.args 16 id 0 start (some r.compl)).bind fun _ =>
      .ok (id, s.poke sp r.args.toNat
        (leBytes 4 id ++ leBytes 4 r.nroot ++ leBytes 2 sp.part ++ leBytes 2 queue ++ leBytes 4 0))

/-- Step 4 for root i. The record of a CR that fails R212 names its task; for a RESUME that is no task entry step 4 names none. -/
def State.prepareRoot (s : State) (sp : Space) (r : LaunchRec) (id start i : Nat) : Start State :=
  let a := r.roots + BitVec.ofNat 64 (64 * i)
  let compl := some r.compl
  (s.needs sp a 64 id 0 start compl).bind fun _ =>
    let s := s.poke sp (a.toNat + 0x0C) (leBytes 4 id)
    let s := if fieldNat (s.peek sp a.toNat 64) 0x10 8 = 0 then s.poke sp (a.toNat + 0x10) (leBytes 8 r.args.toNat) else s
    let bs := s.peek sp a.toNat 64
    let task := fieldNat bs 8 4
    match s.recordFault sp a.toNat with
    | some t => .refuse (refused t id task start) compl s
    | none =>
      let entry := fieldNat bs 0 8 / 64 * 64
      if s.objects.any fun o => decide (o.space = sp) && o.base == r.code.toNat && o.entries.contains entry then .ok s
      else .refuse (refused .protection id 0 start) compl s

/-- Steps over the numbers below n, in order. -/
def stepsTo {α : Type} (f : α → Nat → Start α) : Nat → α → Start α
  | 0, a => .ok a
  | n + 1, a => (stepsTo f n a).bind fun b => f b n

/-- A handle-list entry that breaks R336: its ROOT or REG is out of range, or a reserved byte is set. -/
def handleBad (r : LaunchRec) (bs : List Byte) : Bool :=
  decide (r.nroot ≤ fieldNat bs 0x38 2 ∨ 3 < fieldNat bs 0x3A 1 ∨ fieldNat bs 0x3B 5 ≠ 0)

/-- A root's box lies inside its record (R272). -/
def rootBoxOk (t : Tsr) (lo hi : List Int) : Bool :=
  (List.range t.rank).all fun i =>
    decide (t.limLo.getD i 0 ≤ lo.getD i 0) && decide (lo.getD i 0 < hi.getD i 0) && decide (hi.getD i 0 ≤ t.limHi.getD i 0)

/-- Step 5 for entry i of the handle list. -/
def State.createRoot (s : State) (sp : Space) (r : LaunchRec) (id start i : Nat) : Start State :=
  let a := r.handles + BitVec.ofNat 64 (64 * i)
  let compl := some r.compl
  let no := fun (t : Trap) => Start.refuse (refused t id 0 start) compl s
  (s.needs sp a 64 id 0 start compl).bind fun _ =>
    let bs := s.peek sp a.toNat 64
    let root := r.roots.toNat + 64 * fieldNat bs 0x38 2
    let reg := fieldNat bs 0x3A 1
    let cr := s.peek sp root 64
    let mask := fieldNat cr 0x3E 2
    let harea := fieldNat cr 0x38 6 * 256
    let tsr := BitVec.ofNat 64 (fieldNat bs 0 8)
    let twice := (List.range i).any fun j =>
      let b := s.peek sp (r.handles.toNat + 64 * j) 64
      fieldNat b 0x38 2 == fieldNat bs 0x38 2 && fieldNat b 0x3A 1 == reg
    if handleBad r bs || harea == 0 || twice then no .illegalEncoding
    else
      (s.needs sp tsr 192 id 0 start compl).bind fun _ =>
        (s.needs sp (BitVec.ofNat 64 harea) 256 id 0 start compl).bind fun _ =>
          let lo := (List.range 6).map fun k => signedOf 32 (fieldNat bs (8 + 4 * k) 4)
          let hi := (List.range 6).map fun k => signedOf 32 (fieldNat bs (0x20 + 4 * k) 4)
          match if tsr.toNat % 64 = 0 then Tsr.parse tsr (s.peek sp tsr.toNat 192) else none with
          | none => no .protection
          | some t =>
            if !rootBoxOk t lo hi || decide (s.lineageQuota sp.part < s.usedEntries sp.part + 1) then no .protection
            else
              let (k, s) := s.pickEntry sp.part 64 s.allTaken
              let e := s.entryOf k
              let l : Lineage :=
                { parent := 0xFFFFF, childL := 0, childH := 0, st := .live, gen := e.gen, axis := 0, point := 0, tsr := tsr
                  holder := fieldNat cr 8 4, launch := id, part := sp.part, outst := 0
                  lo := (List.range 6).map fun j => if j < t.rank then lo.getD j 0 else 0
                  hi := (List.range 6).map fun j => if j < t.rank then hi.getD j 1 else 1 }
              let s := s.setEntry k l
              let s := s.poke sp (harea + 16 * reg) (leBytes 16 (makeHandle s.handleKey k e.gen sp.part).toNat)
              .ok (s.poke sp (root + 0x3E) (leBytes 2 (mask ||| 2 ^ reg)))

/-- The lineage entries of a launch are freed, and mailboxes that hold their handles are emptied (R272). -/
def State.freeLineage (s : State) (part launch : Nat) : State :=
  let mine := (s.lineage.filter fun e => e.2.st != .free && e.2.part == part && e.2.launch == launch).map Prod.fst
  let s : State := { s with mailboxes := s.mailboxes.filter fun m =>
    !(mine.contains (handleLidx m.2.1).toNat && (s.handleEntry m.2.1).gen == handleGen m.2.1) }
  mine.foldl (fun s i => s.setEntry i { Lineage.free with gen := (s.entryOf i).gen + 1 }) s

/-- Step 6: the roots are registered, and those with PREDS 0 are Ready. -/
def State.registerRoots (s : State) (sp : Space) (r : LaunchRec) (id : Nat) : State :=
  let ns := (List.range r.nroot).map fun i =>
    let a := r.roots + BitVec.ofNat 64 (64 * i)
    nodeOf sp id a (s.peek sp a.toNat 64)
  let s : State := { s with nodes := s.nodes ++ ns }
  ns.foldl (fun s n => if n.preds = 0 then s.readyNode n else s) s

/-- An address in each page of n bytes. -/
def pagesOf (a : Word) (n : Nat) : List Word := (List.range (n / 65536 + 2)).map fun i => a + BitVec.ofNat 64 (min (65536 * i) (n - 1))

/-- What the walker holds from step 1 on: the pages of the launch record, its root records, its handle list and COMPL (R212). -/
def LaunchRec.pages (r : LaunchRec) (a : Word) : List Word :=
  pagesOf a 128 ++ pagesOf r.roots (64 * r.nroot) ++ pagesOf r.handles (64 * r.nhandle) ++ [r.compl]

/-- The steps of R335, from the first, for the launch record at a and its bytes. -/
def State.startLaunch (s : State) (sp : Space) (q : CmdQueue) (a : Word) (bs : List Byte) (start : Nat) : Start (LaunchRec × Nat × State) :=
  (s.readLaunch sp bs start).bind fun r =>
    (s.loadObject sp r start).bind fun s =>
      (s.assignLaunch sp a r q.id start).bind fun x =>
        (stepsTo (fun s i => s.prepareRoot sp r x.1 start i) r.nroot x.2).bind fun s =>
          (stepsTo (fun s i => s.createRoot sp r x.1 start i) r.nhandle s).bind fun s => .ok (r, x.1, s)

/-- The start of a launch from its record as it was read; while a page is not present it is asked for, and the start is tried again. -/
def State.launchFrom (s : State) (c : Cmd) (q : CmdQueue) (a : Word) (bs : List Byte) : State :=
  let sp := q.space
  match s.startLaunch sp q a bs q.began with
  | .wait va => s.askModule sp va
  | .refuse d compl t => (t.freeLineage sp.part d.launch).complete sp compl c d
  | .ok (r, id, t) =>
    let t : State := { t with
      launches := t.launches ++ [{
        space := sp, queue := q.id, id := id, record := a, compl := r.compl, code := r.code, args := r.args
        held := r.pages a
        cmd := c, fuse := r.fuse, created := r.nroot, finished := 0, start := q.began
        ending := none, endTick := 0, endCore := 0, lack := none, endTask := 0 }] }
    t.registerRoots sp r id

/-- LAUNCH as it begins: its record is read once, and the walker then holds the pages of the launch (R212, R335). -/
def State.launchStep (s : State) (c : Cmd) : State :=
  match s.queueAt (cmdHome c) with
  | none => s
  | some q =>
    if s.launches.any fun l => decide (l.cmd = c) then s
    else
      let a := BitVec.ofNat 64 (fieldNat c.body 0 8)
      match q.begun with
      | some b => s.launchFrom c q a b.record
      | none =>
        match s.needs q.space a 128 0 0 q.began none with
        | .wait va => s.askModule q.space va
        | .refuse d compl t => t.complete q.space compl c d
        | .ok _ =>
          let bs := s.peek q.space a.toNat 128
          let b : Begun := ⟨bs, if launchRecBad bs then pagesOf a 128 else (launchRecOf bs).pages a⟩
          (s.noteBegun c b).launchFrom c { q with begun := some b } a bs

/-- LAUNCH (R328, R335): a body of 8 bytes. -/
def execLaunch (c : Cmd) (s : State) : Host.Outcome State Fault Refusal :=
  .next (s.command c 0x01#8 (cmdAtPart c) (c.body.length != 8) State.launchStep)

/-! ### The end of a launch (R224, R225, R272) -/

/-- What belongs to a launch. -/
def Launch.owns (l : Launch) (k : TaskKey) : Bool := k.part == l.space.part && k.launch == l.id

/-- A core without the requests of a launch. -/
def Core.forget (c : Core) (l : Launch) : Core :=
  { c with
    fifo := c.fifo.filter fun e => !l.owns e.owner.key
    hsteps := c.hsteps.filter fun h => !l.owns h.owner.key
    taccs := c.taccs.filter fun a => !l.owns a.owner.key
    equeues := c.equeues.map fun q => q.filter fun e =>
      match e with | .copy _ _ o _ => !l.owns o.key | .node _ o _ => !l.owns o.key | .qfence _ _ => true
    commit := match c.commit with | some m => if l.owns m.key then none else some m | none => none }

/-- A request to a peer was made for a copy of the launch. -/
def State.peerOf (s : State) (l : Launch) (p : Peer) : Bool :=
  if p.core < 64 then
    match s.coreOf p.core with
    | some c => (match c.equeues[p.q.toNat]'p.q.isLt with | .copy _ _ o _ :: _ => l.owns o.key | _ => false)
    | none => false
  else s.jobs.any fun j => p.core == 64 + j.id && l.owns j.owner.key

/-- The pages of the launch's save images are gone, with their bytes (R212, R363). -/
def State.freeImages (s : State) (l : Launch) : State :=
  let mine := fun (m : Mapping) => m.space.part == l.space.part && (match m.back with | .image k _ => k == l.id | _ => false)
  let gone := fun (sp : Space) (va : Nat) => s.maps.any fun m => mine m && decide (m.space = sp) && m.va == va
  let t := (s.maps.filter mine).foldl (fun s m => s.zeroFrame m.pa m.size) s
  { t with
    maps := t.maps.filter fun m => !mine m
    tlb := t.tlb.filter fun e => !gone e.2.1 e.2.2
    caches := { t.caches with tlb2 := t.caches.tlb2.filter fun e => !gone e.2.1 e.2.2 } }

/-- Everything that the launch had registered or under way is gone. -/
def State.forgetLaunch (s : State) (l : Launch) : State :=
  let s : State := { s with peers := s.peers.filter fun p => !s.peerOf l p }
  let s := (s.freeLineage l.space.part l.id).freeImages l
  { s.mapCores (fun c => c.forget l) with
    versions := s.versions.filter fun v => !l.owns v.key
    nodes := s.nodes.filter fun n => !l.owns n.key
    edges := s.edges.filter fun e => !(e.part == l.space.part && e.launch == l.id)
    jobs := s.jobs.filter fun j => !l.owns j.owner.key
    hwaits := s.hwaits.filter fun w => !l.owns w.2.1
    launches := s.launches.filter fun k => !(decide (k.space = l.space) && k.id == l.id) }

/-- A task of the launch is on a core. -/
def State.onCores (s : State) (l : Launch) : Bool := s.cores.any fun c => match c.task with | some o => l.owns o.key | none => false

/-- LAUNCH_COMPLETE: every node has finished. -/
def State.launchComplete (s : State) (i : Nat) : State :=
  match s.launches[i]? with
  | none => s
  | some l =>
    if l.ending.isSome || l.finished != l.created || s.onCores l then s
    else
      let d : Done := ⟨0, 0, 0xFF, l.id, 0, 0, 0, l.start, l.finished, 0, 0⟩
      (s.forgetLaunch l).complete l.space (some l.compl) l.cmd d

def execLaunchComplete (l : Nat) (s : State) : Host.Outcome State Fault Refusal := .next (s.launchComplete l)

/-- The record of a launch that a fault, or a lack of code heap, has ended. -/
def Launch.faultDone (l : Launch) (r : TrapRec) : Done :=
  match l.lack with
  | some n => ⟨0, 3, 0xFF, l.id, 0, 0, 0, l.start, l.finished, 0, n⟩
  | none => ⟨(Trap.code r.code).toNat, 1, r.slot.toNat, l.id, l.endTask, r.imm.toNat, r.bundle.toNat, l.start, l.finished, 0, r.detail.toNat⟩

/-- STATUS of the faulting record. -/
def State.faultStatus (s : State) (k : TaskKey) (t : Trap) : State := s.onNode k fun n => { n with status := Trap.code t }

/-- A core gives up a task whose launch ends. Its state is discarded (R225). -/
def State.discardCore (s : State) (status : Nat) : State := (s.dropStreams.emitLeave status).onCore Core.vacate

/-- The current core has found a fault. Its results in flight land before the launch ends (R303): their scratchpad bytes are written, and
the registers go with the context. -/
def State.faultCore (s : State) (r : TrapRec) : State :=
  let k := s.core.owner.key
  ((s.endLaunchAt k r s.core.id.toNat).faultStatus k r.code).flushWrites.discardCore (Trap.code r.code).toNat

/-- The launch of the core's task is ending. -/
def State.coreEnds (s : State) : Bool :=
  match s.core.task with
  | some o => s.launches.any fun l => l.owns o.key && l.ending.isSome
  | none => false

/-- The core stands at a bundle boundary, or does not run. -/
def Core.atRest (c : Core) : Bool := !c.mid && !c.stalls

/-- A launch that is ending and whose tasks have left every core. -/
def State.endedLaunch (s : State) : Option Launch := s.launches.find? fun l => l.ending.isSome && !s.onCores l

/-- LAUNCH_FAULT (R225): the trap of the current core ends its launch; a core whose launch is ending gives its task up at its
next bundle boundary; once every core has, STATUS of the faulting record holds the code, the launch's versions and nodes are discarded and
its record is written. -/
def State.launchFault (s : State) : State :=
  match s.core.trap with
  | some r => if r.code = .migrate then s else s.faultCore r
  | none =>
    if s.core.atRest && s.core.lateFault.isSome then
      (match s.core.lateFault with | some r => s.faultCore r | none => s)
    else if s.core.atRest && s.coreEnds then
      s.discardCore (match s.nodeOfKey s.core.owner.key with | some n => n.status.toNat | none => 0)
    else
      match s.endedLaunch with
      | some l =>
        (match l.ending with
        | some r =>
          let s := if l.lack.isSome then s else s.faultStatus ⟨l.space.part, l.id, l.endTask⟩ r.code
          (s.forgetLaunch l).complete l.space (some l.compl) l.cmd (l.faultDone r)
        | none => s)
      | none => s

def execLaunchFault (s : State) : Host.Outcome State Fault Refusal := .next s.launchFault

/-! ### Launches that a reset or the end of their partition cuts short (R331, R379) -/

/-- A record of KIND 4. -/
def resetDone (code launch start nodes : Nat) : Done := ⟨code, 4, 0xFF, launch, 0, 0, 0, start, nodes, 0, 0⟩

/-- A LAUNCH that has begun and whose roots are not registered yet; its completion record goes where step 1 of R335 would put it. -/
def State.dropStart (s : State) (q : CmdQueue) (code : Nat) : State :=
  match q.running with
  | some c =>
    if c.op = 0x01#8 ∧ q.id < 64 then
      let compl := match q.begun with
        | none => none
        | some b =>
          match s.readLaunch q.space b.record q.began with
          | .ok r => some r.compl
          | .refuse _ a _ => a
          | .wait _ => some (launchRecOf b.record).compl
      s.complete q.space compl c (resetDone code 0 q.began 0)
    else s
  | none => s

/-- Every running launch of a partition ends: CODE 0x1F for those of the queues named, 0 for the others. -/
def State.dropLaunches (s : State) (part : Nat) (expired : List Nat) : State :=
  let code := fun (q : Nat) => if expired.contains q then 0x1F else 0
  let s := (s.launches.filter fun l => l.space.part == part).foldl (fun s l =>
    (s.forgetLaunch l).complete l.space (some l.compl) l.cmd (resetDone (code l.queue) l.id l.start l.finished)) s
  (s.cqueues.filter fun q => q.space.part == part).foldl (fun s q => s.dropStart q (code q.id)) s

end Sys2Proof.Machine
end

