-- ==== Sys2Proof/Machine/HostCmd.lean ====
section
/-! DEFINITION. The other commands of a partition's hosts (R328, R332, R364, R410, R414), packets that are dropped (R325, R326),
and a host's own reads and writes (R415). -/

namespace Sys2Proof.Machine

/-! ### COPY -/

/-- The body of a COPY: a descriptor with PREDS, SUCC, LAUNCHID and every reserved bit zero (R328, R330). -/
def copyBodyBad (bs : List Byte) : Bool :=
  decide (bs.length ≠ 64 ∨ fieldNat bs 0x18 2 ≠ 0 ∨ fieldNat bs 0x20 8 ≠ 0 ∨ fieldNat bs 0x1C 4 ≠ 0) || descReserved bs

/-- COPY as it begins: one transfer at system scope on the engines of B0 (log entry 27). -/
def State.copyCmd (s : State) (c : Cmd) : State :=
  if s.jobs.any fun j => decide (j.cmd = some c) then s
  else
    match descCheck c.body with
    | some t => s.finish c 7 (Trap.code t).toNat []
    | none =>
      let sp := s.spaceOf c
      let d := { copyOf c.body with sys := true, scope := 4#3 }
      let o : Running := ⟨⟨sp.part, 0, 0⟩, sp.vdev, false, 0#2, false⟩
      { s with jobs := s.jobs ++ [⟨s.nextJob, 0, d, 0, o, none, some c, 0#58⟩] }

def execCopy (c : Cmd) (s : State) : Host.Outcome State Fault Refusal :=
  .next (s.command c 0x02#8 (cmdAtPart c) (copyBodyBad c.body) State.copyCmd)

/-! ### WAITEVENT and SIGNALEVENT (R414) -/

/-- The home of a variable that a command names: a trap, a page to wait for, or its physical address. What R414 answers with PROTECTION comes
before the other attributes of the page. -/
def State.variable (s : State) (sp : Space) (va : Word) (write : Bool) : Except (Trap ⊕ Nat) Nat :=
  if va.toNat % 8 ≠ 0 then .error (.inl .alignment)
  else if canonical va = false ∨ inWindow va = true then .error (.inl .xlateFault)
  else
    match s.mappingOf sp va.toNat with
    | none => .error (.inl .xlateFault)
    | some m =>
      if m.syncBreach va.toNat ⟨true, true⟩ || (write && !m.w) then .error (.inl .protection)
      else
        match s.xlate sp va ⟨write, true, false, false, s.privPart sp.part⟩ with
        | .trap t => .error (.inl t)
        | .miss => .error (.inr va.toNat)
        | .at_ pa _ => .ok pa

/-- A command whose address fails, or that waits for its page. -/
def State.failVariable (s : State) (c : Cmd) (x : Trap ⊕ Nat) : State :=
  match x with
  | .inl t => s.finish c 7 (Trap.code t).toNat []
  | .inr a => s.askModule (s.spaceOf c) a

/-- WAITEVENT: it holds its queue until the condition holds, read at the home. -/
def State.waitCmd (s : State) (c : Cmd) : State :=
  match s.variable (s.spaceOf c) (BitVec.ofNat 64 (fieldNat c.body 0 8)) false with
  | .error x => s.failVariable c x
  | .ok pa => if waitHolds (BitVec.ofNat 64 (fieldNat c.body 8 8)) (leNat (readBytes s.mem pa 8)) then s.finish c 0 0 [] else s

def execWaitevent (c : Cmd) (s : State) : Host.Outcome State Fault Refusal :=
  .next (s.command c 0x03#8 (cmdAtPart c) (c.body.length != 16) State.waitCmd)

/-- SIGNALEVENT: an ARRIVE with its count, as a release at system scope. -/
def State.signalCmd (s : State) (c : Cmd) : State :=
  match s.variable (s.spaceOf c) (BitVec.ofNat 64 (fieldNat c.body 0 8)) true with
  | .error x => s.failVariable c x
  | .ok pa => (s.arriveAt pa (fieldNat c.body 8 8) fun u => [(64, u, 4)]).finish c 0 0 []

def execSignalevent (c : Cmd) (s : State) : Host.Outcome State Fault Refusal :=
  .next (s.command c 0x04#8 (cmdAtPart c) (c.body.length != 16 || decide (2 ^ 24 ≤ fieldNat c.body 8 8)) State.signalCmd)

/-! ### RESIZEACK (R364) -/

/-- A command that acts when it is accepted and consumes no SEQ. -/
def State.actNow (s : State) (c : Cmd) (bad : Bool) (act : State → Cmd → State) : State :=
  if !s.knownSource c (cmdPart c) then s.count (portDie c.port) 11
  else
    match s.refusal with
    | some 99 => s
    | some k => s.respond c k
    | none => if bad || c.rsvd || c.lenBad then s.respond c 2 else act (s.respond c 0) c

/-- The answer to a RESIZE event: with its number, the partition's queues are released and PARTRESIZE completes. -/
def State.ackResize (s : State) (c : Cmd) : State :=
  match s.partOf (cmdPart c) with
  | none => s.tell c 5 0 []
  | some p =>
    if p.unacked && p.rseq.toNat == fieldNat c.body 4 4 && c.ep == .part p.id then
      let done := match p.resize with | some (_, _, d) => d | none => none
      let s := (s.setPart { p with resize := none, unacked := false }).tell c 0 0 []
      match done with | some d => s.finish d 0 0 [] | none => s
    else s.tell c 5 0 []

def execResizeack (c : Cmd) (s : State) : Host.Outcome State Fault Refusal :=
  .next (if c.arriving then
      s.actNow c (!cmdAtPart c || c.op != 0x05#8 || c.body.length != 8 || fieldNat c.body 2 2 != 0 || (s.queueAt (cmdHome c)).isNone) State.ackResize
    else s)

/-! ### MAP (R332, R410) -/

/-- The fields of a MAP body. -/
structure MapReq where
  va   : Nat
  len  : Nat
  pa   : Nat
  size : Nat
  attr : Nat
  peer : BitVec 128
  peerPart : BitVec 16
  deriving DecidableEq, Repr

def pageSize (attr : Nat) : Nat :=
  match attr % 4 with
  | 0 => 65536
  | 1 => 2097152
  | _ => 1073741824

def mapReq (bs : List Byte) : MapReq :=
  let attr := fieldNat bs 0x18 8
  ⟨fieldNat bs 0 8, fieldNat bs 8 8, fieldNat bs 0x10 8, pageSize attr, attr, BitVec.ofNat 128 (fieldNat bs 0x20 16),
    BitVec.ofNat 16 (fieldNat bs 0x30 2)⟩

/-- What is refused with status 2; a page size 3 and a HOME from 8 to 14, which R332 does not give, are too (log entry 59). -/
def mapBodyBad (bs : List Byte) : Bool :=
  let r := mapReq bs
  decide (bs.length ≠ 56 ∨ 2 ^ 13 ≤ r.attr ∨ fieldNat bs 0x32 6 ≠ 0 ∨
    (r.attr / 32 % 2 = 0 ∧ (r.peer ≠ 0#128 ∨ r.peerPart ≠ 0#16)) ∨
    r.attr % 4 = 3 ∨ (r.attr / 16 % 2 = 0 ∧ 8 ≤ r.attr / 512 % 16 ∧ r.attr / 512 % 16 ≠ 15))

def MapReq.bit (r : MapReq) (i : Nat) : Bool := r.attr / 2 ^ i % 2 == 1

/-- The mapping of page i of a request. -/
def MapReq.page (r : MapReq) (sp : Space) (pa i : Nat) (back : Backing) : Mapping :=
  { space := sp, va := r.va + i * r.size, pa := pa, size := r.size, w := r.bit 2, x := r.bit 3, sync := r.bit 4, remote := r.bit 5
    priv := r.bit 6, present := r.bit 7 || r.bit 5, home := BitVec.ofNat 4 (r.attr / 512), peer := r.peer, peerPart := r.peerPart, back := back }

/-- The base die of a partition's lowest-numbered cluster. -/
def Part.die (p : Part) : Nat := match (List.range 16).find? fun k => p.clusters.getLsbD k with | some k => k / 8 | none => 0

/-- The half of sync space that a request allocates from. -/
def MapReq.half (r : MapReq) (p : Part) : Nat := syncBase + p.die * 2 ^ 32 + (if r.bit 8 then Config.syncHalf else 0)

/-- A frame that a MAP names: sync frames are held by one partition, and those that it did not hold are zeroed; other frames are the
partition's own (R282, R332, R410). -/
def State.nameFrame (s : State) (r : MapReq) (part pa : Nat) : Option State :=
  if r.bit 5 then some s
  else if !populated pa || !populated (pa + r.size - 1) || pa % r.size ≠ 0 then none
  else if r.bit 4 != isSync pa then none
  else if r.bit 4 then
    if s.frames.any fun f => meets pa r.size f.1 65536 && f.2 != part then none
    else
      let fresh := ((List.range (r.size / 65536)).map fun i => pa + 65536 * i).filter fun f => !s.frames.any fun g => g.1 == f
      let t := fresh.foldl (fun s f => s.zeroFrame f 65536) s
      some { t with frames := s.frames ++ fresh.map fun f => (f, part) }
  else if (s.unnamed part pa r.size).isEmpty then some s else none

/-- A frame that a MAP has allocated, zeroed. -/
def State.takeFrame (s : State) (r : MapReq) (p : Part) : Option (Nat × State) :=
  if r.bit 4 then
    match s.freeFrame (r.half p) (r.half p + Config.syncHalf) r.size with
    | (none, _) => none
    | (some pa, s) =>
      some (pa, { s.zeroFrame pa r.size with
        frames := s.frames ++ (List.range (r.size / 65536)).map fun i => (pa + 65536 * i, p.id) })
  else s.newFrame p.id (r.bit 8) r.size

/-- Page i of a request is mapped. One that is to be allocated and is not PRESENT has its backing from its first page-in, which R239 says
allocates it (log entry 64); sync frames are held from their MAP (R410). -/
def State.mapPage (s : State) (r : MapReq) (sp : Space) (i : Nat) : Option State :=
  match s.partOf sp.part with
  | none => none
  | some p =>
    if r.pa = 0 ∧ r.bit 5 = false then
      if r.bit 4 || r.bit 7 then
        match s.takeFrame r p with
        | some (pa, s) => some { s with maps := s.maps ++ [r.page sp pa i .frame] }
        | none => none
      else some { s with maps := s.maps ++ [r.page sp noFrame i (.later (r.bit 8))] }
    else
      match s.nameFrame r sp.part (r.pa + i * r.size) with
      | some s => some { s with maps := s.maps ++ [r.page sp (r.pa + i * r.size) i .frame] }
      | none => none

def State.mapPages (s : State) (r : MapReq) (sp : Space) : Nat → Option State
  | 0 => some s
  | n + 1 => match s.mapPages r sp n with | some t => t.mapPage r sp n | none => none

/-- The addresses of a request are page-aligned, canonical and not mapped yet. -/
def State.mapFits (s : State) (r : MapReq) (sp : Space) : Bool :=
  decide (r.attr % 4 < 3) && decide (r.va % r.size = 0) && decide (r.len % r.size = 0) && decide (0 < r.len)
    && (r.bit 4 || decide (r.attr / 512 % 16 < 8) || decide (r.attr / 512 % 16 = 15))
    && canonical (BitVec.ofNat 64 r.va) && canonical (BitVec.ofNat 64 (r.va + r.len - 1)) && decide (r.va + r.len ≤ 2 ^ 64)
    && decide ((r.va < 2 ^ 63) = (r.va + r.len - 1 < 2 ^ 63)) && !meets r.va r.len windowBase (2 ^ 22)
    && !s.maps.any fun m => decide (m.space = sp) && meets r.va r.len m.va m.size

/-- MAP. -/
def State.mapCmd (s : State) (c : Cmd) : State :=
  let r := mapReq c.body
  let sp := s.spaceOf c
  match if s.mapFits r sp then s.mapPages r sp (r.len / r.size) else none with
  | some t => t.finish c 0 0 []
  | none => s.finish c 5 0 []

def execMap (c : Cmd) (s : State) : Host.Outcome State Fault Refusal :=
  .next (s.command c 0x10#8 (cmdAtPart c) (mapBodyBad c.body) State.mapCmd)

/-- UNMAP: as it begins, refused where it takes part of a page or a page that the walker holds; then every page goes by a shootdown, and the
command completes when none is left. -/
def State.unmapCmd (s : State) (c : Cmd) : State :=
  let va := fieldNat c.body 0 8
  let n := fieldNat c.body 8 8
  let sp := s.spaceOf c
  let hit := s.maps.filter fun m => decide (m.space = sp) && meets va n m.va m.size
  let checked := match s.queueAt (cmdHome c) with | some q => q.begun.isSome | none => false
  if hit = [] then s.finish c 0 0 []
  else if !checked && hit.any fun m => !(decide (va ≤ m.va) && decide (m.va + m.size ≤ va + n)) || s.pageHeld m false then s.finish c 5 0 []
  else hit.foldl (fun s m => s.shootdown sp m.va none) (s.noteBegun c ⟨[], []⟩)

def execUnmap (c : Cmd) (s : State) : Host.Outcome State Fault Refusal :=
  .next (s.command c 0x11#8 (cmdAtPart c) (c.body.length != 16) State.unmapCmd)

/-! ### Packets that are dropped (R325, R326) -/

/-- UNSUPPORTED_PACKET: an unsupported part, or a command by unreliable delivery. -/
def execUnsupportedPacket (die cmdBit : Bool) (s : State) : Host.Outcome State Fault Refusal :=
  .next (s.count die (if cmdBit then 10 else 9))

def execUnregisteredSend (die : Bool) (s : State) : Host.Outcome State Fault Refusal := .next (s.count die 11)

/-! ### A host's UET accesses (R381, R415) -/

/-- The physical places of n bytes that a host reaches, as a copy at system scope does, none for a byte of a peer's page; of the pages that
the walker holds a host may write all but handle slots and save images (R212, R268; log entry 64). -/
def State.hostReach (s : State) (sp : Space) (va : Nat) (write : Bool) : Nat → Except (Option Nat) (List (Option Nat))
  | 0 => .ok []
  | n + 1 =>
    match s.hostReach sp va write n with
    | .error e => .error e
    | .ok l =>
      let a := BitVec.ofNat 64 (va + n)
      if 2 ^ 64 ≤ va + n then .error none
      else match s.xlate sp a ⟨write, true, false, true, false⟩ with
      | .trap _ => .error none
      | r =>
        match s.mappingOf sp a.toNat with
        | none => .error none
        | some m =>
          if m.sync || (write && s.handleSlot sp a.toNat) then .error none
          else match r with | .at_ pa _ => .ok (l ++ [if m.remote then none else some pa]) | _ => .error (some a.toNat)

/-- The module serves a host's accesses to a partition: not while it boots, nor once it is in ALARM or FAILED. -/
def State.serves (s : State) (sp : Space) : Bool :=
  (s.devState == .ready || s.devState == .stopped) && (s.partOf sp.part).isSome

/-- HOST_UET_WRITE: an access that faults moves no data; one whose page is not present waits, as a message still to come. -/
def execHostUetWrite (sp : Space) (va : BitVec 64) (bytes : List Byte) (tag : UetTag) (s : State) :
    Host.Outcome State Fault Refusal :=
  .next (if !s.serves sp then s else match s.hostReach sp va.toNat true bytes.length with
    | .error none => s.replyHost sp tag false []
    | .error (some a) => { s.askModule sp a with inbox := s.inbox ++ [.hostUetWrite sp va bytes tag] }
    | .ok l =>
      if l.contains none then s.hostRelay sp va.toNat bytes.length true tag bytes []
      else (s.poke sp va.toNat bytes).replyHost sp tag true [])

/-- HOST_UET_READ: poisoned data completes with an error and returns none. -/
def execHostUetRead (sp : Space) (va : BitVec 64) (n : Nat) (tag : UetTag) (s : State) : Host.Outcome State Fault Refusal :=
  .next (if !s.serves sp then s else match s.hostReach sp va.toNat false n with
    | .error none => s.replyHost sp tag false []
    | .error (some a) => { s.askModule sp a with inbox := s.inbox ++ [.hostUetRead sp va n tag] }
    | .ok l =>
      if (l.filterMap id).any fun pa => s.poisoned pa 1 then s.replyHost sp tag false []
      else if l.contains none then
        s.hostRelay sp va.toNat n false tag [] (l.zipIdx.filterMap fun p => p.1.map fun pa => (va.toNat + p.2, readByte s.mem pa))
      else s.replyHost sp tag true ((l.filterMap id).map fun pa => readByte s.mem pa))

end Sys2Proof.Machine
end

