-- ==== Sys2Proof/Machine/Mgmt.lean ====
section
/-! DEFINITION. The management endpoint (R349 to R353, R364 to R368, R383 to R387): partitions, tenants, queues, energy records,
the summary, attestation, alarm responses. -/

namespace Sys2Proof.Machine

/-- A command of the management endpoint. -/
def cmdAtMgmt (c : Cmd) : Bool := c.ep == .mgmt

/-- The body has n bytes. -/
def bodyNot (c : Cmd) (n : Nat) : Bool := c.body.length != n

/-- A command completes, or is refused as it completes (R352). -/
def State.settle (s : State) (c : Cmd) (r : Option State) : State :=
  match r with | some t => t.finish c 0 0 [] | none => s.finish c 5 0 []

/-! ### Partitions (R349, R353) -/

/-- The clusters of Steel cores: those of chiplets 0 to 2 and 4 to 6 (R8). -/
def steelClusters : BitVec 16 := 0x3F3F#16

/-- Slots 0 to 31 belong to the system. -/
def ringOk (m : BitVec 256) : Bool := decide (m.toNat % 2 ^ 32 = 0) && m != 0#256

/-- Resources of the other partitions. -/
def State.others (s : State) (id : Nat) : List Part := s.parts.filter fun p => p.id != id

def waysOf (l : List Part) : Nat := l.foldl (fun n p => n + p.vways + p.oways) 0

/-- The clusters and ring slots of a partition: those that it holds, and those that its resize is to give it (R349, R364). -/
def Part.holds (p : Part) : BitVec 16 × BitVec 256 :=
  match p.resize with | some (cl, ring, _) => (p.clusters ||| cl, p.ring ||| ring) | none => (p.clusters, p.ring)

/-- Clusters and ring slots are free for partition `id`, and a Steel cluster is among them. -/
def State.masksOk (s : State) (id : Nat) (cl : BitVec 16) (ring : BitVec 256) : Bool :=
  cl &&& steelClusters != 0#16 && ringOk ring
    && (s.others id).all fun p => p.holds.1 &&& cl == 0#16 && p.holds.2 &&& ring == 0#256

def inRange (lo hi n : Nat) : Bool := decide (lo ≤ n) && decide (n ≤ hi)

/-- A field with a default selected by 0. -/
def orDefault (n d : Nat) : Nat := if n = 0 then d else n

/-- The partition of a PARTCREATE body. -/
def partOfBody (bs : List Byte) : Part :=
  let f := fieldNat bs
  { id := f 0 2, flags := BitVec.ofNat 16 (f 2 2), clusters := BitVec.ofNat 16 (f 4 2), vways := f 6 1, oways := f 7 1
    a1 := BitVec.ofNat 8 (f 8 1), aw := BitVec.ofNat 10 (f 10 2), pspan := BitVec.ofNat 16 (orDefault (f 12 2) 1024)
    vquota := BitVec.ofNat 32 (orDefault (f 16 4) 524288), slice := orDefault (f 0x14 4) 4000, grace := orDefault (f 0x18 4) 50
    tspan := orDefault (f 0x1C 4) 2000, ring := BitVec.ofNat 256 (f 0x20 32), hbm := f 0x40 8, lpddr := f 0x48 8
    heap := f 0x50 8, spill := f 0x58 4, lineage := orDefault (f 0x5C 4) 65536, key := none, wipe := none, hbmUsed := 0, lpddrUsed := 0
    heapUsed := 0, launches := 0, rseq := 0#32, resize := none, unacked := false, sources := Config.hosts (f 0 2)
    createBody := bs }

/-- The fields of a PARTCREATE body are in range, and what it asks for is free. -/
def State.createOk (s : State) (bs : List Byte) : Bool :=
  let p := partOfBody bs
  let f := fieldNat bs
  p.id != 0 && (s.partOf p.id).isNone && decide (p.flags.toNat < 8) && f 9 1 == 0 && f 14 2 == 0
    && s.masksOk p.id p.clusters p.ring && decide (2 ≤ p.vways) && decide (waysOf s.parts + p.vways + p.oways ≤ 12)
    && inRange 2 64 (f 8 1) && inRange 2 512 (f 10 2) && inRange 100 1000000 p.slice && inRange 10 10000 p.grace
    && inRange 100 1000000 p.tspan && inRange 1 1048576 p.lineage
    && decide (s.parts.foldl (fun n q => n + q.lineage) 0 + p.lineage ≤ 1048576)
    && p.hbm % 2097152 == 0 && p.lpddr % 2097152 == 0 && decide (p.heap + p.spill * 1048576 ≤ p.hbm)
    && decide (s.parts.foldl (fun n q => n + q.hbm) 0 + p.hbm + reservedSize ≤ hbmSize)
    && decide (s.parts.foldl (fun n q => n + q.lpddr) 0 + p.lpddr ≤ lpddrEnd - lpddrBase)

/-- SPM, ACC and L1 of a cluster are zeroed, its TLB entries dropped (R364). -/
def State.scrubCluster (s : State) (cl : Nat) : State :=
  let inside := fun (id : Nat) => id / 4 == cl
  { (s.dropCores inside).mapCores fun c => if inside c.id.toNat then { c with ctx := Ctx.reset, recCache := [], energyOf := none, views := [] } else c with
    spm := s.spm.filter fun c => !inside (c.1 / 2 ^ 20)
    spmLate := s.spmLate.filter fun c => !inside (c.1 / 2 ^ 20)
    spmPoison := s.spmPoison.filter fun w => !inside (w * 8 / 2 ^ 20)
    tlb := s.tlb.filter fun e => !inside e.1 }

/-- The clusters of a mask. -/
def clustersIn (m : BitVec 16) : List Nat := (List.range 16).filter fun k => m.getLsbD k

/-- A partition's clusters join the schedule, held by no tenant. -/
def State.addClusters (s : State) (m : BitVec 16) : State :=
  { s with clusters := s.clusters ++ ((clustersIn m).filter fun k => (s.clusterAt k).isNone).map fun k => ⟨k, none, 0, none, none, none, []⟩ }

/-- PARTCREATE: resources are reserved, scrubbed and keyed. -/
def State.partCreate (s : State) (bs : List Byte) : Option State :=
  let p := partOfBody bs
  if s.createOk bs then
    let s := (clustersIn p.clusters).foldl State.scrubCluster s
    let s : State := { s with
      parts := s.parts ++ [{ p with key := some (Config.random s.picks) }]
      picks := s.picks + 1
      pmcs := s.pmcs ++ [⟨p.id, List.replicate 32 0#16, List.replicate 32 0#64⟩] }
    some (s.addClusters p.clusters)
  else none

def execPartcreate (c : Cmd) (s : State) : Host.Outcome State Fault Refusal :=
  .next (s.command c 0x12#8 (cmdAtMgmt c) (bodyNot c 96) fun s c => s.settle c (s.partCreate c.body))

/-! ### Resizing (R364, R365) -/

/-- The ways that a resize asks for are free, and no version way is taken away. -/
def State.waysOk (s : State) (p : Part) (v o : Nat) : Bool :=
  decide (p.vways ≤ v) && decide (waysOf (s.others p.id) + v + o ≤ 12)

/-- PARTRESIZE: ways change at once; clusters and slots at a launch boundary, and the command then waits for the host. -/
def State.partResize (s : State) (c : Cmd) : State :=
  match s.partOf (cmdPart c) with
  | none => s.finish c 5 0 []
  | some p =>
    if p.resize.isSome then s
    else
      let cl := BitVec.ofNat 16 (fieldNat c.body 4 2)
      let ring := BitVec.ofNat 256 (fieldNat c.body 8 32)
      let v := fieldNat c.body 6 1
      let o := fieldNat c.body 7 1
      if s.masksOk p.id cl ring && s.waysOk p v o then
        let s := s.trimWays p.id o
        if cl = p.clusters ∧ ring = p.ring then (s.setPart { p with vways := v, oways := o }).finish c 0 0 []
        else s.setPart { p with vways := v, oways := o, resize := some (cl, ring, some c) }
      else s.finish c 5 0 []

def execPartresize (c : Cmd) (s : State) : Host.Outcome State Fault Refusal :=
  .next (s.command c 0x13#8 (cmdAtMgmt c) (bodyNot c 40 || fieldNat c.body 2 2 != 0) State.partResize)

/-- A launch of the partition runs: it is registered, or a LAUNCH has begun (R364). -/
def State.launching (s : State) (id : Nat) : Bool :=
  s.launches.any (fun l => l.space.part == id) ||
    s.cqueues.any fun q => q.space.part == id && (match q.running with | some c => c.op == 0x01#8 && c.ep == .part id | none => false)

/-- A tenant of a partition without its PASS on the clusters of a mask (R359). -/
def Tenant.leave (t : Tenant) (gone : BitVec 16) : Tenant := { t with pass := t.pass.filter fun p => !gone.getLsbD p.1 }

/-- RESIZE_APPLY: no launch of the partition runs; leaving clusters are scrubbed, the masks apply, and the host is told. -/
def State.resizeApply (s : State) (id : Nat) : State :=
  match s.partOf id with
  | none => s
  | some p =>
    match p.resize with
    | none => s
    | some (cl, ring, d) =>
      if p.unacked || s.launching id then s
      else if !s.masksOk id cl ring then
        let t := s.setPart { p with resize := none }
        (match d with | some c => t.finish c 5 0 [] | none => t)
      else
        let gone := p.clusters &&& ~~~cl
        let s := (clustersIn gone).foldl (fun s k => (s.saveCluster k).scrubCluster k) s
        let s : State := { s with
          clusters := s.clusters.filter fun k => !gone.getLsbD k.id
          tenants := s.tenants.map fun t => if t.space.part = id then t.leave gone else t
          tlb := s.tlb.filter fun e => e.2.1.part != id
          caches := { s.caches with tlb2 := s.caches.tlb2.filter fun e => e.2.1.part != id } }
        let rseq := p.rseq + 1
        let s := (s.setPart { p with clusters := cl, ring := ring, rseq := rseq, resize := some (cl, ring, d), unacked := true }).addClusters cl
        s.reportHosts id (eventBytes 0x01 id 0xFF cl.toNat p.clusters.toNat rseq.toNat (tickOf s.time) (leBytes 8 0))

def execResizeApply (p : Nat) (s : State) : Host.Outcome State Fault Refusal := .next (s.resizeApply p)

/-- A command that was accepted and now ends without having done its work (R331): with status 6. -/
def State.discardCmds (s : State) (q : CmdQueue) : State :=
  (q.running.toList ++ q.held ++ q.ahead).foldl (fun s c => s.tell c 6 0 []) s

/-- What a partition leaves behind in its queues: a launch ends with a record of KIND 4, and every other command that was accepted is
discarded (R331; log entry 65). -/
def State.answerAll (s : State) (id : Nat) : State :=
  let s := s.dropLaunches id []
  (s.cqueues.filter fun q => q.space.part == id && decide (q.id < 64)).foldl (fun s q => s.discardCmds q) s

/-- Everything that a partition held is gone, and its memory has no key (R384). -/
def State.partDestroy (s : State) (p : Part) : State :=
  let id := p.id
  let out := fun (sp : Space) => sp.part != id
  let s := s.answerAll id
  let s := (s.maps.filter fun m => m.space.part == id && !m.remote && m.held).foldl (fun s m => s.zeroFrame m.pa m.size) s
  let s := ((clustersIn p.clusters).foldl State.scrubCluster s).dropPart id
  let mine := fun (pa : Nat) => s.frames.any fun f => f.2 == id && decide (f.1 ≤ pa ∧ pa < f.1 + 65536)
  let again := fun (x : Mapping) => match x.back with | .refused d => { x with back := .later d } | _ => x
  { s with
    mailboxes := s.mailboxes.filter fun m => !mine m.1
    hwaits := s.hwaits.filter fun w => !mine w.1
    parts := s.others id
    clusters := s.clusters.filter fun k => !p.clusters.getLsbD k.id
    tenants := s.tenants.filter fun t => out t.space
    cqueues := s.cqueues.filter fun q => out q.space || decide (64 ≤ q.id)
    maps := (s.maps.filter fun m => out m.space).map again
    frames := s.frames.filter fun f => f.2 != id
    moves := s.moves.filter fun m => out m.1
    pageWalks := s.pageWalks.filter fun w => out w.1
    tlb := s.tlb.filter fun e => out e.2.1
    objects := s.objects.filter fun o => out o.space
    stubs := s.stubs.filter fun b => out b.space
    jobs := s.jobs.filter fun j => j.owner.key.part != id
    peers := s.peers.filter fun q => out q.space
    hostReqs := s.hostReqs.filter fun q => out q.space
    energies := s.energies.filter fun e => out e.1
    traces := s.traces.filter fun t => out t.space
    dbgArms := s.dbgArms.filter fun a => out a.space
    pmcs := s.pmcs.filter fun q => q.part != id
    replays := s.replays.filter fun r => r.part != id
    checkpoints := s.checkpoints.filter fun k => k.part != id }

/-- PARTDESTROY: refused while a tenant is enabled; it waits for tenants that are stopping (R352, R366). -/
def State.partDestroyCmd (s : State) (c : Cmd) : State :=
  match s.partOf (cmdPart c) with
  | none => s.finish c 5 0 []
  | some p =>
    let st := fun (x : TenState) => s.tenants.any fun t => t.space.part == p.id && t.st == x
    if st .enabled then s.finish c 5 0 []
    else if st .stopping then s
    else (s.partDestroy p).finish c 0 0 []

def execPartdestroy (c : Cmd) (s : State) : Host.Outcome State Fault Refusal :=
  .next (s.command c 0x14#8 (cmdAtMgmt c) (bodyNot c 2) State.partDestroyCmd)

/-! ### Tenants (R352, R366) -/

/-- VDEVCREATE: the tenant exists, DISABLED, with an empty address space. -/
def State.vdevCreate (s : State) (bs : List Byte) : Option State :=
  let sp : Space := ⟨fieldNat bs 0 2, fieldNat bs 2 1⟩
  let n := fieldNat bs 4 2
  if (s.partOf sp.part).isSome && decide (sp.vdev < 16) && (s.tenantOf sp).isNone && inRange 1 1024 n then
    some { s with tenants := s.tenants ++ [⟨sp, n, .disabled, [], 0⟩] }
  else none

def execVdevcreate (c : Cmd) (s : State) : Host.Outcome State Fault Refusal :=
  .next (s.command c 0x15#8 (cmdAtMgmt c) (bodyNot c 6 || fieldNat c.body 3 1 != 0) fun s c => s.settle c (s.vdevCreate c.body))

/-- An ENABLED or DISABLED event (R354). -/
def State.tenantEvent (s : State) (sp : Space) (ev : Nat) : State :=
  match s.partOf sp.part with
  | some p => s.reportHosts sp.part
      (eventBytes ev sp.part sp.vdev p.clusters.toNat p.clusters.toNat p.rseq.toNat (tickOf s.time) (leBytes 8 0))
  | none => s

/-- A tenant named by VDEVSET moves toward its new state: an enabled one that is to stop gives its running tasks a soft stop. -/
def State.vdevMove (s : State) (sp : Space) (on : Bool) (tickets : Nat) : State :=
  match s.tenantOf sp with
  | none => s
  | some t =>
    let t := if tickets = 0 then t else { t with tickets := tickets }
    match t.st, on with
    | .disabled, true => (s.setTenant { t with st := .enabled }).tenantEvent sp 0x03
    | .enabled, false =>
      (s.setTenant { t with st := .stopping, since := tickOf s.time }).mapCores fun c =>
        if c.task.isSome ∧ c.space = sp then c.askStop else c
    | _, _ => s.setTenant t

/-- What a VDEVSET that is in progress still waits for, of the tenants in a mask: one that is to be enabled, until it is, a stop having been
completed first; one that is to be disabled, until it has been (R366). -/
def State.vdevLeft (s : State) (part mask on : Nat) : Nat :=
  ((List.range 16).filter fun v => mask / 2 ^ v % 2 == 1 &&
    (match s.tenantOf ⟨part, v⟩ with | some t => t.st != (if on / 2 ^ v % 2 = 1 then .enabled else .disabled) | none => false)).foldl
    (fun n v => n + 2 ^ v) 0

/-- VDEVSET: it acts when it begins, and completes when every tenant that it names has reached its new state. -/
def State.vdevSet (s : State) (c : Cmd) : State :=
  let part := cmdPart c
  let mask := fieldNat c.body 4 2
  let on := fieldNat c.body 6 2
  let tickets := fieldNat c.body 8 2
  let named := fun (m : Nat) => (List.range 16).filter fun v => m / 2 ^ v % 2 == 1
  let wait := fun (t : State) (m : Nat) =>
    let left := t.vdevLeft part m on
    if left = 0 then t.finish c 0 0 [] else t.noteBegun c ⟨leBytes 2 left, []⟩
  match (match s.queueAt (cmdHome c) with | some q => q.begun | none => none) with
  | some b =>
    let m := leNat b.record
    wait ((named m).foldl (fun s v => if on / 2 ^ v % 2 = 1 then s.vdevMove ⟨part, v⟩ true 0 else s) s) m
  | none =>
    if (s.partOf part).isNone || !((named mask).all fun v => (s.tenantOf ⟨part, v⟩).isSome) || decide (1024 < tickets) then s.finish c 5 0 []
    else wait ((named mask).foldl (fun s v => s.vdevMove ⟨part, v⟩ (on / 2 ^ v % 2 == 1) tickets) s) mask

def execVdevset (c : Cmd) (s : State) : Host.Outcome State Fault Refusal :=
  .next (s.command c 0x16#8 (cmdAtMgmt c) (bodyNot c 10 || fieldNat c.body 2 2 != 0) State.vdevSet)

/-- A VDEVSET that waits for a tenant to be disabled waits for it no more. -/
def CmdQueue.disabled (q : CmdQueue) (sp : Space) : CmdQueue :=
  match q.running, q.begun with
  | some c, some b =>
    if c.ep = .mgmt ∧ c.op = 0x16#8 ∧ cmdPart c = sp.part ∧ fieldNat c.body 6 2 / 2 ^ sp.vdev % 2 = 0 ∧ leNat b.record / 2 ^ sp.vdev % 2 = 1 then
      { q with begun := some ⟨leBytes 2 (leNat b.record - 2 ^ sp.vdev), []⟩ }
    else q
  | _, _ => q

/-- TENANT_DISABLED (R366, R367): no task of a stopping tenant is on a core; its records are saved and it is DISABLED. -/
def State.tenantDisabled (s : State) (sp : Space) : State :=
  if !s.tenantOff sp then s
  else
    match s.tenantOf sp with
    | none => s
    | some t =>
      let s := (s.cores.filter fun c => decide (c.energyOf = some sp)).foldl (fun s c => s.saveEnergy c.id.toNat) s
      let s := (s.setTenant { t with st := .disabled }).tenantEvent sp 0x02
      { s with cqueues := s.cqueues.map fun q => q.disabled sp }

def execTenantDisabled (sp : Space) (s : State) : Host.Outcome State Fault Refusal := .next (s.tenantDisabled sp)

/-! ### Queues (R352, R378, R383) -/

def State.queueCreate (s : State) (bs : List Byte) : Option State :=
  let sp : Space := ⟨fieldNat bs 0 2, fieldNat bs 2 1⟩
  let q := fieldNat bs 3 1
  let w := fieldNat bs 4 4
  if (s.tenantOf sp).isSome && decide (q < 64) && (s.queueAt (sp.part, q)).isNone && (w == 0 || inRange 100 60000000 w) then
    some { s with cqueues := s.cqueues ++ [CmdQueue.reset sp q w] }
  else none

def execQueuecreate (c : Cmd) (s : State) : Host.Outcome State Fault Refusal :=
  .next (s.command c 0x17#8 (cmdAtMgmt c) (bodyNot c 8) fun s c => s.settle c (s.queueCreate c.body))

/-- The queue that a body names by PARTID and QUEUE. -/
def State.namedQueue (s : State) (bs : List Byte) : Option CmdQueue :=
  if fieldNat bs 2 1 < 64 then s.queueAt (fieldNat bs 0 2, fieldNat bs 2 1) else none

def State.queueDestroy (s : State) (bs : List Byte) : Option State :=
  match s.namedQueue bs with
  | some q =>
    if q.depth = 0 then some { s with cqueues := s.cqueues.filter fun r => !(r.space.part == q.space.part && r.id == q.id) } else none
  | none => none

def execQueuedestroy (c : Cmd) (s : State) : Host.Outcome State Fault Refusal :=
  .next (s.command c 0x18#8 (cmdAtMgmt c) (bodyNot c 3) fun s c => s.settle c (s.queueDestroy c.body))

/-- QUEUERESET: a queue in ERROR is NORMAL again; with FLAGS bit 0 the commands that it holds end discarded. -/
def State.queueReset (s : State) (bs : List Byte) : Option State :=
  match s.namedQueue bs with
  | some q =>
    if !q.error then none
    else if fieldNat bs 3 1 % 2 = 1 then
      let s := s.setQueue { q with error := false, held := [], ahead := [] }
      some ((q.held ++ q.ahead).foldl (fun s c => s.tell c 6 0 []) s)
    else some (s.setQueue { q with error := false })
  | none => none

def execQueuereset (c : Cmd) (s : State) : Host.Outcome State Fault Refusal :=
  .next (s.command c 0x1D#8 (cmdAtMgmt c) (bodyNot c 4 || decide (2 ≤ fieldNat c.body 3 1)) fun s c => s.settle c (s.queueReset c.body))

/-! ### ENERGY (R368) -/

/-- A 64-byte energy record. -/
def Energy.bytes (e : Energy) : List Byte :=
  leBytes 8 (e.ecount.toNat + bitNat e.esat 63) ++ leBytes 4 e.ebudget.toNat ++ leBytes 2 e.resClocks.toNat ++ leBytes 2 0
    ++ (e.edebit.toList.flatMap fun d => leBytes 1 d.toNat) ++ leBytes 4 e.erefill.toNat ++ leBytes 2 e.estatic.toNat ++ leBytes 2 0
    ++ leBytes 8 e.resTotal.toNat ++ leBytes 16 0

/-- The record of a tenant for a core: resident, as it stands between two clocks with what has fallen due in it, saved, or none. -/
def State.energyRecord (s : State) (sp : Space) (id : Nat) : Option Energy :=
  match s.coreOf id with
  | some c => if c.energyOf = some sp then some c.settle.energy
      else (s.energies.find? fun e => decide (e.1 = sp) && e.2.1 == id).map fun e => e.2.2
  | none => (s.energies.find? fun e => decide (e.1 = sp) && e.2.1 == id).map fun e => e.2.2

/-- The resets and writes that FLAGS ask for. -/
def Energy.set (e : Energy) (flags refill budget : Nat) : Energy :=
  let e := if flags % 2 = 1 then { e with ecount := 0#48, esat := false } else e
  let e := if flags / 2 % 2 = 1 then { e with erefill := BitVec.ofNat 32 refill } else e
  if flags / 4 % 2 = 1 then { e with ebudget := BitVec.ofNat 32 budget } else e

def State.mapEnergies (s : State) (sp : Space) (f : Energy → Energy) : State :=
  { s.mapCores fun c => if c.energyOf = some sp then { c.settle with energy := f c.settle.energy } else c with
    energies := s.energies.map fun e => if e.1 = sp then (e.1, e.2.1, f e.2.2) else e }

/-- n bytes are mapped writable, and are no tile, sync space or page of a peer: none where they are not, a page to wait for, or ready. -/
def State.writable (s : State) (sp : Space) (va : Word) (n : Nat) : Option (Option Nat) :=
  match s.reachAs sp va n true with
  | some (.inl _) => none
  | some (.inr a) => some (some a)
  | none => some none

/-- ENERGY: 64 records are written, and then the resets and writes act on every record of the tenant. -/
def State.energyCmd (s : State) (c : Cmd) : State :=
  let b := c.body
  let sp : Space := ⟨fieldNat b 0 2, fieldNat b 2 1⟩
  let va := BitVec.ofNat 64 (fieldNat b 8 8)
  if (s.tenantOf sp).isNone || va.toNat % 64 != 0 then s.finish c 5 0 []
  else
    match s.writable sp va 4096 with
    | none => s.finish c 5 0 []
    | some (some a) => s.askModule sp a
    | some none =>
      let bs := (List.range 64).flatMap fun id =>
        match s.energyRecord sp id with | some e => Energy.bytes e | none => List.replicate 64 0#8
      ((s.poke sp va.toNat bs).mapEnergies sp fun e => e.set (fieldNat b 3 1) (fieldNat b 4 4) (fieldNat b 16 4)).finish c 0 0 []

def execEnergy (c : Cmd) (s : State) : Host.Outcome State Fault Refusal :=
  .next (s.command c 0x19#8 (cmdAtMgmt c) (bodyNot c 24 || decide (8 ≤ fieldNat c.body 3 1) || fieldNat c.body 20 4 != 0) State.energyCmd)

/-! ### SUMMARY (R387) -/

def DevState.code : DevState → Nat
  | .boot => 0
  | .ready => 1
  | .stopped => 2
  | .alarm => 3
  | .failed => 4

def TenState.code : TenState → Nat
  | .disabled => 0
  | .enabled => 1
  | .stopping => 2

def AlarmAction.code : AlarmAction → Nat
  | .log => 0
  | .stop => 1
  | .erase => 2

def AlarmSource.code : AlarmSource → Nat
  | .voltage => 0
  | .clock => 1
  | .temperature => 2
  | .tamper => 3

/-- One record of a summary. -/
def sumRecord (ty : Nat) (body : List Byte) : List Byte := leBytes 2 ty ++ leBytes 2 body.length ++ body

/-- The device record, as the management endpoint of a port gives it; the firmware version is a free value (log entry 6). -/
def State.deviceRecord (s : State) (port : Fin 12) : List Byte :=
  sumRecord 1 (leBytes 1 s.devState.code ++ leBytes 3 0 ++ leBytes 8 (tickOf s.time) ++ leBytes 8 Config.deviceHash.toNat
    ++ ((List.range 4).map fun i => Config.identity (256 + i)) ++ leBytes 8 s.coreMap.toNat
    ++ leBytes 4 (match s.queueAt (0, 64 + port.val) with | some q => q.nextSeq.toNat | none => 0)
    ++ (s.actions.flatMap fun a => leBytes 1 a.code)
    ++ leBytes 1 (match s.alarmSrc with | some a => AlarmSource.code a | none => 0) ++ leBytes 8 s.alarmAt)

def Part.sumRecord (p : Part) : List Byte :=
  Machine.sumRecord 3 (leBytes 2 p.id ++ leBytes 2 p.flags.toNat ++ leBytes 2 p.clusters.toNat ++ leBytes 1 p.vways ++ leBytes 1 p.oways
    ++ leBytes 1 p.a1.toNat ++ leBytes 1 0 ++ leBytes 2 p.aw.toNat ++ leBytes 4 p.rseq.toNat ++ leBytes 1 (bitNat p.unacked 0)
    ++ leBytes 3 0 ++ leBytes 32 p.ring.toNat)

def Tenant.sumRecord (t : Tenant) : List Byte :=
  Machine.sumRecord 4 (leBytes 2 t.space.part ++ leBytes 1 t.space.vdev ++ leBytes 1 t.st.code ++ leBytes 2 t.tickets)

/-- µs left of a queue's timer (R408): none in ERROR, all of them while no command is in progress. -/
def CmdQueue.left (q : CmdQueue) : Nat :=
  if q.error then 0 else if q.running.isSome then q.watchdog - q.elapsed / 24000 else q.watchdog

def State.queueRecord (s : State) (q : CmdQueue) : List Byte :=
  let launch := match s.launches.find? fun l => l.space.part == q.space.part && l.queue == q.id with | some l => l.id | none => 0
  sumRecord 5 (leBytes 2 q.space.part ++ leBytes 1 q.id ++ leBytes 1 q.space.vdev ++ leBytes 1 (bitNat q.error 0) ++ leBytes 3 0
    ++ leBytes 4 q.nextSeq.toNat ++ leBytes 4 q.lastSeq.toNat ++ leBytes 4 launch ++ leBytes 4 q.left)

/-- Spare rows that a bank of a stack has left. -/
def Repair.left (r : Repair) (stack bank : Nat) : Nat := Config.spareRows stack bank - assocGet 0 r.used bank

def repairRecord (r : Repair) (i : Nat) : List Byte :=
  sumRecord 6 (leBytes 1 i ++ leBytes 3 0 ++ leBytes 4 (r.used.foldl (fun n b => n + b.2) 0)
    ++ leBytes 4 ((List.range Config.banks).foldl (fun n b => n + r.left i b) 0) ++ leBytes 4 r.retired)

def State.counterRecord (s : State) (die : Nat) : List Byte :=
  sumRecord 2 (leBytes 1 die ++ leBytes 3 0 ++ ((s.counters.drop (16 * die)).take 16).flatMap fun n => leBytes 4 n.toNat)

/-- Every record, in the order of their types. -/
def State.summaryRecords (s : State) (port : Fin 12) : List (List Byte) :=
  [s.deviceRecord port, s.counterRecord 0, s.counterRecord 1] ++ s.parts.map Part.sumRecord ++ s.tenants.map Tenant.sumRecord
    ++ (s.cqueues.filter fun q => decide (q.id < 64)).map s.queueRecord
    ++ s.repairs.zipIdx.map fun r => repairRecord r.1 r.2

/-- Records in segments of at most 1,008 bytes, none crossing a segment. -/
def segments : List Byte → List (List Byte) → List (List Byte)
  | cur, [] => if cur = [] then [] else [cur]
  | cur, r :: rs => if 1008 < cur.length + r.length ∧ cur ≠ [] then cur :: segments r rs else segments (cur ++ r) rs

/-- SUMMARY: accepted whatever its SEQ and in every state of the module; FLAGS bit 0 resets the counters after the snapshot. -/
def State.summary (s : State) (c : Cmd) : State :=
  let segs := segments [] (s.summaryRecords c.port)
  let put := fun (s : State) (p : List Byte × Nat) =>
    s.sendFrom 0 ⟨c.ep, c.port, c.src, .send, leBytes 4 0x53554D31 ++ leBytes 2 p.2 ++ leBytes 2 segs.length ++ leBytes 8 c.tag.toNat ++ p.1⟩
  let s := (segs.zipIdx.foldl put (s.respond c 0)).tell c 0 0 []
  if fieldNat c.body 0 4 % 2 = 1 then { s with counters := List.replicate 32 0#32 } else s

def execSummary (c : Cmd) (s : State) : Host.Outcome State Fault Refusal :=
  .next (if !c.arriving then s
    else if !s.knownSource c 0 then s.count (portDie c.port) 11
    else if !cmdAtMgmt c || c.op != 0x1A#8 || bodyNot c 4 || c.rsvd || c.lenBad || c.queue != 0#8 || decide (2 ≤ fieldNat c.body 0 4) then s.respond c 2
    else s.summary c)

/-! ### ATTEST (R385) -/

/-- The 256 bytes of a report. -/
def State.report (s : State) (p : Part) (nonce : List Byte) : List Byte :=
  let applied := p.createBody ++ leBytes 2 p.clusters.toNat ++ leBytes 1 p.vways ++ leBytes 1 p.oways
  leBytes 4 0x41545331 ++ leBytes 2 1 ++ leBytes 2 0 ++ nonce ++ leBytes 8 Config.deviceHash.toNat ++ leBytes 8 (tickOf s.time)
    ++ leBytes 8 s.coreMap.toNat ++ ((List.range 96).map fun i => Config.identity (0x40 + i))
    ++ leBytes 32 (Config.sha256 applied).toNat ++ ((List.range 48).map fun i => Config.identity (0xC0 + i)) ++ leBytes 16 0

/-- The signature, 16,224 bytes. -/
def signatureOf (bs : List Byte) : List Byte := (Config.signature bs ++ List.replicate 16224 0#8).take 16224

/-- ATTEST: the report and its signature are written at system scope. -/
def State.attest (s : State) (c : Cmd) : State :=
  let b := c.body
  let sp : Space := ⟨fieldNat b 0 2, fieldNat b 2 1⟩
  let va := BitVec.ofNat 64 (fieldNat b 0x28 8)
  match s.partOf sp.part, s.tenantOf sp with
  | some p, some _ =>
    if va.toNat % 64 ≠ 0 then s.finish c 5 0 []
    else
      (match s.writable sp va 16480 with
      | none => s.finish c 5 0 []
      | some (some a) => s.askModule sp a
      | some none =>
        let r := s.report p ((b.drop 8).take 32)
        (s.poke sp va.toNat (r ++ signatureOf r)).finish c 0 0 [])
  | _, _ => s.finish c 5 0 []

def execAttest (c : Cmd) (s : State) : Host.Outcome State Fault Refusal :=
  .next (s.command c 0x1B#8 (cmdAtMgmt c) (bodyNot c 48 || fieldNat c.body 3 5 != 0) State.attest)

/-! ### ALARMSET (R383) -/

def actionOf (n : Nat) : AlarmAction := if n = 0 then .log else if n = 1 then .stop else .erase

/-- ALARMSET raises responses and never lowers one. -/
def State.alarmSet (s : State) (bs : List Byte) : Option State :=
  let new := (bs.take 4).map fun b => b.toNat
  if new.all (fun n => decide (n < 3)) && (s.actions.zip new).all fun p => decide (p.1.code ≤ p.2) then
    some { s with actions := new.map actionOf }
  else none

def execAlarmset (c : Cmd) (s : State) : Host.Outcome State Fault Refusal :=
  .next (s.command c 0x1C#8 (cmdAtMgmt c) (bodyNot c 4) fun s c => s.settle c (s.alarmSet c.body))

end Sys2Proof.Machine
end

