-- ==== Sys2Proof/Machine/Faults.lean ====
section
/-! DEFINITION. The watchdog timers (R378 to R380, R406, R408), soft errors and repairs (R381, R382), the security alarm (R386)
and power-on (R389). -/

namespace Sys2Proof.Machine

/-! ### Watchdog timers (R378, R379) -/

/-- The timer of a queue has reached its interval. -/
def CmdQueue.expired (q : CmdQueue) : Bool :=
  q.running.isSome && !q.error && q.watchdog != 0 && decide (q.watchdog * 24000 ≤ q.elapsed)

/-- The cores of a partition's tasks give them up, and their state is discarded. -/
def State.discardPart (s : State) (part : Nat) : State :=
  let home := s.core.id.toNat
  ((s.cores.filter fun c => c.task.isSome && c.space.part == part).foldl (fun s c =>
    let s := s.focus c.id.toNat
    s.discardCore (match s.nodeOfKey s.core.owner.key with | some n => n.status.toNat | none => 0)) s).focus home

/-- A COPY or WAITEVENT in progress on an expired queue ends with status 7 (R331). -/
def State.dropWait (s : State) (q : CmdQueue) : State :=
  match q.running with
  | some c =>
    if c.op = 0x02#8 ∨ c.op = 0x03#8 then
      ({ s with jobs := s.jobs.filter fun j => !decide (j.cmd = some c) }).finish c 7 0x1F []
    else s
  | none => s

/-- A slice of the partition, or a drain, ends now and is charged to its holder (R359, R379). -/
def State.haltCluster (s : State) (cl : Nat) : State :=
  match s.clusterAt cl with
  | none => s
  | some k =>
    let s := match k.holder with
      | some sp => s.chargePass sp cl (tickOf s.time - k.ended.getD k.start)
      | none => s
    (s.saveCluster cl).give k none

/-- Steps 1 and 2 of R379: every task of the partition is stopped and discarded, and its clusters are held by no tenant. What it had under way
stands still from now on, until the reset ends. -/
def State.stopPart (s : State) (p : Part) : State := (clustersIn p.clusters).foldl State.haltCluster (s.discardPart p.id)

/-- Steps 3 to 5: its versions and launches end, and its clusters are scrubbed; each then chooses afresh. -/
def State.endPart (s : State) (p : Part) (expired : List Nat) : State :=
  let s := (clustersIn p.clusters).foldl State.scrubCluster (s.dropLaunches p.id expired)
  { s.dropPart p.id with tlb := s.tlb.filter fun e => e.2.1.part != p.id }.onPart p.id fun q => { q with wipe := none }

def State.resetPart (s : State) (p : Part) (expired : List Nat) : State := (s.stopPart p).endPart p expired

/-- Queues of a partition enter its reset: each is counted as an expiry (R379, R387). -/
def State.wipeWith (s : State) (p : Part) (t0 : Nat) (old new : List Nat) : State :=
  (new.foldl (fun s _ => s.count (p.die == 1) 13) s).onPart p.id fun q => { q with wipe := some (t0, old ++ new) }

/-- The reset is complete: the launches have their records, and the queues that expired are in ERROR (step 6). -/
def State.wipeEnd (s : State) (p : Part) (ids : List Nat) : State :=
  let s := s.endPart p ids
  let gone := s.cqueues.filter fun r => r.space.part == p.id && ids.contains r.id
  let s := gone.foldl State.dropWait s
  { s with cqueues := s.cqueues.map fun r => if r.space.part = p.id ∧ ids.contains r.id = true then { r with error := true } else r }

/-- The queue's timer has run out, and the reset of its partition does not serve it yet. -/
def State.expiring (s : State) (q : CmdQueue) : Bool :=
  q.expired && (match s.partOf q.space.part with
    | some p => (match p.wipe with | some (_, ids) => !ids.contains q.id | none => true)
    | none => false)

/-- WATCHDOG_EXPIRY of a queue: its partition stops, and is reset in a later step of this event, which the spec puts within 500 µs of the expiry
(log entry 51); one reset serves every queue of the partition that expires before it is complete (R380). -/
def State.watchdog (s : State) (part q : Nat) : State :=
  match s.partOf part with
  | none => s
  | some p =>
    let due := (s.cqueues.filter fun r => r.space.part == part && s.expiring r).map CmdQueue.id
    match p.wipe with
    | none => if due.contains q then (s.stopPart p).wipeWith p (tickOf s.time) [] due else s
    | some (t0, ids) => if due ≠ [] then s.wipeWith p t0 ids due else s.wipeEnd p ids

def execWatchdogExpiry (p q : Nat) (s : State) : Host.Outcome State Fault Refusal := .next (s.watchdog p q)

/-! ### The security alarm (R386, R388) -/

def alarmIndex (a : AlarmSource) : Nat := AlarmSource.code a

/-- The CLOCK record of every source of a trace buffer: its clock has stopped (R400). -/
def State.emitStopped (s : State) (t : Trace) : State :=
  t.last.foldl (fun s x => s.emit t.space x.1 (tickOf s.time) 0x02 (tickOf s.time) 0 0) s

/-- STOP: the module stops where it stands. -/
def State.stopModule (s : State) : State :=
  if s.devState = .ready then s.traces.foldl State.emitStopped { s with devState := .stopped } else s

/-- A core whose task, images and requests are gone. -/
def Core.erase (c : Core) : Core := { Core.reset c.id with time := c.time }

/-- ERASE: every key and context image is gone, and what was written under the keys cannot be read. -/
def State.eraseModule (s : State) : State :=
  { s.mapCores Core.erase with
    devState := .alarm
    mem := []
    spm := []
    spmLate := []
    caches := Caches.reset
    hist := []
    versions := []
    lineage := []
    mailboxes := []
    hwaits := []
    launches := []
    nodes := []
    edges := []
    jobs := []
    peers := []
    hostReqs := []
    parts := s.parts.map fun p => { p with key := none, wipe := none }
    handleKey := none
    checkpoints := []
    energies := []
    poison := []
    spmPoison := [] }

/-- ALARM: it is counted, reported to the administrators, and its response applies. -/
def State.alarm (s : State) (a : AlarmSource) : State :=
  let s : State := { (s.count false 14) with alarmSrc := some a, alarmAt := tickOf s.time, alarmGone := none }
  let s := s.reportAdmins 0x11 (alarmIndex a)
  if s.devState = .alarm then s
  else
    match s.actions.getD (alarmIndex a) .log with
    | .log => s
    | .stop => s.stopModule
    | .erase => s.eraseModule

def execAlarm (src : AlarmSource) (s : State) : Host.Outcome State Fault Refusal := .next (s.alarm src)

/-- ALARM_CLEAR: the condition is found absent; once it has been absent for 1,000,000 ticks the module is READY again. -/
def execAlarmClear (s : State) : Host.Outcome State Fault Refusal :=
  .next (if s.devState = .stopped then
      match s.alarmGone with
      | none => { s with alarmGone := some (tickOf s.time) }
      | some t => if t + 1000000 ≤ tickOf s.time then { s with devState := .ready, alarmGone := none } else s
    else s)

/-! ### Power-on (R389) -/

/-- A core after bring-up, with firmware's STATIC (R76). -/
def Core.broughtUp (id : BitVec 6) : Core := { Core.reset id with energy := Energy.fresh id, seen := Energy.fresh id }

/-- The module as bring-up leaves it, when its checks succeed: memories and SRAM zeroed, the handle key drawn, every core idle, no partitions. -/
def State.broughtUp (s : State) : State :=
  { State.reset with
    core := Core.broughtUp 0#6
    parked := (List.range 63).map fun i => Core.broughtUp (BitVec.ofNat 6 (i + 1))
    devState := .ready
    repairs := s.repairs.map fun r => { r with rows := [] }
    retired := s.retired
    handleKey := some (Config.random s.picks)
    coreMap := Config.coreMap
    inbox := s.inbox
    outbox := s.outbox
    picks := s.picks + 1 }

/-- POWER_ON, or a power cycle: READY and its message; or FAILED, where a firmware check or the training of a stack fails. -/
def State.bringUp (s : State) : State :=
  let (k, s) := s.pickAny 2
  let t := s.broughtUp
  if k = 0 then t.reportAdmins 0x10 0 else { t with devState := .failed }

def execPowerOn (s : State) : Host.Outcome State Fault Refusal := .next s.bringUp

/-! ### Soft errors (R381)

The places of SRAM words in ECC_ERROR: from 0 the 64-bit words of the scratchpads; from 2^40 those of the accumulators, 2^20 to a
core; from 2^41 scalar registers, 64 to a core; from 2^42 the memory lines held in an L2 slice, the LLC or a synchronisation
engine; from 2^43 landing entries, 2^16 to a core; from 2^44 the words of versions, 2^24 to a task, in the order in which they are held.
An error in a place without a mark is counted only. Of the storage that is dropped and refetched: from 0 the lines of L1 caches and of
read-only copies; from 2^42 first-level and from 2^43 second-level TLB entries; from 2^44 the instruction caches, and from 2^45 the record
caches, 32 to a core. -/

/-- Base die of an SRAM word. -/
def sramDie (a : Nat) : Bool :=
  if a < 2 ^ 40 then decide (32 ≤ a * 8 / 2 ^ 20 % 64)
  else if a < 2 ^ 41 then decide (32 ≤ a / 2 ^ 20 % 64)
  else if a < 2 ^ 42 then decide (32 ≤ a / 64 % 64)
  else if a < 2 ^ 43 then homeDie (a % 2 ^ 42 * 64) == 1
  else if a < 2 ^ 44 then decide (32 ≤ a / 2 ^ 16 % 64)
  else homeDie (a % 2 ^ 24 * 64) == 1

/-- A number enters a list once. -/
def insertNew (n : Nat) (l : List Nat) : List Nat := if l.contains n then l else n :: l

/-- A line is marked poisoned. -/
def State.poisonLine (s : State) (line : Nat) : State := { s with poison := insertNew line s.poison }

/-- A landing entry loses its data: its request fails at its named cycle (R91). -/
def Ctx.poisonLanding (x : Ctx) (i : Nat) : Ctx :=
  { x with landings := x.landings.zipIdx.map fun l =>
      if l.2 = i ∧ l.1.data.isSome = true then { l.1 with data := none, err := some .uncorrectableData } else l.1 }

/-- The word of the i-th byte of a version is poisoned. -/
def Version.poison (v : Version) (i : Nat) : Version :=
  match v.bytes[i]? with
  | some b => { v with bad := insertNew (b.1 / 8) v.bad }
  | none => v

/-- Base die of an entry that is dropped. -/
def cleanDie (a : Nat) : Bool := if a < 2 ^ 42 then homeDie (a * 64) == 1 else if a < 2 ^ 45 then false else decide (32 ≤ a / 32 % 64)

/-- The entry is dropped, and comes back when it is next needed. -/
def State.dropEntryAt (s : State) (a : Nat) : State :=
  let i := a % 2 ^ 42
  if a < 2 ^ 42 then s.onCaches fun k =>
    { k with l1 := k.l1.filter fun x => x.line != a, l2 := k.l2.filter fun x => !(x.line == a && x.copy) }
  else if a < 2 ^ 43 then { s with tlb := s.tlb.eraseIdx i }
  else if a < 2 ^ 44 then s.onCaches fun k => { k with tlb2 := k.tlb2.eraseIdx i }
  else if a < 2 ^ 45 then s.onCaches fun k => { k with icache := k.icache.eraseIdx i }
  else s.onCoreId (a / 32 % 64) fun c => { c with recCache := c.recCache.eraseIdx (a % 32) }

/-- An SRAM word is poisoned. -/
def State.poisonSram (s : State) (a : Nat) : State :=
  if a < 2 ^ 40 then { s with spmPoison := insertNew (a % 2 ^ 23) s.spmPoison }
  else if a < 2 ^ 41 then
    s.onCoreId (a / 2 ^ 20 % 64) fun c => c.onCtx fun x => { x with badRow := insertNew (a % 2 ^ 20) x.badRow }
  else if a < 2 ^ 42 then
    s.onCoreId (a / 64 % 64) fun c => c.onCtx fun x => if a % 64 = 0 then x else { x with badS := insertNew (a % 64) x.badS }
  else if a < 2 ^ 43 then s.poisonLine (a % 2 ^ 42)
  else if a < 2 ^ 44 then s.onCoreId (a / 2 ^ 16 % 64) fun c => c.onCtx fun x => x.poisonLanding (a % 2 ^ 16)
  else { s with versions := s.versions.zipIdx.map fun v => if v.2 = a % 2 ^ 44 / 2 ^ 24 then v.1.poison (a % 2 ^ 24) else v.1 }

/-- The HBM4E stack that holds an address (R235). -/
def stackOf (pa : Nat) : Nat := pa / 4096 % 8

/-- A corrected error is counted against its row (R382). -/
def Repair.bump (r : Repair) (row line : Nat) : Repair :=
  match r.rows.find? fun x => x.1 == row with
  | some x => { r with rows := (row, x.2.1 + 1, x.2.2) :: r.rows.filter fun y => y.1 != row }
  | none => { r with rows := (row, 1, line) :: r.rows }

def State.onRepair (s : State) (i : Nat) (f : Repair → Repair) : State :=
  { s with repairs := s.repairs.zipIdx.map fun r => if r.2 = i then f r.1 else r.1 }

/-- An error in DRAM: corrected and counted, or a poisoned line. -/
def State.dramError (s : State) (pa : Nat) (fatal : Bool) : State :=
  let die := homeDie pa == 1
  if pa < hbmSize then
    if fatal then (s.count die 4).poisonLine (pa / 64)
    else (s.count die 3).onRepair (stackOf pa) fun r => r.bump (Config.rowOf (pa / 64)) (pa / 64)
  else if fatal then
    let s := (s.count die 6).poisonLine (pa / 64)
    { s with badFrames := insertNew (pa / 65536 * 65536) s.badFrames }
  else s.count die 5

/-- ECC_ERROR. -/
def execEccError (st : Storage) (addr : Nat) (fatal : Bool) (s : State) : Host.Outcome State Fault Refusal :=
  .next (match st with
    | .sram => if fatal then (s.count (sramDie addr) 1).poisonSram addr else s.count (sramDie addr) 0
    | .clean => if fatal then (s.count (cleanDie addr) 2).dropEntryAt addr else s.count (cleanDie addr) 0
    | .hbm => if addr < hbmSize then s.dramError addr fatal else s
    | .lpddr => if lpddrBase ≤ addr ∧ addr < lpddrEnd then s.dramError addr fatal else s)

/-- PATROL_SCRUB: a line is read; an error that it finds is corrected in place, or marks the line. -/
def execPatrolScrub (addr : Nat) (s : State) : Host.Outcome State Fault Refusal :=
  .next (if addr < hbmSize ∨ (lpddrBase ≤ addr ∧ addr < lpddrEnd) then
      let (k, s) := s.pickAny 3
      if k = 1 then s.dramError addr false else if k = 2 then s.dramError addr true else s
    else s)

/-! ### Repairs (R382) -/

/-- Rows whose corrected count has reached 4. -/
def Repair.worn (r : Repair) : List (Nat × Nat × Nat) := r.rows.filter fun x => decide (4 ≤ x.2.1)

/-- The bank of a row of a stack (R382). -/
def bankOf (row : Nat) : Nat := Config.bankOf row % Config.banks

/-- A row is worn, and its bank has a spare row left. -/
def Repair.spares (r : Repair) (stack row : Nat) : Bool :=
  r.worn.any (fun x => x.1 == row) && decide (0 < r.left stack (bankOf row))

/-- ROW_SPARE: the row is copied to a spare row of its bank. -/
def execRowSpare (stack : BitVec 3) (row : Nat) (s : State) : Host.Outcome State Fault Refusal :=
  .next (match s.repairs[stack.toNat]? with
    | some r =>
      if r.spares stack.toNat row then
        (s.count (decide (4 ≤ stack.toNat)) 7).onRepair stack.toNat fun r =>
          { r with used := assocSet 0 r.used (bankOf row) (assocGet 0 r.used (bankOf row) + 1), rows := r.rows.filter fun x => x.1 != row }
      else s
    | none => s)

/-- A row that is to be spared now: the first of the stacks'. -/
def State.spareDue (s : State) : Option (Nat × Nat) :=
  (s.repairs.take 8).zipIdx.findSome? fun r => (r.1.worn.find? fun x => r.1.spares r.2 x.1).map fun x => (r.2, x.1)

/-- A page that is to be retired: it holds a worn row of the stack whose bank has no spare row left, or an LPDDR6 frame whose poisoned lines have
been written. -/
def State.wornPage (s : State) (stack : Nat) (m : Mapping) : Bool :=
  match s.repairs[stack]? with
  | some r => !m.remote &&
      (r.worn.any (fun x => !r.spares stack x.1 && inFrame m.pa m.size (x.2.2 * 64))
        || (s.badFrames.any (fun f => inFrame m.pa m.size f) && !(s.poison.any fun l => inFrame m.pa m.size (l * 64))))
  | none => false

/-- A free frame of the same tier. -/
def State.frameFits (s : State) (m : Mapping) (pa : Nat) : Bool :=
  s.frameOpen m pa && (decide (pa < hbmSize) == decide (m.pa < hbmSize))

/-- The old frame is never used again. -/
def State.retire (s : State) (stack : Nat) (m : Mapping) : State :=
  let s := (s.count (if m.pa < hbmSize then decide (4 ≤ stack) else homeDie m.pa == 1) 8).onRepair stack fun r =>
    { r with
      retired := if m.pa < hbmSize then r.retired + 1 else r.retired
      rows := r.rows.filter fun x => !inFrame m.pa m.size (x.2.2 * 64) }
  { s with
    retired := (List.range (m.size / 65536)).map (fun i => m.pa + 65536 * i) ++ s.retired
    badFrames := s.badFrames.filter fun f => !inFrame m.pa m.size f }

/-- PAGE_RETIRE: a shootdown moves the page to a new frame; a step of it that finds the shootdown under way goes on with it. -/
def State.pageRetire (s : State) (stack : Nat) (sp : Space) (va newPa : Nat) : State :=
  match s.mappingOf sp va with
  | none => s
  | some m =>
    if s.movable m && s.wornPage stack m && (s.movingTo m newPa || (!s.moving m && s.frameFits m newPa)) then
      let t := s.shootdown sp m.va (some newPa)
      if t.moving m then t else t.retire stack m
    else s

def execPageRetire (stack : BitVec 3) (sp : Space) (va : BitVec 64) (newPa : Nat) (s : State) :
    Host.Outcome State Fault Refusal := .next (s.pageRetire stack.toNat sp va.toNat newPa)

/-- LINK_LEVEL_RETRY (R325): nothing is lost; the retry is counted. -/
def execLinkLevelRetry (die : Bool) (s : State) : Host.Outcome State Fault Refusal := .next (s.count die 12)

end Sys2Proof.Machine
end

