-- ==== Sys2Proof/Machine/Debug.lean ====
section
/-! DEFINITION. The debug endpoint's stops (R390 to R394): DBGARM, DBGSTOP, DEBUG_STOP with its dump (R228, R392) and DBGRESUME. -/

namespace Sys2Proof.Machine

/-- A command of the debug endpoint. -/
def cmdAtDebug (c : Cmd) : Bool := c.ep == .debug

/-- The tenant that a debug command names in its first three bytes. -/
def cmdSpace (c : Cmd) : Space := ⟨fieldNat c.body 0 2, fieldNat c.body 2 1⟩

/-! ### Arming (R391) -/

/-- An entry of the breakpoint table. -/
def breakpointOf (bs : List Byte) : Breakpoint :=
  ⟨BitVec.ofNat 64 (fieldNat bs 0 8), BitVec.ofNat 64 (fieldNat bs 8 8), BitVec.ofNat 32 (fieldNat bs 16 4), BitVec.ofNat 32 (fieldNat bs 20 4)⟩

/-- An entry that would match every bundle. -/
def Breakpoint.open_ (b : Breakpoint) : Bool := b.addr == BitVec.allOnes 64 && b.cycle == BitVec.allOnes 64

/-- No core has matched a breakpoint of the tenant yet; a step count of a task that is not held ends. -/
def State.armCores (s : State) (sp : Space) : State :=
  s.mapCores fun c => { c with dbg := { c.dbg with
    hits := c.dbg.hits.filter fun h => h.1 / 64 != hitKey sp 0 / 64
    steps := if c.task.isSome ∧ c.space = sp ∧ c.phase ≠ .held then none else c.dbg.steps } }

/-- DBGARM: the table at BPADDR is read once, and every core of the partition has the new setting. -/
def State.arm (s : State) (c : Cmd) : State :=
  let b := c.body
  let sp := cmdSpace c
  let n := fieldNat b 4 2
  let va := BitVec.ofNat 64 (fieldNat b 8 8)
  let others := s.dbgArms.filter fun a => decide (a.space ≠ sp)
  if (s.tenantOf sp).isNone || decide (64 < n) then s.finish c 5 0 []
  else if fieldNat b 3 1 % 2 = 0 then ({ s with dbgArms := others }.armCores sp).finish c 0 0 []
  else
    match if n = 0 then none else s.reachAll sp va (24 * n) with
    | some (.inl _) => s.finish c 5 0 []
    | some (.inr a) => s.askModule sp a
    | none =>
      let bps := (chunks 24 n (s.peek sp va.toNat (24 * n))).map breakpointOf
      if bps.any Breakpoint.open_ then s.finish c 5 0 []
      else
        let a : DbgArm := ⟨sp, bps, BitVec.ofNat 64 (fieldNat b 0x10 8), fieldNat b 0x18 8, 0, c.src, c.ep, c.port⟩
        ({ s with dbgArms := others ++ [a] }.armCores sp).finish c 0 0 []

def execDbgarm (c : Cmd) (s : State) : Host.Outcome State Fault Refusal :=
  .next (s.command c 0x20#8 (cmdAtDebug c) (bodyNot c 32 || decide (2 ≤ fieldNat c.body 3 1) || fieldNat c.body 6 2 != 0) State.arm)

/-- The core runs a task that a debug command names; 0 names every task of the tenant. -/
def Core.named (c : Core) (sp : Space) (task : Nat) : Bool :=
  c.task.isSome && decide (c.space = sp) && (task == 0 || c.owner.key.task == task)

/-- The task of a core has been stopped: the core that met the stop holds it, and its dump is made. -/
def State.taskHeld (s : State) (c : Core) : Bool :=
  s.cores.any fun k => decide (k.task = c.task) && k.phase == .held && k.dbg.lead.isSome && k.dbg.due.isNone

/-- DBGSTOP: each running task that it names is to stop; it completes when all are stopped. One that carries out its own departure is not
(R362). -/
def State.dbgStop (s : State) (c : Cmd) : State :=
  let sp := cmdSpace c
  let task := fieldNat c.body 4 4
  if (s.tenantOf sp).isNone || (s.armOf sp).isNone then s.finish c 5 0 []
  else
    let s := s.mapCores fun k =>
      if k.named sp task && k.phase != .held && !k.departs then { k with dbg := { k.dbg with request := true } } else k
    if s.cores.any fun k => k.named sp task && !k.departs && !s.taskHeld k then s else s.finish c 0 0 []

def execDbgstop (c : Cmd) (s : State) : Host.Outcome State Fault Refusal :=
  .next (s.command c 0x21#8 (cmdAtDebug c) (bodyNot c 8 || fieldNat c.body 3 1 != 0) State.dbgStop)

/-! ### Dumps (R228, R392) -/

/-- The header of a dump; `short` says that sections 0x07 and 0x08 are left out. -/
def Core.dumpHeader (c : Core) (cause : BitVec 2) (bp : Nat) (short : Bool) (stamp : Nat) : List Byte :=
  leBytes 4 c.owner.key.task ++ leBytes 4 c.owner.key.launch ++ leBytes 8 (addrOf c.ctx.pc).toNat ++ leBytes 8 c.ctx.cycle.toNat
    ++ leBytes 1 c.id.toNat ++ leBytes 1 cause.toNat ++ leBytes 1 bp ++ leBytes 1 (bitNat short 0) ++ leBytes 4 0
    ++ leBytes 8 stamp ++ leBytes 24 0

/-- A dump with this image has room in what is left of the DUMP area. -/
def DbgArm.fits (a : DbgArm) (h : Held) (full : Bool) : Bool := decide (a.used + 64 + imageSize (h.sections full) ≤ a.size)

/-- Where the next dump stands, and its bytes. -/
def DbgArm.place (a : DbgArm) (h : Held) : Word × Nat :=
  (a.dump + BitVec.ofNat 64 a.used, if a.fits h false then 64 + imageSize (h.sections (a.fits h true)) else 0)

/-- What a dump shows of a task: its state as it stands, TRAPVEC too, since it has not left its core (R370). -/
def State.dumped (s : State) : Held := s.heldWith id 2

/-- The dump of the current core's task is appended to its DUMP area, as far as there is room, and its header is sent. -/
def State.appendDump (s : State) (a : DbgArm) (cause : BitVec 2) (bp stamp : Nat) : State :=
  let h := s.dumped
  let head := s.core.dumpHeader cause bp (!a.fits h true) stamp
  let s := s.sendFrom a.space.part ⟨a.ep, a.port, a.src, .send, head⟩
  if a.fits h false then
    let bs := head ++ h.image (a.fits h true)
    let s := s.poke a.space (a.place h).1.toNat bs
    { s with dbgArms := s.dbgArms.map fun b => if b.space = a.space then { b with used := b.used + bs.length } else b }
  else s

/-! ### Stops (R392, R394) -/

/-- A member of a stopped task that issues nothing. -/
def Core.standsStill (c : Core) : Bool :=
  !c.mid && (match c.phase with
    | .held => true
    | .barrier => true
    | .committing => true
    | .idle _ => true
    | _ => false)

/-- Once every member stands still, the core that stopped the task appends its dump; a page of the DUMP area that is not present is waited
for (R415). -/
def State.dumpDue (s : State) : State :=
  match s.members.find? fun c => c.dbg.lead.isSome && c.dbg.due.isSome with
  | none => s
  | some c =>
    if !s.members.all Core.standsStill then s
    else
      let home := s.core.id.toNat
      let s := s.focus c.id.toNat
      let done := fun (s : State) => s.onCore fun c => { c with dbg := { c.dbg with due := none } }
      (match s.armOf s.core.space, c.dbg.due, c.dbg.lead with
        | some a, some (cause, bp), some t =>
          let at_ := a.place s.dumped
          match if at_.2 = 0 then none else s.reachAll a.space at_.1 at_.2 with
          | some (.inr page) => s.askModule a.space page
          | _ => done (s.appendDump a cause bp t)
        | _, _, _ => done s).focus home

/-- A core holds its task before the bundle due. -/
def Core.hold (c : Core) (lead : Option Nat) : Core :=
  { c.thaw with
    phase := .held
    dbg := { c.dbg with request := false, steps := none, lead := lead, due := if lead.isSome then c.dbg.due else none } }

/-- DEBUG_STOP: the core freezes before the bundle that its stop test has met; the other members of a gang stop at their own next
boundaries. -/
def State.debugStop (s : State) (cause : BitVec 2) : State :=
  if s.core.phase = .held then s.dumpDue
  else
  match s.core.dbg.due with
  | none => s
  | some d =>
    if d.1 ≠ cause ∨ s.core.mid = true ∨ s.core.phase ≠ .ready then s
    else
      let first := s.members.all fun c => c.dbg.lead.isNone
      let s := s.onCore fun c => c.hold (if first then some c.reftime else none)
      let s := s.onMembers fun c => if c.phase = .held ∨ c.dbg.due.isSome = true then c else { c with dbg := { c.dbg with due := some d } }
      s.dumpDue

def execDebugStop (cause : BitVec 2) (s : State) : Host.Outcome State Fault Refusal := .next (s.debugStop cause)

/-! ### Resumes (R393) -/

/-- The sections of an image, with what follows them. -/
def sectsOf : Nat → List Byte → List Sect
  | 0, _ => []
  | n + 1, bs =>
    let k := fieldNat bs 8 8
    ⟨fieldNat bs 0 2, fieldNat bs 2 1, (bs.drop 16).take k⟩ :: sectsOf n (bs.drop (16 + padded k))

/-- The sections that an edited dump may change. -/
def editable (id : Nat) : Bool := id == 1 || id == 2 || id == 7 || id == 8

/-- Scalars of an edited dump; s0 stays 0. -/
def Ctx.editScalars (x : Ctx) (bs : List Byte) : Ctx :=
  { x with
    sregs := Vector.ofFn fun i : Fin 64 => if i.val = 0 then 0#64 else BitVec.ofNat 64 (fieldNat bs (8 * i.val) 8)
    badS := [] }

/-- Predicates of an edited dump; p0 stays all ones. -/
def Ctx.editPreds (x : Ctx) (bs : List Byte) : Ctx :=
  { x with pregs := Vector.ofFn fun i : Fin 32 =>
      if i.val = 0 then BitVec.allOnes 1024 else BitVec.ofNat 1024 (fieldNat bs (128 * i.val) 128) }

/-- The accumulator of an edited dump. -/
def Ctx.editAcc (x : Ctx) (bs : List Byte) : Ctx :=
  let groups := (List.range 64).filter fun g => fieldNat bs 0 8 / 2 ^ g % 2 == 1
  let rows := groups.zipIdx.flatMap fun g => (List.range 64).map fun r =>
    (64 * g.1 + r, BitVec.ofNat 16384 (fieldNat bs (8 + 131072 * g.2 + 2048 * r) 2048))
  { x with acc := rows.foldl (fun l p => assocSet 0#16384 l p.1 p.2) [], badRow := [] }

/-- One section of an edited dump enters what is held. -/
def Held.edit (h : Held) (t : Sect) : Held :=
  let on := fun (f : Ctx → Ctx) => { h with ctxs := h.ctxs.zipIdx.map fun p => if p.2 = t.mem then f p.1 else p.1 }
  match t.id with
  | 1 => on fun x => x.editScalars t.body
  | 2 => on fun x => x.editPreds t.body
  | 7 => on fun x => x.editAcc t.body
  | 8 => { h with spm := writeBytes [] 0 t.body }
  | _ => h

/-- How an edited dump is taken: refused, loaded, or an image that cannot be loaded (R228). -/
inductive Edit
  | refused
  | broken
  | loaded (h : Held)

/-- The edited image against what is held. -/
def Held.load (h : Held) (bs : List Byte) : Edit :=
  let l := sectsOf (fieldNat bs 0x18 2) (bs.drop 64)
  let rest := fun (l : List Sect) => l.filter fun t => !editable t.id
  if fieldNat bs 4 2 ≠ 1 ∨ fieldNat bs 0x10 8 ≠ imageSize l ∨ l.any (fun t => t.id == 0 || decide (12 < t.id)) = true then .broken
  else if bs.take 0x10 ≠ (h.image false).take 0x10 ∨ fieldNat bs 0x1A 1 ≠ h.ctxs.length ∨ rest l ≠ rest (h.sections false) then .refused
  else .loaded (l.foldl Held.edit h)

/-- The parts of a context that an edited dump may change. -/
def Ctx.edited (x y : Ctx) : Ctx := { x with sregs := y.sregs, pregs := y.pregs, acc := y.acc, badS := y.badS, badRow := y.badRow }

/-- The edited parts of the contexts and the scratchpad of the current core's task are replaced. -/
def State.putHeld (s : State) (h : Held) : State :=
  let ids := s.members.map fun c => c.id.toNat
  let inside := fun (a : Nat) => ids.contains (a / 2 ^ 20)
  let cells := h.spm.map fun (c : Nat × Byte) => (ids.getD (c.1 / 2 ^ 20) 0 * 2 ^ 20 + c.1 % 2 ^ 20, c.2)
  { s.mapCores fun c => (match ids.findIdx? fun i => i == c.id.toNat with
      | some k => { c with ctx := c.ctx.edited (h.ctxs.getD k c.ctx) }
      | none => c) with
    spm := writeCells (s.spm.filter fun c => !inside c.1) cells
    spmPoison := s.spmPoison.filter fun w => !inside (w * 8) }

/-- A held core issues again, first the bundle before which it stopped. One that GRACE has asked to leave leaves all the same, and is Ready
then (R394). -/
def Core.release (c : Core) (step : Nat) : Core :=
  let c := { c with leave := match c.leave with | some .debug => some .hard | l => l }
  let d : CoreDbg := { c.dbg with skip := true, due := none, request := false, lead := none, steps := if step = 0 then none else some step }
  if c.phase = .held then { c.thaw with phase := .ready, dbg := d } else { c with dbg := { d with skip := c.dbg.skip } }

/-- The held task of the current core resumes. -/
def State.resumeHere (s : State) (step : Nat) : State := s.onMembers fun c => c.release step

/-- A held task that has left its core is Ready again (R394). -/
def Node.release (n : Node) (step : Nat) : Node :=
  let ws := n.waits.filter fun w => w != .held
  { n with
    waits := ws
    st := if ws = [] then .ready else n.st
    dbg := List.replicate 4 { CoreDbg.reset with skip := true, steps := if step = 0 then none else some step } }

/-- A task that holds where DBGRESUME names it: on a core (the one that stopped it), or in its image. -/
inductive Target
  | core (id : Nat)
  | node (n : Node)

def State.targets (s : State) (sp : Space) (task : Nat) : List Target :=
  ((s.cores.filter fun c => c.phase == .held && c.dbg.lead.isSome && c.named sp task).map fun c => Target.core c.id.toNat)
    ++ (s.nodes.filter fun n => n.waits.contains .held && decide (n.space = sp) && (task == 0 || n.key.task == task)).map Target.node

/-- A task resumes as it is. -/
def State.release (s : State) (step : Nat) (t : Target) : State :=
  match t with
  | .core id => let home := s.core.id.toNat; (((s.focus id).resumeHere step)).focus home
  | .node n => s.setNode (n.release step)

/-- A task resumes from the edited image. -/
def State.releaseEdited (s : State) (step : Nat) (t : Target) (bs : List Byte) : Option State :=
  match t with
  | .core id =>
    let home := s.core.id.toNat
    let s := s.focus id
    (match s.dumped.load bs with
    | .refused => none
    | .broken => some (((s.resumeHere step).onCore fun c => c.raiseWhole .illegalEncoding 0).focus home)
    | .loaded h => some (((s.putHeld h).resumeHere step).focus home))
  | .node n =>
    match n.held.load bs with
    | .refused => none
    | .broken => some (s.endLaunch n.key ⟨.illegalEncoding, 0xFF#8, addrOf n.resume, 0#16, 0#64⟩)
    | .loaded h => some (s.setNode { n.release step with saved := h.ctxs, spm := h.spm })

/-- DBGRESUME. -/
def State.dbgResume (s : State) (c : Cmd) : State :=
  let sp := cmdSpace c
  let step := fieldNat c.body 8 4
  let va := BitVec.ofNat 64 (fieldNat c.body 16 8)
  let ts := s.targets sp (fieldNat c.body 4 4)
  if (s.tenantOf sp).isNone then s.finish c 5 0 []
  else if va = 0#64 then
    if ts.isEmpty then s.finish c 5 0 [] else (ts.foldl (fun s t => s.release step t) s).finish c 0 0 []
  else
    match ts with
    | [t] =>
      (match s.reachAll sp va 128 with
      | some (.inl _) => s.finish c 5 0 []
      | some (.inr a) => s.askModule sp a
      | none =>
        let n := fieldNat (s.peek sp va.toNat 128) 0x50 8
        match s.reachAll sp va (64 + n) with
        | some (.inl _) => s.finish c 5 0 []
        | some (.inr a) => s.askModule sp a
        | none =>
          match s.releaseEdited step t (s.peek sp (va.toNat + 64) n) with
          | some u => u.finish c 0 0 []
          | none => s.finish c 5 0 [])
    | _ => s.finish c 5 0 []

def execDbgresume (c : Cmd) (s : State) : Host.Outcome State Fault Refusal :=
  .next (s.command c 0x22#8 (cmdAtDebug c) (bodyNot c 24 || fieldNat c.body 3 1 != 0 || fieldNat c.body 12 4 != 0) State.dbgResume)

end Sys2Proof.Machine
end

