-- ==== Sys2Proof/Machine/Replay.lean ====
section
/-! DEFINITION. Event records, counters and replay (R396 to R404): TRACE, COUNTERS, the advance of HEAD, REPLAY, checkpoints, the
replay halt, and the Retriever. -/

namespace Sys2Proof.Machine

/-! ### TRACE (R397, R398, R400, R401) -/

/-- A field of a TRACE body is out of its range. -/
def traceRange (bs : List Byte) : Bool :=
  let size := fieldNat bs 0x18 8
  inRange 10 24 (fieldNat bs 4 1) && fieldNat bs 0x10 8 % 4096 == 0 && size % 4096 == 0 && decide (8192 ≤ size)

/-- The buffer, which lies in the tenant's space, is empty, and every source writes TIME first; its pages that are not present are waited for
(R415). -/
def State.traceCmd (s : State) (c : Cmd) : State :=
  let b := c.body
  let sp := cmdSpace c
  let sels := (chunks 2 32 (b.drop 0x20)).map fun x => BitVec.ofNat 16 (leNat x)
  let buf := BitVec.ofNat 64 (fieldNat b 0x10 8)
  if (s.tenantOf sp).isNone || !traceRange b || sels.any (fun x => decide (16 ≤ x.toNat % 64)) then s.finish c 5 0 []
  else
    match s.reachAll sp buf (fieldNat b 0x18 8) with
    | some (.inl _) => s.finish c 5 0 []
    | some (.inr a) => s.askModule sp a
    | none =>
      let t : Trace :=
        { space := sp, flags := BitVec.ofNat 8 (fieldNat b 3 1), period := fieldNat b 4 1, thresh := BitVec.ofNat 32 (fieldNat b 8 4)
          buf := buf, size := fieldNat b 0x18 8, head := 0, pend := 0, since := 0, lost := 0, lostBy := [], last := [] }
      let s : State := { s with
        traces := (s.traces.filter fun u => decide (u.space ≠ sp)) ++ [t]
        pmcs := s.pmcs.map fun p => if p.part = sp.part then { p with sels := sels } else p }
      let s := (s.poke sp t.buf.toNat (leBytes 8 0)).poke sp (t.buf.toNat + 16) (leBytes 8 0)
      s.finish c 0 0 []

def execTrace (c : Cmd) (s : State) : Host.Outcome State Fault Refusal :=
  .next (s.command c 0x23#8 (cmdAtDebug c)
    (bodyNot c 96 || decide (16 ≤ fieldNat c.body 3 1) || fieldNat c.body 5 3 != 0 || fieldNat c.body 12 4 != 0) State.traceCmd)

/-! ### COUNTERS (R390, R397) -/

/-- The lowest tenant of a partition, whose space a COUNTERS command writes (log entry 33). -/
def State.firstTenant (s : State) (part : Nat) : Option Space :=
  ((List.range 16).map fun v => (⟨part, v⟩ : Space)).find? fun sp => (s.tenantOf sp).isSome

def State.countersCmd (s : State) (c : Cmd) : State :=
  let part := cmdPart c
  let va := BitVec.ofNat 64 (fieldNat c.body 8 8)
  match s.pmcs.find? fun p => p.part == part, s.firstTenant part with
  | some p, some sp =>
    (match s.writable sp va 256 with
    | none => s.finish c 5 0 []
    | some (some a) => s.askModule sp a
    | some none =>
      let s := s.poke sp va.toNat (p.vals.flatMap fun v => leBytes 8 v.toNat)
      let s : State := if fieldNat c.body 2 2 % 2 = 1 then
        { s with pmcs := s.pmcs.map fun q => if q.part = part then { q with vals := List.replicate 32 0#64 } else q } else s
      s.finish c 0 0 [])
  | _, _ => s.finish c 5 0 []

def execCounters (c : Cmd) (s : State) : Host.Outcome State Fault Refusal :=
  .next (s.command c 0x24#8 (cmdAtDebug c) (bodyNot c 16 || decide (2 ≤ fieldNat c.body 2 2) || fieldNat c.body 4 4 != 0) State.countersCmd)

/-! ### HEAD (R401) -/

/-- Records have stood above HEAD for 1,024 ticks. -/
def State.headDue (s : State) (t : Trace) : Bool :=
  t.head != t.pend && decide (t.since + 1024 ≤ tickOf s.time) && (s.physOf t.space t.buf.toNat).isSome

/-- TRACE_HEAD_ADVANCE: HEAD reaches the last record written, by a release at system scope. -/
def State.headAdvance (s : State) (sp : Space) : State :=
  match s.traceOf sp with
  | none => s
  | some t =>
    if t.head = t.pend then s
    else
      match s.physOf sp t.buf.toNat with
      | none => s
      | some pa => (s.write pa (leBytes 8 t.pend) false [(64, s.now + 1, 4)]).setTrace { t with head := t.pend }

def execTraceHeadAdvance (sp : Space) (s : State) : Host.Outcome State Fault Refusal := .next (s.headAdvance sp)

/-! ### Checkpoints (R402) -/

/-- A LOST record in the trace buffers of a partition, from the walker of B0. -/
def State.lostRecord (s : State) (part : Nat) : State :=
  (s.traces.filter fun t => t.space.part == part).foldl (fun s t => s.emit t.space 112 (tickOf s.time) 0x03 0 0 0) s

/-- A core stands at a bundle boundary, does not run, or waits in the cycles of its bundle for late data or for a handle that nothing that stands
still can give it (R402). -/
def Core.holdsStill (c : Core) : Bool := c.atRest || (!c.mid && c.stalls && (c.lateFrom.isSome || c.blockedBy.isSome))

/-- A core of the clusters of a partition. -/
def Part.hasCore (p : Part) (c : Core) : Bool := p.clusters.getLsbD (clusterOf c.id)

/-- A byte of the partition's pages or sync frames. -/
def State.partByte (s : State) (part pa : Nat) : Bool :=
  (s.maps.any fun m => m.space.part == part && !m.remote && inFrame m.pa m.size pa)
    || s.frames.any fun f => f.2 == part && inFrame f.1 65536 pa

/-- What a checkpoint holds. -/
def State.capture (s : State) (p : Part) (number : Nat) : Checkpoint where
  part := p.id
  number := number
  cores := s.cores.filter p.hasCore
  nodes := s.nodes.filter fun n => n.key.part == p.id
  edges := s.edges.filter fun e => e.part == p.id
  launches := s.launches.filter fun l => l.space.part == p.id
  cqueues := s.cqueues.filter fun q => q.space.part == p.id
  versions := s.versions.filter fun v => v.key.part == p.id
  lineage := s.lineage.filter fun e => e.2.part == p.id
  mailboxes := s.mailboxes.filter fun m => s.partByte p.id m.1
  hwaits := s.hwaits.filter fun w => w.2.1.part == p.id
  jobs := s.jobs.filter fun j => j.owner.key.part == p.id
  images := s.maps.filter fun m => m.space.part == p.id && m.isImage
  mem := s.mem.filter fun c => s.partByte p.id c.1
  spm := (s.settleSpm fun _ => true).spm.filter fun c => p.clusters.getLsbD (c.1 / 2 ^ 22)

/-- The area of a recording lies in the partition's HBM4E, in the space of its lowest tenant (log entry 33): none where it does not, a page to wait
for, or the space. -/
def State.areaIn (s : State) (part : Nat) (area : Word) (n : Nat) : Option (Nat ⊕ Space) :=
  match s.firstTenant part with
  | none => none
  | some sp =>
    let hbm := (pagesOf area n).all fun a => match s.mappingOf sp a.toNat with | some m => !m.remote && decide (m.pa < hbmSize) | none => false
    match s.reachAll sp area n with
    | some (.inl _) => none
    | some (.inr a) => some (.inl a)
    | none => if hbm then some (.inr sp) else none

/-- CHECKPOINT: once every core of the partition stands at a bundle boundary, what it holds is saved; without room recording ends. -/
def State.checkpoint (s : State) (part : Nat) : State :=
  match s.partOf part, s.replayOf part with
  | some p, some r =>
    if !r.checkpointDue (tickOf s.time) || (s.cores.any fun c => p.hasCore c && !c.holdsStill) then s
    else
      let bytes := Config.checkpointBytes s.picks
      let size := bytes.length
      let s : State := { s with picks := s.picks + 1 }
      if r.size < r.used + size then (s.lostRecord part).setReplay { r with mode := 0 }
      else
        let s : State := { s with checkpoints := s.checkpoints ++ [s.capture p r.count] }
        let s := match s.firstTenant part with | some sp => s.poke sp (r.area.toNat + r.used) bytes | none => s
        s.setReplay { r with
          last := tickOf s.time, used := r.used + size, count := r.count + 1
          log := r.log ++ [⟨9, 0, tickOf s.time, r.count, []⟩], mark := r.log.length + 1 }
  | _, _ => s

def execCheckpoint (p : Nat) (s : State) : Host.Outcome State Fault Refusal := .next (s.checkpoint p)

/-- A core as a checkpoint holds it, from the time that this core has reached; what it may see starts afresh, and so does the window of
its task, after eight clocks in which the core issues nothing (R62). -/
def Core.restored (c k : Core) (now : Nat) : Core :=
  let k : Core := { k with time := c.time, lastIssue := c.lastIssue, views := [], viewBase := now, weights := [], weight := 0 }
  match c.lastIssue with
  | some t => if k.task.isSome then k.reach (t + 9 * clockOf c.id) else k
  | none => k

/-- The partition is as the checkpoint holds it. -/
def State.restore (s : State) (p : Part) (k : Checkpoint) : State :=
  let out := fun (n : Nat) => n != p.id
  let old := s.mem.filter fun c => !s.partByte p.id c.1
  let hist := s.hist.filter fun h => !s.partByte p.id h.addr
  let boxes := s.mailboxes.filter fun m => !s.partByte p.id m.1
  let mine := s.lineage.filter fun e => e.2.part == p.id
  let lineage := (mine.map Prod.fst).foldl (fun l i => assocSet Lineage.free l i Lineage.free) s.lineage
  { s.mapCores fun c => (match k.cores.find? fun d => d.id == c.id with | some d => c.restored d s.now | none => c) with
    nodes := (s.nodes.filter fun n => out n.key.part) ++ k.nodes
    edges := (s.edges.filter fun e => out e.part) ++ k.edges
    launches := (s.launches.filter fun l => out l.space.part) ++ k.launches
    cqueues := (s.cqueues.filter fun q => out q.space.part) ++ k.cqueues
    versions := (s.versions.filter fun v => out v.key.part) ++ k.versions
    lineage := k.lineage.foldl (fun l e => assocSet Lineage.free l e.1 e.2) lineage
    mailboxes := boxes ++ k.mailboxes
    hwaits := (s.hwaits.filter fun w => out w.2.1.part) ++ k.hwaits
    jobs := (s.jobs.filter fun j => out j.owner.key.part) ++ k.jobs
    peers := s.peers.filter fun q => out q.space.part
    hostReqs := s.hostReqs.filter fun q => out q.space.part
    maps := (s.maps.filter fun m => !(m.space.part == p.id && m.isImage)) ++ k.images
    hist := hist
    mem := writeCells old k.mem
    spm := writeCells (s.spm.filter fun c => !p.clusters.getLsbD (c.1 / 2 ^ 22)) k.spm
    spmLate := s.spmLate.filter fun c => !p.clusters.getLsbD (c.1 / 2 ^ 22) }

/-! ### REPLAY (R402 to R404) -/

/-- The entries of a log after checkpoint n. -/
def afterMark (n : Nat) : List LogEntry → List LogEntry
  | [] => []
  | e :: t => if e.kind = 9 ∧ e.val = n then t else afterMark n t

def State.putReplay (s : State) (r : Replay) : State := { s with replays := (s.replays.filter fun q => q.part != r.part) ++ [r] }

/-- MODE 0 ends recording or replay; out of a replay halt, it resets the partition. -/
def State.endReplay (s : State) (p : Part) : State :=
  let halted := match s.replayOf p.id with | some r => r.halted | none => false
  let s : State := { s with replays := s.replays.filter fun q => q.part != p.id }
  if halted then s.resetPart p [] else s

/-- The replay modes restore a checkpoint, and give the partition its log from there. -/
def State.startReplay (s : State) (p : Part) (mode ckpt : Nat) : Option State :=
  match s.checkpoints.find? fun k => k.part == p.id && k.number == ckpt, s.replayOf p.id with
  | some k, some r =>
    let full := if r.full = [] then r.log else r.full
    let s := s.restore p k
    let rest := (afterMark ckpt full).filter fun e => e.kind != 9
    let q : Replay := { r with mode := mode, ckpt := ckpt, last := tickOf s.time, lack := false, halted := false, full := full, log := rest }
    some (s.putReplay q)
  | _, _ => none

/-- REPLAY. -/
def State.replayCmd (s : State) (c : Cmd) : State :=
  let b := c.body
  let mode := fieldNat b 2 1
  let period := orDefault (fieldNat b 4 4) 10
  match s.partOf (cmdPart c) with
  | none => s.finish c 5 0 []
  | some p =>
    if decide (4 < mode) || !inRange 1 1000 period || (decide (3 ≤ mode) && !p.flags.getLsbD 0) then s.finish c 5 0 []
    else if mode = 0 then (s.endReplay p).finish c 0 0 []
    else if mode = 1 ∨ mode = 3 then
      match s.areaIn p.id (BitVec.ofNat 64 (fieldNat b 12 8)) (fieldNat b 20 8) with
      | none => s.finish c 5 0 []
      | some (.inl a) => (match s.firstTenant p.id with | some sp => s.askModule sp a | none => s)
      | some (.inr _) =>
      let s : State := { s with checkpoints := s.checkpoints.filter fun k => k.part != p.id }
      (s.putReplay { part := p.id, mode := mode, period := period, last := tickOf s.time, area := BitVec.ofNat 64 (fieldNat b 12 8)
                     size := fieldNat b 20 8, used := 0, count := 0, mark := 0, ckpt := 0, lack := false, halted := false, full := [], log := [] }).finish c 0 0 []
    else match s.startReplay p mode (fieldNat b 8 4) with
      | some t => t.finish c 0 0 []
      | none => s.finish c 5 0 []

def execReplay (c : Cmd) (s : State) : Host.Outcome State Fault Refusal :=
  .next (s.command c 0x25#8 (cmdAtDebug c) (bodyNot c 28 || fieldNat c.body 3 1 != 0) State.replayCmd)

/-- REPLAY_HALT: a step found no matching entry; the partition halts. -/
def execReplayHalt (p : Nat) (s : State) : Host.Outcome State Fault Refusal :=
  .next (match s.replayOf p with
    | some r => if r.lack && !r.halted then (s.lostRecord p).setReplay { r with halted := true } else s
    | none => s)

/-! ### The Retriever (R404)

The log of MODE 3 holds each arrival as a string of bytes: a code, and the fields of the event. -/

/-- The event that a command is. -/
def cmdEvent (c : Cmd) : Option Instr :=
  match c.op.toNat with
  | 0x01 => some (.launch c)
  | 0x02 => some (.copy c)
  | 0x03 => some (.waitevent c)
  | 0x04 => some (.signalevent c)
  | 0x05 => some (.resizeack c)
  | 0x10 => some (.map c)
  | 0x11 => some (.unmap c)
  | 0x12 => some (.partcreate c)
  | 0x13 => some (.partresize c)
  | 0x14 => some (.partdestroy c)
  | 0x15 => some (.vdevcreate c)
  | 0x16 => some (.vdevset c)
  | 0x17 => some (.queuecreate c)
  | 0x18 => some (.queuedestroy c)
  | 0x19 => some (.energy c)
  | 0x1A => some (.summary c)
  | 0x1B => some (.attest c)
  | 0x1C => some (.alarmset c)
  | 0x1D => some (.queuereset c)
  | 0x20 => some (.dbgarm c)
  | 0x21 => some (.dbgstop c)
  | 0x22 => some (.dbgresume c)
  | 0x23 => some (.trace c)
  | 0x24 => some (.counters c)
  | 0x25 => some (.replay c)
  | _ => none

/-- A command as a packet: its port, its source and the bytes of its send. -/
def cmdPacket (c : Cmd) : List Byte := leBytes 1 1 ++ leBytes 1 c.port.val ++ leBytes 8 c.src ++ c.bytes

/-- Who makes a UET access, as its packet has it. -/
def UetTag.packet (t : UetTag) : List Byte := leBytes 8 t.tag.toNat ++ leBytes 8 t.src ++ leBytes 1 t.port.val

def portOf (n : Nat) : Fin 12 := ⟨n % 12, Nat.mod_lt _ (by decide)⟩

def uetTagOf (bs : List Byte) : UetTag := ⟨fieldNat bs 8 8, portOf (fieldNat bs 16 1), BitVec.ofNat 64 (fieldNat bs 0 8)⟩

/-- A request to a peer, by its number. -/
def State.peerById (s : State) (id : Nat) : Option Peer := s.peers.find? fun p => p.id == id

/-- The port by which an arrival comes: that of its send or access, or the one by which the request went that a peer answers; that of a peer's
arrival, which names no source, is free (log entry 44). -/
def State.arrivalPort (s : State) : Instr → Nat
  | .peerAck id => (match s.peerById id with | some p => p.port.val | none => 0)
  | .peerReadResponse id _ => (match s.peerById id with | some p => p.port.val | none => 0)
  | .hostUetWrite _ _ _ tag => tag.port.val
  | .hostUetRead _ _ _ tag => tag.port.val
  | .launch c => c.port.val
  | .copy c => c.port.val
  | .waitevent c => c.port.val
  | .signalevent c => c.port.val
  | .resizeack c => c.port.val
  | .map c => c.port.val
  | .unmap c => c.port.val
  | _ => Config.peerPort s.picks % 12

/-- The bytes of an arrival, and the partition it is for. -/
def arrivalPacket : Instr → Option (Nat × List Byte)
  | .launch c => (match c.ep with | .part p => some (p, cmdPacket c) | _ => none)
  | .copy c => (match c.ep with | .part p => some (p, cmdPacket c) | _ => none)
  | .waitevent c => (match c.ep with | .part p => some (p, cmdPacket c) | _ => none)
  | .signalevent c => (match c.ep with | .part p => some (p, cmdPacket c) | _ => none)
  | .resizeack c => (match c.ep with | .part p => some (p, cmdPacket c) | _ => none)
  | .map c => (match c.ep with | .part p => some (p, cmdPacket c) | _ => none)
  | .unmap c => (match c.ep with | .part p => some (p, cmdPacket c) | _ => none)
  | .hostUetWrite sp va bs tag => some (sp.part, leBytes 1 2 ++ leBytes 1 sp.vdev ++ leBytes 8 va.toNat ++ UetTag.packet tag ++ bs)
  | .hostUetRead sp va n tag => some (sp.part, leBytes 1 3 ++ leBytes 1 sp.vdev ++ leBytes 8 va.toNat ++ UetTag.packet tag ++ leBytes 8 n)
  | .peerArrival sp va n => some (sp.part, leBytes 1 4 ++ leBytes 1 sp.vdev ++ leBytes 8 va.toNat ++ leBytes 3 n.toNat)
  | _ => none

/-- The arrival that a logged packet stands for. -/
def arrivalOf (part : Nat) (bs : List Byte) : Option Instr :=
  let sp : Space := ⟨part, fieldNat bs 1 1⟩
  let va := BitVec.ofNat 64 (fieldNat bs 2 8)
  match fieldNat bs 0 1 with
  | 1 => cmdEvent
      { arriving := true, ep := .part part, port := portOf (fieldNat bs 1 1), src := fieldNat bs 2 8, bytes := bs.drop 10 }
  | 2 => some (.hostUetWrite sp va (bs.drop 27) (uetTagOf (bs.drop 10)))
  | 3 => some (.hostUetRead sp va (fieldNat bs 27 8) (uetTagOf (bs.drop 10)))
  | 4 => some (.peerArrival sp va (BitVec.ofNat 24 (fieldNat bs 10 3)))
  | _ => none

/-- A peer's answer names the request that it answers. -/
def Peer.packet (p : Peer) : List Byte :=
  leBytes 1 p.space.vdev ++ leBytes 8 p.core ++ leBytes 1 p.q.toNat ++ leBytes 8 p.dst.toNat ++ leBytes 8 p.len

/-- An arrival as the log has it, with its partition. -/
def State.packetOf (s : State) (i : Instr) : Option (Nat × List Byte) :=
  match i with
  | .peerAck id => (s.peerById id).map fun p => (p.space.part, leBytes 1 5 ++ p.packet)
  | .peerReadResponse id bs => (s.peerById id).map fun p => (p.space.part, leBytes 1 6 ++ p.packet ++ bs)
  | i => arrivalPacket i

/-- The arrival that a logged packet stands for comes: a peer answers, once its request is made; any other waits in the inbox. -/
def State.answer (s : State) (part : Nat) (bs : List Byte) : Option State :=
  let asked := fun (read : Bool) => s.peers.find? fun p =>
    p.space.part == part && p.read == read && p.packet == (bs.drop 1).take 26
  match fieldNat bs 0 1 with
  | 5 => (asked false).map fun p => s.peerAcked p
  | 6 => (asked true).map fun p => if (bs.drop 27).length = p.len then s.peerPut p (bs.drop 27) else s
  | _ => (arrivalOf part bs).map fun i => { s with inbox := i :: s.inbox }

/-- An entry of the log of a partition in MODE 3; in MODE 1 the log has the commands alone (R403). -/
def State.retrieverLog (s : State) (part kind val : Nat) (bs : List Byte) : State :=
  match s.replayOf part with
  | some r =>
    if r.mode = 3 ∨ (r.mode = 1 ∧ kind = 5 ∧ fieldNat bs 0 1 = 1) then s.setReplay { r with log := r.log ++ [⟨kind, 0, tickOf s.time, val, bs⟩] }
    else s
  | none => s

/-- An arrival enters the log as the module takes it. -/
def State.logArrival (s : State) (i : Instr) : State :=
  match s.packetOf i with
  | some (part, bs) => { s with picks := s.picks + 1 }.retrieverLog part 5 (s.arrivalPort i) bs
  | none => s

/-- BUFFER_SLOT_RETURN. -/
def execBufferSlotReturn (p : Nat) (port : BitVec 4) (s : State) : Host.Outcome State Fault Refusal :=
  .next (s.retrieverLog p 4 port.toNat [])

/-- A logged arrival or buffer-slot return is due, by its offset from the checkpoint. -/
def State.injectable (s : State) (r : Replay) (e : LogEntry) : Bool :=
  match s.checkpoints.find? fun k => k.part == r.part && k.number == r.ckpt with
  | some _ =>
    let base := match r.full.find? fun m => m.kind == 9 && m.val == r.ckpt with | some m => m.tick | none => 0
    decide (e.tick - base ≤ tickOf s.time - r.last) && (e.kind == 4 || (s.answer r.part e.data).isSome)
  | none => false

/-- The first arrival or buffer-slot return of the log, and the log without it. -/
def takeArrival : List LogEntry → Option (LogEntry × List LogEntry)
  | [] => none
  | e :: t => if e.kind = 4 ∨ e.kind = 5 then some (e, t) else (takeArrival t).map fun r => (r.1, e :: r.2)

/-- What the module gives the partition next in replay. -/
def State.nextArrival (s : State) (r : Replay) : Option (LogEntry × List LogEntry) :=
  if r.replaying && !r.halted then
    (match takeArrival r.log with | some x => if s.injectable r x.1 then some x else none | none => none)
  else none

/-- RETRIEVER_INJECTION: a port gives the partition a logged arrival, or stands for a peer's buffer-slot return. -/
def State.inject (s : State) (part : Nat) (port : BitVec 4) (bs : List Byte) : State :=
  match s.replayOf part with
  | none => s
  | some r =>
    match s.nextArrival r with
    | some (e, rest) =>
      if e.data = bs ∧ e.val = port.toNat then
        let s := s.setReplay { r with log := rest }
        (s.answer part bs).getD s
      else s
    | none => s

def execRetrieverInjection (p : Nat) (port : BitVec 4) (bytes : List Byte) (s : State) : Host.Outcome State Fault Refusal :=
  .next (s.inject p port bytes)

end Sys2Proof.Machine
end

