-- ==== Sys2Proof/Machine/Bodies.lean ====
section
/-! DEFINITION. The bodies that penim-x builds for objects of another device hash (R345 to R347). What a translation writes is
not described: the body of a BODY_PUBLISH is what the translator has built. -/

namespace Sys2Proof.Machine

/-- The core in whose fetch the translation of a stub began: one that waits for it. -/
def State.stubWaiter (s : State) (b : Stub) : Option Core :=
  s.cores.find? fun c => c.phase == .ready && decide (c.space = b.space) && c.task.isSome
    && decide (b.stub ≤ (addrOf c.ctx.pc).toNat ∧ (addrOf c.ctx.pc).toNat < b.stub + 128)

/-! ### Publication (R346) -/

/-- The first place behind a stub's page where n pages are not mapped. -/
def State.bodyPlace (s : State) (sp : Space) (stub n : Nat) : Option Nat :=
  ((List.range 4096).map fun k => (stub / 65536 + 1 + k) * 65536).find? fun va =>
    !s.maps.any fun m => decide (m.space = sp) && meets va (n * 65536) m.va m.size

/-- A page of the code heap comes to stand on a free frame; none where no frame is free. -/
def State.heapBacked (s : State) (sp : Space) (va : Nat) : Option State :=
  match s.freeFrame 0 hbmSize 65536 with
  | (some pa, s) =>
    let s := s.zeroFrame pa 65536
    some { s with maps := (s.maps.filter fun n => !(decide (n.space = sp) && n.va == va)) ++ [heapPage sp va (some pa)] }
  | (none, _) => none

/-- The page of a stub and n pages for its body, all present. -/
def State.heapPages (s : State) (b : Stub) (n va : Nat) : Option State :=
  (List.range n).foldl (fun x k => x.bind fun s => s.heapBacked b.space (va + 65536 * k)) (s.heapBacked b.space (b.stub / 65536 * 65536))

/-- The first bundle of a stub: BR to the body. -/
def stubBundle (stub body : Nat) : BitVec 512 :=
  encodeBundle 0#32 [.br ⟨0#5, false⟩ (BitVec.ofInt 24 (((body : Int) - (stub : Int)) / 64))]

/-- The loader's checks of a body (R65, R346), as a task entry of its own. -/
def State.bodyOk (_s : State) (p : Part) (body : List Byte) : Bool :=
  body.length % 64 == 0 && decide (64 ≤ body.length) &&
    (p.flags.getLsbD 1 || (loaderReport (p.flags.getLsbD 0) p.a1.toNat p.aw.toNat p.pspan.toNat ⟨[(0, 1)], [], []⟩
      ((chunks 64 (body.length / 64) body).map fun b => BitVec.ofNat 512 (leNat b)) []).isNone)

/-- The body stands complete on its pages, which are present, and then one write switches the stub. -/
def State.publish (s : State) (b : Stub) (body : List Byte) (va : Nat) : State :=
  let s := s.poke b.space va body
  let s := s.poke b.space b.stub (leBytes 64 (stubBundle b.stub va).toNat)
  let s : State := { s with stubs := s.stubs.map fun c =>
    if c.space = b.space ∧ c.stub = b.stub then { c with body := some (va, body.length) } else c }
  s.heapMove b.space.part fun u => u + body.length

/-- BODY_PUBLISH: a body that a fetch waits for is published; where the code heap has no room for it, that launch ends. -/
def State.bodyPublish (s : State) (sp : Space) (stub : Nat) (body : List Byte) : State :=
  match s.stubs.find? fun b => decide (b.space = sp) && b.stub == stub && b.body.isNone, s.partOf sp.part with
  | some b, some p =>
    (match s.stubWaiter b with
    | none => s
    | some c =>
      if !s.bodyOk p body then s
      else
        let s := s.evictFor p.id body.length
        let used := match s.partOf p.id with | some q => q.heapUsed | none => p.heapUsed
        if p.heap < used + body.length then
          let s := s.endLaunchAt c.owner.key (bareFault .xlateMiss) c.id.toNat
          s.onLaunch p.id c.owner.key.launch fun l =>
            if l.endCore = c.id.toNat ∧ l.endTick = tickOf s.time then { l with lack := some (used + body.length - p.heap) } else l
        else
          let n := (body.length + 65535) / 65536
          match s.bodyPlace sp stub n with
          | some va => (match s.heapPages b n va with | some t => t.publish b body va | none => s)
          | none => s)
  | _, _ => s

def execBodyPublish (sp : Space) (stub : Nat) (body : List Byte) (s : State) : Host.Outcome State Fault Refusal :=
  .next (s.bodyPublish sp stub body)

end Sys2Proof.Machine
end

