-- ==== Sys2Proof/Machine/Scalar.lean ====
section
/-! DEFINITION. The scalar slots, SA and SB (R139 to R150). -/

namespace Sys2Proof.Machine

/-- The slot index of SA or SB. -/
def scalarSlot (u : Bool) : Nat := if u then 2 else 1

/-- A 64-bit result. -/
def Ctx.scalarOut (x : Ctx) (u : Bool) (lat : Nat) (flags : FlagSet) (d : BitVec 6) (v : Word) : Ctx :=
  x.push (scalarSlot u) lat flags (.s d v)

/-- A predicate result of all 1,024 bits. -/
def Ctx.predOut (x : Ctx) (u : Bool) (lat : Nat) (pd : BitVec 5) (v : Pred) : Ctx :=
  x.push (scalarSlot u) lat 0#6 (.p (physPred x.rrb pd) (BitVec.allOnes 1024) v)

/-- An outcome in every bit of a predicate (R144). -/
def allPred (b : Bool) : Pred := if b then BitVec.allOnes 1024 else 0#1024

/-- Two scalar sources to a scalar. -/
def scalarTwo (u : Bool) (g : Guard) (lat : Nat) (d a b : BitVec 6) (f : Word → Word → Word) (s : State) :
    Host.Outcome State Fault Refusal :=
  guarded g s fun c => c.onCtx fun x => x.scalarOut u lat 0#6 d (f (x.getS a) (x.getS b))

/-- One scalar source to a scalar. -/
def scalarOne (u : Bool) (g : Guard) (d a : BitVec 6) (f : Word → Word) (s : State) :
    Host.Outcome State Fault Refusal :=
  guarded g s fun c => c.onCtx fun x => x.scalarOut u 1 0#6 d (f (x.getS a))

/-- Two scalar sources to a predicate. -/
def compareTwo (u : Bool) (g : Guard) (pd : BitVec 5) (a b : BitVec 6) (f : Word → Word → Bool) (s : State) :
    Host.Outcome State Fault Refusal :=
  guarded g s fun c => c.onCtx fun x => x.predOut u 1 pd (allPred (f (x.getS a) (x.getS b)))

/-- A scalar source and an immediate to a predicate. -/
def compareImm (u : Bool) (g : Guard) (pd : BitVec 5) (a : BitVec 6) (imm : BitVec 22) (f : Word → Word → Bool)
    (s : State) : Host.Outcome State Fault Refusal :=
  guarded g s fun c => c.onCtx fun x => x.predOut u 1 pd (allPred (f (x.getS a) (imm.signExtend 64)))

/-- Two predicates to a predicate. -/
def predTwo (u : Bool) (g : Guard) (pd pa pb : BitVec 5) (f : Pred → Pred → Pred) (s : State) :
    Host.Outcome State Fault Refusal :=
  guarded g s fun c => c.onCtx fun x => x.predOut u 1 pd (f (x.getP pa) (x.getP pb))

/-! ### Integer operations (R141 to R143) -/

/-- The number of one bits among the low `n`. -/
def popNat (x : Nat) : Nat → Nat
  | 0 => 0
  | n + 1 => popNat x n + (if x.testBit n then 1 else 0)

/-- Leading zero bits of a 64-bit value. -/
def clzWord (a : Word) : Nat := if a = 0#64 then 64 else 63 - Nat.log2 a.toNat

/-- Shifts by the whole of the count register, read unsigned; 64 and above clear or fill. -/
def shiftLeft64 (a : Word) (n : Nat) : Word := if 64 ≤ n then 0#64 else a <<< n
def shiftRight64 (a : Word) (n : Nat) : Word := if 64 ≤ n then 0#64 else a >>> n
def shiftArith64 (a : Word) (n : Nat) : Word := a.sshiftRight (min n 63)

/-- bits(a, HI, LO), zero-extended. -/
def extractBits (a : Word) (hi lo : BitVec 6) : Word :=
  BitVec.ofNat 64 (a.toNat / 2 ^ lo.toNat % 2 ^ (hi.toNat - lo.toNat + 1))

def execAdd (u : Bool) (g : Guard) (d a b : BitVec 6) (s : State) : Host.Outcome State Fault Refusal :=
  scalarTwo u g 1 d a b (fun a b => a + b) s

def execSub (u : Bool) (g : Guard) (d a b : BitVec 6) (s : State) : Host.Outcome State Fault Refusal :=
  scalarTwo u g 1 d a b (fun a b => a - b) s

def execAddi (u : Bool) (g : Guard) (d a : BitVec 6) (imm : BitVec 22) (s : State) : Host.Outcome State Fault Refusal :=
  scalarOne u g d a (fun a => a + imm.signExtend 64) s

def execMul (u : Bool) (g : Guard) (d a b : BitVec 6) (s : State) : Host.Outcome State Fault Refusal :=
  scalarTwo u g 3 d a b (fun a b => a * b) s

def execMulh (u : Bool) (g : Guard) (d a b : BitVec 6) (s : State) : Host.Outcome State Fault Refusal :=
  scalarTwo u g 3 d a b (fun a b => (((a.signExtend 128) * (b.signExtend 128)).extractLsb' 64 64)) s

def execMulhu (u : Bool) (g : Guard) (d a b : BitVec 6) (s : State) : Host.Outcome State Fault Refusal :=
  scalarTwo u g 3 d a b (fun a b => BitVec.ofNat 64 (a.toNat * b.toNat / 2 ^ 64)) s

def execAnd (u : Bool) (g : Guard) (d a b : BitVec 6) (s : State) : Host.Outcome State Fault Refusal :=
  scalarTwo u g 1 d a b (fun a b => a &&& b) s

def execOr (u : Bool) (g : Guard) (d a b : BitVec 6) (s : State) : Host.Outcome State Fault Refusal :=
  scalarTwo u g 1 d a b (fun a b => a ||| b) s

def execXor (u : Bool) (g : Guard) (d a b : BitVec 6) (s : State) : Host.Outcome State Fault Refusal :=
  scalarTwo u g 1 d a b (fun a b => a ^^^ b) s

def execAndn (u : Bool) (g : Guard) (d a b : BitVec 6) (s : State) : Host.Outcome State Fault Refusal :=
  scalarTwo u g 1 d a b (fun a b => a &&& ~~~b) s

def execShl (u : Bool) (g : Guard) (d a b : BitVec 6) (s : State) : Host.Outcome State Fault Refusal :=
  scalarTwo u g 1 d a b (fun a b => shiftLeft64 a b.toNat) s

def execShr (u : Bool) (g : Guard) (d a b : BitVec 6) (s : State) : Host.Outcome State Fault Refusal :=
  scalarTwo u g 1 d a b (fun a b => shiftRight64 a b.toNat) s

def execSar (u : Bool) (g : Guard) (d a b : BitVec 6) (s : State) : Host.Outcome State Fault Refusal :=
  scalarTwo u g 1 d a b (fun a b => shiftArith64 a b.toNat) s

def execShli (u : Bool) (g : Guard) (d a n : BitVec 6) (s : State) : Host.Outcome State Fault Refusal :=
  scalarOne u g d a (fun a => shiftLeft64 a n.toNat) s

def execShri (u : Bool) (g : Guard) (d a n : BitVec 6) (s : State) : Host.Outcome State Fault Refusal :=
  scalarOne u g d a (fun a => shiftRight64 a n.toNat) s

def execSari (u : Bool) (g : Guard) (d a n : BitVec 6) (s : State) : Host.Outcome State Fault Refusal :=
  scalarOne u g d a (fun a => shiftArith64 a n.toNat) s

def execMin (u : Bool) (g : Guard) (d a b : BitVec 6) (s : State) : Host.Outcome State Fault Refusal :=
  scalarTwo u g 1 d a b (fun a b => if a.toInt < b.toInt then a else b) s

def execMax (u : Bool) (g : Guard) (d a b : BitVec 6) (s : State) : Host.Outcome State Fault Refusal :=
  scalarTwo u g 1 d a b (fun a b => if a.toInt < b.toInt then b else a) s

def execMinu (u : Bool) (g : Guard) (d a b : BitVec 6) (s : State) : Host.Outcome State Fault Refusal :=
  scalarTwo u g 1 d a b (fun a b => if a < b then a else b) s

def execMaxu (u : Bool) (g : Guard) (d a b : BitVec 6) (s : State) : Host.Outcome State Fault Refusal :=
  scalarTwo u g 1 d a b (fun a b => if a < b then b else a) s

def execClz (u : Bool) (g : Guard) (d a : BitVec 6) (s : State) : Host.Outcome State Fault Refusal :=
  scalarOne u g d a (fun a => BitVec.ofNat 64 (clzWord a)) s

def execPopc (u : Bool) (g : Guard) (d a : BitVec 6) (s : State) : Host.Outcome State Fault Refusal :=
  scalarOne u g d a (fun a => BitVec.ofNat 64 (popNat a.toNat 64)) s

def execMovi (u : Bool) (g : Guard) (d : BitVec 6) (imm : BitVec 28) (s : State) : Host.Outcome State Fault Refusal :=
  guarded g s fun c => c.onCtx fun x => x.scalarOut u 1 0#6 d (imm.signExtend 64)

/-- MOVHI reads its destination. -/
def execMovhi (u : Bool) (g : Guard) (d : BitVec 6) (imm : BitVec 28) (s : State) : Host.Outcome State Fault Refusal :=
  scalarOne u g d d (fun a => (a <<< 28) ||| imm.setWidth 64) s

def execShadd (u : Bool) (g : Guard) (d a b : BitVec 6) (sh : BitVec 3) (s : State) : Host.Outcome State Fault Refusal :=
  scalarTwo u g 1 d a b (fun a b => (a <<< sh.toNat) + b) s

def execSel (u : Bool) (g : Guard) (d a b : BitVec 6) (ps : BitVec 5) (s : State) : Host.Outcome State Fault Refusal :=
  guarded g s fun c => c.onCtx fun x =>
    x.scalarOut u 1 0#6 d (if (x.getP ps).getLsbD 0 then x.getS a else x.getS b)

def execExtu (u : Bool) (g : Guard) (d a hi lo : BitVec 6) (s : State) : Host.Outcome State Fault Refusal :=
  scalarOne u g d a (fun a => extractBits a hi lo) s

/-! ### Compares (R144) -/

def execCmpeq (u : Bool) (g : Guard) (pd : BitVec 5) (a b : BitVec 6) (s : State) : Host.Outcome State Fault Refusal :=
  compareTwo u g pd a b (fun a b => decide (a = b)) s

def execCmpne (u : Bool) (g : Guard) (pd : BitVec 5) (a b : BitVec 6) (s : State) : Host.Outcome State Fault Refusal :=
  compareTwo u g pd a b (fun a b => decide (a ≠ b)) s

def execCmplt (u : Bool) (g : Guard) (pd : BitVec 5) (a b : BitVec 6) (s : State) : Host.Outcome State Fault Refusal :=
  compareTwo u g pd a b (fun a b => decide (a.toInt < b.toInt)) s

def execCmple (u : Bool) (g : Guard) (pd : BitVec 5) (a b : BitVec 6) (s : State) : Host.Outcome State Fault Refusal :=
  compareTwo u g pd a b (fun a b => decide (a.toInt ≤ b.toInt)) s

def execCmpltu (u : Bool) (g : Guard) (pd : BitVec 5) (a b : BitVec 6) (s : State) : Host.Outcome State Fault Refusal :=
  compareTwo u g pd a b (fun a b => decide (a < b)) s

def execCmpleu (u : Bool) (g : Guard) (pd : BitVec 5) (a b : BitVec 6) (s : State) : Host.Outcome State Fault Refusal :=
  compareTwo u g pd a b (fun a b => decide (a ≤ b)) s

def execCmpeqi (u : Bool) (g : Guard) (pd : BitVec 5) (a : BitVec 6) (imm : BitVec 22) (s : State) :
    Host.Outcome State Fault Refusal :=
  compareImm u g pd a imm (fun a b => decide (a = b)) s

def execCmplti (u : Bool) (g : Guard) (pd : BitVec 5) (a : BitVec 6) (imm : BitVec 22) (s : State) :
    Host.Outcome State Fault Refusal :=
  compareImm u g pd a imm (fun a b => decide (a.toInt < b.toInt)) s

/-! ### Predicate operations (R145) -/

def execPand (u : Bool) (g : Guard) (pd pa pb : BitVec 5) (s : State) : Host.Outcome State Fault Refusal :=
  predTwo u g pd pa pb (fun a b => a &&& b) s

def execPor (u : Bool) (g : Guard) (pd pa pb : BitVec 5) (s : State) : Host.Outcome State Fault Refusal :=
  predTwo u g pd pa pb (fun a b => a ||| b) s

def execPxor (u : Bool) (g : Guard) (pd pa pb : BitVec 5) (s : State) : Host.Outcome State Fault Refusal :=
  predTwo u g pd pa pb (fun a b => a ^^^ b) s

def execPandn (u : Bool) (g : Guard) (pd pa pb : BitVec 5) (s : State) : Host.Outcome State Fault Refusal :=
  predTwo u g pd pa pb (fun a b => a &&& ~~~b) s

def execPnot (u : Bool) (g : Guard) (pd pa : BitVec 5) (s : State) : Host.Outcome State Fault Refusal :=
  guarded g s fun c => c.onCtx fun x => x.predOut u 1 pd (~~~x.getP pa)

def execPmov (u : Bool) (g : Guard) (pd pa : BitVec 5) (s : State) : Host.Outcome State Fault Refusal :=
  guarded g s fun c => c.onCtx fun x => x.predOut u 1 pd (x.getP pa)

def execPsetn (u : Bool) (g : Guard) (pd : BitVec 5) (a : BitVec 6) (s : State) : Host.Outcome State Fault Refusal :=
  guarded g s fun c => c.onCtx fun x => x.predOut u 1 pd (lowPred (min (x.getS a).toNat 1024))

def execPany (u : Bool) (g : Guard) (pd pa pb : BitVec 5) (s : State) : Host.Outcome State Fault Refusal :=
  predTwo u g pd pa pb (fun a b => allPred (decide (a &&& b ≠ 0#1024))) s

def execPall (u : Bool) (g : Guard) (pd pa pb : BitVec 5) (s : State) : Host.Outcome State Fault Refusal :=
  predTwo u g pd pa pb (fun a b => allPred (decide (a &&& b = b))) s

/-! ### Scalar FP32 (R146) -/

/-- The binary32 value in bits [31:0] of a scalar, with FTZ (R102). -/
def Ctx.f32 (x : Ctx) (n : BitVec 6) : FVal := fp32.read x.ftz ((x.getS n).toNat % 2 ^ 32)

/-- A binary32 result at +4. -/
def Ctx.f32Out (x : Ctx) (u : Bool) (d : BitVec 6) (r : Nat × FlagSet) : Ctx :=
  x.scalarOut u 4 r.2 d (BitVec.ofNat 64 r.1)

def execFadd (u : Bool) (g : Guard) (d a b : BitVec 6) (s : State) : Host.Outcome State Fault Refusal :=
  guarded g s fun c => c.onCtx fun x =>
    x.f32Out u d (roundResult fp32 x.fmt.rm x.ftz ((x.f32 a).add x.fmt.rm (x.f32 b)))

def execFsub (u : Bool) (g : Guard) (d a b : BitVec 6) (s : State) : Host.Outcome State Fault Refusal :=
  guarded g s fun c => c.onCtx fun x =>
    x.f32Out u d (roundResult fp32 x.fmt.rm x.ftz ((x.f32 a).add x.fmt.rm (x.f32 b).neg))

def execFmul (u : Bool) (g : Guard) (d a b : BitVec 6) (s : State) : Host.Outcome State Fault Refusal :=
  guarded g s fun c => c.onCtx fun x =>
    x.f32Out u d (roundResult fp32 x.fmt.rm x.ftz ((x.f32 a).mul (x.f32 b)))

def execFfma (u : Bool) (g : Guard) (d a b c : BitVec 6) (s : State) : Host.Outcome State Fault Refusal :=
  guarded g s fun k => k.onCtx fun x =>
    x.f32Out u d (roundResult fp32 x.fmt.rm x.ftz (fusedValue x.fmt.rm (x.f32 a) (x.f32 b) (x.f32 c)))

def execFmin (u : Bool) (g : Guard) (d a b : BitVec 6) (s : State) : Host.Outcome State Fault Refusal :=
  guarded g s fun c => c.onCtx fun x => x.f32Out u d (fp32.round .rne false (lesser (x.f32 a) (x.f32 b)))

def execFmax (u : Bool) (g : Guard) (d a b : BitVec 6) (s : State) : Host.Outcome State Fault Refusal :=
  guarded g s fun c => c.onCtx fun x => x.f32Out u d (fp32.round .rne false (greater (x.f32 a) (x.f32 b)))

def execFcmplt (u : Bool) (g : Guard) (pd : BitVec 5) (a b : BitVec 6) (s : State) : Host.Outcome State Fault Refusal :=
  guarded g s fun c => c.onCtx fun x => x.predOut u 4 pd (allPred ((x.f32 a).lt (x.f32 b)))

def execFcmpeq (u : Bool) (g : Guard) (pd : BitVec 5) (a b : BitVec 6) (s : State) : Host.Outcome State Fault Refusal :=
  guarded g s fun c => c.onCtx fun x => x.predOut u 4 pd (allPred ((x.f32 a).eq (x.f32 b)))

/-- FCVTFI: a saturating INT32, sign-extended. -/
def execFcvtfi (u : Bool) (g : Guard) (d a : BitVec 6) (s : State) : Host.Outcome State Fault Refusal :=
  guarded g s fun c => c.onCtx fun x =>
    let r := toIntSat 32 x.fmt.rm (x.f32 a)
    x.scalarOut u 4 r.2 d (BitVec.ofInt 64 r.1)

/-- FCVTIF: the whole sA as a signed integer. -/
def execFcvtif (u : Bool) (g : Guard) (d a : BitVec 6) (s : State) : Host.Outcome State Fault Refusal :=
  guarded g s fun c => c.onCtx fun x =>
    x.f32Out u d (fp32.round x.fmt.rm x.ftz (FVal.ofInt (x.getS a).toInt))

/-! ### Special registers (R147 to R149) -/

/-- Indices from 0x80 up need privilege (R39). -/
def sysCheck (idx : BitVec 8) (c : Core) : Option Trap :=
  if idx.getLsbD 7 && !c.priv then some .privilege else none

/-- The registers whose values a run may read differently: REFTIME, COREID, CLASS, ECOUNT and EBUDGET (R403). -/
def isObserved (idx : BitVec 8) : Bool := [0x01, 0x04, 0x05, 0x20, 0x21].contains idx.toNat

/-- RDSYS samples in its issue cycle and lands at +2. -/
def State.rdsys (s : State) (u : Bool) (d : BitVec 6) (idx : BitVec 8) : State :=
  let r : Nat × State :=
    if isObserved idx then s.logged s.core.space.part 1 s.core.id.toNat (s.core.rdsys idx).toNat else ((s.core.rdsys idx).toNat, s)
  r.2.onCore fun c => c.onCtx fun x => x.scalarOut u 2 0#6 d (BitVec.ofNat 64 r.1)

def execRdsys (u : Bool) (g : Guard) (d : BitVec 6) (idx : BitVec 8) (s : State) : Host.Outcome State Fault Refusal :=
  checkedState g (scalarSlot u) (fun s => sysCheck idx s.core) s fun s => s.rdsys u d idx

/-- WRSYS takes effect at the end of its cycle, so that the next bundle sees it. -/
def execWrsys (u : Bool) (g : Guard) (a : BitVec 6) (idx : BitVec 8) (s : State) : Host.Outcome State Fault Refusal :=
  checked g (scalarSlot u) (sysCheck idx) s fun c =>
    c.onCtx fun x => x.push (scalarSlot u) 1 0#6 (.sys idx (x.getS a))

/-- DSTAT in the layout of R119. -/
def Ctx.dstat (x : Ctx) : Pred :=
  (x.dstatNan ||| x.dstatInf).setWidth 1024 ||| (x.dstatNan.setWidth 1024 <<< 64) ||| (x.dstatInf.setWidth 1024 <<< 128)

def execRddst (u : Bool) (g : Guard) (pd : BitVec 5) (s : State) : Host.Outcome State Fault Refusal :=
  guarded g s fun c => c.onCtx fun x => x.predOut u 8 pd x.dstat

end Sys2Proof.Machine
end

