-- ==== Sys2Proof/Machine/Dispatch.lean ====
section
/-! DEFINITION. The meaning of every instruction and event: one arm for each. -/

namespace Sys2Proof.Machine

def exec (i : Instr) (s : State) : Host.Outcome State Fault Refusal :=
  match i with
  | .bodyPublish sp stub body => Sys2Proof.Machine.execBodyPublish sp stub body s
  | .br g off => Sys2Proof.Machine.execBr g off s
  | .bri g a => Sys2Proof.Machine.execBri g a s
  | .call g off => Sys2Proof.Machine.execCall g off s
  | .calli g a => Sys2Proof.Machine.execCalli g a s
  | .ret g => Sys2Proof.Machine.execRet g s
  | .loop g lc body count => Sys2Proof.Machine.execLoop g lc body count s
  | .loopr g lc body a => Sys2Proof.Machine.execLoopr g lc body a s
  | .lbrk g lc => Sys2Proof.Machine.execLbrk g lc s
  | .mark g ex => Sys2Proof.Machine.execMark g ex s
  | .trap g imm => Sys2Proof.Machine.execTrap g imm s
  | .yield g => Sys2Proof.Machine.execYield g s
  | .commit g => Sys2Proof.Machine.execCommit g s
  | .endt g => Sys2Proof.Machine.execEndt g s
  | .waitc g n => Sys2Proof.Machine.execWaitc g n s
  | .cbar g => Sys2Proof.Machine.execCbar g s
  | .trapret g => Sys2Proof.Machine.execTrapret g s
  | .idle g => Sys2Proof.Machine.execIdle g s
  | .add u g d a b => Sys2Proof.Machine.execAdd u g d a b s
  | .sub u g d a b => Sys2Proof.Machine.execSub u g d a b s
  | .addi u g d a imm => Sys2Proof.Machine.execAddi u g d a imm s
  | .mul u g d a b => Sys2Proof.Machine.execMul u g d a b s
  | .mulh u g d a b => Sys2Proof.Machine.execMulh u g d a b s
  | .mulhu u g d a b => Sys2Proof.Machine.execMulhu u g d a b s
  | .and u g d a b => Sys2Proof.Machine.execAnd u g d a b s
  | .or u g d a b => Sys2Proof.Machine.execOr u g d a b s
  | .xor u g d a b => Sys2Proof.Machine.execXor u g d a b s
  | .andn u g d a b => Sys2Proof.Machine.execAndn u g d a b s
  | .shl u g d a b => Sys2Proof.Machine.execShl u g d a b s
  | .shr u g d a b => Sys2Proof.Machine.execShr u g d a b s
  | .sar u g d a b => Sys2Proof.Machine.execSar u g d a b s
  | .shli u g d a n => Sys2Proof.Machine.execShli u g d a n s
  | .shri u g d a n => Sys2Proof.Machine.execShri u g d a n s
  | .sari u g d a n => Sys2Proof.Machine.execSari u g d a n s
  | .min u g d a b => Sys2Proof.Machine.execMin u g d a b s
  | .max u g d a b => Sys2Proof.Machine.execMax u g d a b s
  | .minu u g d a b => Sys2Proof.Machine.execMinu u g d a b s
  | .maxu u g d a b => Sys2Proof.Machine.execMaxu u g d a b s
  | .clz u g d a => Sys2Proof.Machine.execClz u g d a s
  | .popc u g d a => Sys2Proof.Machine.execPopc u g d a s
  | .movi u g d imm => Sys2Proof.Machine.execMovi u g d imm s
  | .movhi u g d imm => Sys2Proof.Machine.execMovhi u g d imm s
  | .shadd u g d a b sh => Sys2Proof.Machine.execShadd u g d a b sh s
  | .sel u g d a b ps => Sys2Proof.Machine.execSel u g d a b ps s
  | .extu u g d a hi lo => Sys2Proof.Machine.execExtu u g d a hi lo s
  | .cmpeq u g pd a b => Sys2Proof.Machine.execCmpeq u g pd a b s
  | .cmpne u g pd a b => Sys2Proof.Machine.execCmpne u g pd a b s
  | .cmplt u g pd a b => Sys2Proof.Machine.execCmplt u g pd a b s
  | .cmple u g pd a b => Sys2Proof.Machine.execCmple u g pd a b s
  | .cmpltu u g pd a b => Sys2Proof.Machine.execCmpltu u g pd a b s
  | .cmpleu u g pd a b => Sys2Proof.Machine.execCmpleu u g pd a b s
  | .cmpeqi u g pd a imm => Sys2Proof.Machine.execCmpeqi u g pd a imm s
  | .cmplti u g pd a imm => Sys2Proof.Machine.execCmplti u g pd a imm s
  | .pand u g pd pa pb => Sys2Proof.Machine.execPand u g pd pa pb s
  | .por u g pd pa pb => Sys2Proof.Machine.execPor u g pd pa pb s
  | .pxor u g pd pa pb => Sys2Proof.Machine.execPxor u g pd pa pb s
  | .pandn u g pd pa pb => Sys2Proof.Machine.execPandn u g pd pa pb s
  | .pnot u g pd pa => Sys2Proof.Machine.execPnot u g pd pa s
  | .pmov u g pd pa => Sys2Proof.Machine.execPmov u g pd pa s
  | .psetn u g pd a => Sys2Proof.Machine.execPsetn u g pd a s
  | .pany u g pd pa pb => Sys2Proof.Machine.execPany u g pd pa pb s
  | .pall u g pd pa pb => Sys2Proof.Machine.execPall u g pd pa pb s
  | .fadd u g d a b => Sys2Proof.Machine.execFadd u g d a b s
  | .fsub u g d a b => Sys2Proof.Machine.execFsub u g d a b s
  | .fmul u g d a b => Sys2Proof.Machine.execFmul u g d a b s
  | .ffma u g d a b c => Sys2Proof.Machine.execFfma u g d a b c s
  | .fmin u g d a b => Sys2Proof.Machine.execFmin u g d a b s
  | .fmax u g d a b => Sys2Proof.Machine.execFmax u g d a b s
  | .fcmplt u g pd a b => Sys2Proof.Machine.execFcmplt u g pd a b s
  | .fcmpeq u g pd a b => Sys2Proof.Machine.execFcmpeq u g pd a b s
  | .fcvtfi u g d a => Sys2Proof.Machine.execFcvtfi u g d a s
  | .fcvtif u g d a => Sys2Proof.Machine.execFcvtif u g d a s
  | .rdsys u g d idx => Sys2Proof.Machine.execRdsys u g d idx s
  | .wrsys u g a idx => Sys2Proof.Machine.execWrsys u g a idx s
  | .rddst u g pd => Sys2Proof.Machine.execRddst u g pd s
  | .vadd u g d a b t => Sys2Proof.Machine.execVadd u g d a b t s
  | .vsub u g d a b t => Sys2Proof.Machine.execVsub u g d a b t s
  | .vmul u g d a b t => Sys2Proof.Machine.execVmul u g d a b t s
  | .vfma u g d a b t c => Sys2Proof.Machine.execVfma u g d a b t c s
  | .vfms u g d a b t c => Sys2Proof.Machine.execVfms u g d a b t c s
  | .vmin u g d a b t => Sys2Proof.Machine.execVmin u g d a b t s
  | .vmax u g d a b t => Sys2Proof.Machine.execVmax u g d a b t s
  | .vabs u g d a t => Sys2Proof.Machine.execVabs u g d a t s
  | .vneg u g d a t => Sys2Proof.Machine.execVneg u g d a t s
  | .vand u g d a b t => Sys2Proof.Machine.execVand u g d a b t s
  | .vor u g d a b t => Sys2Proof.Machine.execVor u g d a b t s
  | .vxor u g d a b t => Sys2Proof.Machine.execVxor u g d a b t s
  | .vshl u g d a b t => Sys2Proof.Machine.execVshl u g d a b t s
  | .vshr u g d a b t => Sys2Proof.Machine.execVshr u g d a b t s
  | .vsar u g d a b t => Sys2Proof.Machine.execVsar u g d a b t s
  | .vcmpeq u g pd a b t => Sys2Proof.Machine.execVcmpeq u g pd a b t s
  | .vcmplt u g pd a b t => Sys2Proof.Machine.execVcmplt u g pd a b t s
  | .vcmple u g pd a b t => Sys2Proof.Machine.execVcmple u g pd a b t s
  | .vsel u g d a b t ps => Sys2Proof.Machine.execVsel u g d a b t ps s
  | .vmov u g d a t => Sys2Proof.Machine.execVmov u g d a t s
  | .vbcast u g d t ss => Sys2Proof.Machine.execVbcast u g d t ss s
  | .viota u g d t => Sys2Proof.Machine.execViota u g d t s
  | .vlsh u g d a t ss => Sys2Proof.Machine.execVlsh u g d a t ss s
  | .vlshd u g d a b t ss => Sys2Proof.Machine.execVlshd u g d a b t ss s
  | .vperm u g d a b t => Sys2Proof.Machine.execVperm u g d a b t s
  | .vext u g sd a si t => Sys2Proof.Machine.execVext u g sd a si t s
  | .vins u g d sv si t => Sys2Proof.Machine.execVins u g d sv si t s
  | .vredadd u g d a t => Sys2Proof.Machine.execVredadd u g d a t s
  | .vredmax u g d a t => Sys2Proof.Machine.execVredmax u g d a t s
  | .vredmin u g d a t => Sys2Proof.Machine.execVredmin u g d a t s
  | .vscan u g d a t => Sys2Proof.Machine.execVscan u g d a t s
  | .vcvt u g d a t td => Sys2Proof.Machine.execVcvt u g d a t td s
  | .vpack u g d a b t td => Sys2Proof.Machine.execVpack u g d a b t td s
  | .vunpk u g d a t td h => Sys2Proof.Machine.execVunpk u g d a t td h s
  | .vexp2 u g d a t => Sys2Proof.Machine.execVexp2 u g d a t s
  | .vlog2 u g d a t => Sys2Proof.Machine.execVlog2 u g d a t s
  | .vrcp u g d a t => Sys2Proof.Machine.execVrcp u g d a t s
  | .vrsq u g d a t => Sys2Proof.Machine.execVrsq u g d a t s
  | .vsqrt u g d a t => Sys2Proof.Machine.execVsqrt u g d a t s
  | .vtanh u g d a t => Sys2Proof.Machine.execVtanh u g d a t s
  | .vquant u g d a t => Sys2Proof.Machine.execVquant u g d a t s
  | .vdeq u g d a t => Sys2Proof.Machine.execVdeq u g d a t s
  | .mpush g q krow => Sys2Proof.Machine.execMpush g q krow s
  | .msel g => Sys2Proof.Machine.execMsel g s
  | .mshift g ks => Sys2Proof.Machine.execMshift g ks s
  | .macc g acc q fc push => Sys2Proof.Machine.execMacc g acc q fc push s
  | .maccz g acc q fc push => Sys2Proof.Machine.execMaccz g acc q fc push s
  | .maccs g acc q push => Sys2Proof.Machine.execMaccs g acc q push s
  | .mdrain g acc df sb off => Sys2Proof.Machine.execMdrain g acc df sb off s
  | .mdrainz g acc df sb off => Sys2Proof.Machine.execMdrainz g acc df sb off s
  | .mzero g acc => Sys2Proof.Machine.execMzero g acc s
  | .ldv g v b off => Sys2Proof.Machine.execLdv g v b off s
  | .stv g v b off => Sys2Proof.Machine.execStv g v b off s
  | .lds g d w b off => Sys2Proof.Machine.execLds g d w b off s
  | .sts g d w b off => Sys2Proof.Machine.execSts g d w b off s
  | .ldvx g v x b w off => Sys2Proof.Machine.execLdvx g v x b w off s
  | .stvx g v x b w off => Sys2Proof.Machine.execStvx g v x b w off s
  | .ldvb g v b off => Sys2Proof.Machine.execLdvb g v b off s
  | .atlAdd g d a b w8 off => Sys2Proof.Machine.execAtlAdd g d a b w8 off s
  | .atlMin g d a b w8 off => Sys2Proof.Machine.execAtlMin g d a b w8 off s
  | .atlMax g d a b w8 off => Sys2Proof.Machine.execAtlMax g d a b w8 off s
  | .atlAnd g d a b w8 off => Sys2Proof.Machine.execAtlAnd g d a b w8 off s
  | .atlOr g d a b w8 off => Sys2Proof.Machine.execAtlOr g d a b w8 off s
  | .atlXchg g d a b w8 off => Sys2Proof.Machine.execAtlXchg g d a b w8 off s
  | .atlCas g d a c b w8 off => Sys2Proof.Machine.execAtlCas g d a c b w8 off s
  | .atlFadd g d a b off => Sys2Proof.Machine.execAtlFadd g d a b off s
  | .ldg g d b w cls aq arv => Sys2Proof.Machine.execLdg g d b w cls aq arv s
  | .ldgv g v b cls aq arv => Sys2Proof.Machine.execLdgv g v b cls aq arv s
  | .stg g d b w cls rl => Sys2Proof.Machine.execStg g d b w cls rl s
  | .stgv g v b cls rl => Sys2Proof.Machine.execStgv g v b cls rl s
  | .atgAdd g d b w8 cls aq rl arv => Sys2Proof.Machine.execAtgAdd g d b w8 cls aq rl arv s
  | .atgFadd g d b cls aq rl arv => Sys2Proof.Machine.execAtgFadd g d b cls aq rl arv s
  | .atgMin g d b w8 cls aq rl arv => Sys2Proof.Machine.execAtgMin g d b w8 cls aq rl arv s
  | .atgMax g d b w8 cls aq rl arv => Sys2Proof.Machine.execAtgMax g d b w8 cls aq rl arv s
  | .atgAnd g d b w8 cls aq rl arv => Sys2Proof.Machine.execAtgAnd g d b w8 cls aq rl arv s
  | .atgOr g d b w8 cls aq rl arv => Sys2Proof.Machine.execAtgOr g d b w8 cls aq rl arv s
  | .atgXor g d b w8 cls aq rl arv => Sys2Proof.Machine.execAtgXor g d b w8 cls aq rl arv s
  | .atgXchg g d b w8 cls aq rl arv => Sys2Proof.Machine.execAtgXchg g d b w8 cls aq rl arv s
  | .atgCas g d b w8 cls aq rl arv => Sys2Proof.Machine.execAtgCas g d b w8 cls aq rl arv s
  | .arrive g a b cls rl => Sys2Proof.Machine.execArrive g a b cls rl s
  | .waitv g a b susp cls aq arv => Sys2Proof.Machine.execWaitv g a b susp cls aq arv s
  | .waitvSatisfied k => Sys2Proof.Machine.execWaitvSatisfied k s
  | .cpy g q d sr n lc cls => Sys2Proof.Machine.execCpy g q d sr n lc cls s
  | .cpyo g q d sr n lc cls => Sys2Proof.Machine.execCpyo g q d sr n lc cls s
  | .cpyt g q d sr n lc cls => Sys2Proof.Machine.execCpyt g q d sr n lc cls s
  | .cpyg g q sr cls => Sys2Proof.Machine.execCpyg g q sr cls s
  | .fence g kind cmask => Sys2Proof.Machine.execFence g kind cmask s
  | .qfence g qmask => Sys2Proof.Machine.execQfence g qmask s
  | .rfence g => Sys2Proof.Machine.execRfence g s
  | .spawn g a b hm => Sys2Proof.Machine.execSpawn g a b hm s
  | .depend g a b => Sys2Proof.Machine.execDepend g a b s
  | .signal g a b => Sys2Proof.Machine.execSignal g a b s
  | .hsplit g h1 h2 h3 ax sp => Sys2Proof.Machine.execHsplit g h1 h2 h3 ax sp s
  | .hrejoin g h1 h2 h3 => Sys2Proof.Machine.execHrejoin g h1 h2 h3 s
  | .hmov g h1 h2 => Sys2Proof.Machine.execHmov g h1 h2 s
  | .hput g h1 sb => Sys2Proof.Machine.execHput g h1 sb s
  | .htake g h1 sa sb susp => Sys2Proof.Machine.execHtake g h1 sa sb susp s
  | .handleDepositWake pa => Sys2Proof.Machine.execHandleDepositWake pa s
  | .hld g h1 sa sb => Sys2Proof.Machine.execHld g h1 sa sb s
  | .hst g h1 sa sb => Sys2Proof.Machine.execHst g h1 sa sb s
  | .hinfo g h1 ax sa => Sys2Proof.Machine.execHinfo g h1 ax sa s
  | .tlbinv g a b => Sys2Proof.Machine.execTlbinv g a b s
  | .cachewb g a b => Sys2Proof.Machine.execCachewb g a b s
  | .cacheinv g a b => Sys2Proof.Machine.execCacheinv g a b s
  | .tfa g q t c arv => Sys2Proof.Machine.execTfa g q t c arv s
  | .tfb g q t c arv => Sys2Proof.Machine.execTfb g q t c arv s
  | .tfh g q h c arv => Sys2Proof.Machine.execTfh g q h c arv s
  | .tfx g qm => Sys2Proof.Machine.execTfx g qm s
  | .tfRowArrival q => Sys2Proof.Machine.execTfRowArrival q s
  | .setfmt g fa fb sm ty => Sys2Proof.Machine.execSetfmt g fa fb sm ty s
  | .ldsct g tb b off => Sys2Proof.Machine.execLdsct g tb b off s
  | .setband g tb src band => Sys2Proof.Machine.execSetband g tb src band s
  | .setrnd g rm => Sys2Proof.Machine.execSetrnd g rm s
  | .clrflg g sm fe => Sys2Proof.Machine.execClrflg g sm fe s
  | .entryPerform k => Sys2Proof.Machine.execEntryPerform k s
  | .copyPerform q => Sys2Proof.Machine.execCopyPerform q s
  | .qfenceLeave q => Sys2Proof.Machine.execQfenceLeave q s
  | .commitLine k => Sys2Proof.Machine.execCommitLine k s
  | .pageWalk sp va => Sys2Proof.Machine.execPageWalk sp va s
  | .pageIn sp va => Sys2Proof.Machine.execPageIn sp va s
  | .shootdown sp va newPa => Sys2Proof.Machine.execShootdown sp va newPa s
  | .pinDropTimeout q => Sys2Proof.Machine.execPinDropTimeout q s
  | .nodeFinish k => Sys2Proof.Machine.execNodeFinish k s
  | .taskPlace core => Sys2Proof.Machine.execTaskPlace core s
  | .launchComplete l => Sys2Proof.Machine.execLaunchComplete l s
  | .sliceEnd cl => Sys2Proof.Machine.execSliceEnd cl s
  | .tspanExpiry cl => Sys2Proof.Machine.execTspanExpiry cl s
  | .graceExpiry cl => Sys2Proof.Machine.execGraceExpiry cl s
  | .tenantDrained cl => Sys2Proof.Machine.execTenantDrained cl s
  | .launch c => Sys2Proof.Machine.execLaunch c s
  | .copy c => Sys2Proof.Machine.execCopy c s
  | .waitevent c => Sys2Proof.Machine.execWaitevent c s
  | .signalevent c => Sys2Proof.Machine.execSignalevent c s
  | .resizeack c => Sys2Proof.Machine.execResizeack c s
  | .map c => Sys2Proof.Machine.execMap c s
  | .unmap c => Sys2Proof.Machine.execUnmap c s
  | .hostUetWrite sp va bytes tag => Sys2Proof.Machine.execHostUetWrite sp va bytes tag s
  | .hostUetRead sp va n tag => Sys2Proof.Machine.execHostUetRead sp va n tag s
  | .peerArrival sp va n => Sys2Proof.Machine.execPeerArrival sp va n s
  | .partcreate c => Sys2Proof.Machine.execPartcreate c s
  | .partresize c => Sys2Proof.Machine.execPartresize c s
  | .resizeApply p => Sys2Proof.Machine.execResizeApply p s
  | .partdestroy c => Sys2Proof.Machine.execPartdestroy c s
  | .vdevcreate c => Sys2Proof.Machine.execVdevcreate c s
  | .vdevset c => Sys2Proof.Machine.execVdevset c s
  | .tenantDisabled sp => Sys2Proof.Machine.execTenantDisabled sp s
  | .queuecreate c => Sys2Proof.Machine.execQueuecreate c s
  | .queuedestroy c => Sys2Proof.Machine.execQueuedestroy c s
  | .energy c => Sys2Proof.Machine.execEnergy c s
  | .summary c => Sys2Proof.Machine.execSummary c s
  | .attest c => Sys2Proof.Machine.execAttest c s
  | .alarmset c => Sys2Proof.Machine.execAlarmset c s
  | .queuereset c => Sys2Proof.Machine.execQueuereset c s
  | .watchdogExpiry p q => Sys2Proof.Machine.execWatchdogExpiry p q s
  | .rowSpare stack row => Sys2Proof.Machine.execRowSpare stack row s
  | .pageRetire stack sp va newPa => Sys2Proof.Machine.execPageRetire stack sp va newPa s
  | .dbgarm c => Sys2Proof.Machine.execDbgarm c s
  | .dbgstop c => Sys2Proof.Machine.execDbgstop c s
  | .debugStop cause => Sys2Proof.Machine.execDebugStop cause s
  | .dbgresume c => Sys2Proof.Machine.execDbgresume c s
  | .trace c => Sys2Proof.Machine.execTrace c s
  | .counters c => Sys2Proof.Machine.execCounters c s
  | .traceHeadAdvance sp => Sys2Proof.Machine.execTraceHeadAdvance sp s
  | .replay c => Sys2Proof.Machine.execReplay c s
  | .checkpoint p => Sys2Proof.Machine.execCheckpoint p s
  | .replayHalt p => Sys2Proof.Machine.execReplayHalt p s
  | .tileAccessPerform k => Sys2Proof.Machine.execTileAccessPerform k s
  | .peerTimeout id => Sys2Proof.Machine.execPeerTimeout id s
  | .retrieverInjection p port bytes => Sys2Proof.Machine.execRetrieverInjection p port bytes s
  | .unsupportedPacket die cmdBit => Sys2Proof.Machine.execUnsupportedPacket die cmdBit s
  | .unregisteredSend die => Sys2Proof.Machine.execUnregisteredSend die s
  | .peerAck id => Sys2Proof.Machine.execPeerAck id s
  | .alarm src => Sys2Proof.Machine.execAlarm src s
  | .eccError st addr fatal => Sys2Proof.Machine.execEccError st addr fatal s
  | .patrolScrub addr => Sys2Proof.Machine.execPatrolScrub addr s
  | .peerReadResponse id bytes => Sys2Proof.Machine.execPeerReadResponse id bytes s
  | .linkLevelRetry die => Sys2Proof.Machine.execLinkLevelRetry die s
  | .bufferSlotReturn p port => Sys2Proof.Machine.execBufferSlotReturn p port s
  | .bundleIssue => Sys2Proof.Machine.execBundleIssue s
  | .energyStretch => Sys2Proof.Machine.execEnergyStretch s
  | .budgetRefill => Sys2Proof.Machine.execBudgetRefill s
  | .staticCharge => Sys2Proof.Machine.execStaticCharge s
  | .resultLand => Sys2Proof.Machine.execResultLand s
  | .landing => Sys2Proof.Machine.execLanding s
  | .lateDataArrival => Sys2Proof.Machine.execLateDataArrival s
  | .fetchArrival => Sys2Proof.Machine.execFetchArrival s
  | .codePageLoad => Sys2Proof.Machine.execCodePageLoad s
  | .nop => Sys2Proof.Machine.execNop s
  | .taskDrainEnd => Sys2Proof.Machine.execTaskDrainEnd s
  | .barrierComplete => Sys2Proof.Machine.execBarrierComplete s
  | .idleTimeout => Sys2Proof.Machine.execIdleTimeout s
  | .waitvBoundExpiry => Sys2Proof.Machine.execWaitvBoundExpiry s
  | .htakeBoundExpiry => Sys2Proof.Machine.execHtakeBoundExpiry s
  | .handleStep => Sys2Proof.Machine.execHandleStep s
  | .commitComplete => Sys2Proof.Machine.execCommitComplete s
  | .launchFault => Sys2Proof.Machine.execLaunchFault s
  | .gangSuspend => Sys2Proof.Machine.execGangSuspend s
  | .softStop => Sys2Proof.Machine.execSoftStop s
  | .hardStop => Sys2Proof.Machine.execHardStop s
  | .imageSpill => Sys2Proof.Machine.execImageSpill s
  | .alarmClear => Sys2Proof.Machine.execAlarmClear s
  | .powerOn => Sys2Proof.Machine.execPowerOn s
  | .pcSample => Sys2Proof.Machine.execPcSample s
  | .freezeRecord => Sys2Proof.Machine.execFreezeRecord s

end Sys2Proof.Machine
end

