-- ==== Sys2Proof/Machine/Next.lean ====
section
/-! DEFINITION. What the module does next. A step is one event: of the core that is furthest behind in time, of an engine, the
walker, a control core or an endpoint, or one from outside that waits in `inbox`. Where several may come next the choice is free
(log entry 5); what must come at once comes first. -/

namespace Sys2Proof.Machine

/-! ### The core that is furthest behind -/

/-- The lowest core of those at the least time. So the members of a gang reach their one scratchpad in the order of their core times, and
at one time in core order: where another member sees a store with no CBAR between, which of two writes to a byte is the last, and in which
order their atomics are done, R193 and R197 leave open (log entry 26). -/
def State.laggard (s : State) : Nat :=
  (s.parked.foldl (fun (b : Nat × Nat) c =>
    if c.time < b.1 ∨ (c.time = b.1 ∧ c.id.toNat < b.2) then (c.time, c.id.toNat) else b) (s.core.time, s.core.id.toNat)).2

/-- A sample is due in this tick (R396); while the module is STOPPED the clocks of its sources stand (R400). -/
def State.sampleDue (s : State) : Bool :=
  s.core.task.isSome && s.devState != .stopped &&
    (match s.traceOf s.core.space with
    | some t => t.flags.getLsbD 1 && tickOf s.core.last.at_ % 2 ^ t.period == 0 && s.core.sampled != tickOf s.core.last.at_
    | none => false)

/-! ### Steps at homes in the order log (R403) -/

/-- A step of the current core, a job, the walker or a bound that may perform at a home: its partition, and what it is, as the order log has it. -/
def State.homeStep (s : State) (i : Instr) : Option (Nat × Nat) :=
  let here := fun (tag arg : Nat) =>
    (s.partOfCluster (clusterOf s.core.id)).map fun p => (p.id, tag + 32 * (s.core.id.toNat + 64 * arg))
  let node := fun (tag : Nat) (n : Option Node) => n.map fun n => (n.key.part, tag + 32 * n.addr.toNat)
  match i with
  | .entryPerform id => here 0 id
  | .tileAccessPerform k => here 1 k
  | .commitLine k => here 2 k
  | .commitComplete => here 3 0
  | .handleStep => here 4 0
  | .tfRowArrival q => here 5 q.toNat
  | .qfenceLeave q => here 6 q.toNat
  | .waitvBoundExpiry => here 7 0
  | .htakeBoundExpiry => here 8 0
  | .copyPerform q =>
    if q < 8 then here 9 q
    else if nodeCopyBase ≤ q then node 10 s.nodes[q - nodeCopyBase]?
    else match s.jobs[q - 8]? with
      | some j => some (j.owner.key.part, match j.cmd with
        | some c => 11 + 32 * (c.seq.toNat + 2 ^ 32 * c.queue.toNat)
        | none => 12 + 32 * (match j.node with | some a => a.toNat | none => 0))
      | none => none
  | .waitvSatisfied k => if k < nodeWaitBase then here 13 k else node 14 s.nodes[k - nodeWaitBase]?
  | .nodeFinish k => node 15 s.nodes[k]?
  | .handleDepositWake va => (s.hwaits.find? fun w => w.1 == va).map fun w => (w.2.1.part, 16 + 32 * va)
  | _ => none

/-- In replay, a step at a home comes where the order log has it. -/
def State.inOrder (s : State) (i : Instr) : Bool :=
  if s.replays.isEmpty then true
  else match s.homeStep i with
    | some (p, v) =>
      (match s.replayOf p with
      | some r => if r.replaying then (match takeKind 6 0 r.log with | some (e, _) => e.val == v | none => true) else true
      | none => true)
    | none => true

/-- The replaying partition whose order log has no step at a home left for one that is to come. -/
def State.unlogged (s : State) (i : Instr) : Option Replay :=
  match if s.replays.isEmpty then none else s.homeStep i with
  | some (p, _) => (match s.replayOf p with | some r => if r.replaying && (takeKind 6 0 r.log).isNone then some r else none | none => none)
  | none => none

/-- What steps at homes change: instants, requests, engines, commits and handles of a core, transfers, nodes and mailboxes. -/
def State.sameWork (s t : State) : Bool :=
  let work := fun (u : State) => (u.coreOf s.core.id.toNat).map fun c => (c.fifo, c.equeues, c.taccs, c.commit, c.hsteps, c.ctx.queues, c.ctx.landings)
  s.now == t.now && work s == work t && s.jobs == t.jobs && s.nodes == t.nodes && s.hwaits == t.hwaits && s.mailboxes == t.mailboxes

/-- A step at a home that performed has its place in the order log (R403): `s` before it, `t` after it. -/
def State.noteStep (s t : State) (i : Instr) : State :=
  if s.replays.isEmpty then t
  else match s.homeStep i with
    | some (p, v) => if s.sameWork t then t else (t.logged p 6 0 v).2
    | none => t

/-- Landings are due: they land, or the core waits for late data (R88, R89); a WAITV may have kept it frozen for its bound (R285). -/
def State.landEvent (s : State) : Instr :=
  if s.boundWait.isSome && s.inOrder .waitvBoundExpiry then .waitvBoundExpiry
  else if s.core.lateFrom.isSome && s.core.ctx.dueLandings.all (fun l => !l.missing) then .lateDataArrival
  else .landing

/-- The members of a gang that waits, and which of its waits can end now. -/
def State.gangReady (s : State) : Bool :=
  let ms := s.members
  s.core.owner.gang && ms.length == 4 && ms.all (fun c => c.waitsGang || c.atBarrier)
    && (ms.any Core.atEnd || !ms.any Core.atBarrier)

/-- Where the phase of the task leads at a bundle boundary. -/
def State.phaseEvent (s : State) : Instr :=
  let c := s.core
  match c.phase with
  | .ready => if c.freeze = 4#4 then .energyStretch else .bundleIssue
  | .drainYield => if c.quiet then .taskDrainEnd else .resultLand
  | .drainCommit => if c.quiet then .taskDrainEnd else .resultLand
  | .drainEnd => if c.quiet then .taskDrainEnd else .resultLand
  | .drainIdle => if c.quiet then .taskDrainEnd else .resultLand
  | .idle t0 => if t0 + 65536 * 24 ≤ c.time then .idleTimeout else .resultLand
  | .barrier =>
    if (s.members.all Core.atBarrier) && (!c.owner.gang || s.members.length == 4) then .barrierComplete
    else if s.gangReady then .gangSuspend else .resultLand
  | .committing => if c.commit.isNone && s.gangReady then .gangSuspend else .resultLand
  | .held => if c.dbg.lead.isSome && c.dbg.due.isSome && s.members.all Core.standsStill then .debugStop 0#2 else .resultLand
  | _ => .resultLand

/-- The next event of the current core, in the order in which one comes before another at a boundary: a stand-still; a trap; the end of the
cycle under way; a fault found later, or a launch that ends; a step that it waits for; a debug stop; its leaving;
landings; and then what its task does. -/
def State.coreEvent (s : State) : Instr :=
  let c := s.core
  if s.stands && c.atRest && c.freeze != 10#4 then .resultLand
  else
  match c.trap with
  | some r => if r.code = .migrate then .hardStop else .launchFault
  | none =>
    if c.mid || c.freeze = 10#4 then .resultLand
    else if c.atRest && (c.lateFault.isSome || s.coreEnds) then .launchFault
    else if c.blockedBy.isSome then .resultLand
    else
      match c.phase, c.dbg.due with
      | .ready, some d => .debugStop d.1
      | _, _ =>
        if c.leave.isSome && c.leave != some .soft && s.stopsHere c then .hardStop
        else if c.leave == some .soft || s.softDue then .softStop
        else if c.landsNow && c.ticking then (if c.phase == .ready && !c.dbg.skip then .bundleIssue else s.landEvent)
        else s.phaseEvent

/-! ### Work that goes on beside the cores -/

def onlyIf (b : Bool) (i : Instr) : List Instr := if b then [i] else []

/-- The head of an engine queue. -/
def queueEvent (q : List QEntry) (k : Nat) : List Instr :=
  match q with
  | [] => []
  | .qfence _ _ :: _ => [.qfenceLeave (BitVec.ofNat 3 k)]
  | _ :: _ => [.copyPerform k]

/-- What may happen for the current core while it runs: its requests, engines, commits, handle steps, streams and fetches. -/
def State.coreWork (s : State) : List Instr :=
  let c := s.core
  let streams := (List.range 4).filter fun q => !(c.ctx.queue (BitVec.ofNat 2 q)).isEmpty
  (c.fifo.filter fun e => s.entryFree e && s.opReady e).flatMap (fun e =>
      match e.op with
      | .wait _ => if e.fresh then [.entryPerform e.id] else [.waitvSatisfied e.id]
      | _ => [.entryPerform e.id])
    ++ (List.range 8).flatMap (fun k => queueEvent (c.equeues.toList.getD k []) k)
    ++ (match c.commit with
      | some m => if m.lines = [] then [.commitComplete] else (List.range m.lines.length).map fun k => .commitLine k
      | none => [])
    ++ (match c.hsteps with
      | ⟨.spawn _, _, _, _, _⟩ :: _ => []
      | _ :: _ => onlyIf (!c.mid) .handleStep
      | [] => [])
    ++ (if c.mid then [] else (List.range c.taccs.length).map fun k => .tileAccessPerform k)
    ++ streams.map (fun q => .tfRowArrival (BitVec.ofNat 2 q))
    ++ (if c.phase = .ready ∧ c.task.isSome = true ∧ c.fetched = false then
        (match s.fetch with | .bundle _ => [.fetchArrival] | .wait => [.codePageLoad] | .fault _ _ => []) else [])
    ++ onlyIf (s.wantsRoom && s.oldestImage.isSome) .imageSpill

/-- The engines, walkers and control cores of a partition hold: it stands still, and so does every core of it (R402, R403). -/
def State.partHolds (s : State) (part : Nat) : Bool :=
  s.partStands part && (match s.partOf part with | some p => s.cores.all fun c => !p.hasCore c || c.holdsStill | none => true)

/-- Work of every core whose partition does not stand still, with its core. -/
def State.coresWork (s : State) : List (Nat × Instr) :=
  s.cores.flatMap fun c =>
    let t := s.focus c.id.toNat
    let held := match s.partOfCluster (clusterOf c.id) with | some p => s.partStands p.id && c.holdsStill | none => false
    if held then [] else t.coreWork.map fun i => (c.id.toNat, i)

/-- Walks and moves of pages: the walks of pages that are present, unmapped or refused a frame end; the others wait for their page-in. -/
def State.pageWork (s : State) : List Instr :=
  (s.pageWalks.filter fun w => !s.partHolds w.1.part).map (fun w =>
      match s.mappingOf w.1 w.2.1 with
      | some m => if m.present || m.isRefused then .pageWalk w.1 (BitVec.ofNat 64 w.2.1) else .pageIn w.1 (BitVec.ofNat 64 w.2.1)
      | none => .pageWalk w.1 (BitVec.ofNat 64 w.2.1))
    ++ (s.moves.filter fun m => !s.partHolds m.1.part).map fun m =>
      match m.2.2.1, (s.mappingOf m.1 m.2.1).bind (fun p => (List.range 8).find? fun i => s.wornPage i p) with
      | some pa, some i => .pageRetire (BitVec.ofNat 3 i) m.1 (BitVec.ofNat 64 m.2.1) pa
      | n, _ => .shootdown m.1 (BitVec.ofNat 64 m.2.1) n

/-- Moves between tiers that a control core may begin: any page that may move, to a frame of the other tier for which its partition has room
(R14). Which pages it moves, when and to which frames the spec leaves open: the choice is free (log entry 65). -/
def State.tierWork (s : State) : List Instr :=
  s.maps.filterMap fun m =>
    let lpddr := decide (m.pa < hbmSize)
    let room := (match s.partOf m.space.part with | some p => decide (m.size ≤ p.left lpddr) | none => false)
    if !m.present || s.moving m || !s.movable m || !room then none
    else ((if lpddr then s.freeFrame lpddrBase lpddrEnd m.size else s.freeFrame 0 hbmSize m.size).1).map fun pa =>
      .shootdown m.space (BitVec.ofNat 64 m.va) (some pa)

/-- A suspended HTAKE is the earliest request at its mailbox. -/
def State.wakes (s : State) (w : Nat × TaskKey × Nat) : Bool :=
  (s.mailbox w.1).isSome && (s.hwaits.find? fun v => v.1 == w.1) == some w
    && (match s.nodeOfKey w.2.1 with | some n => n.st == .suspended | none => false)

/-- What the walker has to do. -/
def State.walkerWork (s : State) : List Instr :=
  (s.nodes.zipIdx.filter fun p => !s.partHolds p.1.key.part).flatMap (fun p =>
      onlyIf (p.1.st == .ended && !s.workLeft p.1.key) (.nodeFinish p.2)
        ++ onlyIf (p.1.copy && p.1.st == .ready) (.copyPerform (nodeCopyBase + p.2))
        ++ onlyIf (p.1.st == .suspended && p.1.waits.any fun w => match w with | .value _ _ _ _ _ => true | _ => false)
            (.waitvSatisfied (nodeWaitBase + p.2)))
    ++ (s.hwaits.filter fun w => s.wakes w && !s.partHolds w.2.1.part).map (fun w => .handleDepositWake w.1)
    ++ (s.launches.zipIdx.filter fun p => !s.partHolds p.1.space.part).flatMap (fun p =>
      onlyIf (p.1.ending.isNone && p.1.finished == p.1.created && !s.onCores p.1) (.launchComplete p.2))
    ++ onlyIf (match s.endedLaunch with | some l => !s.partHolds l.space.part | none => false) .launchFault

/-- Transfers of copy nodes and of hosts, and peers that do not answer. -/
def State.jobWork (s : State) : List Instr :=
  (s.jobs.zipIdx.filter fun j => !s.partHolds j.1.owner.key.part).map (fun j => .copyPerform (8 + j.2))
    ++ (s.peers.filter fun p => !s.partHolds p.space.part).map fun p => .peerTimeout p.id

/-- What the cluster schedulers have to do at no fixed time, and resets that end (R379). -/
def State.schedWork (s : State) : List Instr :=
  (s.cores.filter fun c => c.free && (s.clusterAt (clusterOf c.id)).isSome).map (fun c => .taskPlace c.id.toNat)
    ++ (s.tenants.filter fun t => s.tenantOff t.space).map (fun t => .tenantDisabled t.space)
    ++ (s.parts.filter fun p => p.resize.isSome && !p.unacked).map (fun p => .resizeApply p.id)
    ++ s.parts.flatMap fun p => match p.wipe with | some (_, ids) => [.watchdogExpiry p.id (ids.headD 0)] | none => []

/-- The commands in progress, and those at the heads of their queues. -/
def State.queueWork (s : State) : List Instr :=
  s.cqueues.flatMap fun q =>
    if s.partStands q.space.part && q.id < 64 then []
    else
      match q.running with
      | some c => (cmdEvent c).toList
      | none => (match q.held with | c :: _ => if s.mayBegin q c then (cmdEvent c).toList else [] | [] => [])

/-- Bodies that fetches wait for; what penim-x writes is free (log entry 28). -/
def State.bodyWork (s : State) : List Instr :=
  (s.stubs.filter fun b => b.body.isNone && (s.stubWaiter b).isSome).map fun b =>
    .bodyPublish b.space b.stub (Config.translation b.stub s.picks)

/-- Pages that are to be retired, and trace headers that lag. -/
def State.careWork (s : State) : List Instr :=
  (s.maps.filter fun m => s.movable m && !s.moving m).flatMap (fun m =>
      match (List.range 8).find? fun i => s.wornPage i m with
      | some i =>
        (match (if m.pa < hbmSize then s.freeFrame 0 hbmSize m.size else s.freeFrame lpddrBase lpddrEnd m.size).1 with
        | some pa => [.pageRetire (BitVec.ofNat 3 i) m.space (BitVec.ofNat 64 m.va) pa]
        | none => [])
      | none => [])
    ++ (s.traces.filter fun t => t.head != t.pend).map fun t => .traceHeadAdvance t.space

/-- Everything that may happen beside the cores, with the core that it happens on. -/
def State.background (s : State) : List (Nat × Instr) :=
  let here := s.core.id.toNat
  if s.devState = .stopped then [(here, .alarmClear)]
  else if s.devState = .ready then
    (if s.replays.isEmpty then s.coresWork else s.coresWork.filter fun w => (s.focus w.1).inOrder w.2) ++ ((s.pageWork ++ s.tierWork ++ s.walkerWork ++ s.jobWork ++ s.schedWork ++ s.queueWork ++ s.bodyWork ++ s.careWork).filter s.inOrder).map fun i => (here, i)
  else []

/-! ### What comes at once -/

/-- What the scheduler of some cluster has to do at this tick, while the module and the cluster's partition run. -/
def State.schedDue (s : State) : Option Instr :=
  if s.devState = .ready then
    (s.clusters.filter fun k => match s.partOfCluster k.id with | some p => !s.partStands p.id | none => false).findSome? s.clusterDue
  else none

/-- A watchdog reset that has taken as long as it may (R379). -/
def State.wipeOver (s : State) : Option Instr :=
  if s.devState = .ready then
    s.parts.findSome? fun p =>
      match p.wipe with | some (t0, ids) => if t0 + 500000 ≤ tickOf s.time then some (.watchdogExpiry p.id (ids.headD 0)) else none | none => none
  else none

/-- What a partition in replay is given at this tick (R404). -/
def State.arrivalDue (s : State) : Option Instr :=
  s.replays.findSome? fun r => (s.nextArrival r).map fun e => .retrieverInjection r.part (BitVec.ofNat 4 e.1.val) e.1.data

/-- An event that no other comes before: a replay that halts, a watchdog timer that has run out or a reset that must end, an arrival of a replay, a row
to be spared, a checkpoint, a HEAD or a cluster's scheduler that is due; and, of the core furthest behind, what a clock edge brings, an HTAKE that gives up (R307), and the pins that it must give up (R242). -/
def State.atOnce (s : State) : Option Instr :=
  match s.replays.find? fun r => r.lack && !r.halted with
  | some r => some (.replayHalt r.part)
  | none =>
    match s.cqueues.find? s.expiring with
    | some q => some (.watchdogExpiry q.space.part q.id)
    | none =>
    match (s.wipeOver.or s.arrivalDue).or (s.spareDue.map fun x => .rowSpare (BitVec.ofNat 3 x.1) x.2) with
    | some i => some i
    | none =>
      match s.replays.find? fun r => r.checkpointDue (tickOf s.time) &&
          (match s.partOf r.part with | some p => !s.cores.any fun c => p.hasCore c && !c.holdsStill | none => false) with
      | some r => some (.checkpoint r.part)
      | none =>
        match s.traces.find? s.headDue with
        | some t => some (.traceHeadAdvance t.space)
        | none =>
        match s.schedDue with
        | some i => some i
        | none =>
        if s.core.refillDue then some .budgetRefill
        else if s.core.staticDue then some .staticCharge
        else if s.core.ended.isSome then some .freezeRecord
        else if s.sampleDue then some .pcSample
        else if s.takeOver.isSome && s.inOrder .htakeBoundExpiry then some .htakeBoundExpiry
        else s.pinQueue.map fun q => .pinDropTimeout (BitVec.ofNat 2 q)

/-- An arrival would wait for a page, and come again. -/
def State.arrivalWaits (s : State) (i : Instr) : Bool :=
  match i with
  | .hostUetWrite sp va bs _ => s.serves sp && (match s.hostReach sp va.toNat true bs.length with | .error (some _) => true | _ => false)
  | .hostUetRead sp va n _ => s.serves sp && (match s.hostReach sp va.toNat false n with | .error (some _) => true | _ => false)
  | .peerArrival sp va _ => (match s.xlate sp va ⟨true, true, false, false, false⟩ with | .miss => true | _ => false)
  | _ => false

/-- An event from outside is taken in; a Retriever that records logs it, once it waits for no page. -/
def State.takeInbox (s : State) (i : Instr) : State :=
  let s := if s.arrivalWaits i then s else s.logArrival i
  { s with inbox := s.inbox.tail }

/-- An arrival that a Retriever in replay has given its partition: it is taken in at once (R404). -/
def State.injected (s : State) (i : Instr) : Bool :=
  !s.replays.isEmpty && !s.arrivalWaits i &&
    (match s.packetOf i with
    | some (p, _) => (match s.replayOf p with | some r => r.mode == 4 | none => false)
    | none => false)

/-- Work that is chosen, on its core; where the order log of a replay has no place for it, the replay halts instead. -/
def State.chosen (s : State) (w : Nat × Instr) : Instr × State :=
  let t := s.focus w.1
  match t.unlogged w.2 with
  | some r => (.replayHalt r.part, t.setReplay { r with lack := true })
  | none => (w.2, t)

/-- The event of the next step, and the state in which it happens. -/
def State.nextEvent (s : State) : Instr × State :=
  let s := (s.judgeAll).focus s.laggard
  let first := match s.inbox with | i :: _ => s.devState == .boot || s.injected i | [] => false
  match first, s.inbox with
  | true, i :: _ => (i, s.takeInbox i)
  | _, _ =>
    match s.atOnce with
    | some i => (i, s)
    | none =>
      let work := s.background
      let (k, t) := s.pickAny (work.length + (if s.inbox.isEmpty then 1 else 2))
      match work[k]? with
      | some w => t.chosen w
      | none =>
        match t.inbox with
        | [] => (t.coreEvent, t)
        | i :: _ => if k = work.length then (t.coreEvent, t) else (i, t.takeInbox i)

end Sys2Proof.Machine
end

