-- ==== Sys2Proof/Machine/Run.lean ====
section
/-! DEFINITION. One step of the module: its next event has its meaning, and the bundle that issues runs the operations of its
slots. What a host or a loader would have put in place for one bundle to be the next is here too (`State.placeWord`). -/

namespace Sys2Proof.Machine

/-- Operations in slot order. They all read the state as the cycle began, since every result waits in `Ctx.results` (R85). -/
def runOps : List Instr → State → Host.Outcome State Fault Refusal
  | [], s => .next s
  | i :: t, s =>
    match exec i s with
    | .next u => runOps t u
    | r => r

/-- The bundle has issued in this step, so its operations run. -/
def State.runIssued (s : State) : Host.Outcome State Fault Refusal :=
  if s.core.mid then runOps s.core.issuing s else .next s

/-- An event in its state. -/
def runEvent (i : Instr) (s : State) : Host.Outcome State Fault Refusal :=
  match i with
  | .bundleIssue =>
    match exec .bundleIssue s with
    | .next u => u.runIssued
    | r => r
  | i => exec i s

/-- The next event of the module; one that performs at a home in a recorded or replayed run has its place in the order log (R403). -/
def State.advance (s : State) : Host.Outcome State Fault Refusal :=
  match runEvent s.nextEvent.1 s.nextEvent.2 with
  | .next t => .next (s.nextEvent.2.noteStep t s.nextEvent.1)
  | r => r

/-! ### A bundle in place (log entry 3) -/

/-- The address of the bundle that `placeWord` puts in place: page 1 of the space of VDEV 0 of partition 1, at physical
address 0x10000. -/
def placeBase : Nat := 0x10000

/-- Partition 1, privileged and unchecked, with every cluster and the default allowances. -/
def placePart : Part :=
  { id := 1, flags := 3#16, clusters := 0xFFFF#16, vways := 2, oways := 4, a1 := 64#8, aw := 384#10, pspan := 1024#16
    vquota := 524288#32, slice := 4000, grace := 50, tspan := 2000, ring := 0#256, hbm := 0, lpddr := 0, heap := 0, spill := 0
    lineage := 65536, key := none, wipe := none, hbmUsed := 0, lpddrUsed := 0, heapUsed := 0, launches := 1, rseq := 0#32, resize := none
    unacked := false, sources := [], createBody := [] }

/-- The page of the bundle. -/
def placePage : Mapping :=
  { space := ⟨1, 0⟩, va := placeBase, pa := placeBase, size := 65536, w := true, x := false, sync := false, remote := false
    priv := false, present := true, home := 15#4, peer := 0#128, peerPart := 0#16, back := .frame }

/-- A loaded object whose one page is verified. -/
def placeObj : CodeObj :=
  { space := ⟨1, 0⟩, base := placeBase, text := placeBase, size := 65536, pages := [.verified], hashes := [], spad := [], masks := []
    safes := [], entries := [placeBase], funcs := [], bundled := true }

/-- The core that runs task 1 of launch 1, privileged, at the bundle. -/
def Core.placed (c : Core) : Core :=
  { c with
    task := some ⟨⟨1, 1, 1⟩, 0, false, 0#2, true⟩
    phase := .ready
    after := .ready
    mid := false
    freeze := 0#4
    trap := none
    lateFault := none
    leave := none
    stop := false
    fetched := true
    refillDue := false
    staticDue := false
    ended := none
    dbg := CoreDbg.reset
    fifo := []
    hsteps := []
    taccs := []
    commit := none
    equeues := Vector.replicate 8 []
    ctx := { c.ctx with pc := indexOf (BitVec.ofNat 64 placeBase), delayTarget := none, redirect := none, results := [], landings := [] } }

/-- A bundle of `nbits` bits w, zeros above, at the place from which the one core that has a task fetches next. -/
def State.placeWord (s : State) (nbits w : Nat) : State :=
  { s with
    core := s.core.placed
    parked := []
    devState := .ready
    inbox := []
    parts := [placePart]
    maps := [placePage]
    objects := [placeObj]
    stubs := []
    nodes := []
    launches := []
    jobs := []
    peers := []
    hostReqs := []
    moves := []
    pageWalks := []
    hwaits := []
    clusters := []
    tenants := []
    traces := []
    replays := []
    poison := []
    dbgArms := []
    mem := writeBytes s.mem placeBase (leBytes 64 (w % 2 ^ nbits % 2 ^ 512)) }

end Sys2Proof.Machine
end

