-- ==== Sys2Proof/Machine/Step.lean ====
section
/-! DEFINITION. The step of the module, and the placing of a bundle where the next step fetches it. -/

namespace Sys2Proof.Machine

/-- One event of the module (Machine/Next.lean), with its meaning (Machine/Dispatch.lean). -/
def step (s : State) : Host.Outcome State Fault Refusal := s.advance

/-- The machine with a bundle of `nbits` bits w, zeros above, where the next step fetches (log entry 3). -/
def State.withFetchWord (s : State) (nbits w : Nat) : State := s.placeWord nbits w

end Sys2Proof.Machine
end

