-- ==== Sys2Proof/Safety.lean ====
section
/-! DEFINITION. What counts as a safe run, in the terms that statements about the machine use: the canonical form of memory and
of the scratchpads, what an operation leaves as it was, and the next states that several operations share. -/

namespace Sys2Proof.Machine

/-- Memory and the scratchpads are in canonical form. -/
def State.canonical (s : State) : Prop := Memory.wf s.mem ∧ Memory.wf s.spm

/-- Every byte of memory and of the scratchpads reads in `t` as it does in `s`. -/
def State.sameBytes (s t : State) : Prop :=
  ∀ a, readByte t.mem a = readByte s.mem a ∧ readByte t.spm a = readByte s.spm a

/-- Beyond the core that steps nothing differs. -/
def State.sameBeyondCore (s t : State) : Prop := t = { s with core := t.core }

/-- Beyond the context of its task nothing differs on the core. -/
def Core.sameBeyondCtx (c d : Core) : Prop := d = { c with ctx := d.ctx }

/-- Every register of the context holds what it held; results in flight and landings may differ. -/
def Ctx.sameRegisters (x y : Ctx) : Prop :=
  y = { x with results := y.results, landings := y.landings, order := y.order }

/-- The machine goes on: no fault and no refusal. -/
def goesOn (o : Host.Outcome State Fault Refusal) : Prop := ∃ t, o = .next t

/-- Every byte of memory outside the `n` bytes from physical address `pa` reads in `t` as it does in `s`, and so does every byte
of the scratchpads. -/
def State.sameBytesBut (s t : State) (pa n : Nat) : Prop :=
  (∀ a, ¬ (pa ≤ a ∧ a < pa + n) → readByte t.mem a = readByte s.mem a) ∧ ∀ a, readByte t.spm a = readByte s.spm a

/-! ### Exact values -/

/-- A value is neither a NaN nor an infinity. -/
def FVal.finite (v : FVal) : Prop := v.isNan = false ∧ v.isInf = false

/-- The real number that a finite value stands for (R97, R98). -/
def FVal.value : FVal → ℚ
  | .fin n m e => (if n then -1 else 1) * m * 2 ^ e
  | _ => 0

/-- The multiple of 2^u that lies nearest `x` between 0 and `x` (R111). -/
def truncated (u : Int) (x : ℚ) : ℚ := (if x < 0 then -1 else 1) * (⌊|x| / 2 ^ u⌋ : ℚ) * 2 ^ u

/-! ### Next states that many operations share -/

/-- The next state in which the context of the task has become `f` of what it was, and nothing else differs. -/
def State.ctxNext (s : State) (f : Ctx → Ctx) : Host.Outcome State Fault Refusal := .next (s.onCore fun c => c.onCtx f)

/-- The next state in which the core has become `f` of what it was, and nothing else differs. -/
def State.coreNext (s : State) (f : Core → Core) : Host.Outcome State Fault Refusal := .next (s.onCore f)

/-- The next state in which one more result of the bundle at hand is in flight for `lat` cycles, and nothing else differs. -/
def State.pends (s : State) (slot lat : Nat) (flags : FlagSet) (wr : Wr) : Host.Outcome State Fault Refusal :=
  s.ctxNext fun x => x.push slot lat flags wr

/-- A scalar result of SA or SB that raises no flag: the integer `v` modulo 2^64 is on its way to sD. -/
def State.scalarNext (s : State) (u : Bool) (lat : Nat) (d : BitVec 6) (v : Int) : Host.Outcome State Fault Refusal :=
  s.pends (scalarSlot u) lat 0#6 (.s d (BitVec.ofInt 64 v))

/-- A predicate result of SA or SB: the 1,024 bits `v` are on their way to the predicate that pD names now. -/
def State.predNext (s : State) (u : Bool) (lat : Nat) (pd : BitVec 5) (v : Pred) : Host.Outcome State Fault Refusal :=
  s.pends (scalarSlot u) lat 0#6 (.p (physPred s.core.ctx.rrb pd) (BitVec.allOnes 1024) v)

/-- A row result of VX or VY in lanes of type T: lane i is `(f i).1` with the flags `(f i).2`, where the guard is on. -/
def State.vecNext (s : State) (u : Bool) (g : Guard) (lat : Nat) (d : BitVec 8) (t : VType) (f : Nat → Nat × FlagSet) :
    Host.Outcome State Fault Refusal :=
  s.ctxNext fun x => x.vecOut u g lat t.width t.lanes d f

/-- An access of n bytes at the window offset e that the scratchpad checks let pass (R191). -/
def Core.spmFits (c : Core) (e n align : Nat) : Prop :=
  e + n ≤ c.window ∧ e % align = 0 ∧ e / 2 ^ 20 = (e + n - 1) / 2 ^ 20

/-- A word-sized operand register is aligned to n bytes. -/
def Core.aligned (c : Core) (r : BitVec 6) (n : Nat) : Prop := (c.ctx.getS r).toNat % n = 0

/-- There is a free entry in the landing-slot table (R90). -/
def Core.landingFree (c : Core) : Prop := c.ctx.landings.length < Config.landingSlots

/-- A handle register is LIVE and holds a sound handle of the partition of its task (R269, R270). -/
def State.hasHandle (s : State) (h : BitVec 4) : Prop :=
  (s.core.ctx.getH h).st = .live ∧ handleSound s.handleKey (s.core.ctx.getH h).val s.core.owner.key.part = true

/-- A handle register that a result may be written to (R270). -/
def Core.freeH (c : Core) (h : BitVec 4) : Prop := (c.ctx.getH h).st ≠ .live

/-- The state in which a command that may begin has begun: it is in progress at the head of its queue (R329). -/
def State.begun (s : State) (c : Cmd) (q : CmdQueue) : State :=
  s.setQueue { q with running := some c, elapsed := 0, began := tickOf s.time, begun := none, held := q.held.tail }

/-- The state in which the stop test of the bundle due has found no arming of its tenant. -/
def State.tested (s : State) : State := s.onCore fun c => c.stopTest none false

/-- No other core has the number of the core that steps, whose task is no gang. -/
def State.alone (s : State) : Prop :=
  s.core.owner.gang = false ∧ ∀ c ∈ s.parked, c.id ≠ s.core.id

end Sys2Proof.Machine
end

