-- ==== Sys2Proof/Certificates/Slice0/Obligations.lean ====
section
/-! DEFINITION. The statements about the model. -/

open Sys2Proof Sys2Proof.Machine

/-! ### Scalar slots -/

/-- R141: what each integer form puts on its way to sD. -/
def Obligations.ScalarIntegerResults : Prop :=
  ∀ (s : State) (u : Bool) (g : Guard) (d a b : BitVec 6), s.core.ctx.guardBit g = true →
    let A := s.core.ctx.getS a
    let B := s.core.ctx.getS b
    exec (.add u g d a b) s = s.scalarNext u 1 d (A.toNat + B.toNat)
    ∧ exec (.sub u g d a b) s = s.scalarNext u 1 d (A.toNat - B.toNat)
    ∧ (∀ imm, exec (.addi u g d a imm) s = s.scalarNext u 1 d (A.toNat + imm.toInt))
    ∧ exec (.mul u g d a b) s = s.scalarNext u 3 d (A.toNat * B.toNat)
    ∧ exec (.mulh u g d a b) s = s.scalarNext u 3 d (A.toInt * B.toInt / 2 ^ 64)
    ∧ exec (.mulhu u g d a b) s = s.scalarNext u 3 d (A.toNat * B.toNat / 2 ^ 64)
    ∧ exec (.and u g d a b) s = s.scalarNext u 1 d (A.toNat &&& B.toNat : Nat)
    ∧ exec (.or u g d a b) s = s.scalarNext u 1 d (A.toNat ||| B.toNat : Nat)
    ∧ exec (.xor u g d a b) s = s.scalarNext u 1 d (A.toNat ^^^ B.toNat : Nat)
    ∧ exec (.andn u g d a b) s = s.scalarNext u 1 d (A.toNat &&& (2 ^ 64 - 1 - B.toNat) : Nat)
    ∧ exec (.min u g d a b) s = s.scalarNext u 1 d (min A.toInt B.toInt)
    ∧ exec (.max u g d a b) s = s.scalarNext u 1 d (max A.toInt B.toInt)
    ∧ exec (.minu u g d a b) s = s.scalarNext u 1 d (min A.toNat B.toNat : Nat)
    ∧ exec (.maxu u g d a b) s = s.scalarNext u 1 d (max A.toNat B.toNat : Nat)
    ∧ (∀ sh, exec (.shadd u g d a b sh) s = s.scalarNext u 1 d (A.toNat * 2 ^ sh.toNat + B.toNat))
    ∧ (∀ ps, exec (.sel u g d a b ps) s
        = s.scalarNext u 1 d (if (s.core.ctx.getP ps).getLsbD 0 then A.toNat else B.toNat))
    ∧ (∀ hi lo : BitVec 6, lo.toNat ≤ hi.toNat →
        exec (.extu u g d a hi lo) s = s.scalarNext u 1 d (A.toNat % 2 ^ (hi.toNat + 1) / 2 ^ lo.toNat : Nat))
    ∧ (∃ n : Nat, n ≤ 64 ∧ A.toNat < 2 ^ (64 - n) ∧ (n < 64 → 2 ^ (63 - n) ≤ A.toNat)
      ∧ exec (.clz u g d a) s = s.scalarNext u 1 d n)
    ∧ exec (.popc u g d a) s = s.scalarNext u 1 d ((List.range 64).filter fun i => A.getLsbD i).length

/-- R142, R143: the shifts, by the whole of sB or by the six bits of the immediate, and the moves of an immediate. -/
def Obligations.ShiftsAndMoves : Prop :=
  ∀ (s : State) (u : Bool) (g : Guard) (d a b n : BitVec 6) (imm : BitVec 28), s.core.ctx.guardBit g = true →
    let A := s.core.ctx.getS a
    let k := (s.core.ctx.getS b).toNat
    exec (.shl u g d a b) s = s.scalarNext u 1 d (if 64 ≤ k then 0 else A.toNat * 2 ^ k)
    ∧ exec (.shr u g d a b) s = s.scalarNext u 1 d (if 64 ≤ k then 0 else A.toNat / 2 ^ k)
    ∧ exec (.sar u g d a b) s
        = s.scalarNext u 1 d (if 64 ≤ k then (if A.toInt < 0 then -1 else 0) else A.toInt / 2 ^ k)
    ∧ exec (.shli u g d a n) s = s.scalarNext u 1 d (A.toNat * 2 ^ n.toNat)
    ∧ exec (.shri u g d a n) s = s.scalarNext u 1 d (A.toNat / 2 ^ n.toNat)
    ∧ exec (.sari u g d a n) s = s.scalarNext u 1 d (A.toInt / 2 ^ n.toNat)
    ∧ exec (.movi u g d imm) s = s.scalarNext u 1 d imm.toInt
    ∧ exec (.movhi u g d imm) s = s.scalarNext u 1 d ((s.core.ctx.getS d).toNat * 2 ^ 28 + imm.toNat)

/-- R144: a compare writes its outcome to every bit of pD. -/
def Obligations.CompareResults : Prop :=
  ∀ (s : State) (u : Bool) (g : Guard) (pd : BitVec 5) (a b : BitVec 6), s.core.ctx.guardBit g = true →
    let A := s.core.ctx.getS a
    let B := s.core.ctx.getS b
    let all := BitVec.allOnes 1024
    exec (.cmpeq u g pd a b) s = s.predNext u 1 pd (if A.toNat = B.toNat then all else 0)
    ∧ exec (.cmpne u g pd a b) s = s.predNext u 1 pd (if A.toNat = B.toNat then 0 else all)
    ∧ exec (.cmplt u g pd a b) s = s.predNext u 1 pd (if A.toInt < B.toInt then all else 0)
    ∧ exec (.cmple u g pd a b) s = s.predNext u 1 pd (if A.toInt ≤ B.toInt then all else 0)
    ∧ exec (.cmpltu u g pd a b) s = s.predNext u 1 pd (if A.toNat < B.toNat then all else 0)
    ∧ exec (.cmpleu u g pd a b) s = s.predNext u 1 pd (if A.toNat ≤ B.toNat then all else 0)
    ∧ (∀ imm, exec (.cmpeqi u g pd a imm) s = s.predNext u 1 pd (if A.toInt = imm.toInt then all else 0))
    ∧ (∀ imm, exec (.cmplti u g pd a imm) s = s.predNext u 1 pd (if A.toInt < imm.toInt then all else 0))

/-- R145: the predicate operations, bit by bit; PANY and PALL test the bits that pB selects. -/
def Obligations.PredicateResults : Prop :=
  ∀ (s : State) (u : Bool) (g : Guard) (pd pa pb : BitVec 5) (a : BitVec 6), s.core.ctx.guardBit g = true →
    let P := s.core.ctx.getP pa
    let Q := s.core.ctx.getP pb
    let all := BitVec.allOnes 1024
    exec (.pand u g pd pa pb) s = s.predNext u 1 pd (P &&& Q)
    ∧ exec (.por u g pd pa pb) s = s.predNext u 1 pd (P ||| Q)
    ∧ exec (.pxor u g pd pa pb) s = s.predNext u 1 pd (P ^^^ Q)
    ∧ exec (.pandn u g pd pa pb) s = s.predNext u 1 pd (P &&& ~~~Q)
    ∧ exec (.pnot u g pd pa) s = s.predNext u 1 pd (~~~P)
    ∧ exec (.pmov u g pd pa) s = s.predNext u 1 pd P
    ∧ (∃ v : Pred, (∀ i, i < 1024 → v.getLsbD i = decide (i < (s.core.ctx.getS a).toNat))
        ∧ exec (.psetn u g pd a) s = s.predNext u 1 pd v)
    ∧ exec (.pany u g pd pa pb) s
        = s.predNext u 1 pd (if (List.range 1024).any fun i => P.getLsbD i && Q.getLsbD i then all else 0)
    ∧ exec (.pall u g pd pa pb) s
        = s.predNext u 1 pd (if (List.range 1024).all fun i => !Q.getLsbD i || P.getLsbD i then all else 0)

/-- R146, R100: the FP32 forms round the exact value of their operands once, under RM and FTZ; the flags come with the result; a
NaN operand gives the canonical NaN and no flag. -/
def Obligations.ScalarFloatResults : Prop :=
  ∀ (s : State) (u : Bool) (g : Guard) (d a b c : BitVec 6) (pd : BitVec 5), s.core.ctx.guardBit g = true →
    let x := s.core.ctx
    let A := x.f32 a
    let B := x.f32 b
    let out := fun (r : Nat × FlagSet) => s.pends (scalarSlot u) 4 r.2 (.s d (BitVec.ofNat 64 r.1))
    let all := BitVec.allOnes 1024
    exec (.fadd u g d a b) s = out (roundResult fp32 x.fmt.rm x.ftz (A.add x.fmt.rm B))
    ∧ exec (.fsub u g d a b) s = out (roundResult fp32 x.fmt.rm x.ftz (A.add x.fmt.rm B.neg))
    ∧ exec (.fmul u g d a b) s = out (roundResult fp32 x.fmt.rm x.ftz (A.mul B))
    ∧ exec (.ffma u g d a b c) s = out (roundResult fp32 x.fmt.rm x.ftz (fusedValue x.fmt.rm A B (x.f32 c)))
    ∧ exec (.fmin u g d a b) s = out (fp32.round .rne false (lesser A B))
    ∧ exec (.fmax u g d a b) s = out (fp32.round .rne false (greater A B))
    ∧ exec (.fcmplt u g pd a b) s = s.predNext u 4 pd (if A.lt B then all else 0)
    ∧ exec (.fcmpeq u g pd a b) s = s.predNext u 4 pd (if A.eq B then all else 0)
    ∧ exec (.fcvtfi u g d a) s
        = s.pends (scalarSlot u) 4 (toIntSat 32 x.fmt.rm A).2 (.s d (BitVec.ofInt 64 (toIntSat 32 x.fmt.rm A).1))
    ∧ exec (.fcvtif u g d a) s = out (fp32.round x.fmt.rm x.ftz (FVal.ofInt (x.getS a).toInt))
    ∧ ((A = .nan ∨ B = .nan) →
      let nan := s.pends (scalarSlot u) 4 0#6 (.s d 0x7FC00000#64)
      exec (.fadd u g d a b) s = nan ∧ exec (.fsub u g d a b) s = nan ∧ exec (.fmul u g d a b) s = nan
      ∧ exec (.ffma u g d a b c) s = nan ∧ exec (.ffma u g d a c b) s = nan ∧ exec (.ffma u g d c a b) s = nan
      ∧ exec (.fmin u g d a b) s = nan ∧ exec (.fmax u g d a b) s = nan
      ∧ exec (.fcmplt u g pd a b) s = s.predNext u 4 pd 0 ∧ exec (.fcmpeq u g pd a b) s = s.predNext u 4 pd 0)

/-- R97, R101: in each format a finite code rounds back to itself, with no flag and in every rounding mode. -/
def Obligations.CodesAreExact : Prop :=
  ∀ f ∈ [fp32, fp16, bf16, e5m2, e4m3, e2m1], ∀ (rm : RMode) (code : Nat), code < 2 ^ f.width →
    (f.decode code).isNan = false → (f.decode code).isInf = false → f.round rm false (f.decode code) = (code, 0#6)

/-- R80, R147, R148, R149: an operation on a special register that the task may name samples it, or writes it from the next
bundle on; an index from 0x80 up without privilege raises PRIVILEGE; RDDST samples the drain status. -/
def Obligations.SpecialRegisterAccess : Prop :=
  ∀ (s : State) (u : Bool) (g : Guard) (d a : BitVec 6) (pd : BitVec 5) (idx : BitVec 8), s.core.ctx.guardBit g = true →
    ((s.core.priv = true ∨ idx.toNat < 0x80) →
      (s.replayOf s.core.space.part = none →
        exec (.rdsys u g d idx) s = s.pends (scalarSlot u) 2 0#6 (.s d (s.core.rdsys idx)))
      ∧ exec (.wrsys u g a idx) s = s.pends (scalarSlot u) 1 0#6 (.sys idx (s.core.ctx.getS a)))
    ∧ (s.core.priv = false → 0x80 ≤ idx.toNat →
      exec (.rdsys u g d idx) s = .next (s.raise .privilege (scalarSlot u))
      ∧ exec (.wrsys u g a idx) s = .next (s.raise .privilege (scalarSlot u)))
    ∧ exec (.rddst u g pd) s = s.predNext u 8 pd
        ((s.core.ctx.dstatNan ||| s.core.ctx.dstatInf).setWidth 1024
          ||| (s.core.ctx.dstatNan.setWidth 1024 <<< 64) ||| (s.core.ctx.dstatInf.setWidth 1024 <<< 128))

/-- R63, R80, R148, R369: what RDSYS reads after a WRSYS to the same register has taken effect: the written fields, with the
clamps of ALLOW. -/
def Obligations.SpecialRegisterFields : Prop :=
  ∀ (c : Core) (v : Word),
    (c.wrsys 0x08#8 v).rdsys 0x08#8 = BitVec.ofNat 64 (v.toNat % 2 ^ 12)
    ∧ (c.wrsys 0x09#8 v).rdsys 0x09#8 = BitVec.ofNat 64 (v.toNat % 2 ^ 6)
    ∧ (c.wrsys 0x0B#8 v).rdsys 0x0B#8 = BitVec.ofNat 64 (v.toNat % 2 ^ 3)
    ∧ (c.wrsys 0x85#8 v).rdsys 0x85#8 = BitVec.ofNat 64 (v.toNat % 2 ^ 32)
    ∧ (c.wrsys 0x86#8 v).rdsys 0x86#8 = BitVec.ofNat 64 (v.toNat % 2 ^ 16)
    ∧ (c.wrsys 0x87#8 v).rdsys 0x87#8 = BitVec.ofNat 64 (max 1 (v.toNat % 2 ^ 16))
    ∧ (c.wrsys 0x88#8 v).rdsys 0x88#8 = BitVec.ofNat 64 (v.toNat % 2 ^ 32)
    ∧ (∀ j : Nat, j < 4 → (c.wrsys (BitVec.ofNat 8 (0x81 + j)) v).rdsys (BitVec.ofNat 8 (0x81 + j))
        = BitVec.ofNat 64 (v.toNat % 2 ^ 32))
    ∧ ((c.wrsys 0x80#8 v).rdsys 0x80#8).toNat
        = max 2 (min 64 (v.toNat % 2 ^ 8)) + max 2 (min 512 (v.toNat / 2 ^ 8 % 2 ^ 10)) * 2 ^ 8 + v.toNat / 2 ^ 18 % 2 * 2 ^ 18
    ∧ ((c.wrsys 0x8A#8 v).rdsys 0x8A#8).toNat
        = v.toNat / 64 * 64 + (if c.ctx.trapActive then 2 else 0) + v.toNat % 2

/-! ### Vector slots -/

/-- R154, R157: the i32 lane operations, modulo 2^32, in the lanes that the guard leaves on. -/
def Obligations.VectorIntegerLanes : Prop :=
  ∀ (s : State) (u : Bool) (g : Guard) (d a b c : BitVec 8),
    let p := laneOf .i32 (s.core.ctx.getV a)
    let q := laneOf .i32 (s.core.ctx.getV b)
    let r := laneOf .i32 (s.core.ctx.getV c)
    let out := fun (lat : Nat) (f : Nat → Int) => s.vecNext u g lat d .i32 fun i => ((f i % 2 ^ 32).toNat, 0#6)
    exec (.vadd u g d a b .i32) s = out 3 (fun i => p i + q i)
    ∧ exec (.vsub u g d a b .i32) s = out 3 (fun i => p i - q i)
    ∧ exec (.vmul u g d a b .i32) s = out 5 (fun i => p i * q i)
    ∧ exec (.vfma u g d a b .i32 c) s = out 5 (fun i => p i * q i + r i)
    ∧ exec (.vfms u g d a b .i32 c) s = out 5 (fun i => p i * q i - r i)
    ∧ exec (.vmin u g d a b .i32) s = out 3 (fun i => min (signedOf 32 (p i)) (signedOf 32 (q i)))
    ∧ exec (.vmax u g d a b .i32) s = out 3 (fun i => max (signedOf 32 (p i)) (signedOf 32 (q i)))
    ∧ exec (.vabs u g d a .i32) s = out 2 (fun i => (signedOf 32 (p i)).natAbs)
    ∧ exec (.vneg u g d a .i32) s = out 2 (fun i => -(p i : Int))
    ∧ exec (.vshl u g d a b .i32) s = out 3 (fun i => if 32 ≤ q i then 0 else p i * 2 ^ q i)
    ∧ exec (.vshr u g d a b .i32) s = out 3 (fun i => if 32 ≤ q i then 0 else p i / 2 ^ q i)
    ∧ exec (.vsar u g d a b .i32) s = out 3 (fun i => signedOf 32 (p i) / 2 ^ min (q i) 31)
    ∧ exec (.viota u g d .i32) s = out 2 (fun i => i)

/-- R154, R157: the float lane operations: one rounding of the exact value under RM and FTZ, with its flags. -/
def Obligations.VectorFloatLanes : Prop :=
  ∀ (s : State) (u : Bool) (g : Guard) (d a b c : BitVec 8) (t : VType) (f : FloatFmt), vfmt t = some f →
    let x := s.core.ctx
    let p := laneOf t (x.getV a)
    let q := laneOf t (x.getV b)
    let r := laneOf t (x.getV c)
    let v := f.read x.ftz
    let out := fun (lat : Nat) (e : Nat → FVal × Bool) => s.vecNext u g lat d t fun i => roundResult f x.fmt.rm x.ftz (e i)
    exec (.vadd u g d a b t) s = out 3 (fun i => (v (p i)).add x.fmt.rm (v (q i)))
    ∧ exec (.vsub u g d a b t) s = out 3 (fun i => (v (p i)).add x.fmt.rm (v (q i)).neg)
    ∧ exec (.vmul u g d a b t) s = out 5 (fun i => (v (p i)).mul (v (q i)))
    ∧ exec (.vfma u g d a b t c) s = out 5 (fun i => fusedValue x.fmt.rm (v (p i)) (v (q i)) (v (r i)))
    ∧ exec (.vfms u g d a b t c) s = out 5 (fun i => fusedValue x.fmt.rm (v (p i)) (v (q i)) (v (r i)).neg)
    ∧ exec (.vmin u g d a b t) s = s.vecNext u g 3 d t (fun i => ((f.round .rne false (lesser (v (p i)) (v (q i)))).1, 0#6))
    ∧ exec (.vmax u g d a b t) s = s.vecNext u g 3 d t (fun i => ((f.round .rne false (greater (v (p i)) (v (q i)))).1, 0#6))
    ∧ exec (.vabs u g d a t) s = s.vecNext u g 2 d t (fun i => (p i % 2 ^ (t.width - 1), 0#6))
    ∧ exec (.vneg u g d a t) s = s.vecNext u g 2 d t (fun i => (p i ^^^ 2 ^ (t.width - 1), 0#6))
    ∧ exec (.viota u g d t) s = out 2 (fun i => (FVal.ofInt i, false))

/-- R154 to R158: the operations that move bits, in every type; VEXT takes one lane to a scalar, zero outside the row and
sign-extended for i32; VINS writes the one lane that sI names, if the guard is on there. -/
def Obligations.VectorMoves : Prop :=
  ∀ (s : State) (u : Bool) (g : Guard) (d a b : BitVec 8) (t : VType) (ss sd : BitVec 6) (ps : BitVec 5),
    let x := s.core.ctx
    let p := laneOf t (x.getV a)
    let q := laneOf t (x.getV b)
    let n := t.lanes
    let out := fun (lat : Nat) (f : Nat → Nat) => s.vecNext u g lat d t fun i => (f i, 0#6)
    exec (.vand u g d a b t) s = out 2 (fun i => p i &&& q i)
    ∧ exec (.vor u g d a b t) s = out 2 (fun i => p i ||| q i)
    ∧ exec (.vxor u g d a b t) s = out 2 (fun i => p i ^^^ q i)
    ∧ exec (.vsel u g d a b t ps) s = out 2 (fun i => if (x.getP ps).getLsbD i then p i else q i)
    ∧ exec (.vmov u g d a t) s = out 2 p
    ∧ exec (.vbcast u g d t ss) s = out 2 (fun _ => (x.getS ss).toNat % 2 ^ t.width)
    ∧ exec (.vlsh u g d a t ss) s = out 3 (fun i =>
        let j : Int := i + (x.getS ss).toInt
        if 0 ≤ j ∧ j < n then p j.toNat else 0)
    ∧ exec (.vlshd u g d a b t ss) s = out 3 (fun i =>
        let j := i + (x.getS ss).toNat
        if j < n then p j else if j < 2 * n then q (j - n) else 0)
    ∧ exec (.vperm u g d a b t) s = out 3 (fun i => if q i < n then p (q i) else 0)
    ∧ (let i := (x.getS ss).toNat
      (s.core.ctx.guardBit g = true → exec (.vext u g sd a ss t) s = s.pends (vectorSlot u) 2 0#6
        (.s sd (if n ≤ i then 0#64 else if t = .i32 then BitVec.ofInt 64 (signedOf 32 (p i)) else BitVec.ofNat 64 (p i))))
      ∧ (n ≤ i → exec (.vins u g d sd ss t) s = .next s)
      ∧ (i < n → (x.guardMask g).getLsbD i = false → exec (.vins u g d sd ss t) s = .next s)
      ∧ (i < n → (x.guardMask g).getLsbD i = true → ∃ mask v : Row,
        exec (.vins u g d sd ss t) s = s.pends (vectorSlot u) 2 0#6 (.row (x.rowName d) mask v)
        ∧ laneOf t mask i = 2 ^ t.width - 1 ∧ laneOf t v i = (x.getS sd).toNat % 2 ^ t.width
        ∧ ∀ j, j < n → j ≠ i → laneOf t mask j = 0))

/-- R155: a vector compare writes the outcome of each lane that the guard leaves on, and clears the bits from N up; with no such
lane it writes nothing (that last is the model's choice, log entry 12). -/
def Obligations.VectorCompares : Prop :=
  ∀ (s : State) (u : Bool) (g : Guard) (pd : BitVec 5) (a b : BitVec 8) (t : VType),
    let x := s.core.ctx
    let p := fun i => laneValue t x.ftz (laneOf t (x.getV a) i)
    let q := fun i => laneValue t x.ftz (laneOf t (x.getV b) i)
    let on := x.guardMask g &&& lowPred t.lanes
    let out := fun (r : Host.Outcome State Fault Refusal) (f : FVal → FVal → Bool) =>
      (on = 0#1024 → r = .next s)
      ∧ (on ≠ 0#1024 → ∃ mask v : Pred, r = s.pends (vectorSlot u) 3 0#6 (.p (physPred x.rrb pd) mask v)
        ∧ ∀ i, i < 1024 → mask.getLsbD i = (decide (t.lanes ≤ i) || (x.guardMask g).getLsbD i)
          ∧ (mask.getLsbD i = true → v.getLsbD i = (decide (i < t.lanes) && f (p i) (q i))))
    out (exec (.vcmpeq u g pd a b t) s) FVal.eq
    ∧ out (exec (.vcmplt u g pd a b t) s) FVal.lt
    ∧ out (exec (.vcmple u g pd a b t) s) (fun v w => v.lt w || v.eq w)

/-- R159, R160: the tree of a reduction, in every type: the guard-true lanes are its leaves, and each guard-true lane gets the
result. On i32 lanes that is the sum modulo 2^32, the greatest and the least of the guard-true lanes, and a scan sums those up
to each lane. What is the model's choice here stands in log entry 34. -/
def Obligations.VectorReductions : Prop :=
  ∀ (s : State) (u : Bool) (g : Guard) (d a : BitVec 8) (t : VType),
    let x := s.core.ctx
    let p := laneOf t (x.getV a)
    let out := fun (r : Host.Outcome State Fault Refusal) (leaf : Nat → Nat) (step : Nat → Nat → Nat × FlagSet)
        (last : Nat → Nat × FlagSet) =>
      match treeFold step (treeDepth t) (treeLeaves t (x.guardMask g &&& lowPred t.lanes) fun i => leaf (p i)) with
      | none => r = .next s
      | some v => r = s.vecNext u g 8 d t fun _ => ((last v.1).1, (last v.1).2 ||| v.2)
    out (exec (.vredadd u g d a t) s) (widen t x.ftz) (sumStep t x) (narrow t x)
    ∧ out (exec (.vredmax u g d a t) s) (fun v => lanePick t x.ftz greater v v) (fun v w => (lanePick t x.ftz greater v w, 0#6))
        (fun v => (v, 0#6))
    ∧ out (exec (.vredmin u g d a t) s) (fun v => lanePick t x.ftz greater v v) (fun v w => (lanePick t x.ftz lesser v w, 0#6))
        (fun v => (v, 0#6))
    ∧ (let i := laneOf .i32 (x.getV a)
      let on := (List.range 512).filter fun k => (x.guardMask g).getLsbD k
      let sum := fun (lat : Nat) (f : Nat → Int) => s.vecNext u g lat d .i32 fun k => ((f k % 2 ^ 32).toNat, 0#6)
      exec (.vredadd u g d a .i32) s = sum 8 (fun _ => ((on.map i).sum : Nat))
      ∧ exec (.vredmax u g d a .i32) s = sum 8 (fun _ => (on.map fun k => signedOf 32 (i k)).foldl max (-(2 ^ 31)))
      ∧ exec (.vredmin u g d a .i32) s = sum 8 (fun _ => (on.map fun k => signedOf 32 (i k)).foldl min (2 ^ 31 - 1))
      ∧ exec (.vscan u g d a .i32) s = sum 10 (fun k => (((on.filter fun j => j ≤ k).map i).sum : Nat)))

/-- R160, R161: VSCAN on a float type, and the conversions, in every pair of types. -/
def Obligations.VectorConversions : Prop :=
  ∀ (s : State) (u : Bool) (g : Guard) (d a b : BitVec 8) (t td : VType),
    let x := s.core.ctx
    let p := laneOf t (x.getV a)
    let q := laneOf t (x.getV b)
    let l := scanLanes t x (x.guardMask g &&& lowPred t.lanes) p (List.range t.lanes) none
    exec (.vscan u g d a t) s = s.vecNext u g 10 d t (fun i => l.getD i (0, 0#6))
    ∧ exec (.vcvt u g d a t td) s = s.vecNext u g 3 d td (fun i => if i < t.lanes then convertLane t td x (p i) else (0, 0#6))
    ∧ exec (.vpack u g d a b t td) s
        = s.vecNext u g 3 d td (fun i => convertLane t td x (if i < 512 then p i else q (i - 512)))
    ∧ ∀ h, exec (.vunpk u g d a t td h) s
        = s.vecNext u g 3 d td (fun i => convertLane t td x (p (i + (if h then 512 else 0))))

/-- R162, R164, R165, R166: the special functions lane by lane, VQUANT on a Steel core, and VDEQ. What is the model's choice
here stands in log entry 4. -/
def Obligations.VectorSpecials : Prop :=
  ∀ (s : State) (u : Bool) (g : Guard) (d a : BitVec 8) (t : VType),
    let x := s.core.ctx
    let p := laneOf t (x.getV a)
    let out := fun fn => s.vecNext u g 9 d t fun i => specialLane t x fn (p i)
    exec (.vexp2 u g d a t) s = out exp2Fn
    ∧ exec (.vlog2 u g d a t) s = out log2Fn
    ∧ exec (.vrcp u g d a t) s = out rcpFn
    ∧ exec (.vrsq u g d a t) s = out rsqFn
    ∧ exec (.vsqrt u g d a t) s = out (fun _ => sqrtFn x.fmt.rm)
    ∧ exec (.vtanh u g d a t) s = out tanhFn
    ∧ (isSteel s.core.id = true → exec (.vquant u g d a t) s = s.ctxNext fun y => y.quantise u g d a t)
    ∧ (isSteel s.core.id = false → exec (.vquant u g d a t) s = .next (s.raise .migrate (vectorSlot u)))
    ∧ exec (.vdeq u g d a t) s = s.vecNext u g 5 d t (fun i => (dequantLane t (x.getV a) i, 0#6))

/-- R163: the special values of the special functions on f32 lanes, under every FTZ and rounding mode: a NaN, the infinities,
the zeros and a negative number. -/
def Obligations.SpecialValues : Prop :=
  ∀ x : Ctx,
    let f := specialLane .f32 x
    let nan := (0x7FC00000, 0#6)
    let inf := 0x7F800000
    let ninf := 0xFF800000
    let nzero := 0x80000000
    let minusTwo := 0xC0000000
    let bad := (0x7FC00000, flagNV)
    (∀ fn ∈ [exp2Fn, log2Fn, rcpFn, rsqFn, fun _ => sqrtFn x.fmt.rm, tanhFn], f fn 0x7F800001 = nan)
    ∧ [ninf, nzero, 0, inf].map (f exp2Fn) = [(0, 0#6), (0x3F800000, 0#6), (0x3F800000, 0#6), (inf, 0#6)]
    ∧ [ninf, minusTwo, nzero, 0, inf].map (f log2Fn) = [bad, bad, (ninf, flagDZ), (ninf, flagDZ), (inf, 0#6)]
    ∧ [ninf, nzero, 0, inf].map (f rcpFn) = [(nzero, 0#6), (ninf, flagDZ), (inf, flagDZ), (0, 0#6)]
    ∧ [ninf, minusTwo, nzero, 0, inf].map (f rsqFn) = [bad, bad, (ninf, flagDZ), (inf, flagDZ), (0, 0#6)]
    ∧ [ninf, minusTwo, nzero, 0, inf].map (f fun _ => sqrtFn x.fmt.rm) = [bad, bad, (nzero, 0#6), (0, 0#6), (inf, 0#6)]
    ∧ [ninf, nzero, 0, inf].map (f tanhFn) = [(0xBF800000, 0#6), (nzero, 0#6), (0, 0#6), (0x3F800000, 0#6)]

/-- R78, R79, R151, R152: a row result that lands leaves each lane that its guard was on for at its value and every other lane,
and every other row, as they were; rows stay in canonical form. -/
def Obligations.RowResultLanes : Prop :=
  ∀ (x : Ctx) (t : VType) (r : BitVec 12) (on : Pred) (v : Nat → Nat), assocAbove 0#16384 none x.acc = true →
    let y := x.setRow r (laneMask t.width t.lanes on) (rowOf t.width t.lanes v)
    assocAbove 0#16384 none y.acc = true
    ∧ (∀ i, i < t.lanes → laneOf t (y.getRow r) i = if on.getLsbD i then v i % 2 ^ t.width else laneOf t (x.getRow r) i)
    ∧ ∀ q, q ≠ r → y.getRow q = x.getRow q

/-! ### Matrix slot -/

/-- R171, R172, R174: MPUSH writes the next row of its queue into SHADOW, MSEL exchanges the planes (with no trace of the
tenant), MSHIFT moves the window. -/
def Obligations.PlaneOperations : Prop :=
  ∀ (s : State) (g : Guard) (q : BitVec 2) (krow ks : BitVec 9), s.core.ctx.guardBit g = true →
    (∀ r st, krow.toNat < ElemFmt.k s.core.ctx.fmt.fb → nextRow (s.core.ctx.queue q) = some (r, st) →
      exec (.mpush g q krow) s = s.ctxNext fun x =>
        { x.setQueue q (popQueue (x.queue q)) with
          matrix := true
          shadow := assocSet 0#16384 x.shadow krow.toNat (rowOf 32 512 fun n => elementEnter x.ftz x.fmt.sm (digit 32 r.toNat n)) })
    ∧ (s.traceOf s.core.space = none → ∃ t, exec (.msel g) s = .next t
        ∧ t.core.ctx = { s.core.ctx with active := s.core.ctx.shadow, shadow := s.core.ctx.active }
        ∧ t = { s with core := { s.core with ctx := t.core.ctx, beats := t.core.beats, frozen := t.core.frozen } })
    ∧ exec (.mshift g ks) s = s.ctxNext fun x => { x with window := x.window + ks }

/-- R34, R109, R111, R173, R175, R176: a beat whose formats are those in effect and whose A row is there is the shared beat of its kind
(dense or sparse, from the row or from zero); formats that differ from those in effect raise ILLEGAL_ENCODING, and so does a MACCS
whose formats in effect are not both E4M3. Product k of a column has the value of its elements, their scales and the bands multiplied.
Each group of products is added to the lane with one rounding of the exact sum (a group of a BF16 or FP16 beat after its products
are truncated to multiples of 2^(e-48)), and groups are added in order; a NaN, an invalid product, or infinities of both signs give the
canonical NaN, and infinities of one sign that infinity. What is the model's choice here stands in log entries 57 and 20. -/
def Obligations.Beats : Prop :=
  (∀ (s : State) (g : Guard) (acc : BitVec 12) (q : BitVec 2) (fc : ElemFmt) (push : Option (BitVec 2 × BitVec 9)),
    s.core.ctx.guardBit g = true → (nextRow (s.core.ctx.queue q)).isSome →
    (∀ p, push = some p → p.2.toNat < ElemFmt.k s.core.ctx.fmt.fb) →
    (fc = s.core.ctx.fmt.fa →
      exec (.macc g acc q fc push) s = s.coreNext (fun c => c.beat .dense false acc q fc push)
      ∧ exec (.maccz g acc q fc push) s = s.coreNext (fun c => c.beat .dense true acc q fc push))
    ∧ (fc ≠ s.core.ctx.fmt.fa →
      exec (.macc g acc q fc push) s = .next (s.raise .illegalEncoding 5)
      ∧ exec (.maccz g acc q fc push) s = .next (s.raise .illegalEncoding 5))
    ∧ (isSteel s.core.id = true → s.core.ctx.fmt.fa = .e4m3 → s.core.ctx.fmt.fb = .e4m3 →
      exec (.maccs g acc q push) s = s.coreNext fun c => c.beat .sparse false acc q .e4m3 push)
    ∧ ((s.core.ctx.fmt.fa ≠ .e4m3 ∨ s.core.ctx.fmt.fb ≠ .e4m3) →
      exec (.maccs g acc q push) s = .next (s.raise .illegalEncoding 5)))
  ∧ (∀ (x : Ctx) (bandA bandB va vb sa sb : FVal) (a b : Nat), elementPair a b = some (va, vb) →
      scaleVal (elementScale x.tableA a) = sa → scaleVal (elementScale x.tableB b) = sb →
      (∀ v ∈ [va, sa, vb, sb, bandA, bandB], v.finite) →
      (beatProduct x bandA bandB a b).2 = false ∧ (beatProduct x bandA bandB a b).1.finite
      ∧ (beatProduct x bandA bandB a b).1.value
          = va.value * sa.value * (vb.value * sb.value) * (bandA.value * bandB.value))
  ∧ ∀ (b : Beat) (base : Row) (n : Nat), n < 512 → b.int = false →
    let acc := fp32.decode (if b.zero then 0 else digit 32 base.toNat n)
    let lane := digit 32 (b.row base).1.toNat n
    (∀ (ps : List (FVal × Bool)) (trunc : Bool), b.cols[n]? = some [((groupSum ps).col b.rm trunc).1] →
      let inf := fun (neg : Bool) => acc = .inf neg ∨ ∃ p ∈ ps, p.1 = .inf neg
      let bad := acc = .nan ∨ (∃ p ∈ ps, p.1 = .nan ∨ p.2 = true) ∨ (inf false ∧ inf true)
      let sum := fun (f : ℚ → ℚ) => ∃ neg m e, lane = (fp32.round b.rm b.ftz (.fin neg m e)).1
        ∧ (FVal.fin neg m e).value = acc.value + (ps.map fun p => f p.1.value).sum
      (bad → lane = 0x7FC00000)
      ∧ (∀ neg, ¬ bad → inf neg → lane = if neg then 0xFF800000 else 0x7F800000)
      ∧ (acc.finite → (∀ p ∈ ps, p.1.finite ∧ p.2 = false) →
        (trunc = false → sum id)
        ∧ (trunc = true → ((∀ p ∈ ps, p.1.value = 0) → sum id)
          ∧ ∀ u : Int, (∃ p ∈ ps, p.1.value ≠ 0 ∧ Int.log 2 |p.1.value| = u + 48) →
            (∀ p ∈ ps, p.1.value ≠ 0 → Int.log 2 |p.1.value| ≤ u + 48) → sum (truncated u))))
    ∧ ∀ (gs : List ColSum) (g : ColSum), b.cols[n]? = some (gs ++ [g]) →
      let first := digit 32 (({ b with cols := b.cols.set n gs } : Beat).row base).1.toNat n
      lane = digit 32 (({ b with cols := b.cols.set n [g], zero := false } : Beat).row (rowOf 32 512 fun _ => first)).1.toNat n

/-- R110, R175: an integer beat adds the exact sum of its products to each i32 lane, modulo 2^32; MACCZ starts from zero; it raises no
flag. An integer and a floating element contribute 0; what two floating elements contribute is the model's choice (log entry 20). -/
def Obligations.IntegerBeats : Prop :=
  ∀ (b : Beat) (base : Row) (as : Nat → List Nat) (bs : Nat → Nat → Nat), b.int = true → b.lost = false →
    b.cols = (List.range 512).map (fun n => [intColumn (as n) (bs n)]) →
    (∀ n, n < 512 → digit 32 (b.row base).1.toNat n
      = ((((if b.zero then 0 else digit 32 base.toNat n : Nat) : Int)
          + ((List.range (as n).length).map fun k =>
              match elementInt ((as n).getD k 0), elementInt (bs n k) with
              | some i, some j => i * j
              | none, none => intProduct ((as n).getD k 0) (bs n k)
              | _, _ => 0).sum) % 2 ^ 32).toNat)
    ∧ (b.row base).2 = 0#6

/-- R101 to R103, R180, R181, R182: a drain within the window has its 512 lanes of the row, converted to DF under RM and FTZ and
packed, in flight for six cycles with their flags: i32 and f32 lanes are copied, an INT8 drain saturates an i32 lane with NV, any other
rounds an f32 lane; with them goes the status of the row's group, unless the lanes are i32: NAN if any lane is a NaN, INF if any is an
infinity. MDRAINZ and MZERO clear the row at the end of their cycle. An access outside the window raises PROTECTION, and one within it
that is misaligned or crosses a bank ALIGNMENT, in slot 5. That the offset is taken modulo 2^64 is the model's choice (log entry 62). -/
def Obligations.Drains : Prop :=
  ∀ (s : State) (g : Guard) (acc : BitVec 12) (df : DrainFmt) (sb : BitVec 6) (off : BitVec 13), s.core.ctx.guardBit g = true →
    let x := s.core.ctx
    let e := ((x.getS sb).toNat + 256 * off.toNat) % 2 ^ 64
    let src := fun n => digit 32 (x.getRow acc).toNat n
    let ints := df = .i32 ∨ df = .int8
    let conv : Nat → Nat × FlagSet := fun a =>
      let v := signedOf 32 a
      match df with
      | .f32 => (a, 0#6)
      | .i32 => (a, 0#6)
      | .bf16 => bf16.round x.fmt.rm x.ftz (fp32.read x.ftz a)
      | .f16 => fp16.round x.fmt.rm x.ftz (fp32.read x.ftz a)
      | .e4m3 => e4m3.round x.fmt.rm false (fp32.read x.ftz a)
      | .e5m2 => e5m2.round x.fmt.rm false (fp32.read x.ftz a)
      | .int8 => ((max (-128) (min 127 v) % 256).toNat, if -128 ≤ v ∧ v ≤ 127 then 0#6 else flagNV)
    let out := fun (l : List Result) => l.map fun r => (r.wr, r.slot, r.rem, r.flags)
    let zero : Wr × Nat × Nat × FlagSet := (.row acc (BitVec.allOnes 16384) 0#16384, 5, 1, 0#6)
    let status : List (Wr × Nat × Nat × FlagSet) := if ints then [] else
      [(.dstat (BitVec.ofNat 6 (acc.toNat / 64)) ((List.range 512).any fun n => (fp32.decode (src n)).isNan)
        ((List.range 512).any fun n => (fp32.decode (src n)).isInf), 5, 6, 0#6)]
    let does := fun (r : Host.Outcome State Fault Refusal) (l : List (Wr × Nat × Nat × FlagSet)) => ∃ t, r = .next t
      ∧ s.sameBeyondCore t ∧ s.core.sameBeyondCtx t.core ∧ x.sameRegisters t.core.ctx ∧ t.core.ctx.landings = x.landings
      ∧ out t.core.ctx.results = out x.results ++ l
    (s.core.spmFits e (512 * df.bytes) 256 → ∃ (cells : List (Nat × Byte)) (flags : FlagSet),
      does (exec (.mdrain g acc df sb off) s) ((.spm cells, 5, 6, flags) :: status)
      ∧ does (exec (.mdrainz g acc df sb off) s) ((.spm cells, 5, 6, flags) :: status ++ [zero])
      ∧ cells.length = 512 * df.bytes
      ∧ (∀ n b, n < 512 → b < df.bytes → cells[n * df.bytes + b]?
          = some (spmKey s.core (e + (n * df.bytes + b)), BitVec.ofNat 8 ((conv (src n)).1 / 2 ^ (8 * b))))
      ∧ ∀ k, k < 6 → flags.getLsbD k = (List.range 512).any fun n => (conv (src n)).2.getLsbD k)
    ∧ does (exec (.mzero g acc) s) [zero]
    ∧ (s.core.window < e + 512 * df.bytes → exec (.mdrain g acc df sb off) s = .next (s.raise .protection 5)
      ∧ exec (.mdrainz g acc df sb off) s = .next (s.raise .protection 5))
    ∧ (e + 512 * df.bytes ≤ s.core.window → (e % 256 ≠ 0 ∨ e / 2 ^ 20 ≠ (e + 512 * df.bytes - 1) / 2 ^ 20) →
      exec (.mdrain g acc df sb off) s = .next (s.raise .alignment 5)
      ∧ exec (.mdrainz g acc df sb off) s = .next (s.raise .alignment 5))

/-! ### Scratchpad slot -/

/-- R84, R190, R195: a load within the window samples its bytes at issue: a row after six cycles, a scalar zero-extended after
four, LDVB the same 64 bytes in every place of the row, a gather after ten. -/
def Obligations.ScratchpadLoads : Prop :=
  ∀ (s : State) (g : Guard) (v y : BitVec 8) (d : BitVec 6) (w : Width) (b : BitVec 4) (off : BitVec 22) (disp : BitVec 12),
    s.core.ctx.guardBit g = true →
    let e := s.core.lsOffset b off.toNat
    let row := s.core.ctx.rowName v
    (s.core.spmFits e 2048 64 →
      exec (.ldv g v b off) s = s.pends 6 6 0#6 (.row row (BitVec.allOnes 16384) (bytesRow (readSpm s e 2048))))
    ∧ (s.core.spmFits e w.bytes w.bytes →
      exec (.lds g d w b off) s = s.pends 6 4 0#6 (.s d (BitVec.ofNat 64 (leNat (readSpm s e w.bytes)))))
    ∧ (s.core.spmFits e 64 64 →
      exec (.ldvb g v b off) s = s.pends 6 6 0#6 (.row row (BitVec.allOnes 16384) (rowOf 512 32 fun _ => leNat (readSpm s e 64))))
    ∧ ((∀ i, i < 512 → s.core.spmFits (s.core.elemOffset b disp y i) w.bytes w.bytes) →
      exec (.ldvx g v y b w disp) s = s.pends 6 10 0#6 (.row row (BitVec.ofNat 16384 (2 ^ (512 * 8 * w.bytes) - 1))
        (rowOf (8 * w.bytes) 512 fun i => leNat (readSpm s (s.core.elemOffset b disp y i) w.bytes))))

/-- R84, R190, R195: a store within the window has its bytes in flight for two cycles, at the offset that the load of the same
form reads. -/
def Obligations.ScratchpadStores : Prop :=
  ∀ (s : State) (g : Guard) (v y : BitVec 8) (d : BitVec 6) (w : Width) (b : BitVec 4) (off : BitVec 22) (disp : BitVec 12),
    s.core.ctx.guardBit g = true →
    let e := s.core.lsOffset b off.toNat
    (s.core.spmFits e 2048 64 →
      exec (.stv g v b off) s = s.pends 6 2 0#6 (.spm (spmCells s.core e (leBytes 2048 (s.core.ctx.getV v).toNat))))
    ∧ (s.core.spmFits e w.bytes w.bytes →
      exec (.sts g d w b off) s = s.pends 6 2 0#6 (.spm (spmCells s.core e (leBytes w.bytes (s.core.ctx.getS d).toNat))))
    ∧ ((∀ i, i < 512 → s.core.spmFits (s.core.elemOffset b disp y i) w.bytes w.bytes) →
      exec (.stvx g v y b w disp) s = s.pends 6 2 0#6 (.spm ((List.range 512).flatMap fun i =>
        spmCells s.core (s.core.elemOffset b disp y i)
          (leBytes w.bytes (digit (8 * w.bytes) (s.core.ctx.getV v).toNat i)))))

/-- R191, R196: a local atomic has its word, operands and rounding in flight for two cycles, when it reads and writes its word.
An access outside the window raises PROTECTION, and one within it that is misaligned or crosses a bank raises ALIGNMENT, in slot
6. -/
def Obligations.LocalAtomics : Prop :=
  ∀ (s : State) (g : Guard) (d a c b : BitVec 6) (w8 : Bool) (off : BitVec 8) (v : BitVec 8) (w : Width)
    (sb : BitVec 4) (offs : BitVec 22), s.core.ctx.guardBit g = true →
    let x := s.core.ctx
    let n := if w8 then 8 else 4
    let e := s.core.scaledOffset b off.toNat n
    let out := fun (op : AtomOp) (y : Word) => s.pends 6 2 0#6 (.atom op (spmKey s.core e) n (x.getS a) y x.fmt.rm x.ftz d)
    let f := s.core.scaledOffset b off.toNat 4
    (s.core.spmFits e n n →
      exec (.atlAdd g d a b w8 off) s = out .add 0#64
      ∧ exec (.atlMin g d a b w8 off) s = out .min 0#64
      ∧ exec (.atlMax g d a b w8 off) s = out .max 0#64
      ∧ exec (.atlAnd g d a b w8 off) s = out .and 0#64
      ∧ exec (.atlOr g d a b w8 off) s = out .or 0#64
      ∧ exec (.atlXchg g d a b w8 off) s = out .xchg 0#64
      ∧ exec (.atlCas g d a c b w8 off) s = out .cas (x.getS c))
    ∧ (s.core.spmFits f 4 4 → exec (.atlFadd g d a b off) s
        = s.pends 6 2 0#6 (.atom .fadd (spmKey s.core f) 4 (x.getS a) 0#64 x.fmt.rm x.ftz d))
    ∧ (let fate := fun (r : Host.Outcome State Fault Refusal) (e n align : Nat) =>
        (s.core.window < e + n → r = .next (s.raise .protection 6))
        ∧ (e + n ≤ s.core.window → (e % align ≠ 0 ∨ e / 2 ^ 20 ≠ (e + n - 1) / 2 ^ 20) → r = .next (s.raise .alignment 6))
      let at_ := s.core.lsOffset sb offs.toNat
      fate (exec (.atlAdd g d a b w8 off) s) e n n
      ∧ fate (exec (.ldv g v sb offs) s) at_ 2048 64 ∧ fate (exec (.stv g v sb offs) s) at_ 2048 64
      ∧ fate (exec (.ldvb g v sb offs) s) at_ 64 64 ∧ fate (exec (.lds g d w sb offs) s) at_ w.bytes w.bytes
      ∧ fate (exec (.sts g d w sb offs) s) at_ w.bytes w.bytes)

/-! ### Scale slot -/

/-- R104, R106, R108, R184 to R188: formats, tables, bands and the rounding mode change after four cycles; CLRFLG clears at
once. That the offset of LDSCT is taken modulo 2^64 is the model's choice (log entry 62). -/
def Obligations.ScaleSlot : Prop :=
  ∀ (s : State) (g : Guard) (fa fb : ElemFmt) (sm : ScaleMode) (ty tb fe : Bool) (b : BitVec 4) (off : BitVec 22)
    (src band : BitVec 6) (rm : RMode) (mask : BitVec 10), s.core.ctx.guardBit g = true →
    let e := s.core.lsOffset b off.toNat
    exec (.setfmt g fa fb sm ty) s = s.pends 9 4 0#6 (.fmt fa fb sm ty)
    ∧ (s.core.spmFits e 16 16 → exec (.ldsct g tb b off) s = s.pends 9 4 0#6 (.table tb (readSpm s e 16)))
    ∧ exec (.setband g tb src band) s = s.pends 9 4 0#6 (.band tb band ((s.core.ctx.getS src).setWidth 16))
    ∧ exec (.setrnd g rm) s = s.pends 9 4 0#6 (.rnd rm)
    ∧ ∃ y, exec (.clrflg g mask fe) s = s.ctxNext (fun _ => y)
        ∧ (∀ i : Fin 10, y.flags[i] = if mask.getLsbD i.val then 0#6 else s.core.ctx.flags[i])
        ∧ (y.dstatNan, y.dstatInf) = (if mask.getLsbD 5 then (0#64, 0#64) else (s.core.ctx.dstatNan, s.core.ctx.dstatInf))
        ∧ y.ferec = (if fe then FeRec.reset else s.core.ctx.ferec)

/-! ### Engine-queue slot -/

/-- R88, R90, R250, R277, R279, R281, R285: an aligned request with a free landing entry enters its classes and takes the entry,
which will land in its register: LDG, LDGV, the atomics at the home, and WAITV. With no free entry a request raises SCHEDULE,
else with a misaligned address ALIGNMENT, in slot 7. -/
def Obligations.LandingRequests : Prop :=
  ∀ (s : State) (g : Guard) (d b a : BitVec 6) (v : BitVec 8) (w : Width) (w8 susp aq rl : Bool) (cls : BitVec 4) (arv : BitVec 12),
    s.core.ctx.guardBit g = true →
    let x := s.core.ctx
    let n := if w8 then 8 else 4
    let out := fun (op : EOp) (rel : Bool) (dest : LDest) (kind : LKind) =>
      s.coreNext fun c => c.enterLanding op cls aq rel (x.getS b) arv dest kind
    let atom := fun (op : AtomOp) (m : Nat) => out (.atom op m (x.getS d) (x.getS (d + 1)) x.fmt.rm x.ftz) rl (.s d) .load
    (s.core.landingFree →
    (s.core.aligned b w.bytes → exec (.ldg g d b w cls aq arv) s = out (.load w.bytes) false (.s d) .load)
    ∧ (s.core.aligned b 64 → exec (.ldgv g v b cls aq arv) s = out (.load 2048) false (.row (x.rowName v)) .load)
    ∧ (s.core.aligned b n →
      exec (.atgAdd g d b w8 cls aq rl arv) s = atom .add n
      ∧ exec (.atgMin g d b w8 cls aq rl arv) s = atom .min n
      ∧ exec (.atgMax g d b w8 cls aq rl arv) s = atom .max n
      ∧ exec (.atgAnd g d b w8 cls aq rl arv) s = atom .and n
      ∧ exec (.atgOr g d b w8 cls aq rl arv) s = atom .or n
      ∧ exec (.atgXor g d b w8 cls aq rl arv) s = atom .xor n
      ∧ exec (.atgXchg g d b w8 cls aq rl arv) s = atom .xchg n
      ∧ exec (.atgCas g d b w8 cls aq rl arv) s = atom .cas n)
    ∧ (s.core.aligned b 4 → exec (.atgFadd g d b cls aq rl arv) s = atom .fadd 4)
    ∧ (s.core.aligned b 8 → exec (.waitv g a b susp cls aq arv) s = out (.wait (x.getS a)) false (.s a) (.wait susp)))
    ∧ (let fate := fun (r : Host.Outcome State Fault Refusal) (n : Nat) =>
        (¬ s.core.landingFree → r = .next (s.raise .schedule 7))
        ∧ (s.core.landingFree → ¬ s.core.aligned b n → r = .next (s.raise .alignment 7))
      fate (exec (.ldg g d b w cls aq arv) s) w.bytes ∧ fate (exec (.ldgv g v b cls aq arv) s) 64
      ∧ fate (exec (.atgAdd g d b w8 cls aq rl arv) s) n ∧ fate (exec (.waitv g a b susp cls aq arv) s) 8
      ∧ (¬ s.core.aligned b w.bytes → exec (.stg g d b w cls rl) s = .next (s.raise .alignment 7))
      ∧ (¬ s.core.aligned b 8 → exec (.arrive g a b cls rl) s = .next (s.raise .alignment 7)))

/-- R250, R279, R284: an aligned store, or an arrival, enters its classes with its bytes or its count, and takes no landing
entry. -/
def Obligations.StoreRequests : Prop :=
  ∀ (s : State) (g : Guard) (d b a : BitVec 6) (v : BitVec 8) (w : Width) (rl : Bool) (cls : BitVec 4),
    s.core.ctx.guardBit g = true →
    let x := s.core.ctx
    let out := fun (op : EOp) => s.coreNext fun c => c.enter op (classesOf cls false rl) cls false rl (x.getS b) none
    (s.core.aligned b w.bytes → exec (.stg g d b w cls rl) s = out (.store (leBytes w.bytes (x.getS d).toNat)))
    ∧ (s.core.aligned b 64 → exec (.stgv g v b cls rl) s = out (.store (leBytes 2048 (x.getV v).toNat)))
    ∧ (s.core.aligned b 8 → exec (.arrive g a b cls rl) s = out (.arrive (BitVec.ofNat 24 (x.getS a).toNat)))

/-- R286, R287, R292: a copy command within the bound of its length class, whose scratchpad ranges lie in the window and whose
addresses are aligned, enters its class; CPYO with the variable it arrives on, CPYT with its record and box, CPYG with the address of its
descriptor. A length over the bound, or a range outside the window, raises PROTECTION, and else a misaligned address ALIGNMENT, in slot 7.
What is checked of a CPYT at issue, its destination's first byte and its record, is the model's reading (log entry 15). -/
def Obligations.CopyCommands : Prop :=
  ∀ (s : State) (g : Guard) (q : BitVec 3) (d sr n : BitVec 6) (lc cls : BitVec 4), s.core.ctx.guardBit g = true →
    let c := s.core
    let x := s.core.ctx
    let len := (x.getS n).toNat % 2 ^ 32
    let inside := windowRange c (x.getS d) len = true ∧ windowRange c (x.getS sr) len = true
    let record := windowRange c (x.getS d) 1 = true ∧ windowRange c (x.getS sr) 192 = true
    let fits := len ≤ 256 * 2 ^ lc.toNat ∧ inside
    let fails := fun (i : Instr) (t : Trap) => exec i s = .next (s.raise t 7)
    let out := fun (k : Copy) => s.coreNext fun c => c.enter (.copy q k) (classesOf cls false false) cls false false (x.getS sr) none
    (fits → exec (.cpy g q d sr n lc cls) s
      = out ⟨x.getS d, x.getS sr, len, cls, false, 0#64, false, [], c.scope = 4#3, c.scope, none, none, [], false⟩)
    ∧ (fits → (x.getS (n + 1)).toNat % 8 = 0 → exec (.cpyo g q d sr n lc cls) s
      = out ⟨x.getS d, x.getS sr, len, cls, true, x.getS (n + 1), false, [], c.scope = 4#3, c.scope, none, none, [], false⟩)
    ∧ (record → c.aligned sr 64 → exec (.cpyt g q d sr n lc cls) s
      = out ⟨x.getS d, x.getS sr, 256 * 2 ^ lc.toNat, cls, false, 0#64, true, x.boxAt n, c.scope = 4#3, c.scope, none, none, [], false⟩)
    ∧ (c.aligned sr 64 → exec (.cpyg g q sr cls) s
      = s.coreNext fun c => c.enter (.copyNode q (x.getS sr)) (classesOf cls false false) cls false false (x.getS sr) none)
    ∧ (¬ fits → fails (.cpy g q d sr n lc cls) .protection ∧ fails (.cpyo g q d sr n lc cls) .protection)
    ∧ (¬ record → fails (.cpyt g q d sr n lc cls) .protection)
    ∧ (fits → (x.getS (n + 1)).toNat % 8 ≠ 0 → fails (.cpyo g q d sr n lc cls) .alignment)
    ∧ (record → ¬ c.aligned sr 64 → fails (.cpyt g q d sr n lc cls) .alignment)
    ∧ (¬ c.aligned sr 64 → fails (.cpyg g q sr cls) .alignment)

/-- R245, R246, R256, R257, R296, R312, R313: fences, maintenance, DEPEND and SIGNAL enter their classes; QFENCE and DEPEND
stand in none; RFENCE empties the record cache at the end of its cycle. R44: a privileged operation of a task without privilege
raises PRIVILEGE in its slot, whatever its guard. -/
def Obligations.FencesAndMaintenance : Prop :=
  (∀ (s : State) (g : Guard) (kind : FenceKind) (cmask : BitVec 16) (qmask : BitVec 8) (a b : BitVec 6),
    s.core.ctx.guardBit g = true →
    let x := s.core.ctx
    let all := BitVec.allOnes 16
    let out := fun (op : EOp) (classes : BitVec 16) (acq rel : Bool) (va : Word) =>
      s.coreNext fun c => c.enter op classes 0#4 acq rel va none
    exec (.fence g kind cmask) s = out (.fence kind cmask) cmask (decide (kind ≠ .rel)) (decide (kind ≠ .acq)) 0#64
    ∧ exec (.qfence g qmask) s = out (.qfence qmask) 0#16 false false 0#64
    ∧ exec (.rfence g) s = s.pends 7 1 0#6 .rfence
    ∧ exec (.depend g a b) s = out (.depend (x.getS a) (x.getS b)) 0#16 false false 0#64
    ∧ exec (.signal g a b) s = out (.signal (BitVec.ofNat 16 (x.getS a).toNat) (x.getS b)) all false true (x.getS b)
    ∧ (s.core.priv = true →
      exec (.tlbinv g a b) s = out (.tlbinv (BitVec.ofNat 2 (x.getS a).toNat)) all false false (x.getS b)
      ∧ exec (.cachewb g a b) s = out (.cachewb (x.getS a)) all false false (x.getS b)
      ∧ exec (.cacheinv g a b) s = out (.cacheinv (x.getS a)) all false false (x.getS b)))
  ∧ ∀ (s : State) (g : Guard) (a b : BitVec 6), s.core.priv = false →
    exec (.tlbinv g a b) s = .next (s.raise .privilege 7) ∧ exec (.cachewb g a b) s = .next (s.raise .privilege 7)
    ∧ exec (.cacheinv g a b) s = .next (s.raise .privilege 7) ∧ exec (.idle g) s = .next (s.raise .privilege 0)
    ∧ exec (.trapret g) s = .next (s.raise .privilege 0)

/-- R310, R311: SPAWN of an aligned descriptor with live, sound handles in its mask enters every class as a release; each named
handle becomes MOVED at the end of the cycle, and its step keeps its place among those of the task. -/
def Obligations.SpawnRequests : Prop :=
  ∀ (s : State) (g : Guard) (a b : BitVec 6) (hm : BitVec 16), s.core.ctx.guardBit g = true →
    s.core.aligned b 64 → (∀ k, k < 16 → hm.getLsbD k = true → s.hasHandle (BitVec.ofNat 4 k)) →
    let x := s.core.ctx
    let named := (List.range 16).filter fun k => hm.getLsbD k
    ∃ t, exec (.spawn g a b hm) s = .next t ∧ s.sameBeyondCore t
      ∧ t.core.fifo = (s.core.enter (.spawn (x.getS a) (x.getS b) hm (named.map fun k => (k, (x.getH (BitVec.ofNat 4 k)).val)))
          (BitVec.allOnes 16) 0#4 false true (x.getS b) none).fifo
      ∧ t.core.hsteps = s.core.hsteps ++ (if hm = 0#16 then [] else
          [⟨.spawn (nextEntry s.core.fifo), s.core.owner, none, x.pc,
            named.map fun k => (BitVec.ofNat 4 k, x.getH (BitVec.ofNat 4 k))⟩])
      ∧ t.core.ctx.results.map (fun r => (r.wr, r.slot, r.rem)) = x.results.map (fun r => (r.wr, r.slot, r.rem))
          ++ named.map fun k => (.h (BitVec.ofNat 4 k) ⟨(x.getH (BitVec.ofNat 4 k)).val, .moved⟩, 7, 1)

/-! ### Handles and tile fetch -/

/-- R268 to R273, R304 to R309: the handle operations whose registers are as they must be: the registers change at the end of
the cycle, and the step at the entry waits in issue order. A source that is EMPTY or MOVED, a live destination that would be
lost, and a misaligned mailbox raise their traps in slot 7. -/
def Obligations.HandleOperations : Prop :=
  ∀ (s : State) (g : Guard) (h1 h2 h3 : BitVec 4) (sa sb : BitVec 6) (ax : BitVec 3) (susp : Bool), s.core.ctx.guardBit g = true →
    let c := s.core
    let x := s.core.ctx
    let val := fun h => (x.getH h).val
    let moved := fun h => HReg.mk (val h) .moved
    let after := fun (c : Core) (op : HOp) (was : List (BitVec 4)) =>
      ({ c with hsteps := c.hsteps ++ [⟨op, c.owner, none, c.ctx.pc, was.map fun h => (h, c.ctx.getH h)⟩] } : Core)
    let step := fun (c : Core) (op : HOp) => after c op []
    let later := fun (y : Ctx) (h : BitVec 4) (r : HReg) => y.push 7 1 0#6 (.h h r)
    (s.hasHandle h2 → (c.freeH h1 ∨ h1 = h2) →
      exec (.hmov g h1 h2) s = s.ctxNext fun y => later (later y h2 (moved h2)) h1 ⟨val h2, .live⟩)
    ∧ (s.hasHandle h1 → c.aligned sb 16 →
      exec (.hput g h1 sb) s = s.coreNext fun c => (after c (.put (val h1) (x.getS sb)) [h1]).onCtx fun y => later y h1 (moved h1))
    ∧ (c.freeH h1 → c.aligned sb 16 →
      exec (.htake g h1 sa sb susp) s = s.coreNext fun c => step c (.take h1 sa (x.getS sb) susp))
    ∧ (s.hasHandle h1 → c.aligned sa 64 →
      exec (.hld g h1 sa sb) s = s.coreNext (fun c => step c (.rowLoad (val h1) (x.getS sa) (x.getS sb)))
      ∧ exec (.hst g h1 sa sb) s = s.coreNext (fun c => step c (.rowStore (val h1) (x.getS sa) (x.getS sb))))
    ∧ (s.hasHandle h1 → x.streamThrough (val h1) = false →
      exec (.hinfo g h1 ax sa) s = s.coreNext fun c => step c (.info (val h1) sa ax.toNat))
    ∧ (s.hasHandle h2 → s.hasHandle h3 → (c.freeH h1 ∨ h1 = h2 ∨ h1 = h3) →
      x.streamThrough (val h2) = false → x.streamThrough (val h3) = false →
      exec (.hrejoin g h1 h2 h3) s = s.coreNext fun c => step c (.rejoin h1 h2 h3 (val h2) (val h3) false))
    ∧ (let st := fun h => (x.getH h).st
      (st h2 = .empty → exec (.hmov g h1 h2) s = .next (s.raise .emptyHandle 7))
      ∧ (st h2 = .moved → exec (.hmov g h1 h2) s = .next (s.raise .movedHandle 7))
      ∧ (st h1 = .empty → exec (.hinfo g h1 ax sa) s = .next (s.raise .emptyHandle 7))
      ∧ (st h1 = .moved → exec (.hinfo g h1 ax sa) s = .next (s.raise .movedHandle 7))
      ∧ (s.hasHandle h2 → st h1 = .live → h1 ≠ h2 → exec (.hmov g h1 h2) s = .next (s.raise .handleLeak 7))
      ∧ (c.aligned sb 16 → st h1 = .live → exec (.htake g h1 sa sb susp) s = .next (s.raise .handleLeak 7))
      ∧ (¬ c.aligned sb 16 → exec (.hput g h1 sb) s = .next (s.raise .alignment 7)
        ∧ exec (.htake g h1 sa sb susp) s = .next (s.raise .alignment 7)))

/-- R270, R271, R305, R306: HSPLIT of a live handle onto registers that hold no other live one: at the end of the cycle the parent
becomes MOVED and the halves become LIVE, with the generations of two entries, which are different, FREE and in no split that waits
while the table has such entries; the split waits for its step, with what the registers held before. Which entries they are is a free
choice, which an order log of the partition records or forces (log entries 5 and 32). A source that is EMPTY or MOVED, or a live
destination that would be lost, raises its trap in slot 7. -/
def Obligations.HandleSplits : Prop :=
  ∀ (s : State) (g : Guard) (h1 h2 h3 : BitVec 4) (ax : BitVec 3) (sp : BitVec 6), s.core.ctx.guardBit g = true →
    let x := s.core.ctx
    let st := fun h => (x.getH h).st
    (s.hasHandle h3 → (s.core.freeH h1 ∨ h1 = h3) → (s.core.freeH h2 ∨ h2 = h3) →
      let v := (x.getH h3).val
      let part := s.core.owner.key.part
      ∃ l r t, exec (.hsplit g h1 h2 h3 ax sp) s = .next t
        ∧ t.core.hsteps = s.core.hsteps ++ [⟨.split v ax.toNat (signedOf 32 (x.getS sp).toNat) l r, s.core.owner, none, x.pc,
          [(h3, x.getH h3), (h1, x.getH h1), (h2, x.getH h2)]⟩]
        ∧ t.core.ctx.results.map (fun q => (q.wr, q.slot, q.rem)) = x.results.map (fun q => (q.wr, q.slot, q.rem))
            ++ [(.h h3 ⟨v, .moved⟩, 7, 1), (.h h1 ⟨makeHandle s.handleKey l (s.entryOf l).gen part, .live⟩, 7, 1),
              (.h h2 ⟨makeHandle s.handleKey r (s.entryOf r).gen part, .live⟩, 7, 1)]
        ∧ (s.lineage.length + s.allTaken.length + 2 ≤ Config.lineageEntries → l ≠ r
          ∧ (s.entryOf l).st = .free ∧ (s.entryOf r).st = .free ∧ l ∉ s.allTaken ∧ r ∉ s.allTaken)
        ∧ t = { s with core := t.core, picks := t.picks, replays := t.replays }
        ∧ (s.replayOf s.core.space.part = none → t.replays = s.replays))
    ∧ (st h3 = .empty → exec (.hsplit g h1 h2 h3 ax sp) s = .next (s.raise .emptyHandle 7))
    ∧ (st h3 = .moved → exec (.hsplit g h1 h2 h3 ax sp) s = .next (s.raise .movedHandle 7))
    ∧ (s.hasHandle h3 → (st h1 = .live ∧ h1 ≠ h3 ∨ st h2 = .live ∧ h2 ≠ h3) →
      exec (.hsplit g h1 h2 h3 ax sp) s = .next (s.raise .handleLeak 7))

/-- R297 to R302: a tile fetch with a free landing entry and fewer than two streams in its queue starts a stream, with its
record at once where the record cache holds it; TFX cancels the queues of its mask at the end of its cycle. -/
def Obligations.TileFetches : Prop :=
  ∀ (s : State) (g : Guard) (q : BitVec 2) (t k : BitVec 6) (h : BitVec 4) (arv : BitVec 12) (qm : BitVec 4),
    s.core.ctx.guardBit g = true → s.core.landingFree →
    ((s.core.ctx.queue q).filter fun st => !st.ended).length < 2 →
    let x := s.core.ctx
    let opens := fun (isB : Bool) => s.coreNext fun c =>
      let r := c.newStream q isB (x.getS t) none (x.boxAt k) arv
      match c.recCache.find? fun u => decide (u.addr = x.getS t) with
      | some u => r.1.openStream q r.2 u
      | none => r.1
    (s.core.aligned t 64 → exec (.tfa g q t k arv) s = opens false ∧ exec (.tfb g q t k arv) s = opens true)
    ∧ (s.hasHandle h → exec (.tfh g q h k arv) s = s.coreNext fun c =>
        let r := c.newStream q false 0#64 (some (x.getH h).val) (x.boxAt k) arv
        { r.1 with hsteps := c.hsteps ++ [⟨.stream (x.getH h).val q r.2.id, c.owner, none, x.pc, []⟩] })
    ∧ exec (.tfx g qm) s = s.pends 8 1 0#6 (.tfx qm)

/-! ### Control slot -/

/-- R122: a branch takes effect after one delay bundle, at a signed bundle offset or at a register; a call leaves PC + 128 in
s62. A register target that is not a bundle address raises ALIGNMENT. -/
def Obligations.Transfers : Prop :=
  ∀ (s : State) (g : Guard) (off : BitVec 24) (a : BitVec 6), s.core.ctx.guardBit g = true →
    let x := s.core.ctx
    let there := fun (y : Ctx) (t : BitVec 58) => ({ y with delayTarget := some t } : Ctx)
    let link := fun (y : Ctx) => y.push 0 1 0#6 (.s 62#6 (BitVec.ofNat 64 (64 * x.pc.toNat + 128)))
    let near := BitVec.ofInt 58 (x.pc.toNat + off.toInt)
    let far := BitVec.ofNat 58 ((x.getS a).toNat / 64)
    exec (.br g off) s = s.ctxNext (fun y => there y near)
    ∧ exec (.call g off) s = s.ctxNext (fun y => there (link y) near)
    ∧ (s.core.aligned a 64 → exec (.bri g a) s = s.ctxNext (fun y => there y far)
      ∧ exec (.calli g a) s = s.ctxNext (fun y => there (link y) far))
    ∧ (s.core.aligned 62#6 64 → exec (.ret g) s = s.ctxNext fun y => there y (BitVec.ofNat 58 ((x.getS 62#6).toNat / 64)))
    ∧ (¬ s.core.aligned a 64 → exec (.bri g a) s = .next (s.raise .alignment 0) ∧ exec (.calli g a) s = .next (s.raise .alignment 0))

/-- R124, R125, R127: LOOP and LOOPR on a level with no level active: N iterations of the body that follows, N and the epilogue
count from the register for LOOPR; N = 0 skips the body; LBRK of an active level leaves it and goes past its last bundle. -/
def Obligations.LoopStarts : Prop :=
  ∀ (s : State) (g : Guard) (lc : BitVec 2) (body : BitVec 12) (count : BitVec 20) (a : BitVec 6), s.core.ctx.guardBit g = true →
    let x := s.core.ctx
    let last := x.pc + BitVec.ofNat 58 body.toNat
    let starts := fun (r : Host.Outcome State Fault Refusal) (n : BitVec 20) (e : BitVec 4) =>
      (n ≠ 0#20 → lc ≠ 3#2 → r = s.ctxNext fun y => y.setLevel lc ⟨x.pc + 1, last, n, e, true, 0#2⟩)
      ∧ (n ≠ 0#20 → lc = 3#2 → r = s.ctxNext fun y => (y.setLevel lc ⟨x.pc + 1, last, n, e, true, 0#2⟩).startModulo)
      ∧ (n = 0#20 → r = s.ctxNext fun y =>
          { y.setLevel lc ⟨x.pc + 1, last, 0#20, e, false, 0#2⟩ with redirect := some (last + 1) })
    ((∀ k, (x.level k).active = false) →
      starts (exec (.loop g lc body count) s) count 0#4
      ∧ starts (exec (.loopr g lc body a) s) (BitVec.ofNat 20 (x.getS a).toNat)
          (if lc = 3#2 then BitVec.ofNat 4 ((x.getS a).toNat / 2 ^ 32) else 0#4))
    ∧ ((x.level lc).active = true → ∃ y, exec (.lbrk g lc) s = s.ctxNext (fun _ => y)
        ∧ y.redirect = some ((x.level lc).last + 1) ∧ (y.level lc).active = false)
    ∧ ((x.level lc).active = false → exec (.lbrk g lc) s = .next s)

/-- R126, R129: at the last bundle of the one active level, a count above 1 goes back to START with the count one less, and on
level 3 turns the registers by one with p16 all ones; then level 3 takes its epilogue with p16 all zeros; then the level
ends. -/
def Obligations.LoopBackEdges : Prop :=
  ∀ (x : Ctx) (lc : BitVec 2), (x.level lc).active = true → (x.level lc).last = x.pc → x.redirect = none → x.delayTarget = none →
    (∀ k, k ≠ lc → (x.level k).active = false) →
    let l := x.level lc
    let r := x.nextBundle
    (1 < l.lcnt.toNat → r.2 = true ∧ r.1.pc = l.start ∧ (r.1.level lc).lcnt = l.lcnt - 1 ∧ (r.1.level lc).active = true
      ∧ r.1.rrb = (if lc = 3#2 then x.rrb - 1 else x.rrb)
      ∧ (lc = 3#2 → r.1.getP 16#5 = BitVec.allOnes 1024))
    ∧ (l.lcnt.toNat ≤ 1 → 0 < l.ecnt.toNat → r.2 = true ∧ r.1.pc = l.start ∧ (r.1.level lc).ecnt = l.ecnt - 1
      ∧ r.1.rrb = (if lc = 3#2 then x.rrb - 1 else x.rrb)
      ∧ (lc = 3#2 → r.1.getP 16#5 = 0#1024))
    ∧ (l.lcnt.toNat ≤ 1 → l.ecnt = 0#4 → r.2 = false ∧ r.1.pc = x.pc + 1 ∧ (r.1.level lc).active = false ∧ r.1.rrb = x.rrb)

/-- R130 to R134, R137, R372: the suspension points, the barrier and the wait: what the core does once the bundle, with its stall cycles and
its back-edge test, is over; WAITC then adds its cycles. IDLE is privileged. NOP does nothing. R136, R395: MARK keeps its drift for the next
one and ends interlock tracing; with MARK records of a trace of its tenant on it records its drift, which arms interlock tracing anew where
it differs from the one before by more than the threshold. -/
def Obligations.SuspensionAndMarkers : Prop :=
  (∀ (s : State) (g : Guard) (n : BitVec 16), s.core.ctx.guardBit g = true →
    let pc := s.core.ctx.pc
    exec (.yield g) s = s.coreNext (fun c => { c with after := .drainYield })
    ∧ exec (.commit g) s = s.coreNext (fun c => { c with after := .drainCommit, commitPc := pc, commitSlot := 0 })
    ∧ exec (.endt g) s = s.coreNext (fun c => { c with after := .drainEnd, commitPc := pc, commitSlot := 0 })
    ∧ exec (.waitc g n) s = s.coreNext (fun c => { c with after := .waitc n.toNat })
    ∧ exec (.cbar g) s = s.coreNext (fun c => { c with after := .barrier, commitPc := pc })
    ∧ (s.core.priv = true → exec (.idle g) s = s.coreNext fun c => { c with after := .drainIdle })
    ∧ exec .nop s = .next s)
  ∧ ∀ (s : State) (g : Guard) (ex : BitVec 32), s.core.ctx.guardBit g = true →
    let x := s.core.ctx
    let quiet := s.ctxNext fun x => { x with prevDrift := some (x.driftClocks - ex), armed := false }
    (s.traceOf s.core.space = none → exec (.mark g ex) s = quiet)
    ∧ (∀ tr, s.traceOf s.core.space = some tr → tr.flags.getLsbD 2 = false → exec (.mark g ex) s = quiet)
    ∧ (∀ tr, s.traceOf s.core.space = some tr → tr.flags.getLsbD 2 = true → ∃ t, exec (.mark g ex) s = .next t
      ∧ t.core = { s.core with ctx := { x with
          prevDrift := some (x.driftClocks - ex)
          armed := match x.prevDrift with
            | some p => decide (tr.thresh.toNat < ((x.driftClocks - ex).toInt - p.toInt).natAbs)
            | none => false } })

/-- R121, R137, R370, R371: TRAP without an open handler raises SOFTWARE_TRAP with its immediate; with one it saves the return
address in s60 and the cause in s61, sets ACTIVE and goes to the handler; TRAPRET clears ACTIVE and goes back to s60 after a
delay bundle. -/
def Obligations.TrapHandler : Prop :=
  ∀ (s : State) (g : Guard) (imm : BitVec 16), s.core.ctx.guardBit g = true →
    let c := s.core
    let x := s.core.ctx
    (c.trap = none → (c.priv = false ∨ x.trapEn = false ∨ x.trapActive = true) →
      exec (.trap g imm) s = s.coreNext fun c => { c with trap := some ⟨.softwareTrap, 0#8, x.pc ++ 0#6, imm, 0#64⟩ })
    ∧ (c.priv = true → x.trapEn = true → x.trapActive = false → ∃ t, exec (.trap g imm) s = .next t ∧ s.sameBeyondCore t
        ∧ t.core.trap = c.trap ∧ t.core.ctx.trapActive = true ∧ t.core.ctx.redirect = some x.trapHandler
        ∧ t.core.issuing = [] ∧ t.core.weight = 0 ∧ t.core.stall = 0
        ∧ t.core.ctx.results.map (fun r => (r.wr, r.slot, r.rem)) = x.results.map (fun r => (r.wr, r.slot, r.rem))
            ++ [(.s 60#6 ((x.pc + 1) ++ 0#6), 0, 1), (.s 61#6 (BitVec.ofNat 64 (0x1E + 256 * imm.toNat)), 0, 1)])
    ∧ (c.priv = true → x.trapActive = true → c.aligned 60#6 64 → exec (.trapret g) s = s.ctxNext fun y =>
        { y with trapActive := false, delayTarget := some (BitVec.ofNat 58 ((x.getS 60#6).toNat / 64)) })
    ∧ (c.priv = true → x.trapActive = false → exec (.trapret g) s = .next (s.raise .illegalEncoding 0))

/-! ### The machine -/

/-- R45, R69, R391, R411: a step in which the bundle due issues runs its operations, in slot order, in the state that its issue
leaves, and a bundle of one operation is that operation; a bundle that does not decode, or fails a check of steps 1 to 3, raises
its trap, a fault of a slot behind the checks of the slots below it; a bundle that a freeze of step 6 holds is not judged again; any
other event is that event, and where it performs at a home in a recorded or replayed run the order log has its place (R403). What is the model's choice here stands in log entries 5 and 62. -/
def Obligations.StepRunsBundle : Prop :=
  ∀ (s : State) (b : BitVec 512) (ops : List Instr),
    let u := s.nextEvent.2
    let v := u.tested
    (s.nextEvent.1 ≠ .bundleIssue →
      (∀ t, exec s.nextEvent.1 u = .next t → step s = .next (u.noteStep t s.nextEvent.1))
      ∧ ((u.replays = [] ∨ u.homeStep s.nextEvent.1 = none) → step s = exec s.nextEvent.1 u))
    ∧ (s.nextEvent.1 = .bundleIssue → u.core.atBoundary = true → u.stands = false → u.core.autoCommit = false →
      u.fetch = .bundle b → u.core.fetched = true → u.armOf u.core.space = none → u.core.landsNow = false →
      (∀ e k, decodeBundle u.core.priv b = .error (e, k) →
        let below := if k = 0 ∨ k = 0xFF then none else v.core.slotFate (decodeBefore v.core.priv b Slot.all)
        (below = none → step s = .next (v.raise (decodeTrap e) k))
        ∧ ∀ t j, below = some (t, j) → step s = .next (v.raise t j))
      ∧ (decodeBundle u.core.priv b = .ok ops →
        let admitted := v.core.earlyFate (headerOf b) ops = none ∧ v.core.windowSum (weightOf ops) ≤ v.core.allowAW.toNat
          ∧ v.operandFate 0 ops = none ∧ (∀ i ∈ ops, isTrapOp i = true → v.core.ctx.guardBit (guardIn i) = false)
          ∧ (isSteel v.core.id = true ∨ ops.any steelOnly = false)
        (∀ t k, v.core.judged = false → v.core.earlyFate (headerOf b) ops = some (t, k) → step s = .next (v.raise t k))
        ∧ ((v.core.judged = true ∨ admitted) → v.waitCode (headerOf b) ops = 0#4 → v.core.rowFate ops = none →
          exec .bundleIssue u = .next (v.startIssue (headerOf b) ops)
          ∧ step s = runOps ops (v.startIssue (headerOf b) ops)
          ∧ ∀ i, ops = [i] → step s = exec i (v.startIssue (headerOf b) ops))))

/-- R27 to R43: the words that the specification spells out for examples of each slot decode to those operations; a NOP with a
bit set, a wait of no cycles, and IDLE without privilege are refused. -/
def Obligations.DecodeWords : Prop :=
  let p0 : Guard := ⟨0#5, false⟩
  decodeSlot .ctl true 0x0103FFFFF400#48 = .ok (.br p0 (-3))
  ∧ decodeSlot .ctl true 0x0E0000000064#48 = .ok (.waitc p0 100#16)
  ∧ decodeSlot .sa true 0x030071FFFFC0#48 = .ok (.addi false p0 7#6 7#6 (-64))
  ∧ decodeSlot .sb true 0x180052345678#48 = .ok (.movhi true p0 5#6 0x2345678#28)
  ∧ decodeSlot .vx true 0x130020181E20#48 = .ok (.vsel false p0 8#8 6#8 7#8 .f16 4#5)
  ∧ decodeSlot .mx true 0x04001900A250#48 = .ok (.macc p0 100#12 0#2 .e4m3 (some (1#2, 37#9)))
  ∧ decodeSlot .ls true 0x04005C400008#48 = .ok (.sts p0 5#6 .b8 1#4 8#22)
  ∧ decodeSlot .sc true 0x020201000040#48 = .ok (.ldsct p0 true 4#4 0x40#22)
  ∧ decodeSlot .eq true 0x090110494900#48 = .ok (.cpyo p0 2#3 8#6 9#6 10#6 4#4 8#4)
  ∧ decodeSlot .eq true 0x34010000EA40#48 = .ok (.htake p0 4#4 7#6 20#6 true)
  ∧ decodeSlot .tf true 0x020118804000#48 = .ok (.tfb p0 1#2 6#6 8#6 64#12)
  ∧ decodeSlot .ctl true 0#48 = .ok .nop
  ∧ decodeSlot .ctl true 1#48 = .error .illegalEncoding
  ∧ decodeSlot .ctl true 0x0E0000000000#48 = .error .illegalEncoding
  ∧ decodeSlot .ctl false 0x110000000000#48 = .error .privilege

/-- R24 to R43: in every slot the word of a well-formed operation decodes to it, and a word that decodes to an operation is that
operation's word; a bundle made of a sound header and of operations in rising slots decodes to them. -/
def Obligations.EncodeDecode : Prop :=
  (∀ (i : Instr) (k : Slot), WellFormed i → i.slot = some k → ∃ w, encode i = some w ∧ decodeSlot k true w = .ok i)
  ∧ (∀ (i : Instr) (k : Slot) (priv : Bool) (w : BitVec 48), decodeSlot k priv w = .ok i → i ≠ .nop →
      WellFormed i ∧ i.slot = some k ∧ encode i = some w)
  ∧ (∀ (h : BitVec 32) (is : List Instr), headerOk h = true → is ≠ [] →
      (∀ i ∈ is, WellFormed i ∧ i ≠ .nop ∧ i.slot.isSome = true) →
      is.Pairwise (fun i j => slotNo i < slotNo j) →
      headerOf (encodeBundle h is) = h ∧ decodeBundle true (encodeBundle h is) = .ok is)

/-- The memory and the scratchpads of every state that a step reaches from canonical ones are canonical, and so is the lineage table (R271).
What is the model's choice here stands in log entry 1. -/
def Obligations.MemoryStaysCanonical : Prop :=
  ∀ s t : State, step s = .next t →
    (s.canonical → t.canonical)
    ∧ (assocAbove Lineage.free none s.lineage = true → assocAbove Lineage.free none t.lineage = true)

/-- R63, R72, R73, R104, R107, R108, R270, R383, R389: reset is BOOT with bring-up to come and canonical, empty memories; the
first step is POWER_ON, which ends READY, with 64 idle cores, no partition and zeroed memories, or FAILED. What is the model's
choice here stands in log entries 1, 2, 3 and 30. -/
def Obligations.ResetAndPowerOn : Prop :=
  let r := State.reset
  let x := r.core.ctx
  r.canonical ∧ r.devState = .boot ∧ r.inbox = [.powerOn] ∧ r.parts = [] ∧ r.mem = [] ∧ r.spm = []
  ∧ r.actions = [.stop, .stop, .stop, .erase]
  ∧ x.getS 0#6 = 0#64 ∧ x.getP 0#5 = BitVec.allOnes 1024
  ∧ x.fmt = ⟨.e4m3, .e4m3, .none, false, .rne⟩ ∧ (∀ i : Fin 16, x.tableA[i] = 0x60#8 ∧ x.tableB[i] = 0x60#8)
  ∧ (∀ i : Fin 64, x.bandA[i] = 0x3F80#16) ∧ (∀ i : Fin 8, x.bandB[i] = 0x3F80#16)
  ∧ (∀ h, (x.getH h).st = .empty) ∧ (∀ k, (x.level k).active = false)
  ∧ r.core.allowA1 = 64#8 ∧ r.core.allowAW = 384#10
  ∧ (∀ c : Fin 16, r.core.energy.edebit[c] = BitVec.ofNat 8 (4 * (c.val + 1)))
  ∧ r.core.energy.ebudget = r.core.energy.erefill
  ∧ step r = exec .powerOn { r with inbox := [] }
  ∧ ∀ s : State, ∃ t, exec .powerOn s = .next t ∧ (t.devState = .ready ∨ t.devState = .failed)
      ∧ (t.devState = .ready → t.parts = [] ∧ t.mem = [] ∧ t.spm = [] ∧ t.cores.length = 64
        ∧ ∀ c ∈ t.cores, c.task = none ∧ c.phase = .noTask)

/-- R83, R85, R95, R193, R196, R197: at the end of a cycle the results of which one, or two, are due: a scalar result is in its
register, and no other scalar register, row, byte of memory or of a scratchpad has changed; s0 reads zero. Of two results for one
register the higher slot wins, and of one slot the later issue. The bytes of a scratchpad write stand in the scratchpad, and of two for
one byte the later; a local atomic has put its new value there, and its old value is on its way to its register, four cycles
later, with its flags. No byte that a copy has yet to show is in flight here (log entry 26). -/
def Obligations.ScalarResultLands : Prop :=
  ∀ (s : State) (r q : Result) (d : BitVec 6) (v w : Word),
    s.core.phase = .issued → s.core.mid = true → s.core.freeze = 0#4 → r.rem = 1 →
    (r.wr = .s d v → s.core.ctx.results = [r] → s.spmLate = [] → ∃ t, exec .resultLand s = .next t
      ∧ t.core.ctx.getS d = (if d = 0#6 then 0#64 else v)
      ∧ (∀ n, n ≠ d → t.core.ctx.getS n = s.core.ctx.getS n)
      ∧ t.core.ctx.acc = s.core.ctx.acc ∧ t.mem = s.mem ∧ t.spm = s.spm
      ∧ t.core.ctx.results = [] ∧ t.core.ctx.cycle = s.core.ctx.cycle + 1
      ∧ t.core.time = s.core.time + clockOf s.core.id ∧ t.core.mid = false)
    ∧ (r.wr = .s d v → q.wr = .s d w → q.rem = 1 → (r.slot < q.slot ∨ (r.slot = q.slot ∧ r.order < q.order)) → d ≠ 0#6 →
      (s.core.ctx.results = [r, q] ∨ s.core.ctx.results = [q, r]) →
      ∃ t, exec .resultLand s = .next t ∧ t.core.ctx.getS d = w)
    ∧ (∀ cells, s.canonical → s.spmLate = [] → r.wr = .spm cells → s.core.ctx.results = [r] → ∃ t, exec .resultLand s = .next t
      ∧ (∀ i a b, cells[i]? = some (a, b) → (∀ (j : Nat) (c : Nat × Byte), i < j → cells[j]? = some c → c.1 ≠ a) → readByte t.spm a = b)
      ∧ (∀ a, (∀ c : Nat × Byte, c ∈ cells → c.1 ≠ a) → readByte t.spm a = readByte s.spm a)
      ∧ t.mem = s.mem ∧ (∀ n, t.core.ctx.getS n = s.core.ctx.getS n) ∧ t.core.ctx.acc = s.core.ctx.acc ∧ t.core.ctx.results = [])
    ∧ (∀ op a size x y rm ftz, s.canonical → s.spmLate = [] → r.wr = .atom op a size x y rm ftz d → (size = 4 ∨ size = 8) →
      s.core.ctx.results = [r] →
      let old := leNat (readBytes s.spm a size)
      let new := atomNew op size rm ftz old (x.toNat % 2 ^ (8 * size)) (y.toNat % 2 ^ (8 * size))
      ∃ t, exec .resultLand s = .next t ∧ readBytes t.spm a size = leBytes size new.1
      ∧ (∀ b, (b < a ∨ a + size ≤ b) → readByte t.spm b = readByte s.spm b)
      ∧ t.mem = s.mem ∧ (∀ n, t.core.ctx.getS n = s.core.ctx.getS n) ∧ t.core.ctx.acc = s.core.ctx.acc
      ∧ t.core.ctx.results.map (fun z => (z.wr, z.slot, z.rem, z.flags)) = [(.s d (BitVec.ofNat 64 old), r.slot, 4, new.2)])

/-- The frame of every slot operation at its issue: scratchpads, the other cores, scalar registers, rows, handle registers,
nodes, mappings and lineage entries are as they were; so is memory, but for the records that MARK and MSEL write for a trace,
the predicates, but for those that LOOP and LOOPR of level 3 set, and the flags, but for those that CLRFLG clears. -/
def Obligations.FramesAtIssue : Prop :=
  ∀ (i : Instr) (s : State), i.slot.isSome = true → ∃ t, exec i s = .next t
    ∧ t.spm = s.spm ∧ t.parked = s.parked ∧ t.nodes = s.nodes ∧ t.maps = s.maps ∧ t.lineage = s.lineage ∧ t.parts = s.parts
    ∧ t.core.ctx.sregs = s.core.ctx.sregs ∧ t.core.ctx.acc = s.core.ctx.acc ∧ t.core.ctx.hregs = s.core.ctx.hregs
    ∧ ((∀ g ex, i ≠ .mark g ex) → (∀ g, i ≠ .msel g) → t.mem = s.mem)
    ∧ ((∀ g lc body n, i ≠ .loop g lc body n) → (∀ g lc body a, i ≠ .loopr g lc body a) → t.core.ctx.pregs = s.core.ctx.pregs)
    ∧ ((∀ g m fe, i ≠ .clrflg g m fe) → t.core.ctx.flags = s.core.ctx.flags ∧ t.core.ctx.ferec = s.core.ctx.ferec)
    ∧ (s.core.trap.isSome = true → t.core.trap = s.core.trap)

/-! ### The core beside its bundles -/

/-- R70, R73, R75, R395, R396: a stretched clock moves a 0-eu entry into the window, and is one of stall reason 4 of the bundle that it
holds back, or of a higher one that holds the core too; the refill and the static charge that are due are added, saturating; the record of a freeze that has ended, and a sample of
the last clock, with its bundle, CYCLE and stall reason, go to the trace of the tenant. Each changes no more than that. What is the
model's choice here stands in log entry 35. -/
def Obligations.EnergyEvents : Prop :=
  ∀ s : State,
    let e := s.core.energy
    (s.core.phase = .ready → s.core.mid = false → s.core.freeze = 4#4 → ∃ t, exec .energyStretch s = .next t
      ∧ t.core.freeze = 0#4 ∧ t.core.weights = (s.core.weights ++ [0]).drop (s.core.weights.length + 1 - 7)
      ∧ t.core.time = s.core.time + clockOf s.core.id ∧ t.core.last = ⟨s.core.time, s.core.ctx.pc, s.core.ctx.cycle, s.sampledCode 4#4⟩
      ∧ ((∀ k ∈ s.activeCodes, k.toNat ≤ 4) → s.sampledCode 4#4 = 4#4)
      ∧ t.core.ctx.sregs = s.core.ctx.sregs ∧ t.core.ctx.acc = s.core.ctx.acc ∧ t.core.ctx.cycle = s.core.ctx.cycle
      ∧ t.core.ctx.results = s.core.ctx.results ∧ t.core.ctx.landings = s.core.ctx.landings ∧ s.sameBytes t)
    ∧ (s.core.refillDue = true → exec .budgetRefill s = s.coreNext fun c => { c with
        refillDue := false
        energy := { e with ebudget := BitVec.ofNat 32 (min (e.ebudget.toNat + e.erefill.toNat) (2 ^ 32 - 1)) } })
    ∧ (s.core.staticDue = true → ∃ f, exec .staticCharge s = s.coreNext (fun c => { c with staticDue := false, energy := f })
        ∧ (e.esat = true → f = e)
        ∧ (e.esat = false → e.ecount.toNat + e.estatic.toNat ≤ 2 ^ 48 - 1 →
          f = { e with ecount := BitVec.ofNat 48 (e.ecount.toNat + e.estatic.toNat) })
        ∧ (e.esat = false → 2 ^ 48 - 1 < e.ecount.toNat + e.estatic.toNat → f = { e with ecount := BitVec.allOnes 48, esat := true }))
    ∧ (∀ code n, s.core.ended = some (code, n) → ∃ t, exec .freezeRecord s = .next t ∧ t.core.ended = none
        ∧ t = (s.emitIf 2 s.core.space s.core.id.toNat s.core.reftime 0x12 (addrOf s.core.ctx.pc).toNat (code.toNat + n * 256)
          s.core.owner.key.task).onCore fun c => { c with ended := none })
    ∧ (∀ o, s.core.task = some o →
      let l := s.core.last
      exec .pcSample s = .next ((s.emitIf 1 s.core.space s.core.id.toNat (tickOf l.at_) 0x10 (addrOf l.pc).toNat l.cycle.toNat
        (o.key.task + l.code.toNat * 2 ^ 32)).onCore fun c => { c with sampled := tickOf l.at_ }))

/-- R88, R89, R91, R93, R94, R285, R343, R412: landings that are due become results of their cycle, or freeze the core for late data,
with code 2, code 6 for a WAITV, or a higher one that holds the bundle due, or raise the error of a request; the data that a freeze
waited for ends it; a WAITV that has frozen the core for its bound ends with the value at its home, or with one with which a write has
made its condition hold; a fetch brings the bundle due, and loads and checks the page that holds it. What is the model's choice here
stands in log entries 10, 42 (the bytes that a page's hash covers, and when it is checked) and 6 (the digest). -/
def Obligations.Landings : Prop :=
  ∀ s : State,
    let x := s.core.ctx
    let lands := s.coreNext fun c => c.thaw.onCtx Ctx.landDue
    (s.core.landsNow = true → s.core.trap = none → x.beatErrors = [] → x.landingErrors = [] →
      (x.dueLandings.all fun l => !l.missing) = true →
      (s.core.ticking = true → exec .landing s = lands)
      ∧ (s.core.lateFrom.isSome = true → exec .lateDataArrival s = lands))
    ∧ (∀ l, s.core.landsNow = true → s.core.trap = none → s.core.ticking = true → x.dueLandings = [l] →
      let due := if s.core.phase = .ready ∧ s.core.dbg.skip = true then s.dueCode else 0#4
      let late := fun (code : BitVec 4) => exec .landing s
        = .next ((s.onCore fun c => { c with lateFrom := some (c.lateFrom.getD c.time) }).freezeClock (codeMax code due))
      (l.data = none → l.err = none → (l.kind = .load ∨ l.kind = .stream) → late 2#4)
      ∧ (l.data = none → l.err = none → l.kind = .wait false → late 6#4)
      ∧ (∀ t, l.err = some t → x.beatErrors = [] → exec .landing s = s.coreNext fun c => c.thaw.raiseAt t l.slot l.pc))
    ∧ (∀ l e cond pa m since, s.core.lateFrom = some since → since + 16384 * 24 ≤ s.core.time →
      (x.landings.filter fun l => l.rem == 1 && l.kind == .wait false && l.missing) = [l] →
      (s.core.fifo.find? fun e => e.landing == some l.id) = some e → e.op = .wait cond → s.entryFree e = true →
      s.reach e.space e.va (e.access false) ⟨true, true⟩ = .go pa m → s.poisoned pa 8 = false →
      (e.part = [] → exec .waitvBoundExpiry s = .next (s.endWait e pa))
      ∧ ∀ u bs rest, e.part = (u, bs) :: rest → exec .waitvBoundExpiry s = .next (s.endWaitAt e pa u (leNat bs)))
    ∧ (∀ b pa, s.fetch = .bundle b → s.physOf s.core.space (addrOf x.pc).toNat = some pa → ∃ t, exec .fetchArrival s = .next t
      ∧ t.core = { s.core with fetched := true } ∧ s.sameBytes t)
    ∧ (∀ pa m o, s.xlate s.core.space (addrOf x.pc) ⟨false, true, false, false, s.core.priv⟩ = .at_ pa m →
      (s.objects.find? fun o => o.holds s.core.space (addrOf x.pc).toNat) = some o →
      let i := ((addrOf x.pc).toNat - o.text) / 65536
      o.pages.getD i .unloaded = .unloaded → (∀ a, s.codePageStop o i ≠ some (.inr a)) →
      ∃ t, exec .codePageLoad s = .next t ∧ t.objects = s.objects.map (fun p => if p.space = o.space ∧ p.base = o.base then
          { o with pages := o.pages.set i (if o.hashes[i]? == some (Config.sha256 (s.codePage o i)) then .verified else .poisoned) }
          else p) ∧ s.sameBytes t)

/-- R130 to R135, R215, R217, R221, R361 to R363, R372: how a task leaves: a drained core of a task of size 1 idles, is
suspended, or begins the commit of its version, and a live handle at ENDT raises HANDLE_LEAK; a commit that is complete ends the
task or goes on to suspend it; a barrier lets its members go on, and a gang whose members all stand at their end commits; soft
and hard stops suspend the task once its save can be made; an image area that is full spills its oldest image; idling ends after
65,536 ticks. What is the model's choice here stands in log entries 58 and 26 (no scratchpad write stays in flight over a barrier). -/
def Obligations.Departures : Prop :=
  ∀ s : State,
    let c := s.core
    (s.alone → c.quiet = true → c.mid = false →
      (c.phase = .drainIdle → exec .taskDrainEnd s = s.coreNext fun c => { c with phase := .idle c.time })
      ∧ (c.phase = .drainYield → s.leaveReady 1 = true → exec .taskDrainEnd s = .next (s.suspend 1 0 false))
      ∧ (c.phase = .drainCommit → s.commitReady = true → exec .taskDrainEnd s = .next (s.beginCommit .drainCommit))
      ∧ (c.phase = .drainEnd → c.ctx.holdsHandle = true →
        exec .taskDrainEnd s = s.coreNext fun c => c.raiseAt .handleLeak 0 c.commitPc)
      ∧ (c.phase = .drainEnd → c.ctx.holdsHandle = false → c.tilesLeft c.owner.key = false → s.copiesLeft c.owner.key true = false →
        s.commitReady = true → exec .taskDrainEnd s = .next (s.beginCommit .drainEnd)))
    ∧ (∀ m, s.alone → c.commit = some m → m.lines = [] → m.entry = none → m.auto = false →
      (c.after = .drainEnd → exec .commitComplete s = .next (s.onCore fun c => { c with commit := none }).endTask)
      ∧ (c.after = .drainCommit → exec .commitComplete s = s.coreNext fun c =>
        { c with commit := none, phase := .drainYield, after := .ready }))
    ∧ (s.alone → c.phase = .barrier → ∃ t, exec .barrierComplete s = .next t
      ∧ t.core.phase = .ready ∧ t.core.after = .ready ∧ t.core.freeze = 0#4 ∧ t.core.time = c.time
      ∧ ((s.physOf c.space (addrOf c.ctx.pc).toNat).isSome = true → t.core.fetched = true)
      ∧ (∀ r ∈ t.core.ctx.results, ∀ cells, r.wr ≠ .spm cells))
    ∧ (c.owner.gang = true → s.members.length = 4 → (∀ m ∈ s.members, m.atEnd = true) →
      (∀ m ∈ s.members, m.atBarrier = false) → (∀ m ∈ s.members, m.tilesLeft m.owner.key = false) →
      s.copiesLeft c.owner.key true = false → s.commitReady = true →
      exec .gangSuspend s = .next (s.beginCommit .drainEnd))
    ∧ (s.alone → s.softDue = true → s.leaveReady 1 = true → exec .softStop s = .next (s.suspend 1 0x04 false))
    ∧ (s.alone → c.leave = some .hard → c.stopped = true → c.phase ≠ .committing → s.leaveReady 2 = true →
      exec .hardStop s = .next (s.suspend 2 (if s.onPageIn then 0x02 else 0x04) false))
    ∧ (∀ n place size at_, c.task.isSome = true → s.imageRoom c.imageKind = false → s.oldestImage = some n →
      n.store = some (place, size, at_) → exec .imageSpill s = .next (s.mapNode { n with store := some (2, size, at_) }))
    ∧ (∀ t0, c.phase = .idle t0 → c.mid = false → t0 + 65536 * 24 ≤ c.time →
      exec .idleTimeout s = s.coreNext fun c => { c with phase := .ready, after := .ready, ctx := { c.ctx with spanCount := 0 } })
    ∧ (s.alone → (s.suspend 1 0 false).core.task = none ∧ (s.suspend 1 0 false).core.phase = .noTask)

/-- R214, R219, R218, R354 to R366: the first waiting task of the holder goes to a free, rested core, once its slots can be reached and
its image can be read; a node that has ended finishes, or waits for a page of its successor list; a free cluster goes to the tenant
chosen, and one whose holder's slice is over and that is empty to the next; stop requests reach the cores of a slice that has ended,
soft at TSPAN, and hard GRACE after; a drained cluster passes on; a stopping tenant without tasks is DISABLED, and a command that waits
for that has its bit done; a resize that no launch keeps back applies and waits for its host, or is refused if its masks are no
longer free. What is the model's choice here, the module's time by which slices, TSPAN and GRACE are judged, stands in log
entry 58. -/
def Obligations.Scheduling : Prop :=
  ∀ s : State,
    let now := tickOf s.time
    (∀ id c k sp n p, s.coreOf id = some c → s.clusterAt (id / 4) = some k → c.task = none → k.ended = none → k.holder = some sp →
      s.nextTask sp c id = some n → s.partOf sp.part = some p → n.gang = false → s.replayPlaces n [id] = true → c.rested = true →
      (n.saved = [] → s.slotsReach n n.hmask = none) → s.imageFault n = none →
      exec (.taskPlace id) s = .next (s.placeNode n p [id]))
    ∧ (∀ sp c id, (∀ r, s.replayOf sp.part = some r → r.replaying = false) → s.nextTask sp c id = s.firstTask sp c)
    ∧ (∀ k n, s.nodes[k]? = some n → n.st = .ended → s.workLeft n.key = false →
      (s.succWait n = none → exec (.nodeFinish k) s = .next (s.finishNode n))
      ∧ ∀ a, s.succWait n = some a → exec (.nodeFinish k) s = .next (s.askModule n.space a))
    ∧ (∀ cl k sp, s.clusterAt cl = some k → k.ended = none → k.holder = none → s.nextTenant cl = some sp →
      exec (.sliceEnd cl) s = .next (s.give k (some sp)))
    ∧ (∀ cl k sp x, s.clusterAt cl = some k → k.ended = none → k.holder = some sp → s.sliceOver k sp = true →
      let u := s.chargePass sp cl (now - k.start)
      u.nextTenant cl = some x → x ≠ sp →
      (u.tasksOn cl sp = [] → exec (.sliceEnd cl) s = .next (u.give k (some x)))
      ∧ (u.tasksOn cl sp ≠ [] → exec (.sliceEnd cl) s = .next (u.setCluster { k with ended := some now, next := some x })))
    ∧ (∀ cl k p e, s.clusterAt cl = some k → s.partOfCluster cl = some p → k.ended = some e → k.asked = none →
      e + p.tspan * 1000 ≤ now → exec (.tspanExpiry cl) s
        = .next (((s.leavers k).foldl (fun s c => s.onCoreId c.id.toNat Core.askStop) s).setCluster { k with asked := some now }))
    ∧ (∀ cl k p, s.clusterAt cl = some k → s.partOfCluster cl = some p →
      exec (.graceExpiry cl) s = .next ((s.overdue k p).foldl (fun s c => s.onCoreId c.id.toNat Core.askHard) s)
      ∧ ∀ c ∈ s.coresIn k.id, c.task.isSome = true → c.maySharpen = true →
        (∀ g, s.graceAt k p = some g → g ≤ now → some c.space = k.holder → c ∈ s.overdue k p)
        ∧ (∀ t, c.stop = true → c.stopAt = some t → t + p.grace * 1000 ≤ now → c ∈ s.overdue k p))
    ∧ (∀ cl k e sp, s.clusterAt cl = some k → k.ended = some e → k.holder = some sp → s.tasksOn cl sp = [] →
      exec (.tenantDrained cl) s = .next ((s.chargePass sp cl (now - e)).give k k.next))
    ∧ (∀ sp t, s.tenantOff sp = true → s.tenantOf sp = some t → ∃ u, exec (.tenantDisabled sp) s = .next u
      ∧ u.tenants = s.tenants.map (fun v => if v.space = sp then { t with st := .disabled } else v)
      ∧ u.cqueues = s.cqueues.map fun q => q.disabled sp)
    ∧ (∀ id p cl ring d, s.partOf id = some p → p.resize = some (cl, ring, d) → p.unacked = false → s.launching id = false →
      (s.masksOk id cl ring = true → ∃ u, exec (.resizeApply id) s = .next u
        ∧ u.parts = s.parts.map fun v => if v.id = p.id then
            { p with clusters := cl, ring := ring, rseq := p.rseq + 1, resize := some (cl, ring, d), unacked := true } else v)
      ∧ (s.masksOk id cl ring = false → ∀ b, d = some b →
        exec (.resizeApply id) s = .next ((s.setPart { p with resize := none }).finish b 5 0 [])))

/-! ### Requests, engines and the walker -/

/-- R220, R252 to R255, R261, R279, R280, R281, R284, R285: the perform step of a request that may perform, whose page is there. A load of
one unit takes for each byte the task's own version, or what the coherence order held at an instant no earlier than the core's
view, and changes no byte. A direct store of one unit changes the bytes at the address that the request reaches, and no others;
so do an atomic, which delivers the old word, and an arrival; a write of a sync variable tests the waits on it. A store of class 0 to 7 to an
ordinary page enters the version of its task. A WAITV whose condition holds, or has held at a write since its test, ends. A line of a commit changes no byte outside it. A QFENCE leaves every queue that it names at once. What is the model's choice here stands in log entry 5. -/
def Obligations.AccessesPerform : Prop :=
  ∀ (s : State) (e : Entry) (k pa : Nat) (m : Mapping), s.canonical →
    let c := s.core
    let queued := (c.fifo.find? fun f => f.id == k) = some e ∧ s.entryFree e = true ∧ e.commits = false
      ∧ (c.commit.any fun x => x.entry == some e.id) = false
    let gone := c.fifo.filter fun f => f.id != e.id
    let writes := s.reach e.space e.va (e.access true)
    let waits := fun (t : State) => gone.map (({ s with now := s.now + 1 } : State).retestEntry pa (leNat (readBytes t.mem pa 8)))
    (∀ size l, queued → e.op = .load size → size ≤ 16 → e.left = [0] → e.part = [] → e.landing = some l → c.task = some e.owner →
      s.reach e.space e.va (e.access false) ⟨size == 8, false⟩ = .go pa m → s.unitPoisoned e e.va.toNat pa m size = false →
      ∃ t u, exec (.entryPerform k) s = .next t ∧ c.view (pa / 64) ≤ u ∧ u ≤ max (c.view (pa / 64)) s.now
        ∧ t.mem = s.mem ∧ t.spm = s.spm ∧ t.core.fifo = gone
        ∧ t.core.ctx = c.ctx.mapLanding l fun r => { r with data := some (BitVec.ofNat 16384 (leNat ((List.range size).map fun i =>
            (if m.sync then none else s.versionByte e.owner.key (e.va.toNat + i)).getD (s.readAt u (pa + i))))) })
    ∧ (∀ bytes, queued → e.op = .store bytes → bytes.length ≤ 16 → e.left = [0] → 8 ≤ e.cls.toNat →
      writes ⟨bytes.length == 8, false⟩ = .go pa m →
      ∃ t, exec (.entryPerform k) s = .next t ∧ readBytes t.mem pa bytes.length = bytes ∧ s.sameBytesBut t pa bytes.length
        ∧ t.core.fifo = (if m.sync then waits t else gone) ∧ t.core.ctx = c.ctx ∧ t.now = s.now + 1)
    ∧ (∀ bytes, queued → e.op = .store bytes → bytes.length ≤ 16 → e.left = [0] → e.cls.toNat < 8 → e.rel = false → m.sync = false →
      writes ⟨false, false⟩ = .go pa m → s.storeOverflows e bytes 0 = false →
      ∃ t, exec (.entryPerform k) s = .next t ∧ t.mem = s.mem ∧ t.spm = s.spm ∧ t.core.fifo = gone ∧ t.core.ctx = c.ctx ∧ t.now = s.now
        ∧ (∀ i b, bytes[i]? = some b → t.versionByte e.owner.key (e.va.toNat + i) = some b)
        ∧ ∀ a, (a < e.va.toNat ∨ e.va.toNat + bytes.length ≤ a) → t.versionByte e.owner.key a = s.versionByte e.owner.key a)
    ∧ (∀ op size a b rm ftz l, queued → e.op = .atom op size a b rm ftz → (size = 4 ∨ size = 8) → e.landing = some l →
      c.task = some e.owner → writes ⟨size == 8, false⟩ = .go pa m → s.poisoned pa size = false →
      let old := leNat (readBytes s.mem pa size)
      ∃ t, exec (.entryPerform k) s = .next t ∧ t.core.fifo = (if m.sync then waits t else gone) ∧ s.sameBytesBut t pa size
        ∧ readBytes t.mem pa size = leBytes size (atomNew op size rm ftz old (a.toNat % 2 ^ (8 * size)) (b.toNat % 2 ^ (8 * size))).1
        ∧ t.core.ctx = c.ctx.mapLanding l fun r => { r with data := some (BitVec.ofNat 16384 old) })
    ∧ (∀ n, queued → e.op = .arrive n → writes ⟨true, true⟩ = .go pa m →
      ∃ t, exec (.entryPerform k) s = .next t ∧ t.core.fifo = waits t ∧ t.core.ctx = c.ctx ∧ s.sameBytesBut t pa 8
        ∧ readBytes t.mem pa 8 = leBytes 8 (arriveNew (leNat (readBytes s.mem pa 8)) n.toNat))
    ∧ (∀ cond, k < nodeWaitBase → (c.fifo.find? fun f => f.id == k) = some e → e.op = .wait cond → e.fresh = false →
      s.reach e.space e.va (e.access false) ⟨true, true⟩ = .go pa m → s.poisoned pa 8 = false →
      (e.part = [] → waitHolds cond (leNat (readBytes s.mem pa 8)) = true → exec (.waitvSatisfied k) s = .next (s.endWait e pa))
      ∧ ∀ u bs rest, e.part = (u, bs) :: rest → exec (.waitvSatisfied k) s = .next (s.endWaitAt e pa u (leNat bs)))
    ∧ (∀ x line n, c.commit = some x → x.lines[k]? = some line → s.nodeOfKey x.key = some n →
      s.xlate ⟨x.key.part, n.vdev⟩ (BitVec.ofNat 64 (line * 64)) ⟨true, true, false, false, true⟩ = .at_ pa m →
      ((s.versionBad x.key).any fun w => w / 8 == line) = false →
      lineBytes (s.versionOf x.key) line ≠ [] →
      let rest := x.lines.eraseIdx k
      let more := linesOf ((s.versionOf x.key).filter fun p => p.1 / 64 != line)
      ∃ t, exec (.commitLine k) s = .next t ∧ s.sameBytesBut t pa 64
        ∧ t.core.commit = some { x with lines := if rest = [] then more else rest }
        ∧ t.mem = writeCells s.mem ((lineBytes (s.versionOf x.key) line).map fun p => (pa + p.1 % 64, p.2)))
    ∧ (∀ (q : BitVec 3) mask id, (c.equeues[q.toNat]'q.isLt).head? = some (.qfence mask id) →
      (∀ j : Fin 8, mask.getLsbD j.val = true → c.equeues[j].head? = some (.qfence mask id)) →
      exec (.qfenceLeave q) s = s.coreNext fun c => { c with
        equeues := Vector.ofFn fun j : Fin 8 => if mask.getLsbD j.val then c.equeues[j].tail else c.equeues[j] })

/-- R258, R259, R288, R290, R348, R415: the head of an engine queue moves the next granule of its copy between pages of this module, and
no other byte, with the bytes that peers have answered for the pages that are theirs; a copy that has moved its length, with no answer of a peer to come, leaves its queue, with its arrival if it has one; a
Ready copy node becomes a transfer on the engines of its base die. The answers of peers: an acknowledgement ends the request, bytes of
the right length are kept for the granule that needs them, an arrival counts on its variable or waits for its page, and a
peer that has not answered for the interval of the queue faults the launch with TIMEOUT. A host's own accesses write and read the bytes
of their pages, wait for a page, or fail, and are answered; one to a peer's page is asked of the peer, and answered once the peer has. What is the model's choice here stands in log entries 19, 44 and 52. -/
def Obligations.TransfersOfEngines : Prop :=
  ∀ s : State, s.canonical →
    let head := fun (t : State) (q : BitVec 3) => (t.core.equeues[q.toNat]'q.isLt)
    (∀ (q : BitVec 3) cp moved o pc rest, head s q = .copy cp moved o pc :: rest → cp.tensor = false → cp.tsr = none →
      s.traceOf ⟨o.key.part, o.vdev⟩ = none → (s.peers.filter fun p => p.core == s.core.id.toNat && p.q == q) = [] →
      let e := s.core.engine q o pc
      let va := (cp.dst.toNat + moved) % 2 ^ 64
      let n := min (16 - va % 16) (cp.len - moved)
      (∀ (b : Nat → Byte) dst, moved < cp.len → 8 ≤ cp.cls.toNat → s.copyPlace e cp true moved va = .mem dst →
        (∀ i, i < n → let a := (cp.src.toNat + (moved + i)) % 2 ^ 64
          (∃ pa, s.copyPlace e cp false (moved + i) a = .mem pa ∧ s.poisoned pa 1 = false ∧ b i = readByte s.mem pa)
          ∨ ∃ m pa, s.copyPlace e cp false (moved + i) a = .peer m pa ∧ (cp.got.find? fun g => g.1 == a) = some (a, b i)) →
        ∃ t, exec (.copyPerform q.toNat) s = .next t ∧ readBytes t.mem dst n = (List.range n).map b
          ∧ s.sameBytesBut t dst n ∧ head t q = .copy { cp with got := [], room := false } (moved + n) o pc :: rest ∧ t.core.ctx = s.core.ctx)
      ∧ (cp.len ≤ moved → cp.arr = false → ∃ t, exec (.copyPerform q.toNat) s = .next t ∧ head t q = rest ∧ s.sameBeyondCore t
        ∧ t.core = { s.core with equeues := t.core.equeues })
      ∧ (∀ pa m, cp.len ≤ moved → cp.arr = true → s.xlate e.space cp.arrv ⟨true, true, false, cp.sys, false⟩ = .at_ pa m →
        s.mappingOf e.space cp.arrv.toNat = some m → m.remote = false → m.syncBreach cp.arrv.toNat ⟨true, true⟩ = false → ∃ t,
        exec (.copyPerform q.toNat) s = .next t ∧ head t q = rest ∧ s.sameBytesBut t pa 8
          ∧ readBytes t.mem pa 8 = leBytes 8 (arriveNew (leNat (readBytes s.mem pa 8)) 1)))
    ∧ (∀ k n pa, s.nodes[k]? = some n → n.copy = true → n.st = .ready → s.physOf n.space n.addr.toNat = some pa →
      ∃ t j, exec (.copyPerform (nodeCopyBase + k)) s = .next t
        ∧ t.jobs = s.jobs ++ [j] ∧ j.node = some n.addr ∧ j.die = homeDie pa ∧ j.moved = 0
        ∧ j.copy = copyOf (readBytes s.mem pa 64) ∧ t.mem = s.mem)
    ∧ (∀ id p, (s.peers.find? fun p => p.id == id && !p.read) = some p →
      let left := s.peers.filter fun r => r.id != id
      (p.core ≠ hostEngine → ∃ t, exec (.peerAck id) s = .next t ∧ t = { s with peers := left })
      ∧ (∀ r, p.core = hostEngine → s.hostReqs = [r] → r.ids = [id] → r.write = true → (∀ l, s.replayOf r.space.part = some l → l.mode ≠ 4) →
        exec (.peerAck id) s = .next { s with
          peers := left, hostReqs := [], outbox := s.outbox ++ [⟨.part r.space.part, r.tag.port, r.tag.src, .reply r.tag.tag true, []⟩] }))
    ∧ (∀ id p bs (cp : Copy) moved o pc rest, (s.peers.find? fun p => p.id == id && p.read) = some p → bs.length = p.len →
      p.core = s.core.id.toNat → p.core < 64 → head s p.q = .copy cp moved o pc :: rest → ∃ t, exec (.peerReadResponse id bs) s = .next t
        ∧ t.peers = s.peers.filter (fun r => r.id != id) ∧ s.sameBytes t
        ∧ head t p.q = .copy { cp with got := cp.got ++ bs.zipIdx.map fun b => ((p.dst.toNat + b.2) % 2 ^ 64, b.1) } moved o pc :: rest)
    ∧ (∀ id p c cp moved o pc, (s.peers.find? fun p => p.id == id) = some p → p.core < 64 → s.coreOf p.core = some c →
      (c.equeues[p.q.toNat]'p.q.isLt).head? = some (.copy cp moved o pc) → 0 < s.patience o → p.since + s.patience o ≤ s.time →
      exec (.peerTimeout id) s = .next ((s.dropPeer id).raiseLater o .timeout 7 pc)
      ∧ (s.core.task = some o → s.core.lateFault = none →
        ((s.dropPeer id).raiseLater o .timeout 7 pc).core.lateFault = some ⟨.timeout, 7#8, addrOf pc, 0#16, 0#64⟩))
    ∧ (∀ sp va n,
      let place := s.xlate sp va ⟨true, true, false, false, false⟩
      (∀ pa m, place = .at_ pa m → m.syncBreach va.toNat ⟨true, true⟩ = false → va.toNat % 8 = 0 →
        ∃ t, exec (.peerArrival sp va n) s = .next t ∧ s.sameBytesBut t pa 8
          ∧ readBytes t.mem pa 8 = leBytes 8 (arriveNew (leNat (readBytes s.mem pa 8)) n.toNat))
      ∧ (∀ r, place = .trap r → exec (.peerArrival sp va n) s = .next s)
      ∧ (place = .miss → ∃ t, exec (.peerArrival sp va n) s = .next t ∧ s.sameBytes t ∧ t.inbox = s.inbox ++ [.peerArrival sp va n]))
    ∧ (∀ sp va bs (tag : UetTag) n, s.serves sp = true →
      let reply := fun (ok : Bool) (l : List Byte) => (⟨.part sp.part, tag.port, tag.src, .reply tag.tag ok, l⟩ : Msg)
      let tells := fun (t : State) (m : Msg) => (∀ r, s.replayOf sp.part = some r → r.mode ≠ 4) → t.outbox = s.outbox ++ [m]
      let write := exec (.hostUetWrite sp va bs tag) s
      let read := exec (.hostUetRead sp va n tag) s
      (∀ pa pas, s.hostReach sp va.toNat true bs.length = .ok (some pa :: pas) → none ∉ pas → ∃ t, write = .next t ∧ tells t (reply true [])
        ∧ (bs.length ≤ 64 - va.toNat % 64 → s.physOf sp va.toNat = some pa → readBytes t.mem pa bs.length = bs ∧ s.sameBytesBut t pa bs.length))
      ∧ (∀ m, s.hostReach sp va.toNat true bs.length = .ok (List.replicate bs.length none) → bs ≠ [] → bs.length ≤ 64 - va.toNat % 64 →
        s.mappingOf sp va.toNat = some m → m.remote = true → ∃ t, write = .next t ∧ t.mem = s.mem ∧ t.spm = s.spm
        ∧ t.peers = s.peers ++ [⟨s.nextPeer, sp, hostEngine, 0#3, false, va, bs.length, s.time, routePort m.peer.toNat⟩]
        ∧ t.hostReqs = s.hostReqs ++ [⟨sp, va.toNat, bs.length, true, tag, [s.nextPeer], []⟩])
      ∧ (∀ pas : List Nat, s.hostReach sp va.toNat false n = .ok (pas.map some) → (pas.any fun pa => s.poisoned pa 1) = false →
        ∃ t, read = .next t ∧ s.sameBytes t ∧ tells t (reply true (pas.map fun pa => readByte s.mem pa)))
      ∧ (s.hostReach sp va.toNat true bs.length = .error none → ∃ t, write = .next t ∧ s.sameBytes t ∧ tells t (reply false []))
      ∧ (s.hostReach sp va.toNat false n = .error none → ∃ t, read = .next t ∧ s.sameBytes t ∧ tells t (reply false []))
      ∧ (∀ a, s.hostReach sp va.toNat true bs.length = .error (some a) → ∃ t, write = .next t ∧ s.sameBytes t
        ∧ t.inbox = s.inbox ++ [.hostUetWrite sp va bs tag])
      ∧ (∀ a, s.hostReach sp va.toNat false n = .error (some a) → ∃ t, read = .next t ∧ s.sameBytes t
        ∧ t.inbox = s.inbox ++ [.hostUetRead sp va n tag]))

/-- R242, R246, R266, R271, R273, R274, R299, R305 to R309: the oldest handle operation takes its step, waits, or fails: then the registers that it
changed at issue hold again what they held, and its trap is raised later in slot 7; a frozen HTAKE that has waited for its bound, with no
handle for it in its mailbox, gets 0 and withdraws its request; a deposit wakes the suspended task whose request is the earliest at the
mailbox; the rows of an access perform after those of accesses and streams through the handle that go before it; a stream fetches its next
row; and a core that does not tick gives up its pins on a page that moves. What the step of a split, a rejoin, a deposit, a taking and an HINFO
does to the entries, the mailbox and the registers is said here too, and when it fails. What is the model's choice here stands in log entries 40 and
64. -/
def Obligations.HandleSteps : Prop :=
  ∀ s : State,
    (∀ h rest, s.core.hsteps = h :: rest →
      (∀ t, s.hopStep h = .done t → exec .handleStep s = .next (t.onCore fun c => { c with hsteps := rest }))
      ∧ (∀ t, s.hopStep h = .wait t → exec .handleStep s = .next t)
      ∧ (∀ t, s.hopStep h = .idle t →
        exec .handleStep s = .next (t.onCore fun c => { c with hsteps := { h with since := some (h.since.getD s.time) } :: rest }))
      ∧ (∀ f, s.hopStep h = .fail f →
        exec .handleStep s = .next ((s.onCore fun c => h.undone { c with hsteps := rest }).raiseLater h.owner f 7 h.pc)
        ∧ (s.core.task = some h.owner →
          (h.undone { s.core with hsteps := rest }).ctx = h.undo.foldl (fun x p => x.setH p.1 p.2) s.core.ctx)))
    ∧ (∀ (h : HStep) (v vl vr : BitVec 128) (t : Tsr) (pa : Nat) (va : Word) (sa : BitVec 6), (s.readEntries h.op).any s.entryPoisoned = false →
      let task := h.owner.key.task
      let idx := fun (v : BitVec 128) => (handleLidx v).toNat
      let mine := fun (v : BitVec 128) => (s.handleEntry v).valid v = true ∧ (s.handleEntry v).holder = task
      let only := fun (u : State) (l : List Nat) => (∀ j, j ∉ l → u.entryOf j = s.entryOf j)
        ∧ u = { s with core := u.core, lineage := u.lineage, poison := u.poison, mailboxes := u.mailboxes, hwaits := u.hwaits }
      let l := s.handleEntry v
      let still := l.outst = 0 ∧ s.core.heldByStream h.owner v = false
      let ready := mine v ∧ l.st = .live
      (∀ ax point low high, h.op = .split v ax point low high →
        let fits := ax < t.rank ∧ l.lo.getD ax 0 < point ∧ point < l.hi.getD ax 1 ∧ s.usedEntries l.part + 2 ≤ s.lineageQuota l.part
        (¬ still → s.hopStep h = .wait s)
        ∧ (still → ¬ ready → s.hopStep h = .fail .protection)
        ∧ (still → ready → s.entryTsr h.owner l = .ok t → ¬ fits → s.hopStep h = .fail .protection)
        ∧ (still → ready → s.entryTsr h.owner l = .ok t → fits → low ≠ high → idx v ≠ low → idx v ≠ high → ∃ u, s.hopStep h = .done u
          ∧ only u [idx v, low, high] ∧ u.core = s.core
          ∧ u.entryOf (idx v) = { l with st := .split, axis := ax, point := point, childL := low, childH := high, gen := l.gen + 1 }
          ∧ u.entryOf low = { l with
              parent := idx v, childL := 0, childH := 0, st := .live, gen := (s.entryOf low).gen, hi := l.hi.set ax point }
          ∧ u.entryOf high = { l with
              parent := idx v, childL := 0, childH := 0, st := .live, gen := (s.entryOf high).gen, lo := l.lo.set ax point }))
      ∧ (∀ hp hl hr lost, h.op = .rejoin hp hl hr vl vr lost → assocAbove Lineage.free none s.lineage = true →
        let a := s.handleEntry vl
        let b := s.handleEntry vr
        let p := s.entryOf a.parent
        let quiet := a.outst = 0 ∧ b.outst = 0
        let siblings := p.st = .split ∧ p.childL = idx vl ∧ p.childH = idx vr ∧ a.st = .live ∧ b.st = .live ∧ a.parent = b.parent
        (¬ quiet → s.hopStep h = .wait s)
        ∧ (quiet → lost = true → s.hopStep h = .fail .mismatchedRejoin)
        ∧ (quiet → lost = false → ¬ (mine vl ∧ mine vr) → s.hopStep h = .fail .protection)
        ∧ (quiet → lost = false → mine vl → mine vr → ¬ siblings → s.hopStep h = .fail .mismatchedRejoin)
        ∧ (quiet → lost = false → mine vl → mine vr → siblings → idx vl ≠ idx vr → a.parent ≠ idx vl → a.parent ≠ idx vr →
          ∃ u, s.hopStep h = .done u ∧ only u [a.parent, idx vl, idx vr]
          ∧ u.entryOf a.parent = { p with st := .live, holder := task }
          ∧ u.entryOf (idx vl) = { Lineage.free with gen := a.gen + 1 } ∧ u.entryOf (idx vr) = { Lineage.free with gen := b.gen + 1 }
          ∧ u.core.ctx.getH hp = ⟨makeHandle s.handleKey a.parent p.gen p.part, .live⟩
          ∧ (hl ≠ hp → (u.core.ctx.getH hl).st = .empty) ∧ (hr ≠ hp → (u.core.ctx.getH hr).st = .empty)
          ∧ ∀ k, k ≠ hp → k ≠ hl → k ≠ hr → u.core.ctx.getH k = s.core.ctx.getH k))
      ∧ (h.op = .put v va →
        (¬ still → s.hopStep h = .wait s)
        ∧ (still → ¬ ready → s.hopStep h = .fail .protection)
        ∧ (∀ w, still → ready → s.mailboxAt h va = .ok pa → s.mailbox pa = some w → s.hopStep h = .fail .handleLeak)
        ∧ (still → ready → s.mailboxAt h va = .ok pa → s.mailbox pa = none → ∃ u, s.hopStep h = .done u ∧ only u [idx v] ∧ u.core = s.core
          ∧ u.entryOf (idx v) = { l with holder := 0 } ∧ u.mailbox pa = some v))
      ∧ (∀ hd susp, h.op = .take hd sa va susp → s.mailboxAt h va = .ok pa → s.mailbox pa = some v →
        (s.hwaits.find? fun w => w.1 == pa) = none → s.inTime h pa = true → s.entryPoisoned (idx v) = false →
        l.valid v = true → l.st = .live → l.holder = 0 → ∃ u, s.hopStep h = .done u ∧ only u [idx v]
          ∧ u.entryOf (idx v) = { l with holder := task } ∧ u.mailbox pa = none ∧ u.core.ctx.getH hd = ⟨v, .live⟩
          ∧ u.core.ctx.getS sa = (if sa = 0#6 then 0#64 else 1#64))
      ∧ (∀ ax, h.op = .info v sa ax →
        (l.outst ≠ 0 → s.hopStep h = .wait s)
        ∧ (l.outst = 0 → ¬ ready → s.hopStep h = .fail .protection)
        ∧ (l.outst = 0 → ready → s.entryTsr h.owner l = .ok t →
          s.hopStep h = .done (s.onCore fun c => c.onCtx fun x => x.setS sa (BitVec.ofNat 64
            (if ax < t.rank then wrapInt 32 (l.lo.getD ax 0) + wrapInt 32 (l.hi.getD ax 1) * 2 ^ 32 else 0))))))
    ∧ (∀ hd sa va o t0 pc undo rest, s.core.hsteps = ⟨.take hd sa va false, o, some t0, pc, undo⟩ :: rest → t0 + 16384 * 24 ≤ s.time →
      s.takeAnswered ⟨.take hd sa va false, o, some t0, pc, undo⟩ va = false → ∃ t, exec .htakeBoundExpiry s = .next t
        ∧ t.core = { s.core with hsteps := rest, ctx := s.core.ctx.setS sa 0#64 }
        ∧ t = { s with core := t.core, hwaits := t.hwaits }
        ∧ ∀ w, w ∈ t.hwaits ↔ w ∈ s.hwaits ∧ ¬ (w.2.1 = o.key ∧ w.2.2 = if o.gang then s.core.id.toNat % 4 else 0))
    ∧ (∀ pa key member v n m h sa p t, (s.hwaits.find? fun w => w.1 == pa) = some (pa, key, member) → s.mailbox pa = some v →
      s.nodeOfKey key = some n → n.st = .suspended →
      (n.waits.find? fun w => match w with | .handle m _ _ p => m == member && p == pa | _ => false) = some (.handle m h sa p) →
      s.entryPoisoned (handleLidx v).toNat = false → s.takeFrom pa v key.task = some t →
      exec (.handleDepositWake pa) s = .next (({ t with hwaits := s.hwaits.erase (pa, key, member) } : State).wakeNode n
        (.handle m h sa p) (fun x => (x.setH h ⟨v, .live⟩).setS sa 1#64) member))
    ∧ (∀ k a, s.core.taccs[k]? = some a → ((s.core.taccs.take k).all fun b => b.lidx != a.lidx) = true →
      (∀ q st, st ∈ s.core.ctx.queue q → st.counted = true → st.id ∉ a.after) →
      exec (.tileAccessPerform k) s = .next (s.tileRowStep k a))
    ∧ (∀ q st, nextFetch ((s.core.ctx.queue q).filter fun st => !s.core.ctx.landingFailed st.id) = some st →
      waitingFirst ((s.core.ctx.queue q).filter fun st => !s.core.ctx.landingFailed st.id) = none →
      exec (.tfRowArrival q) s = .next (s.fetchStream q st))
    ∧ (∀ q va p to_ since, s.core.freeze ≠ 0#4 → s.moves = [(s.core.space, va, to_, since)] → s.mappingOf s.core.space va = some p →
      (∀ c ∈ s.cores, ∀ e ∈ c.fifo, ∀ len, e.op ≠ .cacheinv len) →
      exec (.pinDropTimeout q) s = s.ctxNext fun x => x.dropPins q p.va p.size)

/-- R238, R239, R241, R346: a walk of a present page fills the TLBs of its chiplet and ends, and so does one of a page that is not
mapped or has found no frame; a wanted page comes in, with a new frame if it has none; a page leaves its frame once no copy and no
pin is on it, with its bytes if it moves; and a body that a fetch waits for is published. What is the model's choice here stands in
log entries 24, 28 and 65. -/
def Obligations.Pages : Prop :=
  ∀ (s : State) (sp : Space) (va : BitVec 64),
    (∀ m unit, s.walkUnits sp va.toNat = [unit] → s.mappingOf sp va.toNat = some m → m.present = true → ∃ t,
      exec (.pageWalk sp va) s = .next t ∧ t.pageWalks = s.pageWalks.erase (sp, va.toNat, unit) ∧ s.sameBytes t
      ∧ t.tlb = (s.cores.filter fun c => c.serves sp && chipletOf c.id.toNat == unit).foldl
        (fun t c => fillTlb t c.id.toNat sp m.va) s.tlb
      ∧ (unit < 8 → t.caches.tlb2 = fillTlb2 s.caches.tlb2 unit sp m.va))
    ∧ (∀ unit, s.walkUnits sp va.toNat = [unit] →
      (s.mappingOf sp va.toNat = none ∨ ∃ m, s.mappingOf sp va.toNat = some m ∧ m.present = false ∧ m.isRefused = true) →
      exec (.pageWalk sp va) s = .next { s with pageWalks := s.pageWalks.erase (sp, va.toNat, unit) })
    ∧ (∀ m, s.mappingOf sp va.toNat = some m → m.present = false → s.unpublished m = false → s.moving m = false →
      ((m.back = .frame ∨ m.back = .heap) → exec (.pageIn sp va) s = .next (s.setMapping { m with present := true }))
      ∧ ∀ d, (m.back = .later d ∨ m.back = .refused d) →
        (s.newFrame sp.part d m.size = none → exec (.pageIn sp va) s = .next (s.setMapping { m with back := .refused d }))
        ∧ ∀ pa u, s.newFrame sp.part d m.size = some (pa, u) →
          exec (.pageIn sp va) s = .next (u.setMapping { m with pa := pa, present := true, back := .frame }))
    ∧ (∀ m, s.mappingOf sp va.toNat = some m → s.moving m = false →
      let dropped := s.tlb.filter fun e => !(decide (e.2.1 = sp) && e.2.2 == m.va)
      (s.pageHeld m false = true → exec (.shootdown sp va none) s = .next s)
      ∧ (s.pageHeld m false = false → s.shootClear m = true → ∃ t, exec (.shootdown sp va none) s = .next t
        ∧ t.tlb = dropped ∧ s.sameBytes t ∧ ∀ n ∈ t.maps, ¬ (n.space = sp ∧ n.va = m.va))
      ∧ (s.pageHeld m false = false → s.shootClear m = false → ∃ t, exec (.shootdown sp va none) s = .next t
        ∧ t.tlb = dropped ∧ s.sameBytes t ∧ t.moving m = true ∧ t.mappingOf sp va.toNat = some { m with present := false })
      ∧ (∀ pa, s.movable m = true → s.frameOpen m pa = true → s.aliases m = [m] → s.shootClear m = true → ∃ t,
        exec (.shootdown sp va (some pa)) s = .next t ∧ t.tlb = dropped ∧ t.mem = (s.copyFrame m.pa pa m.size).mem ∧ t.spm = s.spm
        ∧ t.mappingOf sp va.toNat = some { m with pa := pa, present := true }))
    ∧ (∀ stub body b p c at_, (s.stubs.find? fun b => decide (b.space = sp) && b.stub == stub && b.body.isNone) = some b →
      s.partOf sp.part = some p → s.stubWaiter b = some c → s.bodyOk p body = true → p.heapUsed + body.length ≤ p.heap →
      s.evictFor p.id body.length = s → s.bodyPlace sp stub ((body.length + 65535) / 65536) = some at_ →
      ∀ t, s.heapPages b ((body.length + 65535) / 65536) at_ = some t → exec (.bodyPublish sp stub body) s = .next (t.publish b body at_))

/-- R224, R225, R303, R379, R380: a launch all of whose nodes have finished ends with a record of KIND 0; the trap of a core ends its
launch, its scratchpad writes in flight land, and the core gives its task up; a launch that has ended so, and has left every core, is
forgotten and its record is written. A queue whose timer has run out stops its partition, which then stands still; the reset ends in a later
step, with no launch of the partition left and the queues that expired in ERROR. What is the model's choice here, the two steps of a reset
among it, stands in log entry 51. -/
def Obligations.LaunchEnds : Prop :=
  ∀ s : State,
    (∀ i l, s.launches[i]? = some l → l.ending = none → l.finished = l.created → s.onCores l = false →
      exec (.launchComplete i) s = .next ((s.forgetLaunch l).complete l.space (some l.compl) l.cmd
        ⟨0, 0, 0xFF, l.id, 0, 0, 0, l.start, l.finished, 0, 0⟩))
    ∧ (∀ r, s.core.trap = some r → r.code ≠ .migrate → ∃ t, exec .launchFault s = .next t ∧ t.core.task = none
      ∧ t = (((s.endLaunchAt s.core.owner.key r s.core.id.toNat).faultStatus s.core.owner.key r.code).flushWrites.discardCore
        (Trap.code r.code).toNat))
    ∧ (∀ l r, s.core.trap = none → s.core.lateFault = none → s.coreEnds = false → s.endedLaunch = some l → l.ending = some r →
      let u := if l.lack.isSome then s else s.faultStatus ⟨l.space.part, l.id, l.endTask⟩ r.code
      exec .launchFault s = .next ((u.forgetLaunch l).complete l.space (some l.compl) l.cmd (l.faultDone r)))
    ∧ (∀ part q p, s.partOf part = some p →
      (∀ k, p.wipe = none → s.queueAt (part, q) = some k → k.expired = true → ∃ t ids, exec (.watchdogExpiry part q) s = .next t
        ∧ q ∈ ids ∧ t = (s.stopPart p).wipeWith p (tickOf s.time) [] ids ∧ t.wiping part = true)
      ∧ (∀ t0 ids, p.wipe = some (t0, ids) → (s.cqueues.any fun k => k.space.part == part && s.expiring k) = false → ∃ t,
        exec (.watchdogExpiry part q) s = .next t ∧ t.wiping part = false ∧ (∀ l ∈ t.launches, l.space.part ≠ part)
        ∧ ∀ r ∈ t.cqueues, r.space.part = part → r.id ∈ ids → r.error = true))

/-! ### The module -/

/-- R325, R326, R381, R382, R386 to R388: an alarm is counted and recorded, and its response stops or erases the module; a
stopped module is READY again once the condition has been absent for 1,000,000 ticks; soft errors are counted, and mark what
they have hit; worn rows are spared and worn pages retired; dropped packets and retries are counted. What is the model's choice
here stands in log entries 5, 31 and 41. -/
def Obligations.ModuleEvents : Prop :=
  ∀ s : State,
    let now := tickOf s.time
    let counted := fun (die : Bool) (i : Nat) (t : State) => t.counters = (s.count die i).counters
    (∀ a, ∃ t, exec (.alarm a) s = .next t ∧ counted false 14 t
      ∧ (s.devState = .ready → s.actions.getD (alarmIndex a) .log = .stop → t.devState = .stopped)
      ∧ (s.devState ≠ .alarm → s.actions.getD (alarmIndex a) .log = .erase →
        t.devState = .alarm ∧ t.mem = [] ∧ t.spm = [] ∧ t.launches = [] ∧ t.nodes = [] ∧ ∀ c ∈ t.cores, c.task = none)
      ∧ (s.actions.getD (alarmIndex a) .log = .log → t.devState = s.devState ∧ t.mem = s.mem ∧ t.alarmSrc = some a ∧ t.alarmAt = now))
    ∧ (s.devState = .stopped → s.alarmGone = none → exec .alarmClear s = .next { s with alarmGone := some now })
    ∧ (∀ t0, s.devState = .stopped → s.alarmGone = some t0 → t0 + 1000000 ≤ now →
      exec .alarmClear s = .next { s with devState := .ready, alarmGone := none })
    ∧ (∀ a, exec (.eccError .sram a false) s = .next (s.count (sramDie a) 0)
      ∧ exec (.eccError .sram a true) s = .next ((s.count (sramDie a) 1).poisonSram a)
      ∧ exec (.eccError .clean a false) s = .next (s.count (cleanDie a) 0)
      ∧ exec (.eccError .clean a true) s = .next ((s.count (cleanDie a) 2).dropEntryAt a))
    ∧ (∀ a, a < hbmSize → ∃ t, exec (.eccError .hbm a true) s = .next t ∧ t.poison = insertNew (a / 64) s.poison
      ∧ t.mem = s.mem ∧ counted (homeDie a == 1) 4 t)
    ∧ (∀ a, lpddrBase ≤ a → a < lpddrEnd → ∃ t, exec (.eccError .lpddr a true) s = .next t
      ∧ t.badFrames = insertNew (a / 65536 * 65536) s.badFrames ∧ t.mem = s.mem)
    ∧ (∀ a, a < hbmSize → ∃ t, exec (.patrolScrub a) s = .next t ∧ t.mem = s.mem ∧ t.picks = s.picks + 1
      ∧ (t.poison = s.poison ∨ t.poison = insertNew (a / 64) s.poison))
    ∧ (∀ (stack : BitVec 3) row r, s.repairs[stack.toNat]? = some r → (r.worn.any fun x => x.1 == row) = true →
      0 < r.left stack.toNat (bankOf row) → ∃ t, exec (.rowSpare stack row) s = .next t ∧ counted (decide (4 ≤ stack.toNat)) 7 t
      ∧ t.repairs[stack.toNat]? = some { r with
        used := assocSet 0 r.used (bankOf row) (assocGet 0 r.used (bankOf row) + 1), rows := r.rows.filter fun x => x.1 != row })
    ∧ (∀ (stack : BitVec 3) sp (va : BitVec 64) pa m, s.mappingOf sp va.toNat = some m → s.movable m = true →
      s.wornPage stack.toNat m = true → (s.movingTo m pa = true ∨ (s.moving m = false ∧ s.frameFits m pa = true)) →
      let t := s.shootdown sp m.va (some pa)
      (t.moving m = false → exec (.pageRetire stack sp va pa) s = .next (t.retire stack.toNat m))
      ∧ (t.moving m = true → exec (.pageRetire stack sp va pa) s = .next t))
    ∧ (∀ die, exec (.linkLevelRetry die) s = .next (s.count die 12) ∧ exec (.unregisteredSend die) s = .next (s.count die 11)
      ∧ exec (.unsupportedPacket die false) s = .next (s.count die 9) ∧ exec (.unsupportedPacket die true) s = .next (s.count die 10))

/-- R391, R392, R401 to R404: a debug stop holds its core before the bundle due; HEAD of a trace reaches its last record; a
checkpoint that is due, with every core of the partition at rest or frozen, is taken if there is room and goes to AREA, and else ends
the recording; a replay step that found no entry halts its partition; the Retriever logs a buffer-slot return, and gives a logged
arrival back. What is the model's choice here stands in log entries 32 and 55. -/
def Obligations.DebugEvents : Prop :=
  ∀ s : State, s.canonical →
    (∀ cause bp, s.alone → s.core.dbg.due = some (cause, bp) → s.core.phase = .ready → s.core.mid = false → ∃ t,
      exec (.debugStop cause) s = .next t ∧ t.core.phase = .held ∧ t.core.ctx.pc = s.core.ctx.pc
      ∧ t.core.ctx.sregs = s.core.ctx.sregs)
    ∧ (∀ sp tr pa, s.traceOf sp = some tr → tr.head ≠ tr.pend → s.physOf sp tr.buf.toNat = some pa → ∃ t,
      exec (.traceHeadAdvance sp) s = .next t ∧ s.sameBytesBut t pa 8 ∧ readBytes t.mem pa 8 = leBytes 8 tr.pend)
    ∧ (∀ part p r, s.partOf part = some p → s.replayOf part = some r → r.checkpointDue (tickOf s.time) = true →
      (s.cores.all fun c => !p.hasCore c || c.holdsStill) = true → ∃ t, exec (.checkpoint part) s = .next t
      ∧ (let bs := Config.checkpointBytes s.picks
        let at_ := r.area.toNat + r.used
        (r.used + bs.length ≤ r.size → t.checkpoints = s.checkpoints ++ [s.capture p r.count]
          ∧ (∃ r', t.replayOf part = some r' ∧ r'.mode = r.mode ∧ r'.used = r.used + bs.length ∧ r'.count = r.count + 1
            ∧ r'.last = tickOf s.time ∧ r'.log = r.log ++ [⟨9, 0, tickOf s.time, r.count, []⟩])
          ∧ ∀ sp pa, s.firstTenant part = some sp → s.physOf sp at_ = some pa → bs.length ≤ 64 - at_ % 64 →
            readBytes t.mem pa bs.length = bs ∧ s.sameBytesBut t pa bs.length)
        ∧ (r.size < r.used + bs.length → t.checkpoints = s.checkpoints ∧ t.replayOf part = some { r with mode := 0 })))
    ∧ (∀ part r, s.replayOf part = some r → r.lack = true → r.halted = false →
      exec (.replayHalt part) s = .next ((s.lostRecord part).setReplay { r with halted := true }))
    ∧ (∀ part port r, s.replayOf part = some r → r.mode = 3 → exec (.bufferSlotReturn part port) s
      = .next (s.setReplay { r with log := r.log ++ [⟨4, 0, tickOf s.time, port.toNat, []⟩] }))
    ∧ (∀ part port r e rest, s.replayOf part = some r → s.nextArrival r = some (e, rest) → e.kind = 4 → e.data = [] →
      e.val = port.toNat →
      exec (.retrieverInjection part port []) s = .next (s.setReplay { r with log := rest }))

/-! ### Commands -/

/-- R326, R328 to R331, R352, R364, R386, R387, R390: an arriving command from an unregistered source is dropped and counted; a
module that does not serve commands refuses it or stays silent; else it is answered by the first cause that holds, its form, its
queue, its SEQ or a full queue, and one that is accepted enters its queue. RESIZEACK acts as it is accepted and ends the resize,
and SUMMARY is served in every state of the module. What is the model's choice here stands in log entries 41, 59 (what of a MAP's
body is judged on arrival), 44 (the port of an answer) and 55 (the log takes a command as it is accepted). -/
def Obligations.CommandArrivals : Prop :=
  ∀ (s : State) (c : Cmd), c.arriving = true →
    let known := s.knownSource c (cmdPart c)
    let sound := !c.rsvd && decide (32 ≤ c.bytes.length) && decide (c.len ≤ 992) && decide (c.len = c.body.length)
      && (if c.ep = .mgmt ∨ c.ep = .debug then c.queue == 0#8 else decide (c.queue.toNat < 64))
    let later := { c with arriving := false }
    let f := fieldNat c.body
    let len := c.body.length
    let part := cmdAtPart c
    let mgmt := cmdAtMgmt c
    let debug := cmdAtDebug c
    (∀ i : Instr × BitVec 8 × Bool × Bool, i ∈ [
        (.launch c, 0x01#8, part, decide (len = 8)),
        (.copy c, 0x02#8, part, decide (len = 64 ∧ f 0x18 2 = 0 ∧ f 0x1C 4 = 0 ∧ f 0x20 8 = 0) && !descReserved c.body),
        (.waitevent c, 0x03#8, part, decide (len = 16)),
        (.signalevent c, 0x04#8, part, decide (len = 16 ∧ f 8 8 < 2 ^ 24)),
        (.map c, 0x10#8, part, !mapBodyBad c.body),
        (.unmap c, 0x11#8, part, decide (len = 16)),
        (.partcreate c, 0x12#8, mgmt, decide (len = 96)),
        (.partresize c, 0x13#8, mgmt, decide (len = 40 ∧ f 2 2 = 0)),
        (.partdestroy c, 0x14#8, mgmt, decide (len = 2)),
        (.vdevcreate c, 0x15#8, mgmt, decide (len = 6 ∧ f 3 1 = 0)),
        (.vdevset c, 0x16#8, mgmt, decide (len = 10 ∧ f 2 2 = 0)),
        (.queuecreate c, 0x17#8, mgmt, decide (len = 8)),
        (.queuedestroy c, 0x18#8, mgmt, decide (len = 3)),
        (.energy c, 0x19#8, mgmt, decide (len = 24 ∧ f 3 1 < 8 ∧ f 20 4 = 0)),
        (.attest c, 0x1B#8, mgmt, decide (len = 48 ∧ f 3 5 = 0)),
        (.alarmset c, 0x1C#8, mgmt, decide (len = 4)),
        (.queuereset c, 0x1D#8, mgmt, decide (len = 4 ∧ f 3 1 < 2)),
        (.dbgarm c, 0x20#8, debug, decide (len = 32 ∧ f 3 1 < 2 ∧ f 6 2 = 0)),
        (.dbgstop c, 0x21#8, debug, decide (len = 8 ∧ f 3 1 = 0)),
        (.dbgresume c, 0x22#8, debug, decide (len = 24 ∧ f 3 1 = 0 ∧ f 12 4 = 0)),
        (.trace c, 0x23#8, debug, decide (len = 96 ∧ f 3 1 < 16 ∧ f 5 3 = 0 ∧ f 12 4 = 0)),
        (.counters c, 0x24#8, debug, decide (len = 16 ∧ f 2 2 < 2 ∧ f 4 4 = 0)),
        (.replay c, 0x25#8, debug, decide (len = 28 ∧ f 3 1 = 0))] →
      let good := i.2.2.1 && decide (c.op = i.2.1) && i.2.2.2 && sound
      (known = false → exec i.1 s = .next (s.count (decide (6 ≤ c.port.val)) 11))
      ∧ (known = true → (s.devState = .boot ∨ s.devState = .stopped) → exec i.1 s = .next (s.respond c 3))
      ∧ (known = true → (s.devState = .alarm ∨ s.devState = .failed) → exec i.1 s = .next s)
      ∧ (known = true → s.devState = .ready →
        (s.queueAt (cmdHome c) = none → exec i.1 s = .next (s.respond c 2))
        ∧ ∀ q, s.queueAt (cmdHome c) = some q →
          (good = false → exec i.1 s = .next (s.respond c 2))
          ∧ (good = true → s.queueShut q = true → exec i.1 s = .next (s.respond c 3))
          ∧ (good = true → s.queueShut q = false → q.knows c.seq = true → exec i.1 s = .next (s.respond c 4))
          ∧ (good = true → s.queueShut q = false → q.knows c.seq = false → 256 ≤ q.depth → exec i.1 s = .next (s.respond c 1))
          ∧ (good = true → s.queueShut q = false → q.knows c.seq = false → q.depth < 256 → ∃ t, exec i.1 s = .next t
            ∧ t = ((s.respond c 0).logged (Endpoint.owner c.ep) 3 q.id (c.seq.toNat + 2 ^ 32 * c.port.val)).2.setQueue (q.take later)
            ∧ t.queueAt (cmdHome c) = some (q.take later) ∧ t.mem = s.mem ∧ t.core = s.core
            ∧ (q.ahead = [] → c.seq = q.nextSeq → q.take later = { q with held := q.held ++ [later], nextSeq := q.nextSeq + 1 })
            ∧ (c.seq ≠ q.nextSeq → (∀ d ∈ q.ahead, d.seq ≠ q.nextSeq) → q.take later = { q with ahead := q.ahead ++ [later] }))))
    ∧ (∀ p q, known = true → s.devState = .ready → c.op = 0x05#8 → len = 8 → f 2 2 = 0 → c.rsvd = false → c.lenBad = false →
      s.queueAt (cmdHome c) = some q → c.ep = .part p.id → s.partOf (f 0 2) = some p → p.unacked = true → p.rseq.toNat = f 4 4 →
      let t := ((s.respond c 0).setPart { p with resize := none, unacked := false }).tell c 0 0 []
      exec (.resizeack c) s
        = .next (match p.resize with | some (_, _, some d) => t.finish d 0 0 [] | some (_, _, none) => t | none => t))
    ∧ (s.admins.contains c.src = true → c.ep = .mgmt → c.op = 0x1A#8 → len = 4 → c.rsvd = false → c.lenBad = false → c.queue = 0#8 → f 0 4 < 2 → ∃ t,
      exec (.summary c) s = .next t ∧ t.counters = (if f 0 4 = 1 then List.replicate 32 0#32 else s.counters)
      ∧ t.mem = s.mem ∧ t.core = s.core ∧ t.cqueues = s.cqueues ∧ s.outbox <+: t.outbox
      ∧ (s.replayOf 0 = none → t.outbox.getLast? = some ⟨.mgmt, c.port, c.src, .send, cmdAnswer c 1 0 0 []⟩))

/-- R328, R329, R331, R332, R335, R410, R414: the commands of a host as they begin: a launch starts, waits for a page, or ends
with the record of its refusal; a copy becomes one transfer; a wait ends once its condition holds, and holds its queue until
then; a signal counts an arrival; pages are mapped, or none is; and unmapped pages leave by shootdowns. What is the model's
choice here stands in log entry 27, and for the status of a MAP that is refused in 41 and 48 too. -/
def Obligations.HostCommands : Prop :=
  ∀ (s : State) (c : Cmd) (q k : CmdQueue), s.canonical → c.arriving = false → s.begins c = some q →
    let u := s.begun c q
    let f := fieldNat c.body
    u.queueAt (cmdHome c) = some k →
    k = { q with running := some c, elapsed := 0, began := tickOf s.time, begun := none, held := q.held.tail }
    ∧ ((s.launches.all fun l => decide (l.cmd ≠ c)) = true →
      let a := BitVec.ofNat 64 (f 0 8)
      let reads := u.needs q.space a 128 0 0 (tickOf s.time) none
      let bs := u.peek q.space a.toNat 128
      let b : Begun := ⟨bs, if launchRecBad bs then pagesOf a 128 else (launchRecOf bs).pages a⟩
      let v := u.noteBegun c b
      let start := v.startLaunch q.space { k with begun := some b } a bs (tickOf s.time)
      (∀ va, reads = .wait va → exec (.launch c) s = .next (u.askModule q.space va))
      ∧ (∀ d compl t, reads = .refuse d compl t → exec (.launch c) s = .next (t.complete q.space compl c d))
      ∧ (∀ x, reads = .ok x → (∀ va, start = .wait va → exec (.launch c) s = .next (v.askModule q.space va))
        ∧ (∀ d compl t, start = .refuse d compl t →
          exec (.launch c) s = .next ((t.freeLineage q.space.part d.launch).complete q.space compl c d))
        ∧ (∀ r id t, start = .ok (r, id, t) → ∃ l : Launch, l.space = q.space ∧ l.queue = q.id ∧ l.id = id ∧ l.cmd = c
          ∧ l.record = a ∧ l.compl = r.compl ∧ l.created = r.nroot ∧ l.finished = 0 ∧ l.ending = none ∧ l.start = tickOf s.time
          ∧ exec (.launch c) s = .next (({ t with launches := t.launches ++ [l] } : State).registerRoots q.space r id))))
    ∧ ((s.jobs.all fun j => decide (j.cmd ≠ some c)) = true →
      (∀ t, descCheck c.body = some t → exec (.copy c) s = .next (u.finish c 7 (Trap.code t).toNat []))
      ∧ (descCheck c.body = none → ∃ j : Job, j.cmd = some c ∧ j.moved = 0 ∧ j.die = 0
        ∧ j.copy = { copyOf c.body with sys := true, scope := 4#3 }
        ∧ exec (.copy c) s = .next { u with jobs := s.jobs ++ [j] }))
    ∧ (∀ pa, u.variable q.space (BitVec.ofNat 64 (f 0 8)) false = .ok pa →
      exec (.waitevent c) s
        = .next (if waitHolds (BitVec.ofNat 64 (f 8 8)) (leNat (readBytes s.mem pa 8)) then u.finish c 0 0 [] else u))
    ∧ (∀ x, u.variable q.space (BitVec.ofNat 64 (f 0 8)) false = .error x → exec (.waitevent c) s = .next (u.failVariable c x))
    ∧ (∀ x, u.variable q.space (BitVec.ofNat 64 (f 0 8)) true = .error x → exec (.signalevent c) s = .next (u.failVariable c x))
    ∧ (∀ pa, u.variable q.space (BitVec.ofNat 64 (f 0 8)) true = .ok pa → ∃ t, exec (.signalevent c) s = .next (t.finish c 0 0 [])
      ∧ s.sameBytesBut t pa 8 ∧ readBytes t.mem pa 8 = leBytes 8 (arriveNew (leNat (readBytes s.mem pa 8)) (f 8 8)))
    ∧ (let r := mapReq c.body
      (u.mapFits r q.space = false → exec (.map c) s = .next (u.finish c 5 0 []))
      ∧ (u.mapFits r q.space = true → u.mapPages r q.space (r.len / r.size) = none → exec (.map c) s = .next (u.finish c 5 0 []))
      ∧ (∀ t, u.mapFits r q.space = true → u.mapPages r q.space (r.len / r.size) = some t →
        exec (.map c) s = .next (t.finish c 0 0 [])
        ∧ ∃ ms, t.maps = s.maps ++ ms ∧ ms.map (fun m => (m.space, m.va, m.size))
            = (List.range (r.len / r.size)).map fun i => (q.space, r.va + i * r.size, r.size)))
    ∧ (let hit := s.maps.filter fun m => decide (m.space = q.space) && meets (f 0 8) (f 8 8) m.va m.size
      (hit = [] → exec (.unmap c) s = .next (u.finish c 0 0 []))
      ∧ ((∃ m ∈ hit, u.pageHeld m false = true ∨ m.va < f 0 8 ∨ f 0 8 + f 8 8 < m.va + m.size) →
        exec (.unmap c) s = .next (u.finish c 5 0 []))
      ∧ (hit ≠ [] → (∀ m ∈ hit, f 0 8 ≤ m.va ∧ m.va + m.size ≤ f 0 8 + f 8 8 ∧ u.pageHeld m false = false) →
        exec (.unmap c) s = .next (hit.foldl (fun s m => s.shootdown q.space m.va none) (u.noteBegun c ⟨[], []⟩))))

/-- R349, R352, R353, R364, R366, R368, R378, R383 to R385: the commands of an administrator as they begin: each completes with
what it has made or removed, or is refused with status 5; a resize of clusters or slots waits for a launch boundary; a tenant is
enabled at once and stopped over time; energy records and a signed report are written to the memory of a tenant. What is the
model's choice here (the key pair drawn, the report's bytes) stands in log entry 6. -/
def Obligations.ManagementCommands : Prop :=
  ∀ (s : State) (c : Cmd) (q : CmdQueue), c.arriving = false → s.begins c = some q →
    let u := s.begun c q
    let f := fieldNat c.body
    let part := f 0 2
    (∀ i : Instr × Option State, i ∈ [
        (.partcreate c, u.partCreate c.body), (.vdevcreate c, u.vdevCreate c.body),
        (.queuecreate c, u.queueCreate c.body), (.queuedestroy c, u.queueDestroy c.body), (.queuereset c, u.queueReset c.body),
        (.alarmset c, u.alarmSet c.body)] →
      exec i.1 s = .next (match i.2 with | some t => t.finish c 0 0 [] | none => u.finish c 5 0 []))
    ∧ (∀ t, u.partCreate c.body = some t → ∃ p, t.parts = s.parts ++ [p] ∧ p.id = part ∧ p.clusters.toNat = f 4 2
      ∧ p.key = some (Config.random s.picks) ∧ t.picks = s.picks + 1
      ∧ ∀ o ∈ s.parts, o.id ≠ p.id ∧ o.clusters &&& p.clusters = 0#16 ∧ o.ring &&& p.ring = 0#256)
    ∧ (u.partOf part = none → exec (.partdestroy c) s = .next (u.finish c 5 0 []))
    ∧ (∀ p, u.partOf part = some p →
      let is_ := fun (st : TenState) => s.tenants.any fun t => t.space.part == part && t.st == st
      let t := u.partDestroy p
      (is_ .enabled = true → exec (.partdestroy c) s = .next (u.finish c 5 0 []))
      ∧ (is_ .enabled = false → is_ .stopping = true → exec (.partdestroy c) s = .next u)
      ∧ (is_ .enabled = false → is_ .stopping = false → exec (.partdestroy c) s = .next (t.finish c 0 0 []))
      ∧ (∀ p ∈ t.parts, p.id ≠ part) ∧ (∀ m ∈ t.maps, m.space.part ≠ part) ∧ (∀ v ∈ t.tenants, v.space.part ≠ part))
    ∧ (∀ t, u.vdevCreate c.body = some t → t.tenantOf ⟨part, f 2 1⟩ = some ⟨⟨part, f 2 1⟩, f 4 2, .disabled, [], 0⟩)
    ∧ (∀ t, u.queueCreate c.body = some t → t.queueAt (part, f 3 1) = some (CmdQueue.reset ⟨part, f 2 1⟩ (f 3 1) (f 4 4)))
    ∧ (∀ t, u.queueDestroy c.body = some t → t.queueAt (part, f 2 1) = none)
    ∧ (∀ t, u.queueReset c.body = some t → ∃ k, t.queueAt (part, f 2 1) = some k ∧ k.error = false
      ∧ (f 3 1 = 1 → k.held = [] ∧ k.ahead = []))
    ∧ (∀ t, u.alarmSet c.body = some t → ((s.actions.zip t.actions).all fun p => decide (p.1.code ≤ p.2.code)) = true)
    ∧ (∀ p, u.partOf part = some p → p.resize = none →
      let cl := BitVec.ofNat 16 (f 4 2)
      let ring := BitVec.ofNat 256 (f 8 32)
      let new := { p with vways := f 6 1, oways := f 7 1 }
      let ok := u.masksOk p.id cl ring && u.waysOk p (f 6 1) (f 7 1)
      let v := u.trimWays p.id (f 7 1)
      (ok = false → exec (.partresize c) s = .next (u.finish c 5 0 []))
      ∧ (ok = true → cl = p.clusters → ring = p.ring → exec (.partresize c) s = .next ((v.setPart new).finish c 0 0 []))
      ∧ (ok = true → ¬ (cl = p.clusters ∧ ring = p.ring) →
        exec (.partresize c) s = .next (v.setPart { new with resize := some (cl, ring, some c) })))
    ∧ (∀ v p t, v < 16 → f 4 2 = 2 ^ v → f 8 2 ≤ 1024 → u.partOf part = some p → u.tenantOf ⟨part, v⟩ = some t → ∃ w,
      exec (.vdevset c) s = .next w
      ∧ (let n := if f 8 2 = 0 then t.tickets else f 8 2
        (f 6 2 = 2 ^ v → t.st = .disabled → w.tenantOf ⟨part, v⟩ = some { t with st := .enabled, tickets := n })
        ∧ (f 6 2 = 0 → t.st = .enabled →
          w.tenantOf ⟨part, v⟩ = some { t with st := .stopping, tickets := n, since := tickOf s.time }
          ∧ ∀ k ∈ w.cores, k.task.isSome = true → k.space = ⟨part, v⟩ → k.stop = true)))
    ∧ (let sp : Space := ⟨part, f 2 1⟩
      let va := BitVec.ofNat 64 (f 8 8)
      ((u.tenantOf sp).isSome = true → va.toNat % 64 = 0 → u.writable sp va 4096 = some none →
        exec (.energy c) s = .next (((u.poke sp va.toNat ((List.range 64).flatMap fun id =>
          match u.energyRecord sp id with | some e => Energy.bytes e | none => List.replicate 64 0#8)).mapEnergies sp
            fun e => e.set (f 3 1) (f 4 4) (f 16 4)).finish c 0 0 [])))
    ∧ (let sp : Space := ⟨part, f 2 1⟩
      let va := BitVec.ofNat 64 (f 0x28 8)
      ∀ p, u.partOf part = some p → (u.tenantOf sp).isSome = true → va.toNat % 64 = 0 → u.writable sp va 16480 = some none →
        let r := u.report p ((c.body.drop 8).take 32)
        exec (.attest c) s = .next ((u.poke sp va.toNat (r ++ signatureOf r)).finish c 0 0 []))

/-- R390 to R394, R397 to R404: the debug commands as they begin: disarming a tenant; stopping its tasks, which completes once
they are held; resuming held tasks as they are; a trace buffer that starts empty; the counters of a partition, which FLAGS may
clear; recording into an area that stands in the partition's HBM4E, and the end of recording or replay. What is the model's choice here stands in log entries 33 and 53. -/
def Obligations.DebugCommands : Prop :=
  ∀ (s : State) (c : Cmd) (q : CmdQueue), c.arriving = false → s.begins c = some q →
    let u := s.begun c q
    let f := fieldNat c.body
    let sp := cmdSpace c
    let tenant := (u.tenantOf sp).isSome
    let fails := fun (i : Instr) => exec i s = .next (u.finish c 5 0 [])
    (tenant = false → fails (.dbgarm c) ∧ fails (.dbgstop c) ∧ fails (.dbgresume c) ∧ fails (.trace c))
    ∧ (tenant = true → f 4 2 ≤ 64 → f 3 1 = 0 → ∃ t, exec (.dbgarm c) s = .next t ∧ t.armOf sp = none
      ∧ (∀ sp', sp' ≠ sp → t.armOf sp' = s.armOf sp'))
    ∧ (tenant = true → f 4 2 = 0 → f 3 1 = 1 → ∃ t, exec (.dbgarm c) s = .next t
      ∧ t.armOf sp = some ⟨sp, [], BitVec.ofNat 64 (f 0x10 8), f 0x18 8, 0, c.src, c.ep, c.port⟩)
    ∧ (tenant = true → (u.armOf sp).isSome = true →
      let t := u.mapCores fun k =>
        if k.named sp (f 4 4) && k.phase != .held && !k.departs then { k with dbg := { k.dbg with request := true } } else k
      exec (.dbgstop c) s
        = .next (if t.cores.any fun k => k.named sp (f 4 4) && !k.departs && !t.taskHeld k then t else t.finish c 0 0 []))
    ∧ (tenant = true → f 16 8 = 0 →
      let ts := u.targets sp (f 4 4)
      (ts.isEmpty = true → fails (.dbgresume c))
      ∧ (ts.isEmpty = false → exec (.dbgresume c) s = .next ((ts.foldl (fun s t => s.release (f 8 4) t) u).finish c 0 0 [])))
    ∧ (tenant = true → traceRange c.body = true →
      (((chunks 2 32 (c.body.drop 0x20)).map fun x => BitVec.ofNat 16 (leNat x)).all fun x => decide (x.toNat % 64 < 16)) = true →
      let lies := u.reachAll sp (BitVec.ofNat 64 (f 0x10 8)) (f 0x18 8)
      (∀ r, lies = some (.inl r) → fails (.trace c))
      ∧ (∀ a, lies = some (.inr a) → exec (.trace c) s = .next (u.askModule sp a))
      ∧ (lies = none → ∃ t tr, exec (.trace c) s = .next t ∧ t.traceOf sp = some tr ∧ tr.head = 0 ∧ tr.pend = 0 ∧ tr.lost = 0
        ∧ tr.buf = BitVec.ofNat 64 (f 0x10 8) ∧ tr.size = f 0x18 8 ∧ tr.period = f 4 1))
    ∧ (∀ p tn, (s.pmcs.find? fun p => p.part == f 0 2) = some p → u.firstTenant (f 0 2) = some tn →
      u.writable tn (BitVec.ofNat 64 (f 8 8)) 256 = some none →
      let v := u.poke tn (BitVec.ofNat 64 (f 8 8)).toNat (p.vals.flatMap fun x => leBytes 8 x.toNat)
      ∃ t : State, exec (.counters c) s = .next (t.finish c 0 0 []) ∧ t = { v with pmcs := t.pmcs }
        ∧ t.pmcs = s.pmcs.map fun r => if f 2 2 % 2 = 1 ∧ r.part = f 0 2 then { r with vals := List.replicate 32 0#64 } else r)
    ∧ (∀ p, u.partOf (f 0 2) = some p → (f 4 4 ≤ 1000) →
      (f 2 1 = 0 → exec (.replay c) s = .next ((u.endReplay p).finish c 0 0 []))
      ∧ (f 2 1 = 1 → u.areaIn p.id (BitVec.ofNat 64 (f 12 8)) (f 20 8) = none → fails (.replay c))
      ∧ (∀ x, f 2 1 = 1 → u.areaIn p.id (BitVec.ofNat 64 (f 12 8)) (f 20 8) = some (.inr x) → ∃ t r, exec (.replay c) s = .next t ∧ t.replayOf p.id = some r ∧ r.mode = 1 ∧ r.log = [] ∧ r.used = 0
        ∧ r.period = (if f 4 4 = 0 then 10 else f 4 4) ∧ ∀ k ∈ t.checkpoints, k.part ≠ p.id))
end

