-- ==== Sys2Proof/Laws/Memory.lean ====
section
/-! SUPPORT. The laws of sparse storage: a write reads back, leaves every other address, and keeps the canonical form. -/

namespace Sys2Proof.Machine

/-! ### The order of a store -/

theorem assocAbove_cons {α : Type} [DecidableEq α] {dflt : α} {lo : Option Nat} {k : Nat} {v : α} {t : List (Nat × α)} :
    assocAbove dflt lo ((k, v) :: t) = true ↔ (∀ l, lo = some l → l < k) ∧ v ≠ dflt ∧ assocAbove dflt (some k) t = true := by
  cases lo <;> simp [assocAbove, and_assoc]

/-- A lower bound may fall. -/
theorem assocAbove_mono {α : Type} [DecidableEq α] {dflt : α} {lo lo' : Option Nat} {m : List (Nat × α)}
    (h : assocAbove dflt lo m = true) (hl : ∀ l', lo' = some l' → ∃ l, lo = some l ∧ l' ≤ l) : assocAbove dflt lo' m = true := by
  cases m with
  | nil => rfl
  | cons p t =>
    obtain ⟨k, v⟩ := p
    rw [assocAbove_cons] at h ⊢
    refine ⟨fun l' hl' => ?_, h.2⟩
    obtain ⟨l, h1, h2⟩ := hl l' hl'
    exact lt_of_le_of_lt h2 (h.1 l h1)

/-- Below its first address a store reads the default value. -/
theorem assocGet_below {α : Type} [DecidableEq α] {dflt : α} {lo a : Nat} {m : List (Nat × α)}
    (h : assocAbove dflt (some lo) m = true) (ha : a ≤ lo) : assocGet dflt m a = dflt := by
  induction m generalizing lo with
  | nil => rfl
  | cons p t ih =>
    obtain ⟨k, v⟩ := p
    rw [assocAbove_cons] at h
    have hk := h.1 lo rfl
    rw [assocGet, if_neg (by omega)]
    exact ih h.2.2 (by omega)

/-- A write keeps the canonical form, above any bound below its address. -/
theorem assocSet_above {α : Type} [DecidableEq α] {dflt : α} {lo : Option Nat} {m : List (Nat × α)} {a : Nat} {b : α}
    (h : assocAbove dflt lo m = true) (ha : ∀ l, lo = some l → l < a) : assocAbove dflt lo (assocSet dflt m a b) = true := by
  induction m generalizing lo with
  | nil =>
    rw [assocSet]
    split
    · rfl
    · rw [assocAbove_cons]; exact ⟨ha, ‹_›, rfl⟩
  | cons p t ih =>
    obtain ⟨k, v⟩ := p
    rw [assocAbove_cons] at h
    rw [assocSet]
    split
    · split
      · rw [assocAbove_cons]; exact h
      · rw [assocAbove_cons, assocAbove_cons]
        exact ⟨ha, ‹_›, fun l hl => by cases hl; assumption, h.2⟩
    · split
      · split
        · exact assocAbove_mono h.2.2 fun l hl => ⟨k, rfl, (h.1 l hl).le⟩
        · rw [assocAbove_cons]
          subst_vars
          exact ⟨h.1, ‹_›, h.2.2⟩
      · rw [assocAbove_cons]
        refine ⟨h.1, h.2.1, ih h.2.2 fun l hl => ?_⟩
        cases hl
        omega

/-- A write reads back. -/
theorem assocGet_set_same {α : Type} [DecidableEq α] {dflt : α} {lo : Option Nat} {m : List (Nat × α)} {a : Nat} {b : α}
    (h : assocAbove dflt lo m = true) : assocGet dflt (assocSet dflt m a b) a = b := by
  induction m generalizing lo with
  | nil =>
    rw [assocSet]
    split
    · exact (‹b = dflt›).symm
    · simp [assocGet]
  | cons p t ih =>
    obtain ⟨k, v⟩ := p
    rw [assocAbove_cons] at h
    rw [assocSet]
    split
    · split
      · subst_vars
        rw [assocGet, if_neg (by omega)]
        exact assocGet_below h.2.2 (by omega)
      · simp [assocGet]
    · split
      · split
        · subst_vars; exact assocGet_below h.2.2 le_rfl
        · simp [assocGet]
      · rw [assocGet, if_neg (by omega)]
        exact ih h.2.2

/-- A write leaves every other address. -/
theorem assocGet_set_other {α : Type} [DecidableEq α] {dflt : α} {m : List (Nat × α)} {a c : Nat} {b : α} (h : c ≠ a) :
    assocGet dflt (assocSet dflt m a b) c = assocGet dflt m c := by
  induction m with
  | nil =>
    rw [assocSet]
    split
    · rfl
    · simp only [assocGet, if_neg (Ne.symm h)]
  | cons p t ih =>
    obtain ⟨k, v⟩ := p
    rw [assocSet]
    split
    · split
      · rfl
      · rw [assocGet, if_neg (Ne.symm h)]
    · split
      · subst_vars
        split
        · rw [assocGet, if_neg (Ne.symm h)]
        · rw [assocGet, assocGet, if_neg (Ne.symm h), if_neg (Ne.symm h)]
      · simp only [assocGet, ih]

/-- Dropping entries keeps the canonical form. -/
theorem assocAbove_filter {α : Type} [DecidableEq α] {dflt : α} {f : Nat × α → Bool} {m : List (Nat × α)} :
    ∀ {lo : Option Nat}, assocAbove dflt lo m = true → assocAbove dflt lo (m.filter f) = true := by
  induction m with
  | nil => exact fun h => h
  | cons p t ih =>
    obtain ⟨k, v⟩ := p
    intro lo h
    rw [assocAbove_cons] at h
    rw [List.filter_cons]
    split
    · rw [assocAbove_cons]; exact ⟨h.1, h.2.1, ih h.2.2⟩
    · refine assocAbove_mono (lo := some k) (ih h.2.2) fun l hl => ⟨k, rfl, (h.1 l hl).le⟩

/-! ### Memory -/

theorem wf_nil : Memory.wf [] := rfl

theorem writeByte_wf {m : List Host.Cell} {a : Nat} {b : Byte} (h : Memory.wf m) : Memory.wf (writeByte m a b) :=
  assocSet_above h fun _ hl => nomatch hl

theorem writeBytes_wf {m : List Host.Cell} {a : Nat} {bs : List Byte} (h : Memory.wf m) : Memory.wf (writeBytes m a bs) := by
  induction bs generalizing m a with
  | nil => exact h
  | cons b bs ih => exact ih (writeByte_wf h)

theorem writeCells_wf {m : List Host.Cell} {l : List (Nat × Byte)} (h : Memory.wf m) : Memory.wf (writeCells m l) := by
  induction l generalizing m with
  | nil => exact h
  | cons p l ih => exact ih (writeByte_wf h)

theorem filter_wf {m : List Host.Cell} {f : Host.Cell → Bool} (h : Memory.wf m) : Memory.wf (m.filter f) := assocAbove_filter h

theorem readByte_writeByte_same {m : List Host.Cell} {a : Nat} {b : Byte} (h : Memory.wf m) : readByte (writeByte m a b) a = b :=
  assocGet_set_same h

theorem readByte_writeByte_other {m : List Host.Cell} {a c : Nat} {b : Byte} (h : c ≠ a) :
    readByte (writeByte m a b) c = readByte m c := assocGet_set_other h

/-- A write of bytes leaves every address outside them. -/
theorem readByte_writeBytes_outside {m : List Host.Cell} {a c : Nat} {bs : List Byte} (h : c < a ∨ a + bs.length ≤ c) :
    readByte (writeBytes m a bs) c = readByte m c := by
  induction bs generalizing m a with
  | nil => rfl
  | cons b bs ih =>
    rw [writeBytes, ih (by simp only [List.length_cons] at h; omega)]
    exact readByte_writeByte_other (by simp only [List.length_cons] at h; omega)

/-- Bytes written read back. -/
theorem readBytes_writeBytes {m : List Host.Cell} {a : Nat} {bs : List Byte} (h : Memory.wf m) :
    readBytes (writeBytes m a bs) a bs.length = bs := by
  induction bs generalizing m a with
  | nil => rfl
  | cons b bs ih =>
    rw [List.length_cons, readBytes, writeBytes, ih (writeByte_wf h), readByte_writeBytes_outside (by omega),
      readByte_writeByte_same h]

/-- A write of cells leaves every address that none of them names. -/
theorem readByte_writeCells_outside {m : List Host.Cell} {l : List (Nat × Byte)} {c : Nat} (h : ∀ p ∈ l, p.1 ≠ c) :
    readByte (writeCells m l) c = readByte m c := by
  induction l generalizing m with
  | nil => rfl
  | cons p l ih =>
    rw [writeCells, ih fun q hq => h q (List.mem_cons_of_mem _ hq)]
    exact readByte_writeByte_other (h p (List.mem_cons_self ..)).symm

/-- Memory and the scratchpads list nothing at reset. -/
theorem reset_mem : State.reset.mem = [] ∧ State.reset.spm = [] := ⟨rfl, rfl⟩

end Sys2Proof.Machine
end

