-- ==== Sys2Proof/Laws/State.lean ====
section
/-! SUPPORT. What the named updates of the state leave as it was, field by field, so that a proof does not unfold a record
update. -/

namespace Sys2Proof.Machine

/-! ### `State.onCore` changes the core that steps and nothing else -/

@[simp] theorem State.onCore_core (s : State) (f : Core → Core) : (s.onCore f).core = f s.core := rfl
@[simp] theorem State.onCore_parked (s : State) (f : Core → Core) : (s.onCore f).parked = s.parked := rfl
@[simp] theorem State.onCore_mem (s : State) (f : Core → Core) : (s.onCore f).mem = s.mem := rfl
@[simp] theorem State.onCore_spm (s : State) (f : Core → Core) : (s.onCore f).spm = s.spm := rfl
@[simp] theorem State.onCore_spmLate (s : State) (f : Core → Core) : (s.onCore f).spmLate = s.spmLate := rfl
@[simp] theorem State.onCore_now (s : State) (f : Core → Core) : (s.onCore f).now = s.now := rfl
@[simp] theorem State.onCore_time (s : State) (f : Core → Core) : (s.onCore f).time = s.time := rfl
@[simp] theorem State.onCore_hist (s : State) (f : Core → Core) : (s.onCore f).hist = s.hist := rfl
@[simp] theorem State.onCore_versions (s : State) (f : Core → Core) : (s.onCore f).versions = s.versions := rfl
@[simp] theorem State.onCore_lineage (s : State) (f : Core → Core) : (s.onCore f).lineage = s.lineage := rfl
@[simp] theorem State.onCore_mailboxes (s : State) (f : Core → Core) : (s.onCore f).mailboxes = s.mailboxes := rfl
@[simp] theorem State.onCore_hwaits (s : State) (f : Core → Core) : (s.onCore f).hwaits = s.hwaits := rfl
@[simp] theorem State.onCore_maps (s : State) (f : Core → Core) : (s.onCore f).maps = s.maps := rfl
@[simp] theorem State.onCore_frames (s : State) (f : Core → Core) : (s.onCore f).frames = s.frames := rfl
@[simp] theorem State.onCore_objects (s : State) (f : Core → Core) : (s.onCore f).objects = s.objects := rfl
@[simp] theorem State.onCore_stubs (s : State) (f : Core → Core) : (s.onCore f).stubs = s.stubs := rfl
@[simp] theorem State.onCore_parts (s : State) (f : Core → Core) : (s.onCore f).parts = s.parts := rfl
@[simp] theorem State.onCore_tenants (s : State) (f : Core → Core) : (s.onCore f).tenants = s.tenants := rfl
@[simp] theorem State.onCore_cqueues (s : State) (f : Core → Core) : (s.onCore f).cqueues = s.cqueues := rfl
@[simp] theorem State.onCore_launches (s : State) (f : Core → Core) : (s.onCore f).launches = s.launches := rfl
@[simp] theorem State.onCore_nodes (s : State) (f : Core → Core) : (s.onCore f).nodes = s.nodes := rfl
@[simp] theorem State.onCore_edges (s : State) (f : Core → Core) : (s.onCore f).edges = s.edges := rfl
@[simp] theorem State.onCore_jobs (s : State) (f : Core → Core) : (s.onCore f).jobs = s.jobs := rfl
@[simp] theorem State.onCore_clusters (s : State) (f : Core → Core) : (s.onCore f).clusters = s.clusters := rfl
@[simp] theorem State.onCore_energies (s : State) (f : Core → Core) : (s.onCore f).energies = s.energies := rfl
@[simp] theorem State.onCore_tlb (s : State) (f : Core → Core) : (s.onCore f).tlb = s.tlb := rfl
@[simp] theorem State.onCore_caches (s : State) (f : Core → Core) : (s.onCore f).caches = s.caches := rfl
@[simp] theorem State.onCore_pageWalks (s : State) (f : Core → Core) : (s.onCore f).pageWalks = s.pageWalks := rfl
@[simp] theorem State.onCore_devState (s : State) (f : Core → Core) : (s.onCore f).devState = s.devState := rfl
@[simp] theorem State.onCore_actions (s : State) (f : Core → Core) : (s.onCore f).actions = s.actions := rfl
@[simp] theorem State.onCore_alarmSrc (s : State) (f : Core → Core) : (s.onCore f).alarmSrc = s.alarmSrc := rfl
@[simp] theorem State.onCore_alarmAt (s : State) (f : Core → Core) : (s.onCore f).alarmAt = s.alarmAt := rfl
@[simp] theorem State.onCore_alarmGone (s : State) (f : Core → Core) : (s.onCore f).alarmGone = s.alarmGone := rfl
@[simp] theorem State.onCore_counters (s : State) (f : Core → Core) : (s.onCore f).counters = s.counters := rfl
@[simp] theorem State.onCore_repairs (s : State) (f : Core → Core) : (s.onCore f).repairs = s.repairs := rfl
@[simp] theorem State.onCore_poison (s : State) (f : Core → Core) : (s.onCore f).poison = s.poison := rfl
@[simp] theorem State.onCore_spmPoison (s : State) (f : Core → Core) : (s.onCore f).spmPoison = s.spmPoison := rfl
@[simp] theorem State.onCore_retired (s : State) (f : Core → Core) : (s.onCore f).retired = s.retired := rfl
@[simp] theorem State.onCore_badFrames (s : State) (f : Core → Core) : (s.onCore f).badFrames = s.badFrames := rfl
@[simp] theorem State.onCore_admins (s : State) (f : Core → Core) : (s.onCore f).admins = s.admins := rfl
@[simp] theorem State.onCore_handleKey (s : State) (f : Core → Core) : (s.onCore f).handleKey = s.handleKey := rfl
@[simp] theorem State.onCore_coreMap (s : State) (f : Core → Core) : (s.onCore f).coreMap = s.coreMap := rfl
@[simp] theorem State.onCore_dbgArms (s : State) (f : Core → Core) : (s.onCore f).dbgArms = s.dbgArms := rfl
@[simp] theorem State.onCore_traces (s : State) (f : Core → Core) : (s.onCore f).traces = s.traces := rfl
@[simp] theorem State.onCore_pmcs (s : State) (f : Core → Core) : (s.onCore f).pmcs = s.pmcs := rfl
@[simp] theorem State.onCore_replays (s : State) (f : Core → Core) : (s.onCore f).replays = s.replays := rfl
@[simp] theorem State.onCore_checkpoints (s : State) (f : Core → Core) : (s.onCore f).checkpoints = s.checkpoints := rfl
@[simp] theorem State.onCore_peers (s : State) (f : Core → Core) : (s.onCore f).peers = s.peers := rfl
@[simp] theorem State.onCore_hostReqs (s : State) (f : Core → Core) : (s.onCore f).hostReqs = s.hostReqs := rfl
@[simp] theorem State.onCore_moves (s : State) (f : Core → Core) : (s.onCore f).moves = s.moves := rfl
@[simp] theorem State.onCore_inbox (s : State) (f : Core → Core) : (s.onCore f).inbox = s.inbox := rfl
@[simp] theorem State.onCore_outbox (s : State) (f : Core → Core) : (s.onCore f).outbox = s.outbox := rfl
@[simp] theorem State.onCore_picks (s : State) (f : Core → Core) : (s.onCore f).picks = s.picks := rfl

/-! ### `Core.onCtx` changes the context of the task and nothing else -/

@[simp] theorem Core.onCtx_id (c : Core) (f : Ctx → Ctx) : (c.onCtx f).id = c.id := rfl
@[simp] theorem Core.onCtx_ctx (c : Core) (f : Ctx → Ctx) : (c.onCtx f).ctx = f c.ctx := rfl
@[simp] theorem Core.onCtx_task (c : Core) (f : Ctx → Ctx) : (c.onCtx f).task = c.task := rfl
@[simp] theorem Core.onCtx_phase (c : Core) (f : Ctx → Ctx) : (c.onCtx f).phase = c.phase := rfl
@[simp] theorem Core.onCtx_after (c : Core) (f : Ctx → Ctx) : (c.onCtx f).after = c.after := rfl
@[simp] theorem Core.onCtx_hdr (c : Core) (f : Ctx → Ctx) : (c.onCtx f).hdr = c.hdr := rfl
@[simp] theorem Core.onCtx_issuing (c : Core) (f : Ctx → Ctx) : (c.onCtx f).issuing = c.issuing := rfl
@[simp] theorem Core.onCtx_mid (c : Core) (f : Ctx → Ctx) : (c.onCtx f).mid = c.mid := rfl
@[simp] theorem Core.onCtx_stall (c : Core) (f : Ctx → Ctx) : (c.onCtx f).stall = c.stall := rfl
@[simp] theorem Core.onCtx_freeze (c : Core) (f : Ctx → Ctx) : (c.onCtx f).freeze = c.freeze := rfl
@[simp] theorem Core.onCtx_frozen (c : Core) (f : Ctx → Ctx) : (c.onCtx f).frozen = c.frozen := rfl
@[simp] theorem Core.onCtx_froze (c : Core) (f : Ctx → Ctx) : (c.onCtx f).froze = c.froze := rfl
@[simp] theorem Core.onCtx_worst (c : Core) (f : Ctx → Ctx) : (c.onCtx f).worst = c.worst := rfl
@[simp] theorem Core.onCtx_ended (c : Core) (f : Ctx → Ctx) : (c.onCtx f).ended = c.ended := rfl
@[simp] theorem Core.onCtx_fetched (c : Core) (f : Ctx → Ctx) : (c.onCtx f).fetched = c.fetched := rfl
@[simp] theorem Core.onCtx_judged (c : Core) (f : Ctx → Ctx) : (c.onCtx f).judged = c.judged := rfl
@[simp] theorem Core.onCtx_lateFrom (c : Core) (f : Ctx → Ctx) : (c.onCtx f).lateFrom = c.lateFrom := rfl
@[simp] theorem Core.onCtx_edge (c : Core) (f : Ctx → Ctx) : (c.onCtx f).edge = c.edge := rfl
@[simp] theorem Core.onCtx_last (c : Core) (f : Ctx → Ctx) : (c.onCtx f).last = c.last := rfl
@[simp] theorem Core.onCtx_sampled (c : Core) (f : Ctx → Ctx) : (c.onCtx f).sampled = c.sampled := rfl
@[simp] theorem Core.onCtx_trap (c : Core) (f : Ctx → Ctx) : (c.onCtx f).trap = c.trap := rfl
@[simp] theorem Core.onCtx_lateFault (c : Core) (f : Ctx → Ctx) : (c.onCtx f).lateFault = c.lateFault := rfl
@[simp] theorem Core.onCtx_weights (c : Core) (f : Ctx → Ctx) : (c.onCtx f).weights = c.weights := rfl
@[simp] theorem Core.onCtx_weight (c : Core) (f : Ctx → Ctx) : (c.onCtx f).weight = c.weight := rfl
@[simp] theorem Core.onCtx_allowA1 (c : Core) (f : Ctx → Ctx) : (c.onCtx f).allowA1 = c.allowA1 := rfl
@[simp] theorem Core.onCtx_allowAW (c : Core) (f : Ctx → Ctx) : (c.onCtx f).allowAW = c.allowAW := rfl
@[simp] theorem Core.onCtx_allowTrap (c : Core) (f : Ctx → Ctx) : (c.onCtx f).allowTrap = c.allowTrap := rfl
@[simp] theorem Core.onCtx_energy (c : Core) (f : Ctx → Ctx) : (c.onCtx f).energy = c.energy := rfl
@[simp] theorem Core.onCtx_seen (c : Core) (f : Ctx → Ctx) : (c.onCtx f).seen = c.seen := rfl
@[simp] theorem Core.onCtx_energyOf (c : Core) (f : Ctx → Ctx) : (c.onCtx f).energyOf = c.energyOf := rfl
@[simp] theorem Core.onCtx_refillDue (c : Core) (f : Ctx → Ctx) : (c.onCtx f).refillDue = c.refillDue := rfl
@[simp] theorem Core.onCtx_staticDue (c : Core) (f : Ctx → Ctx) : (c.onCtx f).staticDue = c.staticDue := rfl
@[simp] theorem Core.onCtx_pspan (c : Core) (f : Ctx → Ctx) : (c.onCtx f).pspan = c.pspan := rfl
@[simp] theorem Core.onCtx_vquota (c : Core) (f : Ctx → Ctx) : (c.onCtx f).vquota = c.vquota := rfl
@[simp] theorem Core.onCtx_stop (c : Core) (f : Ctx → Ctx) : (c.onCtx f).stop = c.stop := rfl
@[simp] theorem Core.onCtx_stopAt (c : Core) (f : Ctx → Ctx) : (c.onCtx f).stopAt = c.stopAt := rfl
@[simp] theorem Core.onCtx_stopNow (c : Core) (f : Ctx → Ctx) : (c.onCtx f).stopNow = c.stopNow := rfl
@[simp] theorem Core.onCtx_defer (c : Core) (f : Ctx → Ctx) : (c.onCtx f).defer = c.defer := rfl
@[simp] theorem Core.onCtx_leave (c : Core) (f : Ctx → Ctx) : (c.onCtx f).leave = c.leave := rfl
@[simp] theorem Core.onCtx_recCache (c : Core) (f : Ctx → Ctx) : (c.onCtx f).recCache = c.recCache := rfl
@[simp] theorem Core.onCtx_fifo (c : Core) (f : Ctx → Ctx) : (c.onCtx f).fifo = c.fifo := rfl
@[simp] theorem Core.onCtx_equeues (c : Core) (f : Ctx → Ctx) : (c.onCtx f).equeues = c.equeues := rfl
@[simp] theorem Core.onCtx_hsteps (c : Core) (f : Ctx → Ctx) : (c.onCtx f).hsteps = c.hsteps := rfl
@[simp] theorem Core.onCtx_taccs (c : Core) (f : Ctx → Ctx) : (c.onCtx f).taccs = c.taccs := rfl
@[simp] theorem Core.onCtx_views (c : Core) (f : Ctx → Ctx) : (c.onCtx f).views = c.views := rfl
@[simp] theorem Core.onCtx_viewBase (c : Core) (f : Ctx → Ctx) : (c.onCtx f).viewBase = c.viewBase := rfl
@[simp] theorem Core.onCtx_fenceRel (c : Core) (f : Ctx → Ctx) : (c.onCtx f).fenceRel = c.fenceRel := rfl
@[simp] theorem Core.onCtx_readRel (c : Core) (f : Ctx → Ctx) : (c.onCtx f).readRel = c.readRel := rfl
@[simp] theorem Core.onCtx_commit (c : Core) (f : Ctx → Ctx) : (c.onCtx f).commit = c.commit := rfl
@[simp] theorem Core.onCtx_commitPc (c : Core) (f : Ctx → Ctx) : (c.onCtx f).commitPc = c.commitPc := rfl
@[simp] theorem Core.onCtx_commitSlot (c : Core) (f : Ctx → Ctx) : (c.onCtx f).commitSlot = c.commitSlot := rfl
@[simp] theorem Core.onCtx_streamIssue (c : Core) (f : Ctx → Ctx) : (c.onCtx f).streamIssue = c.streamIssue := rfl
@[simp] theorem Core.onCtx_time (c : Core) (f : Ctx → Ctx) : (c.onCtx f).time = c.time := rfl
@[simp] theorem Core.onCtx_lastIssue (c : Core) (f : Ctx → Ctx) : (c.onCtx f).lastIssue = c.lastIssue := rfl
@[simp] theorem Core.onCtx_lastBundle (c : Core) (f : Ctx → Ctx) : (c.onCtx f).lastBundle = c.lastBundle := rfl
@[simp] theorem Core.onCtx_dbg (c : Core) (f : Ctx → Ctx) : (c.onCtx f).dbg = c.dbg := rfl
@[simp] theorem Core.onCtx_beats (c : Core) (f : Ctx → Ctx) : (c.onCtx f).beats = c.beats := rfl

/-! ### `Ctx.push` adds a result in flight -/

@[simp] theorem Ctx.push_sregs (x : Ctx) (slot lat : Nat) (fl : FlagSet) (wr : Wr) : (x.push slot lat fl wr).sregs = x.sregs := rfl
@[simp] theorem Ctx.push_pregs (x : Ctx) (slot lat : Nat) (fl : FlagSet) (wr : Wr) : (x.push slot lat fl wr).pregs = x.pregs := rfl
@[simp] theorem Ctx.push_acc (x : Ctx) (slot lat : Nat) (fl : FlagSet) (wr : Wr) : (x.push slot lat fl wr).acc = x.acc := rfl
@[simp] theorem Ctx.push_hregs (x : Ctx) (slot lat : Nat) (fl : FlagSet) (wr : Wr) : (x.push slot lat fl wr).hregs = x.hregs := rfl
@[simp] theorem Ctx.push_loops (x : Ctx) (slot lat : Nat) (fl : FlagSet) (wr : Wr) : (x.push slot lat fl wr).loops = x.loops := rfl
@[simp] theorem Ctx.push_pc (x : Ctx) (slot lat : Nat) (fl : FlagSet) (wr : Wr) : (x.push slot lat fl wr).pc = x.pc := rfl
@[simp] theorem Ctx.push_delayTarget (x : Ctx) (slot lat : Nat) (fl : FlagSet) (wr : Wr) : (x.push slot lat fl wr).delayTarget = x.delayTarget := rfl
@[simp] theorem Ctx.push_redirect (x : Ctx) (slot lat : Nat) (fl : FlagSet) (wr : Wr) : (x.push slot lat fl wr).redirect = x.redirect := rfl
@[simp] theorem Ctx.push_spanCount (x : Ctx) (slot lat : Nat) (fl : FlagSet) (wr : Wr) : (x.push slot lat fl wr).spanCount = x.spanCount := rfl
@[simp] theorem Ctx.push_cycle (x : Ctx) (slot lat : Nat) (fl : FlagSet) (wr : Wr) : (x.push slot lat fl wr).cycle = x.cycle := rfl
@[simp] theorem Ctx.push_vbase (x : Ctx) (slot lat : Nat) (fl : FlagSet) (wr : Wr) : (x.push slot lat fl wr).vbase = x.vbase := rfl
@[simp] theorem Ctx.push_rrb (x : Ctx) (slot lat : Nat) (fl : FlagSet) (wr : Wr) : (x.push slot lat fl wr).rrb = x.rrb := rfl
@[simp] theorem Ctx.push_chk (x : Ctx) (slot lat : Nat) (fl : FlagSet) (wr : Wr) : (x.push slot lat fl wr).chk = x.chk := rfl
@[simp] theorem Ctx.push_autoc (x : Ctx) (slot lat : Nat) (fl : FlagSet) (wr : Wr) : (x.push slot lat fl wr).autoc = x.autoc := rfl
@[simp] theorem Ctx.push_ftz (x : Ctx) (slot lat : Nat) (fl : FlagSet) (wr : Wr) : (x.push slot lat fl wr).ftz = x.ftz := rfl
@[simp] theorem Ctx.push_fmt (x : Ctx) (slot lat : Nat) (fl : FlagSet) (wr : Wr) : (x.push slot lat fl wr).fmt = x.fmt := rfl
@[simp] theorem Ctx.push_flags (x : Ctx) (slot lat : Nat) (fl : FlagSet) (wr : Wr) : (x.push slot lat fl wr).flags = x.flags := rfl
@[simp] theorem Ctx.push_ferec (x : Ctx) (slot lat : Nat) (fl : FlagSet) (wr : Wr) : (x.push slot lat fl wr).ferec = x.ferec := rfl
@[simp] theorem Ctx.push_dstatNan (x : Ctx) (slot lat : Nat) (fl : FlagSet) (wr : Wr) : (x.push slot lat fl wr).dstatNan = x.dstatNan := rfl
@[simp] theorem Ctx.push_dstatInf (x : Ctx) (slot lat : Nat) (fl : FlagSet) (wr : Wr) : (x.push slot lat fl wr).dstatInf = x.dstatInf := rfl
@[simp] theorem Ctx.push_tableA (x : Ctx) (slot lat : Nat) (fl : FlagSet) (wr : Wr) : (x.push slot lat fl wr).tableA = x.tableA := rfl
@[simp] theorem Ctx.push_tableB (x : Ctx) (slot lat : Nat) (fl : FlagSet) (wr : Wr) : (x.push slot lat fl wr).tableB = x.tableB := rfl
@[simp] theorem Ctx.push_bandA (x : Ctx) (slot lat : Nat) (fl : FlagSet) (wr : Wr) : (x.push slot lat fl wr).bandA = x.bandA := rfl
@[simp] theorem Ctx.push_bandB (x : Ctx) (slot lat : Nat) (fl : FlagSet) (wr : Wr) : (x.push slot lat fl wr).bandB = x.bandB := rfl
@[simp] theorem Ctx.push_active (x : Ctx) (slot lat : Nat) (fl : FlagSet) (wr : Wr) : (x.push slot lat fl wr).active = x.active := rfl
@[simp] theorem Ctx.push_shadow (x : Ctx) (slot lat : Nat) (fl : FlagSet) (wr : Wr) : (x.push slot lat fl wr).shadow = x.shadow := rfl
@[simp] theorem Ctx.push_ar (x : Ctx) (slot lat : Nat) (fl : FlagSet) (wr : Wr) : (x.push slot lat fl wr).ar = x.ar := rfl
@[simp] theorem Ctx.push_matrix (x : Ctx) (slot lat : Nat) (fl : FlagSet) (wr : Wr) : (x.push slot lat fl wr).matrix = x.matrix := rfl
@[simp] theorem Ctx.push_window (x : Ctx) (slot lat : Nat) (fl : FlagSet) (wr : Wr) : (x.push slot lat fl wr).window = x.window := rfl
@[simp] theorem Ctx.push_trapHandler (x : Ctx) (slot lat : Nat) (fl : FlagSet) (wr : Wr) : (x.push slot lat fl wr).trapHandler = x.trapHandler := rfl
@[simp] theorem Ctx.push_trapActive (x : Ctx) (slot lat : Nat) (fl : FlagSet) (wr : Wr) : (x.push slot lat fl wr).trapActive = x.trapActive := rfl
@[simp] theorem Ctx.push_trapEn (x : Ctx) (slot lat : Nat) (fl : FlagSet) (wr : Wr) : (x.push slot lat fl wr).trapEn = x.trapEn := rfl
@[simp] theorem Ctx.push_results (x : Ctx) (slot lat : Nat) (fl : FlagSet) (wr : Wr) :
    (x.push slot lat fl wr).results = x.results ++ [⟨wr, slot, x.order, lat, fl, x.pc, x.cycle⟩] := rfl
@[simp] theorem Ctx.push_landings (x : Ctx) (slot lat : Nat) (fl : FlagSet) (wr : Wr) : (x.push slot lat fl wr).landings = x.landings := rfl
@[simp] theorem Ctx.push_queues (x : Ctx) (slot lat : Nat) (fl : FlagSet) (wr : Wr) : (x.push slot lat fl wr).queues = x.queues := rfl
@[simp] theorem Ctx.push_order (x : Ctx) (slot lat : Nat) (fl : FlagSet) (wr : Wr) : (x.push slot lat fl wr).order = x.order + 1 := rfl
@[simp] theorem Ctx.push_started (x : Ctx) (slot lat : Nat) (fl : FlagSet) (wr : Wr) : (x.push slot lat fl wr).started = x.started := rfl
@[simp] theorem Ctx.push_driftClocks (x : Ctx) (slot lat : Nat) (fl : FlagSet) (wr : Wr) : (x.push slot lat fl wr).driftClocks = x.driftClocks := rfl
@[simp] theorem Ctx.push_prevDrift (x : Ctx) (slot lat : Nat) (fl : FlagSet) (wr : Wr) : (x.push slot lat fl wr).prevDrift = x.prevDrift := rfl
@[simp] theorem Ctx.push_armed (x : Ctx) (slot lat : Nat) (fl : FlagSet) (wr : Wr) : (x.push slot lat fl wr).armed = x.armed := rfl
@[simp] theorem Ctx.push_badS (x : Ctx) (slot lat : Nat) (fl : FlagSet) (wr : Wr) : (x.push slot lat fl wr).badS = x.badS := rfl
@[simp] theorem Ctx.push_badRow (x : Ctx) (slot lat : Nat) (fl : FlagSet) (wr : Wr) : (x.push slot lat fl wr).badRow = x.badRow := rfl

/-! ### `Ctx.pushLanding` adds an entry to the landing-slot table -/

@[simp] theorem Ctx.pushLanding_sregs (x : Ctx) (slot : Nat) (arv : BitVec 12) (dest : LDest) (kind : LKind) :
    (x.pushLanding slot arv dest kind).sregs = x.sregs := rfl
@[simp] theorem Ctx.pushLanding_pregs (x : Ctx) (slot : Nat) (arv : BitVec 12) (dest : LDest) (kind : LKind) :
    (x.pushLanding slot arv dest kind).pregs = x.pregs := rfl
@[simp] theorem Ctx.pushLanding_acc (x : Ctx) (slot : Nat) (arv : BitVec 12) (dest : LDest) (kind : LKind) :
    (x.pushLanding slot arv dest kind).acc = x.acc := rfl
@[simp] theorem Ctx.pushLanding_hregs (x : Ctx) (slot : Nat) (arv : BitVec 12) (dest : LDest) (kind : LKind) :
    (x.pushLanding slot arv dest kind).hregs = x.hregs := rfl
@[simp] theorem Ctx.pushLanding_loops (x : Ctx) (slot : Nat) (arv : BitVec 12) (dest : LDest) (kind : LKind) :
    (x.pushLanding slot arv dest kind).loops = x.loops := rfl
@[simp] theorem Ctx.pushLanding_pc (x : Ctx) (slot : Nat) (arv : BitVec 12) (dest : LDest) (kind : LKind) :
    (x.pushLanding slot arv dest kind).pc = x.pc := rfl
@[simp] theorem Ctx.pushLanding_delayTarget (x : Ctx) (slot : Nat) (arv : BitVec 12) (dest : LDest) (kind : LKind) :
    (x.pushLanding slot arv dest kind).delayTarget = x.delayTarget := rfl
@[simp] theorem Ctx.pushLanding_redirect (x : Ctx) (slot : Nat) (arv : BitVec 12) (dest : LDest) (kind : LKind) :
    (x.pushLanding slot arv dest kind).redirect = x.redirect := rfl
@[simp] theorem Ctx.pushLanding_spanCount (x : Ctx) (slot : Nat) (arv : BitVec 12) (dest : LDest) (kind : LKind) :
    (x.pushLanding slot arv dest kind).spanCount = x.spanCount := rfl
@[simp] theorem Ctx.pushLanding_cycle (x : Ctx) (slot : Nat) (arv : BitVec 12) (dest : LDest) (kind : LKind) :
    (x.pushLanding slot arv dest kind).cycle = x.cycle := rfl
@[simp] theorem Ctx.pushLanding_vbase (x : Ctx) (slot : Nat) (arv : BitVec 12) (dest : LDest) (kind : LKind) :
    (x.pushLanding slot arv dest kind).vbase = x.vbase := rfl
@[simp] theorem Ctx.pushLanding_rrb (x : Ctx) (slot : Nat) (arv : BitVec 12) (dest : LDest) (kind : LKind) :
    (x.pushLanding slot arv dest kind).rrb = x.rrb := rfl
@[simp] theorem Ctx.pushLanding_chk (x : Ctx) (slot : Nat) (arv : BitVec 12) (dest : LDest) (kind : LKind) :
    (x.pushLanding slot arv dest kind).chk = x.chk := rfl
@[simp] theorem Ctx.pushLanding_autoc (x : Ctx) (slot : Nat) (arv : BitVec 12) (dest : LDest) (kind : LKind) :
    (x.pushLanding slot arv dest kind).autoc = x.autoc := rfl
@[simp] theorem Ctx.pushLanding_ftz (x : Ctx) (slot : Nat) (arv : BitVec 12) (dest : LDest) (kind : LKind) :
    (x.pushLanding slot arv dest kind).ftz = x.ftz := rfl
@[simp] theorem Ctx.pushLanding_fmt (x : Ctx) (slot : Nat) (arv : BitVec 12) (dest : LDest) (kind : LKind) :
    (x.pushLanding slot arv dest kind).fmt = x.fmt := rfl
@[simp] theorem Ctx.pushLanding_flags (x : Ctx) (slot : Nat) (arv : BitVec 12) (dest : LDest) (kind : LKind) :
    (x.pushLanding slot arv dest kind).flags = x.flags := rfl
@[simp] theorem Ctx.pushLanding_ferec (x : Ctx) (slot : Nat) (arv : BitVec 12) (dest : LDest) (kind : LKind) :
    (x.pushLanding slot arv dest kind).ferec = x.ferec := rfl
@[simp] theorem Ctx.pushLanding_dstatNan (x : Ctx) (slot : Nat) (arv : BitVec 12) (dest : LDest) (kind : LKind) :
    (x.pushLanding slot arv dest kind).dstatNan = x.dstatNan := rfl
@[simp] theorem Ctx.pushLanding_dstatInf (x : Ctx) (slot : Nat) (arv : BitVec 12) (dest : LDest) (kind : LKind) :
    (x.pushLanding slot arv dest kind).dstatInf = x.dstatInf := rfl
@[simp] theorem Ctx.pushLanding_tableA (x : Ctx) (slot : Nat) (arv : BitVec 12) (dest : LDest) (kind : LKind) :
    (x.pushLanding slot arv dest kind).tableA = x.tableA := rfl
@[simp] theorem Ctx.pushLanding_tableB (x : Ctx) (slot : Nat) (arv : BitVec 12) (dest : LDest) (kind : LKind) :
    (x.pushLanding slot arv dest kind).tableB = x.tableB := rfl
@[simp] theorem Ctx.pushLanding_bandA (x : Ctx) (slot : Nat) (arv : BitVec 12) (dest : LDest) (kind : LKind) :
    (x.pushLanding slot arv dest kind).bandA = x.bandA := rfl
@[simp] theorem Ctx.pushLanding_bandB (x : Ctx) (slot : Nat) (arv : BitVec 12) (dest : LDest) (kind : LKind) :
    (x.pushLanding slot arv dest kind).bandB = x.bandB := rfl
@[simp] theorem Ctx.pushLanding_active (x : Ctx) (slot : Nat) (arv : BitVec 12) (dest : LDest) (kind : LKind) :
    (x.pushLanding slot arv dest kind).active = x.active := rfl
@[simp] theorem Ctx.pushLanding_shadow (x : Ctx) (slot : Nat) (arv : BitVec 12) (dest : LDest) (kind : LKind) :
    (x.pushLanding slot arv dest kind).shadow = x.shadow := rfl
@[simp] theorem Ctx.pushLanding_ar (x : Ctx) (slot : Nat) (arv : BitVec 12) (dest : LDest) (kind : LKind) :
    (x.pushLanding slot arv dest kind).ar = x.ar := rfl
@[simp] theorem Ctx.pushLanding_matrix (x : Ctx) (slot : Nat) (arv : BitVec 12) (dest : LDest) (kind : LKind) :
    (x.pushLanding slot arv dest kind).matrix = x.matrix := rfl
@[simp] theorem Ctx.pushLanding_window (x : Ctx) (slot : Nat) (arv : BitVec 12) (dest : LDest) (kind : LKind) :
    (x.pushLanding slot arv dest kind).window = x.window := rfl
@[simp] theorem Ctx.pushLanding_trapHandler (x : Ctx) (slot : Nat) (arv : BitVec 12) (dest : LDest) (kind : LKind) :
    (x.pushLanding slot arv dest kind).trapHandler = x.trapHandler := rfl
@[simp] theorem Ctx.pushLanding_trapActive (x : Ctx) (slot : Nat) (arv : BitVec 12) (dest : LDest) (kind : LKind) :
    (x.pushLanding slot arv dest kind).trapActive = x.trapActive := rfl
@[simp] theorem Ctx.pushLanding_trapEn (x : Ctx) (slot : Nat) (arv : BitVec 12) (dest : LDest) (kind : LKind) :
    (x.pushLanding slot arv dest kind).trapEn = x.trapEn := rfl
@[simp] theorem Ctx.pushLanding_results (x : Ctx) (slot : Nat) (arv : BitVec 12) (dest : LDest) (kind : LKind) :
    (x.pushLanding slot arv dest kind).results = x.results := rfl
@[simp] theorem Ctx.pushLanding_landings (x : Ctx) (slot : Nat) (arv : BitVec 12) (dest : LDest) (kind : LKind) :
    (x.pushLanding slot arv dest kind).landings =
      x.landings ++ [⟨x.order, slot, x.order, arv.toNat, dest, kind, none, none, x.pc, x.cycle⟩] := rfl
@[simp] theorem Ctx.pushLanding_queues (x : Ctx) (slot : Nat) (arv : BitVec 12) (dest : LDest) (kind : LKind) :
    (x.pushLanding slot arv dest kind).queues = x.queues := rfl
@[simp] theorem Ctx.pushLanding_order (x : Ctx) (slot : Nat) (arv : BitVec 12) (dest : LDest) (kind : LKind) :
    (x.pushLanding slot arv dest kind).order = x.order + 1 := rfl
@[simp] theorem Ctx.pushLanding_started (x : Ctx) (slot : Nat) (arv : BitVec 12) (dest : LDest) (kind : LKind) :
    (x.pushLanding slot arv dest kind).started = x.started := rfl
@[simp] theorem Ctx.pushLanding_driftClocks (x : Ctx) (slot : Nat) (arv : BitVec 12) (dest : LDest) (kind : LKind) :
    (x.pushLanding slot arv dest kind).driftClocks = x.driftClocks := rfl
@[simp] theorem Ctx.pushLanding_prevDrift (x : Ctx) (slot : Nat) (arv : BitVec 12) (dest : LDest) (kind : LKind) :
    (x.pushLanding slot arv dest kind).prevDrift = x.prevDrift := rfl
@[simp] theorem Ctx.pushLanding_armed (x : Ctx) (slot : Nat) (arv : BitVec 12) (dest : LDest) (kind : LKind) :
    (x.pushLanding slot arv dest kind).armed = x.armed := rfl
@[simp] theorem Ctx.pushLanding_badS (x : Ctx) (slot : Nat) (arv : BitVec 12) (dest : LDest) (kind : LKind) :
    (x.pushLanding slot arv dest kind).badS = x.badS := rfl
@[simp] theorem Ctx.pushLanding_badRow (x : Ctx) (slot : Nat) (arv : BitVec 12) (dest : LDest) (kind : LKind) :
    (x.pushLanding slot arv dest kind).badRow = x.badRow := rfl

/-! ### `Core.enter` adds an entry to the class FIFOs -/

@[simp] theorem Core.enter_id (c : Core) (op : EOp) (cs : BitVec 16) (cls : BitVec 4) (a r : Bool) (va : Word) (l : Option Nat) :
    (c.enter op cs cls a r va l).id = c.id := rfl
@[simp] theorem Core.enter_ctx (c : Core) (op : EOp) (cs : BitVec 16) (cls : BitVec 4) (a r : Bool) (va : Word) (l : Option Nat) :
    (c.enter op cs cls a r va l).ctx = c.ctx := rfl
@[simp] theorem Core.enter_task (c : Core) (op : EOp) (cs : BitVec 16) (cls : BitVec 4) (a r : Bool) (va : Word) (l : Option Nat) :
    (c.enter op cs cls a r va l).task = c.task := rfl
@[simp] theorem Core.enter_phase (c : Core) (op : EOp) (cs : BitVec 16) (cls : BitVec 4) (a r : Bool) (va : Word) (l : Option Nat) :
    (c.enter op cs cls a r va l).phase = c.phase := rfl
@[simp] theorem Core.enter_after (c : Core) (op : EOp) (cs : BitVec 16) (cls : BitVec 4) (a r : Bool) (va : Word) (l : Option Nat) :
    (c.enter op cs cls a r va l).after = c.after := rfl
@[simp] theorem Core.enter_hdr (c : Core) (op : EOp) (cs : BitVec 16) (cls : BitVec 4) (a r : Bool) (va : Word) (l : Option Nat) :
    (c.enter op cs cls a r va l).hdr = c.hdr := rfl
@[simp] theorem Core.enter_issuing (c : Core) (op : EOp) (cs : BitVec 16) (cls : BitVec 4) (a r : Bool) (va : Word) (l : Option Nat) :
    (c.enter op cs cls a r va l).issuing = c.issuing := rfl
@[simp] theorem Core.enter_mid (c : Core) (op : EOp) (cs : BitVec 16) (cls : BitVec 4) (a r : Bool) (va : Word) (l : Option Nat) :
    (c.enter op cs cls a r va l).mid = c.mid := rfl
@[simp] theorem Core.enter_stall (c : Core) (op : EOp) (cs : BitVec 16) (cls : BitVec 4) (a r : Bool) (va : Word) (l : Option Nat) :
    (c.enter op cs cls a r va l).stall = c.stall := rfl
@[simp] theorem Core.enter_freeze (c : Core) (op : EOp) (cs : BitVec 16) (cls : BitVec 4) (a r : Bool) (va : Word) (l : Option Nat) :
    (c.enter op cs cls a r va l).freeze = c.freeze := rfl
@[simp] theorem Core.enter_frozen (c : Core) (op : EOp) (cs : BitVec 16) (cls : BitVec 4) (a r : Bool) (va : Word) (l : Option Nat) :
    (c.enter op cs cls a r va l).frozen = c.frozen := rfl
@[simp] theorem Core.enter_froze (c : Core) (op : EOp) (cs : BitVec 16) (cls : BitVec 4) (a r : Bool) (va : Word) (l : Option Nat) :
    (c.enter op cs cls a r va l).froze = c.froze := rfl
@[simp] theorem Core.enter_worst (c : Core) (op : EOp) (cs : BitVec 16) (cls : BitVec 4) (a r : Bool) (va : Word) (l : Option Nat) :
    (c.enter op cs cls a r va l).worst = c.worst := rfl
@[simp] theorem Core.enter_ended (c : Core) (op : EOp) (cs : BitVec 16) (cls : BitVec 4) (a r : Bool) (va : Word) (l : Option Nat) :
    (c.enter op cs cls a r va l).ended = c.ended := rfl
@[simp] theorem Core.enter_fetched (c : Core) (op : EOp) (cs : BitVec 16) (cls : BitVec 4) (a r : Bool) (va : Word) (l : Option Nat) :
    (c.enter op cs cls a r va l).fetched = c.fetched := rfl
@[simp] theorem Core.enter_judged (c : Core) (op : EOp) (cs : BitVec 16) (cls : BitVec 4) (a r : Bool) (va : Word) (l : Option Nat) :
    (c.enter op cs cls a r va l).judged = c.judged := rfl
@[simp] theorem Core.enter_lateFrom (c : Core) (op : EOp) (cs : BitVec 16) (cls : BitVec 4) (a r : Bool) (va : Word) (l : Option Nat) :
    (c.enter op cs cls a r va l).lateFrom = c.lateFrom := rfl
@[simp] theorem Core.enter_edge (c : Core) (op : EOp) (cs : BitVec 16) (cls : BitVec 4) (a r : Bool) (va : Word) (l : Option Nat) :
    (c.enter op cs cls a r va l).edge = c.edge := rfl
@[simp] theorem Core.enter_last (c : Core) (op : EOp) (cs : BitVec 16) (cls : BitVec 4) (a r : Bool) (va : Word) (l : Option Nat) :
    (c.enter op cs cls a r va l).last = c.last := rfl
@[simp] theorem Core.enter_sampled (c : Core) (op : EOp) (cs : BitVec 16) (cls : BitVec 4) (a r : Bool) (va : Word) (l : Option Nat) :
    (c.enter op cs cls a r va l).sampled = c.sampled := rfl
@[simp] theorem Core.enter_trap (c : Core) (op : EOp) (cs : BitVec 16) (cls : BitVec 4) (a r : Bool) (va : Word) (l : Option Nat) :
    (c.enter op cs cls a r va l).trap = c.trap := rfl
@[simp] theorem Core.enter_lateFault (c : Core) (op : EOp) (cs : BitVec 16) (cls : BitVec 4) (a r : Bool) (va : Word) (l : Option Nat) :
    (c.enter op cs cls a r va l).lateFault = c.lateFault := rfl
@[simp] theorem Core.enter_weights (c : Core) (op : EOp) (cs : BitVec 16) (cls : BitVec 4) (a r : Bool) (va : Word) (l : Option Nat) :
    (c.enter op cs cls a r va l).weights = c.weights := rfl
@[simp] theorem Core.enter_weight (c : Core) (op : EOp) (cs : BitVec 16) (cls : BitVec 4) (a r : Bool) (va : Word) (l : Option Nat) :
    (c.enter op cs cls a r va l).weight = c.weight := rfl
@[simp] theorem Core.enter_allowA1 (c : Core) (op : EOp) (cs : BitVec 16) (cls : BitVec 4) (a r : Bool) (va : Word) (l : Option Nat) :
    (c.enter op cs cls a r va l).allowA1 = c.allowA1 := rfl
@[simp] theorem Core.enter_allowAW (c : Core) (op : EOp) (cs : BitVec 16) (cls : BitVec 4) (a r : Bool) (va : Word) (l : Option Nat) :
    (c.enter op cs cls a r va l).allowAW = c.allowAW := rfl
@[simp] theorem Core.enter_allowTrap (c : Core) (op : EOp) (cs : BitVec 16) (cls : BitVec 4) (a r : Bool) (va : Word) (l : Option Nat) :
    (c.enter op cs cls a r va l).allowTrap = c.allowTrap := rfl
@[simp] theorem Core.enter_energy (c : Core) (op : EOp) (cs : BitVec 16) (cls : BitVec 4) (a r : Bool) (va : Word) (l : Option Nat) :
    (c.enter op cs cls a r va l).energy = c.energy := rfl
@[simp] theorem Core.enter_seen (c : Core) (op : EOp) (cs : BitVec 16) (cls : BitVec 4) (a r : Bool) (va : Word) (l : Option Nat) :
    (c.enter op cs cls a r va l).seen = c.seen := rfl
@[simp] theorem Core.enter_energyOf (c : Core) (op : EOp) (cs : BitVec 16) (cls : BitVec 4) (a r : Bool) (va : Word) (l : Option Nat) :
    (c.enter op cs cls a r va l).energyOf = c.energyOf := rfl
@[simp] theorem Core.enter_refillDue (c : Core) (op : EOp) (cs : BitVec 16) (cls : BitVec 4) (a r : Bool) (va : Word) (l : Option Nat) :
    (c.enter op cs cls a r va l).refillDue = c.refillDue := rfl
@[simp] theorem Core.enter_staticDue (c : Core) (op : EOp) (cs : BitVec 16) (cls : BitVec 4) (a r : Bool) (va : Word) (l : Option Nat) :
    (c.enter op cs cls a r va l).staticDue = c.staticDue := rfl
@[simp] theorem Core.enter_pspan (c : Core) (op : EOp) (cs : BitVec 16) (cls : BitVec 4) (a r : Bool) (va : Word) (l : Option Nat) :
    (c.enter op cs cls a r va l).pspan = c.pspan := rfl
@[simp] theorem Core.enter_vquota (c : Core) (op : EOp) (cs : BitVec 16) (cls : BitVec 4) (a r : Bool) (va : Word) (l : Option Nat) :
    (c.enter op cs cls a r va l).vquota = c.vquota := rfl
@[simp] theorem Core.enter_stop (c : Core) (op : EOp) (cs : BitVec 16) (cls : BitVec 4) (a r : Bool) (va : Word) (l : Option Nat) :
    (c.enter op cs cls a r va l).stop = c.stop := rfl
@[simp] theorem Core.enter_stopAt (c : Core) (op : EOp) (cs : BitVec 16) (cls : BitVec 4) (a r : Bool) (va : Word) (l : Option Nat) :
    (c.enter op cs cls a r va l).stopAt = c.stopAt := rfl
@[simp] theorem Core.enter_stopNow (c : Core) (op : EOp) (cs : BitVec 16) (cls : BitVec 4) (a r : Bool) (va : Word) (l : Option Nat) :
    (c.enter op cs cls a r va l).stopNow = c.stopNow := rfl
@[simp] theorem Core.enter_defer (c : Core) (op : EOp) (cs : BitVec 16) (cls : BitVec 4) (a r : Bool) (va : Word) (l : Option Nat) :
    (c.enter op cs cls a r va l).defer = c.defer := rfl
@[simp] theorem Core.enter_leave (c : Core) (op : EOp) (cs : BitVec 16) (cls : BitVec 4) (a r : Bool) (va : Word) (l : Option Nat) :
    (c.enter op cs cls a r va l).leave = c.leave := rfl
@[simp] theorem Core.enter_recCache (c : Core) (op : EOp) (cs : BitVec 16) (cls : BitVec 4) (a r : Bool) (va : Word) (l : Option Nat) :
    (c.enter op cs cls a r va l).recCache = c.recCache := rfl
@[simp] theorem Core.enter_fifo (c : Core) (op : EOp) (cs : BitVec 16) (cls : BitVec 4) (a r : Bool) (va : Word) (l : Option Nat) :
    (c.enter op cs cls a r va l).fifo = c.fifo ++
      [⟨nextEntry c.fifo, cs, cls, op, va, c.scope, a, r, l, c.owner, granules op, [], true, false, c.ctx.pc, c.time⟩] := rfl
@[simp] theorem Core.enter_equeues (c : Core) (op : EOp) (cs : BitVec 16) (cls : BitVec 4) (a r : Bool) (va : Word) (l : Option Nat) :
    (c.enter op cs cls a r va l).equeues = c.equeues := rfl
@[simp] theorem Core.enter_hsteps (c : Core) (op : EOp) (cs : BitVec 16) (cls : BitVec 4) (a r : Bool) (va : Word) (l : Option Nat) :
    (c.enter op cs cls a r va l).hsteps = c.hsteps := rfl
@[simp] theorem Core.enter_taccs (c : Core) (op : EOp) (cs : BitVec 16) (cls : BitVec 4) (a r : Bool) (va : Word) (l : Option Nat) :
    (c.enter op cs cls a r va l).taccs = c.taccs := rfl
@[simp] theorem Core.enter_views (c : Core) (op : EOp) (cs : BitVec 16) (cls : BitVec 4) (a r : Bool) (va : Word) (l : Option Nat) :
    (c.enter op cs cls a r va l).views = c.views := rfl
@[simp] theorem Core.enter_viewBase (c : Core) (op : EOp) (cs : BitVec 16) (cls : BitVec 4) (a r : Bool) (va : Word) (l : Option Nat) :
    (c.enter op cs cls a r va l).viewBase = c.viewBase := rfl
@[simp] theorem Core.enter_fenceRel (c : Core) (op : EOp) (cs : BitVec 16) (cls : BitVec 4) (a r : Bool) (va : Word) (l : Option Nat) :
    (c.enter op cs cls a r va l).fenceRel = c.fenceRel := rfl
@[simp] theorem Core.enter_readRel (c : Core) (op : EOp) (cs : BitVec 16) (cls : BitVec 4) (a r : Bool) (va : Word) (l : Option Nat) :
    (c.enter op cs cls a r va l).readRel = c.readRel := rfl
@[simp] theorem Core.enter_commit (c : Core) (op : EOp) (cs : BitVec 16) (cls : BitVec 4) (a r : Bool) (va : Word) (l : Option Nat) :
    (c.enter op cs cls a r va l).commit = c.commit := rfl
@[simp] theorem Core.enter_commitPc (c : Core) (op : EOp) (cs : BitVec 16) (cls : BitVec 4) (a r : Bool) (va : Word) (l : Option Nat) :
    (c.enter op cs cls a r va l).commitPc = c.commitPc := rfl
@[simp] theorem Core.enter_commitSlot (c : Core) (op : EOp) (cs : BitVec 16) (cls : BitVec 4) (a r : Bool) (va : Word) (l : Option Nat) :
    (c.enter op cs cls a r va l).commitSlot = c.commitSlot := rfl
@[simp] theorem Core.enter_streamIssue (c : Core) (op : EOp) (cs : BitVec 16) (cls : BitVec 4) (a r : Bool) (va : Word) (l : Option Nat) :
    (c.enter op cs cls a r va l).streamIssue = c.streamIssue := rfl
@[simp] theorem Core.enter_time (c : Core) (op : EOp) (cs : BitVec 16) (cls : BitVec 4) (a r : Bool) (va : Word) (l : Option Nat) :
    (c.enter op cs cls a r va l).time = c.time := rfl
@[simp] theorem Core.enter_lastIssue (c : Core) (op : EOp) (cs : BitVec 16) (cls : BitVec 4) (a r : Bool) (va : Word) (l : Option Nat) :
    (c.enter op cs cls a r va l).lastIssue = c.lastIssue := rfl
@[simp] theorem Core.enter_lastBundle (c : Core) (op : EOp) (cs : BitVec 16) (cls : BitVec 4) (a r : Bool) (va : Word) (l : Option Nat) :
    (c.enter op cs cls a r va l).lastBundle = c.lastBundle := rfl
@[simp] theorem Core.enter_dbg (c : Core) (op : EOp) (cs : BitVec 16) (cls : BitVec 4) (a r : Bool) (va : Word) (l : Option Nat) :
    (c.enter op cs cls a r va l).dbg = c.dbg := rfl
@[simp] theorem Core.enter_beats (c : Core) (op : EOp) (cs : BitVec 16) (cls : BitVec 4) (a r : Bool) (va : Word) (l : Option Nat) :
    (c.enter op cs cls a r va l).beats = c.beats := rfl

/-! ### Register writes -/

@[simp] theorem Ctx.setS_pregs (x : Ctx) (n : BitVec 6) (v : Word) : (x.setS n v).pregs = x.pregs := by
  unfold Ctx.setS; split <;> rfl
@[simp] theorem Ctx.setS_acc (x : Ctx) (n : BitVec 6) (v : Word) : (x.setS n v).acc = x.acc := by
  unfold Ctx.setS; split <;> rfl
@[simp] theorem Ctx.setS_hregs (x : Ctx) (n : BitVec 6) (v : Word) : (x.setS n v).hregs = x.hregs := by
  unfold Ctx.setS; split <;> rfl
@[simp] theorem Ctx.setS_loops (x : Ctx) (n : BitVec 6) (v : Word) : (x.setS n v).loops = x.loops := by
  unfold Ctx.setS; split <;> rfl
@[simp] theorem Ctx.setS_pc (x : Ctx) (n : BitVec 6) (v : Word) : (x.setS n v).pc = x.pc := by
  unfold Ctx.setS; split <;> rfl
@[simp] theorem Ctx.setS_delayTarget (x : Ctx) (n : BitVec 6) (v : Word) : (x.setS n v).delayTarget = x.delayTarget := by
  unfold Ctx.setS; split <;> rfl
@[simp] theorem Ctx.setS_redirect (x : Ctx) (n : BitVec 6) (v : Word) : (x.setS n v).redirect = x.redirect := by
  unfold Ctx.setS; split <;> rfl
@[simp] theorem Ctx.setS_spanCount (x : Ctx) (n : BitVec 6) (v : Word) : (x.setS n v).spanCount = x.spanCount := by
  unfold Ctx.setS; split <;> rfl
@[simp] theorem Ctx.setS_cycle (x : Ctx) (n : BitVec 6) (v : Word) : (x.setS n v).cycle = x.cycle := by
  unfold Ctx.setS; split <;> rfl
@[simp] theorem Ctx.setS_vbase (x : Ctx) (n : BitVec 6) (v : Word) : (x.setS n v).vbase = x.vbase := by
  unfold Ctx.setS; split <;> rfl
@[simp] theorem Ctx.setS_rrb (x : Ctx) (n : BitVec 6) (v : Word) : (x.setS n v).rrb = x.rrb := by
  unfold Ctx.setS; split <;> rfl
@[simp] theorem Ctx.setS_chk (x : Ctx) (n : BitVec 6) (v : Word) : (x.setS n v).chk = x.chk := by
  unfold Ctx.setS; split <;> rfl
@[simp] theorem Ctx.setS_autoc (x : Ctx) (n : BitVec 6) (v : Word) : (x.setS n v).autoc = x.autoc := by
  unfold Ctx.setS; split <;> rfl
@[simp] theorem Ctx.setS_ftz (x : Ctx) (n : BitVec 6) (v : Word) : (x.setS n v).ftz = x.ftz := by
  unfold Ctx.setS; split <;> rfl
@[simp] theorem Ctx.setS_fmt (x : Ctx) (n : BitVec 6) (v : Word) : (x.setS n v).fmt = x.fmt := by
  unfold Ctx.setS; split <;> rfl
@[simp] theorem Ctx.setS_flags (x : Ctx) (n : BitVec 6) (v : Word) : (x.setS n v).flags = x.flags := by
  unfold Ctx.setS; split <;> rfl
@[simp] theorem Ctx.setS_ferec (x : Ctx) (n : BitVec 6) (v : Word) : (x.setS n v).ferec = x.ferec := by
  unfold Ctx.setS; split <;> rfl
@[simp] theorem Ctx.setS_dstatNan (x : Ctx) (n : BitVec 6) (v : Word) : (x.setS n v).dstatNan = x.dstatNan := by
  unfold Ctx.setS; split <;> rfl
@[simp] theorem Ctx.setS_dstatInf (x : Ctx) (n : BitVec 6) (v : Word) : (x.setS n v).dstatInf = x.dstatInf := by
  unfold Ctx.setS; split <;> rfl
@[simp] theorem Ctx.setS_tableA (x : Ctx) (n : BitVec 6) (v : Word) : (x.setS n v).tableA = x.tableA := by
  unfold Ctx.setS; split <;> rfl
@[simp] theorem Ctx.setS_tableB (x : Ctx) (n : BitVec 6) (v : Word) : (x.setS n v).tableB = x.tableB := by
  unfold Ctx.setS; split <;> rfl
@[simp] theorem Ctx.setS_bandA (x : Ctx) (n : BitVec 6) (v : Word) : (x.setS n v).bandA = x.bandA := by
  unfold Ctx.setS; split <;> rfl
@[simp] theorem Ctx.setS_bandB (x : Ctx) (n : BitVec 6) (v : Word) : (x.setS n v).bandB = x.bandB := by
  unfold Ctx.setS; split <;> rfl
@[simp] theorem Ctx.setS_active (x : Ctx) (n : BitVec 6) (v : Word) : (x.setS n v).active = x.active := by
  unfold Ctx.setS; split <;> rfl
@[simp] theorem Ctx.setS_shadow (x : Ctx) (n : BitVec 6) (v : Word) : (x.setS n v).shadow = x.shadow := by
  unfold Ctx.setS; split <;> rfl
@[simp] theorem Ctx.setS_ar (x : Ctx) (n : BitVec 6) (v : Word) : (x.setS n v).ar = x.ar := by
  unfold Ctx.setS; split <;> rfl
@[simp] theorem Ctx.setS_matrix (x : Ctx) (n : BitVec 6) (v : Word) : (x.setS n v).matrix = x.matrix := by
  unfold Ctx.setS; split <;> rfl
@[simp] theorem Ctx.setS_window (x : Ctx) (n : BitVec 6) (v : Word) : (x.setS n v).window = x.window := by
  unfold Ctx.setS; split <;> rfl
@[simp] theorem Ctx.setS_trapHandler (x : Ctx) (n : BitVec 6) (v : Word) : (x.setS n v).trapHandler = x.trapHandler := by
  unfold Ctx.setS; split <;> rfl
@[simp] theorem Ctx.setS_trapActive (x : Ctx) (n : BitVec 6) (v : Word) : (x.setS n v).trapActive = x.trapActive := by
  unfold Ctx.setS; split <;> rfl
@[simp] theorem Ctx.setS_trapEn (x : Ctx) (n : BitVec 6) (v : Word) : (x.setS n v).trapEn = x.trapEn := by
  unfold Ctx.setS; split <;> rfl
@[simp] theorem Ctx.setS_results (x : Ctx) (n : BitVec 6) (v : Word) : (x.setS n v).results = x.results := by
  unfold Ctx.setS; split <;> rfl
@[simp] theorem Ctx.setS_landings (x : Ctx) (n : BitVec 6) (v : Word) : (x.setS n v).landings = x.landings := by
  unfold Ctx.setS; split <;> rfl
@[simp] theorem Ctx.setS_queues (x : Ctx) (n : BitVec 6) (v : Word) : (x.setS n v).queues = x.queues := by
  unfold Ctx.setS; split <;> rfl
@[simp] theorem Ctx.setS_order (x : Ctx) (n : BitVec 6) (v : Word) : (x.setS n v).order = x.order := by
  unfold Ctx.setS; split <;> rfl
@[simp] theorem Ctx.setS_started (x : Ctx) (n : BitVec 6) (v : Word) : (x.setS n v).started = x.started := by
  unfold Ctx.setS; split <;> rfl
@[simp] theorem Ctx.setS_driftClocks (x : Ctx) (n : BitVec 6) (v : Word) : (x.setS n v).driftClocks = x.driftClocks := by
  unfold Ctx.setS; split <;> rfl
@[simp] theorem Ctx.setS_prevDrift (x : Ctx) (n : BitVec 6) (v : Word) : (x.setS n v).prevDrift = x.prevDrift := by
  unfold Ctx.setS; split <;> rfl
@[simp] theorem Ctx.setS_armed (x : Ctx) (n : BitVec 6) (v : Word) : (x.setS n v).armed = x.armed := by
  unfold Ctx.setS; split <;> rfl
@[simp] theorem Ctx.setS_badRow (x : Ctx) (n : BitVec 6) (v : Word) : (x.setS n v).badRow = x.badRow := by
  unfold Ctx.setS; split <;> rfl

/-- s0 reads zero. -/
@[simp] theorem Ctx.getS_zero (x : Ctx) : x.getS 0#6 = 0#64 := rfl

/-- A written scalar reads as it was written, unless it is s0. -/
theorem Ctx.getS_setS_same (x : Ctx) (n : BitVec 6) (v : Word) (h : n ≠ 0#6) : (x.setS n v).getS n = v := by
  simp only [Ctx.getS, Ctx.setS, if_neg h, Vector.getElem_set_self]

/-- A write leaves every other scalar. -/
theorem Ctx.getS_setS_other (x : Ctx) (n m : BitVec 6) (v : Word) (h : n ≠ m) : (x.setS n v).getS m = x.getS m := by
  have hn : n.toNat ≠ m.toNat := fun e => h (BitVec.eq_of_toNat_eq e)
  by_cases h0 : n = 0#6
  · rw [Ctx.setS, if_pos h0]
  · simp only [Ctx.getS, Ctx.setS, if_neg h0, Vector.getElem_set_ne _ _ hn]

/-- p0 reads all ones. -/
@[simp] theorem Ctx.getP_zero (x : Ctx) : x.getP 0#5 = BitVec.allOnes 1024 := rfl

@[simp] theorem Ctx.setPhysP_sregs (x : Ctx) (n : BitVec 5) (m v : Pred) : (x.setPhysP n m v).sregs = x.sregs := by
  unfold Ctx.setPhysP; split <;> rfl
@[simp] theorem Ctx.setPhysP_acc (x : Ctx) (n : BitVec 5) (m v : Pred) : (x.setPhysP n m v).acc = x.acc := by
  unfold Ctx.setPhysP; split <;> rfl
@[simp] theorem Ctx.setPhysP_hregs (x : Ctx) (n : BitVec 5) (m v : Pred) : (x.setPhysP n m v).hregs = x.hregs := by
  unfold Ctx.setPhysP; split <;> rfl
@[simp] theorem Ctx.setPhysP_loops (x : Ctx) (n : BitVec 5) (m v : Pred) : (x.setPhysP n m v).loops = x.loops := by
  unfold Ctx.setPhysP; split <;> rfl
@[simp] theorem Ctx.setPhysP_pc (x : Ctx) (n : BitVec 5) (m v : Pred) : (x.setPhysP n m v).pc = x.pc := by
  unfold Ctx.setPhysP; split <;> rfl
@[simp] theorem Ctx.setPhysP_delayTarget (x : Ctx) (n : BitVec 5) (m v : Pred) : (x.setPhysP n m v).delayTarget = x.delayTarget := by
  unfold Ctx.setPhysP; split <;> rfl
@[simp] theorem Ctx.setPhysP_redirect (x : Ctx) (n : BitVec 5) (m v : Pred) : (x.setPhysP n m v).redirect = x.redirect := by
  unfold Ctx.setPhysP; split <;> rfl
@[simp] theorem Ctx.setPhysP_spanCount (x : Ctx) (n : BitVec 5) (m v : Pred) : (x.setPhysP n m v).spanCount = x.spanCount := by
  unfold Ctx.setPhysP; split <;> rfl
@[simp] theorem Ctx.setPhysP_cycle (x : Ctx) (n : BitVec 5) (m v : Pred) : (x.setPhysP n m v).cycle = x.cycle := by
  unfold Ctx.setPhysP; split <;> rfl
@[simp] theorem Ctx.setPhysP_vbase (x : Ctx) (n : BitVec 5) (m v : Pred) : (x.setPhysP n m v).vbase = x.vbase := by
  unfold Ctx.setPhysP; split <;> rfl
@[simp] theorem Ctx.setPhysP_rrb (x : Ctx) (n : BitVec 5) (m v : Pred) : (x.setPhysP n m v).rrb = x.rrb := by
  unfold Ctx.setPhysP; split <;> rfl
@[simp] theorem Ctx.setPhysP_chk (x : Ctx) (n : BitVec 5) (m v : Pred) : (x.setPhysP n m v).chk = x.chk := by
  unfold Ctx.setPhysP; split <;> rfl
@[simp] theorem Ctx.setPhysP_autoc (x : Ctx) (n : BitVec 5) (m v : Pred) : (x.setPhysP n m v).autoc = x.autoc := by
  unfold Ctx.setPhysP; split <;> rfl
@[simp] theorem Ctx.setPhysP_ftz (x : Ctx) (n : BitVec 5) (m v : Pred) : (x.setPhysP n m v).ftz = x.ftz := by
  unfold Ctx.setPhysP; split <;> rfl
@[simp] theorem Ctx.setPhysP_fmt (x : Ctx) (n : BitVec 5) (m v : Pred) : (x.setPhysP n m v).fmt = x.fmt := by
  unfold Ctx.setPhysP; split <;> rfl
@[simp] theorem Ctx.setPhysP_flags (x : Ctx) (n : BitVec 5) (m v : Pred) : (x.setPhysP n m v).flags = x.flags := by
  unfold Ctx.setPhysP; split <;> rfl
@[simp] theorem Ctx.setPhysP_ferec (x : Ctx) (n : BitVec 5) (m v : Pred) : (x.setPhysP n m v).ferec = x.ferec := by
  unfold Ctx.setPhysP; split <;> rfl
@[simp] theorem Ctx.setPhysP_dstatNan (x : Ctx) (n : BitVec 5) (m v : Pred) : (x.setPhysP n m v).dstatNan = x.dstatNan := by
  unfold Ctx.setPhysP; split <;> rfl
@[simp] theorem Ctx.setPhysP_dstatInf (x : Ctx) (n : BitVec 5) (m v : Pred) : (x.setPhysP n m v).dstatInf = x.dstatInf := by
  unfold Ctx.setPhysP; split <;> rfl
@[simp] theorem Ctx.setPhysP_tableA (x : Ctx) (n : BitVec 5) (m v : Pred) : (x.setPhysP n m v).tableA = x.tableA := by
  unfold Ctx.setPhysP; split <;> rfl
@[simp] theorem Ctx.setPhysP_tableB (x : Ctx) (n : BitVec 5) (m v : Pred) : (x.setPhysP n m v).tableB = x.tableB := by
  unfold Ctx.setPhysP; split <;> rfl
@[simp] theorem Ctx.setPhysP_bandA (x : Ctx) (n : BitVec 5) (m v : Pred) : (x.setPhysP n m v).bandA = x.bandA := by
  unfold Ctx.setPhysP; split <;> rfl
@[simp] theorem Ctx.setPhysP_bandB (x : Ctx) (n : BitVec 5) (m v : Pred) : (x.setPhysP n m v).bandB = x.bandB := by
  unfold Ctx.setPhysP; split <;> rfl
@[simp] theorem Ctx.setPhysP_active (x : Ctx) (n : BitVec 5) (m v : Pred) : (x.setPhysP n m v).active = x.active := by
  unfold Ctx.setPhysP; split <;> rfl
@[simp] theorem Ctx.setPhysP_shadow (x : Ctx) (n : BitVec 5) (m v : Pred) : (x.setPhysP n m v).shadow = x.shadow := by
  unfold Ctx.setPhysP; split <;> rfl
@[simp] theorem Ctx.setPhysP_ar (x : Ctx) (n : BitVec 5) (m v : Pred) : (x.setPhysP n m v).ar = x.ar := by
  unfold Ctx.setPhysP; split <;> rfl
@[simp] theorem Ctx.setPhysP_matrix (x : Ctx) (n : BitVec 5) (m v : Pred) : (x.setPhysP n m v).matrix = x.matrix := by
  unfold Ctx.setPhysP; split <;> rfl
@[simp] theorem Ctx.setPhysP_window (x : Ctx) (n : BitVec 5) (m v : Pred) : (x.setPhysP n m v).window = x.window := by
  unfold Ctx.setPhysP; split <;> rfl
@[simp] theorem Ctx.setPhysP_trapHandler (x : Ctx) (n : BitVec 5) (m v : Pred) : (x.setPhysP n m v).trapHandler = x.trapHandler := by
  unfold Ctx.setPhysP; split <;> rfl
@[simp] theorem Ctx.setPhysP_trapActive (x : Ctx) (n : BitVec 5) (m v : Pred) : (x.setPhysP n m v).trapActive = x.trapActive := by
  unfold Ctx.setPhysP; split <;> rfl
@[simp] theorem Ctx.setPhysP_trapEn (x : Ctx) (n : BitVec 5) (m v : Pred) : (x.setPhysP n m v).trapEn = x.trapEn := by
  unfold Ctx.setPhysP; split <;> rfl
@[simp] theorem Ctx.setPhysP_results (x : Ctx) (n : BitVec 5) (m v : Pred) : (x.setPhysP n m v).results = x.results := by
  unfold Ctx.setPhysP; split <;> rfl
@[simp] theorem Ctx.setPhysP_landings (x : Ctx) (n : BitVec 5) (m v : Pred) : (x.setPhysP n m v).landings = x.landings := by
  unfold Ctx.setPhysP; split <;> rfl
@[simp] theorem Ctx.setPhysP_queues (x : Ctx) (n : BitVec 5) (m v : Pred) : (x.setPhysP n m v).queues = x.queues := by
  unfold Ctx.setPhysP; split <;> rfl
@[simp] theorem Ctx.setPhysP_order (x : Ctx) (n : BitVec 5) (m v : Pred) : (x.setPhysP n m v).order = x.order := by
  unfold Ctx.setPhysP; split <;> rfl
@[simp] theorem Ctx.setPhysP_started (x : Ctx) (n : BitVec 5) (m v : Pred) : (x.setPhysP n m v).started = x.started := by
  unfold Ctx.setPhysP; split <;> rfl
@[simp] theorem Ctx.setPhysP_driftClocks (x : Ctx) (n : BitVec 5) (m v : Pred) : (x.setPhysP n m v).driftClocks = x.driftClocks := by
  unfold Ctx.setPhysP; split <;> rfl
@[simp] theorem Ctx.setPhysP_prevDrift (x : Ctx) (n : BitVec 5) (m v : Pred) : (x.setPhysP n m v).prevDrift = x.prevDrift := by
  unfold Ctx.setPhysP; split <;> rfl
@[simp] theorem Ctx.setPhysP_armed (x : Ctx) (n : BitVec 5) (m v : Pred) : (x.setPhysP n m v).armed = x.armed := by
  unfold Ctx.setPhysP; split <;> rfl
@[simp] theorem Ctx.setPhysP_badS (x : Ctx) (n : BitVec 5) (m v : Pred) : (x.setPhysP n m v).badS = x.badS := by
  unfold Ctx.setPhysP; split <;> rfl
@[simp] theorem Ctx.setPhysP_badRow (x : Ctx) (n : BitVec 5) (m v : Pred) : (x.setPhysP n m v).badRow = x.badRow := by
  unfold Ctx.setPhysP; split <;> rfl

@[simp] theorem Ctx.setRow_sregs (x : Ctx) (n : BitVec 12) (m v : Row) : (x.setRow n m v).sregs = x.sregs := rfl
@[simp] theorem Ctx.setRow_pregs (x : Ctx) (n : BitVec 12) (m v : Row) : (x.setRow n m v).pregs = x.pregs := rfl
@[simp] theorem Ctx.setRow_hregs (x : Ctx) (n : BitVec 12) (m v : Row) : (x.setRow n m v).hregs = x.hregs := rfl
@[simp] theorem Ctx.setRow_loops (x : Ctx) (n : BitVec 12) (m v : Row) : (x.setRow n m v).loops = x.loops := rfl
@[simp] theorem Ctx.setRow_pc (x : Ctx) (n : BitVec 12) (m v : Row) : (x.setRow n m v).pc = x.pc := rfl
@[simp] theorem Ctx.setRow_delayTarget (x : Ctx) (n : BitVec 12) (m v : Row) : (x.setRow n m v).delayTarget = x.delayTarget := rfl
@[simp] theorem Ctx.setRow_redirect (x : Ctx) (n : BitVec 12) (m v : Row) : (x.setRow n m v).redirect = x.redirect := rfl
@[simp] theorem Ctx.setRow_spanCount (x : Ctx) (n : BitVec 12) (m v : Row) : (x.setRow n m v).spanCount = x.spanCount := rfl
@[simp] theorem Ctx.setRow_cycle (x : Ctx) (n : BitVec 12) (m v : Row) : (x.setRow n m v).cycle = x.cycle := rfl
@[simp] theorem Ctx.setRow_vbase (x : Ctx) (n : BitVec 12) (m v : Row) : (x.setRow n m v).vbase = x.vbase := rfl
@[simp] theorem Ctx.setRow_rrb (x : Ctx) (n : BitVec 12) (m v : Row) : (x.setRow n m v).rrb = x.rrb := rfl
@[simp] theorem Ctx.setRow_chk (x : Ctx) (n : BitVec 12) (m v : Row) : (x.setRow n m v).chk = x.chk := rfl
@[simp] theorem Ctx.setRow_autoc (x : Ctx) (n : BitVec 12) (m v : Row) : (x.setRow n m v).autoc = x.autoc := rfl
@[simp] theorem Ctx.setRow_ftz (x : Ctx) (n : BitVec 12) (m v : Row) : (x.setRow n m v).ftz = x.ftz := rfl
@[simp] theorem Ctx.setRow_fmt (x : Ctx) (n : BitVec 12) (m v : Row) : (x.setRow n m v).fmt = x.fmt := rfl
@[simp] theorem Ctx.setRow_flags (x : Ctx) (n : BitVec 12) (m v : Row) : (x.setRow n m v).flags = x.flags := rfl
@[simp] theorem Ctx.setRow_ferec (x : Ctx) (n : BitVec 12) (m v : Row) : (x.setRow n m v).ferec = x.ferec := rfl
@[simp] theorem Ctx.setRow_dstatNan (x : Ctx) (n : BitVec 12) (m v : Row) : (x.setRow n m v).dstatNan = x.dstatNan := rfl
@[simp] theorem Ctx.setRow_dstatInf (x : Ctx) (n : BitVec 12) (m v : Row) : (x.setRow n m v).dstatInf = x.dstatInf := rfl
@[simp] theorem Ctx.setRow_tableA (x : Ctx) (n : BitVec 12) (m v : Row) : (x.setRow n m v).tableA = x.tableA := rfl
@[simp] theorem Ctx.setRow_tableB (x : Ctx) (n : BitVec 12) (m v : Row) : (x.setRow n m v).tableB = x.tableB := rfl
@[simp] theorem Ctx.setRow_bandA (x : Ctx) (n : BitVec 12) (m v : Row) : (x.setRow n m v).bandA = x.bandA := rfl
@[simp] theorem Ctx.setRow_bandB (x : Ctx) (n : BitVec 12) (m v : Row) : (x.setRow n m v).bandB = x.bandB := rfl
@[simp] theorem Ctx.setRow_active (x : Ctx) (n : BitVec 12) (m v : Row) : (x.setRow n m v).active = x.active := rfl
@[simp] theorem Ctx.setRow_shadow (x : Ctx) (n : BitVec 12) (m v : Row) : (x.setRow n m v).shadow = x.shadow := rfl
@[simp] theorem Ctx.setRow_ar (x : Ctx) (n : BitVec 12) (m v : Row) : (x.setRow n m v).ar = x.ar := rfl
@[simp] theorem Ctx.setRow_matrix (x : Ctx) (n : BitVec 12) (m v : Row) : (x.setRow n m v).matrix = x.matrix := rfl
@[simp] theorem Ctx.setRow_window (x : Ctx) (n : BitVec 12) (m v : Row) : (x.setRow n m v).window = x.window := rfl
@[simp] theorem Ctx.setRow_trapHandler (x : Ctx) (n : BitVec 12) (m v : Row) : (x.setRow n m v).trapHandler = x.trapHandler := rfl
@[simp] theorem Ctx.setRow_trapActive (x : Ctx) (n : BitVec 12) (m v : Row) : (x.setRow n m v).trapActive = x.trapActive := rfl
@[simp] theorem Ctx.setRow_trapEn (x : Ctx) (n : BitVec 12) (m v : Row) : (x.setRow n m v).trapEn = x.trapEn := rfl
@[simp] theorem Ctx.setRow_results (x : Ctx) (n : BitVec 12) (m v : Row) : (x.setRow n m v).results = x.results := rfl
@[simp] theorem Ctx.setRow_landings (x : Ctx) (n : BitVec 12) (m v : Row) : (x.setRow n m v).landings = x.landings := rfl
@[simp] theorem Ctx.setRow_queues (x : Ctx) (n : BitVec 12) (m v : Row) : (x.setRow n m v).queues = x.queues := rfl
@[simp] theorem Ctx.setRow_order (x : Ctx) (n : BitVec 12) (m v : Row) : (x.setRow n m v).order = x.order := rfl
@[simp] theorem Ctx.setRow_started (x : Ctx) (n : BitVec 12) (m v : Row) : (x.setRow n m v).started = x.started := rfl
@[simp] theorem Ctx.setRow_driftClocks (x : Ctx) (n : BitVec 12) (m v : Row) : (x.setRow n m v).driftClocks = x.driftClocks := rfl
@[simp] theorem Ctx.setRow_prevDrift (x : Ctx) (n : BitVec 12) (m v : Row) : (x.setRow n m v).prevDrift = x.prevDrift := rfl
@[simp] theorem Ctx.setRow_armed (x : Ctx) (n : BitVec 12) (m v : Row) : (x.setRow n m v).armed = x.armed := rfl
@[simp] theorem Ctx.setRow_badS (x : Ctx) (n : BitVec 12) (m v : Row) : (x.setRow n m v).badS = x.badS := rfl

end Sys2Proof.Machine
end

