-- ==== Sys2Proof/Laws/Ops.lean ====
section
/-! SUPPORT. What the shapes of a slot operation can answer, once for all the operations that have them. -/

namespace Sys2Proof.Machine

/-- A guarded operation goes on: with its guard false as it was, else with its effect on the core. -/
theorem guarded_cases {g : Guard} {s t : State} {f : Core → Core} (h : guarded g s f = .next t) :
    (s.core.ctx.guardBit g = false ∧ t = s) ∨ (s.core.ctx.guardBit g = true ∧ t = s.onCore f) := by
  simp only [guarded, Host.Outcome.next.injEq] at h
  cases hg : s.core.ctx.guardBit g <;> simp_all

theorem guardedState_cases {g : Guard} {s t : State} {f : State → State} (h : guardedState g s f = .next t) :
    (s.core.ctx.guardBit g = false ∧ t = s) ∨ (s.core.ctx.guardBit g = true ∧ t = f s) := by
  simp only [guardedState, Host.Outcome.next.injEq] at h
  cases hg : s.core.ctx.guardBit g <;> simp_all

/-- A checked operation goes on: with its guard false as it was; with a failed check with its trap raised; else with its effect. -/
theorem checked_cases {g : Guard} {slot : Nat} {check : Core → Option Trap} {s t : State} {f : Core → Core}
    (h : checked g slot check s f = .next t) :
    (s.core.ctx.guardBit g = false ∧ t = s)
      ∨ (s.core.ctx.guardBit g = true ∧ ∃ r, check s.core = some r ∧ t = s.raise r slot)
      ∨ (s.core.ctx.guardBit g = true ∧ check s.core = none ∧ t = s.onCore f) := by
  simp only [checked, Host.Outcome.next.injEq] at h
  cases hg : s.core.ctx.guardBit g <;> cases hc : check s.core <;> simp_all

theorem checkedState_cases {g : Guard} {slot : Nat} {check : State → Option Trap} {s t : State} {f : State → State}
    (h : checkedState g slot check s f = .next t) :
    (s.core.ctx.guardBit g = false ∧ t = s)
      ∨ (s.core.ctx.guardBit g = true ∧ ∃ r, check s = some r ∧ t = s.raise r slot)
      ∨ (s.core.ctx.guardBit g = true ∧ check s = none ∧ t = f s) := by
  simp only [checkedState, Host.Outcome.next.injEq] at h
  cases hg : s.core.ctx.guardBit g <;> cases hc : check s <;> simp_all

/-- A privileged operation in a task without privilege raises PRIVILEGE; in another it is a checked one. -/
theorem privileged_cases {g : Guard} {slot : Nat} {check : Core → Option Trap} {s t : State} {f : Core → Core}
    (h : privileged g slot check s f = .next t) :
    (s.core.priv = false ∧ t = s.raise .privilege slot) ∨ (s.core.priv = true ∧ checked g slot check s f = .next t) := by
  rw [privileged] at h
  split at h
  · exact .inr ⟨‹_›, h⟩
  · simp_all

/-- With the guard true and no failed check the effect happens. -/
theorem guarded_true {g : Guard} {s : State} {f : Core → Core} (h : s.core.ctx.guardBit g = true) :
    guarded g s f = .next (s.onCore f) := by rw [guarded, if_pos h]

theorem guardedState_true {g : Guard} {s : State} {f : State → State} (h : s.core.ctx.guardBit g = true) :
    guardedState g s f = .next (f s) := by rw [guardedState, if_pos h]

theorem checked_passes {g : Guard} {slot : Nat} {check : Core → Option Trap} {s : State} {f : Core → Core}
    (h : s.core.ctx.guardBit g = true) (hc : check s.core = none) : checked g slot check s f = .next (s.onCore f) := by
  rw [checked, if_pos h, hc]

theorem checked_fails {g : Guard} {slot : Nat} {check : Core → Option Trap} {s : State} {f : Core → Core} {r : Trap}
    (h : s.core.ctx.guardBit g = true) (hc : check s.core = some r) : checked g slot check s f = .next (s.raise r slot) := by
  rw [checked, if_pos h, hc]

theorem checkedState_passes {g : Guard} {slot : Nat} {check : State → Option Trap} {s : State} {f : State → State}
    (h : s.core.ctx.guardBit g = true) (hc : check s = none) : checkedState g slot check s f = .next (f s) := by
  rw [checkedState, if_pos h, hc]

/-- With the guard false nothing changes (R28). -/
theorem guarded_false {g : Guard} {s : State} {f : Core → Core} (h : s.core.ctx.guardBit g = false) : guarded g s f = .next s := by
  rw [guarded, if_neg (by simp [h])]

theorem checked_false {g : Guard} {slot : Nat} {check : Core → Option Trap} {s : State} {f : Core → Core}
    (h : s.core.ctx.guardBit g = false) : checked g slot check s f = .next s := by rw [checked, if_neg (by simp [h])]

/-! ### Traps (R121) -/

/-- A trap that stands is kept. -/
theorem Core.raise_kept {c : Core} {r : TrapRec} (code : Trap) (slot : Nat) (h : c.trap = some r) : c.raise code slot = c := by
  simp only [Core.raise, Core.raiseAt, h]

/-- The first trap of a core is recorded with its slot and its bundle. -/
theorem Core.raise_first {c : Core} (code : Trap) (slot : Nat) (h : c.trap = none) :
    c.raise code slot = { c with trap := some ⟨code, BitVec.ofNat 8 slot, addrOf c.ctx.pc, 0#16, 0#64⟩ } := by
  simp only [Core.raise, Core.raiseAt, h]

/-- Raising a trap touches no register. -/
@[simp] theorem Core.raise_ctx (c : Core) (code : Trap) (slot : Nat) : (c.raise code slot).ctx = c.ctx := by
  simp only [Core.raise, Core.raiseAt]; split <;> rfl

end Sys2Proof.Machine
end

