-- ==== Sys2Proof/Laws/PerInstr.lean ====
section
/-! SUPPORT. One family of lemmas over every constructor of `Instr`: decoding the word that the encoder gives a well-formed
operation gives the operation back (R24 to R43). The layouts come first: what the fields of a slot read when the encoder has
put them there. -/

namespace Sys2Proof.Laws.Coding

/-- In each slot that the operation may stand in, its word decodes to it. An event has no word. -/
def Statement (i : Instr) : Prop :=
  ∀ k w, WellFormed i → i.slot = some k → encode i = some w → decodeSlot k true w = .ok i

/-! ### Codes -/

theorem flagCode_lt (b : Bool) : flagCode b < 2 ^ 1 := by cases b <;> decide
theorem vtypeCode_lt (t : VType) : vtypeCode t < 2 ^ 2 := by cases t <;> decide
theorem elemCode_lt (t : ElemFmt) : elemCode t < 2 ^ 4 := by cases t <;> decide
theorem drainCode_lt (t : DrainFmt) : drainCode t < 2 ^ 3 := by cases t <;> decide
theorem scaleCode_lt (t : ScaleMode) : scaleCode t < 2 ^ 2 := by cases t <;> decide
theorem roundCode_lt (t : RMode) : roundCode t < 2 ^ 2 := by cases t <;> decide
theorem widthCode_lt (t : Width) : widthCode t < 2 ^ 2 := by cases t <;> decide
theorem fenceCode_lt (t : FenceKind) : fenceCode t < 2 ^ 2 := by cases t <;> decide
theorem wideCode_lt (b : Bool) : wideCode b < 2 ^ 2 := by cases b <;> decide
theorem pushCode_lt (p : Option (BitVec 2 × BitVec 9)) : pushCode p < 2 ^ 12 := by
  rcases p with _ | ⟨q, k⟩
  · decide
  · have := q.isLt; have := k.isLt; simp only [pushCode]; omega

theorem vtypeOf_code (t : VType) : vtypeOf (BitVec.ofNat 2 (vtypeCode t)) = t := by cases t <;> rfl
theorem elemOf_code (t : ElemFmt) : elemOf (BitVec.ofNat 4 (elemCode t)) = some t := by cases t <;> rfl
theorem drainOf_code (t : DrainFmt) : drainOf (BitVec.ofNat 3 (drainCode t)) = some t := by cases t <;> rfl
theorem scaleOf_code (t : ScaleMode) : scaleOf (BitVec.ofNat 2 (scaleCode t)) = some t := by cases t <;> rfl
theorem roundOf_code (t : RMode) : roundOf (BitVec.ofNat 2 (roundCode t)) = t := by cases t <;> rfl
theorem widthOf_code (t : Width) : widthOf (BitVec.ofNat 2 (widthCode t)) = t := by cases t <;> rfl
theorem fenceOf_code (t : FenceKind) : fenceOf (BitVec.ofNat 2 (fenceCode t)) = some t := by cases t <;> rfl
theorem wideOf_code (b : Bool) : wideOf (BitVec.ofNat 2 (wideCode b)) = some b := by cases b <;> rfl
theorem pushOf_code (p : Option (BitVec 2 × BitVec 9)) : pushOf (BitVec.ofNat 12 (pushCode p)) = some p := by
  rcases p with _ | ⟨q, k⟩
  · rfl
  · have hq := q.isLt; have hk := k.isLt
    have h : (BitVec.ofNat 12 (pushCode (some (q, k)))).toNat = 2048 + q.toNat * 512 + k.toNat := by
      simp only [pushCode, BitVec.toNat_ofNat]; omega
    have h1 : BitVec.ofNat 2 ((2048 + q.toNat * 512 + k.toNat) / 512) = q := by
      apply BitVec.eq_of_toNat_eq; rw [BitVec.toNat_ofNat]; omega
    have h2 : BitVec.ofNat 9 (2048 + q.toNat * 512 + k.toNat) = k := by
      apply BitVec.eq_of_toNat_eq; rw [BitVec.toNat_ofNat]; omega
    simp only [pushOf, h, h1, h2]
    rw [if_pos (by omega)]

/-! ### Fields of a sum -/

theorem fld_eq {w : BitVec 48} {lo n v : Nat} (h : w.toNat / 2 ^ lo % 2 ^ n = v) : fld w lo n = BitVec.ofNat n v := by
  apply BitVec.eq_of_toNat_eq
  rw [fld, BitVec.toNat_ofNat, BitVec.toNat_ofNat, h, Nat.mod_eq_of_lt (h ▸ Nat.mod_lt _ (Nat.two_pow_pos n))]

theorem fld_bits {w : BitVec 48} {lo n : Nat} {x : BitVec n} (h : w.toNat / 2 ^ lo % 2 ^ n = x.toNat) : fld w lo n = x := by
  rw [fld_eq h, BitVec.ofNat_toNat, BitVec.setWidth_eq]

theorem bitAt_flag {w : BitVec 48} {lo : Nat} {b : Bool} (h : w.toNat / 2 ^ lo % 2 ^ 1 = flagCode b) : bitAt w lo = b := by
  rw [pow_one] at h; rw [bitAt, h]; cases b <;> rfl

theorem zeroAt_true {w : BitVec 48} {lo n : Nat} (h : w.toNat / 2 ^ lo % 2 ^ n = 0) : zeroAt w lo n = true := by
  rw [zeroAt, h]; rfl

theorem opc_toNat {w : BitVec 48} {opc : Nat} (h : w.toNat / 2 ^ 40 % 2 ^ 8 = opc) : (fld w 40 8).toNat = opc := by
  rw [fld, BitVec.toNat_ofNat]; exact h

theorem ne_zero {w : BitVec 48} {opc : Nat} (h : (fld w 40 8).toNat = opc) (hp : 0 < opc) : w ≠ 0#48 := by
  rintro rfl
  rw [← h] at hp
  exact absurd hp (by decide)

/-- Fields of value, lowest bit and width, from high to low, that do not overlap and end below bit `top`. -/
def Fits : Nat → List (Nat × Nat × Nat) → Prop
  | _, [] => True
  | top, (v, lo, n) :: t => lo + n ≤ top ∧ v < 2 ^ n ∧ Fits lo t

/-- The value that the encoder's sum gives to fields. -/
def total : List (Nat × Nat × Nat) → Nat
  | [] => 0
  | (v, lo, _) :: t => v * 2 ^ lo + total t

/-- Bits from `a` up, `n` of them, lie in no field. -/
def gap (a n : Nat) : List (Nat × Nat × Nat) → Bool
  | [] => true
  | (_, lo, m) :: t => (Nat.ble (lo + m) a || Nat.ble (a + n) lo) && gap a n t

theorem total_lt {l : List (Nat × Nat × Nat)} : ∀ {top : Nat}, Fits top l → total l < 2 ^ top := by
  induction l with
  | nil => exact fun _ => Nat.two_pow_pos _
  | cons f t ih =>
    obtain ⟨v, lo, n⟩ := f
    intro top h
    obtain ⟨hl, hv, ht⟩ := h
    have h1 := ih ht
    have h2 : (v + 1) * 2 ^ lo ≤ 2 ^ n * 2 ^ lo := Nat.mul_le_mul_right _ hv
    rw [← pow_add, Nat.add_comm n] at h2
    have h3 : 2 ^ (lo + n) ≤ 2 ^ top := Nat.pow_le_pow_right (by decide) hl
    simp only [total, Nat.succ_mul] at *
    omega

/-- A high part that is a multiple of 2^lo and a low part below it do not mix. -/
theorem split_high {v r lo a n : Nat} (hr : r < 2 ^ lo) (ha : a + n ≤ lo) :
    (v * 2 ^ lo + r) / 2 ^ a % 2 ^ n = r / 2 ^ a % 2 ^ n := by
  obtain ⟨d, rfl⟩ := Nat.exists_eq_add_of_le ha
  have h : v * 2 ^ (a + n + d) = 2 ^ a * (2 ^ n * (v * 2 ^ d)) := by ring
  rw [h, Nat.mul_add_div (Nat.two_pow_pos a), Nat.mul_add_mod]

theorem split_low {v r lo a n : Nat} (hr : r < 2 ^ lo) (ha : lo ≤ a) (hv : v < 2 ^ (a - lo)) :
    (v * 2 ^ lo + r) / 2 ^ a % 2 ^ n = 0 := by
  obtain ⟨d, rfl⟩ := Nat.exists_eq_add_of_le ha
  rw [Nat.add_sub_cancel_left] at hv
  rw [pow_add, ← Nat.div_div_eq_div_mul, Nat.mul_comm v, Nat.mul_add_div (Nat.two_pow_pos lo), Nat.div_eq_of_lt hr, Nat.add_zero,
    Nat.div_eq_of_lt hv, Nat.zero_mod]

theorem total_field {l : List (Nat × Nat × Nat)} : ∀ {top : Nat}, Fits top l → ∀ {i v lo n : Nat}, l[i]? = some (v, lo, n) →
    total l / 2 ^ lo % 2 ^ n = v := by
  induction l with
  | nil => intro _ _ i v lo n h; cases h
  | cons f t ih =>
    obtain ⟨v0, lo0, n0⟩ := f
    intro top h i v lo n hi
    obtain ⟨hl, hv, ht⟩ := h
    have hr := total_lt ht
    cases i with
    | zero =>
      cases hi
      rw [total, Nat.mul_comm, Nat.mul_add_div (Nat.two_pow_pos _), Nat.div_eq_of_lt hr, Nat.add_zero, Nat.mod_eq_of_lt hv]
    | succ i =>
      have hb : ∀ {l : List (Nat × Nat × Nat)} {top i : Nat}, Fits top l → l[i]? = some (v, lo, n) → lo + n ≤ top := by
        intro l
        induction l with
        | nil => intro _ _ _ h; cases h
        | cons g u ihu =>
          intro top i hf hg
          cases i with
          | zero => cases hg; exact hf.1
          | succ i => exact (ihu hf.2.2 hg).trans ((Nat.le_add_right _ _).trans hf.1)
      have hi' : t[i]? = some (v, lo, n) := hi
      rw [total, split_high hr (hb ht hi'), ih ht hi']

theorem total_gap {l : List (Nat × Nat × Nat)} : ∀ {top : Nat}, Fits top l → ∀ {a n : Nat}, gap a n l = true →
    total l / 2 ^ a % 2 ^ n = 0 := by
  induction l with
  | nil => intro _ _ a n _; simp [total]
  | cons f t ih =>
    obtain ⟨v0, lo0, n0⟩ := f
    intro top h a n hg
    obtain ⟨hl, hv, ht⟩ := h
    have hr := total_lt ht
    simp only [gap, Bool.and_eq_true, Bool.or_eq_true, Nat.ble_eq] at hg
    obtain ⟨hb | hb, hg⟩ := hg
    · refine split_low hr (by omega) (hv.trans_le (Nat.pow_le_pow_right (by decide) (by omega)))
    · rw [total, split_high hr hb, ih ht hg]

/-- What holds of a number holds of the word that has it. -/
theorem at_word {w : BitVec 48} {n lo m v : Nat} (hw : w.toNat = n) (h : n / 2 ^ lo % 2 ^ m = v) : w.toNat / 2 ^ lo % 2 ^ m = v := by
  rw [hw]; exact h

/-- The fields of a slot word: opcode, guard and operands. -/
theorem slot_total {opc : Nat} {g : Guard} {l : List (Nat × Nat)} {m : List (Nat × Nat × Nat)} (h : fieldSum l = total m)
    (hf : Fits 48 ((opc, 40, 8) :: (g.p.toNat, 35, 5) :: (flagCode g.n, 34, 1) :: m)) :
    (slotBits opc g l).toNat = total ((opc, 40, 8) :: (g.p.toNat, 35, 5) :: (flagCode g.n, 34, 1) :: m) := by
  have hb := total_lt hf
  rw [slotBits, BitVec.toNat_ofNat]
  simp only [fieldSum, total] at *
  rw [h, Nat.mod_eq_of_lt hb]

theorem guard_eq {w : BitVec 48} {g : Guard} (hp : w.toNat / 2 ^ 35 % 2 ^ 5 = g.p.toNat)
    (hn : w.toNat / 2 ^ 34 % 2 ^ 1 = flagCode g.n) : guardOf w = g := by
  rw [guardOf, fld_bits hp, bitAt_flag hn]

/-! ### Slots -/

theorem accept_wf {i : Instr} (h : WellFormed i) : accept true i = .ok i := by rw [accept, Bool.true_and, if_pos h]

theorem needPriv_held (b : Bool) (r : Except DecodeError Instr) : needPriv b true r = r := by cases b <;> rfl

theorem decodeSlot_code {k : Slot} {w : BitVec 48} {opc : Nat} (ho : (fld w 40 8).toNat = opc) (hp : 0 < opc) :
    decodeSlot k true w =
      match k with
      | .ctl => decodeCtl true opc w
      | .sa => decodeScalar false true opc w
      | .sb => decodeScalar true true opc w
      | .vx => decodeVector false opc w
      | .vy => decodeVector true opc w
      | .mx => decodeMatrix opc w
      | .ls => decodeScratch opc w
      | .eq => decodeEngine true opc w
      | .tf => decodeTile opc w
      | .sc => decodeScale opc w := by
  have h0 : opc ≠ 0 := by omega
  rw [decodeSlot, if_neg (ne_zero ho hp)]
  simp only [ho, if_neg h0]
  all_goals (cases k <;> rfl)

theorem scalar_code {u : Bool} {k : Slot} {w : BitVec 48} {opc : Nat} (hk : some (if u then Slot.sb else .sa) = some k)
    (ho : (fld w 40 8).toNat = opc) (hp : 0 < opc) : decodeSlot k true w = decodeScalar u true opc w := by
  cases Option.some.inj hk
  rw [decodeSlot_code ho hp]
  cases u <;> rfl

theorem vector_code {u : Bool} {k : Slot} {w : BitVec 48} {opc : Nat} (hk : some (if u then Slot.vy else .vx) = some k)
    (ho : (fld w 40 8).toNat = opc) (hp : 0 < opc) : decodeSlot k true w = decodeVector u opc w := by
  cases Option.some.inj hk
  rw [decodeSlot_code ho hp]
  cases u <;> rfl

theorem ctl_code {k : Slot} {w : BitVec 48} {opc : Nat} (hk : some Slot.ctl = some k) (ho : (fld w 40 8).toNat = opc)
    (hp : 0 < opc) : decodeSlot k true w = decodeCtl true opc w := by
  cases Option.some.inj hk
  rw [decodeSlot_code ho hp]

theorem mx_code {k : Slot} {w : BitVec 48} {opc : Nat} (hk : some Slot.mx = some k) (ho : (fld w 40 8).toNat = opc)
    (hp : 0 < opc) : decodeSlot k true w = decodeMatrix opc w := by
  cases Option.some.inj hk
  rw [decodeSlot_code ho hp]

theorem ls_code {k : Slot} {w : BitVec 48} {opc : Nat} (hk : some Slot.ls = some k) (ho : (fld w 40 8).toNat = opc)
    (hp : 0 < opc) : decodeSlot k true w = decodeScratch opc w := by
  cases Option.some.inj hk
  rw [decodeSlot_code ho hp]

theorem eq_code {k : Slot} {w : BitVec 48} {opc : Nat} (hk : some Slot.eq = some k) (ho : (fld w 40 8).toNat = opc)
    (hp : 0 < opc) : decodeSlot k true w = decodeEngine true opc w := by
  cases Option.some.inj hk
  rw [decodeSlot_code ho hp]

theorem tf_code {k : Slot} {w : BitVec 48} {opc : Nat} (hk : some Slot.tf = some k) (ho : (fld w 40 8).toNat = opc)
    (hp : 0 < opc) : decodeSlot k true w = decodeTile opc w := by
  cases Option.some.inj hk
  rw [decodeSlot_code ho hp]

theorem sc_code {k : Slot} {w : BitVec 48} {opc : Nat} (hk : some Slot.sc = some k) (ho : (fld w 40 8).toNat = opc)
    (hp : 0 < opc) : decodeSlot k true w = decodeScale opc w := by
  cases Option.some.inj hk
  rw [decodeSlot_code ho hp]

/-! ### Layouts: each lists its fields from the encoder's list and the gaps that stay zero -/

theorem layout0 {opc : Nat} {w : BitVec 48} (ho : opc < 256) (g : Guard) (x0 : BitVec 24)
    (h : slotBits opc g [(x0.toNat, 10)] = w) :
    (fld w 40 8).toNat = opc ∧ guardOf w = g ∧ fld w 10 24 = x0 ∧ zeroAt w 0 10 = true := by
  have hf : Fits 48 ((opc, 40, 8) :: (g.p.toNat, 35, 5) :: (flagCode g.n, 34, 1) :: [(x0.toNat, 10, 24)]) :=
    ⟨by decide, ho, by decide, g.p.isLt, by decide, flagCode_lt g.n, by decide, x0.isLt, trivial⟩
  have hw := (congrArg BitVec.toNat h).symm.trans (slot_total (rfl) hf)
  exact ⟨opc_toNat (at_word hw (total_field hf (i := 0) rfl)), guard_eq (at_word hw (total_field hf (i := 1) rfl)) (at_word hw (total_field hf (i := 2) rfl)), fld_bits (at_word hw (total_field hf (i := 3) rfl)), zeroAt_true (at_word hw (total_gap hf rfl))⟩

theorem layout1 {opc : Nat} {w : BitVec 48} (ho : opc < 256) (g : Guard) (x0 : BitVec 6)
    (h : slotBits opc g [(x0.toNat, 28)] = w) :
    (fld w 40 8).toNat = opc ∧ guardOf w = g ∧ fld w 28 6 = x0 ∧ zeroAt w 0 28 = true := by
  have hf : Fits 48 ((opc, 40, 8) :: (g.p.toNat, 35, 5) :: (flagCode g.n, 34, 1) :: [(x0.toNat, 28, 6)]) :=
    ⟨by decide, ho, by decide, g.p.isLt, by decide, flagCode_lt g.n, by decide, x0.isLt, trivial⟩
  have hw := (congrArg BitVec.toNat h).symm.trans (slot_total (rfl) hf)
  exact ⟨opc_toNat (at_word hw (total_field hf (i := 0) rfl)), guard_eq (at_word hw (total_field hf (i := 1) rfl)) (at_word hw (total_field hf (i := 2) rfl)), fld_bits (at_word hw (total_field hf (i := 3) rfl)), zeroAt_true (at_word hw (total_gap hf rfl))⟩

theorem layout2 {opc : Nat} {w : BitVec 48} (ho : opc < 256) (g : Guard) 
    (h : slotBits opc g [] = w) :
    (fld w 40 8).toNat = opc ∧ guardOf w = g ∧ zeroAt w 0 34 = true := by
  have hf : Fits 48 ((opc, 40, 8) :: (g.p.toNat, 35, 5) :: (flagCode g.n, 34, 1) :: []) :=
    ⟨by decide, ho, by decide, g.p.isLt, by decide, flagCode_lt g.n, trivial⟩
  have hw := (congrArg BitVec.toNat h).symm.trans (slot_total (rfl) hf)
  exact ⟨opc_toNat (at_word hw (total_field hf (i := 0) rfl)), guard_eq (at_word hw (total_field hf (i := 1) rfl)) (at_word hw (total_field hf (i := 2) rfl)), zeroAt_true (at_word hw (total_gap hf rfl))⟩

theorem layout3 {opc : Nat} {w : BitVec 48} (ho : opc < 256) (g : Guard) (x0 : BitVec 2) (x1 : BitVec 12) (x2 : BitVec 20)
    (h : slotBits opc g [(x0.toNat, 32), (x1.toNat, 20), (x2.toNat, 0)] = w) :
    (fld w 40 8).toNat = opc ∧ guardOf w = g ∧ fld w 32 2 = x0 ∧ fld w 20 12 = x1 ∧ fld w 0 20 = x2 := by
  have hf : Fits 48 ((opc, 40, 8) :: (g.p.toNat, 35, 5) :: (flagCode g.n, 34, 1) :: [(x0.toNat, 32, 2), (x1.toNat, 20, 12), (x2.toNat, 0, 20)]) :=
    ⟨by decide, ho, by decide, g.p.isLt, by decide, flagCode_lt g.n, by decide, x0.isLt, by decide, x1.isLt, by decide, x2.isLt, trivial⟩
  have hw := (congrArg BitVec.toNat h).symm.trans (slot_total (rfl) hf)
  exact ⟨opc_toNat (at_word hw (total_field hf (i := 0) rfl)), guard_eq (at_word hw (total_field hf (i := 1) rfl)) (at_word hw (total_field hf (i := 2) rfl)), fld_bits (at_word hw (total_field hf (i := 3) rfl)), fld_bits (at_word hw (total_field hf (i := 4) rfl)), fld_bits (at_word hw (total_field hf (i := 5) rfl))⟩

theorem layout4 {opc : Nat} {w : BitVec 48} (ho : opc < 256) (g : Guard) (x0 : BitVec 2) (x1 : BitVec 12) (x2 : BitVec 6)
    (h : slotBits opc g [(x0.toNat, 32), (x1.toNat, 20), (x2.toNat, 14)] = w) :
    (fld w 40 8).toNat = opc ∧ guardOf w = g ∧ fld w 32 2 = x0 ∧ fld w 20 12 = x1 ∧ fld w 14 6 = x2 ∧ zeroAt w 0 14 = true := by
  have hf : Fits 48 ((opc, 40, 8) :: (g.p.toNat, 35, 5) :: (flagCode g.n, 34, 1) :: [(x0.toNat, 32, 2), (x1.toNat, 20, 12), (x2.toNat, 14, 6)]) :=
    ⟨by decide, ho, by decide, g.p.isLt, by decide, flagCode_lt g.n, by decide, x0.isLt, by decide, x1.isLt, by decide, x2.isLt, trivial⟩
  have hw := (congrArg BitVec.toNat h).symm.trans (slot_total (rfl) hf)
  exact ⟨opc_toNat (at_word hw (total_field hf (i := 0) rfl)), guard_eq (at_word hw (total_field hf (i := 1) rfl)) (at_word hw (total_field hf (i := 2) rfl)), fld_bits (at_word hw (total_field hf (i := 3) rfl)), fld_bits (at_word hw (total_field hf (i := 4) rfl)), fld_bits (at_word hw (total_field hf (i := 5) rfl)), zeroAt_true (at_word hw (total_gap hf rfl))⟩

theorem layout5 {opc : Nat} {w : BitVec 48} (ho : opc < 256) (g : Guard) (x0 : BitVec 2)
    (h : slotBits opc g [(x0.toNat, 32)] = w) :
    (fld w 40 8).toNat = opc ∧ guardOf w = g ∧ fld w 32 2 = x0 ∧ zeroAt w 0 32 = true := by
  have hf : Fits 48 ((opc, 40, 8) :: (g.p.toNat, 35, 5) :: (flagCode g.n, 34, 1) :: [(x0.toNat, 32, 2)]) :=
    ⟨by decide, ho, by decide, g.p.isLt, by decide, flagCode_lt g.n, by decide, x0.isLt, trivial⟩
  have hw := (congrArg BitVec.toNat h).symm.trans (slot_total (rfl) hf)
  exact ⟨opc_toNat (at_word hw (total_field hf (i := 0) rfl)), guard_eq (at_word hw (total_field hf (i := 1) rfl)) (at_word hw (total_field hf (i := 2) rfl)), fld_bits (at_word hw (total_field hf (i := 3) rfl)), zeroAt_true (at_word hw (total_gap hf rfl))⟩

theorem layout6 {opc : Nat} {w : BitVec 48} (ho : opc < 256) (g : Guard) (x0 : BitVec 32)
    (h : slotBits opc g [(x0.toNat, 0)] = w) :
    (fld w 40 8).toNat = opc ∧ guardOf w = g ∧ fld w 0 32 = x0 ∧ zeroAt w 32 2 = true := by
  have hf : Fits 48 ((opc, 40, 8) :: (g.p.toNat, 35, 5) :: (flagCode g.n, 34, 1) :: [(x0.toNat, 0, 32)]) :=
    ⟨by decide, ho, by decide, g.p.isLt, by decide, flagCode_lt g.n, by decide, x0.isLt, trivial⟩
  have hw := (congrArg BitVec.toNat h).symm.trans (slot_total (rfl) hf)
  exact ⟨opc_toNat (at_word hw (total_field hf (i := 0) rfl)), guard_eq (at_word hw (total_field hf (i := 1) rfl)) (at_word hw (total_field hf (i := 2) rfl)), fld_bits (at_word hw (total_field hf (i := 3) rfl)), zeroAt_true (at_word hw (total_gap hf rfl))⟩

theorem layout7 {opc : Nat} {w : BitVec 48} (ho : opc < 256) (g : Guard) (x0 : BitVec 16)
    (h : slotBits opc g [(x0.toNat, 0)] = w) :
    (fld w 40 8).toNat = opc ∧ guardOf w = g ∧ fld w 0 16 = x0 ∧ zeroAt w 16 18 = true := by
  have hf : Fits 48 ((opc, 40, 8) :: (g.p.toNat, 35, 5) :: (flagCode g.n, 34, 1) :: [(x0.toNat, 0, 16)]) :=
    ⟨by decide, ho, by decide, g.p.isLt, by decide, flagCode_lt g.n, by decide, x0.isLt, trivial⟩
  have hw := (congrArg BitVec.toNat h).symm.trans (slot_total (rfl) hf)
  exact ⟨opc_toNat (at_word hw (total_field hf (i := 0) rfl)), guard_eq (at_word hw (total_field hf (i := 1) rfl)) (at_word hw (total_field hf (i := 2) rfl)), fld_bits (at_word hw (total_field hf (i := 3) rfl)), zeroAt_true (at_word hw (total_gap hf rfl))⟩

theorem layout8 {opc : Nat} {w : BitVec 48} (ho : opc < 256) (g : Guard) (x0 : BitVec 6) (x1 : BitVec 6) (x2 : BitVec 6)
    (h : slotBits opc g [(x0.toNat, 28), (x1.toNat, 22), (x2.toNat, 16)] = w) :
    (fld w 40 8).toNat = opc ∧ guardOf w = g ∧ fld w 28 6 = x0 ∧ fld w 22 6 = x1 ∧ fld w 16 6 = x2 ∧ zeroAt w 0 16 = true := by
  have hf : Fits 48 ((opc, 40, 8) :: (g.p.toNat, 35, 5) :: (flagCode g.n, 34, 1) :: [(x0.toNat, 28, 6), (x1.toNat, 22, 6), (x2.toNat, 16, 6)]) :=
    ⟨by decide, ho, by decide, g.p.isLt, by decide, flagCode_lt g.n, by decide, x0.isLt, by decide, x1.isLt, by decide, x2.isLt, trivial⟩
  have hw := (congrArg BitVec.toNat h).symm.trans (slot_total (rfl) hf)
  exact ⟨opc_toNat (at_word hw (total_field hf (i := 0) rfl)), guard_eq (at_word hw (total_field hf (i := 1) rfl)) (at_word hw (total_field hf (i := 2) rfl)), fld_bits (at_word hw (total_field hf (i := 3) rfl)), fld_bits (at_word hw (total_field hf (i := 4) rfl)), fld_bits (at_word hw (total_field hf (i := 5) rfl)), zeroAt_true (at_word hw (total_gap hf rfl))⟩

theorem layout9 {opc : Nat} {w : BitVec 48} (ho : opc < 256) (g : Guard) (x0 : BitVec 6) (x1 : BitVec 6) (x2 : BitVec 22)
    (h : slotBits opc g [(x0.toNat, 28), (x1.toNat, 22), (x2.toNat, 0)] = w) :
    (fld w 40 8).toNat = opc ∧ guardOf w = g ∧ fld w 28 6 = x0 ∧ fld w 22 6 = x1 ∧ fld w 0 22 = x2 := by
  have hf : Fits 48 ((opc, 40, 8) :: (g.p.toNat, 35, 5) :: (flagCode g.n, 34, 1) :: [(x0.toNat, 28, 6), (x1.toNat, 22, 6), (x2.toNat, 0, 22)]) :=
    ⟨by decide, ho, by decide, g.p.isLt, by decide, flagCode_lt g.n, by decide, x0.isLt, by decide, x1.isLt, by decide, x2.isLt, trivial⟩
  have hw := (congrArg BitVec.toNat h).symm.trans (slot_total (rfl) hf)
  exact ⟨opc_toNat (at_word hw (total_field hf (i := 0) rfl)), guard_eq (at_word hw (total_field hf (i := 1) rfl)) (at_word hw (total_field hf (i := 2) rfl)), fld_bits (at_word hw (total_field hf (i := 3) rfl)), fld_bits (at_word hw (total_field hf (i := 4) rfl)), fld_bits (at_word hw (total_field hf (i := 5) rfl))⟩

theorem layout10 {opc : Nat} {w : BitVec 48} (ho : opc < 256) (g : Guard) (x0 : BitVec 6) (x1 : BitVec 6) (x2 : BitVec 6)
    (h : slotBits opc g [(x0.toNat, 28), (x1.toNat, 22), (x2.toNat, 0)] = w) :
    (fld w 40 8).toNat = opc ∧ guardOf w = g ∧ fld w 28 6 = x0 ∧ fld w 22 6 = x1 ∧ fld w 0 6 = x2 ∧ zeroAt w 6 16 = true := by
  have hf : Fits 48 ((opc, 40, 8) :: (g.p.toNat, 35, 5) :: (flagCode g.n, 34, 1) :: [(x0.toNat, 28, 6), (x1.toNat, 22, 6), (x2.toNat, 0, 6)]) :=
    ⟨by decide, ho, by decide, g.p.isLt, by decide, flagCode_lt g.n, by decide, x0.isLt, by decide, x1.isLt, by decide, x2.isLt, trivial⟩
  have hw := (congrArg BitVec.toNat h).symm.trans (slot_total (rfl) hf)
  exact ⟨opc_toNat (at_word hw (total_field hf (i := 0) rfl)), guard_eq (at_word hw (total_field hf (i := 1) rfl)) (at_word hw (total_field hf (i := 2) rfl)), fld_bits (at_word hw (total_field hf (i := 3) rfl)), fld_bits (at_word hw (total_field hf (i := 4) rfl)), fld_bits (at_word hw (total_field hf (i := 5) rfl)), zeroAt_true (at_word hw (total_gap hf rfl))⟩

theorem layout11 {opc : Nat} {w : BitVec 48} (ho : opc < 256) (g : Guard) (x0 : BitVec 6) (x1 : BitVec 6)
    (h : slotBits opc g [(x0.toNat, 28), (x1.toNat, 22)] = w) :
    (fld w 40 8).toNat = opc ∧ guardOf w = g ∧ fld w 28 6 = x0 ∧ fld w 22 6 = x1 ∧ zeroAt w 0 22 = true := by
  have hf : Fits 48 ((opc, 40, 8) :: (g.p.toNat, 35, 5) :: (flagCode g.n, 34, 1) :: [(x0.toNat, 28, 6), (x1.toNat, 22, 6)]) :=
    ⟨by decide, ho, by decide, g.p.isLt, by decide, flagCode_lt g.n, by decide, x0.isLt, by decide, x1.isLt, trivial⟩
  have hw := (congrArg BitVec.toNat h).symm.trans (slot_total (rfl) hf)
  exact ⟨opc_toNat (at_word hw (total_field hf (i := 0) rfl)), guard_eq (at_word hw (total_field hf (i := 1) rfl)) (at_word hw (total_field hf (i := 2) rfl)), fld_bits (at_word hw (total_field hf (i := 3) rfl)), fld_bits (at_word hw (total_field hf (i := 4) rfl)), zeroAt_true (at_word hw (total_gap hf rfl))⟩

theorem layout12 {opc : Nat} {w : BitVec 48} (ho : opc < 256) (g : Guard) (x0 : BitVec 6) (x1 : BitVec 28)
    (h : slotBits opc g [(x0.toNat, 28), (x1.toNat, 0)] = w) :
    (fld w 40 8).toNat = opc ∧ guardOf w = g ∧ fld w 28 6 = x0 ∧ fld w 0 28 = x1 := by
  have hf : Fits 48 ((opc, 40, 8) :: (g.p.toNat, 35, 5) :: (flagCode g.n, 34, 1) :: [(x0.toNat, 28, 6), (x1.toNat, 0, 28)]) :=
    ⟨by decide, ho, by decide, g.p.isLt, by decide, flagCode_lt g.n, by decide, x0.isLt, by decide, x1.isLt, trivial⟩
  have hw := (congrArg BitVec.toNat h).symm.trans (slot_total (rfl) hf)
  exact ⟨opc_toNat (at_word hw (total_field hf (i := 0) rfl)), guard_eq (at_word hw (total_field hf (i := 1) rfl)) (at_word hw (total_field hf (i := 2) rfl)), fld_bits (at_word hw (total_field hf (i := 3) rfl)), fld_bits (at_word hw (total_field hf (i := 4) rfl))⟩

theorem layout13 {opc : Nat} {w : BitVec 48} (ho : opc < 256) (g : Guard) (x0 : BitVec 6) (x1 : BitVec 6) (x2 : BitVec 6) (x3 : BitVec 3)
    (h : slotBits opc g [(x0.toNat, 28), (x1.toNat, 22), (x2.toNat, 16), (x3.toNat, 0)] = w) :
    (fld w 40 8).toNat = opc ∧ guardOf w = g ∧ fld w 28 6 = x0 ∧ fld w 22 6 = x1 ∧ fld w 16 6 = x2 ∧ fld w 0 3 = x3 ∧ zeroAt w 3 13 = true := by
  have hf : Fits 48 ((opc, 40, 8) :: (g.p.toNat, 35, 5) :: (flagCode g.n, 34, 1) :: [(x0.toNat, 28, 6), (x1.toNat, 22, 6), (x2.toNat, 16, 6), (x3.toNat, 0, 3)]) :=
    ⟨by decide, ho, by decide, g.p.isLt, by decide, flagCode_lt g.n, by decide, x0.isLt, by decide, x1.isLt, by decide, x2.isLt, by decide, x3.isLt, trivial⟩
  have hw := (congrArg BitVec.toNat h).symm.trans (slot_total (rfl) hf)
  exact ⟨opc_toNat (at_word hw (total_field hf (i := 0) rfl)), guard_eq (at_word hw (total_field hf (i := 1) rfl)) (at_word hw (total_field hf (i := 2) rfl)), fld_bits (at_word hw (total_field hf (i := 3) rfl)), fld_bits (at_word hw (total_field hf (i := 4) rfl)), fld_bits (at_word hw (total_field hf (i := 5) rfl)), fld_bits (at_word hw (total_field hf (i := 6) rfl)), zeroAt_true (at_word hw (total_gap hf rfl))⟩

theorem layout14 {opc : Nat} {w : BitVec 48} (ho : opc < 256) (g : Guard) (x0 : BitVec 6) (x1 : BitVec 6) (x2 : BitVec 6) (x3 : BitVec 5)
    (h : slotBits opc g [(x0.toNat, 28), (x1.toNat, 22), (x2.toNat, 16), (x3.toNat, 11)] = w) :
    (fld w 40 8).toNat = opc ∧ guardOf w = g ∧ fld w 28 6 = x0 ∧ fld w 22 6 = x1 ∧ fld w 16 6 = x2 ∧ fld w 11 5 = x3 ∧ zeroAt w 0 11 = true := by
  have hf : Fits 48 ((opc, 40, 8) :: (g.p.toNat, 35, 5) :: (flagCode g.n, 34, 1) :: [(x0.toNat, 28, 6), (x1.toNat, 22, 6), (x2.toNat, 16, 6), (x3.toNat, 11, 5)]) :=
    ⟨by decide, ho, by decide, g.p.isLt, by decide, flagCode_lt g.n, by decide, x0.isLt, by decide, x1.isLt, by decide, x2.isLt, by decide, x3.isLt, trivial⟩
  have hw := (congrArg BitVec.toNat h).symm.trans (slot_total (rfl) hf)
  exact ⟨opc_toNat (at_word hw (total_field hf (i := 0) rfl)), guard_eq (at_word hw (total_field hf (i := 1) rfl)) (at_word hw (total_field hf (i := 2) rfl)), fld_bits (at_word hw (total_field hf (i := 3) rfl)), fld_bits (at_word hw (total_field hf (i := 4) rfl)), fld_bits (at_word hw (total_field hf (i := 5) rfl)), fld_bits (at_word hw (total_field hf (i := 6) rfl)), zeroAt_true (at_word hw (total_gap hf rfl))⟩

theorem layout15 {opc : Nat} {w : BitVec 48} (ho : opc < 256) (g : Guard) (x0 : BitVec 6) (x1 : BitVec 6) (x2 : BitVec 6) (x3 : BitVec 6)
    (h : slotBits opc g [(x0.toNat, 28), (x1.toNat, 22), (x2.toNat, 6), (x3.toNat, 0)] = w) :
    (fld w 40 8).toNat = opc ∧ guardOf w = g ∧ fld w 28 6 = x0 ∧ fld w 22 6 = x1 ∧ fld w 6 6 = x2 ∧ fld w 0 6 = x3 ∧ zeroAt w 12 10 = true := by
  have hf : Fits 48 ((opc, 40, 8) :: (g.p.toNat, 35, 5) :: (flagCode g.n, 34, 1) :: [(x0.toNat, 28, 6), (x1.toNat, 22, 6), (x2.toNat, 6, 6), (x3.toNat, 0, 6)]) :=
    ⟨by decide, ho, by decide, g.p.isLt, by decide, flagCode_lt g.n, by decide, x0.isLt, by decide, x1.isLt, by decide, x2.isLt, by decide, x3.isLt, trivial⟩
  have hw := (congrArg BitVec.toNat h).symm.trans (slot_total (rfl) hf)
  exact ⟨opc_toNat (at_word hw (total_field hf (i := 0) rfl)), guard_eq (at_word hw (total_field hf (i := 1) rfl)) (at_word hw (total_field hf (i := 2) rfl)), fld_bits (at_word hw (total_field hf (i := 3) rfl)), fld_bits (at_word hw (total_field hf (i := 4) rfl)), fld_bits (at_word hw (total_field hf (i := 5) rfl)), fld_bits (at_word hw (total_field hf (i := 6) rfl)), zeroAt_true (at_word hw (total_gap hf rfl))⟩

theorem layout16 {opc : Nat} {w : BitVec 48} (ho : opc < 256) (g : Guard) (x0 : BitVec 5) (x1 : BitVec 6) (x2 : BitVec 6)
    (h : slotBits opc g [(x0.toNat, 29), (x1.toNat, 22), (x2.toNat, 16)] = w) :
    (fld w 40 8).toNat = opc ∧ guardOf w = g ∧ fld w 29 5 = x0 ∧ fld w 22 6 = x1 ∧ fld w 16 6 = x2 ∧ zeroAt w 0 16 = true ∧ zeroAt w 28 1 = true := by
  have hf : Fits 48 ((opc, 40, 8) :: (g.p.toNat, 35, 5) :: (flagCode g.n, 34, 1) :: [(x0.toNat, 29, 5), (x1.toNat, 22, 6), (x2.toNat, 16, 6)]) :=
    ⟨by decide, ho, by decide, g.p.isLt, by decide, flagCode_lt g.n, by decide, x0.isLt, by decide, x1.isLt, by decide, x2.isLt, trivial⟩
  have hw := (congrArg BitVec.toNat h).symm.trans (slot_total (rfl) hf)
  exact ⟨opc_toNat (at_word hw (total_field hf (i := 0) rfl)), guard_eq (at_word hw (total_field hf (i := 1) rfl)) (at_word hw (total_field hf (i := 2) rfl)), fld_bits (at_word hw (total_field hf (i := 3) rfl)), fld_bits (at_word hw (total_field hf (i := 4) rfl)), fld_bits (at_word hw (total_field hf (i := 5) rfl)), zeroAt_true (at_word hw (total_gap hf rfl)), zeroAt_true (at_word hw (total_gap hf rfl))⟩

theorem layout17 {opc : Nat} {w : BitVec 48} (ho : opc < 256) (g : Guard) (x0 : BitVec 5) (x1 : BitVec 6) (x2 : BitVec 22)
    (h : slotBits opc g [(x0.toNat, 29), (x1.toNat, 22), (x2.toNat, 0)] = w) :
    (fld w 40 8).toNat = opc ∧ guardOf w = g ∧ fld w 29 5 = x0 ∧ fld w 22 6 = x1 ∧ fld w 0 22 = x2 ∧ zeroAt w 28 1 = true := by
  have hf : Fits 48 ((opc, 40, 8) :: (g.p.toNat, 35, 5) :: (flagCode g.n, 34, 1) :: [(x0.toNat, 29, 5), (x1.toNat, 22, 6), (x2.toNat, 0, 22)]) :=
    ⟨by decide, ho, by decide, g.p.isLt, by decide, flagCode_lt g.n, by decide, x0.isLt, by decide, x1.isLt, by decide, x2.isLt, trivial⟩
  have hw := (congrArg BitVec.toNat h).symm.trans (slot_total (rfl) hf)
  exact ⟨opc_toNat (at_word hw (total_field hf (i := 0) rfl)), guard_eq (at_word hw (total_field hf (i := 1) rfl)) (at_word hw (total_field hf (i := 2) rfl)), fld_bits (at_word hw (total_field hf (i := 3) rfl)), fld_bits (at_word hw (total_field hf (i := 4) rfl)), fld_bits (at_word hw (total_field hf (i := 5) rfl)), zeroAt_true (at_word hw (total_gap hf rfl))⟩

theorem layout18 {opc : Nat} {w : BitVec 48} (ho : opc < 256) (g : Guard) (x0 : BitVec 5) (x1 : BitVec 5) (x2 : BitVec 5)
    (h : slotBits opc g [(x0.toNat, 29), (x1.toNat, 24), (x2.toNat, 19)] = w) :
    (fld w 40 8).toNat = opc ∧ guardOf w = g ∧ fld w 29 5 = x0 ∧ fld w 24 5 = x1 ∧ fld w 19 5 = x2 ∧ zeroAt w 0 19 = true := by
  have hf : Fits 48 ((opc, 40, 8) :: (g.p.toNat, 35, 5) :: (flagCode g.n, 34, 1) :: [(x0.toNat, 29, 5), (x1.toNat, 24, 5), (x2.toNat, 19, 5)]) :=
    ⟨by decide, ho, by decide, g.p.isLt, by decide, flagCode_lt g.n, by decide, x0.isLt, by decide, x1.isLt, by decide, x2.isLt, trivial⟩
  have hw := (congrArg BitVec.toNat h).symm.trans (slot_total (rfl) hf)
  exact ⟨opc_toNat (at_word hw (total_field hf (i := 0) rfl)), guard_eq (at_word hw (total_field hf (i := 1) rfl)) (at_word hw (total_field hf (i := 2) rfl)), fld_bits (at_word hw (total_field hf (i := 3) rfl)), fld_bits (at_word hw (total_field hf (i := 4) rfl)), fld_bits (at_word hw (total_field hf (i := 5) rfl)), zeroAt_true (at_word hw (total_gap hf rfl))⟩

theorem layout19 {opc : Nat} {w : BitVec 48} (ho : opc < 256) (g : Guard) (x0 : BitVec 5) (x1 : BitVec 5)
    (h : slotBits opc g [(x0.toNat, 29), (x1.toNat, 24)] = w) :
    (fld w 40 8).toNat = opc ∧ guardOf w = g ∧ fld w 29 5 = x0 ∧ fld w 24 5 = x1 ∧ zeroAt w 0 24 = true := by
  have hf : Fits 48 ((opc, 40, 8) :: (g.p.toNat, 35, 5) :: (flagCode g.n, 34, 1) :: [(x0.toNat, 29, 5), (x1.toNat, 24, 5)]) :=
    ⟨by decide, ho, by decide, g.p.isLt, by decide, flagCode_lt g.n, by decide, x0.isLt, by decide, x1.isLt, trivial⟩
  have hw := (congrArg BitVec.toNat h).symm.trans (slot_total (rfl) hf)
  exact ⟨opc_toNat (at_word hw (total_field hf (i := 0) rfl)), guard_eq (at_word hw (total_field hf (i := 1) rfl)) (at_word hw (total_field hf (i := 2) rfl)), fld_bits (at_word hw (total_field hf (i := 3) rfl)), fld_bits (at_word hw (total_field hf (i := 4) rfl)), zeroAt_true (at_word hw (total_gap hf rfl))⟩

theorem layout20 {opc : Nat} {w : BitVec 48} (ho : opc < 256) (g : Guard) (x0 : BitVec 5) (x1 : BitVec 6)
    (h : slotBits opc g [(x0.toNat, 29), (x1.toNat, 22)] = w) :
    (fld w 40 8).toNat = opc ∧ guardOf w = g ∧ fld w 29 5 = x0 ∧ fld w 22 6 = x1 ∧ zeroAt w 0 22 = true ∧ zeroAt w 28 1 = true := by
  have hf : Fits 48 ((opc, 40, 8) :: (g.p.toNat, 35, 5) :: (flagCode g.n, 34, 1) :: [(x0.toNat, 29, 5), (x1.toNat, 22, 6)]) :=
    ⟨by decide, ho, by decide, g.p.isLt, by decide, flagCode_lt g.n, by decide, x0.isLt, by decide, x1.isLt, trivial⟩
  have hw := (congrArg BitVec.toNat h).symm.trans (slot_total (rfl) hf)
  exact ⟨opc_toNat (at_word hw (total_field hf (i := 0) rfl)), guard_eq (at_word hw (total_field hf (i := 1) rfl)) (at_word hw (total_field hf (i := 2) rfl)), fld_bits (at_word hw (total_field hf (i := 3) rfl)), fld_bits (at_word hw (total_field hf (i := 4) rfl)), zeroAt_true (at_word hw (total_gap hf rfl)), zeroAt_true (at_word hw (total_gap hf rfl))⟩

theorem layout21 {opc : Nat} {w : BitVec 48} (ho : opc < 256) (g : Guard) (x0 : BitVec 6) (x1 : BitVec 6) (x2 : BitVec 6) (x3 : BitVec 6)
    (h : slotBits opc g [(x0.toNat, 28), (x1.toNat, 22), (x2.toNat, 16), (x3.toNat, 10)] = w) :
    (fld w 40 8).toNat = opc ∧ guardOf w = g ∧ fld w 28 6 = x0 ∧ fld w 22 6 = x1 ∧ fld w 16 6 = x2 ∧ fld w 10 6 = x3 ∧ zeroAt w 0 10 = true := by
  have hf : Fits 48 ((opc, 40, 8) :: (g.p.toNat, 35, 5) :: (flagCode g.n, 34, 1) :: [(x0.toNat, 28, 6), (x1.toNat, 22, 6), (x2.toNat, 16, 6), (x3.toNat, 10, 6)]) :=
    ⟨by decide, ho, by decide, g.p.isLt, by decide, flagCode_lt g.n, by decide, x0.isLt, by decide, x1.isLt, by decide, x2.isLt, by decide, x3.isLt, trivial⟩
  have hw := (congrArg BitVec.toNat h).symm.trans (slot_total (rfl) hf)
  exact ⟨opc_toNat (at_word hw (total_field hf (i := 0) rfl)), guard_eq (at_word hw (total_field hf (i := 1) rfl)) (at_word hw (total_field hf (i := 2) rfl)), fld_bits (at_word hw (total_field hf (i := 3) rfl)), fld_bits (at_word hw (total_field hf (i := 4) rfl)), fld_bits (at_word hw (total_field hf (i := 5) rfl)), fld_bits (at_word hw (total_field hf (i := 6) rfl)), zeroAt_true (at_word hw (total_gap hf rfl))⟩

theorem layout22 {opc : Nat} {w : BitVec 48} (ho : opc < 256) (g : Guard) (x0 : BitVec 6) (x1 : BitVec 8)
    (h : slotBits opc g [(x0.toNat, 28), (x1.toNat, 0)] = w) :
    (fld w 40 8).toNat = opc ∧ guardOf w = g ∧ fld w 28 6 = x0 ∧ fld w 0 8 = x1 ∧ zeroAt w 8 20 = true := by
  have hf : Fits 48 ((opc, 40, 8) :: (g.p.toNat, 35, 5) :: (flagCode g.n, 34, 1) :: [(x0.toNat, 28, 6), (x1.toNat, 0, 8)]) :=
    ⟨by decide, ho, by decide, g.p.isLt, by decide, flagCode_lt g.n, by decide, x0.isLt, by decide, x1.isLt, trivial⟩
  have hw := (congrArg BitVec.toNat h).symm.trans (slot_total (rfl) hf)
  exact ⟨opc_toNat (at_word hw (total_field hf (i := 0) rfl)), guard_eq (at_word hw (total_field hf (i := 1) rfl)) (at_word hw (total_field hf (i := 2) rfl)), fld_bits (at_word hw (total_field hf (i := 3) rfl)), fld_bits (at_word hw (total_field hf (i := 4) rfl)), zeroAt_true (at_word hw (total_gap hf rfl))⟩

theorem layout23 {opc : Nat} {w : BitVec 48} (ho : opc < 256) (g : Guard) (x0 : BitVec 6) (x1 : BitVec 8)
    (h : slotBits opc g [(x0.toNat, 22), (x1.toNat, 0)] = w) :
    (fld w 40 8).toNat = opc ∧ guardOf w = g ∧ fld w 22 6 = x0 ∧ fld w 0 8 = x1 ∧ zeroAt w 8 14 = true ∧ zeroAt w 28 6 = true := by
  have hf : Fits 48 ((opc, 40, 8) :: (g.p.toNat, 35, 5) :: (flagCode g.n, 34, 1) :: [(x0.toNat, 22, 6), (x1.toNat, 0, 8)]) :=
    ⟨by decide, ho, by decide, g.p.isLt, by decide, flagCode_lt g.n, by decide, x0.isLt, by decide, x1.isLt, trivial⟩
  have hw := (congrArg BitVec.toNat h).symm.trans (slot_total (rfl) hf)
  exact ⟨opc_toNat (at_word hw (total_field hf (i := 0) rfl)), guard_eq (at_word hw (total_field hf (i := 1) rfl)) (at_word hw (total_field hf (i := 2) rfl)), fld_bits (at_word hw (total_field hf (i := 3) rfl)), fld_bits (at_word hw (total_field hf (i := 4) rfl)), zeroAt_true (at_word hw (total_gap hf rfl)), zeroAt_true (at_word hw (total_gap hf rfl))⟩

theorem layout24 {opc : Nat} {w : BitVec 48} (ho : opc < 256) (g : Guard) (x0 : BitVec 5)
    (h : slotBits opc g [(x0.toNat, 29)] = w) :
    (fld w 40 8).toNat = opc ∧ guardOf w = g ∧ fld w 29 5 = x0 ∧ zeroAt w 0 29 = true := by
  have hf : Fits 48 ((opc, 40, 8) :: (g.p.toNat, 35, 5) :: (flagCode g.n, 34, 1) :: [(x0.toNat, 29, 5)]) :=
    ⟨by decide, ho, by decide, g.p.isLt, by decide, flagCode_lt g.n, by decide, x0.isLt, trivial⟩
  have hw := (congrArg BitVec.toNat h).symm.trans (slot_total (rfl) hf)
  exact ⟨opc_toNat (at_word hw (total_field hf (i := 0) rfl)), guard_eq (at_word hw (total_field hf (i := 1) rfl)) (at_word hw (total_field hf (i := 2) rfl)), fld_bits (at_word hw (total_field hf (i := 3) rfl)), zeroAt_true (at_word hw (total_gap hf rfl))⟩

theorem layout25 {opc : Nat} {w : BitVec 48} (ho : opc < 256) (g : Guard) (x0 : BitVec 8) (x1 : BitVec 8) (x2 : BitVec 8) (x3 : VType)
    (h : slotBits opc g [(x0.toNat, 26), (x1.toNat, 18), (x2.toNat, 10), (vtypeCode x3, 8)] = w) :
    (fld w 40 8).toNat = opc ∧ guardOf w = g ∧ fld w 26 8 = x0 ∧ fld w 18 8 = x1 ∧ fld w 10 8 = x2 ∧ vtypeOf (fld w 8 2) = x3 ∧ zeroAt w 0 8 = true := by
  have hf : Fits 48 ((opc, 40, 8) :: (g.p.toNat, 35, 5) :: (flagCode g.n, 34, 1) :: [(x0.toNat, 26, 8), (x1.toNat, 18, 8), (x2.toNat, 10, 8), (vtypeCode x3, 8, 2)]) :=
    ⟨by decide, ho, by decide, g.p.isLt, by decide, flagCode_lt g.n, by decide, x0.isLt, by decide, x1.isLt, by decide, x2.isLt, by decide, vtypeCode_lt x3, trivial⟩
  have hw := (congrArg BitVec.toNat h).symm.trans (slot_total (rfl) hf)
  exact ⟨opc_toNat (at_word hw (total_field hf (i := 0) rfl)), guard_eq (at_word hw (total_field hf (i := 1) rfl)) (at_word hw (total_field hf (i := 2) rfl)), fld_bits (at_word hw (total_field hf (i := 3) rfl)), fld_bits (at_word hw (total_field hf (i := 4) rfl)), fld_bits (at_word hw (total_field hf (i := 5) rfl)), (congrArg vtypeOf (fld_eq (v := vtypeCode x3) (at_word hw (total_field hf (i := 6) rfl)))).trans (vtypeOf_code x3), zeroAt_true (at_word hw (total_gap hf rfl))⟩

theorem layout26 {opc : Nat} {w : BitVec 48} (ho : opc < 256) (g : Guard) (x0 : BitVec 8) (x1 : BitVec 8) (x2 : BitVec 8) (x3 : VType) (x4 : BitVec 8)
    (h : slotBits opc g [(x0.toNat, 26), (x1.toNat, 18), (x2.toNat, 10), (vtypeCode x3, 8), (x4.toNat, 0)] = w) :
    (fld w 40 8).toNat = opc ∧ guardOf w = g ∧ fld w 26 8 = x0 ∧ fld w 18 8 = x1 ∧ fld w 10 8 = x2 ∧ vtypeOf (fld w 8 2) = x3 ∧ fld w 0 8 = x4 := by
  have hf : Fits 48 ((opc, 40, 8) :: (g.p.toNat, 35, 5) :: (flagCode g.n, 34, 1) :: [(x0.toNat, 26, 8), (x1.toNat, 18, 8), (x2.toNat, 10, 8), (vtypeCode x3, 8, 2), (x4.toNat, 0, 8)]) :=
    ⟨by decide, ho, by decide, g.p.isLt, by decide, flagCode_lt g.n, by decide, x0.isLt, by decide, x1.isLt, by decide, x2.isLt, by decide, vtypeCode_lt x3, by decide, x4.isLt, trivial⟩
  have hw := (congrArg BitVec.toNat h).symm.trans (slot_total (rfl) hf)
  exact ⟨opc_toNat (at_word hw (total_field hf (i := 0) rfl)), guard_eq (at_word hw (total_field hf (i := 1) rfl)) (at_word hw (total_field hf (i := 2) rfl)), fld_bits (at_word hw (total_field hf (i := 3) rfl)), fld_bits (at_word hw (total_field hf (i := 4) rfl)), fld_bits (at_word hw (total_field hf (i := 5) rfl)), (congrArg vtypeOf (fld_eq (v := vtypeCode x3) (at_word hw (total_field hf (i := 6) rfl)))).trans (vtypeOf_code x3), fld_bits (at_word hw (total_field hf (i := 7) rfl))⟩

theorem layout27 {opc : Nat} {w : BitVec 48} (ho : opc < 256) (g : Guard) (x0 : BitVec 8) (x1 : BitVec 8) (x2 : VType)
    (h : slotBits opc g [(x0.toNat, 26), (x1.toNat, 18), (vtypeCode x2, 8)] = w) :
    (fld w 40 8).toNat = opc ∧ guardOf w = g ∧ fld w 26 8 = x0 ∧ fld w 18 8 = x1 ∧ vtypeOf (fld w 8 2) = x2 ∧ zeroAt w 0 8 = true ∧ zeroAt w 10 8 = true := by
  have hf : Fits 48 ((opc, 40, 8) :: (g.p.toNat, 35, 5) :: (flagCode g.n, 34, 1) :: [(x0.toNat, 26, 8), (x1.toNat, 18, 8), (vtypeCode x2, 8, 2)]) :=
    ⟨by decide, ho, by decide, g.p.isLt, by decide, flagCode_lt g.n, by decide, x0.isLt, by decide, x1.isLt, by decide, vtypeCode_lt x2, trivial⟩
  have hw := (congrArg BitVec.toNat h).symm.trans (slot_total (rfl) hf)
  exact ⟨opc_toNat (at_word hw (total_field hf (i := 0) rfl)), guard_eq (at_word hw (total_field hf (i := 1) rfl)) (at_word hw (total_field hf (i := 2) rfl)), fld_bits (at_word hw (total_field hf (i := 3) rfl)), fld_bits (at_word hw (total_field hf (i := 4) rfl)), (congrArg vtypeOf (fld_eq (v := vtypeCode x2) (at_word hw (total_field hf (i := 5) rfl)))).trans (vtypeOf_code x2), zeroAt_true (at_word hw (total_gap hf rfl)), zeroAt_true (at_word hw (total_gap hf rfl))⟩

theorem layout28 {opc : Nat} {w : BitVec 48} (ho : opc < 256) (g : Guard) (x0 : BitVec 5) (x1 : BitVec 8) (x2 : BitVec 8) (x3 : VType)
    (h : slotBits opc g [(x0.toNat, 29), (x1.toNat, 18), (x2.toNat, 10), (vtypeCode x3, 8)] = w) :
    (fld w 40 8).toNat = opc ∧ guardOf w = g ∧ fld w 29 5 = x0 ∧ fld w 18 8 = x1 ∧ fld w 10 8 = x2 ∧ vtypeOf (fld w 8 2) = x3 ∧ zeroAt w 0 8 = true ∧ zeroAt w 26 3 = true := by
  have hf : Fits 48 ((opc, 40, 8) :: (g.p.toNat, 35, 5) :: (flagCode g.n, 34, 1) :: [(x0.toNat, 29, 5), (x1.toNat, 18, 8), (x2.toNat, 10, 8), (vtypeCode x3, 8, 2)]) :=
    ⟨by decide, ho, by decide, g.p.isLt, by decide, flagCode_lt g.n, by decide, x0.isLt, by decide, x1.isLt, by decide, x2.isLt, by decide, vtypeCode_lt x3, trivial⟩
  have hw := (congrArg BitVec.toNat h).symm.trans (slot_total (rfl) hf)
  exact ⟨opc_toNat (at_word hw (total_field hf (i := 0) rfl)), guard_eq (at_word hw (total_field hf (i := 1) rfl)) (at_word hw (total_field hf (i := 2) rfl)), fld_bits (at_word hw (total_field hf (i := 3) rfl)), fld_bits (at_word hw (total_field hf (i := 4) rfl)), fld_bits (at_word hw (total_field hf (i := 5) rfl)), (congrArg vtypeOf (fld_eq (v := vtypeCode x3) (at_word hw (total_field hf (i := 6) rfl)))).trans (vtypeOf_code x3), zeroAt_true (at_word hw (total_gap hf rfl)), zeroAt_true (at_word hw (total_gap hf rfl))⟩

theorem layout29 {opc : Nat} {w : BitVec 48} (ho : opc < 256) (g : Guard) (x0 : BitVec 8) (x1 : BitVec 8) (x2 : BitVec 8) (x3 : VType) (x4 : BitVec 5)
    (h : slotBits opc g [(x0.toNat, 26), (x1.toNat, 18), (x2.toNat, 10), (vtypeCode x3, 8), (x4.toNat, 3)] = w) :
    (fld w 40 8).toNat = opc ∧ guardOf w = g ∧ fld w 26 8 = x0 ∧ fld w 18 8 = x1 ∧ fld w 10 8 = x2 ∧ vtypeOf (fld w 8 2) = x3 ∧ fld w 3 5 = x4 ∧ zeroAt w 0 3 = true := by
  have hf : Fits 48 ((opc, 40, 8) :: (g.p.toNat, 35, 5) :: (flagCode g.n, 34, 1) :: [(x0.toNat, 26, 8), (x1.toNat, 18, 8), (x2.toNat, 10, 8), (vtypeCode x3, 8, 2), (x4.toNat, 3, 5)]) :=
    ⟨by decide, ho, by decide, g.p.isLt, by decide, flagCode_lt g.n, by decide, x0.isLt, by decide, x1.isLt, by decide, x2.isLt, by decide, vtypeCode_lt x3, by decide, x4.isLt, trivial⟩
  have hw := (congrArg BitVec.toNat h).symm.trans (slot_total (rfl) hf)
  exact ⟨opc_toNat (at_word hw (total_field hf (i := 0) rfl)), guard_eq (at_word hw (total_field hf (i := 1) rfl)) (at_word hw (total_field hf (i := 2) rfl)), fld_bits (at_word hw (total_field hf (i := 3) rfl)), fld_bits (at_word hw (total_field hf (i := 4) rfl)), fld_bits (at_word hw (total_field hf (i := 5) rfl)), (congrArg vtypeOf (fld_eq (v := vtypeCode x3) (at_word hw (total_field hf (i := 6) rfl)))).trans (vtypeOf_code x3), fld_bits (at_word hw (total_field hf (i := 7) rfl)), zeroAt_true (at_word hw (total_gap hf rfl))⟩

theorem layout30 {opc : Nat} {w : BitVec 48} (ho : opc < 256) (g : Guard) (x0 : BitVec 8) (x1 : VType) (x2 : BitVec 6)
    (h : slotBits opc g [(x0.toNat, 26), (vtypeCode x1, 8), (x2.toNat, 0)] = w) :
    (fld w 40 8).toNat = opc ∧ guardOf w = g ∧ fld w 26 8 = x0 ∧ vtypeOf (fld w 8 2) = x1 ∧ fld w 0 6 = x2 ∧ zeroAt w 6 2 = true ∧ zeroAt w 10 16 = true := by
  have hf : Fits 48 ((opc, 40, 8) :: (g.p.toNat, 35, 5) :: (flagCode g.n, 34, 1) :: [(x0.toNat, 26, 8), (vtypeCode x1, 8, 2), (x2.toNat, 0, 6)]) :=
    ⟨by decide, ho, by decide, g.p.isLt, by decide, flagCode_lt g.n, by decide, x0.isLt, by decide, vtypeCode_lt x1, by decide, x2.isLt, trivial⟩
  have hw := (congrArg BitVec.toNat h).symm.trans (slot_total (rfl) hf)
  exact ⟨opc_toNat (at_word hw (total_field hf (i := 0) rfl)), guard_eq (at_word hw (total_field hf (i := 1) rfl)) (at_word hw (total_field hf (i := 2) rfl)), fld_bits (at_word hw (total_field hf (i := 3) rfl)), (congrArg vtypeOf (fld_eq (v := vtypeCode x1) (at_word hw (total_field hf (i := 4) rfl)))).trans (vtypeOf_code x1), fld_bits (at_word hw (total_field hf (i := 5) rfl)), zeroAt_true (at_word hw (total_gap hf rfl)), zeroAt_true (at_word hw (total_gap hf rfl))⟩

theorem layout31 {opc : Nat} {w : BitVec 48} (ho : opc < 256) (g : Guard) (x0 : BitVec 8) (x1 : VType)
    (h : slotBits opc g [(x0.toNat, 26), (vtypeCode x1, 8)] = w) :
    (fld w 40 8).toNat = opc ∧ guardOf w = g ∧ fld w 26 8 = x0 ∧ vtypeOf (fld w 8 2) = x1 ∧ zeroAt w 0 8 = true ∧ zeroAt w 10 16 = true := by
  have hf : Fits 48 ((opc, 40, 8) :: (g.p.toNat, 35, 5) :: (flagCode g.n, 34, 1) :: [(x0.toNat, 26, 8), (vtypeCode x1, 8, 2)]) :=
    ⟨by decide, ho, by decide, g.p.isLt, by decide, flagCode_lt g.n, by decide, x0.isLt, by decide, vtypeCode_lt x1, trivial⟩
  have hw := (congrArg BitVec.toNat h).symm.trans (slot_total (rfl) hf)
  exact ⟨opc_toNat (at_word hw (total_field hf (i := 0) rfl)), guard_eq (at_word hw (total_field hf (i := 1) rfl)) (at_word hw (total_field hf (i := 2) rfl)), fld_bits (at_word hw (total_field hf (i := 3) rfl)), (congrArg vtypeOf (fld_eq (v := vtypeCode x1) (at_word hw (total_field hf (i := 4) rfl)))).trans (vtypeOf_code x1), zeroAt_true (at_word hw (total_gap hf rfl)), zeroAt_true (at_word hw (total_gap hf rfl))⟩

theorem layout32 {opc : Nat} {w : BitVec 48} (ho : opc < 256) (g : Guard) (x0 : BitVec 8) (x1 : BitVec 8) (x2 : VType) (x3 : BitVec 6)
    (h : slotBits opc g [(x0.toNat, 26), (x1.toNat, 18), (vtypeCode x2, 8), (x3.toNat, 0)] = w) :
    (fld w 40 8).toNat = opc ∧ guardOf w = g ∧ fld w 26 8 = x0 ∧ fld w 18 8 = x1 ∧ vtypeOf (fld w 8 2) = x2 ∧ fld w 0 6 = x3 ∧ zeroAt w 6 2 = true ∧ zeroAt w 10 8 = true := by
  have hf : Fits 48 ((opc, 40, 8) :: (g.p.toNat, 35, 5) :: (flagCode g.n, 34, 1) :: [(x0.toNat, 26, 8), (x1.toNat, 18, 8), (vtypeCode x2, 8, 2), (x3.toNat, 0, 6)]) :=
    ⟨by decide, ho, by decide, g.p.isLt, by decide, flagCode_lt g.n, by decide, x0.isLt, by decide, x1.isLt, by decide, vtypeCode_lt x2, by decide, x3.isLt, trivial⟩
  have hw := (congrArg BitVec.toNat h).symm.trans (slot_total (rfl) hf)
  exact ⟨opc_toNat (at_word hw (total_field hf (i := 0) rfl)), guard_eq (at_word hw (total_field hf (i := 1) rfl)) (at_word hw (total_field hf (i := 2) rfl)), fld_bits (at_word hw (total_field hf (i := 3) rfl)), fld_bits (at_word hw (total_field hf (i := 4) rfl)), (congrArg vtypeOf (fld_eq (v := vtypeCode x2) (at_word hw (total_field hf (i := 5) rfl)))).trans (vtypeOf_code x2), fld_bits (at_word hw (total_field hf (i := 6) rfl)), zeroAt_true (at_word hw (total_gap hf rfl)), zeroAt_true (at_word hw (total_gap hf rfl))⟩

theorem layout33 {opc : Nat} {w : BitVec 48} (ho : opc < 256) (g : Guard) (x0 : BitVec 8) (x1 : BitVec 8) (x2 : BitVec 8) (x3 : VType) (x4 : BitVec 6)
    (h : slotBits opc g [(x0.toNat, 26), (x1.toNat, 18), (x2.toNat, 10), (vtypeCode x3, 8), (x4.toNat, 0)] = w) :
    (fld w 40 8).toNat = opc ∧ guardOf w = g ∧ fld w 26 8 = x0 ∧ fld w 18 8 = x1 ∧ fld w 10 8 = x2 ∧ vtypeOf (fld w 8 2) = x3 ∧ fld w 0 6 = x4 ∧ zeroAt w 6 2 = true := by
  have hf : Fits 48 ((opc, 40, 8) :: (g.p.toNat, 35, 5) :: (flagCode g.n, 34, 1) :: [(x0.toNat, 26, 8), (x1.toNat, 18, 8), (x2.toNat, 10, 8), (vtypeCode x3, 8, 2), (x4.toNat, 0, 6)]) :=
    ⟨by decide, ho, by decide, g.p.isLt, by decide, flagCode_lt g.n, by decide, x0.isLt, by decide, x1.isLt, by decide, x2.isLt, by decide, vtypeCode_lt x3, by decide, x4.isLt, trivial⟩
  have hw := (congrArg BitVec.toNat h).symm.trans (slot_total (rfl) hf)
  exact ⟨opc_toNat (at_word hw (total_field hf (i := 0) rfl)), guard_eq (at_word hw (total_field hf (i := 1) rfl)) (at_word hw (total_field hf (i := 2) rfl)), fld_bits (at_word hw (total_field hf (i := 3) rfl)), fld_bits (at_word hw (total_field hf (i := 4) rfl)), fld_bits (at_word hw (total_field hf (i := 5) rfl)), (congrArg vtypeOf (fld_eq (v := vtypeCode x3) (at_word hw (total_field hf (i := 6) rfl)))).trans (vtypeOf_code x3), fld_bits (at_word hw (total_field hf (i := 7) rfl)), zeroAt_true (at_word hw (total_gap hf rfl))⟩

theorem layout34 {opc : Nat} {w : BitVec 48} (ho : opc < 256) (g : Guard) (x0 : BitVec 6) (x1 : BitVec 8) (x2 : BitVec 6) (x3 : VType)
    (h : slotBits opc g [(x0.toNat, 28), (x1.toNat, 18), (x2.toNat, 12), (vtypeCode x3, 8)] = w) :
    (fld w 40 8).toNat = opc ∧ guardOf w = g ∧ fld w 28 6 = x0 ∧ fld w 18 8 = x1 ∧ fld w 12 6 = x2 ∧ vtypeOf (fld w 8 2) = x3 ∧ zeroAt w 0 8 = true ∧ zeroAt w 10 2 = true ∧ zeroAt w 26 2 = true := by
  have hf : Fits 48 ((opc, 40, 8) :: (g.p.toNat, 35, 5) :: (flagCode g.n, 34, 1) :: [(x0.toNat, 28, 6), (x1.toNat, 18, 8), (x2.toNat, 12, 6), (vtypeCode x3, 8, 2)]) :=
    ⟨by decide, ho, by decide, g.p.isLt, by decide, flagCode_lt g.n, by decide, x0.isLt, by decide, x1.isLt, by decide, x2.isLt, by decide, vtypeCode_lt x3, trivial⟩
  have hw := (congrArg BitVec.toNat h).symm.trans (slot_total (rfl) hf)
  exact ⟨opc_toNat (at_word hw (total_field hf (i := 0) rfl)), guard_eq (at_word hw (total_field hf (i := 1) rfl)) (at_word hw (total_field hf (i := 2) rfl)), fld_bits (at_word hw (total_field hf (i := 3) rfl)), fld_bits (at_word hw (total_field hf (i := 4) rfl)), fld_bits (at_word hw (total_field hf (i := 5) rfl)), (congrArg vtypeOf (fld_eq (v := vtypeCode x3) (at_word hw (total_field hf (i := 6) rfl)))).trans (vtypeOf_code x3), zeroAt_true (at_word hw (total_gap hf rfl)), zeroAt_true (at_word hw (total_gap hf rfl)), zeroAt_true (at_word hw (total_gap hf rfl))⟩

theorem layout35 {opc : Nat} {w : BitVec 48} (ho : opc < 256) (g : Guard) (x0 : BitVec 8) (x1 : BitVec 6) (x2 : BitVec 6) (x3 : VType)
    (h : slotBits opc g [(x0.toNat, 26), (x1.toNat, 20), (x2.toNat, 12), (vtypeCode x3, 8)] = w) :
    (fld w 40 8).toNat = opc ∧ guardOf w = g ∧ fld w 26 8 = x0 ∧ fld w 20 6 = x1 ∧ fld w 12 6 = x2 ∧ vtypeOf (fld w 8 2) = x3 ∧ zeroAt w 0 8 = true ∧ zeroAt w 10 2 = true ∧ zeroAt w 18 2 = true := by
  have hf : Fits 48 ((opc, 40, 8) :: (g.p.toNat, 35, 5) :: (flagCode g.n, 34, 1) :: [(x0.toNat, 26, 8), (x1.toNat, 20, 6), (x2.toNat, 12, 6), (vtypeCode x3, 8, 2)]) :=
    ⟨by decide, ho, by decide, g.p.isLt, by decide, flagCode_lt g.n, by decide, x0.isLt, by decide, x1.isLt, by decide, x2.isLt, by decide, vtypeCode_lt x3, trivial⟩
  have hw := (congrArg BitVec.toNat h).symm.trans (slot_total (rfl) hf)
  exact ⟨opc_toNat (at_word hw (total_field hf (i := 0) rfl)), guard_eq (at_word hw (total_field hf (i := 1) rfl)) (at_word hw (total_field hf (i := 2) rfl)), fld_bits (at_word hw (total_field hf (i := 3) rfl)), fld_bits (at_word hw (total_field hf (i := 4) rfl)), fld_bits (at_word hw (total_field hf (i := 5) rfl)), (congrArg vtypeOf (fld_eq (v := vtypeCode x3) (at_word hw (total_field hf (i := 6) rfl)))).trans (vtypeOf_code x3), zeroAt_true (at_word hw (total_gap hf rfl)), zeroAt_true (at_word hw (total_gap hf rfl)), zeroAt_true (at_word hw (total_gap hf rfl))⟩

theorem layout36 {opc : Nat} {w : BitVec 48} (ho : opc < 256) (g : Guard) (x0 : BitVec 8) (x1 : BitVec 8) (x2 : VType) (x3 : VType)
    (h : slotBits opc g [(x0.toNat, 26), (x1.toNat, 18), (vtypeCode x2, 8), (vtypeCode x3, 6)] = w) :
    (fld w 40 8).toNat = opc ∧ guardOf w = g ∧ fld w 26 8 = x0 ∧ fld w 18 8 = x1 ∧ vtypeOf (fld w 8 2) = x2 ∧ vtypeOf (fld w 6 2) = x3 ∧ zeroAt w 0 6 = true ∧ zeroAt w 10 8 = true := by
  have hf : Fits 48 ((opc, 40, 8) :: (g.p.toNat, 35, 5) :: (flagCode g.n, 34, 1) :: [(x0.toNat, 26, 8), (x1.toNat, 18, 8), (vtypeCode x2, 8, 2), (vtypeCode x3, 6, 2)]) :=
    ⟨by decide, ho, by decide, g.p.isLt, by decide, flagCode_lt g.n, by decide, x0.isLt, by decide, x1.isLt, by decide, vtypeCode_lt x2, by decide, vtypeCode_lt x3, trivial⟩
  have hw := (congrArg BitVec.toNat h).symm.trans (slot_total (rfl) hf)
  exact ⟨opc_toNat (at_word hw (total_field hf (i := 0) rfl)), guard_eq (at_word hw (total_field hf (i := 1) rfl)) (at_word hw (total_field hf (i := 2) rfl)), fld_bits (at_word hw (total_field hf (i := 3) rfl)), fld_bits (at_word hw (total_field hf (i := 4) rfl)), (congrArg vtypeOf (fld_eq (v := vtypeCode x2) (at_word hw (total_field hf (i := 5) rfl)))).trans (vtypeOf_code x2), (congrArg vtypeOf (fld_eq (v := vtypeCode x3) (at_word hw (total_field hf (i := 6) rfl)))).trans (vtypeOf_code x3), zeroAt_true (at_word hw (total_gap hf rfl)), zeroAt_true (at_word hw (total_gap hf rfl))⟩

theorem layout37 {opc : Nat} {w : BitVec 48} (ho : opc < 256) (g : Guard) (x0 : BitVec 8) (x1 : BitVec 8) (x2 : BitVec 8) (x3 : VType) (x4 : VType)
    (h : slotBits opc g [(x0.toNat, 26), (x1.toNat, 18), (x2.toNat, 10), (vtypeCode x3, 8), (vtypeCode x4, 6)] = w) :
    (fld w 40 8).toNat = opc ∧ guardOf w = g ∧ fld w 26 8 = x0 ∧ fld w 18 8 = x1 ∧ fld w 10 8 = x2 ∧ vtypeOf (fld w 8 2) = x3 ∧ vtypeOf (fld w 6 2) = x4 ∧ zeroAt w 0 6 = true := by
  have hf : Fits 48 ((opc, 40, 8) :: (g.p.toNat, 35, 5) :: (flagCode g.n, 34, 1) :: [(x0.toNat, 26, 8), (x1.toNat, 18, 8), (x2.toNat, 10, 8), (vtypeCode x3, 8, 2), (vtypeCode x4, 6, 2)]) :=
    ⟨by decide, ho, by decide, g.p.isLt, by decide, flagCode_lt g.n, by decide, x0.isLt, by decide, x1.isLt, by decide, x2.isLt, by decide, vtypeCode_lt x3, by decide, vtypeCode_lt x4, trivial⟩
  have hw := (congrArg BitVec.toNat h).symm.trans (slot_total (rfl) hf)
  exact ⟨opc_toNat (at_word hw (total_field hf (i := 0) rfl)), guard_eq (at_word hw (total_field hf (i := 1) rfl)) (at_word hw (total_field hf (i := 2) rfl)), fld_bits (at_word hw (total_field hf (i := 3) rfl)), fld_bits (at_word hw (total_field hf (i := 4) rfl)), fld_bits (at_word hw (total_field hf (i := 5) rfl)), (congrArg vtypeOf (fld_eq (v := vtypeCode x3) (at_word hw (total_field hf (i := 6) rfl)))).trans (vtypeOf_code x3), (congrArg vtypeOf (fld_eq (v := vtypeCode x4) (at_word hw (total_field hf (i := 7) rfl)))).trans (vtypeOf_code x4), zeroAt_true (at_word hw (total_gap hf rfl))⟩

theorem layout38 {opc : Nat} {w : BitVec 48} (ho : opc < 256) (g : Guard) (x0 : BitVec 8) (x1 : BitVec 8) (x2 : VType) (x3 : VType) (x4 : Bool)
    (h : slotBits opc g [(x0.toNat, 26), (x1.toNat, 18), (vtypeCode x2, 8), (vtypeCode x3, 6), (flagCode x4, 5)] = w) :
    (fld w 40 8).toNat = opc ∧ guardOf w = g ∧ fld w 26 8 = x0 ∧ fld w 18 8 = x1 ∧ vtypeOf (fld w 8 2) = x2 ∧ vtypeOf (fld w 6 2) = x3 ∧ bitAt w 5 = x4 ∧ zeroAt w 0 5 = true ∧ zeroAt w 10 8 = true := by
  have hf : Fits 48 ((opc, 40, 8) :: (g.p.toNat, 35, 5) :: (flagCode g.n, 34, 1) :: [(x0.toNat, 26, 8), (x1.toNat, 18, 8), (vtypeCode x2, 8, 2), (vtypeCode x3, 6, 2), (flagCode x4, 5, 1)]) :=
    ⟨by decide, ho, by decide, g.p.isLt, by decide, flagCode_lt g.n, by decide, x0.isLt, by decide, x1.isLt, by decide, vtypeCode_lt x2, by decide, vtypeCode_lt x3, by decide, flagCode_lt x4, trivial⟩
  have hw := (congrArg BitVec.toNat h).symm.trans (slot_total (rfl) hf)
  exact ⟨opc_toNat (at_word hw (total_field hf (i := 0) rfl)), guard_eq (at_word hw (total_field hf (i := 1) rfl)) (at_word hw (total_field hf (i := 2) rfl)), fld_bits (at_word hw (total_field hf (i := 3) rfl)), fld_bits (at_word hw (total_field hf (i := 4) rfl)), (congrArg vtypeOf (fld_eq (v := vtypeCode x2) (at_word hw (total_field hf (i := 5) rfl)))).trans (vtypeOf_code x2), (congrArg vtypeOf (fld_eq (v := vtypeCode x3) (at_word hw (total_field hf (i := 6) rfl)))).trans (vtypeOf_code x3), bitAt_flag (at_word hw (total_field hf (i := 7) rfl)), zeroAt_true (at_word hw (total_gap hf rfl)), zeroAt_true (at_word hw (total_gap hf rfl))⟩

theorem layout39 {opc : Nat} {w : BitVec 48} (ho : opc < 256) (g : Guard) (x0 : BitVec 2) (x1 : BitVec 9)
    (h : slotBits opc g [(x0.toNat, 20), (x1.toNat, 4)] = w) :
    (fld w 40 8).toNat = opc ∧ guardOf w = g ∧ fld w 20 2 = x0 ∧ fld w 4 9 = x1 ∧ zeroAt w 0 4 = true ∧ zeroAt w 13 7 = true ∧ zeroAt w 22 12 = true := by
  have hf : Fits 48 ((opc, 40, 8) :: (g.p.toNat, 35, 5) :: (flagCode g.n, 34, 1) :: [(x0.toNat, 20, 2), (x1.toNat, 4, 9)]) :=
    ⟨by decide, ho, by decide, g.p.isLt, by decide, flagCode_lt g.n, by decide, x0.isLt, by decide, x1.isLt, trivial⟩
  have hw := (congrArg BitVec.toNat h).symm.trans (slot_total (rfl) hf)
  exact ⟨opc_toNat (at_word hw (total_field hf (i := 0) rfl)), guard_eq (at_word hw (total_field hf (i := 1) rfl)) (at_word hw (total_field hf (i := 2) rfl)), fld_bits (at_word hw (total_field hf (i := 3) rfl)), fld_bits (at_word hw (total_field hf (i := 4) rfl)), zeroAt_true (at_word hw (total_gap hf rfl)), zeroAt_true (at_word hw (total_gap hf rfl)), zeroAt_true (at_word hw (total_gap hf rfl))⟩

theorem layout40 {opc : Nat} {w : BitVec 48} (ho : opc < 256) (g : Guard) (x0 : BitVec 9)
    (h : slotBits opc g [(x0.toNat, 0)] = w) :
    (fld w 40 8).toNat = opc ∧ guardOf w = g ∧ fld w 0 9 = x0 ∧ zeroAt w 9 25 = true := by
  have hf : Fits 48 ((opc, 40, 8) :: (g.p.toNat, 35, 5) :: (flagCode g.n, 34, 1) :: [(x0.toNat, 0, 9)]) :=
    ⟨by decide, ho, by decide, g.p.isLt, by decide, flagCode_lt g.n, by decide, x0.isLt, trivial⟩
  have hw := (congrArg BitVec.toNat h).symm.trans (slot_total (rfl) hf)
  exact ⟨opc_toNat (at_word hw (total_field hf (i := 0) rfl)), guard_eq (at_word hw (total_field hf (i := 1) rfl)) (at_word hw (total_field hf (i := 2) rfl)), fld_bits (at_word hw (total_field hf (i := 3) rfl)), zeroAt_true (at_word hw (total_gap hf rfl))⟩

theorem layout41 {opc : Nat} {w : BitVec 48} (ho : opc < 256) (g : Guard) (x0 : BitVec 12) (x1 : BitVec 2) (x2 : ElemFmt) (x3 : Option (BitVec 2 × BitVec 9))
    (h : slotBits opc g [(x0.toNat, 22), (x1.toNat, 20), (elemCode x2, 16), (pushCode x3, 4)] = w) :
    (fld w 40 8).toNat = opc ∧ guardOf w = g ∧ fld w 22 12 = x0 ∧ fld w 20 2 = x1 ∧ elemOf (fld w 16 4) = some x2 ∧ pushOf (fld w 4 12) = some x3 ∧ zeroAt w 0 4 = true := by
  have hf : Fits 48 ((opc, 40, 8) :: (g.p.toNat, 35, 5) :: (flagCode g.n, 34, 1) :: [(x0.toNat, 22, 12), (x1.toNat, 20, 2), (elemCode x2, 16, 4), (pushCode x3, 4, 12)]) :=
    ⟨by decide, ho, by decide, g.p.isLt, by decide, flagCode_lt g.n, by decide, x0.isLt, by decide, x1.isLt, by decide, elemCode_lt x2, by decide, pushCode_lt x3, trivial⟩
  have hw := (congrArg BitVec.toNat h).symm.trans (slot_total (rfl) hf)
  exact ⟨opc_toNat (at_word hw (total_field hf (i := 0) rfl)), guard_eq (at_word hw (total_field hf (i := 1) rfl)) (at_word hw (total_field hf (i := 2) rfl)), fld_bits (at_word hw (total_field hf (i := 3) rfl)), fld_bits (at_word hw (total_field hf (i := 4) rfl)), (congrArg elemOf (fld_eq (v := elemCode x2) (at_word hw (total_field hf (i := 5) rfl)))).trans (elemOf_code x2), (congrArg pushOf (fld_eq (v := pushCode x3) (at_word hw (total_field hf (i := 6) rfl)))).trans (pushOf_code x3), zeroAt_true (at_word hw (total_gap hf rfl))⟩

theorem layout42 {opc : Nat} {w : BitVec 48} (ho : opc < 256) (g : Guard) (x0 : BitVec 12) (x1 : BitVec 2) (x2 : Option (BitVec 2 × BitVec 9))
    (h : slotBits opc g [(x0.toNat, 22), (x1.toNat, 20), (pushCode x2, 4)] = w) :
    (fld w 40 8).toNat = opc ∧ guardOf w = g ∧ fld w 22 12 = x0 ∧ fld w 20 2 = x1 ∧ pushOf (fld w 4 12) = some x2 ∧ zeroAt w 0 4 = true ∧ zeroAt w 16 4 = true := by
  have hf : Fits 48 ((opc, 40, 8) :: (g.p.toNat, 35, 5) :: (flagCode g.n, 34, 1) :: [(x0.toNat, 22, 12), (x1.toNat, 20, 2), (pushCode x2, 4, 12)]) :=
    ⟨by decide, ho, by decide, g.p.isLt, by decide, flagCode_lt g.n, by decide, x0.isLt, by decide, x1.isLt, by decide, pushCode_lt x2, trivial⟩
  have hw := (congrArg BitVec.toNat h).symm.trans (slot_total (rfl) hf)
  exact ⟨opc_toNat (at_word hw (total_field hf (i := 0) rfl)), guard_eq (at_word hw (total_field hf (i := 1) rfl)) (at_word hw (total_field hf (i := 2) rfl)), fld_bits (at_word hw (total_field hf (i := 3) rfl)), fld_bits (at_word hw (total_field hf (i := 4) rfl)), (congrArg pushOf (fld_eq (v := pushCode x2) (at_word hw (total_field hf (i := 5) rfl)))).trans (pushOf_code x2), zeroAt_true (at_word hw (total_gap hf rfl)), zeroAt_true (at_word hw (total_gap hf rfl))⟩

theorem layout43 {opc : Nat} {w : BitVec 48} (ho : opc < 256) (g : Guard) (x0 : BitVec 12) (x1 : DrainFmt) (x2 : BitVec 6) (x3 : BitVec 13)
    (h : slotBits opc g [(x0.toNat, 22), (drainCode x1, 19), (x2.toNat, 13), (x3.toNat, 0)] = w) :
    (fld w 40 8).toNat = opc ∧ guardOf w = g ∧ fld w 22 12 = x0 ∧ drainOf (fld w 19 3) = some x1 ∧ fld w 13 6 = x2 ∧ fld w 0 13 = x3 := by
  have hf : Fits 48 ((opc, 40, 8) :: (g.p.toNat, 35, 5) :: (flagCode g.n, 34, 1) :: [(x0.toNat, 22, 12), (drainCode x1, 19, 3), (x2.toNat, 13, 6), (x3.toNat, 0, 13)]) :=
    ⟨by decide, ho, by decide, g.p.isLt, by decide, flagCode_lt g.n, by decide, x0.isLt, by decide, drainCode_lt x1, by decide, x2.isLt, by decide, x3.isLt, trivial⟩
  have hw := (congrArg BitVec.toNat h).symm.trans (slot_total (rfl) hf)
  exact ⟨opc_toNat (at_word hw (total_field hf (i := 0) rfl)), guard_eq (at_word hw (total_field hf (i := 1) rfl)) (at_word hw (total_field hf (i := 2) rfl)), fld_bits (at_word hw (total_field hf (i := 3) rfl)), (congrArg drainOf (fld_eq (v := drainCode x1) (at_word hw (total_field hf (i := 4) rfl)))).trans (drainOf_code x1), fld_bits (at_word hw (total_field hf (i := 5) rfl)), fld_bits (at_word hw (total_field hf (i := 6) rfl))⟩

theorem layout44 {opc : Nat} {w : BitVec 48} (ho : opc < 256) (g : Guard) (x0 : BitVec 12)
    (h : slotBits opc g [(x0.toNat, 22)] = w) :
    (fld w 40 8).toNat = opc ∧ guardOf w = g ∧ fld w 22 12 = x0 ∧ zeroAt w 0 22 = true := by
  have hf : Fits 48 ((opc, 40, 8) :: (g.p.toNat, 35, 5) :: (flagCode g.n, 34, 1) :: [(x0.toNat, 22, 12)]) :=
    ⟨by decide, ho, by decide, g.p.isLt, by decide, flagCode_lt g.n, by decide, x0.isLt, trivial⟩
  have hw := (congrArg BitVec.toNat h).symm.trans (slot_total (rfl) hf)
  exact ⟨opc_toNat (at_word hw (total_field hf (i := 0) rfl)), guard_eq (at_word hw (total_field hf (i := 1) rfl)) (at_word hw (total_field hf (i := 2) rfl)), fld_bits (at_word hw (total_field hf (i := 3) rfl)), zeroAt_true (at_word hw (total_gap hf rfl))⟩

theorem layout45 {opc : Nat} {w : BitVec 48} (ho : opc < 256) (g : Guard) (x0 : BitVec 8) (x1 : BitVec 4) (x2 : BitVec 22)
    (h : slotBits opc g [(x0.toNat, 26), (x1.toNat, 22), (x2.toNat, 0)] = w) :
    (fld w 40 8).toNat = opc ∧ guardOf w = g ∧ fld w 26 8 = x0 ∧ fld w 22 4 = x1 ∧ fld w 0 22 = x2 := by
  have hf : Fits 48 ((opc, 40, 8) :: (g.p.toNat, 35, 5) :: (flagCode g.n, 34, 1) :: [(x0.toNat, 26, 8), (x1.toNat, 22, 4), (x2.toNat, 0, 22)]) :=
    ⟨by decide, ho, by decide, g.p.isLt, by decide, flagCode_lt g.n, by decide, x0.isLt, by decide, x1.isLt, by decide, x2.isLt, trivial⟩
  have hw := (congrArg BitVec.toNat h).symm.trans (slot_total (rfl) hf)
  exact ⟨opc_toNat (at_word hw (total_field hf (i := 0) rfl)), guard_eq (at_word hw (total_field hf (i := 1) rfl)) (at_word hw (total_field hf (i := 2) rfl)), fld_bits (at_word hw (total_field hf (i := 3) rfl)), fld_bits (at_word hw (total_field hf (i := 4) rfl)), fld_bits (at_word hw (total_field hf (i := 5) rfl))⟩

theorem layout46 {opc : Nat} {w : BitVec 48} (ho : opc < 256) (g : Guard) (x0 : BitVec 6) (x1 : Width) (x2 : BitVec 4) (x3 : BitVec 22)
    (h : slotBits opc g [(x0.toNat, 28), (widthCode x1, 26), (x2.toNat, 22), (x3.toNat, 0)] = w) :
    (fld w 40 8).toNat = opc ∧ guardOf w = g ∧ fld w 28 6 = x0 ∧ widthOf (fld w 26 2) = x1 ∧ fld w 22 4 = x2 ∧ fld w 0 22 = x3 := by
  have hf : Fits 48 ((opc, 40, 8) :: (g.p.toNat, 35, 5) :: (flagCode g.n, 34, 1) :: [(x0.toNat, 28, 6), (widthCode x1, 26, 2), (x2.toNat, 22, 4), (x3.toNat, 0, 22)]) :=
    ⟨by decide, ho, by decide, g.p.isLt, by decide, flagCode_lt g.n, by decide, x0.isLt, by decide, widthCode_lt x1, by decide, x2.isLt, by decide, x3.isLt, trivial⟩
  have hw := (congrArg BitVec.toNat h).symm.trans (slot_total (rfl) hf)
  exact ⟨opc_toNat (at_word hw (total_field hf (i := 0) rfl)), guard_eq (at_word hw (total_field hf (i := 1) rfl)) (at_word hw (total_field hf (i := 2) rfl)), fld_bits (at_word hw (total_field hf (i := 3) rfl)), (congrArg widthOf (fld_eq (v := widthCode x1) (at_word hw (total_field hf (i := 4) rfl)))).trans (widthOf_code x1), fld_bits (at_word hw (total_field hf (i := 5) rfl)), fld_bits (at_word hw (total_field hf (i := 6) rfl))⟩

theorem layout47 {opc : Nat} {w : BitVec 48} (ho : opc < 256) (g : Guard) (x0 : BitVec 8) (x1 : BitVec 8) (x2 : BitVec 4) (x3 : Width) (x4 : BitVec 12)
    (h : slotBits opc g [(x0.toNat, 26), (x1.toNat, 18), (x2.toNat, 14), (widthCode x3, 12), (x4.toNat, 0)] = w) :
    (fld w 40 8).toNat = opc ∧ guardOf w = g ∧ fld w 26 8 = x0 ∧ fld w 18 8 = x1 ∧ fld w 14 4 = x2 ∧ widthOf (fld w 12 2) = x3 ∧ fld w 0 12 = x4 := by
  have hf : Fits 48 ((opc, 40, 8) :: (g.p.toNat, 35, 5) :: (flagCode g.n, 34, 1) :: [(x0.toNat, 26, 8), (x1.toNat, 18, 8), (x2.toNat, 14, 4), (widthCode x3, 12, 2), (x4.toNat, 0, 12)]) :=
    ⟨by decide, ho, by decide, g.p.isLt, by decide, flagCode_lt g.n, by decide, x0.isLt, by decide, x1.isLt, by decide, x2.isLt, by decide, widthCode_lt x3, by decide, x4.isLt, trivial⟩
  have hw := (congrArg BitVec.toNat h).symm.trans (slot_total (rfl) hf)
  exact ⟨opc_toNat (at_word hw (total_field hf (i := 0) rfl)), guard_eq (at_word hw (total_field hf (i := 1) rfl)) (at_word hw (total_field hf (i := 2) rfl)), fld_bits (at_word hw (total_field hf (i := 3) rfl)), fld_bits (at_word hw (total_field hf (i := 4) rfl)), fld_bits (at_word hw (total_field hf (i := 5) rfl)), (congrArg widthOf (fld_eq (v := widthCode x3) (at_word hw (total_field hf (i := 6) rfl)))).trans (widthOf_code x3), fld_bits (at_word hw (total_field hf (i := 7) rfl))⟩

theorem layout48 {opc : Nat} {w : BitVec 48} (ho : opc < 256) (g : Guard) (x0 : BitVec 6) (x1 : BitVec 6) (x2 : BitVec 6) (x3 : Bool) (x4 : BitVec 8)
    (h : slotBits opc g [(x0.toNat, 28), (x1.toNat, 22), (x2.toNat, 10), (wideCode x3, 8), (x4.toNat, 0)] = w) :
    (fld w 40 8).toNat = opc ∧ guardOf w = g ∧ fld w 28 6 = x0 ∧ fld w 22 6 = x1 ∧ fld w 10 6 = x2 ∧ wideOf (fld w 8 2) = some x3 ∧ fld w 0 8 = x4 ∧ zeroAt w 16 6 = true := by
  have hf : Fits 48 ((opc, 40, 8) :: (g.p.toNat, 35, 5) :: (flagCode g.n, 34, 1) :: [(x0.toNat, 28, 6), (x1.toNat, 22, 6), (x2.toNat, 10, 6), (wideCode x3, 8, 2), (x4.toNat, 0, 8)]) :=
    ⟨by decide, ho, by decide, g.p.isLt, by decide, flagCode_lt g.n, by decide, x0.isLt, by decide, x1.isLt, by decide, x2.isLt, by decide, wideCode_lt x3, by decide, x4.isLt, trivial⟩
  have hw := (congrArg BitVec.toNat h).symm.trans (slot_total (rfl) hf)
  exact ⟨opc_toNat (at_word hw (total_field hf (i := 0) rfl)), guard_eq (at_word hw (total_field hf (i := 1) rfl)) (at_word hw (total_field hf (i := 2) rfl)), fld_bits (at_word hw (total_field hf (i := 3) rfl)), fld_bits (at_word hw (total_field hf (i := 4) rfl)), fld_bits (at_word hw (total_field hf (i := 5) rfl)), (congrArg wideOf (fld_eq (v := wideCode x3) (at_word hw (total_field hf (i := 6) rfl)))).trans (wideOf_code x3), fld_bits (at_word hw (total_field hf (i := 7) rfl)), zeroAt_true (at_word hw (total_gap hf rfl))⟩

theorem layout49 {opc : Nat} {w : BitVec 48} (ho : opc < 256) (g : Guard) (x0 : BitVec 6) (x1 : BitVec 6) (x2 : BitVec 6) (x3 : BitVec 6) (x4 : Bool) (x5 : BitVec 8)
    (h : slotBits opc g [(x0.toNat, 28), (x1.toNat, 22), (x2.toNat, 16), (x3.toNat, 10), (wideCode x4, 8), (x5.toNat, 0)] = w) :
    (fld w 40 8).toNat = opc ∧ guardOf w = g ∧ fld w 28 6 = x0 ∧ fld w 22 6 = x1 ∧ fld w 16 6 = x2 ∧ fld w 10 6 = x3 ∧ wideOf (fld w 8 2) = some x4 ∧ fld w 0 8 = x5 := by
  have hf : Fits 48 ((opc, 40, 8) :: (g.p.toNat, 35, 5) :: (flagCode g.n, 34, 1) :: [(x0.toNat, 28, 6), (x1.toNat, 22, 6), (x2.toNat, 16, 6), (x3.toNat, 10, 6), (wideCode x4, 8, 2), (x5.toNat, 0, 8)]) :=
    ⟨by decide, ho, by decide, g.p.isLt, by decide, flagCode_lt g.n, by decide, x0.isLt, by decide, x1.isLt, by decide, x2.isLt, by decide, x3.isLt, by decide, wideCode_lt x4, by decide, x5.isLt, trivial⟩
  have hw := (congrArg BitVec.toNat h).symm.trans (slot_total (rfl) hf)
  exact ⟨opc_toNat (at_word hw (total_field hf (i := 0) rfl)), guard_eq (at_word hw (total_field hf (i := 1) rfl)) (at_word hw (total_field hf (i := 2) rfl)), fld_bits (at_word hw (total_field hf (i := 3) rfl)), fld_bits (at_word hw (total_field hf (i := 4) rfl)), fld_bits (at_word hw (total_field hf (i := 5) rfl)), fld_bits (at_word hw (total_field hf (i := 6) rfl)), (congrArg wideOf (fld_eq (v := wideCode x4) (at_word hw (total_field hf (i := 7) rfl)))).trans (wideOf_code x4), fld_bits (at_word hw (total_field hf (i := 8) rfl))⟩

theorem layout50 {opc : Nat} {w : BitVec 48} (ho : opc < 256) (g : Guard) (x0 : BitVec 6) (x1 : BitVec 6) (x2 : BitVec 6) (x3 : BitVec 8)
    (h : slotBits opc g [(x0.toNat, 28), (x1.toNat, 22), (x2.toNat, 10), (x3.toNat, 0), (2, 8)] = w) :
    (fld w 40 8).toNat = opc ∧ guardOf w = g ∧ fld w 28 6 = x0 ∧ fld w 22 6 = x1 ∧ fld w 10 6 = x2 ∧ fld w 0 8 = x3 ∧ fld w 8 2 = 2#2 ∧ zeroAt w 16 6 = true := by
  have hf : Fits 48 ((opc, 40, 8) :: (g.p.toNat, 35, 5) :: (flagCode g.n, 34, 1) :: [(x0.toNat, 28, 6), (x1.toNat, 22, 6), (x2.toNat, 10, 6), (2, 8, 2), (x3.toNat, 0, 8)]) :=
    ⟨by decide, ho, by decide, g.p.isLt, by decide, flagCode_lt g.n, by decide, x0.isLt, by decide, x1.isLt, by decide, x2.isLt, by decide, by decide, by decide, x3.isLt, trivial⟩
  have hw := (congrArg BitVec.toNat h).symm.trans (slot_total (by simp only [fieldSum, total]; omega) hf)
  exact ⟨opc_toNat (at_word hw (total_field hf (i := 0) rfl)), guard_eq (at_word hw (total_field hf (i := 1) rfl)) (at_word hw (total_field hf (i := 2) rfl)), fld_bits (at_word hw (total_field hf (i := 3) rfl)), fld_bits (at_word hw (total_field hf (i := 4) rfl)), fld_bits (at_word hw (total_field hf (i := 5) rfl)), fld_bits (at_word hw (total_field hf (i := 7) rfl)), fld_eq (at_word hw (total_field hf (i := 6) rfl)), zeroAt_true (at_word hw (total_gap hf rfl))⟩

theorem layout51 {opc : Nat} {w : BitVec 48} (ho : opc < 256) (g : Guard) (x0 : BitVec 6) (x1 : BitVec 6) (x2 : Width) (x3 : BitVec 4) (x4 : Bool) (x5 : BitVec 12)
    (h : slotBits opc g [(x0.toNat, 28), (x1.toNat, 22), (widthCode x2, 20), (x3.toNat, 16), (flagCode x4, 15), (x5.toNat, 2)] = w) :
    (fld w 40 8).toNat = opc ∧ guardOf w = g ∧ fld w 28 6 = x0 ∧ fld w 22 6 = x1 ∧ widthOf (fld w 20 2) = x2 ∧ fld w 16 4 = x3 ∧ bitAt w 15 = x4 ∧ fld w 2 12 = x5 ∧ zeroAt w 0 2 = true ∧ zeroAt w 14 1 = true := by
  have hf : Fits 48 ((opc, 40, 8) :: (g.p.toNat, 35, 5) :: (flagCode g.n, 34, 1) :: [(x0.toNat, 28, 6), (x1.toNat, 22, 6), (widthCode x2, 20, 2), (x3.toNat, 16, 4), (flagCode x4, 15, 1), (x5.toNat, 2, 12)]) :=
    ⟨by decide, ho, by decide, g.p.isLt, by decide, flagCode_lt g.n, by decide, x0.isLt, by decide, x1.isLt, by decide, widthCode_lt x2, by decide, x3.isLt, by decide, flagCode_lt x4, by decide, x5.isLt, trivial⟩
  have hw := (congrArg BitVec.toNat h).symm.trans (slot_total (rfl) hf)
  exact ⟨opc_toNat (at_word hw (total_field hf (i := 0) rfl)), guard_eq (at_word hw (total_field hf (i := 1) rfl)) (at_word hw (total_field hf (i := 2) rfl)), fld_bits (at_word hw (total_field hf (i := 3) rfl)), fld_bits (at_word hw (total_field hf (i := 4) rfl)), (congrArg widthOf (fld_eq (v := widthCode x2) (at_word hw (total_field hf (i := 5) rfl)))).trans (widthOf_code x2), fld_bits (at_word hw (total_field hf (i := 6) rfl)), bitAt_flag (at_word hw (total_field hf (i := 7) rfl)), fld_bits (at_word hw (total_field hf (i := 8) rfl)), zeroAt_true (at_word hw (total_gap hf rfl)), zeroAt_true (at_word hw (total_gap hf rfl))⟩

theorem layout52 {opc : Nat} {w : BitVec 48} (ho : opc < 256) (g : Guard) (x0 : BitVec 8) (x1 : BitVec 6) (x2 : BitVec 4) (x3 : Bool) (x4 : BitVec 12)
    (h : slotBits opc g [(x0.toNat, 26), (x1.toNat, 20), (x2.toNat, 16), (flagCode x3, 15), (x4.toNat, 2)] = w) :
    (fld w 40 8).toNat = opc ∧ guardOf w = g ∧ fld w 26 8 = x0 ∧ fld w 20 6 = x1 ∧ fld w 16 4 = x2 ∧ bitAt w 15 = x3 ∧ fld w 2 12 = x4 ∧ zeroAt w 0 2 = true ∧ zeroAt w 14 1 = true := by
  have hf : Fits 48 ((opc, 40, 8) :: (g.p.toNat, 35, 5) :: (flagCode g.n, 34, 1) :: [(x0.toNat, 26, 8), (x1.toNat, 20, 6), (x2.toNat, 16, 4), (flagCode x3, 15, 1), (x4.toNat, 2, 12)]) :=
    ⟨by decide, ho, by decide, g.p.isLt, by decide, flagCode_lt g.n, by decide, x0.isLt, by decide, x1.isLt, by decide, x2.isLt, by decide, flagCode_lt x3, by decide, x4.isLt, trivial⟩
  have hw := (congrArg BitVec.toNat h).symm.trans (slot_total (rfl) hf)
  exact ⟨opc_toNat (at_word hw (total_field hf (i := 0) rfl)), guard_eq (at_word hw (total_field hf (i := 1) rfl)) (at_word hw (total_field hf (i := 2) rfl)), fld_bits (at_word hw (total_field hf (i := 3) rfl)), fld_bits (at_word hw (total_field hf (i := 4) rfl)), fld_bits (at_word hw (total_field hf (i := 5) rfl)), bitAt_flag (at_word hw (total_field hf (i := 6) rfl)), fld_bits (at_word hw (total_field hf (i := 7) rfl)), zeroAt_true (at_word hw (total_gap hf rfl)), zeroAt_true (at_word hw (total_gap hf rfl))⟩

theorem layout53 {opc : Nat} {w : BitVec 48} (ho : opc < 256) (g : Guard) (x0 : BitVec 6) (x1 : BitVec 6) (x2 : Width) (x3 : BitVec 4) (x4 : Bool)
    (h : slotBits opc g [(x0.toNat, 28), (x1.toNat, 22), (widthCode x2, 20), (x3.toNat, 16), (flagCode x4, 14)] = w) :
    (fld w 40 8).toNat = opc ∧ guardOf w = g ∧ fld w 28 6 = x0 ∧ fld w 22 6 = x1 ∧ widthOf (fld w 20 2) = x2 ∧ fld w 16 4 = x3 ∧ bitAt w 14 = x4 ∧ zeroAt w 0 14 = true ∧ zeroAt w 15 1 = true := by
  have hf : Fits 48 ((opc, 40, 8) :: (g.p.toNat, 35, 5) :: (flagCode g.n, 34, 1) :: [(x0.toNat, 28, 6), (x1.toNat, 22, 6), (widthCode x2, 20, 2), (x3.toNat, 16, 4), (flagCode x4, 14, 1)]) :=
    ⟨by decide, ho, by decide, g.p.isLt, by decide, flagCode_lt g.n, by decide, x0.isLt, by decide, x1.isLt, by decide, widthCode_lt x2, by decide, x3.isLt, by decide, flagCode_lt x4, trivial⟩
  have hw := (congrArg BitVec.toNat h).symm.trans (slot_total (rfl) hf)
  exact ⟨opc_toNat (at_word hw (total_field hf (i := 0) rfl)), guard_eq (at_word hw (total_field hf (i := 1) rfl)) (at_word hw (total_field hf (i := 2) rfl)), fld_bits (at_word hw (total_field hf (i := 3) rfl)), fld_bits (at_word hw (total_field hf (i := 4) rfl)), (congrArg widthOf (fld_eq (v := widthCode x2) (at_word hw (total_field hf (i := 5) rfl)))).trans (widthOf_code x2), fld_bits (at_word hw (total_field hf (i := 6) rfl)), bitAt_flag (at_word hw (total_field hf (i := 7) rfl)), zeroAt_true (at_word hw (total_gap hf rfl)), zeroAt_true (at_word hw (total_gap hf rfl))⟩

theorem layout54 {opc : Nat} {w : BitVec 48} (ho : opc < 256) (g : Guard) (x0 : BitVec 8) (x1 : BitVec 6) (x2 : BitVec 4) (x3 : Bool)
    (h : slotBits opc g [(x0.toNat, 26), (x1.toNat, 20), (x2.toNat, 16), (flagCode x3, 14)] = w) :
    (fld w 40 8).toNat = opc ∧ guardOf w = g ∧ fld w 26 8 = x0 ∧ fld w 20 6 = x1 ∧ fld w 16 4 = x2 ∧ bitAt w 14 = x3 ∧ zeroAt w 0 14 = true ∧ zeroAt w 15 1 = true := by
  have hf : Fits 48 ((opc, 40, 8) :: (g.p.toNat, 35, 5) :: (flagCode g.n, 34, 1) :: [(x0.toNat, 26, 8), (x1.toNat, 20, 6), (x2.toNat, 16, 4), (flagCode x3, 14, 1)]) :=
    ⟨by decide, ho, by decide, g.p.isLt, by decide, flagCode_lt g.n, by decide, x0.isLt, by decide, x1.isLt, by decide, x2.isLt, by decide, flagCode_lt x3, trivial⟩
  have hw := (congrArg BitVec.toNat h).symm.trans (slot_total (rfl) hf)
  exact ⟨opc_toNat (at_word hw (total_field hf (i := 0) rfl)), guard_eq (at_word hw (total_field hf (i := 1) rfl)) (at_word hw (total_field hf (i := 2) rfl)), fld_bits (at_word hw (total_field hf (i := 3) rfl)), fld_bits (at_word hw (total_field hf (i := 4) rfl)), fld_bits (at_word hw (total_field hf (i := 5) rfl)), bitAt_flag (at_word hw (total_field hf (i := 6) rfl)), zeroAt_true (at_word hw (total_gap hf rfl)), zeroAt_true (at_word hw (total_gap hf rfl))⟩

theorem layout55 {opc : Nat} {w : BitVec 48} (ho : opc < 256) (g : Guard) (x0 : BitVec 6) (x1 : BitVec 6) (x2 : Bool) (x3 : BitVec 4) (x4 : Bool) (x5 : Bool) (x6 : BitVec 12)
    (h : slotBits opc g [(x0.toNat, 28), (x1.toNat, 22), (wideCode x2, 20), (x3.toNat, 16), (flagCode x4, 15), (flagCode x5, 14), (x6.toNat, 2)] = w) :
    (fld w 40 8).toNat = opc ∧ guardOf w = g ∧ fld w 28 6 = x0 ∧ fld w 22 6 = x1 ∧ wideOf (fld w 20 2) = some x2 ∧ fld w 16 4 = x3 ∧ bitAt w 15 = x4 ∧ bitAt w 14 = x5 ∧ fld w 2 12 = x6 ∧ zeroAt w 0 2 = true := by
  have hf : Fits 48 ((opc, 40, 8) :: (g.p.toNat, 35, 5) :: (flagCode g.n, 34, 1) :: [(x0.toNat, 28, 6), (x1.toNat, 22, 6), (wideCode x2, 20, 2), (x3.toNat, 16, 4), (flagCode x4, 15, 1), (flagCode x5, 14, 1), (x6.toNat, 2, 12)]) :=
    ⟨by decide, ho, by decide, g.p.isLt, by decide, flagCode_lt g.n, by decide, x0.isLt, by decide, x1.isLt, by decide, wideCode_lt x2, by decide, x3.isLt, by decide, flagCode_lt x4, by decide, flagCode_lt x5, by decide, x6.isLt, trivial⟩
  have hw := (congrArg BitVec.toNat h).symm.trans (slot_total (rfl) hf)
  exact ⟨opc_toNat (at_word hw (total_field hf (i := 0) rfl)), guard_eq (at_word hw (total_field hf (i := 1) rfl)) (at_word hw (total_field hf (i := 2) rfl)), fld_bits (at_word hw (total_field hf (i := 3) rfl)), fld_bits (at_word hw (total_field hf (i := 4) rfl)), (congrArg wideOf (fld_eq (v := wideCode x2) (at_word hw (total_field hf (i := 5) rfl)))).trans (wideOf_code x2), fld_bits (at_word hw (total_field hf (i := 6) rfl)), bitAt_flag (at_word hw (total_field hf (i := 7) rfl)), bitAt_flag (at_word hw (total_field hf (i := 8) rfl)), fld_bits (at_word hw (total_field hf (i := 9) rfl)), zeroAt_true (at_word hw (total_gap hf rfl))⟩

theorem layout56 {opc : Nat} {w : BitVec 48} (ho : opc < 256) (g : Guard) (x0 : BitVec 6) (x1 : BitVec 6) (x2 : BitVec 4) (x3 : Bool) (x4 : Bool) (x5 : BitVec 12)
    (h : slotBits opc g [(x0.toNat, 28), (x1.toNat, 22), (x2.toNat, 16), (flagCode x3, 15), (flagCode x4, 14), (x5.toNat, 2), (2, 20)] = w) :
    (fld w 40 8).toNat = opc ∧ guardOf w = g ∧ fld w 28 6 = x0 ∧ fld w 22 6 = x1 ∧ fld w 16 4 = x2 ∧ bitAt w 15 = x3 ∧ bitAt w 14 = x4 ∧ fld w 2 12 = x5 ∧ fld w 20 2 = 2#2 ∧ zeroAt w 0 2 = true := by
  have hf : Fits 48 ((opc, 40, 8) :: (g.p.toNat, 35, 5) :: (flagCode g.n, 34, 1) :: [(x0.toNat, 28, 6), (x1.toNat, 22, 6), (2, 20, 2), (x2.toNat, 16, 4), (flagCode x3, 15, 1), (flagCode x4, 14, 1), (x5.toNat, 2, 12)]) :=
    ⟨by decide, ho, by decide, g.p.isLt, by decide, flagCode_lt g.n, by decide, x0.isLt, by decide, x1.isLt, by decide, by decide, by decide, x2.isLt, by decide, flagCode_lt x3, by decide, flagCode_lt x4, by decide, x5.isLt, trivial⟩
  have hw := (congrArg BitVec.toNat h).symm.trans (slot_total (by simp only [fieldSum, total]; omega) hf)
  exact ⟨opc_toNat (at_word hw (total_field hf (i := 0) rfl)), guard_eq (at_word hw (total_field hf (i := 1) rfl)) (at_word hw (total_field hf (i := 2) rfl)), fld_bits (at_word hw (total_field hf (i := 3) rfl)), fld_bits (at_word hw (total_field hf (i := 4) rfl)), fld_bits (at_word hw (total_field hf (i := 6) rfl)), bitAt_flag (at_word hw (total_field hf (i := 7) rfl)), bitAt_flag (at_word hw (total_field hf (i := 8) rfl)), fld_bits (at_word hw (total_field hf (i := 9) rfl)), fld_eq (at_word hw (total_field hf (i := 5) rfl)), zeroAt_true (at_word hw (total_gap hf rfl))⟩

theorem layout57 {opc : Nat} {w : BitVec 48} (ho : opc < 256) (g : Guard) (x0 : BitVec 6) (x1 : BitVec 6) (x2 : BitVec 4) (x3 : Bool)
    (h : slotBits opc g [(x0.toNat, 28), (x1.toNat, 22), (x2.toNat, 16), (flagCode x3, 14)] = w) :
    (fld w 40 8).toNat = opc ∧ guardOf w = g ∧ fld w 28 6 = x0 ∧ fld w 22 6 = x1 ∧ fld w 16 4 = x2 ∧ bitAt w 14 = x3 ∧ zeroAt w 0 14 = true ∧ zeroAt w 15 1 = true ∧ zeroAt w 20 2 = true := by
  have hf : Fits 48 ((opc, 40, 8) :: (g.p.toNat, 35, 5) :: (flagCode g.n, 34, 1) :: [(x0.toNat, 28, 6), (x1.toNat, 22, 6), (x2.toNat, 16, 4), (flagCode x3, 14, 1)]) :=
    ⟨by decide, ho, by decide, g.p.isLt, by decide, flagCode_lt g.n, by decide, x0.isLt, by decide, x1.isLt, by decide, x2.isLt, by decide, flagCode_lt x3, trivial⟩
  have hw := (congrArg BitVec.toNat h).symm.trans (slot_total (rfl) hf)
  exact ⟨opc_toNat (at_word hw (total_field hf (i := 0) rfl)), guard_eq (at_word hw (total_field hf (i := 1) rfl)) (at_word hw (total_field hf (i := 2) rfl)), fld_bits (at_word hw (total_field hf (i := 3) rfl)), fld_bits (at_word hw (total_field hf (i := 4) rfl)), fld_bits (at_word hw (total_field hf (i := 5) rfl)), bitAt_flag (at_word hw (total_field hf (i := 6) rfl)), zeroAt_true (at_word hw (total_gap hf rfl)), zeroAt_true (at_word hw (total_gap hf rfl)), zeroAt_true (at_word hw (total_gap hf rfl))⟩

theorem layout58 {opc : Nat} {w : BitVec 48} (ho : opc < 256) (g : Guard) (x0 : BitVec 6) (x1 : BitVec 6) (x2 : Bool) (x3 : BitVec 4) (x4 : Bool) (x5 : BitVec 12)
    (h : slotBits opc g [(x0.toNat, 28), (x1.toNat, 22), (flagCode x2, 21), (x3.toNat, 16), (flagCode x4, 15), (x5.toNat, 2)] = w) :
    (fld w 40 8).toNat = opc ∧ guardOf w = g ∧ fld w 28 6 = x0 ∧ fld w 22 6 = x1 ∧ bitAt w 21 = x2 ∧ fld w 16 4 = x3 ∧ bitAt w 15 = x4 ∧ fld w 2 12 = x5 ∧ zeroAt w 0 2 = true ∧ zeroAt w 14 1 = true ∧ zeroAt w 20 1 = true := by
  have hf : Fits 48 ((opc, 40, 8) :: (g.p.toNat, 35, 5) :: (flagCode g.n, 34, 1) :: [(x0.toNat, 28, 6), (x1.toNat, 22, 6), (flagCode x2, 21, 1), (x3.toNat, 16, 4), (flagCode x4, 15, 1), (x5.toNat, 2, 12)]) :=
    ⟨by decide, ho, by decide, g.p.isLt, by decide, flagCode_lt g.n, by decide, x0.isLt, by decide, x1.isLt, by decide, flagCode_lt x2, by decide, x3.isLt, by decide, flagCode_lt x4, by decide, x5.isLt, trivial⟩
  have hw := (congrArg BitVec.toNat h).symm.trans (slot_total (rfl) hf)
  exact ⟨opc_toNat (at_word hw (total_field hf (i := 0) rfl)), guard_eq (at_word hw (total_field hf (i := 1) rfl)) (at_word hw (total_field hf (i := 2) rfl)), fld_bits (at_word hw (total_field hf (i := 3) rfl)), fld_bits (at_word hw (total_field hf (i := 4) rfl)), bitAt_flag (at_word hw (total_field hf (i := 5) rfl)), fld_bits (at_word hw (total_field hf (i := 6) rfl)), bitAt_flag (at_word hw (total_field hf (i := 7) rfl)), fld_bits (at_word hw (total_field hf (i := 8) rfl)), zeroAt_true (at_word hw (total_gap hf rfl)), zeroAt_true (at_word hw (total_gap hf rfl)), zeroAt_true (at_word hw (total_gap hf rfl))⟩

theorem layout59 {opc : Nat} {w : BitVec 48} (ho : opc < 256) (g : Guard) (x0 : BitVec 3) (x1 : BitVec 6) (x2 : BitVec 6) (x3 : BitVec 6) (x4 : BitVec 4) (x5 : BitVec 4)
    (h : slotBits opc g [(x0.toNat, 31), (x1.toNat, 25), (x2.toNat, 19), (x3.toNat, 13), (x4.toNat, 9), (x5.toNat, 5)] = w) :
    (fld w 40 8).toNat = opc ∧ guardOf w = g ∧ fld w 31 3 = x0 ∧ fld w 25 6 = x1 ∧ fld w 19 6 = x2 ∧ fld w 13 6 = x3 ∧ fld w 9 4 = x4 ∧ fld w 5 4 = x5 ∧ zeroAt w 0 5 = true := by
  have hf : Fits 48 ((opc, 40, 8) :: (g.p.toNat, 35, 5) :: (flagCode g.n, 34, 1) :: [(x0.toNat, 31, 3), (x1.toNat, 25, 6), (x2.toNat, 19, 6), (x3.toNat, 13, 6), (x4.toNat, 9, 4), (x5.toNat, 5, 4)]) :=
    ⟨by decide, ho, by decide, g.p.isLt, by decide, flagCode_lt g.n, by decide, x0.isLt, by decide, x1.isLt, by decide, x2.isLt, by decide, x3.isLt, by decide, x4.isLt, by decide, x5.isLt, trivial⟩
  have hw := (congrArg BitVec.toNat h).symm.trans (slot_total (rfl) hf)
  exact ⟨opc_toNat (at_word hw (total_field hf (i := 0) rfl)), guard_eq (at_word hw (total_field hf (i := 1) rfl)) (at_word hw (total_field hf (i := 2) rfl)), fld_bits (at_word hw (total_field hf (i := 3) rfl)), fld_bits (at_word hw (total_field hf (i := 4) rfl)), fld_bits (at_word hw (total_field hf (i := 5) rfl)), fld_bits (at_word hw (total_field hf (i := 6) rfl)), fld_bits (at_word hw (total_field hf (i := 7) rfl)), fld_bits (at_word hw (total_field hf (i := 8) rfl)), zeroAt_true (at_word hw (total_gap hf rfl))⟩

theorem layout60 {opc : Nat} {w : BitVec 48} (ho : opc < 256) (g : Guard) (x0 : BitVec 3) (x1 : BitVec 6) (x2 : BitVec 4)
    (h : slotBits opc g [(x0.toNat, 31), (x1.toNat, 19), (x2.toNat, 5)] = w) :
    (fld w 40 8).toNat = opc ∧ guardOf w = g ∧ fld w 31 3 = x0 ∧ fld w 19 6 = x1 ∧ fld w 5 4 = x2 ∧ zeroAt w 0 5 = true ∧ zeroAt w 9 10 = true ∧ zeroAt w 25 6 = true := by
  have hf : Fits 48 ((opc, 40, 8) :: (g.p.toNat, 35, 5) :: (flagCode g.n, 34, 1) :: [(x0.toNat, 31, 3), (x1.toNat, 19, 6), (x2.toNat, 5, 4)]) :=
    ⟨by decide, ho, by decide, g.p.isLt, by decide, flagCode_lt g.n, by decide, x0.isLt, by decide, x1.isLt, by decide, x2.isLt, trivial⟩
  have hw := (congrArg BitVec.toNat h).symm.trans (slot_total (rfl) hf)
  exact ⟨opc_toNat (at_word hw (total_field hf (i := 0) rfl)), guard_eq (at_word hw (total_field hf (i := 1) rfl)) (at_word hw (total_field hf (i := 2) rfl)), fld_bits (at_word hw (total_field hf (i := 3) rfl)), fld_bits (at_word hw (total_field hf (i := 4) rfl)), fld_bits (at_word hw (total_field hf (i := 5) rfl)), zeroAt_true (at_word hw (total_gap hf rfl)), zeroAt_true (at_word hw (total_gap hf rfl)), zeroAt_true (at_word hw (total_gap hf rfl))⟩

theorem layout61 {opc : Nat} {w : BitVec 48} (ho : opc < 256) (g : Guard) (x0 : FenceKind) (x1 : BitVec 16)
    (h : slotBits opc g [(fenceCode x0, 32), (x1.toNat, 16)] = w) :
    (fld w 40 8).toNat = opc ∧ guardOf w = g ∧ fenceOf (fld w 32 2) = some x0 ∧ fld w 16 16 = x1 ∧ zeroAt w 0 16 = true := by
  have hf : Fits 48 ((opc, 40, 8) :: (g.p.toNat, 35, 5) :: (flagCode g.n, 34, 1) :: [(fenceCode x0, 32, 2), (x1.toNat, 16, 16)]) :=
    ⟨by decide, ho, by decide, g.p.isLt, by decide, flagCode_lt g.n, by decide, fenceCode_lt x0, by decide, x1.isLt, trivial⟩
  have hw := (congrArg BitVec.toNat h).symm.trans (slot_total (rfl) hf)
  exact ⟨opc_toNat (at_word hw (total_field hf (i := 0) rfl)), guard_eq (at_word hw (total_field hf (i := 1) rfl)) (at_word hw (total_field hf (i := 2) rfl)), (congrArg fenceOf (fld_eq (v := fenceCode x0) (at_word hw (total_field hf (i := 3) rfl)))).trans (fenceOf_code x0), fld_bits (at_word hw (total_field hf (i := 4) rfl)), zeroAt_true (at_word hw (total_gap hf rfl))⟩

theorem layout62 {opc : Nat} {w : BitVec 48} (ho : opc < 256) (g : Guard) (x0 : BitVec 8)
    (h : slotBits opc g [(x0.toNat, 8)] = w) :
    (fld w 40 8).toNat = opc ∧ guardOf w = g ∧ fld w 8 8 = x0 ∧ zeroAt w 0 8 = true ∧ zeroAt w 16 18 = true := by
  have hf : Fits 48 ((opc, 40, 8) :: (g.p.toNat, 35, 5) :: (flagCode g.n, 34, 1) :: [(x0.toNat, 8, 8)]) :=
    ⟨by decide, ho, by decide, g.p.isLt, by decide, flagCode_lt g.n, by decide, x0.isLt, trivial⟩
  have hw := (congrArg BitVec.toNat h).symm.trans (slot_total (rfl) hf)
  exact ⟨opc_toNat (at_word hw (total_field hf (i := 0) rfl)), guard_eq (at_word hw (total_field hf (i := 1) rfl)) (at_word hw (total_field hf (i := 2) rfl)), fld_bits (at_word hw (total_field hf (i := 3) rfl)), zeroAt_true (at_word hw (total_gap hf rfl)), zeroAt_true (at_word hw (total_gap hf rfl))⟩

theorem layout63 {opc : Nat} {w : BitVec 48} (ho : opc < 256) (g : Guard) (x0 : BitVec 6) (x1 : BitVec 6) (x2 : BitVec 16)
    (h : slotBits opc g [(x0.toNat, 28), (x1.toNat, 22), (x2.toNat, 6)] = w) :
    (fld w 40 8).toNat = opc ∧ guardOf w = g ∧ fld w 28 6 = x0 ∧ fld w 22 6 = x1 ∧ fld w 6 16 = x2 ∧ zeroAt w 0 6 = true := by
  have hf : Fits 48 ((opc, 40, 8) :: (g.p.toNat, 35, 5) :: (flagCode g.n, 34, 1) :: [(x0.toNat, 28, 6), (x1.toNat, 22, 6), (x2.toNat, 6, 16)]) :=
    ⟨by decide, ho, by decide, g.p.isLt, by decide, flagCode_lt g.n, by decide, x0.isLt, by decide, x1.isLt, by decide, x2.isLt, trivial⟩
  have hw := (congrArg BitVec.toNat h).symm.trans (slot_total (rfl) hf)
  exact ⟨opc_toNat (at_word hw (total_field hf (i := 0) rfl)), guard_eq (at_word hw (total_field hf (i := 1) rfl)) (at_word hw (total_field hf (i := 2) rfl)), fld_bits (at_word hw (total_field hf (i := 3) rfl)), fld_bits (at_word hw (total_field hf (i := 4) rfl)), fld_bits (at_word hw (total_field hf (i := 5) rfl)), zeroAt_true (at_word hw (total_gap hf rfl))⟩

theorem layout64 {opc : Nat} {w : BitVec 48} (ho : opc < 256) (g : Guard) (x0 : BitVec 4) (x1 : BitVec 4) (x2 : BitVec 4) (x3 : BitVec 3) (x4 : BitVec 6)
    (h : slotBits opc g [(x0.toNat, 30), (x1.toNat, 26), (x2.toNat, 22), (x3.toNat, 19), (x4.toNat, 13)] = w) :
    (fld w 40 8).toNat = opc ∧ guardOf w = g ∧ fld w 30 4 = x0 ∧ fld w 26 4 = x1 ∧ fld w 22 4 = x2 ∧ fld w 19 3 = x3 ∧ fld w 13 6 = x4 ∧ zeroAt w 0 13 = true := by
  have hf : Fits 48 ((opc, 40, 8) :: (g.p.toNat, 35, 5) :: (flagCode g.n, 34, 1) :: [(x0.toNat, 30, 4), (x1.toNat, 26, 4), (x2.toNat, 22, 4), (x3.toNat, 19, 3), (x4.toNat, 13, 6)]) :=
    ⟨by decide, ho, by decide, g.p.isLt, by decide, flagCode_lt g.n, by decide, x0.isLt, by decide, x1.isLt, by decide, x2.isLt, by decide, x3.isLt, by decide, x4.isLt, trivial⟩
  have hw := (congrArg BitVec.toNat h).symm.trans (slot_total (rfl) hf)
  exact ⟨opc_toNat (at_word hw (total_field hf (i := 0) rfl)), guard_eq (at_word hw (total_field hf (i := 1) rfl)) (at_word hw (total_field hf (i := 2) rfl)), fld_bits (at_word hw (total_field hf (i := 3) rfl)), fld_bits (at_word hw (total_field hf (i := 4) rfl)), fld_bits (at_word hw (total_field hf (i := 5) rfl)), fld_bits (at_word hw (total_field hf (i := 6) rfl)), fld_bits (at_word hw (total_field hf (i := 7) rfl)), zeroAt_true (at_word hw (total_gap hf rfl))⟩

theorem layout65 {opc : Nat} {w : BitVec 48} (ho : opc < 256) (g : Guard) (x0 : BitVec 4) (x1 : BitVec 4) (x2 : BitVec 4)
    (h : slotBits opc g [(x0.toNat, 30), (x1.toNat, 26), (x2.toNat, 22)] = w) :
    (fld w 40 8).toNat = opc ∧ guardOf w = g ∧ fld w 30 4 = x0 ∧ fld w 26 4 = x1 ∧ fld w 22 4 = x2 ∧ zeroAt w 0 22 = true := by
  have hf : Fits 48 ((opc, 40, 8) :: (g.p.toNat, 35, 5) :: (flagCode g.n, 34, 1) :: [(x0.toNat, 30, 4), (x1.toNat, 26, 4), (x2.toNat, 22, 4)]) :=
    ⟨by decide, ho, by decide, g.p.isLt, by decide, flagCode_lt g.n, by decide, x0.isLt, by decide, x1.isLt, by decide, x2.isLt, trivial⟩
  have hw := (congrArg BitVec.toNat h).symm.trans (slot_total (rfl) hf)
  exact ⟨opc_toNat (at_word hw (total_field hf (i := 0) rfl)), guard_eq (at_word hw (total_field hf (i := 1) rfl)) (at_word hw (total_field hf (i := 2) rfl)), fld_bits (at_word hw (total_field hf (i := 3) rfl)), fld_bits (at_word hw (total_field hf (i := 4) rfl)), fld_bits (at_word hw (total_field hf (i := 5) rfl)), zeroAt_true (at_word hw (total_gap hf rfl))⟩

theorem layout66 {opc : Nat} {w : BitVec 48} (ho : opc < 256) (g : Guard) (x0 : BitVec 4) (x1 : BitVec 4)
    (h : slotBits opc g [(x0.toNat, 30), (x1.toNat, 26)] = w) :
    (fld w 40 8).toNat = opc ∧ guardOf w = g ∧ fld w 30 4 = x0 ∧ fld w 26 4 = x1 ∧ zeroAt w 0 26 = true := by
  have hf : Fits 48 ((opc, 40, 8) :: (g.p.toNat, 35, 5) :: (flagCode g.n, 34, 1) :: [(x0.toNat, 30, 4), (x1.toNat, 26, 4)]) :=
    ⟨by decide, ho, by decide, g.p.isLt, by decide, flagCode_lt g.n, by decide, x0.isLt, by decide, x1.isLt, trivial⟩
  have hw := (congrArg BitVec.toNat h).symm.trans (slot_total (rfl) hf)
  exact ⟨opc_toNat (at_word hw (total_field hf (i := 0) rfl)), guard_eq (at_word hw (total_field hf (i := 1) rfl)) (at_word hw (total_field hf (i := 2) rfl)), fld_bits (at_word hw (total_field hf (i := 3) rfl)), fld_bits (at_word hw (total_field hf (i := 4) rfl)), zeroAt_true (at_word hw (total_gap hf rfl))⟩

theorem layout67 {opc : Nat} {w : BitVec 48} (ho : opc < 256) (g : Guard) (x0 : BitVec 4) (x1 : BitVec 6)
    (h : slotBits opc g [(x0.toNat, 30), (x1.toNat, 7)] = w) :
    (fld w 40 8).toNat = opc ∧ guardOf w = g ∧ fld w 30 4 = x0 ∧ fld w 7 6 = x1 ∧ zeroAt w 0 7 = true ∧ zeroAt w 13 17 = true := by
  have hf : Fits 48 ((opc, 40, 8) :: (g.p.toNat, 35, 5) :: (flagCode g.n, 34, 1) :: [(x0.toNat, 30, 4), (x1.toNat, 7, 6)]) :=
    ⟨by decide, ho, by decide, g.p.isLt, by decide, flagCode_lt g.n, by decide, x0.isLt, by decide, x1.isLt, trivial⟩
  have hw := (congrArg BitVec.toNat h).symm.trans (slot_total (rfl) hf)
  exact ⟨opc_toNat (at_word hw (total_field hf (i := 0) rfl)), guard_eq (at_word hw (total_field hf (i := 1) rfl)) (at_word hw (total_field hf (i := 2) rfl)), fld_bits (at_word hw (total_field hf (i := 3) rfl)), fld_bits (at_word hw (total_field hf (i := 4) rfl)), zeroAt_true (at_word hw (total_gap hf rfl)), zeroAt_true (at_word hw (total_gap hf rfl))⟩

theorem layout68 {opc : Nat} {w : BitVec 48} (ho : opc < 256) (g : Guard) (x0 : BitVec 4) (x1 : BitVec 6) (x2 : BitVec 6) (x3 : Bool)
    (h : slotBits opc g [(x0.toNat, 30), (x1.toNat, 13), (x2.toNat, 7), (flagCode x3, 6)] = w) :
    (fld w 40 8).toNat = opc ∧ guardOf w = g ∧ fld w 30 4 = x0 ∧ fld w 13 6 = x1 ∧ fld w 7 6 = x2 ∧ bitAt w 6 = x3 ∧ zeroAt w 0 6 = true ∧ zeroAt w 19 11 = true := by
  have hf : Fits 48 ((opc, 40, 8) :: (g.p.toNat, 35, 5) :: (flagCode g.n, 34, 1) :: [(x0.toNat, 30, 4), (x1.toNat, 13, 6), (x2.toNat, 7, 6), (flagCode x3, 6, 1)]) :=
    ⟨by decide, ho, by decide, g.p.isLt, by decide, flagCode_lt g.n, by decide, x0.isLt, by decide, x1.isLt, by decide, x2.isLt, by decide, flagCode_lt x3, trivial⟩
  have hw := (congrArg BitVec.toNat h).symm.trans (slot_total (rfl) hf)
  exact ⟨opc_toNat (at_word hw (total_field hf (i := 0) rfl)), guard_eq (at_word hw (total_field hf (i := 1) rfl)) (at_word hw (total_field hf (i := 2) rfl)), fld_bits (at_word hw (total_field hf (i := 3) rfl)), fld_bits (at_word hw (total_field hf (i := 4) rfl)), fld_bits (at_word hw (total_field hf (i := 5) rfl)), bitAt_flag (at_word hw (total_field hf (i := 6) rfl)), zeroAt_true (at_word hw (total_gap hf rfl)), zeroAt_true (at_word hw (total_gap hf rfl))⟩

theorem layout69 {opc : Nat} {w : BitVec 48} (ho : opc < 256) (g : Guard) (x0 : BitVec 4) (x1 : BitVec 6) (x2 : BitVec 6)
    (h : slotBits opc g [(x0.toNat, 30), (x1.toNat, 13), (x2.toNat, 7)] = w) :
    (fld w 40 8).toNat = opc ∧ guardOf w = g ∧ fld w 30 4 = x0 ∧ fld w 13 6 = x1 ∧ fld w 7 6 = x2 ∧ zeroAt w 0 7 = true ∧ zeroAt w 19 11 = true := by
  have hf : Fits 48 ((opc, 40, 8) :: (g.p.toNat, 35, 5) :: (flagCode g.n, 34, 1) :: [(x0.toNat, 30, 4), (x1.toNat, 13, 6), (x2.toNat, 7, 6)]) :=
    ⟨by decide, ho, by decide, g.p.isLt, by decide, flagCode_lt g.n, by decide, x0.isLt, by decide, x1.isLt, by decide, x2.isLt, trivial⟩
  have hw := (congrArg BitVec.toNat h).symm.trans (slot_total (rfl) hf)
  exact ⟨opc_toNat (at_word hw (total_field hf (i := 0) rfl)), guard_eq (at_word hw (total_field hf (i := 1) rfl)) (at_word hw (total_field hf (i := 2) rfl)), fld_bits (at_word hw (total_field hf (i := 3) rfl)), fld_bits (at_word hw (total_field hf (i := 4) rfl)), fld_bits (at_word hw (total_field hf (i := 5) rfl)), zeroAt_true (at_word hw (total_gap hf rfl)), zeroAt_true (at_word hw (total_gap hf rfl))⟩

theorem layout70 {opc : Nat} {w : BitVec 48} (ho : opc < 256) (g : Guard) (x0 : BitVec 4) (x1 : BitVec 3) (x2 : BitVec 6)
    (h : slotBits opc g [(x0.toNat, 30), (x1.toNat, 19), (x2.toNat, 13)] = w) :
    (fld w 40 8).toNat = opc ∧ guardOf w = g ∧ fld w 30 4 = x0 ∧ fld w 19 3 = x1 ∧ fld w 13 6 = x2 ∧ zeroAt w 0 13 = true ∧ zeroAt w 22 8 = true := by
  have hf : Fits 48 ((opc, 40, 8) :: (g.p.toNat, 35, 5) :: (flagCode g.n, 34, 1) :: [(x0.toNat, 30, 4), (x1.toNat, 19, 3), (x2.toNat, 13, 6)]) :=
    ⟨by decide, ho, by decide, g.p.isLt, by decide, flagCode_lt g.n, by decide, x0.isLt, by decide, x1.isLt, by decide, x2.isLt, trivial⟩
  have hw := (congrArg BitVec.toNat h).symm.trans (slot_total (rfl) hf)
  exact ⟨opc_toNat (at_word hw (total_field hf (i := 0) rfl)), guard_eq (at_word hw (total_field hf (i := 1) rfl)) (at_word hw (total_field hf (i := 2) rfl)), fld_bits (at_word hw (total_field hf (i := 3) rfl)), fld_bits (at_word hw (total_field hf (i := 4) rfl)), fld_bits (at_word hw (total_field hf (i := 5) rfl)), zeroAt_true (at_word hw (total_gap hf rfl)), zeroAt_true (at_word hw (total_gap hf rfl))⟩

theorem layout71 {opc : Nat} {w : BitVec 48} (ho : opc < 256) (g : Guard) (x0 : BitVec 2) (x1 : BitVec 6) (x2 : BitVec 6) (x3 : BitVec 12)
    (h : slotBits opc g [(x0.toNat, 32), (x1.toNat, 26), (x2.toNat, 20), (x3.toNat, 8)] = w) :
    (fld w 40 8).toNat = opc ∧ guardOf w = g ∧ fld w 32 2 = x0 ∧ fld w 26 6 = x1 ∧ fld w 20 6 = x2 ∧ fld w 8 12 = x3 ∧ zeroAt w 0 8 = true := by
  have hf : Fits 48 ((opc, 40, 8) :: (g.p.toNat, 35, 5) :: (flagCode g.n, 34, 1) :: [(x0.toNat, 32, 2), (x1.toNat, 26, 6), (x2.toNat, 20, 6), (x3.toNat, 8, 12)]) :=
    ⟨by decide, ho, by decide, g.p.isLt, by decide, flagCode_lt g.n, by decide, x0.isLt, by decide, x1.isLt, by decide, x2.isLt, by decide, x3.isLt, trivial⟩
  have hw := (congrArg BitVec.toNat h).symm.trans (slot_total (rfl) hf)
  exact ⟨opc_toNat (at_word hw (total_field hf (i := 0) rfl)), guard_eq (at_word hw (total_field hf (i := 1) rfl)) (at_word hw (total_field hf (i := 2) rfl)), fld_bits (at_word hw (total_field hf (i := 3) rfl)), fld_bits (at_word hw (total_field hf (i := 4) rfl)), fld_bits (at_word hw (total_field hf (i := 5) rfl)), fld_bits (at_word hw (total_field hf (i := 6) rfl)), zeroAt_true (at_word hw (total_gap hf rfl))⟩

theorem layout72 {opc : Nat} {w : BitVec 48} (ho : opc < 256) (g : Guard) (x0 : BitVec 2) (x1 : BitVec 4) (x2 : BitVec 6) (x3 : BitVec 12)
    (h : slotBits opc g [(x0.toNat, 32), (x1.toNat, 28), (x2.toNat, 20), (x3.toNat, 8)] = w) :
    (fld w 40 8).toNat = opc ∧ guardOf w = g ∧ fld w 32 2 = x0 ∧ fld w 28 4 = x1 ∧ fld w 20 6 = x2 ∧ fld w 8 12 = x3 ∧ zeroAt w 0 8 = true ∧ zeroAt w 26 2 = true := by
  have hf : Fits 48 ((opc, 40, 8) :: (g.p.toNat, 35, 5) :: (flagCode g.n, 34, 1) :: [(x0.toNat, 32, 2), (x1.toNat, 28, 4), (x2.toNat, 20, 6), (x3.toNat, 8, 12)]) :=
    ⟨by decide, ho, by decide, g.p.isLt, by decide, flagCode_lt g.n, by decide, x0.isLt, by decide, x1.isLt, by decide, x2.isLt, by decide, x3.isLt, trivial⟩
  have hw := (congrArg BitVec.toNat h).symm.trans (slot_total (rfl) hf)
  exact ⟨opc_toNat (at_word hw (total_field hf (i := 0) rfl)), guard_eq (at_word hw (total_field hf (i := 1) rfl)) (at_word hw (total_field hf (i := 2) rfl)), fld_bits (at_word hw (total_field hf (i := 3) rfl)), fld_bits (at_word hw (total_field hf (i := 4) rfl)), fld_bits (at_word hw (total_field hf (i := 5) rfl)), fld_bits (at_word hw (total_field hf (i := 6) rfl)), zeroAt_true (at_word hw (total_gap hf rfl)), zeroAt_true (at_word hw (total_gap hf rfl))⟩

theorem layout73 {opc : Nat} {w : BitVec 48} (ho : opc < 256) (g : Guard) (x0 : BitVec 4)
    (h : slotBits opc g [(x0.toNat, 30)] = w) :
    (fld w 40 8).toNat = opc ∧ guardOf w = g ∧ fld w 30 4 = x0 ∧ zeroAt w 0 30 = true := by
  have hf : Fits 48 ((opc, 40, 8) :: (g.p.toNat, 35, 5) :: (flagCode g.n, 34, 1) :: [(x0.toNat, 30, 4)]) :=
    ⟨by decide, ho, by decide, g.p.isLt, by decide, flagCode_lt g.n, by decide, x0.isLt, trivial⟩
  have hw := (congrArg BitVec.toNat h).symm.trans (slot_total (rfl) hf)
  exact ⟨opc_toNat (at_word hw (total_field hf (i := 0) rfl)), guard_eq (at_word hw (total_field hf (i := 1) rfl)) (at_word hw (total_field hf (i := 2) rfl)), fld_bits (at_word hw (total_field hf (i := 3) rfl)), zeroAt_true (at_word hw (total_gap hf rfl))⟩

theorem layout74 {opc : Nat} {w : BitVec 48} (ho : opc < 256) (g : Guard) (x0 : ElemFmt) (x1 : ElemFmt) (x2 : ScaleMode) (x3 : Bool)
    (h : slotBits opc g [(elemCode x0, 30), (elemCode x1, 26), (scaleCode x2, 24), (flagCode x3, 23)] = w) :
    (fld w 40 8).toNat = opc ∧ guardOf w = g ∧ elemOf (fld w 30 4) = some x0 ∧ elemOf (fld w 26 4) = some x1 ∧ scaleOf (fld w 24 2) = some x2 ∧ bitAt w 23 = x3 ∧ zeroAt w 0 23 = true := by
  have hf : Fits 48 ((opc, 40, 8) :: (g.p.toNat, 35, 5) :: (flagCode g.n, 34, 1) :: [(elemCode x0, 30, 4), (elemCode x1, 26, 4), (scaleCode x2, 24, 2), (flagCode x3, 23, 1)]) :=
    ⟨by decide, ho, by decide, g.p.isLt, by decide, flagCode_lt g.n, by decide, elemCode_lt x0, by decide, elemCode_lt x1, by decide, scaleCode_lt x2, by decide, flagCode_lt x3, trivial⟩
  have hw := (congrArg BitVec.toNat h).symm.trans (slot_total (rfl) hf)
  exact ⟨opc_toNat (at_word hw (total_field hf (i := 0) rfl)), guard_eq (at_word hw (total_field hf (i := 1) rfl)) (at_word hw (total_field hf (i := 2) rfl)), (congrArg elemOf (fld_eq (v := elemCode x0) (at_word hw (total_field hf (i := 3) rfl)))).trans (elemOf_code x0), (congrArg elemOf (fld_eq (v := elemCode x1) (at_word hw (total_field hf (i := 4) rfl)))).trans (elemOf_code x1), (congrArg scaleOf (fld_eq (v := scaleCode x2) (at_word hw (total_field hf (i := 5) rfl)))).trans (scaleOf_code x2), bitAt_flag (at_word hw (total_field hf (i := 6) rfl)), zeroAt_true (at_word hw (total_gap hf rfl))⟩

theorem layout75 {opc : Nat} {w : BitVec 48} (ho : opc < 256) (g : Guard) (x0 : Bool) (x1 : BitVec 4) (x2 : BitVec 22)
    (h : slotBits opc g [(flagCode x0, 33), (x1.toNat, 22), (x2.toNat, 0)] = w) :
    (fld w 40 8).toNat = opc ∧ guardOf w = g ∧ bitAt w 33 = x0 ∧ fld w 22 4 = x1 ∧ fld w 0 22 = x2 ∧ zeroAt w 26 7 = true := by
  have hf : Fits 48 ((opc, 40, 8) :: (g.p.toNat, 35, 5) :: (flagCode g.n, 34, 1) :: [(flagCode x0, 33, 1), (x1.toNat, 22, 4), (x2.toNat, 0, 22)]) :=
    ⟨by decide, ho, by decide, g.p.isLt, by decide, flagCode_lt g.n, by decide, flagCode_lt x0, by decide, x1.isLt, by decide, x2.isLt, trivial⟩
  have hw := (congrArg BitVec.toNat h).symm.trans (slot_total (rfl) hf)
  exact ⟨opc_toNat (at_word hw (total_field hf (i := 0) rfl)), guard_eq (at_word hw (total_field hf (i := 1) rfl)) (at_word hw (total_field hf (i := 2) rfl)), bitAt_flag (at_word hw (total_field hf (i := 3) rfl)), fld_bits (at_word hw (total_field hf (i := 4) rfl)), fld_bits (at_word hw (total_field hf (i := 5) rfl)), zeroAt_true (at_word hw (total_gap hf rfl))⟩

theorem layout76 {opc : Nat} {w : BitVec 48} (ho : opc < 256) (g : Guard) (x0 : Bool) (x1 : BitVec 6) (x2 : BitVec 6)
    (h : slotBits opc g [(flagCode x0, 33), (x1.toNat, 22), (x2.toNat, 0)] = w) :
    (fld w 40 8).toNat = opc ∧ guardOf w = g ∧ bitAt w 33 = x0 ∧ fld w 22 6 = x1 ∧ fld w 0 6 = x2 ∧ zeroAt w 6 16 = true ∧ zeroAt w 28 5 = true := by
  have hf : Fits 48 ((opc, 40, 8) :: (g.p.toNat, 35, 5) :: (flagCode g.n, 34, 1) :: [(flagCode x0, 33, 1), (x1.toNat, 22, 6), (x2.toNat, 0, 6)]) :=
    ⟨by decide, ho, by decide, g.p.isLt, by decide, flagCode_lt g.n, by decide, flagCode_lt x0, by decide, x1.isLt, by decide, x2.isLt, trivial⟩
  have hw := (congrArg BitVec.toNat h).symm.trans (slot_total (rfl) hf)
  exact ⟨opc_toNat (at_word hw (total_field hf (i := 0) rfl)), guard_eq (at_word hw (total_field hf (i := 1) rfl)) (at_word hw (total_field hf (i := 2) rfl)), bitAt_flag (at_word hw (total_field hf (i := 3) rfl)), fld_bits (at_word hw (total_field hf (i := 4) rfl)), fld_bits (at_word hw (total_field hf (i := 5) rfl)), zeroAt_true (at_word hw (total_gap hf rfl)), zeroAt_true (at_word hw (total_gap hf rfl))⟩

theorem layout77 {opc : Nat} {w : BitVec 48} (ho : opc < 256) (g : Guard) (x0 : RMode)
    (h : slotBits opc g [(roundCode x0, 32)] = w) :
    (fld w 40 8).toNat = opc ∧ guardOf w = g ∧ roundOf (fld w 32 2) = x0 ∧ zeroAt w 0 32 = true := by
  have hf : Fits 48 ((opc, 40, 8) :: (g.p.toNat, 35, 5) :: (flagCode g.n, 34, 1) :: [(roundCode x0, 32, 2)]) :=
    ⟨by decide, ho, by decide, g.p.isLt, by decide, flagCode_lt g.n, by decide, roundCode_lt x0, trivial⟩
  have hw := (congrArg BitVec.toNat h).symm.trans (slot_total (rfl) hf)
  exact ⟨opc_toNat (at_word hw (total_field hf (i := 0) rfl)), guard_eq (at_word hw (total_field hf (i := 1) rfl)) (at_word hw (total_field hf (i := 2) rfl)), (congrArg roundOf (fld_eq (v := roundCode x0) (at_word hw (total_field hf (i := 3) rfl)))).trans (roundOf_code x0), zeroAt_true (at_word hw (total_gap hf rfl))⟩

theorem layout78 {opc : Nat} {w : BitVec 48} (ho : opc < 256) (g : Guard) (x0 : BitVec 10) (x1 : Bool)
    (h : slotBits opc g [(x0.toNat, 24), (flagCode x1, 23)] = w) :
    (fld w 40 8).toNat = opc ∧ guardOf w = g ∧ fld w 24 10 = x0 ∧ bitAt w 23 = x1 ∧ zeroAt w 0 23 = true := by
  have hf : Fits 48 ((opc, 40, 8) :: (g.p.toNat, 35, 5) :: (flagCode g.n, 34, 1) :: [(x0.toNat, 24, 10), (flagCode x1, 23, 1)]) :=
    ⟨by decide, ho, by decide, g.p.isLt, by decide, flagCode_lt g.n, by decide, x0.isLt, by decide, flagCode_lt x1, trivial⟩
  have hw := (congrArg BitVec.toNat h).symm.trans (slot_total (rfl) hf)
  exact ⟨opc_toNat (at_word hw (total_field hf (i := 0) rfl)), guard_eq (at_word hw (total_field hf (i := 1) rfl)) (at_word hw (total_field hf (i := 2) rfl)), fld_bits (at_word hw (total_field hf (i := 3) rfl)), bitAt_flag (at_word hw (total_field hf (i := 4) rfl)), zeroAt_true (at_word hw (total_gap hf rfl))⟩

/-! ### One lemma per constructor -/

theorem bundleIssue : Statement .bundleIssue :=
  fun _ _ _ hk _ => nomatch hk

theorem energyStretch : Statement .energyStretch :=
  fun _ _ _ hk _ => nomatch hk

theorem budgetRefill : Statement .budgetRefill :=
  fun _ _ _ hk _ => nomatch hk

theorem staticCharge : Statement .staticCharge :=
  fun _ _ _ hk _ => nomatch hk

theorem resultLand : Statement .resultLand :=
  fun _ _ _ hk _ => nomatch hk

theorem landing : Statement .landing :=
  fun _ _ _ hk _ => nomatch hk

theorem lateDataArrival : Statement .lateDataArrival :=
  fun _ _ _ hk _ => nomatch hk

theorem fetchArrival : Statement .fetchArrival :=
  fun _ _ _ hk _ => nomatch hk

theorem codePageLoad : Statement .codePageLoad :=
  fun _ _ _ hk _ => nomatch hk

theorem bodyPublish (sp : Space) (stub : Nat) (body : List Byte) : Statement (.bodyPublish sp stub body) :=
  fun _ _ _ hk _ => nomatch hk

theorem nop : Statement .nop := by
  intro k w _ _ he
  cases Option.some.inj he
  rfl

theorem br (g : Guard) (off : BitVec 24) : Statement (.br g off) := by
  intro _ w hw hk he
  obtain ⟨ho, hg, f0, z0⟩ := layout0 (by decide) g off (Option.some.inj he)
  refine (ctl_code hk ho (by decide)).trans ?_
  change (accept (zeroAt w 0 10) (.br (guardOf w) (fld w 10 24))) = _
  simp only [hg, f0, z0]
  exact accept_wf hw

theorem bri (g : Guard) (a : BitVec 6) : Statement (.bri g a) := by
  intro _ w hw hk he
  obtain ⟨ho, hg, f0, z0⟩ := layout1 (by decide) g a (Option.some.inj he)
  refine (ctl_code hk ho (by decide)).trans ?_
  change (accept (zeroAt w 0 28) (.bri (guardOf w) (fld w 28 6))) = _
  simp only [hg, f0, z0]
  exact accept_wf hw

theorem call (g : Guard) (off : BitVec 24) : Statement (.call g off) := by
  intro _ w hw hk he
  obtain ⟨ho, hg, f0, z0⟩ := layout0 (by decide) g off (Option.some.inj he)
  refine (ctl_code hk ho (by decide)).trans ?_
  change (accept (zeroAt w 0 10) (.call (guardOf w) (fld w 10 24))) = _
  simp only [hg, f0, z0]
  exact accept_wf hw

theorem calli (g : Guard) (a : BitVec 6) : Statement (.calli g a) := by
  intro _ w hw hk he
  obtain ⟨ho, hg, f0, z0⟩ := layout1 (by decide) g a (Option.some.inj he)
  refine (ctl_code hk ho (by decide)).trans ?_
  change (accept (zeroAt w 0 28) (.calli (guardOf w) (fld w 28 6))) = _
  simp only [hg, f0, z0]
  exact accept_wf hw

theorem ret (g : Guard) : Statement (.ret g) := by
  intro _ w hw hk he
  obtain ⟨ho, hg, z0⟩ := layout2 (by decide) g (Option.some.inj he)
  refine (ctl_code hk ho (by decide)).trans ?_
  change (accept (zeroAt w 0 34) (.ret (guardOf w))) = _
  simp only [hg, z0]
  exact accept_wf hw

theorem loop (g : Guard) (lc : BitVec 2) (body : BitVec 12) (count : BitVec 20) : Statement (.loop g lc body count) := by
  intro _ w hw hk he
  obtain ⟨ho, hg, f0, f1, f2⟩ := layout3 (by decide) g lc body count (Option.some.inj he)
  refine (ctl_code hk ho (by decide)).trans ?_
  change (accept true (.loop (guardOf w) (fld w 32 2) (fld w 20 12) (fld w 0 20))) = _
  simp only [hg, f0, f1, f2]
  exact accept_wf hw

theorem loopr (g : Guard) (lc : BitVec 2) (body : BitVec 12) (a : BitVec 6) : Statement (.loopr g lc body a) := by
  intro _ w hw hk he
  obtain ⟨ho, hg, f0, f1, f2, z0⟩ := layout4 (by decide) g lc body a (Option.some.inj he)
  refine (ctl_code hk ho (by decide)).trans ?_
  change (accept (zeroAt w 0 14) (.loopr (guardOf w) (fld w 32 2) (fld w 20 12) (fld w 14 6))) = _
  simp only [hg, f0, f1, f2, z0]
  exact accept_wf hw

theorem lbrk (g : Guard) (lc : BitVec 2) : Statement (.lbrk g lc) := by
  intro _ w hw hk he
  obtain ⟨ho, hg, f0, z0⟩ := layout5 (by decide) g lc (Option.some.inj he)
  refine (ctl_code hk ho (by decide)).trans ?_
  change (accept (zeroAt w 0 32) (.lbrk (guardOf w) (fld w 32 2))) = _
  simp only [hg, f0, z0]
  exact accept_wf hw

theorem mark (g : Guard) (ex : BitVec 32) : Statement (.mark g ex) := by
  intro _ w hw hk he
  obtain ⟨ho, hg, f0, z32⟩ := layout6 (by decide) g ex (Option.some.inj he)
  refine (ctl_code hk ho (by decide)).trans ?_
  change (accept (zeroAt w 32 2) (.mark (guardOf w) (fld w 0 32))) = _
  simp only [hg, f0, z32]
  exact accept_wf hw

theorem trap (g : Guard) (imm : BitVec 16) : Statement (.trap g imm) := by
  intro _ w hw hk he
  obtain ⟨ho, hg, f0, z16⟩ := layout7 (by decide) g imm (Option.some.inj he)
  refine (ctl_code hk ho (by decide)).trans ?_
  change (accept (zeroAt w 16 18) (.trap (guardOf w) (fld w 0 16))) = _
  simp only [hg, f0, z16]
  exact accept_wf hw

theorem yield (g : Guard) : Statement (.yield g) := by
  intro _ w hw hk he
  obtain ⟨ho, hg, z0⟩ := layout2 (by decide) g (Option.some.inj he)
  refine (ctl_code hk ho (by decide)).trans ?_
  change (accept (zeroAt w 0 34) (.yield (guardOf w))) = _
  simp only [hg, z0]
  exact accept_wf hw

theorem commit (g : Guard) : Statement (.commit g) := by
  intro _ w hw hk he
  obtain ⟨ho, hg, z0⟩ := layout2 (by decide) g (Option.some.inj he)
  refine (ctl_code hk ho (by decide)).trans ?_
  change (accept (zeroAt w 0 34) (.commit (guardOf w))) = _
  simp only [hg, z0]
  exact accept_wf hw

theorem endt (g : Guard) : Statement (.endt g) := by
  intro _ w hw hk he
  obtain ⟨ho, hg, z0⟩ := layout2 (by decide) g (Option.some.inj he)
  refine (ctl_code hk ho (by decide)).trans ?_
  change (accept (zeroAt w 0 34) (.endt (guardOf w))) = _
  simp only [hg, z0]
  exact accept_wf hw

theorem taskDrainEnd : Statement .taskDrainEnd :=
  fun _ _ _ hk _ => nomatch hk

theorem waitc (g : Guard) (n : BitVec 16) : Statement (.waitc g n) := by
  intro _ w hw hk he
  obtain ⟨ho, hg, f0, z16⟩ := layout7 (by decide) g n (Option.some.inj he)
  refine (ctl_code hk ho (by decide)).trans ?_
  change (accept (zeroAt w 16 18) (.waitc (guardOf w) (fld w 0 16))) = _
  simp only [hg, f0, z16]
  exact accept_wf hw

theorem cbar (g : Guard) : Statement (.cbar g) := by
  intro _ w hw hk he
  obtain ⟨ho, hg, z0⟩ := layout2 (by decide) g (Option.some.inj he)
  refine (ctl_code hk ho (by decide)).trans ?_
  change (accept (zeroAt w 0 34) (.cbar (guardOf w))) = _
  simp only [hg, z0]
  exact accept_wf hw

theorem barrierComplete : Statement .barrierComplete :=
  fun _ _ _ hk _ => nomatch hk

theorem trapret (g : Guard) : Statement (.trapret g) := by
  intro _ w hw hk he
  obtain ⟨ho, hg, z0⟩ := layout2 (by decide) g (Option.some.inj he)
  refine (ctl_code hk ho (by decide)).trans ?_
  change (needPriv true true <| accept (zeroAt w 0 34) (.trapret (guardOf w))) = _
  simp only [needPriv_held, hg, z0]
  exact accept_wf hw

theorem idle (g : Guard) : Statement (.idle g) := by
  intro _ w hw hk he
  obtain ⟨ho, hg, z0⟩ := layout2 (by decide) g (Option.some.inj he)
  refine (ctl_code hk ho (by decide)).trans ?_
  change (needPriv true true <| accept (zeroAt w 0 34) (.idle (guardOf w))) = _
  simp only [needPriv_held, hg, z0]
  exact accept_wf hw

theorem idleTimeout : Statement .idleTimeout :=
  fun _ _ _ hk _ => nomatch hk

theorem add (u : Bool) (g : Guard) (d : BitVec 6) (a : BitVec 6) (b : BitVec 6) : Statement (.add u g d a b) := by
  intro _ w hw hk he
  obtain ⟨ho, hg, f0, f1, f2, z0⟩ := layout8 (by decide) g d a b (Option.some.inj he)
  refine (scalar_code hk ho (by decide)).trans ?_
  change (accept (zeroAt w 0 16) (.add u (guardOf w) (fld w 28 6) (fld w 22 6) (fld w 16 6))) = _
  simp only [hg, f0, f1, f2, z0]
  exact accept_wf hw

theorem sub (u : Bool) (g : Guard) (d : BitVec 6) (a : BitVec 6) (b : BitVec 6) : Statement (.sub u g d a b) := by
  intro _ w hw hk he
  obtain ⟨ho, hg, f0, f1, f2, z0⟩ := layout8 (by decide) g d a b (Option.some.inj he)
  refine (scalar_code hk ho (by decide)).trans ?_
  change (accept (zeroAt w 0 16) (.sub u (guardOf w) (fld w 28 6) (fld w 22 6) (fld w 16 6))) = _
  simp only [hg, f0, f1, f2, z0]
  exact accept_wf hw

theorem addi (u : Bool) (g : Guard) (d : BitVec 6) (a : BitVec 6) (imm : BitVec 22) : Statement (.addi u g d a imm) := by
  intro _ w hw hk he
  obtain ⟨ho, hg, f0, f1, f2⟩ := layout9 (by decide) g d a imm (Option.some.inj he)
  refine (scalar_code hk ho (by decide)).trans ?_
  change (accept true (.addi u (guardOf w) (fld w 28 6) (fld w 22 6) (fld w 0 22))) = _
  simp only [hg, f0, f1, f2]
  exact accept_wf hw

theorem mul (u : Bool) (g : Guard) (d : BitVec 6) (a : BitVec 6) (b : BitVec 6) : Statement (.mul u g d a b) := by
  intro _ w hw hk he
  obtain ⟨ho, hg, f0, f1, f2, z0⟩ := layout8 (by decide) g d a b (Option.some.inj he)
  refine (scalar_code hk ho (by decide)).trans ?_
  change (accept (zeroAt w 0 16) (.mul u (guardOf w) (fld w 28 6) (fld w 22 6) (fld w 16 6))) = _
  simp only [hg, f0, f1, f2, z0]
  exact accept_wf hw

theorem mulh (u : Bool) (g : Guard) (d : BitVec 6) (a : BitVec 6) (b : BitVec 6) : Statement (.mulh u g d a b) := by
  intro _ w hw hk he
  obtain ⟨ho, hg, f0, f1, f2, z0⟩ := layout8 (by decide) g d a b (Option.some.inj he)
  refine (scalar_code hk ho (by decide)).trans ?_
  change (accept (zeroAt w 0 16) (.mulh u (guardOf w) (fld w 28 6) (fld w 22 6) (fld w 16 6))) = _
  simp only [hg, f0, f1, f2, z0]
  exact accept_wf hw

theorem mulhu (u : Bool) (g : Guard) (d : BitVec 6) (a : BitVec 6) (b : BitVec 6) : Statement (.mulhu u g d a b) := by
  intro _ w hw hk he
  obtain ⟨ho, hg, f0, f1, f2, z0⟩ := layout8 (by decide) g d a b (Option.some.inj he)
  refine (scalar_code hk ho (by decide)).trans ?_
  change (accept (zeroAt w 0 16) (.mulhu u (guardOf w) (fld w 28 6) (fld w 22 6) (fld w 16 6))) = _
  simp only [hg, f0, f1, f2, z0]
  exact accept_wf hw

theorem and (u : Bool) (g : Guard) (d : BitVec 6) (a : BitVec 6) (b : BitVec 6) : Statement (.and u g d a b) := by
  intro _ w hw hk he
  obtain ⟨ho, hg, f0, f1, f2, z0⟩ := layout8 (by decide) g d a b (Option.some.inj he)
  refine (scalar_code hk ho (by decide)).trans ?_
  change (accept (zeroAt w 0 16) (.and u (guardOf w) (fld w 28 6) (fld w 22 6) (fld w 16 6))) = _
  simp only [hg, f0, f1, f2, z0]
  exact accept_wf hw

theorem or (u : Bool) (g : Guard) (d : BitVec 6) (a : BitVec 6) (b : BitVec 6) : Statement (.or u g d a b) := by
  intro _ w hw hk he
  obtain ⟨ho, hg, f0, f1, f2, z0⟩ := layout8 (by decide) g d a b (Option.some.inj he)
  refine (scalar_code hk ho (by decide)).trans ?_
  change (accept (zeroAt w 0 16) (.or u (guardOf w) (fld w 28 6) (fld w 22 6) (fld w 16 6))) = _
  simp only [hg, f0, f1, f2, z0]
  exact accept_wf hw

theorem xor (u : Bool) (g : Guard) (d : BitVec 6) (a : BitVec 6) (b : BitVec 6) : Statement (.xor u g d a b) := by
  intro _ w hw hk he
  obtain ⟨ho, hg, f0, f1, f2, z0⟩ := layout8 (by decide) g d a b (Option.some.inj he)
  refine (scalar_code hk ho (by decide)).trans ?_
  change (accept (zeroAt w 0 16) (.xor u (guardOf w) (fld w 28 6) (fld w 22 6) (fld w 16 6))) = _
  simp only [hg, f0, f1, f2, z0]
  exact accept_wf hw

theorem andn (u : Bool) (g : Guard) (d : BitVec 6) (a : BitVec 6) (b : BitVec 6) : Statement (.andn u g d a b) := by
  intro _ w hw hk he
  obtain ⟨ho, hg, f0, f1, f2, z0⟩ := layout8 (by decide) g d a b (Option.some.inj he)
  refine (scalar_code hk ho (by decide)).trans ?_
  change (accept (zeroAt w 0 16) (.andn u (guardOf w) (fld w 28 6) (fld w 22 6) (fld w 16 6))) = _
  simp only [hg, f0, f1, f2, z0]
  exact accept_wf hw

theorem shl (u : Bool) (g : Guard) (d : BitVec 6) (a : BitVec 6) (b : BitVec 6) : Statement (.shl u g d a b) := by
  intro _ w hw hk he
  obtain ⟨ho, hg, f0, f1, f2, z0⟩ := layout8 (by decide) g d a b (Option.some.inj he)
  refine (scalar_code hk ho (by decide)).trans ?_
  change (accept (zeroAt w 0 16) (.shl u (guardOf w) (fld w 28 6) (fld w 22 6) (fld w 16 6))) = _
  simp only [hg, f0, f1, f2, z0]
  exact accept_wf hw

theorem shr (u : Bool) (g : Guard) (d : BitVec 6) (a : BitVec 6) (b : BitVec 6) : Statement (.shr u g d a b) := by
  intro _ w hw hk he
  obtain ⟨ho, hg, f0, f1, f2, z0⟩ := layout8 (by decide) g d a b (Option.some.inj he)
  refine (scalar_code hk ho (by decide)).trans ?_
  change (accept (zeroAt w 0 16) (.shr u (guardOf w) (fld w 28 6) (fld w 22 6) (fld w 16 6))) = _
  simp only [hg, f0, f1, f2, z0]
  exact accept_wf hw

theorem sar (u : Bool) (g : Guard) (d : BitVec 6) (a : BitVec 6) (b : BitVec 6) : Statement (.sar u g d a b) := by
  intro _ w hw hk he
  obtain ⟨ho, hg, f0, f1, f2, z0⟩ := layout8 (by decide) g d a b (Option.some.inj he)
  refine (scalar_code hk ho (by decide)).trans ?_
  change (accept (zeroAt w 0 16) (.sar u (guardOf w) (fld w 28 6) (fld w 22 6) (fld w 16 6))) = _
  simp only [hg, f0, f1, f2, z0]
  exact accept_wf hw

theorem shli (u : Bool) (g : Guard) (d : BitVec 6) (a : BitVec 6) (n : BitVec 6) : Statement (.shli u g d a n) := by
  intro _ w hw hk he
  obtain ⟨ho, hg, f0, f1, f2, z6⟩ := layout10 (by decide) g d a n (Option.some.inj he)
  refine (scalar_code hk ho (by decide)).trans ?_
  change (accept (zeroAt w 6 16) (.shli u (guardOf w) (fld w 28 6) (fld w 22 6) (fld w 0 6))) = _
  simp only [hg, f0, f1, f2, z6]
  exact accept_wf hw

theorem shri (u : Bool) (g : Guard) (d : BitVec 6) (a : BitVec 6) (n : BitVec 6) : Statement (.shri u g d a n) := by
  intro _ w hw hk he
  obtain ⟨ho, hg, f0, f1, f2, z6⟩ := layout10 (by decide) g d a n (Option.some.inj he)
  refine (scalar_code hk ho (by decide)).trans ?_
  change (accept (zeroAt w 6 16) (.shri u (guardOf w) (fld w 28 6) (fld w 22 6) (fld w 0 6))) = _
  simp only [hg, f0, f1, f2, z6]
  exact accept_wf hw

theorem sari (u : Bool) (g : Guard) (d : BitVec 6) (a : BitVec 6) (n : BitVec 6) : Statement (.sari u g d a n) := by
  intro _ w hw hk he
  obtain ⟨ho, hg, f0, f1, f2, z6⟩ := layout10 (by decide) g d a n (Option.some.inj he)
  refine (scalar_code hk ho (by decide)).trans ?_
  change (accept (zeroAt w 6 16) (.sari u (guardOf w) (fld w 28 6) (fld w 22 6) (fld w 0 6))) = _
  simp only [hg, f0, f1, f2, z6]
  exact accept_wf hw

theorem min (u : Bool) (g : Guard) (d : BitVec 6) (a : BitVec 6) (b : BitVec 6) : Statement (.min u g d a b) := by
  intro _ w hw hk he
  obtain ⟨ho, hg, f0, f1, f2, z0⟩ := layout8 (by decide) g d a b (Option.some.inj he)
  refine (scalar_code hk ho (by decide)).trans ?_
  change (accept (zeroAt w 0 16) (.min u (guardOf w) (fld w 28 6) (fld w 22 6) (fld w 16 6))) = _
  simp only [hg, f0, f1, f2, z0]
  exact accept_wf hw

theorem max (u : Bool) (g : Guard) (d : BitVec 6) (a : BitVec 6) (b : BitVec 6) : Statement (.max u g d a b) := by
  intro _ w hw hk he
  obtain ⟨ho, hg, f0, f1, f2, z0⟩ := layout8 (by decide) g d a b (Option.some.inj he)
  refine (scalar_code hk ho (by decide)).trans ?_
  change (accept (zeroAt w 0 16) (.max u (guardOf w) (fld w 28 6) (fld w 22 6) (fld w 16 6))) = _
  simp only [hg, f0, f1, f2, z0]
  exact accept_wf hw

theorem minu (u : Bool) (g : Guard) (d : BitVec 6) (a : BitVec 6) (b : BitVec 6) : Statement (.minu u g d a b) := by
  intro _ w hw hk he
  obtain ⟨ho, hg, f0, f1, f2, z0⟩ := layout8 (by decide) g d a b (Option.some.inj he)
  refine (scalar_code hk ho (by decide)).trans ?_
  change (accept (zeroAt w 0 16) (.minu u (guardOf w) (fld w 28 6) (fld w 22 6) (fld w 16 6))) = _
  simp only [hg, f0, f1, f2, z0]
  exact accept_wf hw

theorem maxu (u : Bool) (g : Guard) (d : BitVec 6) (a : BitVec 6) (b : BitVec 6) : Statement (.maxu u g d a b) := by
  intro _ w hw hk he
  obtain ⟨ho, hg, f0, f1, f2, z0⟩ := layout8 (by decide) g d a b (Option.some.inj he)
  refine (scalar_code hk ho (by decide)).trans ?_
  change (accept (zeroAt w 0 16) (.maxu u (guardOf w) (fld w 28 6) (fld w 22 6) (fld w 16 6))) = _
  simp only [hg, f0, f1, f2, z0]
  exact accept_wf hw

theorem clz (u : Bool) (g : Guard) (d : BitVec 6) (a : BitVec 6) : Statement (.clz u g d a) := by
  intro _ w hw hk he
  obtain ⟨ho, hg, f0, f1, z0⟩ := layout11 (by decide) g d a (Option.some.inj he)
  refine (scalar_code hk ho (by decide)).trans ?_
  change (accept (zeroAt w 0 22) (.clz u (guardOf w) (fld w 28 6) (fld w 22 6))) = _
  simp only [hg, f0, f1, z0]
  exact accept_wf hw

theorem popc (u : Bool) (g : Guard) (d : BitVec 6) (a : BitVec 6) : Statement (.popc u g d a) := by
  intro _ w hw hk he
  obtain ⟨ho, hg, f0, f1, z0⟩ := layout11 (by decide) g d a (Option.some.inj he)
  refine (scalar_code hk ho (by decide)).trans ?_
  change (accept (zeroAt w 0 22) (.popc u (guardOf w) (fld w 28 6) (fld w 22 6))) = _
  simp only [hg, f0, f1, z0]
  exact accept_wf hw

theorem movi (u : Bool) (g : Guard) (d : BitVec 6) (imm : BitVec 28) : Statement (.movi u g d imm) := by
  intro _ w hw hk he
  obtain ⟨ho, hg, f0, f1⟩ := layout12 (by decide) g d imm (Option.some.inj he)
  refine (scalar_code hk ho (by decide)).trans ?_
  change (accept true (.movi u (guardOf w) (fld w 28 6) (fld w 0 28))) = _
  simp only [hg, f0, f1]
  exact accept_wf hw

theorem movhi (u : Bool) (g : Guard) (d : BitVec 6) (imm : BitVec 28) : Statement (.movhi u g d imm) := by
  intro _ w hw hk he
  obtain ⟨ho, hg, f0, f1⟩ := layout12 (by decide) g d imm (Option.some.inj he)
  refine (scalar_code hk ho (by decide)).trans ?_
  change (accept true (.movhi u (guardOf w) (fld w 28 6) (fld w 0 28))) = _
  simp only [hg, f0, f1]
  exact accept_wf hw

theorem shadd (u : Bool) (g : Guard) (d : BitVec 6) (a : BitVec 6) (b : BitVec 6) (sh : BitVec 3) : Statement (.shadd u g d a b sh) := by
  intro _ w hw hk he
  obtain ⟨ho, hg, f0, f1, f2, f3, z3⟩ := layout13 (by decide) g d a b sh (Option.some.inj he)
  refine (scalar_code hk ho (by decide)).trans ?_
  change (accept (zeroAt w 3 13) (.shadd u (guardOf w) (fld w 28 6) (fld w 22 6) (fld w 16 6) (fld w 0 3))) = _
  simp only [hg, f0, f1, f2, f3, z3]
  exact accept_wf hw

theorem sel (u : Bool) (g : Guard) (d : BitVec 6) (a : BitVec 6) (b : BitVec 6) (ps : BitVec 5) : Statement (.sel u g d a b ps) := by
  intro _ w hw hk he
  obtain ⟨ho, hg, f0, f1, f2, f3, z0⟩ := layout14 (by decide) g d a b ps (Option.some.inj he)
  refine (scalar_code hk ho (by decide)).trans ?_
  change (accept (zeroAt w 0 11) (.sel u (guardOf w) (fld w 28 6) (fld w 22 6) (fld w 16 6) (fld w 11 5))) = _
  simp only [hg, f0, f1, f2, f3, z0]
  exact accept_wf hw

theorem extu (u : Bool) (g : Guard) (d : BitVec 6) (a : BitVec 6) (hi : BitVec 6) (lo : BitVec 6) : Statement (.extu u g d a hi lo) := by
  intro _ w hw hk he
  obtain ⟨ho, hg, f0, f1, f2, f3, z12⟩ := layout15 (by decide) g d a hi lo (Option.some.inj he)
  refine (scalar_code hk ho (by decide)).trans ?_
  change (accept (zeroAt w 12 10) (.extu u (guardOf w) (fld w 28 6) (fld w 22 6) (fld w 6 6) (fld w 0 6))) = _
  simp only [hg, f0, f1, f2, f3, z12]
  exact accept_wf hw

theorem cmpeq (u : Bool) (g : Guard) (pd : BitVec 5) (a : BitVec 6) (b : BitVec 6) : Statement (.cmpeq u g pd a b) := by
  intro _ w hw hk he
  obtain ⟨ho, hg, f0, f1, f2, z0, z28⟩ := layout16 (by decide) g pd a b (Option.some.inj he)
  refine (scalar_code hk ho (by decide)).trans ?_
  change (accept (zeroAt w 0 16 && zeroAt w 28 1) (.cmpeq u (guardOf w) (fld w 29 5) (fld w 22 6) (fld w 16 6))) = _
  simp only [hg, f0, f1, f2, z0, z28]
  exact accept_wf hw

theorem cmpne (u : Bool) (g : Guard) (pd : BitVec 5) (a : BitVec 6) (b : BitVec 6) : Statement (.cmpne u g pd a b) := by
  intro _ w hw hk he
  obtain ⟨ho, hg, f0, f1, f2, z0, z28⟩ := layout16 (by decide) g pd a b (Option.some.inj he)
  refine (scalar_code hk ho (by decide)).trans ?_
  change (accept (zeroAt w 0 16 && zeroAt w 28 1) (.cmpne u (guardOf w) (fld w 29 5) (fld w 22 6) (fld w 16 6))) = _
  simp only [hg, f0, f1, f2, z0, z28]
  exact accept_wf hw

theorem cmplt (u : Bool) (g : Guard) (pd : BitVec 5) (a : BitVec 6) (b : BitVec 6) : Statement (.cmplt u g pd a b) := by
  intro _ w hw hk he
  obtain ⟨ho, hg, f0, f1, f2, z0, z28⟩ := layout16 (by decide) g pd a b (Option.some.inj he)
  refine (scalar_code hk ho (by decide)).trans ?_
  change (accept (zeroAt w 0 16 && zeroAt w 28 1) (.cmplt u (guardOf w) (fld w 29 5) (fld w 22 6) (fld w 16 6))) = _
  simp only [hg, f0, f1, f2, z0, z28]
  exact accept_wf hw

theorem cmple (u : Bool) (g : Guard) (pd : BitVec 5) (a : BitVec 6) (b : BitVec 6) : Statement (.cmple u g pd a b) := by
  intro _ w hw hk he
  obtain ⟨ho, hg, f0, f1, f2, z0, z28⟩ := layout16 (by decide) g pd a b (Option.some.inj he)
  refine (scalar_code hk ho (by decide)).trans ?_
  change (accept (zeroAt w 0 16 && zeroAt w 28 1) (.cmple u (guardOf w) (fld w 29 5) (fld w 22 6) (fld w 16 6))) = _
  simp only [hg, f0, f1, f2, z0, z28]
  exact accept_wf hw

theorem cmpltu (u : Bool) (g : Guard) (pd : BitVec 5) (a : BitVec 6) (b : BitVec 6) : Statement (.cmpltu u g pd a b) := by
  intro _ w hw hk he
  obtain ⟨ho, hg, f0, f1, f2, z0, z28⟩ := layout16 (by decide) g pd a b (Option.some.inj he)
  refine (scalar_code hk ho (by decide)).trans ?_
  change (accept (zeroAt w 0 16 && zeroAt w 28 1) (.cmpltu u (guardOf w) (fld w 29 5) (fld w 22 6) (fld w 16 6))) = _
  simp only [hg, f0, f1, f2, z0, z28]
  exact accept_wf hw

theorem cmpleu (u : Bool) (g : Guard) (pd : BitVec 5) (a : BitVec 6) (b : BitVec 6) : Statement (.cmpleu u g pd a b) := by
  intro _ w hw hk he
  obtain ⟨ho, hg, f0, f1, f2, z0, z28⟩ := layout16 (by decide) g pd a b (Option.some.inj he)
  refine (scalar_code hk ho (by decide)).trans ?_
  change (accept (zeroAt w 0 16 && zeroAt w 28 1) (.cmpleu u (guardOf w) (fld w 29 5) (fld w 22 6) (fld w 16 6))) = _
  simp only [hg, f0, f1, f2, z0, z28]
  exact accept_wf hw

theorem cmpeqi (u : Bool) (g : Guard) (pd : BitVec 5) (a : BitVec 6) (imm : BitVec 22) : Statement (.cmpeqi u g pd a imm) := by
  intro _ w hw hk he
  obtain ⟨ho, hg, f0, f1, f2, z28⟩ := layout17 (by decide) g pd a imm (Option.some.inj he)
  refine (scalar_code hk ho (by decide)).trans ?_
  change (accept (zeroAt w 28 1) (.cmpeqi u (guardOf w) (fld w 29 5) (fld w 22 6) (fld w 0 22))) = _
  simp only [hg, f0, f1, f2, z28]
  exact accept_wf hw

theorem cmplti (u : Bool) (g : Guard) (pd : BitVec 5) (a : BitVec 6) (imm : BitVec 22) : Statement (.cmplti u g pd a imm) := by
  intro _ w hw hk he
  obtain ⟨ho, hg, f0, f1, f2, z28⟩ := layout17 (by decide) g pd a imm (Option.some.inj he)
  refine (scalar_code hk ho (by decide)).trans ?_
  change (accept (zeroAt w 28 1) (.cmplti u (guardOf w) (fld w 29 5) (fld w 22 6) (fld w 0 22))) = _
  simp only [hg, f0, f1, f2, z28]
  exact accept_wf hw

theorem pand (u : Bool) (g : Guard) (pd : BitVec 5) (pa : BitVec 5) (pb : BitVec 5) : Statement (.pand u g pd pa pb) := by
  intro _ w hw hk he
  obtain ⟨ho, hg, f0, f1, f2, z0⟩ := layout18 (by decide) g pd pa pb (Option.some.inj he)
  refine (scalar_code hk ho (by decide)).trans ?_
  change (accept (zeroAt w 0 19) (.pand u (guardOf w) (fld w 29 5) (fld w 24 5) (fld w 19 5))) = _
  simp only [hg, f0, f1, f2, z0]
  exact accept_wf hw

theorem por (u : Bool) (g : Guard) (pd : BitVec 5) (pa : BitVec 5) (pb : BitVec 5) : Statement (.por u g pd pa pb) := by
  intro _ w hw hk he
  obtain ⟨ho, hg, f0, f1, f2, z0⟩ := layout18 (by decide) g pd pa pb (Option.some.inj he)
  refine (scalar_code hk ho (by decide)).trans ?_
  change (accept (zeroAt w 0 19) (.por u (guardOf w) (fld w 29 5) (fld w 24 5) (fld w 19 5))) = _
  simp only [hg, f0, f1, f2, z0]
  exact accept_wf hw

theorem pxor (u : Bool) (g : Guard) (pd : BitVec 5) (pa : BitVec 5) (pb : BitVec 5) : Statement (.pxor u g pd pa pb) := by
  intro _ w hw hk he
  obtain ⟨ho, hg, f0, f1, f2, z0⟩ := layout18 (by decide) g pd pa pb (Option.some.inj he)
  refine (scalar_code hk ho (by decide)).trans ?_
  change (accept (zeroAt w 0 19) (.pxor u (guardOf w) (fld w 29 5) (fld w 24 5) (fld w 19 5))) = _
  simp only [hg, f0, f1, f2, z0]
  exact accept_wf hw

theorem pandn (u : Bool) (g : Guard) (pd : BitVec 5) (pa : BitVec 5) (pb : BitVec 5) : Statement (.pandn u g pd pa pb) := by
  intro _ w hw hk he
  obtain ⟨ho, hg, f0, f1, f2, z0⟩ := layout18 (by decide) g pd pa pb (Option.some.inj he)
  refine (scalar_code hk ho (by decide)).trans ?_
  change (accept (zeroAt w 0 19) (.pandn u (guardOf w) (fld w 29 5) (fld w 24 5) (fld w 19 5))) = _
  simp only [hg, f0, f1, f2, z0]
  exact accept_wf hw

theorem pnot (u : Bool) (g : Guard) (pd : BitVec 5) (pa : BitVec 5) : Statement (.pnot u g pd pa) := by
  intro _ w hw hk he
  obtain ⟨ho, hg, f0, f1, z0⟩ := layout19 (by decide) g pd pa (Option.some.inj he)
  refine (scalar_code hk ho (by decide)).trans ?_
  change (accept (zeroAt w 0 24) (.pnot u (guardOf w) (fld w 29 5) (fld w 24 5))) = _
  simp only [hg, f0, f1, z0]
  exact accept_wf hw

theorem pmov (u : Bool) (g : Guard) (pd : BitVec 5) (pa : BitVec 5) : Statement (.pmov u g pd pa) := by
  intro _ w hw hk he
  obtain ⟨ho, hg, f0, f1, z0⟩ := layout19 (by decide) g pd pa (Option.some.inj he)
  refine (scalar_code hk ho (by decide)).trans ?_
  change (accept (zeroAt w 0 24) (.pmov u (guardOf w) (fld w 29 5) (fld w 24 5))) = _
  simp only [hg, f0, f1, z0]
  exact accept_wf hw

theorem psetn (u : Bool) (g : Guard) (pd : BitVec 5) (a : BitVec 6) : Statement (.psetn u g pd a) := by
  intro _ w hw hk he
  obtain ⟨ho, hg, f0, f1, z0, z28⟩ := layout20 (by decide) g pd a (Option.some.inj he)
  refine (scalar_code hk ho (by decide)).trans ?_
  change (accept (zeroAt w 0 22 && zeroAt w 28 1) (.psetn u (guardOf w) (fld w 29 5) (fld w 22 6))) = _
  simp only [hg, f0, f1, z0, z28]
  exact accept_wf hw

theorem pany (u : Bool) (g : Guard) (pd : BitVec 5) (pa : BitVec 5) (pb : BitVec 5) : Statement (.pany u g pd pa pb) := by
  intro _ w hw hk he
  obtain ⟨ho, hg, f0, f1, f2, z0⟩ := layout18 (by decide) g pd pa pb (Option.some.inj he)
  refine (scalar_code hk ho (by decide)).trans ?_
  change (accept (zeroAt w 0 19) (.pany u (guardOf w) (fld w 29 5) (fld w 24 5) (fld w 19 5))) = _
  simp only [hg, f0, f1, f2, z0]
  exact accept_wf hw

theorem pall (u : Bool) (g : Guard) (pd : BitVec 5) (pa : BitVec 5) (pb : BitVec 5) : Statement (.pall u g pd pa pb) := by
  intro _ w hw hk he
  obtain ⟨ho, hg, f0, f1, f2, z0⟩ := layout18 (by decide) g pd pa pb (Option.some.inj he)
  refine (scalar_code hk ho (by decide)).trans ?_
  change (accept (zeroAt w 0 19) (.pall u (guardOf w) (fld w 29 5) (fld w 24 5) (fld w 19 5))) = _
  simp only [hg, f0, f1, f2, z0]
  exact accept_wf hw

theorem fadd (u : Bool) (g : Guard) (d : BitVec 6) (a : BitVec 6) (b : BitVec 6) : Statement (.fadd u g d a b) := by
  intro _ w hw hk he
  obtain ⟨ho, hg, f0, f1, f2, z0⟩ := layout8 (by decide) g d a b (Option.some.inj he)
  refine (scalar_code hk ho (by decide)).trans ?_
  change (accept (zeroAt w 0 16) (.fadd u (guardOf w) (fld w 28 6) (fld w 22 6) (fld w 16 6))) = _
  simp only [hg, f0, f1, f2, z0]
  exact accept_wf hw

theorem fsub (u : Bool) (g : Guard) (d : BitVec 6) (a : BitVec 6) (b : BitVec 6) : Statement (.fsub u g d a b) := by
  intro _ w hw hk he
  obtain ⟨ho, hg, f0, f1, f2, z0⟩ := layout8 (by decide) g d a b (Option.some.inj he)
  refine (scalar_code hk ho (by decide)).trans ?_
  change (accept (zeroAt w 0 16) (.fsub u (guardOf w) (fld w 28 6) (fld w 22 6) (fld w 16 6))) = _
  simp only [hg, f0, f1, f2, z0]
  exact accept_wf hw

theorem fmul (u : Bool) (g : Guard) (d : BitVec 6) (a : BitVec 6) (b : BitVec 6) : Statement (.fmul u g d a b) := by
  intro _ w hw hk he
  obtain ⟨ho, hg, f0, f1, f2, z0⟩ := layout8 (by decide) g d a b (Option.some.inj he)
  refine (scalar_code hk ho (by decide)).trans ?_
  change (accept (zeroAt w 0 16) (.fmul u (guardOf w) (fld w 28 6) (fld w 22 6) (fld w 16 6))) = _
  simp only [hg, f0, f1, f2, z0]
  exact accept_wf hw

theorem ffma (u : Bool) (g : Guard) (d : BitVec 6) (a : BitVec 6) (b : BitVec 6) (c : BitVec 6) : Statement (.ffma u g d a b c) := by
  intro _ w hw hk he
  obtain ⟨ho, hg, f0, f1, f2, f3, z0⟩ := layout21 (by decide) g d a b c (Option.some.inj he)
  refine (scalar_code hk ho (by decide)).trans ?_
  change (accept (zeroAt w 0 10) (.ffma u (guardOf w) (fld w 28 6) (fld w 22 6) (fld w 16 6) (fld w 10 6))) = _
  simp only [hg, f0, f1, f2, f3, z0]
  exact accept_wf hw

theorem fmin (u : Bool) (g : Guard) (d : BitVec 6) (a : BitVec 6) (b : BitVec 6) : Statement (.fmin u g d a b) := by
  intro _ w hw hk he
  obtain ⟨ho, hg, f0, f1, f2, z0⟩ := layout8 (by decide) g d a b (Option.some.inj he)
  refine (scalar_code hk ho (by decide)).trans ?_
  change (accept (zeroAt w 0 16) (.fmin u (guardOf w) (fld w 28 6) (fld w 22 6) (fld w 16 6))) = _
  simp only [hg, f0, f1, f2, z0]
  exact accept_wf hw

theorem fmax (u : Bool) (g : Guard) (d : BitVec 6) (a : BitVec 6) (b : BitVec 6) : Statement (.fmax u g d a b) := by
  intro _ w hw hk he
  obtain ⟨ho, hg, f0, f1, f2, z0⟩ := layout8 (by decide) g d a b (Option.some.inj he)
  refine (scalar_code hk ho (by decide)).trans ?_
  change (accept (zeroAt w 0 16) (.fmax u (guardOf w) (fld w 28 6) (fld w 22 6) (fld w 16 6))) = _
  simp only [hg, f0, f1, f2, z0]
  exact accept_wf hw

theorem fcmplt (u : Bool) (g : Guard) (pd : BitVec 5) (a : BitVec 6) (b : BitVec 6) : Statement (.fcmplt u g pd a b) := by
  intro _ w hw hk he
  obtain ⟨ho, hg, f0, f1, f2, z0, z28⟩ := layout16 (by decide) g pd a b (Option.some.inj he)
  refine (scalar_code hk ho (by decide)).trans ?_
  change (accept (zeroAt w 0 16 && zeroAt w 28 1) (.fcmplt u (guardOf w) (fld w 29 5) (fld w 22 6) (fld w 16 6))) = _
  simp only [hg, f0, f1, f2, z0, z28]
  exact accept_wf hw

theorem fcmpeq (u : Bool) (g : Guard) (pd : BitVec 5) (a : BitVec 6) (b : BitVec 6) : Statement (.fcmpeq u g pd a b) := by
  intro _ w hw hk he
  obtain ⟨ho, hg, f0, f1, f2, z0, z28⟩ := layout16 (by decide) g pd a b (Option.some.inj he)
  refine (scalar_code hk ho (by decide)).trans ?_
  change (accept (zeroAt w 0 16 && zeroAt w 28 1) (.fcmpeq u (guardOf w) (fld w 29 5) (fld w 22 6) (fld w 16 6))) = _
  simp only [hg, f0, f1, f2, z0, z28]
  exact accept_wf hw

theorem fcvtfi (u : Bool) (g : Guard) (d : BitVec 6) (a : BitVec 6) : Statement (.fcvtfi u g d a) := by
  intro _ w hw hk he
  obtain ⟨ho, hg, f0, f1, z0⟩ := layout11 (by decide) g d a (Option.some.inj he)
  refine (scalar_code hk ho (by decide)).trans ?_
  change (accept (zeroAt w 0 22) (.fcvtfi u (guardOf w) (fld w 28 6) (fld w 22 6))) = _
  simp only [hg, f0, f1, z0]
  exact accept_wf hw

theorem fcvtif (u : Bool) (g : Guard) (d : BitVec 6) (a : BitVec 6) : Statement (.fcvtif u g d a) := by
  intro _ w hw hk he
  obtain ⟨ho, hg, f0, f1, z0⟩ := layout11 (by decide) g d a (Option.some.inj he)
  refine (scalar_code hk ho (by decide)).trans ?_
  change (accept (zeroAt w 0 22) (.fcvtif u (guardOf w) (fld w 28 6) (fld w 22 6))) = _
  simp only [hg, f0, f1, z0]
  exact accept_wf hw

theorem rdsys (u : Bool) (g : Guard) (d : BitVec 6) (idx : BitVec 8) : Statement (.rdsys u g d idx) := by
  intro _ w hw hk he
  obtain ⟨ho, hg, f0, f1, z8⟩ := layout22 (by decide) g d idx (Option.some.inj he)
  refine (scalar_code hk ho (by decide)).trans ?_
  change (needPriv (bitAt w 7) true <| accept (zeroAt w 8 20) (.rdsys u (guardOf w) (fld w 28 6) (fld w 0 8))) = _
  simp only [needPriv_held, hg, f0, f1, z8]
  exact accept_wf hw

theorem wrsys (u : Bool) (g : Guard) (a : BitVec 6) (idx : BitVec 8) : Statement (.wrsys u g a idx) := by
  intro _ w hw hk he
  obtain ⟨ho, hg, f0, f1, z8, z28⟩ := layout23 (by decide) g a idx (Option.some.inj he)
  refine (scalar_code hk ho (by decide)).trans ?_
  change (needPriv (bitAt w 7) true <| accept (zeroAt w 8 14 && zeroAt w 28 6) (.wrsys u (guardOf w) (fld w 22 6) (fld w 0 8))) = _
  simp only [needPriv_held, hg, f0, f1, z8, z28]
  exact accept_wf hw

theorem rddst (u : Bool) (g : Guard) (pd : BitVec 5) : Statement (.rddst u g pd) := by
  intro _ w hw hk he
  obtain ⟨ho, hg, f0, z0⟩ := layout24 (by decide) g pd (Option.some.inj he)
  refine (scalar_code hk ho (by decide)).trans ?_
  change (accept (zeroAt w 0 29) (.rddst u (guardOf w) (fld w 29 5))) = _
  simp only [hg, f0, z0]
  exact accept_wf hw

theorem vadd (u : Bool) (g : Guard) (d : BitVec 8) (a : BitVec 8) (b : BitVec 8) (t : VType) : Statement (.vadd u g d a b t) := by
  intro _ w hw hk he
  obtain ⟨ho, hg, f0, f1, f2, f3, z0⟩ := layout25 (by decide) g d a b t (Option.some.inj he)
  refine (vector_code hk ho (by decide)).trans ?_
  change (accept (zeroAt w 0 8) (.vadd u (guardOf w) (fld w 26 8) (fld w 18 8) (fld w 10 8) (vtypeOf (fld w 8 2)))) = _
  simp only [hg, f0, f1, f2, f3, z0]
  exact accept_wf hw

theorem vsub (u : Bool) (g : Guard) (d : BitVec 8) (a : BitVec 8) (b : BitVec 8) (t : VType) : Statement (.vsub u g d a b t) := by
  intro _ w hw hk he
  obtain ⟨ho, hg, f0, f1, f2, f3, z0⟩ := layout25 (by decide) g d a b t (Option.some.inj he)
  refine (vector_code hk ho (by decide)).trans ?_
  change (accept (zeroAt w 0 8) (.vsub u (guardOf w) (fld w 26 8) (fld w 18 8) (fld w 10 8) (vtypeOf (fld w 8 2)))) = _
  simp only [hg, f0, f1, f2, f3, z0]
  exact accept_wf hw

theorem vmul (u : Bool) (g : Guard) (d : BitVec 8) (a : BitVec 8) (b : BitVec 8) (t : VType) : Statement (.vmul u g d a b t) := by
  intro _ w hw hk he
  obtain ⟨ho, hg, f0, f1, f2, f3, z0⟩ := layout25 (by decide) g d a b t (Option.some.inj he)
  refine (vector_code hk ho (by decide)).trans ?_
  change (accept (zeroAt w 0 8) (.vmul u (guardOf w) (fld w 26 8) (fld w 18 8) (fld w 10 8) (vtypeOf (fld w 8 2)))) = _
  simp only [hg, f0, f1, f2, f3, z0]
  exact accept_wf hw

theorem vfma (u : Bool) (g : Guard) (d : BitVec 8) (a : BitVec 8) (b : BitVec 8) (t : VType) (c : BitVec 8) : Statement (.vfma u g d a b t c) := by
  intro _ w hw hk he
  obtain ⟨ho, hg, f0, f1, f2, f3, f4⟩ := layout26 (by decide) g d a b t c (Option.some.inj he)
  refine (vector_code hk ho (by decide)).trans ?_
  change (accept true (.vfma u (guardOf w) (fld w 26 8) (fld w 18 8) (fld w 10 8) (vtypeOf (fld w 8 2)) (fld w 0 8))) = _
  simp only [hg, f0, f1, f2, f3, f4]
  exact accept_wf hw

theorem vfms (u : Bool) (g : Guard) (d : BitVec 8) (a : BitVec 8) (b : BitVec 8) (t : VType) (c : BitVec 8) : Statement (.vfms u g d a b t c) := by
  intro _ w hw hk he
  obtain ⟨ho, hg, f0, f1, f2, f3, f4⟩ := layout26 (by decide) g d a b t c (Option.some.inj he)
  refine (vector_code hk ho (by decide)).trans ?_
  change (accept true (.vfms u (guardOf w) (fld w 26 8) (fld w 18 8) (fld w 10 8) (vtypeOf (fld w 8 2)) (fld w 0 8))) = _
  simp only [hg, f0, f1, f2, f3, f4]
  exact accept_wf hw

theorem vmin (u : Bool) (g : Guard) (d : BitVec 8) (a : BitVec 8) (b : BitVec 8) (t : VType) : Statement (.vmin u g d a b t) := by
  intro _ w hw hk he
  obtain ⟨ho, hg, f0, f1, f2, f3, z0⟩ := layout25 (by decide) g d a b t (Option.some.inj he)
  refine (vector_code hk ho (by decide)).trans ?_
  change (accept (zeroAt w 0 8) (.vmin u (guardOf w) (fld w 26 8) (fld w 18 8) (fld w 10 8) (vtypeOf (fld w 8 2)))) = _
  simp only [hg, f0, f1, f2, f3, z0]
  exact accept_wf hw

theorem vmax (u : Bool) (g : Guard) (d : BitVec 8) (a : BitVec 8) (b : BitVec 8) (t : VType) : Statement (.vmax u g d a b t) := by
  intro _ w hw hk he
  obtain ⟨ho, hg, f0, f1, f2, f3, z0⟩ := layout25 (by decide) g d a b t (Option.some.inj he)
  refine (vector_code hk ho (by decide)).trans ?_
  change (accept (zeroAt w 0 8) (.vmax u (guardOf w) (fld w 26 8) (fld w 18 8) (fld w 10 8) (vtypeOf (fld w 8 2)))) = _
  simp only [hg, f0, f1, f2, f3, z0]
  exact accept_wf hw

theorem vabs (u : Bool) (g : Guard) (d : BitVec 8) (a : BitVec 8) (t : VType) : Statement (.vabs u g d a t) := by
  intro _ w hw hk he
  obtain ⟨ho, hg, f0, f1, f2, z0, z10⟩ := layout27 (by decide) g d a t (Option.some.inj he)
  refine (vector_code hk ho (by decide)).trans ?_
  change (accept (zeroAt w 0 8 && zeroAt w 10 8) (.vabs u (guardOf w) (fld w 26 8) (fld w 18 8) (vtypeOf (fld w 8 2)))) = _
  simp only [hg, f0, f1, f2, z0, z10]
  exact accept_wf hw

theorem vneg (u : Bool) (g : Guard) (d : BitVec 8) (a : BitVec 8) (t : VType) : Statement (.vneg u g d a t) := by
  intro _ w hw hk he
  obtain ⟨ho, hg, f0, f1, f2, z0, z10⟩ := layout27 (by decide) g d a t (Option.some.inj he)
  refine (vector_code hk ho (by decide)).trans ?_
  change (accept (zeroAt w 0 8 && zeroAt w 10 8) (.vneg u (guardOf w) (fld w 26 8) (fld w 18 8) (vtypeOf (fld w 8 2)))) = _
  simp only [hg, f0, f1, f2, z0, z10]
  exact accept_wf hw

theorem vand (u : Bool) (g : Guard) (d : BitVec 8) (a : BitVec 8) (b : BitVec 8) (t : VType) : Statement (.vand u g d a b t) := by
  intro _ w hw hk he
  obtain ⟨ho, hg, f0, f1, f2, f3, z0⟩ := layout25 (by decide) g d a b t (Option.some.inj he)
  refine (vector_code hk ho (by decide)).trans ?_
  change (accept (zeroAt w 0 8) (.vand u (guardOf w) (fld w 26 8) (fld w 18 8) (fld w 10 8) (vtypeOf (fld w 8 2)))) = _
  simp only [hg, f0, f1, f2, f3, z0]
  exact accept_wf hw

theorem vor (u : Bool) (g : Guard) (d : BitVec 8) (a : BitVec 8) (b : BitVec 8) (t : VType) : Statement (.vor u g d a b t) := by
  intro _ w hw hk he
  obtain ⟨ho, hg, f0, f1, f2, f3, z0⟩ := layout25 (by decide) g d a b t (Option.some.inj he)
  refine (vector_code hk ho (by decide)).trans ?_
  change (accept (zeroAt w 0 8) (.vor u (guardOf w) (fld w 26 8) (fld w 18 8) (fld w 10 8) (vtypeOf (fld w 8 2)))) = _
  simp only [hg, f0, f1, f2, f3, z0]
  exact accept_wf hw

theorem vxor (u : Bool) (g : Guard) (d : BitVec 8) (a : BitVec 8) (b : BitVec 8) (t : VType) : Statement (.vxor u g d a b t) := by
  intro _ w hw hk he
  obtain ⟨ho, hg, f0, f1, f2, f3, z0⟩ := layout25 (by decide) g d a b t (Option.some.inj he)
  refine (vector_code hk ho (by decide)).trans ?_
  change (accept (zeroAt w 0 8) (.vxor u (guardOf w) (fld w 26 8) (fld w 18 8) (fld w 10 8) (vtypeOf (fld w 8 2)))) = _
  simp only [hg, f0, f1, f2, f3, z0]
  exact accept_wf hw

theorem vshl (u : Bool) (g : Guard) (d : BitVec 8) (a : BitVec 8) (b : BitVec 8) (t : VType) : Statement (.vshl u g d a b t) := by
  intro _ w hw hk he
  obtain ⟨ho, hg, f0, f1, f2, f3, z0⟩ := layout25 (by decide) g d a b t (Option.some.inj he)
  refine (vector_code hk ho (by decide)).trans ?_
  change (accept (zeroAt w 0 8) (.vshl u (guardOf w) (fld w 26 8) (fld w 18 8) (fld w 10 8) (vtypeOf (fld w 8 2)))) = _
  simp only [hg, f0, f1, f2, f3, z0]
  exact accept_wf hw

theorem vshr (u : Bool) (g : Guard) (d : BitVec 8) (a : BitVec 8) (b : BitVec 8) (t : VType) : Statement (.vshr u g d a b t) := by
  intro _ w hw hk he
  obtain ⟨ho, hg, f0, f1, f2, f3, z0⟩ := layout25 (by decide) g d a b t (Option.some.inj he)
  refine (vector_code hk ho (by decide)).trans ?_
  change (accept (zeroAt w 0 8) (.vshr u (guardOf w) (fld w 26 8) (fld w 18 8) (fld w 10 8) (vtypeOf (fld w 8 2)))) = _
  simp only [hg, f0, f1, f2, f3, z0]
  exact accept_wf hw

theorem vsar (u : Bool) (g : Guard) (d : BitVec 8) (a : BitVec 8) (b : BitVec 8) (t : VType) : Statement (.vsar u g d a b t) := by
  intro _ w hw hk he
  obtain ⟨ho, hg, f0, f1, f2, f3, z0⟩ := layout25 (by decide) g d a b t (Option.some.inj he)
  refine (vector_code hk ho (by decide)).trans ?_
  change (accept (zeroAt w 0 8) (.vsar u (guardOf w) (fld w 26 8) (fld w 18 8) (fld w 10 8) (vtypeOf (fld w 8 2)))) = _
  simp only [hg, f0, f1, f2, f3, z0]
  exact accept_wf hw

theorem vcmpeq (u : Bool) (g : Guard) (pd : BitVec 5) (a : BitVec 8) (b : BitVec 8) (t : VType) : Statement (.vcmpeq u g pd a b t) := by
  intro _ w hw hk he
  obtain ⟨ho, hg, f0, f1, f2, f3, z0, z26⟩ := layout28 (by decide) g pd a b t (Option.some.inj he)
  refine (vector_code hk ho (by decide)).trans ?_
  change (accept (zeroAt w 0 8 && zeroAt w 26 3) (.vcmpeq u (guardOf w) (fld w 29 5) (fld w 18 8) (fld w 10 8) (vtypeOf (fld w 8 2)))) = _
  simp only [hg, f0, f1, f2, f3, z0, z26]
  exact accept_wf hw

theorem vcmplt (u : Bool) (g : Guard) (pd : BitVec 5) (a : BitVec 8) (b : BitVec 8) (t : VType) : Statement (.vcmplt u g pd a b t) := by
  intro _ w hw hk he
  obtain ⟨ho, hg, f0, f1, f2, f3, z0, z26⟩ := layout28 (by decide) g pd a b t (Option.some.inj he)
  refine (vector_code hk ho (by decide)).trans ?_
  change (accept (zeroAt w 0 8 && zeroAt w 26 3) (.vcmplt u (guardOf w) (fld w 29 5) (fld w 18 8) (fld w 10 8) (vtypeOf (fld w 8 2)))) = _
  simp only [hg, f0, f1, f2, f3, z0, z26]
  exact accept_wf hw

theorem vcmple (u : Bool) (g : Guard) (pd : BitVec 5) (a : BitVec 8) (b : BitVec 8) (t : VType) : Statement (.vcmple u g pd a b t) := by
  intro _ w hw hk he
  obtain ⟨ho, hg, f0, f1, f2, f3, z0, z26⟩ := layout28 (by decide) g pd a b t (Option.some.inj he)
  refine (vector_code hk ho (by decide)).trans ?_
  change (accept (zeroAt w 0 8 && zeroAt w 26 3) (.vcmple u (guardOf w) (fld w 29 5) (fld w 18 8) (fld w 10 8) (vtypeOf (fld w 8 2)))) = _
  simp only [hg, f0, f1, f2, f3, z0, z26]
  exact accept_wf hw

theorem vsel (u : Bool) (g : Guard) (d : BitVec 8) (a : BitVec 8) (b : BitVec 8) (t : VType) (ps : BitVec 5) : Statement (.vsel u g d a b t ps) := by
  intro _ w hw hk he
  obtain ⟨ho, hg, f0, f1, f2, f3, f4, z0⟩ := layout29 (by decide) g d a b t ps (Option.some.inj he)
  refine (vector_code hk ho (by decide)).trans ?_
  change (accept (zeroAt w 0 3) (.vsel u (guardOf w) (fld w 26 8) (fld w 18 8) (fld w 10 8) (vtypeOf (fld w 8 2)) (fld w 3 5))) = _
  simp only [hg, f0, f1, f2, f3, f4, z0]
  exact accept_wf hw

theorem vmov (u : Bool) (g : Guard) (d : BitVec 8) (a : BitVec 8) (t : VType) : Statement (.vmov u g d a t) := by
  intro _ w hw hk he
  obtain ⟨ho, hg, f0, f1, f2, z0, z10⟩ := layout27 (by decide) g d a t (Option.some.inj he)
  refine (vector_code hk ho (by decide)).trans ?_
  change (accept (zeroAt w 0 8 && zeroAt w 10 8) (.vmov u (guardOf w) (fld w 26 8) (fld w 18 8) (vtypeOf (fld w 8 2)))) = _
  simp only [hg, f0, f1, f2, z0, z10]
  exact accept_wf hw

theorem vbcast (u : Bool) (g : Guard) (d : BitVec 8) (t : VType) (ss : BitVec 6) : Statement (.vbcast u g d t ss) := by
  intro _ w hw hk he
  obtain ⟨ho, hg, f0, f1, f2, z6, z10⟩ := layout30 (by decide) g d t ss (Option.some.inj he)
  refine (vector_code hk ho (by decide)).trans ?_
  change (accept (zeroAt w 6 2 && zeroAt w 10 16) (.vbcast u (guardOf w) (fld w 26 8) (vtypeOf (fld w 8 2)) (fld w 0 6))) = _
  simp only [hg, f0, f1, f2, z6, z10]
  exact accept_wf hw

theorem viota (u : Bool) (g : Guard) (d : BitVec 8) (t : VType) : Statement (.viota u g d t) := by
  intro _ w hw hk he
  obtain ⟨ho, hg, f0, f1, z0, z10⟩ := layout31 (by decide) g d t (Option.some.inj he)
  refine (vector_code hk ho (by decide)).trans ?_
  change (accept (zeroAt w 0 8 && zeroAt w 10 16) (.viota u (guardOf w) (fld w 26 8) (vtypeOf (fld w 8 2)))) = _
  simp only [hg, f0, f1, z0, z10]
  exact accept_wf hw

theorem vlsh (u : Bool) (g : Guard) (d : BitVec 8) (a : BitVec 8) (t : VType) (ss : BitVec 6) : Statement (.vlsh u g d a t ss) := by
  intro _ w hw hk he
  obtain ⟨ho, hg, f0, f1, f2, f3, z6, z10⟩ := layout32 (by decide) g d a t ss (Option.some.inj he)
  refine (vector_code hk ho (by decide)).trans ?_
  change (accept (zeroAt w 6 2 && zeroAt w 10 8) (.vlsh u (guardOf w) (fld w 26 8) (fld w 18 8) (vtypeOf (fld w 8 2)) (fld w 0 6))) = _
  simp only [hg, f0, f1, f2, f3, z6, z10]
  exact accept_wf hw

theorem vlshd (u : Bool) (g : Guard) (d : BitVec 8) (a : BitVec 8) (b : BitVec 8) (t : VType) (ss : BitVec 6) : Statement (.vlshd u g d a b t ss) := by
  intro _ w hw hk he
  obtain ⟨ho, hg, f0, f1, f2, f3, f4, z6⟩ := layout33 (by decide) g d a b t ss (Option.some.inj he)
  refine (vector_code hk ho (by decide)).trans ?_
  change (accept (zeroAt w 6 2) (.vlshd u (guardOf w) (fld w 26 8) (fld w 18 8) (fld w 10 8) (vtypeOf (fld w 8 2)) (fld w 0 6))) = _
  simp only [hg, f0, f1, f2, f3, f4, z6]
  exact accept_wf hw

theorem vperm (u : Bool) (g : Guard) (d : BitVec 8) (a : BitVec 8) (b : BitVec 8) (t : VType) : Statement (.vperm u g d a b t) := by
  intro _ w hw hk he
  obtain ⟨ho, hg, f0, f1, f2, f3, z0⟩ := layout25 (by decide) g d a b t (Option.some.inj he)
  refine (vector_code hk ho (by decide)).trans ?_
  change (accept (zeroAt w 0 8) (.vperm u (guardOf w) (fld w 26 8) (fld w 18 8) (fld w 10 8) (vtypeOf (fld w 8 2)))) = _
  simp only [hg, f0, f1, f2, f3, z0]
  exact accept_wf hw

theorem vext (u : Bool) (g : Guard) (sd : BitVec 6) (a : BitVec 8) (si : BitVec 6) (t : VType) : Statement (.vext u g sd a si t) := by
  intro _ w hw hk he
  obtain ⟨ho, hg, f0, f1, f2, f3, z0, z10, z26⟩ := layout34 (by decide) g sd a si t (Option.some.inj he)
  refine (vector_code hk ho (by decide)).trans ?_
  change (accept (zeroAt w 0 8 && zeroAt w 10 2 && zeroAt w 26 2) (.vext u (guardOf w) (fld w 28 6) (fld w 18 8) (fld w 12 6) (vtypeOf (fld w 8 2)))) = _
  simp only [hg, f0, f1, f2, f3, z0, z10, z26]
  exact accept_wf hw

theorem vins (u : Bool) (g : Guard) (d : BitVec 8) (sv : BitVec 6) (si : BitVec 6) (t : VType) : Statement (.vins u g d sv si t) := by
  intro _ w hw hk he
  obtain ⟨ho, hg, f0, f1, f2, f3, z0, z10, z18⟩ := layout35 (by decide) g d sv si t (Option.some.inj he)
  refine (vector_code hk ho (by decide)).trans ?_
  change (accept (zeroAt w 0 8 && zeroAt w 10 2 && zeroAt w 18 2) (.vins u (guardOf w) (fld w 26 8) (fld w 20 6) (fld w 12 6) (vtypeOf (fld w 8 2)))) = _
  simp only [hg, f0, f1, f2, f3, z0, z10, z18]
  exact accept_wf hw

theorem vredadd (u : Bool) (g : Guard) (d : BitVec 8) (a : BitVec 8) (t : VType) : Statement (.vredadd u g d a t) := by
  intro _ w hw hk he
  obtain ⟨ho, hg, f0, f1, f2, z0, z10⟩ := layout27 (by decide) g d a t (Option.some.inj he)
  refine (vector_code hk ho (by decide)).trans ?_
  change (accept (zeroAt w 0 8 && zeroAt w 10 8) (.vredadd u (guardOf w) (fld w 26 8) (fld w 18 8) (vtypeOf (fld w 8 2)))) = _
  simp only [hg, f0, f1, f2, z0, z10]
  exact accept_wf hw

theorem vredmax (u : Bool) (g : Guard) (d : BitVec 8) (a : BitVec 8) (t : VType) : Statement (.vredmax u g d a t) := by
  intro _ w hw hk he
  obtain ⟨ho, hg, f0, f1, f2, z0, z10⟩ := layout27 (by decide) g d a t (Option.some.inj he)
  refine (vector_code hk ho (by decide)).trans ?_
  change (accept (zeroAt w 0 8 && zeroAt w 10 8) (.vredmax u (guardOf w) (fld w 26 8) (fld w 18 8) (vtypeOf (fld w 8 2)))) = _
  simp only [hg, f0, f1, f2, z0, z10]
  exact accept_wf hw

theorem vredmin (u : Bool) (g : Guard) (d : BitVec 8) (a : BitVec 8) (t : VType) : Statement (.vredmin u g d a t) := by
  intro _ w hw hk he
  obtain ⟨ho, hg, f0, f1, f2, z0, z10⟩ := layout27 (by decide) g d a t (Option.some.inj he)
  refine (vector_code hk ho (by decide)).trans ?_
  change (accept (zeroAt w 0 8 && zeroAt w 10 8) (.vredmin u (guardOf w) (fld w 26 8) (fld w 18 8) (vtypeOf (fld w 8 2)))) = _
  simp only [hg, f0, f1, f2, z0, z10]
  exact accept_wf hw

theorem vscan (u : Bool) (g : Guard) (d : BitVec 8) (a : BitVec 8) (t : VType) : Statement (.vscan u g d a t) := by
  intro _ w hw hk he
  obtain ⟨ho, hg, f0, f1, f2, z0, z10⟩ := layout27 (by decide) g d a t (Option.some.inj he)
  refine (vector_code hk ho (by decide)).trans ?_
  change (accept (zeroAt w 0 8 && zeroAt w 10 8) (.vscan u (guardOf w) (fld w 26 8) (fld w 18 8) (vtypeOf (fld w 8 2)))) = _
  simp only [hg, f0, f1, f2, z0, z10]
  exact accept_wf hw

theorem vcvt (u : Bool) (g : Guard) (d : BitVec 8) (a : BitVec 8) (t : VType) (td : VType) : Statement (.vcvt u g d a t td) := by
  intro _ w hw hk he
  obtain ⟨ho, hg, f0, f1, f2, f3, z0, z10⟩ := layout36 (by decide) g d a t td (Option.some.inj he)
  refine (vector_code hk ho (by decide)).trans ?_
  change (accept (zeroAt w 0 6 && zeroAt w 10 8) (.vcvt u (guardOf w) (fld w 26 8) (fld w 18 8) (vtypeOf (fld w 8 2)) (vtypeOf (fld w 6 2)))) = _
  simp only [hg, f0, f1, f2, f3, z0, z10]
  exact accept_wf hw

theorem vpack (u : Bool) (g : Guard) (d : BitVec 8) (a : BitVec 8) (b : BitVec 8) (t : VType) (td : VType) : Statement (.vpack u g d a b t td) := by
  intro _ w hw hk he
  obtain ⟨ho, hg, f0, f1, f2, f3, f4, z0⟩ := layout37 (by decide) g d a b t td (Option.some.inj he)
  refine (vector_code hk ho (by decide)).trans ?_
  change (accept (zeroAt w 0 6) (.vpack u (guardOf w) (fld w 26 8) (fld w 18 8) (fld w 10 8) (vtypeOf (fld w 8 2)) (vtypeOf (fld w 6 2)))) = _
  simp only [hg, f0, f1, f2, f3, f4, z0]
  exact accept_wf hw

theorem vunpk (u : Bool) (g : Guard) (d : BitVec 8) (a : BitVec 8) (t : VType) (td : VType) (h : Bool) : Statement (.vunpk u g d a t td h) := by
  intro _ w hw hk he
  obtain ⟨ho, hg, f0, f1, f2, f3, f4, z0, z10⟩ := layout38 (by decide) g d a t td h (Option.some.inj he)
  refine (vector_code hk ho (by decide)).trans ?_
  change (accept (zeroAt w 0 5 && zeroAt w 10 8) (.vunpk u (guardOf w) (fld w 26 8) (fld w 18 8) (vtypeOf (fld w 8 2)) (vtypeOf (fld w 6 2)) (bitAt w 5))) = _
  simp only [hg, f0, f1, f2, f3, f4, z0, z10]
  exact accept_wf hw

theorem vexp2 (u : Bool) (g : Guard) (d : BitVec 8) (a : BitVec 8) (t : VType) : Statement (.vexp2 u g d a t) := by
  intro _ w hw hk he
  obtain ⟨ho, hg, f0, f1, f2, z0, z10⟩ := layout27 (by decide) g d a t (Option.some.inj he)
  refine (vector_code hk ho (by decide)).trans ?_
  change (accept (zeroAt w 0 8 && zeroAt w 10 8) (.vexp2 u (guardOf w) (fld w 26 8) (fld w 18 8) (vtypeOf (fld w 8 2)))) = _
  simp only [hg, f0, f1, f2, z0, z10]
  exact accept_wf hw

theorem vlog2 (u : Bool) (g : Guard) (d : BitVec 8) (a : BitVec 8) (t : VType) : Statement (.vlog2 u g d a t) := by
  intro _ w hw hk he
  obtain ⟨ho, hg, f0, f1, f2, z0, z10⟩ := layout27 (by decide) g d a t (Option.some.inj he)
  refine (vector_code hk ho (by decide)).trans ?_
  change (accept (zeroAt w 0 8 && zeroAt w 10 8) (.vlog2 u (guardOf w) (fld w 26 8) (fld w 18 8) (vtypeOf (fld w 8 2)))) = _
  simp only [hg, f0, f1, f2, z0, z10]
  exact accept_wf hw

theorem vrcp (u : Bool) (g : Guard) (d : BitVec 8) (a : BitVec 8) (t : VType) : Statement (.vrcp u g d a t) := by
  intro _ w hw hk he
  obtain ⟨ho, hg, f0, f1, f2, z0, z10⟩ := layout27 (by decide) g d a t (Option.some.inj he)
  refine (vector_code hk ho (by decide)).trans ?_
  change (accept (zeroAt w 0 8 && zeroAt w 10 8) (.vrcp u (guardOf w) (fld w 26 8) (fld w 18 8) (vtypeOf (fld w 8 2)))) = _
  simp only [hg, f0, f1, f2, z0, z10]
  exact accept_wf hw

theorem vrsq (u : Bool) (g : Guard) (d : BitVec 8) (a : BitVec 8) (t : VType) : Statement (.vrsq u g d a t) := by
  intro _ w hw hk he
  obtain ⟨ho, hg, f0, f1, f2, z0, z10⟩ := layout27 (by decide) g d a t (Option.some.inj he)
  refine (vector_code hk ho (by decide)).trans ?_
  change (accept (zeroAt w 0 8 && zeroAt w 10 8) (.vrsq u (guardOf w) (fld w 26 8) (fld w 18 8) (vtypeOf (fld w 8 2)))) = _
  simp only [hg, f0, f1, f2, z0, z10]
  exact accept_wf hw

theorem vsqrt (u : Bool) (g : Guard) (d : BitVec 8) (a : BitVec 8) (t : VType) : Statement (.vsqrt u g d a t) := by
  intro _ w hw hk he
  obtain ⟨ho, hg, f0, f1, f2, z0, z10⟩ := layout27 (by decide) g d a t (Option.some.inj he)
  refine (vector_code hk ho (by decide)).trans ?_
  change (accept (zeroAt w 0 8 && zeroAt w 10 8) (.vsqrt u (guardOf w) (fld w 26 8) (fld w 18 8) (vtypeOf (fld w 8 2)))) = _
  simp only [hg, f0, f1, f2, z0, z10]
  exact accept_wf hw

theorem vtanh (u : Bool) (g : Guard) (d : BitVec 8) (a : BitVec 8) (t : VType) : Statement (.vtanh u g d a t) := by
  intro _ w hw hk he
  obtain ⟨ho, hg, f0, f1, f2, z0, z10⟩ := layout27 (by decide) g d a t (Option.some.inj he)
  refine (vector_code hk ho (by decide)).trans ?_
  change (accept (zeroAt w 0 8 && zeroAt w 10 8) (.vtanh u (guardOf w) (fld w 26 8) (fld w 18 8) (vtypeOf (fld w 8 2)))) = _
  simp only [hg, f0, f1, f2, z0, z10]
  exact accept_wf hw

theorem vquant (u : Bool) (g : Guard) (d : BitVec 8) (a : BitVec 8) (t : VType) : Statement (.vquant u g d a t) := by
  intro _ w hw hk he
  obtain ⟨ho, hg, f0, f1, f2, z0, z10⟩ := layout27 (by decide) g d a t (Option.some.inj he)
  refine (vector_code hk ho (by decide)).trans ?_
  change (accept (zeroAt w 0 8 && zeroAt w 10 8) (.vquant u (guardOf w) (fld w 26 8) (fld w 18 8) (vtypeOf (fld w 8 2)))) = _
  simp only [hg, f0, f1, f2, z0, z10]
  exact accept_wf hw

theorem vdeq (u : Bool) (g : Guard) (d : BitVec 8) (a : BitVec 8) (t : VType) : Statement (.vdeq u g d a t) := by
  intro _ w hw hk he
  obtain ⟨ho, hg, f0, f1, f2, z0, z10⟩ := layout27 (by decide) g d a t (Option.some.inj he)
  refine (vector_code hk ho (by decide)).trans ?_
  change (accept (zeroAt w 0 8 && zeroAt w 10 8) (.vdeq u (guardOf w) (fld w 26 8) (fld w 18 8) (vtypeOf (fld w 8 2)))) = _
  simp only [hg, f0, f1, f2, z0, z10]
  exact accept_wf hw

theorem mpush (g : Guard) (q : BitVec 2) (krow : BitVec 9) : Statement (.mpush g q krow) := by
  intro _ w hw hk he
  obtain ⟨ho, hg, f0, f1, z0, z13, z22⟩ := layout39 (by decide) g q krow (Option.some.inj he)
  refine (mx_code hk ho (by decide)).trans ?_
  change (accept (zeroAt w 0 4 && zeroAt w 13 7 && zeroAt w 22 12) (.mpush (guardOf w) (fld w 20 2) (fld w 4 9))) = _
  simp only [hg, f0, f1, z0, z13, z22]
  exact accept_wf hw

theorem msel (g : Guard) : Statement (.msel g) := by
  intro _ w hw hk he
  obtain ⟨ho, hg, z0⟩ := layout2 (by decide) g (Option.some.inj he)
  refine (mx_code hk ho (by decide)).trans ?_
  change (accept (zeroAt w 0 34) (.msel (guardOf w))) = _
  simp only [hg, z0]
  exact accept_wf hw

theorem mshift (g : Guard) (ks : BitVec 9) : Statement (.mshift g ks) := by
  intro _ w hw hk he
  obtain ⟨ho, hg, f0, z9⟩ := layout40 (by decide) g ks (Option.some.inj he)
  refine (mx_code hk ho (by decide)).trans ?_
  change (accept (zeroAt w 9 25) (.mshift (guardOf w) (fld w 0 9))) = _
  simp only [hg, f0, z9]
  exact accept_wf hw

theorem macc (g : Guard) (acc : BitVec 12) (q : BitVec 2) (fc : ElemFmt) (push : Option (BitVec 2 × BitVec 9)) : Statement (.macc g acc q fc push) := by
  intro _ w hw hk he
  obtain ⟨ho, hg, f0, f1, f2, f3, z0⟩ := layout41 (by decide) g acc q fc push (Option.some.inj he)
  refine (mx_code hk ho (by decide)).trans ?_
  change (coded (elemOf (fld w 16 4)) fun fc => coded (pushOf (fld w 4 12)) fun push => accept (zeroAt w 0 4) (.macc (guardOf w) (fld w 22 12) (fld w 20 2) fc push)) = _
  simp only [coded, hg, f0, f1, f2, f3, z0]
  exact accept_wf hw

theorem maccz (g : Guard) (acc : BitVec 12) (q : BitVec 2) (fc : ElemFmt) (push : Option (BitVec 2 × BitVec 9)) : Statement (.maccz g acc q fc push) := by
  intro _ w hw hk he
  obtain ⟨ho, hg, f0, f1, f2, f3, z0⟩ := layout41 (by decide) g acc q fc push (Option.some.inj he)
  refine (mx_code hk ho (by decide)).trans ?_
  change (coded (elemOf (fld w 16 4)) fun fc => coded (pushOf (fld w 4 12)) fun push => accept (zeroAt w 0 4) (.maccz (guardOf w) (fld w 22 12) (fld w 20 2) fc push)) = _
  simp only [coded, hg, f0, f1, f2, f3, z0]
  exact accept_wf hw

theorem maccs (g : Guard) (acc : BitVec 12) (q : BitVec 2) (push : Option (BitVec 2 × BitVec 9)) : Statement (.maccs g acc q push) := by
  intro _ w hw hk he
  obtain ⟨ho, hg, f0, f1, f2, z0, z16⟩ := layout42 (by decide) g acc q push (Option.some.inj he)
  refine (mx_code hk ho (by decide)).trans ?_
  change (coded (pushOf (fld w 4 12)) fun push => accept (zeroAt w 0 4 && zeroAt w 16 4) (.maccs (guardOf w) (fld w 22 12) (fld w 20 2) push)) = _
  simp only [coded, hg, f0, f1, f2, z0, z16]
  exact accept_wf hw

theorem mdrain (g : Guard) (acc : BitVec 12) (df : DrainFmt) (sb : BitVec 6) (off : BitVec 13) : Statement (.mdrain g acc df sb off) := by
  intro _ w hw hk he
  obtain ⟨ho, hg, f0, f1, f2, f3⟩ := layout43 (by decide) g acc df sb off (Option.some.inj he)
  refine (mx_code hk ho (by decide)).trans ?_
  change (coded (drainOf (fld w 19 3)) fun df => accept true (.mdrain (guardOf w) (fld w 22 12) df (fld w 13 6) (fld w 0 13))) = _
  simp only [coded, hg, f0, f1, f2, f3]
  exact accept_wf hw

theorem mdrainz (g : Guard) (acc : BitVec 12) (df : DrainFmt) (sb : BitVec 6) (off : BitVec 13) : Statement (.mdrainz g acc df sb off) := by
  intro _ w hw hk he
  obtain ⟨ho, hg, f0, f1, f2, f3⟩ := layout43 (by decide) g acc df sb off (Option.some.inj he)
  refine (mx_code hk ho (by decide)).trans ?_
  change (coded (drainOf (fld w 19 3)) fun df => accept true (.mdrainz (guardOf w) (fld w 22 12) df (fld w 13 6) (fld w 0 13))) = _
  simp only [coded, hg, f0, f1, f2, f3]
  exact accept_wf hw

theorem mzero (g : Guard) (acc : BitVec 12) : Statement (.mzero g acc) := by
  intro _ w hw hk he
  obtain ⟨ho, hg, f0, z0⟩ := layout44 (by decide) g acc (Option.some.inj he)
  refine (mx_code hk ho (by decide)).trans ?_
  change (accept (zeroAt w 0 22) (.mzero (guardOf w) (fld w 22 12))) = _
  simp only [hg, f0, z0]
  exact accept_wf hw

theorem ldv (g : Guard) (v : BitVec 8) (b : BitVec 4) (off : BitVec 22) : Statement (.ldv g v b off) := by
  intro _ w hw hk he
  obtain ⟨ho, hg, f0, f1, f2⟩ := layout45 (by decide) g v b off (Option.some.inj he)
  refine (ls_code hk ho (by decide)).trans ?_
  change (accept true (.ldv (guardOf w) (fld w 26 8) (fld w 22 4) (fld w 0 22))) = _
  simp only [hg, f0, f1, f2]
  exact accept_wf hw

theorem stv (g : Guard) (v : BitVec 8) (b : BitVec 4) (off : BitVec 22) : Statement (.stv g v b off) := by
  intro _ w hw hk he
  obtain ⟨ho, hg, f0, f1, f2⟩ := layout45 (by decide) g v b off (Option.some.inj he)
  refine (ls_code hk ho (by decide)).trans ?_
  change (accept true (.stv (guardOf w) (fld w 26 8) (fld w 22 4) (fld w 0 22))) = _
  simp only [hg, f0, f1, f2]
  exact accept_wf hw

theorem lds (g : Guard) (d : BitVec 6) (wd : Width) (b : BitVec 4) (off : BitVec 22) : Statement (.lds g d wd b off) := by
  intro _ w hw hk he
  obtain ⟨ho, hg, f0, f1, f2, f3⟩ := layout46 (by decide) g d wd b off (Option.some.inj he)
  refine (ls_code hk ho (by decide)).trans ?_
  change (accept true (.lds (guardOf w) (fld w 28 6) (widthOf (fld w 26 2)) (fld w 22 4) (fld w 0 22))) = _
  simp only [hg, f0, f1, f2, f3]
  exact accept_wf hw

theorem sts (g : Guard) (d : BitVec 6) (wd : Width) (b : BitVec 4) (off : BitVec 22) : Statement (.sts g d wd b off) := by
  intro _ w hw hk he
  obtain ⟨ho, hg, f0, f1, f2, f3⟩ := layout46 (by decide) g d wd b off (Option.some.inj he)
  refine (ls_code hk ho (by decide)).trans ?_
  change (accept true (.sts (guardOf w) (fld w 28 6) (widthOf (fld w 26 2)) (fld w 22 4) (fld w 0 22))) = _
  simp only [hg, f0, f1, f2, f3]
  exact accept_wf hw

theorem ldvx (g : Guard) (v : BitVec 8) (x : BitVec 8) (b : BitVec 4) (wd : Width) (off : BitVec 12) : Statement (.ldvx g v x b wd off) := by
  intro _ w hw hk he
  obtain ⟨ho, hg, f0, f1, f2, f3, f4⟩ := layout47 (by decide) g v x b wd off (Option.some.inj he)
  refine (ls_code hk ho (by decide)).trans ?_
  change (accept true (.ldvx (guardOf w) (fld w 26 8) (fld w 18 8) (fld w 14 4) (widthOf (fld w 12 2)) (fld w 0 12))) = _
  simp only [hg, f0, f1, f2, f3, f4]
  exact accept_wf hw

theorem stvx (g : Guard) (v : BitVec 8) (x : BitVec 8) (b : BitVec 4) (wd : Width) (off : BitVec 12) : Statement (.stvx g v x b wd off) := by
  intro _ w hw hk he
  obtain ⟨ho, hg, f0, f1, f2, f3, f4⟩ := layout47 (by decide) g v x b wd off (Option.some.inj he)
  refine (ls_code hk ho (by decide)).trans ?_
  change (accept true (.stvx (guardOf w) (fld w 26 8) (fld w 18 8) (fld w 14 4) (widthOf (fld w 12 2)) (fld w 0 12))) = _
  simp only [hg, f0, f1, f2, f3, f4]
  exact accept_wf hw

theorem ldvb (g : Guard) (v : BitVec 8) (b : BitVec 4) (off : BitVec 22) : Statement (.ldvb g v b off) := by
  intro _ w hw hk he
  obtain ⟨ho, hg, f0, f1, f2⟩ := layout45 (by decide) g v b off (Option.some.inj he)
  refine (ls_code hk ho (by decide)).trans ?_
  change (accept true (.ldvb (guardOf w) (fld w 26 8) (fld w 22 4) (fld w 0 22))) = _
  simp only [hg, f0, f1, f2]
  exact accept_wf hw

theorem atlAdd (g : Guard) (d : BitVec 6) (a : BitVec 6) (b : BitVec 6) (w8 : Bool) (off : BitVec 8) : Statement (.atlAdd g d a b w8 off) := by
  intro _ w hw hk he
  obtain ⟨ho, hg, f0, f1, f2, f3, f4, z16⟩ := layout48 (by decide) g d a b w8 off (Option.some.inj he)
  refine (ls_code hk ho (by decide)).trans ?_
  change (coded (wideOf (fld w 8 2)) fun w8 => accept (zeroAt w 16 6) (.atlAdd (guardOf w) (fld w 28 6) (fld w 22 6) (fld w 10 6) w8 (fld w 0 8))) = _
  simp only [coded, hg, f0, f1, f2, f3, f4, z16]
  exact accept_wf hw

theorem atlMin (g : Guard) (d : BitVec 6) (a : BitVec 6) (b : BitVec 6) (w8 : Bool) (off : BitVec 8) : Statement (.atlMin g d a b w8 off) := by
  intro _ w hw hk he
  obtain ⟨ho, hg, f0, f1, f2, f3, f4, z16⟩ := layout48 (by decide) g d a b w8 off (Option.some.inj he)
  refine (ls_code hk ho (by decide)).trans ?_
  change (coded (wideOf (fld w 8 2)) fun w8 => accept (zeroAt w 16 6) (.atlMin (guardOf w) (fld w 28 6) (fld w 22 6) (fld w 10 6) w8 (fld w 0 8))) = _
  simp only [coded, hg, f0, f1, f2, f3, f4, z16]
  exact accept_wf hw

theorem atlMax (g : Guard) (d : BitVec 6) (a : BitVec 6) (b : BitVec 6) (w8 : Bool) (off : BitVec 8) : Statement (.atlMax g d a b w8 off) := by
  intro _ w hw hk he
  obtain ⟨ho, hg, f0, f1, f2, f3, f4, z16⟩ := layout48 (by decide) g d a b w8 off (Option.some.inj he)
  refine (ls_code hk ho (by decide)).trans ?_
  change (coded (wideOf (fld w 8 2)) fun w8 => accept (zeroAt w 16 6) (.atlMax (guardOf w) (fld w 28 6) (fld w 22 6) (fld w 10 6) w8 (fld w 0 8))) = _
  simp only [coded, hg, f0, f1, f2, f3, f4, z16]
  exact accept_wf hw

theorem atlAnd (g : Guard) (d : BitVec 6) (a : BitVec 6) (b : BitVec 6) (w8 : Bool) (off : BitVec 8) : Statement (.atlAnd g d a b w8 off) := by
  intro _ w hw hk he
  obtain ⟨ho, hg, f0, f1, f2, f3, f4, z16⟩ := layout48 (by decide) g d a b w8 off (Option.some.inj he)
  refine (ls_code hk ho (by decide)).trans ?_
  change (coded (wideOf (fld w 8 2)) fun w8 => accept (zeroAt w 16 6) (.atlAnd (guardOf w) (fld w 28 6) (fld w 22 6) (fld w 10 6) w8 (fld w 0 8))) = _
  simp only [coded, hg, f0, f1, f2, f3, f4, z16]
  exact accept_wf hw

theorem atlOr (g : Guard) (d : BitVec 6) (a : BitVec 6) (b : BitVec 6) (w8 : Bool) (off : BitVec 8) : Statement (.atlOr g d a b w8 off) := by
  intro _ w hw hk he
  obtain ⟨ho, hg, f0, f1, f2, f3, f4, z16⟩ := layout48 (by decide) g d a b w8 off (Option.some.inj he)
  refine (ls_code hk ho (by decide)).trans ?_
  change (coded (wideOf (fld w 8 2)) fun w8 => accept (zeroAt w 16 6) (.atlOr (guardOf w) (fld w 28 6) (fld w 22 6) (fld w 10 6) w8 (fld w 0 8))) = _
  simp only [coded, hg, f0, f1, f2, f3, f4, z16]
  exact accept_wf hw

theorem atlXchg (g : Guard) (d : BitVec 6) (a : BitVec 6) (b : BitVec 6) (w8 : Bool) (off : BitVec 8) : Statement (.atlXchg g d a b w8 off) := by
  intro _ w hw hk he
  obtain ⟨ho, hg, f0, f1, f2, f3, f4, z16⟩ := layout48 (by decide) g d a b w8 off (Option.some.inj he)
  refine (ls_code hk ho (by decide)).trans ?_
  change (coded (wideOf (fld w 8 2)) fun w8 => accept (zeroAt w 16 6) (.atlXchg (guardOf w) (fld w 28 6) (fld w 22 6) (fld w 10 6) w8 (fld w 0 8))) = _
  simp only [coded, hg, f0, f1, f2, f3, f4, z16]
  exact accept_wf hw

theorem atlCas (g : Guard) (d : BitVec 6) (a : BitVec 6) (c : BitVec 6) (b : BitVec 6) (w8 : Bool) (off : BitVec 8) : Statement (.atlCas g d a c b w8 off) := by
  intro _ w hw hk he
  obtain ⟨ho, hg, f0, f1, f2, f3, f4, f5⟩ := layout49 (by decide) g d a c b w8 off (Option.some.inj he)
  refine (ls_code hk ho (by decide)).trans ?_
  change (coded (wideOf (fld w 8 2)) fun w8 => accept true (.atlCas (guardOf w) (fld w 28 6) (fld w 22 6) (fld w 16 6) (fld w 10 6) w8 (fld w 0 8))) = _
  simp only [coded, hg, f0, f1, f2, f3, f4, f5]
  exact accept_wf hw

theorem atlFadd (g : Guard) (d : BitVec 6) (a : BitVec 6) (b : BitVec 6) (off : BitVec 8) : Statement (.atlFadd g d a b off) := by
  intro _ w hw hk he
  obtain ⟨ho, hg, f0, f1, f2, f3, f4, z16⟩ := layout50 (by decide) g d a b off (Option.some.inj he)
  refine (ls_code hk ho (by decide)).trans ?_
  change (accept (zeroAt w 16 6 && fld w 8 2 == 2#2) (.atlFadd (guardOf w) (fld w 28 6) (fld w 22 6) (fld w 10 6) (fld w 0 8))) = _
  simp only [hg, f0, f1, f2, f3, f4, z16]
  exact accept_wf hw

theorem ldg (g : Guard) (d : BitVec 6) (b : BitVec 6) (wd : Width) (cls : BitVec 4) (aq : Bool) (arv : BitVec 12) : Statement (.ldg g d b wd cls aq arv) := by
  intro _ w hw hk he
  obtain ⟨ho, hg, f0, f1, f2, f3, f4, f5, z0, z14⟩ := layout51 (by decide) g d b wd cls aq arv (Option.some.inj he)
  refine (eq_code hk ho (by decide)).trans ?_
  change (accept (zeroAt w 0 2 && zeroAt w 14 1) (.ldg (guardOf w) (fld w 28 6) (fld w 22 6) (widthOf (fld w 20 2)) (fld w 16 4) (bitAt w 15) (fld w 2 12))) = _
  simp only [hg, f0, f1, f2, f3, f4, f5, z0, z14]
  exact accept_wf hw

theorem ldgv (g : Guard) (v : BitVec 8) (b : BitVec 6) (cls : BitVec 4) (aq : Bool) (arv : BitVec 12) : Statement (.ldgv g v b cls aq arv) := by
  intro _ w hw hk he
  obtain ⟨ho, hg, f0, f1, f2, f3, f4, z0, z14⟩ := layout52 (by decide) g v b cls aq arv (Option.some.inj he)
  refine (eq_code hk ho (by decide)).trans ?_
  change (accept (zeroAt w 0 2 && zeroAt w 14 1) (.ldgv (guardOf w) (fld w 26 8) (fld w 20 6) (fld w 16 4) (bitAt w 15) (fld w 2 12))) = _
  simp only [hg, f0, f1, f2, f3, f4, z0, z14]
  exact accept_wf hw

theorem stg (g : Guard) (d : BitVec 6) (b : BitVec 6) (wd : Width) (cls : BitVec 4) (rl : Bool) : Statement (.stg g d b wd cls rl) := by
  intro _ w hw hk he
  obtain ⟨ho, hg, f0, f1, f2, f3, f4, z0, z15⟩ := layout53 (by decide) g d b wd cls rl (Option.some.inj he)
  refine (eq_code hk ho (by decide)).trans ?_
  change (accept (zeroAt w 0 14 && zeroAt w 15 1) (.stg (guardOf w) (fld w 28 6) (fld w 22 6) (widthOf (fld w 20 2)) (fld w 16 4) (bitAt w 14))) = _
  simp only [hg, f0, f1, f2, f3, f4, z0, z15]
  exact accept_wf hw

theorem stgv (g : Guard) (v : BitVec 8) (b : BitVec 6) (cls : BitVec 4) (rl : Bool) : Statement (.stgv g v b cls rl) := by
  intro _ w hw hk he
  obtain ⟨ho, hg, f0, f1, f2, f3, z0, z15⟩ := layout54 (by decide) g v b cls rl (Option.some.inj he)
  refine (eq_code hk ho (by decide)).trans ?_
  change (accept (zeroAt w 0 14 && zeroAt w 15 1) (.stgv (guardOf w) (fld w 26 8) (fld w 20 6) (fld w 16 4) (bitAt w 14))) = _
  simp only [hg, f0, f1, f2, f3, z0, z15]
  exact accept_wf hw

theorem atgAdd (g : Guard) (d : BitVec 6) (b : BitVec 6) (w8 : Bool) (cls : BitVec 4) (aq : Bool) (rl : Bool) (arv : BitVec 12) : Statement (.atgAdd g d b w8 cls aq rl arv) := by
  intro _ w hw hk he
  obtain ⟨ho, hg, f0, f1, f2, f3, f4, f5, f6, z0⟩ := layout55 (by decide) g d b w8 cls aq rl arv (Option.some.inj he)
  refine (eq_code hk ho (by decide)).trans ?_
  change (coded (wideOf (fld w 20 2)) fun w8 => accept (zeroAt w 0 2) (.atgAdd (guardOf w) (fld w 28 6) (fld w 22 6) w8 (fld w 16 4) (bitAt w 15) (bitAt w 14) (fld w 2 12))) = _
  simp only [coded, hg, f0, f1, f2, f3, f4, f5, f6, z0]
  exact accept_wf hw

theorem atgFadd (g : Guard) (d : BitVec 6) (b : BitVec 6) (cls : BitVec 4) (aq : Bool) (rl : Bool) (arv : BitVec 12) : Statement (.atgFadd g d b cls aq rl arv) := by
  intro _ w hw hk he
  obtain ⟨ho, hg, f0, f1, f2, f3, f4, f5, f6, z0⟩ := layout56 (by decide) g d b cls aq rl arv (Option.some.inj he)
  refine (eq_code hk ho (by decide)).trans ?_
  change (accept (zeroAt w 0 2 && fld w 20 2 == 2#2) (.atgFadd (guardOf w) (fld w 28 6) (fld w 22 6) (fld w 16 4) (bitAt w 15) (bitAt w 14) (fld w 2 12))) = _
  simp only [hg, f0, f1, f2, f3, f4, f5, f6, z0]
  exact accept_wf hw

theorem atgMin (g : Guard) (d : BitVec 6) (b : BitVec 6) (w8 : Bool) (cls : BitVec 4) (aq : Bool) (rl : Bool) (arv : BitVec 12) : Statement (.atgMin g d b w8 cls aq rl arv) := by
  intro _ w hw hk he
  obtain ⟨ho, hg, f0, f1, f2, f3, f4, f5, f6, z0⟩ := layout55 (by decide) g d b w8 cls aq rl arv (Option.some.inj he)
  refine (eq_code hk ho (by decide)).trans ?_
  change (coded (wideOf (fld w 20 2)) fun w8 => accept (zeroAt w 0 2) (.atgMin (guardOf w) (fld w 28 6) (fld w 22 6) w8 (fld w 16 4) (bitAt w 15) (bitAt w 14) (fld w 2 12))) = _
  simp only [coded, hg, f0, f1, f2, f3, f4, f5, f6, z0]
  exact accept_wf hw

theorem atgMax (g : Guard) (d : BitVec 6) (b : BitVec 6) (w8 : Bool) (cls : BitVec 4) (aq : Bool) (rl : Bool) (arv : BitVec 12) : Statement (.atgMax g d b w8 cls aq rl arv) := by
  intro _ w hw hk he
  obtain ⟨ho, hg, f0, f1, f2, f3, f4, f5, f6, z0⟩ := layout55 (by decide) g d b w8 cls aq rl arv (Option.some.inj he)
  refine (eq_code hk ho (by decide)).trans ?_
  change (coded (wideOf (fld w 20 2)) fun w8 => accept (zeroAt w 0 2) (.atgMax (guardOf w) (fld w 28 6) (fld w 22 6) w8 (fld w 16 4) (bitAt w 15) (bitAt w 14) (fld w 2 12))) = _
  simp only [coded, hg, f0, f1, f2, f3, f4, f5, f6, z0]
  exact accept_wf hw

theorem atgAnd (g : Guard) (d : BitVec 6) (b : BitVec 6) (w8 : Bool) (cls : BitVec 4) (aq : Bool) (rl : Bool) (arv : BitVec 12) : Statement (.atgAnd g d b w8 cls aq rl arv) := by
  intro _ w hw hk he
  obtain ⟨ho, hg, f0, f1, f2, f3, f4, f5, f6, z0⟩ := layout55 (by decide) g d b w8 cls aq rl arv (Option.some.inj he)
  refine (eq_code hk ho (by decide)).trans ?_
  change (coded (wideOf (fld w 20 2)) fun w8 => accept (zeroAt w 0 2) (.atgAnd (guardOf w) (fld w 28 6) (fld w 22 6) w8 (fld w 16 4) (bitAt w 15) (bitAt w 14) (fld w 2 12))) = _
  simp only [coded, hg, f0, f1, f2, f3, f4, f5, f6, z0]
  exact accept_wf hw

theorem atgOr (g : Guard) (d : BitVec 6) (b : BitVec 6) (w8 : Bool) (cls : BitVec 4) (aq : Bool) (rl : Bool) (arv : BitVec 12) : Statement (.atgOr g d b w8 cls aq rl arv) := by
  intro _ w hw hk he
  obtain ⟨ho, hg, f0, f1, f2, f3, f4, f5, f6, z0⟩ := layout55 (by decide) g d b w8 cls aq rl arv (Option.some.inj he)
  refine (eq_code hk ho (by decide)).trans ?_
  change (coded (wideOf (fld w 20 2)) fun w8 => accept (zeroAt w 0 2) (.atgOr (guardOf w) (fld w 28 6) (fld w 22 6) w8 (fld w 16 4) (bitAt w 15) (bitAt w 14) (fld w 2 12))) = _
  simp only [coded, hg, f0, f1, f2, f3, f4, f5, f6, z0]
  exact accept_wf hw

theorem atgXor (g : Guard) (d : BitVec 6) (b : BitVec 6) (w8 : Bool) (cls : BitVec 4) (aq : Bool) (rl : Bool) (arv : BitVec 12) : Statement (.atgXor g d b w8 cls aq rl arv) := by
  intro _ w hw hk he
  obtain ⟨ho, hg, f0, f1, f2, f3, f4, f5, f6, z0⟩ := layout55 (by decide) g d b w8 cls aq rl arv (Option.some.inj he)
  refine (eq_code hk ho (by decide)).trans ?_
  change (coded (wideOf (fld w 20 2)) fun w8 => accept (zeroAt w 0 2) (.atgXor (guardOf w) (fld w 28 6) (fld w 22 6) w8 (fld w 16 4) (bitAt w 15) (bitAt w 14) (fld w 2 12))) = _
  simp only [coded, hg, f0, f1, f2, f3, f4, f5, f6, z0]
  exact accept_wf hw

theorem atgXchg (g : Guard) (d : BitVec 6) (b : BitVec 6) (w8 : Bool) (cls : BitVec 4) (aq : Bool) (rl : Bool) (arv : BitVec 12) : Statement (.atgXchg g d b w8 cls aq rl arv) := by
  intro _ w hw hk he
  obtain ⟨ho, hg, f0, f1, f2, f3, f4, f5, f6, z0⟩ := layout55 (by decide) g d b w8 cls aq rl arv (Option.some.inj he)
  refine (eq_code hk ho (by decide)).trans ?_
  change (coded (wideOf (fld w 20 2)) fun w8 => accept (zeroAt w 0 2) (.atgXchg (guardOf w) (fld w 28 6) (fld w 22 6) w8 (fld w 16 4) (bitAt w 15) (bitAt w 14) (fld w 2 12))) = _
  simp only [coded, hg, f0, f1, f2, f3, f4, f5, f6, z0]
  exact accept_wf hw

theorem atgCas (g : Guard) (d : BitVec 6) (b : BitVec 6) (w8 : Bool) (cls : BitVec 4) (aq : Bool) (rl : Bool) (arv : BitVec 12) : Statement (.atgCas g d b w8 cls aq rl arv) := by
  intro _ w hw hk he
  obtain ⟨ho, hg, f0, f1, f2, f3, f4, f5, f6, z0⟩ := layout55 (by decide) g d b w8 cls aq rl arv (Option.some.inj he)
  refine (eq_code hk ho (by decide)).trans ?_
  change (coded (wideOf (fld w 20 2)) fun w8 => accept (zeroAt w 0 2) (.atgCas (guardOf w) (fld w 28 6) (fld w 22 6) w8 (fld w 16 4) (bitAt w 15) (bitAt w 14) (fld w 2 12))) = _
  simp only [coded, hg, f0, f1, f2, f3, f4, f5, f6, z0]
  exact accept_wf hw

theorem arrive (g : Guard) (a : BitVec 6) (b : BitVec 6) (cls : BitVec 4) (rl : Bool) : Statement (.arrive g a b cls rl) := by
  intro _ w hw hk he
  obtain ⟨ho, hg, f0, f1, f2, f3, z0, z15, z20⟩ := layout57 (by decide) g a b cls rl (Option.some.inj he)
  refine (eq_code hk ho (by decide)).trans ?_
  change (accept (zeroAt w 0 14 && zeroAt w 15 1 && zeroAt w 20 2) (.arrive (guardOf w) (fld w 28 6) (fld w 22 6) (fld w 16 4) (bitAt w 14))) = _
  simp only [hg, f0, f1, f2, f3, z0, z15, z20]
  exact accept_wf hw

theorem waitv (g : Guard) (a : BitVec 6) (b : BitVec 6) (susp : Bool) (cls : BitVec 4) (aq : Bool) (arv : BitVec 12) : Statement (.waitv g a b susp cls aq arv) := by
  intro _ w hw hk he
  obtain ⟨ho, hg, f0, f1, f2, f3, f4, f5, z0, z14, z20⟩ := layout58 (by decide) g a b susp cls aq arv (Option.some.inj he)
  refine (eq_code hk ho (by decide)).trans ?_
  change (accept (zeroAt w 0 2 && zeroAt w 14 1 && zeroAt w 20 1) (.waitv (guardOf w) (fld w 28 6) (fld w 22 6) (bitAt w 21) (fld w 16 4) (bitAt w 15) (fld w 2 12))) = _
  simp only [hg, f0, f1, f2, f3, f4, f5, z0, z14, z20]
  exact accept_wf hw

theorem waitvSatisfied (k : Nat) : Statement (.waitvSatisfied k) :=
  fun _ _ _ hk _ => nomatch hk

theorem waitvBoundExpiry : Statement .waitvBoundExpiry :=
  fun _ _ _ hk _ => nomatch hk

theorem cpy (g : Guard) (q : BitVec 3) (d : BitVec 6) (sr : BitVec 6) (n : BitVec 6) (lc : BitVec 4) (cls : BitVec 4) : Statement (.cpy g q d sr n lc cls) := by
  intro _ w hw hk he
  obtain ⟨ho, hg, f0, f1, f2, f3, f4, f5, z0⟩ := layout59 (by decide) g q d sr n lc cls (Option.some.inj he)
  refine (eq_code hk ho (by decide)).trans ?_
  change (accept (zeroAt w 0 5) (.cpy (guardOf w) (fld w 31 3) (fld w 25 6) (fld w 19 6) (fld w 13 6) (fld w 9 4) (fld w 5 4))) = _
  simp only [hg, f0, f1, f2, f3, f4, f5, z0]
  exact accept_wf hw

theorem cpyo (g : Guard) (q : BitVec 3) (d : BitVec 6) (sr : BitVec 6) (n : BitVec 6) (lc : BitVec 4) (cls : BitVec 4) : Statement (.cpyo g q d sr n lc cls) := by
  intro _ w hw hk he
  obtain ⟨ho, hg, f0, f1, f2, f3, f4, f5, z0⟩ := layout59 (by decide) g q d sr n lc cls (Option.some.inj he)
  refine (eq_code hk ho (by decide)).trans ?_
  change (accept (zeroAt w 0 5) (.cpyo (guardOf w) (fld w 31 3) (fld w 25 6) (fld w 19 6) (fld w 13 6) (fld w 9 4) (fld w 5 4))) = _
  simp only [hg, f0, f1, f2, f3, f4, f5, z0]
  exact accept_wf hw

theorem cpyt (g : Guard) (q : BitVec 3) (d : BitVec 6) (sr : BitVec 6) (n : BitVec 6) (lc : BitVec 4) (cls : BitVec 4) : Statement (.cpyt g q d sr n lc cls) := by
  intro _ w hw hk he
  obtain ⟨ho, hg, f0, f1, f2, f3, f4, f5, z0⟩ := layout59 (by decide) g q d sr n lc cls (Option.some.inj he)
  refine (eq_code hk ho (by decide)).trans ?_
  change (accept (zeroAt w 0 5) (.cpyt (guardOf w) (fld w 31 3) (fld w 25 6) (fld w 19 6) (fld w 13 6) (fld w 9 4) (fld w 5 4))) = _
  simp only [hg, f0, f1, f2, f3, f4, f5, z0]
  exact accept_wf hw

theorem cpyg (g : Guard) (q : BitVec 3) (sr : BitVec 6) (cls : BitVec 4) : Statement (.cpyg g q sr cls) := by
  intro _ w hw hk he
  obtain ⟨ho, hg, f0, f1, f2, z0, z9, z25⟩ := layout60 (by decide) g q sr cls (Option.some.inj he)
  refine (eq_code hk ho (by decide)).trans ?_
  change (accept (zeroAt w 0 5 && zeroAt w 9 10 && zeroAt w 25 6) (.cpyg (guardOf w) (fld w 31 3) (fld w 19 6) (fld w 5 4))) = _
  simp only [hg, f0, f1, f2, z0, z9, z25]
  exact accept_wf hw

theorem fence (g : Guard) (kind : FenceKind) (cmask : BitVec 16) : Statement (.fence g kind cmask) := by
  intro _ w hw hk he
  obtain ⟨ho, hg, f0, f1, z0⟩ := layout61 (by decide) g kind cmask (Option.some.inj he)
  refine (eq_code hk ho (by decide)).trans ?_
  change (coded (fenceOf (fld w 32 2)) fun kind => accept (zeroAt w 0 16) (.fence (guardOf w) kind (fld w 16 16))) = _
  simp only [coded, hg, f0, f1, z0]
  exact accept_wf hw

theorem qfence (g : Guard) (qmask : BitVec 8) : Statement (.qfence g qmask) := by
  intro _ w hw hk he
  obtain ⟨ho, hg, f0, z0, z16⟩ := layout62 (by decide) g qmask (Option.some.inj he)
  refine (eq_code hk ho (by decide)).trans ?_
  change (accept (zeroAt w 0 8 && zeroAt w 16 18) (.qfence (guardOf w) (fld w 8 8))) = _
  simp only [hg, f0, z0, z16]
  exact accept_wf hw

theorem rfence (g : Guard) : Statement (.rfence g) := by
  intro _ w hw hk he
  obtain ⟨ho, hg, z0⟩ := layout2 (by decide) g (Option.some.inj he)
  refine (eq_code hk ho (by decide)).trans ?_
  change (accept (zeroAt w 0 34) (.rfence (guardOf w))) = _
  simp only [hg, z0]
  exact accept_wf hw

theorem spawn (g : Guard) (a : BitVec 6) (b : BitVec 6) (hm : BitVec 16) : Statement (.spawn g a b hm) := by
  intro _ w hw hk he
  obtain ⟨ho, hg, f0, f1, f2, z0⟩ := layout63 (by decide) g a b hm (Option.some.inj he)
  refine (eq_code hk ho (by decide)).trans ?_
  change (accept (zeroAt w 0 6) (.spawn (guardOf w) (fld w 28 6) (fld w 22 6) (fld w 6 16))) = _
  simp only [hg, f0, f1, f2, z0]
  exact accept_wf hw

theorem depend (g : Guard) (a : BitVec 6) (b : BitVec 6) : Statement (.depend g a b) := by
  intro _ w hw hk he
  obtain ⟨ho, hg, f0, f1, z0⟩ := layout11 (by decide) g a b (Option.some.inj he)
  refine (eq_code hk ho (by decide)).trans ?_
  change (accept (zeroAt w 0 22) (.depend (guardOf w) (fld w 28 6) (fld w 22 6))) = _
  simp only [hg, f0, f1, z0]
  exact accept_wf hw

theorem signal (g : Guard) (a : BitVec 6) (b : BitVec 6) : Statement (.signal g a b) := by
  intro _ w hw hk he
  obtain ⟨ho, hg, f0, f1, z0⟩ := layout11 (by decide) g a b (Option.some.inj he)
  refine (eq_code hk ho (by decide)).trans ?_
  change (accept (zeroAt w 0 22) (.signal (guardOf w) (fld w 28 6) (fld w 22 6))) = _
  simp only [hg, f0, f1, z0]
  exact accept_wf hw

theorem hsplit (g : Guard) (h1 : BitVec 4) (h2 : BitVec 4) (h3 : BitVec 4) (ax : BitVec 3) (sp : BitVec 6) : Statement (.hsplit g h1 h2 h3 ax sp) := by
  intro _ w hw hk he
  obtain ⟨ho, hg, f0, f1, f2, f3, f4, z0⟩ := layout64 (by decide) g h1 h2 h3 ax sp (Option.some.inj he)
  refine (eq_code hk ho (by decide)).trans ?_
  change (accept (zeroAt w 0 13) (.hsplit (guardOf w) (fld w 30 4) (fld w 26 4) (fld w 22 4) (fld w 19 3) (fld w 13 6))) = _
  simp only [hg, f0, f1, f2, f3, f4, z0]
  exact accept_wf hw

theorem hrejoin (g : Guard) (h1 : BitVec 4) (h2 : BitVec 4) (h3 : BitVec 4) : Statement (.hrejoin g h1 h2 h3) := by
  intro _ w hw hk he
  obtain ⟨ho, hg, f0, f1, f2, z0⟩ := layout65 (by decide) g h1 h2 h3 (Option.some.inj he)
  refine (eq_code hk ho (by decide)).trans ?_
  change (accept (zeroAt w 0 22) (.hrejoin (guardOf w) (fld w 30 4) (fld w 26 4) (fld w 22 4))) = _
  simp only [hg, f0, f1, f2, z0]
  exact accept_wf hw

theorem hmov (g : Guard) (h1 : BitVec 4) (h2 : BitVec 4) : Statement (.hmov g h1 h2) := by
  intro _ w hw hk he
  obtain ⟨ho, hg, f0, f1, z0⟩ := layout66 (by decide) g h1 h2 (Option.some.inj he)
  refine (eq_code hk ho (by decide)).trans ?_
  change (accept (zeroAt w 0 26) (.hmov (guardOf w) (fld w 30 4) (fld w 26 4))) = _
  simp only [hg, f0, f1, z0]
  exact accept_wf hw

theorem hput (g : Guard) (h1 : BitVec 4) (sb : BitVec 6) : Statement (.hput g h1 sb) := by
  intro _ w hw hk he
  obtain ⟨ho, hg, f0, f1, z0, z13⟩ := layout67 (by decide) g h1 sb (Option.some.inj he)
  refine (eq_code hk ho (by decide)).trans ?_
  change (accept (zeroAt w 0 7 && zeroAt w 13 17) (.hput (guardOf w) (fld w 30 4) (fld w 7 6))) = _
  simp only [hg, f0, f1, z0, z13]
  exact accept_wf hw

theorem htake (g : Guard) (h1 : BitVec 4) (sa : BitVec 6) (sb : BitVec 6) (susp : Bool) : Statement (.htake g h1 sa sb susp) := by
  intro _ w hw hk he
  obtain ⟨ho, hg, f0, f1, f2, f3, z0, z19⟩ := layout68 (by decide) g h1 sa sb susp (Option.some.inj he)
  refine (eq_code hk ho (by decide)).trans ?_
  change (accept (zeroAt w 0 6 && zeroAt w 19 11) (.htake (guardOf w) (fld w 30 4) (fld w 13 6) (fld w 7 6) (bitAt w 6))) = _
  simp only [hg, f0, f1, f2, f3, z0, z19]
  exact accept_wf hw

theorem htakeBoundExpiry : Statement .htakeBoundExpiry :=
  fun _ _ _ hk _ => nomatch hk

theorem handleDepositWake (pa : Nat) : Statement (.handleDepositWake pa) :=
  fun _ _ _ hk _ => nomatch hk

theorem hld (g : Guard) (h1 : BitVec 4) (sa : BitVec 6) (sb : BitVec 6) : Statement (.hld g h1 sa sb) := by
  intro _ w hw hk he
  obtain ⟨ho, hg, f0, f1, f2, z0, z19⟩ := layout69 (by decide) g h1 sa sb (Option.some.inj he)
  refine (eq_code hk ho (by decide)).trans ?_
  change (accept (zeroAt w 0 7 && zeroAt w 19 11) (.hld (guardOf w) (fld w 30 4) (fld w 13 6) (fld w 7 6))) = _
  simp only [hg, f0, f1, f2, z0, z19]
  exact accept_wf hw

theorem hst (g : Guard) (h1 : BitVec 4) (sa : BitVec 6) (sb : BitVec 6) : Statement (.hst g h1 sa sb) := by
  intro _ w hw hk he
  obtain ⟨ho, hg, f0, f1, f2, z0, z19⟩ := layout69 (by decide) g h1 sa sb (Option.some.inj he)
  refine (eq_code hk ho (by decide)).trans ?_
  change (accept (zeroAt w 0 7 && zeroAt w 19 11) (.hst (guardOf w) (fld w 30 4) (fld w 13 6) (fld w 7 6))) = _
  simp only [hg, f0, f1, f2, z0, z19]
  exact accept_wf hw

theorem hinfo (g : Guard) (h1 : BitVec 4) (ax : BitVec 3) (sa : BitVec 6) : Statement (.hinfo g h1 ax sa) := by
  intro _ w hw hk he
  obtain ⟨ho, hg, f0, f1, f2, z0, z22⟩ := layout70 (by decide) g h1 ax sa (Option.some.inj he)
  refine (eq_code hk ho (by decide)).trans ?_
  change (accept (zeroAt w 0 13 && zeroAt w 22 8) (.hinfo (guardOf w) (fld w 30 4) (fld w 19 3) (fld w 13 6))) = _
  simp only [hg, f0, f1, f2, z0, z22]
  exact accept_wf hw

theorem handleStep : Statement .handleStep :=
  fun _ _ _ hk _ => nomatch hk

theorem tlbinv (g : Guard) (a : BitVec 6) (b : BitVec 6) : Statement (.tlbinv g a b) := by
  intro _ w hw hk he
  obtain ⟨ho, hg, f0, f1, z0⟩ := layout11 (by decide) g a b (Option.some.inj he)
  refine (eq_code hk ho (by decide)).trans ?_
  change (needPriv true true <| accept (zeroAt w 0 22) (.tlbinv (guardOf w) (fld w 28 6) (fld w 22 6))) = _
  simp only [needPriv_held, hg, f0, f1, z0]
  exact accept_wf hw

theorem cachewb (g : Guard) (a : BitVec 6) (b : BitVec 6) : Statement (.cachewb g a b) := by
  intro _ w hw hk he
  obtain ⟨ho, hg, f0, f1, z0⟩ := layout11 (by decide) g a b (Option.some.inj he)
  refine (eq_code hk ho (by decide)).trans ?_
  change (needPriv true true <| accept (zeroAt w 0 22) (.cachewb (guardOf w) (fld w 28 6) (fld w 22 6))) = _
  simp only [needPriv_held, hg, f0, f1, z0]
  exact accept_wf hw

theorem cacheinv (g : Guard) (a : BitVec 6) (b : BitVec 6) : Statement (.cacheinv g a b) := by
  intro _ w hw hk he
  obtain ⟨ho, hg, f0, f1, z0⟩ := layout11 (by decide) g a b (Option.some.inj he)
  refine (eq_code hk ho (by decide)).trans ?_
  change (needPriv true true <| accept (zeroAt w 0 22) (.cacheinv (guardOf w) (fld w 28 6) (fld w 22 6))) = _
  simp only [needPriv_held, hg, f0, f1, z0]
  exact accept_wf hw

theorem tfa (g : Guard) (q : BitVec 2) (t : BitVec 6) (c : BitVec 6) (arv : BitVec 12) : Statement (.tfa g q t c arv) := by
  intro _ w hw hk he
  obtain ⟨ho, hg, f0, f1, f2, f3, z0⟩ := layout71 (by decide) g q t c arv (Option.some.inj he)
  refine (tf_code hk ho (by decide)).trans ?_
  change (accept (zeroAt w 0 8) (.tfa (guardOf w) (fld w 32 2) (fld w 26 6) (fld w 20 6) (fld w 8 12))) = _
  simp only [hg, f0, f1, f2, f3, z0]
  exact accept_wf hw

theorem tfb (g : Guard) (q : BitVec 2) (t : BitVec 6) (c : BitVec 6) (arv : BitVec 12) : Statement (.tfb g q t c arv) := by
  intro _ w hw hk he
  obtain ⟨ho, hg, f0, f1, f2, f3, z0⟩ := layout71 (by decide) g q t c arv (Option.some.inj he)
  refine (tf_code hk ho (by decide)).trans ?_
  change (accept (zeroAt w 0 8) (.tfb (guardOf w) (fld w 32 2) (fld w 26 6) (fld w 20 6) (fld w 8 12))) = _
  simp only [hg, f0, f1, f2, f3, z0]
  exact accept_wf hw

theorem tfh (g : Guard) (q : BitVec 2) (h : BitVec 4) (c : BitVec 6) (arv : BitVec 12) : Statement (.tfh g q h c arv) := by
  intro _ w hw hk he
  obtain ⟨ho, hg, f0, f1, f2, f3, z0, z26⟩ := layout72 (by decide) g q h c arv (Option.some.inj he)
  refine (tf_code hk ho (by decide)).trans ?_
  change (accept (zeroAt w 0 8 && zeroAt w 26 2) (.tfh (guardOf w) (fld w 32 2) (fld w 28 4) (fld w 20 6) (fld w 8 12))) = _
  simp only [hg, f0, f1, f2, f3, z0, z26]
  exact accept_wf hw

theorem tfx (g : Guard) (qm : BitVec 4) : Statement (.tfx g qm) := by
  intro _ w hw hk he
  obtain ⟨ho, hg, f0, z0⟩ := layout73 (by decide) g qm (Option.some.inj he)
  refine (tf_code hk ho (by decide)).trans ?_
  change (accept (zeroAt w 0 30) (.tfx (guardOf w) (fld w 30 4))) = _
  simp only [hg, f0, z0]
  exact accept_wf hw

theorem tfRowArrival (q : BitVec 2) : Statement (.tfRowArrival q) :=
  fun _ _ _ hk _ => nomatch hk

theorem setfmt (g : Guard) (fa : ElemFmt) (fb : ElemFmt) (sm : ScaleMode) (ty : Bool) : Statement (.setfmt g fa fb sm ty) := by
  intro _ w hw hk he
  obtain ⟨ho, hg, f0, f1, f2, f3, z0⟩ := layout74 (by decide) g fa fb sm ty (Option.some.inj he)
  refine (sc_code hk ho (by decide)).trans ?_
  change (coded (elemOf (fld w 30 4)) fun fa => coded (elemOf (fld w 26 4)) fun fb => coded (scaleOf (fld w 24 2)) fun sm => accept (zeroAt w 0 23) (.setfmt (guardOf w) fa fb sm (bitAt w 23))) = _
  simp only [coded, hg, f0, f1, f2, f3, z0]
  exact accept_wf hw

theorem ldsct (g : Guard) (tb : Bool) (b : BitVec 4) (off : BitVec 22) : Statement (.ldsct g tb b off) := by
  intro _ w hw hk he
  obtain ⟨ho, hg, f0, f1, f2, z26⟩ := layout75 (by decide) g tb b off (Option.some.inj he)
  refine (sc_code hk ho (by decide)).trans ?_
  change (accept (zeroAt w 26 7) (.ldsct (guardOf w) (bitAt w 33) (fld w 22 4) (fld w 0 22))) = _
  simp only [hg, f0, f1, f2, z26]
  exact accept_wf hw

theorem setband (g : Guard) (tb : Bool) (s : BitVec 6) (band : BitVec 6) : Statement (.setband g tb s band) := by
  intro _ w hw hk he
  obtain ⟨ho, hg, f0, f1, f2, z6, z28⟩ := layout76 (by decide) g tb s band (Option.some.inj he)
  refine (sc_code hk ho (by decide)).trans ?_
  change (accept (zeroAt w 6 16 && zeroAt w 28 5) (.setband (guardOf w) (bitAt w 33) (fld w 22 6) (fld w 0 6))) = _
  simp only [hg, f0, f1, f2, z6, z28]
  exact accept_wf hw

theorem setrnd (g : Guard) (rm : RMode) : Statement (.setrnd g rm) := by
  intro _ w hw hk he
  obtain ⟨ho, hg, f0, z0⟩ := layout77 (by decide) g rm (Option.some.inj he)
  refine (sc_code hk ho (by decide)).trans ?_
  change (accept (zeroAt w 0 32) (.setrnd (guardOf w) (roundOf (fld w 32 2)))) = _
  simp only [hg, f0, z0]
  exact accept_wf hw

theorem clrflg (g : Guard) (sm : BitVec 10) (fe : Bool) : Statement (.clrflg g sm fe) := by
  intro _ w hw hk he
  obtain ⟨ho, hg, f0, f1, z0⟩ := layout78 (by decide) g sm fe (Option.some.inj he)
  refine (sc_code hk ho (by decide)).trans ?_
  change (accept (zeroAt w 0 23) (.clrflg (guardOf w) (fld w 24 10) (bitAt w 23))) = _
  simp only [hg, f0, f1, z0]
  exact accept_wf hw

theorem entryPerform (k : Nat) : Statement (.entryPerform k) :=
  fun _ _ _ hk _ => nomatch hk

theorem copyPerform (q : Nat) : Statement (.copyPerform q) :=
  fun _ _ _ hk _ => nomatch hk

theorem qfenceLeave (q : BitVec 3) : Statement (.qfenceLeave q) :=
  fun _ _ _ hk _ => nomatch hk

theorem commitLine (k : Nat) : Statement (.commitLine k) :=
  fun _ _ _ hk _ => nomatch hk

theorem commitComplete : Statement .commitComplete :=
  fun _ _ _ hk _ => nomatch hk

theorem pageWalk (sp : Space) (va : BitVec 64) : Statement (.pageWalk sp va) :=
  fun _ _ _ hk _ => nomatch hk

theorem pageIn (sp : Space) (va : BitVec 64) : Statement (.pageIn sp va) :=
  fun _ _ _ hk _ => nomatch hk

theorem shootdown (sp : Space) (va : BitVec 64) (newPa : Option Nat) : Statement (.shootdown sp va newPa) :=
  fun _ _ _ hk _ => nomatch hk

theorem pinDropTimeout (q : BitVec 2) : Statement (.pinDropTimeout q) :=
  fun _ _ _ hk _ => nomatch hk

theorem nodeFinish (k : Nat) : Statement (.nodeFinish k) :=
  fun _ _ _ hk _ => nomatch hk

theorem taskPlace (core : Nat) : Statement (.taskPlace core) :=
  fun _ _ _ hk _ => nomatch hk

theorem launchComplete (l : Nat) : Statement (.launchComplete l) :=
  fun _ _ _ hk _ => nomatch hk

theorem launchFault : Statement .launchFault :=
  fun _ _ _ hk _ => nomatch hk

theorem gangSuspend : Statement .gangSuspend :=
  fun _ _ _ hk _ => nomatch hk

theorem softStop : Statement .softStop :=
  fun _ _ _ hk _ => nomatch hk

theorem hardStop : Statement .hardStop :=
  fun _ _ _ hk _ => nomatch hk

theorem sliceEnd (cl : Nat) : Statement (.sliceEnd cl) :=
  fun _ _ _ hk _ => nomatch hk

theorem tspanExpiry (cl : Nat) : Statement (.tspanExpiry cl) :=
  fun _ _ _ hk _ => nomatch hk

theorem graceExpiry (cl : Nat) : Statement (.graceExpiry cl) :=
  fun _ _ _ hk _ => nomatch hk

theorem tenantDrained (cl : Nat) : Statement (.tenantDrained cl) :=
  fun _ _ _ hk _ => nomatch hk

theorem imageSpill : Statement .imageSpill :=
  fun _ _ _ hk _ => nomatch hk

theorem launch (c : Cmd) : Statement (.launch c) :=
  fun _ _ _ hk _ => nomatch hk

theorem copy (c : Cmd) : Statement (.copy c) :=
  fun _ _ _ hk _ => nomatch hk

theorem waitevent (c : Cmd) : Statement (.waitevent c) :=
  fun _ _ _ hk _ => nomatch hk

theorem signalevent (c : Cmd) : Statement (.signalevent c) :=
  fun _ _ _ hk _ => nomatch hk

theorem resizeack (c : Cmd) : Statement (.resizeack c) :=
  fun _ _ _ hk _ => nomatch hk

theorem map (c : Cmd) : Statement (.map c) :=
  fun _ _ _ hk _ => nomatch hk

theorem unmap (c : Cmd) : Statement (.unmap c) :=
  fun _ _ _ hk _ => nomatch hk

theorem unsupportedPacket (die : Bool) (cmdBit : Bool) : Statement (.unsupportedPacket die cmdBit) :=
  fun _ _ _ hk _ => nomatch hk

theorem unregisteredSend (die : Bool) : Statement (.unregisteredSend die) :=
  fun _ _ _ hk _ => nomatch hk

theorem hostUetWrite (sp : Space) (va : BitVec 64) (bytes : List Byte) (tag : UetTag) : Statement (.hostUetWrite sp va bytes tag) :=
  fun _ _ _ hk _ => nomatch hk

theorem hostUetRead (sp : Space) (va : BitVec 64) (n : Nat) (tag : UetTag) : Statement (.hostUetRead sp va n tag) :=
  fun _ _ _ hk _ => nomatch hk

theorem peerAck (id : Nat) : Statement (.peerAck id) :=
  fun _ _ _ hk _ => nomatch hk

theorem peerArrival (sp : Space) (va : BitVec 64) (n : BitVec 24) : Statement (.peerArrival sp va n) :=
  fun _ _ _ hk _ => nomatch hk

theorem partcreate (c : Cmd) : Statement (.partcreate c) :=
  fun _ _ _ hk _ => nomatch hk

theorem partresize (c : Cmd) : Statement (.partresize c) :=
  fun _ _ _ hk _ => nomatch hk

theorem resizeApply (p : Nat) : Statement (.resizeApply p) :=
  fun _ _ _ hk _ => nomatch hk

theorem partdestroy (c : Cmd) : Statement (.partdestroy c) :=
  fun _ _ _ hk _ => nomatch hk

theorem vdevcreate (c : Cmd) : Statement (.vdevcreate c) :=
  fun _ _ _ hk _ => nomatch hk

theorem vdevset (c : Cmd) : Statement (.vdevset c) :=
  fun _ _ _ hk _ => nomatch hk

theorem tenantDisabled (sp : Space) : Statement (.tenantDisabled sp) :=
  fun _ _ _ hk _ => nomatch hk

theorem queuecreate (c : Cmd) : Statement (.queuecreate c) :=
  fun _ _ _ hk _ => nomatch hk

theorem queuedestroy (c : Cmd) : Statement (.queuedestroy c) :=
  fun _ _ _ hk _ => nomatch hk

theorem energy (c : Cmd) : Statement (.energy c) :=
  fun _ _ _ hk _ => nomatch hk

theorem summary (c : Cmd) : Statement (.summary c) :=
  fun _ _ _ hk _ => nomatch hk

theorem attest (c : Cmd) : Statement (.attest c) :=
  fun _ _ _ hk _ => nomatch hk

theorem alarmset (c : Cmd) : Statement (.alarmset c) :=
  fun _ _ _ hk _ => nomatch hk

theorem queuereset (c : Cmd) : Statement (.queuereset c) :=
  fun _ _ _ hk _ => nomatch hk

theorem watchdogExpiry (p : Nat) (q : Nat) : Statement (.watchdogExpiry p q) :=
  fun _ _ _ hk _ => nomatch hk

theorem alarm (src : AlarmSource) : Statement (.alarm src) :=
  fun _ _ _ hk _ => nomatch hk

theorem alarmClear : Statement .alarmClear :=
  fun _ _ _ hk _ => nomatch hk

theorem powerOn : Statement .powerOn :=
  fun _ _ _ hk _ => nomatch hk

theorem eccError (st : Storage) (addr : Nat) (fatal : Bool) : Statement (.eccError st addr fatal) :=
  fun _ _ _ hk _ => nomatch hk

theorem patrolScrub (addr : Nat) : Statement (.patrolScrub addr) :=
  fun _ _ _ hk _ => nomatch hk

theorem rowSpare (stack : BitVec 3) (row : Nat) : Statement (.rowSpare stack row) :=
  fun _ _ _ hk _ => nomatch hk

theorem pageRetire (stack : BitVec 3) (sp : Space) (va : BitVec 64) (newPa : Nat) : Statement (.pageRetire stack sp va newPa) :=
  fun _ _ _ hk _ => nomatch hk

theorem dbgarm (c : Cmd) : Statement (.dbgarm c) :=
  fun _ _ _ hk _ => nomatch hk

theorem dbgstop (c : Cmd) : Statement (.dbgstop c) :=
  fun _ _ _ hk _ => nomatch hk

theorem debugStop (cause : BitVec 2) : Statement (.debugStop cause) :=
  fun _ _ _ hk _ => nomatch hk

theorem dbgresume (c : Cmd) : Statement (.dbgresume c) :=
  fun _ _ _ hk _ => nomatch hk

theorem trace (c : Cmd) : Statement (.trace c) :=
  fun _ _ _ hk _ => nomatch hk

theorem counters (c : Cmd) : Statement (.counters c) :=
  fun _ _ _ hk _ => nomatch hk

theorem pcSample : Statement .pcSample :=
  fun _ _ _ hk _ => nomatch hk

theorem freezeRecord : Statement .freezeRecord :=
  fun _ _ _ hk _ => nomatch hk

theorem traceHeadAdvance (sp : Space) : Statement (.traceHeadAdvance sp) :=
  fun _ _ _ hk _ => nomatch hk

theorem replay (c : Cmd) : Statement (.replay c) :=
  fun _ _ _ hk _ => nomatch hk

theorem checkpoint (p : Nat) : Statement (.checkpoint p) :=
  fun _ _ _ hk _ => nomatch hk

theorem replayHalt (p : Nat) : Statement (.replayHalt p) :=
  fun _ _ _ hk _ => nomatch hk

theorem tileAccessPerform (k : Nat) : Statement (.tileAccessPerform k) :=
  fun _ _ _ hk _ => nomatch hk

theorem peerTimeout (id : Nat) : Statement (.peerTimeout id) :=
  fun _ _ _ hk _ => nomatch hk

theorem peerReadResponse (id : Nat) (bytes : List Byte) : Statement (.peerReadResponse id bytes) :=
  fun _ _ _ hk _ => nomatch hk

theorem linkLevelRetry (die : Bool) : Statement (.linkLevelRetry die) :=
  fun _ _ _ hk _ => nomatch hk

theorem bufferSlotReturn (p : Nat) (port : BitVec 4) : Statement (.bufferSlotReturn p port) :=
  fun _ _ _ hk _ => nomatch hk

theorem retrieverInjection (p : Nat) (port : BitVec 4) (bytes : List Byte) : Statement (.retrieverInjection p port bytes) :=
  fun _ _ _ hk _ => nomatch hk

end Sys2Proof.Laws.Coding
end

