-- ==== Sys2Proof/Tests/Slice0.lean ====
section
/-! SUPPORT. Tests: each check of `WellFormed` refuses an ill-formed term; words that the specification spells out decode to
their operations; its worked values come out of one operation; and for each statement with hypotheses a state that meets them. -/

namespace Sys2Proof.Tests

open Sys2Proof.Machine

set_option Elab.async false

/-! ### WellFormed -/

/-- The always-true guard. -/
def g0 : Guard := ⟨0#5, false⟩

/-- Terms that break a limit, and the nearest terms that keep it. -/
theorem test_wf_control : ¬ WellFormed (.loop g0 0#2 0#12 5#20) ∧ WellFormed (.loop g0 0#2 1#12 5#20)
    ∧ ¬ WellFormed (.loopr g0 0#2 0#12 1#6) ∧ ¬ WellFormed (.waitc g0 0#16) ∧ WellFormed (.waitc g0 1#16) := by decide

theorem test_wf_scalar : ¬ WellFormed (.extu false g0 1#6 2#6 3#6 4#6) ∧ WellFormed (.extu false g0 1#6 2#6 4#6 4#6)
    ∧ ¬ WellFormed (.cmpeq false g0 0#5 1#6 2#6) ∧ ¬ WellFormed (.pand true g0 0#5 1#5 2#5)
    ∧ ¬ WellFormed (.fcmplt false g0 0#5 1#6 2#6) ∧ ¬ WellFormed (.rddst false g0 0#5)
    ∧ ¬ WellFormed (.rdsys false g0 1#6 0x07#8) ∧ WellFormed (.rdsys false g0 1#6 0x06#8)
    ∧ ¬ WellFormed (.rdsys false g0 1#6 0x8B#8) ∧ ¬ WellFormed (.wrsys false g0 1#6 0x0A#8)
    ∧ WellFormed (.wrsys false g0 1#6 0x8A#8) := by decide

theorem test_wf_vector : ¬ WellFormed (.vshl false g0 1#8 2#8 3#8 .f32) ∧ WellFormed (.vshl false g0 1#8 2#8 3#8 .i32)
    ∧ ¬ WellFormed (.vcmpeq false g0 0#5 1#8 2#8 .f32) ∧ ¬ WellFormed (.vcvt false g0 1#8 2#8 .f32 .f32)
    ∧ ¬ WellFormed (.vpack false g0 1#8 2#8 3#8 .f16 .bf16) ∧ WellFormed (.vpack false g0 1#8 2#8 3#8 .i32 .bf16)
    ∧ ¬ WellFormed (.vunpk false g0 1#8 2#8 .f32 .i32 false) ∧ ¬ WellFormed (.vexp2 false g0 1#8 2#8 .i32)
    ∧ ¬ WellFormed (.vquant false g0 1#8 2#8 .i32) ∧ ¬ WellFormed (.vdeq false g0 1#8 2#8 .i32) := by decide

theorem test_wf_matrix_scratch_scale : ¬ WellFormed (.mshift g0 0#9) ∧ WellFormed (.mshift g0 1#9)
    ∧ ¬ WellFormed (.ldvx g0 1#8 2#8 3#4 .b8 0#12) ∧ ¬ WellFormed (.stvx g0 1#8 2#8 3#4 .b8 0#12)
    ∧ ¬ WellFormed (.setfmt g0 .e4m3 .bf16 .none false) ∧ ¬ WellFormed (.setfmt g0 .e4m3 .e4m3 .explicit false)
    ∧ ¬ WellFormed (.setfmt g0 .int8 .int8 .none false) ∧ WellFormed (.setfmt g0 .int8 .int8 .none true)
    ∧ ¬ WellFormed (.setband g0 true 1#6 8#6) ∧ WellFormed (.setband g0 true 1#6 7#6) := by decide

theorem test_wf_engine : ¬ WellFormed (.ldg g0 1#6 2#6 .b4 0#4 false 7#12) ∧ WellFormed (.ldg g0 1#6 2#6 .b4 0#4 false 8#12)
    ∧ ¬ WellFormed (.atgCas g0 3#6 2#6 true 0#4 false false 64#12) ∧ WellFormed (.atgCas g0 4#6 2#6 true 0#4 false false 64#12)
    ∧ ¬ WellFormed (.cpyo g0 0#3 1#6 2#6 63#6 0#4 0#4) ∧ ¬ WellFormed (.cpyt g0 0#3 1#6 2#6 59#6 0#4 0#4)
    ∧ ¬ WellFormed (.fence g0 .full 0#16) ∧ ¬ WellFormed (.qfence g0 0#8) ∧ ¬ WellFormed (.hsplit g0 1#4 1#4 2#4 0#3 3#6)
    ∧ ¬ WellFormed (.hsplit g0 1#4 2#4 3#4 6#3 3#6) ∧ ¬ WellFormed (.hinfo g0 1#4 6#3 2#6)
    ∧ ¬ WellFormed (.tfa g0 0#2 1#6 59#6 64#12) ∧ ¬ WellFormed (.tfb g0 0#2 1#6 58#6 7#12)
    ∧ ¬ WellFormed (.tfh g0 0#2 1#4 59#6 64#12) ∧ ¬ WellFormed (.tfx g0 0#4) := by decide

/-! ### Decoding: words of the specification's examples, from the encodings of R24 to R43 -/

theorem test_decode_control : decodeSlot .ctl true 0x0103FFFFF400#48 = .ok (.br g0 (-3))
    ∧ decodeSlot .ctl true 0x02007000_0000#48 = .ok (.bri g0 7#6) ∧ decodeSlot .ctl true 0x030000002800#48 = .ok (.call g0 10#24)
    ∧ decodeSlot .ctl true 0x081900000000#48 = .ok (.lbrk ⟨3#5, false⟩ 1#2)
    ∧ decodeSlot .ctl true 0x0A000000002A#48 = .ok (.trap g0 0x2A#16) ∧ decodeSlot .ctl true 0x0D0000000000#48 = .ok (.endt g0)
    ∧ decodeSlot .ctl true 0x110000000000#48 = .ok (.idle g0) ∧ decodeSlot .ctl false 0x110000000000#48 = .error .privilege := by
  decide

theorem test_decode_scalar : decodeSlot .sa true 0x1A0031054800#48 = .ok (.sel false g0 3#6 4#6 5#6 9#5)
    ∧ decodeSlot .sb true 0x1A0031054800#48 = .ok (.sel true g0 3#6 4#6 5#6 9#5)
    ∧ decodeSlot .sa true 0x170050000001#48 = .ok (.movi false g0 5#6 1#28)
    ∧ decodeSlot .sa true 0x270061C00064#48 = .ok (.cmplti false g0 3#5 7#6 100#22)
    ∧ decodeSlot .sa true 0x3700A4000000#48 = .ok (.pany false g0 5#5 4#5 0#5)
    ∧ decodeSlot .sa true 0x480082400000#48 = .ok (.fcvtfi false g0 8#6 9#6) := by decide

theorem test_decode_vector : decodeSlot .vx true 0x130020181E20#48 = .ok (.vsel false g0 8#8 6#8 7#8 .f16 4#5)
    ∧ decodeSlot .vy true 0x1100A00C1000#48 = .ok (.vcmplt true g0 5#5 3#8 4#8 .f32)
    ∧ decodeSlot .vx true 0x1E00900C4100#48 = .ok (.vext false g0 9#6 3#8 4#6 .i32)
    ∧ decodeSlot .vx true 0x2020282C0000#48 = .ok (.vredadd false ⟨4#5, false⟩ 10#8 11#8 .f32)
    ∧ decodeSlot .vx true 0x380050540000#48 = .ok (.vquant false g0 20#8 21#8 .f32) := by decide

theorem test_decode_matrix : decodeSlot .mx true 0x010000200110#48 = .ok (.mpush g0 2#2 17#9)
    ∧ decodeSlot .mx true 0x04001900A250#48 = .ok (.macc g0 100#12 0#2 .e4m3 (some (1#2, 37#9)))
    ∧ decodeSlot .mx true 0x050010140000#48 = .ok (.maccz g0 64#12 1#2 .bf16 none)
    ∧ decodeSlot .mx true 0x080000000000#48 = .ok (.mdrainz g0 0#12 .f32 0#6 0#13)
    ∧ decodeSlot .mx true 0x090080000000#48 = .ok (.mzero g0 512#12) := by decide

theorem test_decode_scratch_scale : decodeSlot .ls true 0x020054C01000#48 = .ok (.stv g0 21#8 3#4 0x1000#22)
    ∧ decodeSlot .ls true 0x04005C400008#48 = .ok (.sts g0 5#6 .b8 1#4 8#22)
    ∧ decodeSlot .ls true 0x0500787D1100#48 = .ok (.ldvx g0 30#8 31#8 4#4 .b2 0x100#12)
    ∧ decodeSlot .sc true 0x010089000000#48 = .ok (.setfmt g0 .e2m1 .e2m1 .explicit false)
    ∧ decodeSlot .sc true 0x020201000040#48 = .ok (.ldsct g0 true 4#4 0x40#22)
    ∧ decodeSlot .sc true 0x030001C00005#48 = .ok (.setband g0 false 7#6 5#6)
    ∧ decodeSlot .sc true 0x050020800000#48 = .ok (.clrflg g0 0x020#10 true) := by decide

theorem test_decode_engine_fetch : decodeSlot .eq true 0x0300_51A9_4000#48 = .ok (.stg g0 5#6 6#6 .b4 9#4 true)
    ∧ decodeSlot .eq true 0x1100_01E8_0100#48 = .ok (.atgFadd g0 0#6 7#6 8#4 false false 64#12)
    ∧ decodeSlot .eq true 0x2100_3120_8320#48 = .ok (.waitv g0 3#6 4#6 true 0#4 true 200#12)
    ∧ decodeSlot .eq true 0x0901_1049_4900#48 = .ok (.cpyo g0 2#3 8#6 9#6 10#6 4#4 8#4)
    ∧ decodeSlot .eq true 0x3000_4801_2000#48 = .ok (.hsplit g0 1#4 2#4 0#4 0#3 9#6)
    ∧ decodeSlot .eq true 0x3401_0000_EA40#48 = .ok (.htake g0 4#4 7#6 20#6 true)
    ∧ decodeSlot .tf true 0x0101_1480_2800#48 = .ok (.tfa g0 1#2 5#6 8#6 40#12)
    ∧ decodeSlot .tf true 0x0400_C000_0000#48 = .ok (.tfx g0 3#4) := by decide

/-- A bundle of an ENDT and an ADDI with STALL 3 decodes to them in slot order; with bit 0 of its header set it does not decode. -/
theorem test_decode_bundle : decodeBundle true (encodeBundle 0x300000#32 [.endt g0, .addi false g0 7#6 7#6 (-64)])
      = .ok [.endt g0, .addi false g0 7#6 7#6 (-64)]
    ∧ decodeBundle true (encodeBundle 1#32 [.endt g0]) = .error (.illegalEncoding, 0xFF) := by decide +kernel

/-! ### States of the tests -/

/-- One core that runs task 1 of launch 1 of partition 1, privileged, at a bundle of no operation. -/
def run : State := State.reset.placeWord 0 0

/-- The context changed. -/
def runWith (f : Ctx → Ctx) : State := run.onCore fun c => c.onCtx f

/-- The same task without privilege. -/
def user : State := run.onCore fun c => { c with task := some ⟨⟨1, 1, 1⟩, 0, false, 0#2, false⟩ }

/-- The same task as a gang of size 4, whose window is 4 MiB. -/
def gang : State := run.onCore fun c => { c with task := some ⟨⟨1, 1, 1⟩, 0, true, 0#2, true⟩ }

/-- The results in flight of a next state; none where the machine stops. -/
def flying (o : Host.Outcome State Fault Refusal) : List (Wr × Nat × FlagSet) :=
  match o with
  | .next t => t.core.ctx.results.map fun r => (r.wr, r.rem, r.flags)
  | _ => []

/-- What a next state answers to a question. -/
def after {α : Type} (o : Host.Outcome State Fault Refusal) (f : State → α) : Option α :=
  match o with
  | .next t => some (f t)
  | _ => none

/-! ### Worked values of the specification -/

/-- The table of R143: three operations build 0x0123456789ABCDEF. -/
theorem test_constant_in_three_bundles :
    flying (exec (.movi false g0 5#6 1#28) run) = [(.s 5#6 1#64, 1, 0#6)]
    ∧ flying (exec (.movhi false g0 5#6 0x2345678#28) (runWith fun x => x.setS 5#6 1#64)) = [(.s 5#6 0x12345678#64, 1, 0#6)]
    ∧ flying (exec (.movhi false g0 5#6 0x9ABCDEF#28) (runWith fun x => x.setS 5#6 0x12345678#64))
      = [(.s 5#6 0x0123456789ABCDEF#64, 1, 0#6)] := by decide +kernel

/-- R142: a register count of 64 gives zeros, or copies of the sign; a result of 2^64 wraps (R141). -/
theorem test_shift_by_width_and_wrap :
    let s := runWith fun x => (x.setS 1#6 0x8000000000000001#64).setS 2#6 64#64
    flying (exec (.shl false g0 3#6 1#6 2#6) s) = [(.s 3#6 0#64, 1, 0#6)]
    ∧ flying (exec (.sar false g0 3#6 1#6 2#6) s) = [(.s 3#6 (BitVec.allOnes 64), 1, 0#6)]
    ∧ flying (exec (.add true g0 3#6 1#6 1#6) s) = [(.s 3#6 2#64, 1, 0#6)]
    ∧ flying (exec (.mulh false g0 3#6 1#6 2#6) s) = [(.s 3#6 0xFFFFFFFFFFFFFFE0#64, 3, 0#6)] := by decide +kernel

/-- The table of R145: PSETN of 3, and PANY and PALL of a compare that left 0b0110. -/
theorem test_predicate_tests :
    let s := runWith fun x => { x.setS 9#6 3#64 with pregs := (x.pregs.set 5 0b0110#1024).set 4 0b0111#1024 }
    flying (exec (.psetn false g0 4#5 9#6) s) = [(.p 4#5 (BitVec.allOnes 1024) 0b0111#1024, 1, 0#6)]
    ∧ flying (exec (.pany false g0 6#5 5#5 4#5) s) = [(.p 6#5 (BitVec.allOnes 1024) (BitVec.allOnes 1024), 1, 0#6)]
    ∧ flying (exec (.pall true g0 7#5 5#5 4#5) s) = [(.p 7#5 (BitVec.allOnes 1024) 0#1024, 1, 0#6)] := by decide +kernel

/-- R284: the fourth arrival of a phase of four advances it; fewer only count down. -/
theorem test_arrival_counts :
    arriveNew (4 * 2 ^ 24 + 4) 1 = 4 * 2 ^ 24 + 3 ∧ arriveNew (4 * 2 ^ 24 + 1) 1 = 2 ^ 48 + 4 * 2 ^ 24 + 4
    ∧ arriveNew ((2 ^ 16 - 1) * 2 ^ 48 + 4 * 2 ^ 24) 0 = 4 * 2 ^ 24 + 4 := by decide

/-- A privileged operation without privilege raises PRIVILEGE, a misaligned request ALIGNMENT (R44, R277). -/
theorem test_traps :
    after (exec (.tlbinv g0 0#6 0#6) user) (fun t => t.core.trap.map TrapRec.code) = some (some .privilege)
    ∧ after (exec (.ldg g0 1#6 2#6 .b4 0#4 false 64#12) (runWith fun x => x.setS 2#6 2#64)) (fun t => t.core.trap.map TrapRec.code)
      = some (some .alignment)
    ∧ after (exec (.trap g0 0x2A#16) run) (fun t => t.core.trap.map fun r => (r.code, r.imm)) = some (some (.softwareTrap, 0x2A#16)) := by
  decide +kernel

/-- A guard that is false leaves everything as it was (R27). -/
theorem test_guard_false : flying (exec (.add false ⟨0#5, true⟩ 1#6 2#6 3#6) run) = []
    ∧ after (exec (.br ⟨1#5, false⟩ 5#24) run) (fun t => t.core.ctx.delayTarget) = some none := by decide +kernel

/-- A step fetches a placed bundle and runs it: ADDI s7, s7, -64 of the example under R30, in SA. -/
theorem test_step_runs_addi :
    after (step (State.reset.withFetchWord 512 (0x030071FFFFC0 * 2 ^ 80))) (fun t => t.core.ctx.results.map Result.wr)
      = some [.s 7#6 0xFFFFFFFFFFFFFFC0#64] := by decide +kernel

/-- A reserved opcode in CTL traps as the bundle issues (R45). -/
theorem test_step_refuses_opcode :
    after (step (State.reset.withFetchWord 512 (0xFF0000000000 * 2 ^ 32))) (fun t => t.core.trap.map fun r => (r.code, r.slot))
      = some (some (.illegalOpcode, 0#8)) := by decide +kernel

theorem test_reset_is_canonical : State.reset.canonical ∧ run.canonical := by
  unfold State.canonical; decide +kernel

/-! ### States that meet the hypotheses of the statements: slot operations

Each theorem names its statement, and gives for each clause a state and operands, at the ends of a range where there is one. -/

/-- A row of queue 0 that a push or a beat can take. -/
def stream0 : Stream :=
  { id := 0, isB := false, recAddr := 0#64, handle := none, tsr := none, box := [], total := 1, fetched := 1, popped := 0
    rows := [0#16384], rowErr := none, first := true, pinned := false, counted := true, since := 0, pc := 0#58 }

/-- A row waits in queue 0. -/
def fed : State := runWith fun x => x.setQueue 0#2 [stream0]

/-- A live handle of entry 5 of partition 1. -/
def live5 : HReg := ⟨makeHandle none 5 0#16 1, .live⟩

/-- h1 is LIVE, h2 MOVED, the other handle registers EMPTY. -/
def handed : State := runWith fun x => (x.setH 1#4 live5).setH 2#4 ⟨live5.val, .moved⟩

/-- A landing that fills one entry of the table. -/
def landing0 : Landing := ⟨0, 7, 0, 8, .s 1#6, .load, none, none, 0#58, 0#64⟩

/-- A full landing-slot table, and one with a single free entry. -/
def crowded (n : Nat) : State := runWith fun x => { x with landings := List.replicate n landing0 }

theorem test_hyps_ScalarIntegerResults : run.core.ctx.guardBit g0 = true ∧ (0#6).toNat ≤ (0#6).toNat
    ∧ (0#6).toNat ≤ (63#6).toNat ∧ (63#6).toNat ≤ (63#6).toNat := by decide +kernel

theorem test_hyps_ScalarFloatResults : (runWith fun x => x.setS 1#6 0x7FC00001#64).core.ctx.guardBit g0 = true
    ∧ (runWith fun x => x.setS 1#6 0x7FC00001#64).core.ctx.f32 1#6 = .nan := by decide +kernel

theorem test_hyps_CodesAreExact : fp32 ∈ [fp32, fp16, bf16, e5m2, e4m3, e2m1] ∧ 0xFF7FFFFF < 2 ^ fp32.width
    ∧ (fp32.decode 0xFF7FFFFF).isNan = false ∧ (fp32.decode 0xFF7FFFFF).isInf = false
    ∧ 0x7E < 2 ^ e4m3.width ∧ (e4m3.decode 0x7E).isNan = false ∧ (e4m3.decode 0x7E).isInf = false := by decide +kernel

theorem test_hyps_SpecialRegisterAccess : run.core.ctx.guardBit g0 = true ∧ run.core.priv = true
    ∧ run.replayOf run.core.space.part = none ∧ user.core.ctx.guardBit g0 = true ∧ user.core.priv = false
    ∧ (0x7F#8).toNat < 0x80 ∧ 0x80 ≤ (0x80#8).toNat ∧ user.replayOf user.core.space.part = none := by decide +kernel

theorem test_hyps_VectorFloatLanes : vfmt .f32 = some fp32 ∧ vfmt .f16 = some fp16 ∧ vfmt .bf16 = some bf16 := by decide +kernel

theorem test_hyps_VectorMoves :
    let s := runWith fun x => (x.setS 1#6 511#64).setS 2#6 512#64
    s.core.ctx.guardBit g0 = true ∧ VType.lanes .i32 ≤ (s.core.ctx.getS 2#6).toNat
    ∧ (s.core.ctx.getS 1#6).toNat < VType.lanes .i32 ∧ (s.core.ctx.guardMask g0).getLsbD (s.core.ctx.getS 1#6).toNat = true
    ∧ (s.core.ctx.guardMask ⟨1#5, false⟩).getLsbD (s.core.ctx.getS 1#6).toNat = false := by decide +kernel

theorem test_hyps_VectorCompares : run.core.ctx.guardMask ⟨1#5, false⟩ &&& lowPred 512 = 0#1024
    ∧ run.core.ctx.guardMask g0 &&& lowPred 512 ≠ 0#1024 ∧ (0 : Nat) < 1024 ∧ (1023 : Nat) < 1024 := by decide +kernel

theorem test_hyps_VectorSpecials : isSteel run.core.id = true ∧ isSteel 24#6 = false := by decide +kernel

theorem test_hyps_RowResultLanes : assocAbove 0#16384 none (Ctx.reset.setRow 3#12 (BitVec.allOnes 16384) 7#16384).acc = true
    ∧ 511 < VType.lanes .f32 ∧ 0 < VType.lanes .f16 ∧ (4#12 : BitVec 12) ≠ 3#12 := by decide +kernel

theorem test_hyps_PlaneOperations : fed.core.ctx.guardBit g0 = true ∧ (255#9).toNat < ElemFmt.k fed.core.ctx.fmt.fb
    ∧ nextRow (fed.core.ctx.queue 0#2) = some (0#16384, stream0) ∧ fed.traceOf fed.core.space = none := by decide +kernel

theorem test_hyps_Beats : fed.core.ctx.guardBit g0 = true ∧ (nextRow (fed.core.ctx.queue 0#2)).isSome = true
    ∧ (255#9).toNat < ElemFmt.k fed.core.ctx.fmt.fb ∧ fed.core.ctx.fmt.fa = .e4m3 ∧ ElemFmt.bf16 ≠ fed.core.ctx.fmt.fa
    ∧ isSteel fed.core.id = true ∧ fed.core.ctx.fmt.fb = .e4m3
    ∧ (let s := fed.onCore fun c => c.onCtx fun x => { x with fmt := { x.fmt with fb := .bf16 } }
      s.core.ctx.guardBit g0 = true ∧ (nextRow (s.core.ctx.queue 0#2)).isSome = true ∧ s.core.ctx.fmt.fb ≠ .e4m3) := by decide +kernel

/-- 2^k as a product. -/
def power (k : Int) : FVal × Bool := (.fin false 1 k, false)

/-- A beat whose 512 columns each add this group to the lane. -/
def groupBeat (ps : List (FVal × Bool)) (trunc : Bool) : Beat :=
  ⟨false, false, .rne, false, false, List.replicate 512 [((groupSum ps).col .rne trunc).1]⟩

/-- Elements 1.0 with scales and bands 1.0; groups with the terms 1 and 2^-50 (the example below R111), without terms that count, with an
infinity, and with infinities of both signs; rows of zeros and of NaNs. -/
theorem test_hyps_Beats_sums :
    let one := elementEnter false .none 0x38
    (elementPair one one = some (.fin false 8 (-3), .fin false 8 (-3)) ∧ scaleVal (elementScale Ctx.reset.tableA one) = .fin false 1 0
      ∧ bandVal 0x3F80#16 = .fin false 128 (-7))
    ∧ (groupBeat [power 0, power (-50)] true).int = false
    ∧ (groupBeat [power 0, power (-50)] true).cols[511]? = some [((groupSum [power 0, power (-50)]).col .rne true).1]
    ∧ (∀ p ∈ [power 0, power (-50)], p.1.isNan = false ∧ p.1.isInf = false ∧ p.2 = false)
    ∧ fp32.decode (digit 32 (0#16384).toNat 511) = .fin false 0 (-149)
    ∧ fp32.decode (digit 32 (BitVec.allOnes 16384).toNat 0) = .nan
    ∧ (∃ p ∈ [power 0, (.inf true, false)], p.1 = .inf true) ∧ (∀ p ∈ [power 0, (.inf true, false)], p.1 ≠ .inf false ∧ p.1 ≠ .nan ∧ p.2 = false)
    ∧ (∃ p ∈ [((.inf false : FVal), false), (.inf true, false)], p.1 = .inf false)
    ∧ (groupBeat [power 0] true).cols[0]? = some ([] ++ [((groupSum [power 0]).col .rne true).1]) := by decide +kernel

/-- The values of those terms, and u = -48 for them. -/
theorem test_hyps_Beats_values : (power 0).1.value ≠ 0 ∧ Int.log 2 |(power 0).1.value| = -48 + 48
    ∧ Int.log 2 |(power (-50)).1.value| ≤ -48 + 48 ∧ (FVal.fin true 0 0).value = 0 := by
  have h0 : (power 0).1.value = 1 := by simp [power, FVal.value]
  have h1 : (power (-50)).1.value = ((2 : ℕ) : ℚ) ^ (-50 : ℤ) := by simp [power, FVal.value]
  refine ⟨by rw [h0]; exact one_ne_zero, by rw [h0, abs_one, Int.log_one_right]; rfl, ?_, by simp [FVal.value]⟩
  rw [h1, abs_of_nonneg (by positivity), Int.log_zpow (by decide)]
  decide

/-- 512 equal columns of two INT8 terms, 7F by 80 and 80 by 80. -/
def intCols : List (List ColSum) := (List.range 512).map fun _ => [intColumn [0x7F, 0x80] fun _ => 0x80]

theorem test_hyps_IntegerBeats : (⟨true, false, .rne, false, false, intCols⟩ : Beat).int = true
    ∧ (⟨true, false, .rne, false, false, intCols⟩ : Beat).lost = false
    ∧ intCols = (List.range 512).map fun _ => [intColumn [0x7F, 0x80] fun _ => 0x80] := ⟨rfl, rfl, rfl⟩

/-- A block of 512 lanes of 4, 2 and 1 bytes that ends at the end of the window; one past it; one that is misaligned; and, in a gang, one
that crosses a bank. -/
theorem test_hyps_Drains :
    let s := runWith fun x => (x.setS 1#6 (2 ^ 20 - 2048)).setS 2#6 128#64
    let e := fun (sb : BitVec 6) (off : BitVec 13) => ((s.core.ctx.getS sb).toNat + 256 * off.toNat) % 2 ^ 64
    let t := gang.onCore fun c => c.onCtx fun x => x.setS 1#6 (2 ^ 20 - 1024)
    let f := ((t.core.ctx.getS 1#6).toNat + 256 * (0#13).toNat) % 2 ^ 64
    s.core.ctx.guardBit g0 = true ∧ s.core.spmFits (e 1#6 0#13) (512 * DrainFmt.bytes .f32) 256
    ∧ s.core.spmFits (e 1#6 4#13) (512 * DrainFmt.bytes .bf16) 256 ∧ s.core.spmFits (e 1#6 6#13) (512 * DrainFmt.bytes .int8) 256
    ∧ s.core.window < e 1#6 1#13 + 512 * DrainFmt.bytes .f32
    ∧ (e 2#6 0#13 + 512 * DrainFmt.bytes .f32 ≤ s.core.window ∧ e 2#6 0#13 % 256 ≠ 0)
    ∧ (t.core.ctx.guardBit g0 = true ∧ f + 512 * DrainFmt.bytes .f32 ≤ t.core.window
      ∧ f / 2 ^ 20 ≠ (f + 512 * DrainFmt.bytes .f32 - 1) / 2 ^ 20) := by
  unfold Core.spmFits; decide +kernel

theorem test_hyps_ScratchpadLoads :
    let s := runWith fun x => x.setS 1#6 (2 ^ 20 - 2048)
    s.core.ctx.guardBit g0 = true ∧ s.core.spmFits (s.core.lsOffset 1#4 0) 2048 64
    ∧ s.core.spmFits (s.core.lsOffset 1#4 2040) (Width.bytes .b8) (Width.bytes .b8)
    ∧ s.core.spmFits (s.core.lsOffset 1#4 (2048 - 64)) 64 64
    ∧ (∀ i, i < 512 → s.core.spmFits (s.core.elemOffset 1#4 2044#12 0#8 i) (Width.bytes .b4) (Width.bytes .b4)) := by
  unfold Core.spmFits; decide +kernel

theorem test_hyps_ScratchpadStores :
    let s := runWith fun x => x.setS 1#6 (2 ^ 20 - 2048)
    s.core.ctx.guardBit g0 = true ∧ s.core.spmFits (s.core.lsOffset 1#4 0) 2048 64
    ∧ s.core.spmFits (s.core.lsOffset 1#4 2047) (Width.bytes .b1) (Width.bytes .b1)
    ∧ (∀ i, i < 512 → s.core.spmFits (s.core.elemOffset 1#4 0#12 0#8 i) (Width.bytes .b1) (Width.bytes .b1)) := by
  unfold Core.spmFits; decide +kernel

/-- The last word of the window; one byte past it; a misaligned word; and, in a gang, a word that crosses a bank. -/
theorem test_hyps_LocalAtomics :
    let s := runWith fun x => (x.setS 1#6 (2 ^ 20 - 8)).setS 2#6 2#64
    let t := gang.onCore fun c => c.onCtx fun x => x.setS 1#6 (2 ^ 20 - 2)
    s.core.ctx.guardBit g0 = true ∧ s.core.spmFits (s.core.scaledOffset 1#6 0 8) 8 8
    ∧ s.core.spmFits (s.core.scaledOffset 1#6 1 4) 4 4
    ∧ s.core.window < s.core.scaledOffset 1#6 1 8 + 8 ∧ s.core.window < s.core.lsOffset 1#4 0 + 2048
    ∧ (s.core.scaledOffset 2#6 0 4 + 4 ≤ s.core.window ∧ s.core.scaledOffset 2#6 0 4 % 4 ≠ 0)
    ∧ (s.core.lsOffset 2#4 0 + 64 ≤ s.core.window ∧ s.core.lsOffset 2#4 0 % 64 ≠ 0)
    ∧ t.core.ctx.guardBit g0 = true
    ∧ (t.core.lsOffset 1#4 0 + 2048 ≤ t.core.window
      ∧ t.core.lsOffset 1#4 0 / 2 ^ 20 ≠ (t.core.lsOffset 1#4 0 + 2048 - 1) / 2 ^ 20) := by
  unfold Core.spmFits; decide +kernel

theorem test_hyps_ScaleSlot :
    let s := runWith fun x => x.setS 1#6 (2 ^ 20 - 16)
    s.core.ctx.guardBit g0 = true ∧ s.core.spmFits (s.core.lsOffset 1#4 0) 16 16 := by
  unfold Core.spmFits; decide +kernel

theorem test_hyps_LandingRequests :
    let s := runWith fun x => x.setS 1#6 2#64
    s.core.ctx.guardBit g0 = true ∧ s.core.landingFree ∧ s.core.aligned 0#6 64 ∧ s.core.aligned 1#6 2 ∧ ¬ s.core.aligned 1#6 4
    ∧ (crowded 3071).core.landingFree ∧ (crowded 3071).core.ctx.guardBit g0 = true
    ∧ ¬ (crowded 3072).core.landingFree ∧ (crowded 3072).core.ctx.guardBit g0 = true := by
  unfold Core.landingFree Core.aligned; decide +kernel

theorem test_hyps_StoreRequests : run.core.ctx.guardBit g0 = true ∧ run.core.aligned 0#6 64 ∧ run.core.aligned 0#6 8
    ∧ run.core.aligned 0#6 (Width.bytes .b8) := by
  unfold Core.aligned; decide +kernel

/-- The longest copy of length class 0, one byte more, and a destination at the end of the scratchpad window; records that end there, that
go past it, and that are misaligned. -/
theorem test_hyps_CopyCommands :
    let s := runWith fun x => (((x.setS 1#6 (BitVec.ofNat 64 (windowBase + 2 ^ 20 - 256))).setS 2#6 256#64).setS 4#6 257#64).setS 7#6
      (BitVec.ofNat 64 (windowBase + 2 ^ 20 - 192))
    s.core.ctx.guardBit g0 = true ∧ (s.core.ctx.getS 2#6).toNat % 2 ^ 32 ≤ 256 * 2 ^ (0#4).toNat
    ∧ windowRange s.core (s.core.ctx.getS 1#6) ((s.core.ctx.getS 2#6).toNat % 2 ^ 32) = true
    ∧ windowRange s.core (s.core.ctx.getS 0#6) ((s.core.ctx.getS 2#6).toNat % 2 ^ 32) = true
    ∧ (s.core.ctx.getS (2#6 + 1)).toNat % 8 = 0 ∧ (s.core.ctx.getS (3#6 + 1)).toNat % 8 ≠ 0 ∧ s.core.aligned 0#6 64
    ∧ 256 * 2 ^ (0#4).toNat < (s.core.ctx.getS 4#6).toNat % 2 ^ 32
    ∧ windowRange s.core (s.core.ctx.getS 1#6) 1 = true ∧ windowRange s.core (s.core.ctx.getS 7#6) 192 = true ∧ s.core.aligned 7#6 64
    ∧ windowRange s.core (s.core.ctx.getS 1#6 + 128#64) 192 = false ∧ ¬ s.core.aligned 4#6 64
    ∧ windowRange s.core (s.core.ctx.getS 4#6) 192 = true := by
  unfold Core.aligned; decide +kernel

theorem test_hyps_FencesAndMaintenance : run.core.ctx.guardBit g0 = true ∧ run.core.priv = true ∧ user.core.priv = false := by
  decide +kernel

/-- The index and generation fields of a handle laid out as R268 lays it out. -/
theorem handle_fields (c : BitVec 32) (p g : BitVec 16) (l : BitVec 20) :
    handleLidx (0#32 ++ c ++ 0#12 ++ p ++ g ++ l) = l ∧ handleGen (0#32 ++ c ++ 0#12 ++ p ++ g ++ l) = g :=
  ⟨BitVec.extractLsb'_append_eq_right (a := 0#32 ++ c ++ 0#12 ++ p ++ g) (b := l),
   (BitVec.extractLsb'_append_eq_of_le (xhi := 0#32 ++ c ++ 0#12 ++ p ++ g) (xlo := l) (start := 20) (len := 16) (by decide)).trans
    (BitVec.extractLsb'_append_eq_right (a := 0#32 ++ c ++ 0#12 ++ p) (b := g))⟩

/-- A handle that the module makes is sound, whatever its CHECK. -/
theorem makeHandle_sound (key : Option (BitVec 512)) (l : Nat) (gen : BitVec 16) (p : Nat) :
    handleSound key (makeHandle key l gen p) p = true := by
  have hl : handleLidx (makeHandle key l gen p) = BitVec.ofNat 20 l := (handle_fields ..).1
  have hg : handleGen (makeHandle key l gen p) = gen := (handle_fields ..).2
  unfold handleSound
  rw [hl, hg]
  have hn : BitVec.ofNat 20 (BitVec.ofNat 20 l).toNat = BitVec.ofNat 20 l := BitVec.ofNat_toNat _ _ |>.trans (BitVec.setWidth_eq _)
  exact decide_eq_true (by unfold makeHandle; rw [hn])

theorem handed_holds : handed.hasHandle 1#4 := ⟨by decide +kernel, makeHandle_sound none 5 0#16 1⟩

theorem test_hyps_SpawnRequests : handed.core.ctx.guardBit g0 = true ∧ handed.core.aligned 0#6 64
    ∧ ∀ k, k < 16 → (2#16).getLsbD k = true → handed.hasHandle (BitVec.ofNat 4 k) := by
  refine ⟨by decide +kernel, by unfold Core.aligned; decide +kernel, fun k hk h => ?_⟩
  have : k = 1 := by revert k; decide
  exact this ▸ handed_holds

/-- h1 LIVE, h2 MOVED, h3 EMPTY; and for HREJOIN two LIVE halves and an EMPTY parent. -/
theorem test_hyps_HandleOperations :
    let s := handed
    let x := s.core.ctx
    (s.core.ctx.guardBit g0 = true ∧ s.hasHandle 1#4 ∧ s.core.freeH 3#4) ∧ s.core.aligned 0#6 16 ∧ s.core.aligned 0#6 64
    ∧ x.streamThrough (x.getH 1#4).val = false ∧ (x.getH 3#4).st = .empty ∧ (x.getH 2#4).st = .moved ∧ (x.getH 1#4).st = .live
    ∧ (let t := s.onCore fun c => c.onCtx fun x => x.setH 4#4 live5
      t.core.ctx.guardBit g0 = true ∧ t.hasHandle 1#4 ∧ t.hasHandle 4#4 ∧ (t.core.ctx.getH 4#4).st = .live ∧ (4#4 : BitVec 4) ≠ 1#4
      ∧ t.core.freeH 3#4 ∧ t.core.ctx.streamThrough (t.core.ctx.getH 4#4).val = false)
    ∧ (let t := s.onCore fun c => c.onCtx fun x => x.setS 1#6 8#64
      t.core.ctx.guardBit g0 = true ∧ ¬ t.core.aligned 1#6 16) := by
  refine ⟨⟨by decide +kernel, handed_holds, by unfold Core.freeH; decide +kernel⟩, by unfold Core.aligned; decide +kernel,
    by unfold Core.aligned; decide +kernel, by decide +kernel, by decide +kernel, by decide +kernel, by decide +kernel,
    ⟨by decide +kernel, ⟨by decide +kernel, makeHandle_sound none 5 0#16 1⟩, ⟨by decide +kernel, makeHandle_sound none 5 0#16 1⟩,
      by decide +kernel, by decide, by unfold Core.freeH; decide +kernel, by decide +kernel⟩,
    by unfold Core.aligned; decide +kernel⟩

theorem test_hyps_HandleSplits :
    let x := handed.core.ctx
    let t := handed.onCore fun c => c.onCtx fun x => x.setH 4#4 live5
    handed.core.ctx.guardBit g0 = true ∧ handed.hasHandle 1#4 ∧ handed.core.freeH 3#4 ∧ handed.core.freeH 2#4
    ∧ handed.lineage.length + handed.allTaken.length + 2 ≤ Config.lineageEntries ∧ handed.replayOf handed.core.space.part = none
    ∧ (x.getH 3#4).st = .empty ∧ (x.getH 2#4).st = .moved
    ∧ (t.hasHandle 1#4 ∧ (t.core.ctx.getH 4#4).st = .live ∧ (4#4 : BitVec 4) ≠ 1#4) :=
  ⟨by decide +kernel, handed_holds, by unfold Core.freeH; decide +kernel, by unfold Core.freeH; decide +kernel, by decide +kernel,
    by decide +kernel, by decide +kernel, by decide +kernel, ⟨by decide +kernel, makeHandle_sound none 5 0#16 1⟩, by decide +kernel, by decide⟩

/-- One stream already stands in queue 0, and one entry of the table is free. -/
theorem test_hyps_TileFetches :
    let s := fed
    (s.core.ctx.guardBit g0 = true ∧ s.core.landingFree ∧ ((s.core.ctx.queue 0#2).filter fun st => !st.ended).length < 2
      ∧ s.core.aligned 0#6 64)
    ∧ handed.core.ctx.guardBit g0 = true ∧ handed.core.landingFree
    ∧ ((handed.core.ctx.queue 0#2).filter fun st => !st.ended).length < 2 ∧ handed.hasHandle 1#4 := by
  refine ⟨by unfold Core.landingFree Core.aligned; decide +kernel, by decide +kernel, by unfold Core.landingFree; decide +kernel,
    by decide +kernel, handed_holds⟩

theorem test_hyps_Transfers :
    let s := runWith fun x => x.setS 1#6 32#64
    s.core.ctx.guardBit g0 = true ∧ s.core.aligned 0#6 64 ∧ s.core.aligned 62#6 64 ∧ ¬ s.core.aligned 1#6 64 := by
  unfold Core.aligned; decide +kernel

theorem test_hyps_LoopStarts :
    let s := runWith fun x => x.setLevel 2#2 ⟨0#58, 9#58, 2#20, 0#4, true, 0#2⟩
    run.core.ctx.guardBit g0 = true ∧ (∀ k : BitVec 2, (run.core.ctx.level k).active = false)
    ∧ (1#20 : BitVec 20) ≠ 0#20 ∧ (0#2 : BitVec 2) ≠ 3#2
    ∧ s.core.ctx.guardBit g0 = true ∧ (s.core.ctx.level 2#2).active = true ∧ (s.core.ctx.level 3#2).active = false := by
  decide +kernel

/-- Level 3 counts n iterations, with an epilogue of e, and its last bundle is this one. -/
def looping (n : BitVec 20) (e : BitVec 4) : Ctx := Ctx.reset.setLevel 3#2 ⟨0#58, 0#58, n, e, true, 0#2⟩

/-- Counts of 2, of 1 with an epilogue of 1, and of 1 without one, on level 3. -/
theorem test_hyps_LoopBackEdges : ((looping 2#20 0#4).level 3#2).active = true
    ∧ ((looping 2#20 0#4).level 3#2).last = (looping 2#20 0#4).pc ∧ (looping 2#20 0#4).redirect = none
    ∧ (looping 2#20 0#4).delayTarget = none ∧ ((looping 2#20 0#4).level 2#2).active = false
    ∧ ((looping 2#20 0#4).level 1#2).active = false ∧ ((looping 2#20 0#4).level 0#2).active = false
    ∧ 1 < ((looping 2#20 0#4).level 3#2).lcnt.toNat
    ∧ ((looping 1#20 1#4).level 3#2).lcnt.toNat ≤ 1 ∧ 0 < ((looping 1#20 1#4).level 3#2).ecnt.toNat
    ∧ ((looping 1#20 0#4).level 3#2).lcnt.toNat ≤ 1 ∧ ((looping 1#20 0#4).level 3#2).ecnt = 0#4 := by decide +kernel

/-- A trace of the tenant of the task, with MARK records or without. -/
def traced (flags : BitVec 8) : State :=
  { run with traces := [⟨⟨1, 0⟩, flags, 10, 5#32, 0x20000#64, 8192, 0, 0, 0, 0, [], []⟩] }

theorem test_hyps_SuspensionAndMarkers : run.core.ctx.guardBit g0 = true ∧ run.core.priv = true ∧ run.traceOf run.core.space = none
    ∧ (∀ b ∈ [0#8, 4#8], (traced b).core.ctx.guardBit g0 = true
      ∧ ((traced b).traceOf (traced b).core.space).map (fun t => t.flags.getLsbD 2) = some (b == 4#8)) := by decide +kernel

theorem test_hyps_TrapHandler :
    let s := runWith fun x => { x with trapEn := true }
    let t := runWith fun x => { x with trapActive := true }
    run.core.ctx.guardBit g0 = true ∧ run.core.trap = none ∧ run.core.ctx.trapEn = false
    ∧ (s.core.ctx.guardBit g0 = true ∧ s.core.priv = true ∧ s.core.ctx.trapEn = true ∧ s.core.ctx.trapActive = false)
    ∧ (t.core.ctx.guardBit g0 = true ∧ t.core.priv = true ∧ t.core.ctx.trapActive = true ∧ t.core.aligned 60#6 64) := by
  unfold Core.aligned; decide +kernel

/-! ### States that meet the hypotheses of the statements: the machine -/

/-- A bundle of one LDG, in place. -/
def placed : State := State.reset.placeWord 512 0

theorem test_hyps_StepRunsBundle :
    let s := placed
    let u := s.nextEvent.2
    let b : BitVec 512 := 0
    s.nextEvent.1 = .bundleIssue ∧ u.core.atBoundary = true ∧ u.stands = false ∧ u.core.autoCommit = false ∧ u.fetch = .bundle b
    ∧ u.core.fetched = true ∧ u.armOf u.core.space = none ∧ u.core.landsNow = false ∧ u.replays = [] := by decide +kernel

/-- In one operation: what an issued WAITC needs to run at once; a header with a reserved bit does not decode; and a step that is no
issue. -/
theorem test_hyps_StepRunsBundle_clauses :
    let s := State.reset.placeWord 512 (encodeBundle 0x300000#32 [.waitc g0 100#16]).toNat
    let u := s.nextEvent.2
    let v := u.tested
    let ops : List Instr := [.waitc g0 100#16]
    let h := headerOf (encodeBundle 0x300000#32 ops)
    s.nextEvent.1 = .bundleIssue ∧ decodeBundle u.core.priv (encodeBundle 0x300000#32 ops) = .ok ops ∧ v.core.earlyFate h ops = none
    ∧ v.core.windowSum (weightOf ops) ≤ v.core.allowAW.toNat ∧ v.operandFate 0 ops = none
    ∧ (∀ i ∈ ops, isTrapOp i = true → v.core.ctx.guardBit (guardIn i) = false) ∧ isSteel v.core.id = true
    ∧ v.waitCode h ops = 0#4 ∧ v.core.rowFate ops = none
    ∧ (decodeBundle true (BitVec.ofNat 512 (2 ^ 512 - 1))).isOk = false
    ∧ ({ v.core with pspan := 0#16 } : Core).earlyFate h ops = some (.span, 0xFF)
    ∧ (placed.onCore fun c => { c with mid := true, phase := .issued }).nextEvent.1 ≠ .bundleIssue := by decide +kernel

/-- A reserved opcode in LS, alone and above a beat whose format is not the one in effect (R45, R189). -/
theorem test_hyps_StepRunsBundle_fates :
    let v := placed.nextEvent.2.tested
    let bad : BitVec 512 := BitVec.ofNat 512 (0xFF0000000000 * 2 ^ 320)
    let both := encodeBundle 0x300000#32 [.macc g0 0#12 0#2 .bf16 none] ||| bad
    let below := fun (b : BitVec 512) => v.core.slotFate (decodeBefore v.core.priv b Slot.all)
    decodeBundle v.core.priv bad = .error (.illegalOpcode, 6) ∧ below bad = none
    ∧ decodeBundle v.core.priv both = .error (.illegalOpcode, 6) ∧ below both = some (.illegalEncoding, 5) := by decide +kernel

theorem test_hyps_EncodeDecode : WellFormed (.waitc g0 100#16) ∧ (Instr.waitc g0 100#16).slot = some .ctl
    ∧ decodeSlot .ctl true 0x0E0000000064#48 = .ok (.waitc g0 100#16) ∧ headerOk 0x300000#32 = true
    ∧ [Instr.waitc g0 100#16, .addi false g0 7#6 7#6 (-64)].Pairwise (fun i j => slotNo i < slotNo j) := by decide +kernel

theorem test_hyps_MemoryStaysCanonical : placed.canonical ∧ assocAbove Lineage.free none placed.lineage = true
    ∧ (after (step placed) fun t => t.core.mid).isSome = true := by
  unfold State.canonical; decide +kernel

/-- A scalar result of a slot, due at the end of this cycle. -/
def due (slot order : Nat) (d : BitVec 6) (v : Word) : Result := ⟨.s d v, slot, order, 1, 0#6, 0#58, 0#64⟩

/-- A cycle with results due. -/
def landingCycle (rs : List Result) : State :=
  (runWith fun x => { x with results := rs }).onCore fun c => { c with phase := .issued, mid := true }

theorem test_hyps_ScalarResultLands :
    let a := due 1 0 5#6 3#64
    let b := due 2 0 5#6 4#64
    let s := landingCycle [a]
    let t := landingCycle [b, a]
    s.core.phase = .issued ∧ s.core.mid = true ∧ s.core.freeze = 0#4 ∧ a.wr = .s 5#6 3#64 ∧ a.rem = 1 ∧ s.core.ctx.results = [a]
    ∧ t.core.ctx.results = [b, a] ∧ a.slot < b.slot ∧ b.wr = .s 5#6 4#64 ∧ t.core.phase = .issued ∧ t.core.mid = true
    ∧ t.core.freeze = 0#4 ∧ s.spmLate = [] := by decide +kernel

/-- A write of two bytes to one place, and an atomic on the word at it, that are due. -/
theorem test_hyps_ScalarResultLands_scratchpad :
    (∀ w ∈ [Wr.spm [(16, 1#8), (16, 2#8)], .atom .add 16 8 1#64 0#64 .rne false 5#6],
      let r : Result := { due 6 0 5#6 0#64 with wr := w }
      let s := landingCycle [r]
      s.canonical ∧ s.spmLate = [] ∧ r.wr = w ∧ r.rem = 1 ∧ s.core.ctx.results = [r] ∧ s.core.phase = .issued ∧ s.core.mid = true
      ∧ s.core.freeze = 0#4) := by
  unfold State.canonical; decide +kernel

theorem test_hyps_FramesAtIssue : (Instr.waitc g0 100#16).slot.isSome = true ∧ (Instr.nop).slot.isSome = true
    ∧ (run.onCore fun c => c.raise .span 0).core.trap.isSome = true := by decide +kernel

/-! ### The core beside its bundles -/

theorem test_hyps_EnergyEvents :
    let s := run.onCore fun c => { c with freeze := 4#4, refillDue := true, staticDue := true, ended := some (2#4, 5) }
    let e : Energy := { Energy.reset with ecount := BitVec.allOnes 48, estatic := 1#16 }
    s.core.phase = .ready ∧ s.core.mid = false ∧ s.core.freeze = 4#4 ∧ s.core.refillDue = true ∧ s.core.staticDue = true
    ∧ s.core.energy.esat = false ∧ s.core.energy.ecount.toNat + s.core.energy.estatic.toNat ≤ 2 ^ 48 - 1
    ∧ e.esat = false ∧ 2 ^ 48 - 1 < e.ecount.toNat + e.estatic.toNat
    ∧ (∀ k ∈ s.activeCodes, k.toNat ≤ 4) ∧ s.core.ended = some (2#4, 5) ∧ s.core.task.isSome = true ∧ ((traced 2#8).traceOf (traced 2#8).core.space).isSome = true := by
  decide +kernel

/-- A landing entry that is due, and the one due when its request has data. -/
def dueLanding (kind : LKind) (data : Option Row) (err : Option Trap) : Landing := ⟨3, 7, 0, 1, .s 1#6, kind, data, err, 0#58, 0#64⟩

def landed (l : Landing) : State := runWith fun x => { x with landings := [l] }

/-- The task of these states as an access names it. -/
def owner0 : Running := ⟨⟨1, 1, 1⟩, 0, false, 0#2, true⟩

/-- A request of that task, in class 8. -/
def entry0 (op : EOp) (va : Word) (landing : Option Nat) : Entry :=
  ⟨5, 0x100#16, 8#4, op, va, 0#3, false, false, landing, owner0, [0], [], false, false, 0#58, 0⟩

/-- A page of synchronisation variables, one of mailboxes, and one that is not present. -/
def syncPage : Mapping := { placePage with va := 0x30000, pa := syncBase, sync := true }

def boxPage : Mapping := { placePage with va := 0x40000, pa := syncBase + Config.syncHalf, sync := true }

def awayPage : Mapping := { placePage with va := 0x60000, pa := 0x60000, present := false }

/-- The request stands alone in its FIFO, and the core has the translations of its pages. -/
def queued (e : Entry) : State :=
  { run with maps := [placePage, syncPage, boxPage, awayPage], tlb := [(0, ⟨1, 0⟩, 0x10000), (0, ⟨1, 0⟩, 0x30000)] }.onCore
    fun c => { c with fifo := [e] }

theorem test_hyps_Landings :
    let l := dueLanding .load (some 7#16384) none
    let late := dueLanding .load none none
    let wait := dueLanding (.wait false) none none
    let bad := dueLanding .load none (some .xlateFault)
    ((landed l).core.landsNow = true ∧ (landed l).core.trap = none ∧ (landed l).core.ctx.beatErrors = []
      ∧ (landed l).core.ctx.landingErrors = [] ∧ ((landed l).core.ctx.dueLandings.all fun l => !l.missing) = true
      ∧ (landed l).core.ticking = true ∧ ((landed l).onCore fun c => { c with lateFrom := some 0 }).core.lateFrom.isSome = true)
    ∧ (∀ x ∈ [late, wait, bad], (landed x).core.landsNow = true ∧ (landed x).core.trap = none ∧ (landed x).core.ticking = true
      ∧ (landed x).core.ctx.dueLandings = [x] ∧ x.data = none ∧ (landed x).core.ctx.beatErrors = [])
    ∧ late.err = none ∧ late.kind = .load ∧ wait.kind = .wait false ∧ bad.err = some .xlateFault := by decide +kernel

/-- A WAITV frozen for exactly its bound, with no value and with one; a bundle that comes, and one whose page is to be loaded. -/
theorem test_hyps_Landings_waits :
    let l := dueLanding (.wait false) none none
    let e := entry0 (.wait 0#64) 0x30000#64 (some 3)
    let held := fun (e : Entry) => (queued e).onCore fun c =>
      { c with lateFrom := some 0, time := 16384 * 24, ctx := { c.ctx with landings := [l] } }
    let t : State := { run with objects := [{ placeObj with pages := [.unloaded] }] }
    (∀ f ∈ [e, { e with part := [(0, leBytes 8 1)] }],
      (held f).core.lateFrom = some 0 ∧ 0 + 16384 * 24 ≤ (held f).core.time
      ∧ ((held f).core.ctx.landings.filter fun l => l.rem == 1 && l.kind == .wait false && l.missing) = [l]
      ∧ ((held f).core.fifo.find? fun e => e.landing == some l.id) = some f ∧ f.op = .wait 0#64 ∧ (held f).entryFree f = true
      ∧ (held f).reach f.space f.va (f.access false) ⟨true, true⟩ = .go syncBase syncPage ∧ (held f).poisoned syncBase 8 = false)
    ∧ (run.fetch = .bundle 0 ∧ run.physOf run.core.space (addrOf run.core.ctx.pc).toNat = some 0x10000)
    ∧ t.xlate t.core.space (addrOf t.core.ctx.pc) ⟨false, true, false, false, t.core.priv⟩ = .at_ 0x10000 placePage
    ∧ (t.objects.find? fun o => o.holds t.core.space (addrOf t.core.ctx.pc).toNat) = some { placeObj with pages := [.unloaded] }
    ∧ t.codePageStop { placeObj with pages := [.unloaded] } 0 = none := by
  decide +kernel

/-- A core of the tests in a phase, with the phase that follows. -/
def inPhase (p a : Phase) : State := run.onCore fun c => { c with phase := p, after := a }

theorem test_hyps_Departures :
    (∀ p ∈ [Phase.drainIdle, .drainYield, .drainCommit, .drainEnd, .barrier],
      (inPhase p .ready).alone ∧ (inPhase p .ready).core.quiet = true ∧ (inPhase p .ready).core.mid = false
      ∧ (inPhase p .ready).core.phase = p ∧ (inPhase p .ready).commitReady = true
      ∧ (inPhase p .ready).core.ctx.holdsHandle = false ∧ (inPhase p .ready).core.tilesLeft (inPhase p .ready).core.owner.key = false
      ∧ (inPhase p .ready).copiesLeft (inPhase p .ready).core.owner.key true = false
      ∧ ((inPhase p .ready).physOf (inPhase p .ready).core.space (addrOf (inPhase p .ready).core.ctx.pc).toNat).isSome = true)
    ∧ (let s := (inPhase .drainEnd .ready).onCore fun c => c.onCtx fun x => x.setH 1#4 ⟨0#128, .live⟩
      s.core.ctx.holdsHandle = true ∧ s.core.quiet = true ∧ s.alone)
    ∧ (∀ a ∈ [Phase.drainEnd, .drainCommit],
      let s := (inPhase .committing a).onCore fun c => { c with commit := some ⟨⟨1, 1, 1⟩, [], none, false, 0#58, 0⟩ }
      s.alone ∧ s.core.commit = some ⟨⟨1, 1, 1⟩, [], none, false, 0#58, 0⟩ ∧ s.core.after = a)
    ∧ (let s := run.onCore fun c => { c with phase := .idle 0, time := 65536 * 24 }
      s.core.phase = .idle 0 ∧ s.core.mid = false ∧ 0 + 65536 * 24 ≤ s.core.time) := by
  unfold State.alone; decide +kernel

/-- The four members of a gang, all at their end. -/
def gangAtEnd : State :=
  let c := (gang.onCore fun c => { c with phase := .committing, after := .drainEnd }).core
  { gang with core := c, parked := [{ c with id := 1#6 }, { c with id := 2#6 }, { c with id := 3#6 }] }

/-- A soft stop at a taken back edge; a hard stop; and an image area without room. -/
theorem test_hyps_Departures_stops :
    (gangAtEnd.core.owner.gang = true ∧ gangAtEnd.members.length = 4 ∧ (∀ m ∈ gangAtEnd.members, m.atEnd = true)
      ∧ (∀ m ∈ gangAtEnd.members, m.atBarrier = false) ∧ (∀ m ∈ gangAtEnd.members, m.tilesLeft m.owner.key = false)
      ∧ gangAtEnd.copiesLeft gangAtEnd.core.owner.key true = false
      ∧ gangAtEnd.commitReady = true)
    ∧ (let s := run.onCore fun c => { c with stop := true, edge := true }
      s.alone ∧ s.softDue = true ∧ s.members.all Core.saveReady = true)
    ∧ (let s := run.onCore fun c => { c with leave := some .hard }
      s.alone ∧ s.core.leave = some .hard ∧ s.core.stopped = true ∧ s.core.phase ≠ .committing
      ∧ s.members.all Core.saveReady = true) := by
  unfold State.alone; decide +kernel

/-- The bodies of a save image that are free values (log entry 7) have at most 64 KiB each. -/
def smallBodies : Prop :=
  (∀ n, (Config.spanBytes n).length ≤ 65536) ∧ (∀ x, (Config.controlBody x).length ≤ 65536) ∧ (∀ l, (Config.replayBody l).length ≤ 65536)
  ∧ (∀ l, (Config.landingBody l).length ≤ 65536) ∧ ∀ l, (Config.pendingBody l).length ≤ 65536

theorem leBytes_length (n v : Nat) : (leBytes n v).length = n := by
  induction n generalizing v with
  | zero => rfl
  | succ n ih => simp [leBytes, ih]

theorem loops_length (x : Ctx) : (x.loops.toList.flatMap fun l => leBytes 32 (Config.levelWord l).toNat).length = 128 := by
  have h : x.loops.toList.length = 4 := by simp
  match x.loops.toList, h with
  | [a, b, c, d], _ => simp [leBytes_length]

/-- Each section of a core without matrix state, rows and streams has at most 1 MiB. -/
theorem section_small (small : smallBodies) (h : Held) (x : Ctx) (hc : h.ctxs = [x]) (hm : x.matrix = false) (hq : x.queuesIdle = true)
    (hg : x.groups = []) : ∀ i < 12, ∀ n, h.bodySize (i + 1) 0 x = some n → n ≤ 1048576 := by
  obtain ⟨s4, s5, s9, s10, s12⟩ := small
  have h4 : (x.loopBody).length ≤ 128 + 65536 := by
    unfold Ctx.loopBody; rw [List.length_append, loops_length]; have := s4 x.spanCount; omega
  have h5 := s5 (x.control (h.energyOf 0))
  have h9 := s9 (x.results.filter fun r => !r.wr.isPending)
  have h10 := s10 (x.landings.map fun l => (l, (h.fifoOf 0).find? fun e => e.landing == some l.id))
  have h12 := s12 x.pendingEntries
  intro i hi n hn
  interval_cases i <;> simp only [Held.bodySize, Held.body, hc, hm, hq, hg, Ctx.replayBody, Ctx.landingBody, Ctx.pendingBody] at hn
  all_goals (try (split at hn)) <;> simp at hn <;> first | omega | simp_all

theorem sum_sections {α : Type} (f : Nat → List α) (w : α → Nat) (c : Nat) (l : List Nat) (h : ∀ i ∈ l, ((f i).map w).sum ≤ c) :
    ((l.flatMap f).map w).sum ≤ l.length * c := by
  induction l with
  | nil => simp
  | cons i l ih =>
    have := ih fun j hj => h j (List.mem_cons_of_mem _ hj)
    have := h i List.mem_cons_self
    simp only [List.flatMap_cons, List.map_append, List.sum_append, List.length_cons, Nat.succ_mul]
    omega

theorem held_small (small : smallBodies) (h : Held) (x : Ctx) (hc : h.ctxs = [x]) (hm : x.matrix = false) (hq : x.queuesIdle = true)
    (hg : x.groups = []) : h.size ≤ contextArea := by
  have s := section_small small h x hc hm hq hg
  unfold Held.size
  rw [hc]
  have := sum_sections (fun i => [x].zipIdx.filterMap fun p => h.bodySize (i + 1) p.2 p.1) (fun n => 16 + padded n) 2000000 (List.range 12)
    (fun i hi => by
      have k := s i (List.mem_range.mp hi)
      simp only [List.zipIdx, List.filterMap_cons, List.filterMap_nil]
      generalize h.bodySize (i + 1) 0 x = o at k ⊢
      cases o with
      | none => simp
      | some n => have := k n rfl; simp only [List.map_cons, List.map_nil, List.sum_cons, List.sum_nil, padded]; omega)
  simp only [List.length_range] at this
  unfold contextArea
  omega

theorem room_of {s : State} {kind : Nat} (hm : s.members.all Core.saveReady = true) (hl : s.copiesLeft s.core.owner.key false = false)
    (hu : s.storeUsed (dieOf s.core.id.toNat) 0 = 0) (hs : s.slotsHere = none) (hb : (s.heldHere kind).size ≤ contextArea) :
    s.leaveReady kind = true := by
  unfold State.leaveReady State.imageRoom
  rw [hm, hl, hu, hs]
  simp only [Bool.not_false, Bool.and_self, Bool.true_and, Bool.and_true, Nat.zero_add]
  exact decide_eq_true hb

/-- The context of the one core whose image is taken has no matrix state, rows or streams. -/
def plain (s : State) (kind : Nat) : Bool :=
  match (s.heldHere kind).ctxs with | [x] => !x.matrix && x.queuesIdle && x.groups.isEmpty | _ => false

theorem room_plain (small : smallBodies) {s : State} {kind : Nat} (h : plain s kind = true) (hm : s.members.all Core.saveReady = true)
    (hl : s.copiesLeft s.core.owner.key false = false) (hu : s.storeUsed (dieOf s.core.id.toNat) 0 = 0) (hs : s.slotsHere = none) :
    s.leaveReady kind = true := by
  unfold plain at h
  split at h
  · next x e =>
    simp only [Bool.and_eq_true, Bool.not_eq_true', List.isEmpty_iff] at h
    exact room_of hm hl hu hs (held_small small _ x e h.1.1 h.1.2 h.2)
  · simp at h

/-- One image of one core fits the empty area, if the bodies that are free values are small: for a YIELD, a soft stop, a hard stop. -/
theorem test_hyps_Departures_room (small : smallBodies) : (inPhase .drainYield .ready).leaveReady 1 = true
    ∧ (run.onCore fun c => { c with stop := true, edge := true }).leaveReady 1 = true
    ∧ (run.onCore fun c => { c with leave := some .hard }).leaveReady 2 = true :=
  ⟨room_plain small (by decide +kernel) (by decide +kernel) (by decide +kernel) (by decide +kernel) (by decide +kernel),
    room_plain small (by decide +kernel) (by decide +kernel) (by decide +kernel) (by decide +kernel) (by decide +kernel),
    room_plain small (by decide +kernel) (by decide +kernel) (by decide +kernel) (by decide +kernel) (by decide +kernel)⟩

/-- A suspended task whose image fills the area, and whose spill area has room for it. -/
def full : State :=
  { run with
    nodes := [{ nodeOf ⟨1, 0⟩ 1 0x10000#64 [] with store := some (0, 67108864, 0) }]
    parts := [{ placePart with spill := 64 }] }

theorem no_room_of {s : State} {kind : Nat} (h : s.storeUsed (dieOf s.core.id.toNat) 0 = contextArea) : s.imageRoom kind = false := by
  unfold State.imageRoom Held.size
  rw [h]
  exact decide_eq_false (by omega)

theorem test_hyps_Departures_spill : full.core.task.isSome = true ∧ full.imageRoom full.core.imageKind = false
    ∧ full.oldestImage = some { nodeOf ⟨1, 0⟩ 1 0x10000#64 [] with store := some (0, 67108864, 0) } :=
  ⟨by decide +kernel, no_room_of (by decide +kernel), by decide +kernel⟩

/-- A command with this queue and SEQ, from the one registered host by port 0. -/
def cmdTo (ep : Endpoint) (op : BitVec 8) (queue seq : Nat) (body : List Byte) : Cmd :=
  ⟨false, ep, 0, 7, leBytes 2 op.toNat ++ leBytes 2 queue ++ leBytes 4 seq ++ leBytes 8 0 ++ leBytes 4 body.length ++ leBytes 12 0 ++ body⟩

/-- A command of queue 0. -/
def cmd (ep : Endpoint) (op : BitVec 8) (body : List Byte) : Cmd := cmdTo ep op 0 0 body

/-- A tenant of partition 1. -/
def tenant (st : TenState) : Tenant := ⟨⟨1, 0⟩, 4, st, [], 0⟩

/-- A ready task of launch 1, and the launch. -/
def ready0 : Node := { nodeOf ⟨1, 0⟩ 1 0x10000#64 [] with key := ⟨1, 1, 2⟩, st := .ready }

def launch0 : Launch :=
  { space := ⟨1, 0⟩, queue := 0, id := 1, record := 0x11000#64, compl := 0x12000#64, code := 0x10000#64, args := 0x13000#64, held := []
    cmd := cmd (.part 1) 1#8 (leBytes 8 0x11000), fuse := false, created := 1, finished := 0, start := 0
    ending := none, endTick := 0, endCore := 0, lack := none, endTask := 0 }

/-- Core 0 without a task in cluster 0, whose slice `k` is; core 4 of cluster 1 runs the tenant. -/
def schedule (k : Cluster) (st : TenState) : State :=
  { run with
    core := { Core.reset 0#6 with time := 24000 * 24000 }
    parked := [{ run.core with id := 4#6 }]
    time := 24000 * 24000
    clusters := [k, ⟨1, some ⟨1, 0⟩, 0, none, none, none, [0]⟩]
    tenants := [tenant st, ⟨⟨1, 1⟩, 4, .enabled, [], 0⟩]
    nodes := [ready0]
    launches := [launch0]
    coreMap := BitVec.allOnes 64 }

theorem test_hyps_Scheduling :
    let k : Cluster := ⟨0, some ⟨1, 0⟩, 0, none, none, none, [0]⟩
    let s := schedule k .enabled
    let free := schedule { k with holder := none } .enabled
    (s.coreOf 0 = some s.core ∧ s.clusterAt 0 = some k ∧ s.core.task = none ∧ k.ended = none ∧ k.holder = some ⟨1, 0⟩
      ∧ s.nextTask ⟨1, 0⟩ s.core 0 = some ready0 ∧ s.slotsReach ready0 ready0.hmask = none ∧ s.imageFault ready0 = none
      ∧ s.replayOf 1 = none ∧ s.partOf 1 = some placePart ∧ ready0.gang = false
      ∧ s.replayPlaces ready0 [0] = true ∧ s.core.rested = true)
    ∧ (let t : State := { s with nodes := [{ ready0 with st := .ended }] }
      t.nodes[0]? = some { ready0 with st := .ended } ∧ t.workLeft ready0.key = false
      ∧ t.succWait ready0 = none)
    ∧ (let n : Node := { ready0 with st := .ended, succ := 0x60000#64 }
      let t : State := { s with nodes := [n], maps := [placePage, awayPage] }
      t.nodes[0]? = some n ∧ t.workLeft n.key = false ∧ t.succWait n = some 0x60000)
    ∧ (free.clusterAt 0 = some { k with holder := none } ∧ free.nextTenant 0 = some ⟨1, 0⟩) := by decide +kernel

/-- A slice that is over, with a task still there or none; and one whose tenant drains, at the ends of TSPAN and GRACE. -/
theorem test_hyps_Scheduling_slices :
    let k : Cluster := ⟨0, some ⟨1, 1⟩, 0, none, none, none, [0, 1]⟩
    let e : Cluster := ⟨1, some ⟨1, 0⟩, 0, some 0, none, none, [0]⟩
    let s := schedule k .enabled
    let u := s.chargePass ⟨1, 1⟩ 0 (tickOf s.time - 0)
    let b : State := { s with clusters := [{ k with id := 1, holder := some ⟨1, 0⟩ }], nodes := [{ ready0 with vdev := 1 }] }
    let v := b.chargePass ⟨1, 0⟩ 1 (tickOf b.time - 0)
    let d : State := { s with clusters := [{ e with ended := some (24000000 - 2000000) }, { e with id := 0, ended := some 0 }] }
    let j : Core := { run.core with id := 4#6, stop := true, stopAt := some (24000000 - 50000) }
    let g : Cluster := { e with asked := some (24000000 - 50000) }
    let f : State := { s with clusters := [g], parked := [j] }
    (s.clusterAt 0 = some k ∧ s.sliceOver k ⟨1, 1⟩ = true ∧ u.nextTenant 0 = some ⟨1, 0⟩ ∧ u.tasksOn 0 ⟨1, 1⟩ = [])
    ∧ (b.sliceOver { k with id := 1, holder := some ⟨1, 0⟩ } ⟨1, 0⟩ = true ∧ v.nextTenant 1 = some ⟨1, 1⟩ ∧ v.tasksOn 1 ⟨1, 0⟩ ≠ [])
    ∧ (d.clusterAt 1 = some { e with ended := some (24000000 - 2000000) } ∧ d.partOfCluster 1 = some placePart
      ∧ 24000000 - 2000000 + placePart.tspan * 1000 ≤ tickOf d.time)
    ∧ (f.clusterAt 1 = some g ∧ f.partOfCluster 1 = some placePart ∧ f.graceAt g placePart = some 24000000 ∧ 24000000 ≤ tickOf f.time
      ∧ j ∈ f.coresIn g.id ∧ j.task.isSome = true ∧ j.maySharpen = true ∧ some j.space = g.holder ∧ j.stop = true
      ∧ j.stopAt = some (24000000 - 50000) ∧ 24000000 - 50000 + placePart.grace * 1000 ≤ tickOf f.time)
    ∧ (d.clusterAt 0 = some { e with id := 0, ended := some 0 } ∧ d.tasksOn 0 ⟨1, 0⟩ = []) := by decide +kernel

theorem test_hyps_Scheduling_stops :
    let s : State := { schedule ⟨0, none, 0, none, none, none, []⟩ .stopping with parked := [] }
    let t : State := { s with launches := [], parts := [{ placePart with resize := some (0xFF#16, 0x100000000#256, none) }] }
    let c := cmd .mgmt 0x13#8 (leBytes 40 1)
    let u : State := { t with parts := [{ placePart with resize := some (0#16, 0x100000000#256, some c) }] }
    s.tenantOff ⟨1, 0⟩ = true ∧ s.tenantOf ⟨1, 0⟩ = some (tenant .stopping)
    ∧ t.partOf 1 = some { placePart with resize := some (0xFF#16, 0x100000000#256, none) } ∧ placePart.unacked = false ∧ t.launching 1 = false
    ∧ t.masksOk 1 0xFF#16 0x100000000#256 = true ∧ u.partOf 1 = some { placePart with resize := some (0#16, 0x100000000#256, some c) }
    ∧ u.launching 1 = false ∧ u.masksOk 1 0#16 0x100000000#256 = false := by decide +kernel

/-! ### Requests, engines and the walker -/

/-- A load of 16 bytes and one of 8, a direct store of 8 and a versioned one of 2, an atomic of 4 and an arrival. -/
theorem test_hyps_AccessesPerform :
    let free := fun (e : Entry) => (queued e).canonical ∧ (queued e).core.fifo.find? (fun f => f.id == 5) = some e
      ∧ (queued e).entryFree e = true ∧ e.commits = false
      ∧ ((queued e).core.commit.any fun x => x.entry == some e.id) = false ∧ (queued e).core.task = some e.owner
    let l := entry0 (.load 16) 0x10000#64 (some 3)
    let w := entry0 (.load 8) 0x1FFF8#64 (some 3)
    let st := entry0 (.store [1#8, 2#8, 3#8, 4#8, 5#8, 6#8, 7#8, 8#8]) 0x10000#64 none
    let a := entry0 (.atom .add 4 1#64 0#64 .rne false) 0x10004#64 (some 3)
    let v := entry0 (.arrive 1#24) 0x30000#64 none
    let ve := { entry0 (.store [1#8, 2#8]) 0x10006#64 none with cls := 0#4, classes := 1#16 }
    free l ∧ free w ∧ free st ∧ free a ∧ free v
    ∧ (free ve ∧ ve.rel = false ∧ (queued ve).reach ve.space ve.va (ve.access true) ⟨false, false⟩ = .go 0x10006 placePage
      ∧ (queued ve).storeOverflows ve [1#8, 2#8] 0 = false)
    ∧ (queued l).reach l.space l.va (l.access false) ⟨false, false⟩ = .go 0x10000 placePage ∧ (queued l).poisoned 0x10000 16 = false
    ∧ (queued w).reach w.space w.va (w.access false) ⟨true, false⟩ = .go 0x1FFF8 placePage
    ∧ (queued st).reach st.space st.va (st.access true) ⟨true, false⟩ = .go 0x10000 placePage ∧ 8 ≤ st.cls.toNat
    ∧ (queued a).reach a.space a.va (a.access true) ⟨false, false⟩ = .go 0x10004 placePage
    ∧ (queued v).reach v.space v.va (v.access true) ⟨true, true⟩ = .go syncBase syncPage := by
  unfold State.canonical; decide +kernel

/-- A WAITV whose condition holds, a line of a commit, and a QFENCE at the head of the two queues that it names. -/
theorem test_hyps_AccessesPerform_others :
    let w := entry0 (.wait 0x4000000000000000#64) 0x30000#64 (some 3)
    let m : Commit := ⟨⟨1, 1, 2⟩, [0x400], none, false, 0#58, 0⟩
    let s := ({ run with nodes := [ready0], versions := [⟨⟨1, 1, 2⟩, [(0x10007, 9#8)], [], []⟩] } : State).onCore fun c => { c with commit := some m }
    let q := run.onCore fun c => { c with equeues := (Vector.replicate 8 []).set 0 [.qfence 0x81#8 1] |>.set 7 [.qfence 0x81#8 1] }
    ((queued w).canonical ∧ s.canonical ∧ q.canonical) ∧ lineBytes (s.versionOf m.key) 0x400 ≠ []
    ∧ ((s.versionBad m.key).any fun w => w / 8 == 0x400) = false
    ∧ ((queued w).core.fifo.find? (fun f => f.id == 5) = some w ∧ 5 < nodeWaitBase ∧ w.fresh = false
      ∧ (queued w).reach w.space w.va (w.access false) ⟨true, true⟩ = .go syncBase syncPage ∧ (queued w).poisoned syncBase 8 = false
      ∧ waitHolds 0x4000000000000000#64 (leNat (readBytes (queued w).mem syncBase 8)) = true)
    ∧ (s.core.commit = some m ∧ m.lines[0]? = some 0x400 ∧ s.nodeOfKey m.key = some ready0
      ∧ s.xlate ⟨1, 0⟩ (BitVec.ofNat 64 (0x400 * 64)) ⟨true, true, false, false, true⟩ = .at_ 0x10000 placePage)
    ∧ ((q.core.equeues[7]).head? = some (.qfence 0x81#8 1)
      ∧ ∀ j : Fin 8, (0x81#8).getLsbD j.val = true → q.core.equeues[j].head? = some (.qfence 0x81#8 1)) := by
  unfold State.canonical; decide +kernel

/-- A copy of 64 bytes within the page of the tests, at the head of queue 2. -/
def copy0 : Copy := ⟨0x12000#64, 0x11000#64, 64, 0#4, false, 0#64, false, [], false, 3#3, none, none, [], false⟩

def copying (c : Copy) (moved : Nat) : State :=
  run.onCore fun k => { k with equeues := (Vector.replicate 8 []).set 2 [.copy c moved owner0 0#58] }

/-- A copy that moves its first 16 bytes; one that has moved them all, without and with an arrival; and a Ready copy node. -/
theorem test_hyps_TransfersOfEngines :
    let c := { copy0 with cls := 8#4 }
    let s := copying c 0
    let e := s.core.engine 2#3 owner0 0#58
    let d := { copy0 with arr := true, arrv := 0x30000#64 }
    let t : State := { copying d 64 with maps := [placePage, syncPage] }
    let n : Node := { ready0 with copy := true }
    let u : State := { run with nodes := [n] }
    (s.core.equeues[2] = [.copy c 0 owner0 0#58] ∧ c.tensor = false ∧ c.tsr = none ∧ s.traceOf ⟨1, 0⟩ = none
      ∧ (s.peers.filter fun p => p.core == s.core.id.toNat && p.q == 2#3) = []
      ∧ 0 < c.len ∧ 8 ≤ c.cls.toNat ∧ s.copyPlace e c true 0 0x12000 = .mem 0x12000
      ∧ (∀ i, i < 16 → s.copyPlace e c false i (0x11000 + i) = .mem (0x11000 + i) ∧ s.poisoned (0x11000 + i) 1 = false))
    ∧ ((copying copy0 64).core.equeues[2] = [.copy copy0 64 owner0 0#58] ∧ copy0.len ≤ 64 ∧ copy0.arr = false)
    ∧ (d.len ≤ 64 ∧ d.arr = true
      ∧ t.xlate (t.core.engine 2#3 owner0 0#58).space d.arrv ⟨true, true, false, d.sys, false⟩ = .at_ syncBase syncPage
      ∧ t.mappingOf ⟨1, 0⟩ d.arrv.toNat = some syncPage ∧ syncPage.remote = false
      ∧ syncPage.syncBreach d.arrv.toNat ⟨true, true⟩ = false)
    ∧ (u.nodes[0]? = some n ∧ n.st = .ready ∧ u.physOf n.space n.addr.toNat = some 0x10000
      ∧ u.physOf n.space 0x10000 = some 0x10000) := by decide +kernel

/-- A page of a peer module. -/
def farPage : Mapping := { placePage with va := 0x50000, pa := 0x70000, remote := true, peer := 9#128 }

/-- A granule whose bytes a peer has answered for, and a host's write to a peer's page. -/
theorem test_hyps_TransfersOfEngines_relays :
    let c := { copy0 with src := 0x50000#64, cls := 8#4, sys := true, got := (List.range 16).map fun i => (0x50000 + i, BitVec.ofNat 8 i) }
    let s : State := { copying c 0 with maps := [placePage, farPage] }
    let e := s.core.engine 2#3 owner0 0#58
    let r : HostReq := ⟨⟨1, 0⟩, 0x50000, 2, true, ⟨7, 0, 5#64⟩, [9], []⟩
    let t : State := { s with peers := [⟨9, ⟨1, 0⟩, hostEngine, 0#3, false, 0x50000#64, 2, 0, 0⟩], hostReqs := [r] }
    s.canonical ∧ s.core.equeues[2] = [.copy c 0 owner0 0#58] ∧ 0 < c.len ∧ 8 ≤ c.cls.toNat ∧ s.copyPlace e c true 0 0x12000 = .mem 0x12000
    ∧ (∀ i, i < 16 → s.copyPlace e c false i (0x50000 + i) = .peer farPage (0x70000 + i)
      ∧ (c.got.find? fun g => g.1 == 0x50000 + i) = some (0x50000 + i, BitVec.ofNat 8 i))
    ∧ (t.peers.find? fun p => p.id == 9 && !p.read) = some ⟨9, ⟨1, 0⟩, hostEngine, 0#3, false, 0x50000#64, 2, 0, 0⟩ ∧ t.hostReqs = [r]
    ∧ r.ids = [9] ∧ r.write = true ∧ t.replayOf 1 = none ∧ t.serves ⟨1, 0⟩ = true
    ∧ s.hostReach ⟨1, 0⟩ 0x50000 true 2 = .ok (List.replicate 2 none) ∧ 2 ≤ 64 - 0x50000 % 64 ∧ s.mappingOf ⟨1, 0⟩ 0x50000 = some farPage := by
  unfold State.canonical; decide +kernel

/-- Answers of peers: of a write, of a read, and none at the end of the interval of the queue; and arrivals of peers. -/
theorem test_hyps_TransfersOfEngines_peers :
    let c := { copy0 with cls := 8#4 }
    let p : Peer := ⟨9, ⟨1, 0⟩, 0, 2#3, false, 0x12000#64, 2, 0, 0⟩
    let q : CmdQueue := CmdQueue.reset ⟨1, 0⟩ 0 100
    let s : State := { copying c 0 with peers := [p], launches := [launch0], cqueues := [q], time := 100 * 24000 }
    let r : State := { s with launches := [], peers := [{ p with read := true }] }
    let t : State := { run with maps := [placePage, syncPage, awayPage] }
    let place := fun (va : Word) => t.xlate ⟨1, 0⟩ va ⟨true, true, false, false, false⟩
    ((s.peers.find? fun p => p.id == 9 && !p.read) = some p)
    ∧ ((r.peers.find? fun p => p.id == 9 && p.read) = some { p with read := true } ∧ [1#8, 2#8].length = p.len
      ∧ p.core = r.core.id.toNat ∧ p.core ≠ hostEngine ∧ p.core < 64 ∧ r.core.equeues[2] = [.copy c 0 owner0 0#58] ∧ 8 ≤ c.cls.toNat
      ∧ r.copyPlace (r.core.engine 2#3 owner0 0#58) c true 0 p.dst.toNat = .mem 0x12000)
    ∧ ((s.peers.find? fun p => p.id == 9) = some p ∧ p.core < 64 ∧ s.coreOf 0 = some s.core
      ∧ (s.core.equeues[2]).head? = some (.copy c 0 owner0 0#58) ∧ 0 < s.patience owner0
      ∧ p.since + s.patience owner0 ≤ s.time ∧ s.core.task = some owner0 ∧ s.core.lateFault = none)
    ∧ (place 0x30008#64 = .at_ (syncBase + 8) syncPage ∧ syncPage.syncBreach (0x30008#64).toNat ⟨true, true⟩ = false
      ∧ (0x30008#64).toNat % 8 = 0 ∧ place 0x50000#64 = .trap .xlateFault ∧ place 0x60000#64 = .miss) := by
  decide +kernel

/-- Accesses of a host: within a page, to a page that is not mapped, and to one that is not present. -/
theorem test_hyps_TransfersOfEngines_hosts :
    let t : State := { run with maps := [placePage, awayPage] }
    t.serves ⟨1, 0⟩ = true ∧ t.hostReach ⟨1, 0⟩ 0x1FFFE true 2 = .ok [some 0x1FFFE, some 0x1FFFF] ∧ 2 ≤ 64 - 0x1FFFE % 64
    ∧ t.physOf ⟨1, 0⟩ 0x1FFFE = some 0x1FFFE
    ∧ t.hostReach ⟨1, 0⟩ 0x1FFFE false 2 = .ok [some 0x1FFFE, some 0x1FFFF] ∧ ([0x1FFFE, 0x1FFFF].any fun pa => t.poisoned pa 1) = false
    ∧ t.hostReach ⟨1, 0⟩ 0x1FFFF true 2 = .error none ∧ t.hostReach ⟨1, 0⟩ 0x1FFFF false 2 = .error none
    ∧ t.hostReach ⟨1, 0⟩ 0x60000 true 2 = .error (some 0x60000) ∧ t.hostReach ⟨1, 0⟩ 0x60000 false 2 = .error (some 0x60000)
    ∧ t.replayOf 1 = none := by
  decide +kernel

/-- Entry 0 of the lineage table is LIVE and held by a task; its handle is 0. -/
def owned (holder : Nat) : State :=
  { run with
    maps := [placePage, boxPage]
    lineage := [(0, { Lineage.free with st := .live, holder := holder, part := 1 })] }

/-- A word for what a handle step answers. -/
def stepAnswer (a : HAns) : Nat := match a with | .wait _ => 0 | .fail _ => 1 | .done _ => 2 | .idle _ => 3

/-- An HPUT into an empty mailbox, one of a handle that another task holds, and one into a page that is not present; an HTAKE of an empty
mailbox, and at its bound; a deposit that a suspended task waits for. -/
theorem test_hyps_HandleSteps :
    let h : HStep := ⟨.put 0#128 0x40000#64, owner0, none, 0#58, [(1#4, ⟨0#128, .live⟩)]⟩
    let far : HStep := { h with op := .put 0#128 0x60000#64 }
    let k : HStep := ⟨.take 1#4 2#6 0x40000#64 false, owner0, some 0, 0#58, []⟩
    let w := (syncBase + Config.syncHalf, ready0.key, 0)
    let n : Node := { ready0 with st := .suspended, waits := [.handle 0 1#4 2#6 (syncBase + Config.syncHalf)] }
    let s : State := { owned 0 with hwaits := [w], nodes := [n], mailboxes := [(syncBase + Config.syncHalf, 0#128, 0)] }
    let q := (owned 1).onCore fun c => { c with hsteps := [h] }
    let t : State := { (owned 0).onCore fun c => { c with hsteps := [k] } with time := 16384 * 24 }
    let away : State := { owned 1 with maps := [placePage, boxPage, { awayPage with sync := true, pa := syncBase + Config.syncHalf }] }
    q.core.hsteps = [h] ∧ stepAnswer (q.hopStep h) = 2 ∧ stepAnswer ((owned 2).hopStep h) = 1
    ∧ stepAnswer (away.hopStep far) = 0 ∧ stepAnswer ((owned 1).hopStep k) = 3 ∧ q.core.task = some h.owner
    ∧ (t.core.hsteps = [k] ∧ 0 + 16384 * 24 ≤ t.time ∧ t.takeAnswered k 0x40000#64 = false)
    ∧ ((s.hwaits.find? fun w => w.1 == syncBase + Config.syncHalf) = some w ∧ s.mailbox (syncBase + Config.syncHalf) = some 0#128
      ∧ s.nodeOfKey ready0.key = some n ∧ n.st = .suspended
      ∧ (n.waits.find? fun w => match w with | .handle m _ _ p => m == 0 && p == syncBase + Config.syncHalf | _ => false)
        = some (.handle 0 1#4 2#6 (syncBase + Config.syncHalf))
      ∧ (s.takeFrom (syncBase + Config.syncHalf) 0#128 2).isSome = true) := by decide +kernel

/-- Entry 0 is LIVE over [0, 8) of a tensor of one axis whose record stands at 0x10000. -/
def tiled : State :=
  { owned 1 with
    mem := writeBytes [] 0x10000 (leBytes 32 1 ++ leBytes 160 8)
    lineage := [(0, { Lineage.free with st := .live, holder := 1, part := 1, tsr := 0x10000#64, lo := [0], hi := [8] })] }

/-- Entry 0 is SPLIT, and its children are entries 1 and 2. -/
def halved : State :=
  let half : Lineage := { Lineage.free with st := .live, holder := 1, part := 1, parent := 0 }
  { owned 1 with lineage := [(0, { Lineage.free with st := .split, childL := 1, childH := 2, part := 1 }), (1, half), (2, half)] }

/-- An HSPLIT at the ends of the range of its point, and of an axis that is not there; an HREJOIN, one with a moved source, and one of the
children in the wrong order; a mailbox that is full; an HTAKE of a deposit; an HINFO. -/
theorem test_hyps_HandleSteps_tables :
    let h := fun (op : HOp) => (⟨op, owner0, some 0, 0#58, []⟩ : HStep)
    let l := tiled.entryOf 0
    let rank := match tiled.entryTsr owner0 l with | .ok t => t.rank | .error _ => 0
    let pa := syncBase + Config.syncHalf
    let put := { owned 1 with mailboxes := [(pa, 0#128, 0)] }
    let take := { owned 0 with mailboxes := [(pa, 0#128, 5)] }
    (l.valid 0#128 = true ∧ l.holder = 1 ∧ l.st = .live ∧ l.outst = 0 ∧ tiled.core.heldByStream owner0 0#128 = false
      ∧ rank = 1 ∧ l.lo.getD 0 0 < 1 ∧ 7 < l.hi.getD 0 1 ∧ tiled.usedEntries 1 + 2 ≤ tiled.lineageQuota 1
      ∧ (tiled.readEntries (.split 0#128 0 7 1 2)).any tiled.entryPoisoned = false)
    ∧ ([stepAnswer (tiled.hopStep (h (.split 0#128 0 7 1 2))), stepAnswer (tiled.hopStep (h (.split 0#128 0 8 1 2))),
        stepAnswer (tiled.hopStep (h (.split 0#128 1 7 1 2))), stepAnswer (tiled.hopStep (h (.info 0#128 5#6 0)))] = [2, 1, 1, 2])
    ∧ (assocAbove Lineage.free none halved.lineage = true ∧ (halved.handleEntry 1#128).valid 1#128 = true
      ∧ (halved.handleEntry 2#128).valid 2#128 = true
      ∧ (halved.readEntries (.rejoin 1#4 2#4 3#4 1#128 2#128 false)).any halved.entryPoisoned = false
      ∧ [stepAnswer (halved.hopStep (h (.rejoin 1#4 2#4 3#4 1#128 2#128 false))), stepAnswer (halved.hopStep (h (.rejoin 1#4 2#4 3#4 1#128 2#128 true))),
        stepAnswer (halved.hopStep (h (.rejoin 1#4 2#4 3#4 2#128 1#128 false)))] = [2, 1, 1])
    ∧ (put.mailboxAt (h (.put 0#128 0x40000#64)) 0x40000#64 = .ok pa ∧ put.mailbox pa = some 0#128
      ∧ stepAnswer (put.hopStep (h (.put 0#128 0x40000#64))) = 1)
    ∧ (take.mailboxAt (h (.take 1#4 2#6 0x40000#64 false)) 0x40000#64 = .ok pa ∧ take.mailbox pa = some 0#128
      ∧ (take.hwaits.find? fun w => w.1 == pa) = none ∧ take.inTime (h (.take 1#4 2#6 0x40000#64 false)) pa = true
      ∧ take.entryPoisoned 0 = false ∧ (take.entryOf 0).valid 0#128 = true ∧ (take.entryOf 0).st = .live ∧ (take.entryOf 0).holder = 0
      ∧ stepAnswer (take.hopStep (h (.take 1#4 2#6 0x40000#64 false))) = 2) := by decide +kernel

theorem test_hyps_HandleSteps_rows :
    let a : TAcc := ⟨0, false, 0, 0, 1, owner0, 0#58, []⟩
    let s := fed.onCore fun c => { c with taccs := [a], freeze := 2#4 }
    let st : Stream := { stream0 with total := 2 }
    let t : State := { s.onCore fun c => c.onCtx fun x => x.setQueue 0#2 [st] with moves := [(⟨1, 0⟩, 0x10000, none, 0)] }
    s.core.taccs[0]? = some a ∧ ((s.core.taccs.take 0).all fun b => b.lidx != a.lidx) = true
    ∧ (∀ q : BitVec 2, ∀ st ∈ s.core.ctx.queue q, st.counted = true → st.id ∉ a.after)
    ∧ nextFetch ((t.core.ctx.queue 0#2).filter fun st => !t.core.ctx.landingFailed st.id) = some st
    ∧ waitingFirst ((t.core.ctx.queue 0#2).filter fun st => !t.core.ctx.landingFailed st.id) = none
    ∧ t.core.freeze ≠ 0#4 ∧ t.moves = [(t.core.space, 0x10000, none, 0)] ∧ t.mappingOf t.core.space 0x10000 = some placePage
    ∧ t.core.fifo = [] ∧ t.parked = [] := by
  decide +kernel

/-- A stub that is not published, and the core that waits at it. -/
def stubbed : State :=
  { run.onCore fun c => c.onCtx fun x => { x with pc := indexOf 0x80000#64 } with
    stubs := [⟨⟨1, 0⟩, 0x10000, 0x80000, none⟩]
    parts := [{ placePart with heap := 64 }] }

theorem test_hyps_Pages :
    let later : Mapping := { awayPage with va := 0x70000, pa := noFrame, back := .later false }
    let refused : Mapping := { later with va := 0x80000, back := .refused true }
    let s : State := { run with maps := [placePage, awayPage, later, refused], pageWalks := [(⟨1, 0⟩, 0x10000, 0), (⟨1, 0⟩, 0x80000, 8)] }
    let body := List.replicate 64 0#8
    (s.walkUnits ⟨1, 0⟩ (0x10000#64).toNat = [0] ∧ s.mappingOf ⟨1, 0⟩ 0x10000 = some placePage ∧ placePage.present = true)
    ∧ (s.walkUnits ⟨1, 0⟩ (0x80000#64).toNat = [8] ∧ s.mappingOf ⟨1, 0⟩ 0x80000 = some refused ∧ refused.present = false
      ∧ refused.isRefused = true)
    ∧ (s.mappingOf ⟨1, 0⟩ 0x60000 = some awayPage ∧ awayPage.present = false ∧ s.unpublished awayPage = false ∧ s.moving awayPage = false
      ∧ awayPage.back = .frame)
    ∧ (s.mappingOf ⟨1, 0⟩ 0x70000 = some later ∧ later.present = false ∧ s.unpublished later = false ∧ s.moving later = false)
    ∧ (s.newFrame 1 true 65536).isNone = true
    ∧ ((stubbed.stubs.find? fun b => decide (b.space = ⟨1, 0⟩) && b.stub == 0x80000 && b.body.isNone) = some ⟨⟨1, 0⟩, 0x10000, 0x80000, none⟩
      ∧ stubbed.partOf 1 = some { placePart with heap := 64 } ∧ stubbed.stubWaiter ⟨⟨1, 0⟩, 0x10000, 0x80000, none⟩ = some stubbed.core
      ∧ stubbed.bodyOk { placePart with heap := 64 } body = true ∧ placePart.heapUsed + body.length ≤ 64
      ∧ stubbed.bodyPlace ⟨1, 0⟩ 0x80000 1 = some 0x90000) := by decide +kernel

theorem test_hyps_Pages_room : stubbed.evictFor 1 64 = stubbed := rfl

/-- What firmware reserves lies in the HBM4E, wherever that is. -/
theorem reserved_below : reservedFrom + reservedSize ≤ hbmSize := by
  have h := Nat.mod_lt Config.reservedBase (show 0 < (hbmSize - reservedSize) / 65536 by decide)
  unfold reservedFrom
  have e : (hbmSize - reservedSize) / 65536 * 65536 + reservedSize = hbmSize := by decide
  generalize Config.reservedBase % ((hbmSize - reservedSize) / 65536) = k at h ⊢
  generalize (hbmSize - reservedSize) / 65536 = n at h e
  omega

/-- A frame in the lowest MiB of the HBM4E that no page, move, retired or shared frame meets. -/
theorem frame_below {s : State} {pa : Nat} (h : pa + 65536 ≤ 1048576) (hr : 1048576 ≤ reservedFrom)
    (hm : ∀ m ∈ s.maps, meets pa 65536 m.pa m.size = false) (hv : s.moves = []) (hd : s.retired = []) (hf : s.frames = []) :
    s.frameBusy pa 65536 = none := by
  have e : meets pa 65536 reservedFrom reservedSize = false := by
    unfold meets
    simp only [Bool.and_eq_false_imp, decide_eq_true_eq, decide_eq_false_iff_not]
    omega
  have g : (s.maps.filter fun m => !m.remote).find? (fun m => meets pa 65536 m.pa m.size) = none :=
    List.find?_eq_none.2 fun m hx => by simp [hm m (List.mem_filter.1 hx).1]
  unfold State.frameBusy
  simp [*, List.find?_map]

/-- A frame that a page holds, which is the first that meets it. -/
theorem frame_held {s : State} {pa : Nat} {m : Mapping} {ms : List Mapping} (hm : s.maps = m :: ms) (hn : m.remote = false)
    (hx : meets pa 65536 m.pa m.size = true) : s.frameBusy pa 65536 = some (m.pa + m.size) := by
  unfold State.frameBusy
  simp [hm, hn, hx]

theorem from_below {s : State} {pa size top n : Nat} (h : s.frameBusy pa size = none) (ht : pa + size ≤ top) :
    s.frameFrom size top (n + 1) pa = some pa := by
  unfold State.frameFrom
  rw [if_neg (by omega), h]

theorem from_held {s : State} {pa size top n e : Nat} (h : s.frameBusy pa size = some e) (ht : pa + size ≤ top) :
    s.frameFrom size top (n + 1) pa = s.frameFrom size top n ((e + size - 1) / size * size) := by
  rw [State.frameFrom, if_neg (by omega), h]

/-- A frame of the HBM4E is taken at the first that is free, where the free choice is the first. -/
theorem free_first {s : State} (hp : ∀ n, Config.pick n = 0) {pa : Nat}
    (h : ({ s with picks := s.picks + 1 } : State).frameFrom 65536 hbmSize
      (s.maps.length + s.moves.length + s.retired.length + s.frames.length + 3) 0 = some pa) :
    s.freeFrame 0 hbmSize 65536 = (some pa, { s with picks := s.picks + 1 }) := by
  have e : s.pickAny ((hbmSize - (0 + 65536 - 1) / 65536 * 65536) / 65536) = (0, { s with picks := s.picks + 1 }) := by
    unfold State.pickAny
    rw [hp, if_neg (by decide), Nat.zero_mod]
  unfold State.freeFrame
  simp only [e]
  rw [show (0 + 65536 - 1) / 65536 * 65536 + 0 * 65536 = 0 by decide, h]

/-- The code heap has room for a body, and for the page of its stub. -/
theorem test_hyps_Pages_heap (hp : ∀ n, Config.pick n = 0) (hr : 1048576 ≤ reservedFrom) :
    ∃ t, stubbed.heapPages ⟨⟨1, 0⟩, 0x10000, 0x80000, none⟩ 1 0x90000 = some t := by
  have a : stubbed.freeFrame 0 hbmSize 65536 = (some 0, { stubbed with picks := stubbed.picks + 1 }) := by
    refine free_first hp ?_
    rw [show stubbed.maps.length + stubbed.moves.length + stubbed.retired.length + stubbed.frames.length + 3 = 3 + 1 by decide]
    unfold State.frameFrom
    rw [frame_below (by decide) hr (by decide) rfl rfl rfl]
    rfl
  obtain ⟨u, hu, hm, hv, hd, hf⟩ : ∃ u : State, stubbed.heapBacked ⟨1, 0⟩ (0x80000 / 65536 * 65536) = some u
      ∧ u.maps = [placePage, heapPage ⟨1, 0⟩ (0x80000 / 65536 * 65536) (some 0)] ∧ u.moves = [] ∧ u.retired = [] ∧ u.frames = [] := by
    refine ⟨_, by unfold State.heapBacked; rw [a], ?_, rfl, rfl, rfl⟩
    decide
  have b : ({ u with picks := u.picks + 1 } : State).frameFrom 65536 hbmSize (2 + 2 + 1) 0 = some 0x20000 := by
    generalize hw : ({ u with picks := u.picks + 1 } : State) = w
    obtain ⟨hm, hv, hd, hf⟩ : w.maps = _ ∧ w.moves = [] ∧ w.retired = [] ∧ w.frames = [] := by subst hw; exact ⟨hm, hv, hd, hf⟩
    have z : w.frameBusy 0 65536 = some 65536 := by
      unfold State.frameBusy
      simp [hm, placePage, placeBase, heapPage, meets]
    have y : w.frameBusy 65536 65536 = some 131072 := by
      unfold State.frameBusy
      simp [hm, placePage, placeBase, heapPage, meets]
    have x : w.frameBusy 131072 65536 = none :=
      frame_below (by decide) hr (by rw [hm]; decide) hv hd hf
    rw [from_held z (by decide), from_held y (by decide)]
    exact from_below x (by decide)
  have c : (u.heapBacked ⟨1, 0⟩ 0x90000).isSome := by
    unfold State.heapBacked
    have e : u.maps.length + u.moves.length + u.retired.length + u.frames.length + 3 = 2 + 2 + 1 := by rw [hm, hv, hd, hf]; rfl
    have d : u.freeFrame 0 hbmSize 65536 = _ := free_first hp (by rw [e]; exact b)
    rw [d]
    rfl
  obtain ⟨t, ht⟩ := Option.isSome_iff_exists.1 c
  refine ⟨t, ?_⟩
  unfold State.heapPages
  rw [hu, show List.range 1 = [0] from rfl]
  simpa using ht

/-- A frame of LPDDR6 of which nothing holds a part. -/
theorem frame_free {s : State} {pa size : Nat} (h : hbmSize ≤ pa) (hm : s.maps = [] ∨ ∃ m, s.maps = [m] ∧ m.remote = false ∧ meets pa size m.pa m.size = false)
    (hv : s.moves = []) (hr : s.retired = []) (hf : s.frames = []) : s.frameBusy pa size = none := by
  have := reserved_below
  have e : meets pa size reservedFrom reservedSize = false := by
    unfold meets
    simp only [Bool.and_eq_false_imp, decide_eq_true_eq, decide_eq_false_iff_not]
    omega
  unfold State.frameBusy
  rcases hm with hm | ⟨m, hm, hn, hx⟩ <;> simp [*]

/-- The page of the tests in LPDDR6, where a poisoned line has been written. -/
def lowPage : Mapping := { placePage with pa := lpddrBase }

def worn (s : State) : State := { s with maps := [lowPage], badFrames := [lpddrBase], repairs := List.replicate 8 Repair.reset }

theorem low_open (s : State) (hv : s.moves = []) (hr : s.retired = []) (hf : s.frames = [])
    (hh : (((worn s).aliases lowPage).any fun n => (worn s).pageHeld n false) = false) :
    (worn s).frameOpen lowPage (lpddrBase + 65536) = true := by
  have h : (worn s).frameBusy (lpddrBase + 65536) lowPage.size = none :=
    frame_free (by decide) (.inr ⟨lowPage, rfl, by decide, by decide⟩) hv hr hf
  unfold State.frameOpen
  rw [h, hh]
  decide +kernel

/-- A move of that page begins, and goes as far as it can. -/
theorem low_moves (s : State) (hv : s.moves = []) (hr : s.retired = []) (hf : s.frames = [])
    (hh : (((worn s).aliases lowPage).any fun n => (worn s).pageHeld n false) = false)
    (hm : (worn s).mappingOf ⟨1, 0⟩ 0x10000 = some lowPage) (hp : (worn s).movable lowPage = true) :
    (worn s).shootdown ⟨1, 0⟩ 0x10000 (some (lpddrBase + 65536))
      = (let t := ((worn s).aliases lowPage).foldl (fun s n => s.beginShoot n (some (lpddrBase + 65536 + (n.pa - lpddrBase)))) (worn s)
        if (t.aliases lowPage).all t.shootClear then t.endMove lowPage (lpddrBase + 65536) else t) := by
  have g : (worn s).moving lowPage = false := by unfold State.moving worn; rw [hv]; rfl
  have e : (!(worn s).movable lowPage || !((worn s).movingTo lowPage (lpddrBase + 65536)
      || (!(worn s).moving lowPage && (worn s).frameOpen lowPage (lpddrBase + 65536)))) = false := by
    rw [low_open s hv hr hf hh, hp, g]; simp
  unfold State.shootdown
  simp only [hm, e]
  rfl

/-- Pages that a shootdown takes away or moves at once, that a copy keeps, and that the walker holds. -/
theorem test_hyps_Pages_shootdowns :
    let c := copying { copy0 with len := 64 } 16
    let h : State := { run with nodes := [{ ready0 with addr := 0x10000#64 }] }
    let s := worn run
    (run.mappingOf ⟨1, 0⟩ (0x10000#64).toNat = some placePage ∧ run.moving placePage = false ∧ run.pageHeld placePage false = false
      ∧ run.shootClear placePage = true ∧ h.pageHeld placePage false = true)
    ∧ (c.pageHeld placePage false = false ∧ c.shootClear placePage = false)
    ∧ (s.mappingOf ⟨1, 0⟩ (0x10000#64).toNat = some lowPage ∧ s.moving lowPage = false ∧ s.movable lowPage = true
      ∧ s.frameOpen lowPage (lpddrBase + 65536) = true ∧ s.aliases lowPage = [lowPage] ∧ s.shootClear lowPage = true) :=
  ⟨by decide +kernel, by decide +kernel, by decide +kernel, by decide +kernel, by decide +kernel, low_open run rfl rfl rfl (by decide +kernel),
    by decide +kernel, by decide +kernel⟩

theorem test_hyps_LaunchEnds :
    let l := { launch0 with id := 2, finished := 1 }
    let d := { l with ending := some (bareFault .protection) }
    let s : State := { run with launches := [l] }
    let t : State := { run with launches := [d] }
    let f := run.onCore fun c => c.raise .protection 3
    let q : CmdQueue := { CmdQueue.reset ⟨1, 0⟩ 0 100 with running := some launch0.cmd, elapsed := 100 * 24000 }
    let w : State := { run with cqueues := [q] }
    let p : Part := { placePart with wipe := some (2400000, [0]) }
    let v : State := { w with parts := [p] }
    (v.partOf 1 = some p ∧ p.wipe = some (2400000, [0]) ∧ (v.cqueues.any fun k => k.space.part == 1 && v.expiring k) = false
      ∧ placePart.wipe = none)
    ∧ (s.launches[0]? = some l ∧ l.ending = none ∧ l.finished = l.created ∧ s.onCores l = false)
    ∧ (f.core.trap.map fun r => decide (r.code ≠ .migrate)) = some true
    ∧ (t.core.trap = none ∧ t.core.lateFault = none ∧ t.coreEnds = false ∧ t.endedLaunch = some d
      ∧ d.ending = some (bareFault .protection))
    ∧ (w.partOf 1 = some placePart ∧ w.queueAt (1, 0) = some q ∧ q.expired = true) := by decide +kernel

/-! ### The module -/

theorem test_hyps_ModuleEvents :
    let r : Repair := ⟨[], 0, [(5, 4, 0x400)]⟩
    let s : State := { run with devState := .stopped, alarmGone := some 0, time := 1000000 * 24, repairs := r :: List.replicate 7 Repair.reset }
    (s.actions.getD 0 .log = .stop ∧ s.actions.getD 3 .log = .erase ∧ [AlarmAction.log].getD 0 .stop = .log)
    ∧ (run.devState = .ready ∧ run.alarmGone = none)
    ∧ (s.devState = .stopped ∧ s.alarmGone = some 0 ∧ 0 + 1000000 ≤ tickOf s.time)
    ∧ (hbmSize - 1 < hbmSize ∧ lpddrBase < lpddrEnd)
    ∧ (s.repairs[(0#3).toNat]? = some r ∧ (r.worn.any fun x => x.1 == 5) = true) := by decide +kernel

/-- A bank that has a spare row has one left while none is used. -/
theorem test_hyps_ModuleEvents_spares (h : 0 < Config.spareRows 0 (bankOf 5)) :
    0 < (⟨[], 0, [(5, 4, 0x400)]⟩ : Repair).left (0#3).toNat (bankOf 5) := h

theorem test_hyps_ModuleEvents_retired :
    let s := worn run
    let c := worn (copying { copy0 with len := 64 } 16)
    (∀ x ∈ [s, c], x.mappingOf ⟨1, 0⟩ 0x10000 = some lowPage ∧ x.movable lowPage = true ∧ x.wornPage 0 lowPage = true
      ∧ x.moving lowPage = false ∧ x.frameFits lowPage (lpddrBase + 65536) = true)
    ∧ (s.shootdown ⟨1, 0⟩ 0x10000 (some (lpddrBase + 65536))).moving lowPage = false
    ∧ (c.shootdown ⟨1, 0⟩ 0x10000 (some (lpddrBase + 65536))).moving lowPage = true := by
  have a := low_open run rfl rfl rfl (by decide +kernel)
  have b := low_open (copying { copy0 with len := 64 } 16) rfl rfl rfl (by decide +kernel)
  refine ⟨fun x hx => ?_, ?_, ?_⟩
  · simp only [List.mem_cons, List.not_mem_nil, or_false] at hx
    rcases hx with rfl | rfl
    · exact ⟨by decide +kernel, by decide +kernel, by decide +kernel, by decide +kernel, by unfold State.frameFits; rw [a]; decide +kernel⟩
    · exact ⟨by decide +kernel, by decide +kernel, by decide +kernel, by decide +kernel, by unfold State.frameFits; rw [b]; decide +kernel⟩
  · rw [low_moves run rfl rfl rfl (by decide +kernel) (by decide +kernel) (by decide +kernel)]; decide +kernel
  · rw [low_moves _ rfl rfl rfl (by decide +kernel) (by decide +kernel) (by decide +kernel)]; decide +kernel

/-- A debug stop that is due; a trace whose HEAD lags; a checkpoint that is due; the events of replay. -/
theorem test_hyps_DebugEvents :
    let s := run.onCore fun c => { c with dbg := { CoreDbg.reset with due := some (1#2, 0) } }
    let tr : Trace := ⟨⟨1, 0⟩, 1#8, 10, 5#32, 0x10000#64, 8192, 0, 48, 0, 0, [], []⟩
    let r : Replay := ⟨1, 1, 10, 0, 0x10000#64, 65536, 0, 0, 0, 0, false, false, [], []⟩
    let e : LogEntry := ⟨4, 0, 0, 3, []⟩
    let k : Checkpoint := ⟨1, 0, [], [], [], [], [], [], [], [], [], [], [], [], []⟩
    let p : Replay := { r with mode := 4, log := [e] }
    let t : State := { run with traces := [tr], replays := [r] }
    let v : State := { run with replays := [p], checkpoints := [k] }
    (s.alone ∧ s.core.dbg.due = some (1#2, 0) ∧ s.core.phase = .ready ∧ s.core.mid = false)
    ∧ (t.traceOf ⟨1, 0⟩ = some tr ∧ tr.head ≠ tr.pend ∧ t.physOf ⟨1, 0⟩ tr.buf.toNat = some 0x10000)
    ∧ (t.partOf 1 = some placePart ∧ t.replayOf 1 = some r ∧ r.checkpointDue (tickOf t.time) = true
      ∧ (t.cores.all fun c => !placePart.hasCore c || c.holdsStill) = true ∧ t.canonical)
    ∧ (v.replayOf 1 = some p ∧ v.nextArrival p = some (e, []) ∧ e.val = (3#4).toNat) := by
  unfold State.alone State.canonical; decide +kernel

/-- A checkpoint of two bytes, and the area of such a recording: it fits, in one line; and one that is full. -/
theorem test_hyps_DebugEvents_area (b c : Byte) (h : Config.checkpointBytes 0 = [b, c]) :
    let r : Replay := ⟨1, 1, 10, 0, 0x10000#64, 65536, 0, 0, 0, 0, false, false, [], []⟩
    let t : State := { run with replays := [r], tenants := [tenant .enabled], picks := 0 }
    r.used + (Config.checkpointBytes t.picks).length ≤ r.size ∧ 65536 < 65535 + (Config.checkpointBytes t.picks).length
    ∧ t.firstTenant 1 = some ⟨1, 0⟩ ∧ t.physOf ⟨1, 0⟩ (r.area.toNat + r.used) = some 0x10000
    ∧ (Config.checkpointBytes t.picks).length ≤ 64 - (r.area.toNat + r.used) % 64 := by
  have e : (Config.checkpointBytes 0).length = 2 := by rw [h]; rfl
  refine ⟨by rw [e]; decide, by rw [e]; decide, by decide +kernel, by decide +kernel, by rw [e]; decide⟩

/-! ### Commands -/

/-- The queue of a command, which heads it. -/
def homeOf (c : Cmd) : CmdQueue := { CmdQueue.reset ⟨(cmdHome c).1, 0⟩ (cmdHome c).2 0 with held := [c] }

/-- The module with partition 1 on the first eight clusters, its tenant, a queue 3 of it in ERROR, and the command at the head
of its own queue. -/
def asked (c : Cmd) : State :=
  { run with
    parts := [{ placePart with clusters := 0xFF#16, ring := 0x100000000#256, sources := [7] }]
    tenants := [tenant .enabled]
    cqueues := [homeOf c, { CmdQueue.reset ⟨1, 0⟩ 3 0 with error := true }]
    maps := [placePage, syncPage, awayPage]
    admins := [7] }

/-- The state in which it has begun. -/
def started (c : Cmd) : State := (asked c).begun c (homeOf c)

/-- The command may begin, and its queue is there once it has. -/
def opens (c : Cmd) : Bool :=
  decide ((asked c).begins c = some (homeOf c)) && ((started c).queueAt (cmdHome c)).isSome && !c.arriving

/-- A sound LAUNCH that arrives; the causes of R330 in their order; and the two commands that act at once. -/
theorem test_hyps_CommandArrivals :
    let to_ := fun (queue seq : Nat) => { cmdTo (.part 1) 0x01#8 queue seq (leBytes 8 0x11000) with arriving := true }
    let c := to_ 0 0
    let s : State := { asked c with cqueues := [CmdQueue.reset ⟨1, 0⟩ 0 0] }
    let q := CmdQueue.reset ⟨1, 0⟩ 0 0
    let full := { q with held := List.replicate 256 c, nextSeq := 5#32 }
    s.knownSource c (cmdPart c) = true ∧ s.knownSource { c with src := 8 } (cmdPart c) = false ∧ s.devState = .ready
    ∧ cmdAtPart c = true ∧ c.op = 0x01#8 ∧ c.body.length = 8 ∧ c.rsvd = false ∧ c.queue.toNat < 64
    ∧ 32 ≤ c.bytes.length ∧ c.len ≤ 992 ∧ c.len = c.body.length
    ∧ s.queueAt (cmdHome c) = some q ∧ s.queueAt (cmdHome (to_ 63 0)) = none
    ∧ s.queueShut q = false ∧ s.queueShut { q with error := true } = true ∧ q.knows c.seq = false ∧ full.knows c.seq = true
    ∧ full.knows (to_ 0 5).seq = false ∧ 256 ≤ full.depth ∧ q.depth < 256
    ∧ q.ahead = [] ∧ c.seq = q.nextSeq ∧ (to_ 0 5).seq ≠ q.nextSeq := by decide +kernel

theorem test_hyps_CommandArrivals_at_once :
    let a : Cmd := { cmd (.part 1) 0x05#8 (leBytes 4 1 ++ leBytes 4 3) with arriving := true }
    let p : Part := { placePart with sources := [7], resize := some (0xFF#16, 0#256, none), unacked := true, rseq := 3#32 }
    let s : State := { asked a with parts := [p], cqueues := [CmdQueue.reset ⟨1, 0⟩ 0 0] }
    let m : Cmd := { cmd .mgmt 0x1A#8 (leBytes 4 1) with arriving := true }
    s.knownSource a (cmdPart a) = true ∧ a.rsvd = false ∧ a.lenBad = false ∧ m.rsvd = false ∧ m.lenBad = false ∧ m.queue = 0#8 ∧ fieldNat a.body 2 2 = 0 ∧ (s.queueAt (cmdHome a)).isSome = true ∧ a.ep = .part p.id
    ∧ s.partOf (fieldNat a.body 0 2) = some p ∧ p.unacked = true ∧ p.rseq.toNat = fieldNat a.body 4 4
    ∧ s.admins.contains m.src = true ∧ m.body.length = 4 ∧ fieldNat m.body 0 4 < 2 ∧ s.replayOf 0 = none := by decide +kernel

/-- A word for how a start goes. -/
def startAnswer {α : Type} (x : Start α) : Nat := match x with | .wait _ => 0 | .refuse _ _ _ => 1 | .ok _ => 2

/-- A launch record with this COMPL and one root. -/
def recordBytes0 (compl : Nat) : List Byte :=
  leBytes 4 0x4C524331 ++ leBytes 8 1 ++ leBytes 4 1 ++ leBytes 8 0x14000 ++ leBytes 8 0x12000 ++ leBytes 8 0x13000
    ++ leBytes 16 16 ++ leBytes 8 compl

/-- What a LAUNCH has read once it has begun, with this memory, and the state that its start goes on from. -/
def begun0 (c : Cmd) (mem : List Host.Cell) : Begun × State :=
  let a := BitVec.ofNat 64 (fieldNat c.body 0 8)
  let u := ({ asked c with mem := mem } : State).begun c (homeOf c)
  let bs := u.peek ⟨1, 0⟩ a.toNat 128
  let b : Begun := ⟨bs, if launchRecBad bs then pagesOf a 128 else (launchRecOf bs).pages a⟩
  (b, u.noteBegun c b)

/-- A LAUNCH of the record at 0x11000. -/
def launchCmd0 : Cmd := cmd (.part 1) 0x01#8 (leBytes 8 0x11000)

/-- Launch records on a page that is not present, and on none; one whose COMPL is on a page that is not present; and one that is zeros. -/
theorem test_hyps_HostCommands :
    let c := cmd (.part 1) 0x01#8 (leBytes 8 0x60000)
    let d := cmd (.part 1) 0x01#8 (leBytes 8 0x70000)
    let reads := fun (c : Cmd) => startAnswer ((started c).needs ⟨1, 0⟩ (BitVec.ofNat 64 (fieldNat c.body 0 8)) 128 0 0 0 none)
    let start := fun (mem : List Host.Cell) =>
      let v := begun0 launchCmd0 mem
      startAnswer (v.2.startLaunch ⟨1, 0⟩ { homeOf launchCmd0 with running := some launchCmd0, held := [], begun := some v.1 } 0x11000#64
        v.1.record 0)
    opens c = true ∧ opens d = true ∧ opens launchCmd0 = true ∧ ((asked c).launches.all fun l => decide (l.cmd ≠ c)) = true
    ∧ reads c = 0 ∧ reads d = 1 ∧ reads launchCmd0 = 2
    ∧ start (writeBytes [] 0x11000 (recordBytes0 0x60000)) = 0 ∧ start [] = 1 := by
  decide +kernel

/-- A launch record with one root, its CR, and a code object of one bundle whose digests are 0. -/
def launchMem : List Host.Cell :=
  let put := fun (a : Nat) (bs : List Byte) (m : List Host.Cell) => writeBytes m a bs
  put 0x11000 (recordBytes0 0x15000)
    (put 0x12000 (leBytes 8 0x14080 ++ leBytes 20 1 ++ leBytes 2 1 ++ leBytes 2 1)
    (put 0x14000 (leBytes 4 0x434F4231 ++ leBytes 2 1 ++ leBytes 2 2 ++ leBytes 8 Config.deviceHash.toNat ++ leBytes 8 0x100
      ++ leBytes 8 0x40)
    (put 0x14040 (leBytes 8 1 ++ leBytes 8 0x80 ++ leBytes 16 64 ++ leBytes 8 10 ++ leBytes 8 0xC0 ++ leBytes 16 64) [])))

def launching : State := (begun0 launchCmd0 launchMem).2

/-- Its record and the sections of its object. -/
def record0 : LaunchRec := ⟨false, 1, 0x14000#64, 0x12000#64, 0x13000#64, 0, 0#64, 0x15000#64⟩

def sections0 : List Section := [⟨1, 0x80, 64, 0⟩, ⟨10, 0xC0, 64, 0⟩]

def parsed0 : CodeObj × Symbols × Bool := launching.parseObject ⟨1, 0⟩ 0x14000 true sections0

/-- How a launch record is read where nothing is wrong with it. -/
theorem read_ok {s : State} {sp : Space} {bs : List Byte} {start : Nat} {r : LaunchRec} (h : launchRecOf bs = r
    ∧ s.reachAll sp r.compl 64 = none ∧ launchRecBad bs = false
    ∧ ¬ (r.roots.toNat % 64 ≠ 0 ∨ r.args.toNat % 64 ≠ 0 ∨ r.compl.toNat % 64 ≠ 0 ∨ (r.nhandle ≠ 0 ∧ r.handles.toNat % 64 ≠ 0))) :
    s.readLaunch sp bs start = .ok r := by
  obtain ⟨rfl, hc, hb, hm⟩ := h
  unfold State.readLaunch
  simp only [hc, hb]
  rw [if_neg (by simp), if_neg hm]

theorem parse_sound (s : State) (sp : Space) (base : Nat) (b : Bool) (secs : List Section) (o : List Byte)
    (ho : ((secs.filter fun e => e.kind ≠ 1 ∧ e.kind ≠ 10).flatMap fun e => s.peek sp (base + e.off) e.size) = o) :
    (s.parseObject sp base b secs).2.2 =
      ((((secs.filter fun e => e.kind == 10).flatMap fun e => (chunks 32 (e.size / 32) (s.peek sp (base + e.off) e.size)).map fun d =>
        BitVec.ofNat 256 (leNat d)).getLast? == some (Config.sha256 o))
      && (((secs.filter fun e => e.kind == 10).flatMap fun e => (chunks 32 (e.size / 32) (s.peek sp (base + e.off) e.size)).map fun d =>
        BitVec.ofNat 256 (leNat d)).length == (((secs.find? fun e => e.kind == 1).getD ⟨1, 0, 0, 0⟩).size + 65535) / 65536 + 1)) := by
  subst ho; rfl

theorem parse_entries (s : State) (sp : Space) (base : Nat) (b : Bool) (secs : List Section) (y : List Byte)
    (hy : ((secs.filter fun e => e.kind == 9).flatMap fun e => s.peek sp (base + e.off) e.size) = y) :
    (s.parseObject sp base b secs).1.entries =
      (symbolsOf y).tasks.map fun t => base + ((secs.find? fun e => e.kind == 1).getD ⟨1, 0, 0, 0⟩).off + 64 * t.1 := by
  subst hy; rfl

/-- What a code object has in order, beside its digests, for a partition without load checks. -/
def inOrder (s : State) (sp : Space) (base : Word) (secs : List Section) (p : Part) : Prop :=
  let h := s.peek sp base.toNat 64
  let size := fieldNat h 0x10 8
  let raw := chunks 32 (fieldNat h 6 2) (s.peek sp (base.toNat + fieldNat h 0x18 8) (32 * fieldNat h 6 2))
  s.reachAll sp base 64 = none ∧ objectHeaderBad h = false ∧ ¬ size < fieldNat h 0x18 8 + 32 * fieldNat h 6 2
  ∧ s.reachAll sp (BitVec.ofNat 64 (base.toNat + fieldNat h 0x18 8)) (32 * fieldNat h 6 2) = none
  ∧ ((secs.filter fun e => e.kind != 1).all fun e => e.size == 0 || (s.reachAll sp (BitVec.ofNat 64 (base.toNat + e.off)) e.size).isNone) = true
  ∧ (s.objects.all fun p => !(decide (p.space = sp) && p.base == base.toNat)) = true ∧ raw.any (sectionBad size) = false ∧ raw.map sectionOf = secs
  ∧ (secs.filter fun e => e.kind == 1).length = 1 ∧ decide (fieldNat h 8 8 = Config.deviceHash.toNat) = true
  ∧ s.partOf sp.part = some p ∧ p.flags.getLsbD 1 = true

theorem needs_all {s : State} {sp : Space} {base : Nat} {l : List Section} {start : Nat} {compl : Option Word}
    (h : (l.all fun e => e.size == 0 || (s.reachAll sp (BitVec.ofNat 64 (base + e.off)) e.size).isNone) = true) :
    s.needsAll sp base l 0 0 start compl = .ok () := by
  unfold State.needsAll
  induction l with
  | nil => rfl
  | cons e l ih =>
    simp only [List.all_cons, Bool.and_eq_true, Bool.or_eq_true, beq_iff_eq, Option.isNone_iff_eq_none] at h
    simp only [List.foldl_cons, Start.bind]
    rcases h.1 with h1 | h1
    · simp only [h1, if_true]; exact ih h.2
    · simp only [State.needs, h1, ite_self]; exact ih h.2

/-- Such an object is loaded if its digests agree. -/
theorem load_ok {s : State} {sp : Space} {r : LaunchRec} {start : Nat} {p : Part} {secs : List Section} (h : inOrder s sp r.code secs p)
    (hs : (s.parseObject sp r.code.toNat true secs).2.2 = true) :
    s.loadObject sp r start = .ok (s.holdObject (s.parseObject sp r.code.toNat true secs).1) := by
  obtain ⟨h1, h2, h3, h4, h9, hx, h5, h6, h7, h8, hp, hf⟩ := h
  have hl : ∀ o : CodeObj, o.bundled = true → s.stubLack p o = 0 := fun o h => by unfold State.stubLack; simp [h]
  have hb : (s.parseObject sp r.code.toNat true secs).1.bundled = true := rfl
  have hw : s.heldWait (s.parseObject sp r.code.toNat true secs).1 = none := by
    have : s.heldAt (s.parseObject sp r.code.toNat true secs).1 = none := by
      unfold State.heldAt
      rw [List.find?_eq_none]
      intro p hm he
      have := List.all_eq_true.mp hx p hm
      simp only [Bool.not_eq_true'] at this
      exact absurd (he.symm.trans this) (by decide)
    unfold State.heldWait
    rw [this]
  have nil : s.needsAll sp r.code.toNat [] 0 0 start (some r.compl) = .ok () := rfl
  unfold State.loadObject
  simp only [State.needs, h1, Start.bind, h2, if_neg h3, h4, h5, h6, h7, h8, needs_all h9]
  generalize s.parseObject sp r.code.toNat true secs = P at hs hb hw ⊢
  obtain ⟨o, y, b⟩ := P
  simp only at hs hb hw
  have hg : p.flags[1] = true := hf
  simp [hs, hp, hg, hl o hb, hw, nil]

/-- With the digest of no bytes 0, and a symbol table of one task at bundle 0, the object is sound and has that entry. -/
theorem parsed_sound (hd : Config.sha256 [] = 0#256) (hy : Config.symbols [] = [(0, 0, 1)]) :
    parsed0.2.2 = true ∧ parsed0.1 = { parsed0.1 with entries := [0x14080] } := by
  constructor
  · unfold parsed0
    rw [parse_sound _ _ _ _ _ [] (by decide +kernel), hd]
    decide +kernel
  · have e : parsed0.1.entries = [0x14080] := by
      unfold parsed0
      rw [parse_entries _ _ _ _ _ [] (by decide +kernel), show (symbolsOf []).tasks = [(0, 1)] by simp [symbolsOf, hy]]
      decide +kernel
    rw [← e]

theorem object_loads (hd : Config.sha256 [] = 0#256) (hy : Config.symbols [] = [(0, 0, 1)]) :
    launching.loadObject ⟨1, 0⟩ record0 0 = .ok (launching.holdObject { parsed0.1 with entries := [0x14080] }) := by
  have h := parsed_sound hd hy
  have o : inOrder launching ⟨1, 0⟩ record0.code sections0
      { placePart with clusters := 0xFF#16, ring := 0x100000000#256, sources := [7] } := by unfold inOrder; decide +kernel
  rw [← h.2]
  exact load_ok o h.1

/-- A launch that starts, for those values of the free digest and symbol table. -/
theorem test_hyps_HostCommands_start (hd : Config.sha256 [] = 0#256) (hy : Config.symbols [] = [(0, 0, 1)]) :
    startAnswer (launching.startLaunch ⟨1, 0⟩ { homeOf launchCmd0 with running := some launchCmd0, held := [], begun := some (begun0 launchCmd0 launchMem).1 }
      0x11000#64 (begun0 launchCmd0 launchMem).1.record 0) = 2 := by
  unfold State.startLaunch
  rw [read_ok (r := record0) (by decide +kernel)]
  simp only [Start.bind]
  rw [object_loads hd hy]
  decide +kernel

theorem test_hyps_HostCommands_variables :
    let c := cmd (.part 1) 0x02#8 (List.replicate 64 0#8)
    let d := cmd (.part 1) 0x02#8 (List.replicate 64 255#8)
    let w := cmd (.part 1) 0x03#8 (leBytes 8 0x30000 ++ leBytes 8 0)
    let a := cmd (.part 1) 0x04#8 (leBytes 8 0x3FFF8 ++ leBytes 8 1)
    ([c, d, w, a].all opens) = true ∧ ((asked c).jobs.all fun j => decide (j.cmd ≠ some c)) = true
    ∧ descCheck c.body = none ∧ (descCheck d.body).isSome = true ∧ (asked w).canonical
    ∧ (started a).variable ⟨1, 0⟩ 0x30001#64 true = .error (.inl .alignment)
    ∧ (started w).variable ⟨1, 0⟩ 0x30000#64 false = .ok syncBase
    ∧ (started a).variable ⟨1, 0⟩ 0x3FFF8#64 true = .ok (syncBase + 0xFFF8) := by
  unfold State.canonical; decide +kernel

/-- MAP of two SYNC pages, of a frame that is no sync space, and of an address within a page; UNMAP of nothing, of a page that
the walker holds, and of two pages. -/
theorem test_hyps_HostCommands_maps :
    let map := fun (va pa len : Nat) => cmd (.part 1) 0x10#8
      (leBytes 8 va ++ leBytes 8 len ++ leBytes 8 pa ++ leBytes 8 0x94 ++ List.replicate 24 0#8)
    let unmap := fun (va len : Nat) => cmd (.part 1) 0x11#8 (leBytes 8 va ++ leBytes 8 len)
    let a := map 0x70000 (syncBase + 0x10000) 0x20000
    let b := map 0x70000 0x10000 0x10000
    let c := map 0x70001 syncBase 0x10000
    let u := unmap 0x70000 0x10000
    let v := unmap 0x10000 0x30000
    let held : State := { started v with nodes := [{ ready0 with addr := 0x10000#64 }] }
    let hit := (asked v).maps.filter fun m => decide (m.space = ⟨1, 0⟩) && meets 0x10000 0x30000 m.va m.size
    ([a, b, c, u, v].all opens) = true
    ∧ (started a).mapFits (mapReq a.body) ⟨1, 0⟩ = true ∧ ((started a).mapPages (mapReq a.body) ⟨1, 0⟩ 2).isSome = true
    ∧ (started b).mapFits (mapReq b.body) ⟨1, 0⟩ = true ∧ (started b).mapPages (mapReq b.body) ⟨1, 0⟩ 1 = none
    ∧ (started c).mapFits (mapReq c.body) ⟨1, 0⟩ = false
    ∧ ((asked u).maps.filter fun m => decide (m.space = ⟨1, 0⟩) && meets 0x70000 0x10000 m.va m.size) = []
    ∧ hit = [placePage, syncPage] ∧ (hit.any fun m => held.pageHeld m false) = true
    ∧ (∀ m ∈ hit, 0x10000 ≤ m.va ∧ m.va + m.size ≤ 0x10000 + 0x30000 ∧ (started v).pageHeld m false = false) := by decide +kernel

/-- PARTCREATE of partition 2 on cluster 8; PARTDESTROY of partition 1; a new tenant and queue; and what is in ERROR. -/
theorem test_hyps_ManagementCommands :
    let create := cmd .mgmt 0x12#8 (leBytes 2 2 ++ leBytes 2 0 ++ leBytes 2 0x100 ++ leBytes 1 2 ++ leBytes 1 0 ++ leBytes 1 64
      ++ leBytes 1 0 ++ leBytes 2 384 ++ leBytes 20 0 ++ leBytes 32 0x200000000 ++ leBytes 32 0)
    let destroy := cmd .mgmt 0x14#8 (leBytes 2 1)
    let off := fun (c : Cmd) => ({ started c with tenants := [tenant .disabled] } : State)
    let vdev := cmd .mgmt 0x15#8 (leBytes 2 1 ++ leBytes 2 1 ++ leBytes 2 1024)
    let mk := cmd .mgmt 0x17#8 (leBytes 3 1 ++ leBytes 1 63 ++ leBytes 4 0)
    let rm := cmd .mgmt 0x18#8 (leBytes 2 1 ++ leBytes 1 3)
    let rs := cmd .mgmt 0x1D#8 (leBytes 2 1 ++ leBytes 1 3 ++ leBytes 1 1)
    let al := cmd .mgmt 0x1C#8 [1#8, 1#8, 1#8, 2#8]
    ([create, destroy, vdev, mk, rm, rs, al].all opens) = true
    ∧ ((started create).partCreate create.body).isSome = true ∧ ((off destroy).partOf 1).isSome = true
    ∧ (let is_ := fun (s : State) (st : TenState) => s.tenants.any fun t => t.space.part == 1 && t.st == st
      (is_ (started destroy) .enabled = true ∧ is_ (off destroy) .enabled = false ∧ is_ (off destroy) .stopping = false)
      ∧ (let t : State := { started destroy with tenants := [tenant .stopping] }
        is_ t .enabled = false ∧ is_ t .stopping = true)
      ∧ (started create).partOf 2 = none)
    ∧ ((started vdev).vdevCreate vdev.body).isSome = true ∧ ((started mk).queueCreate mk.body).isSome = true
    ∧ ((started rm).queueDestroy rm.body).isSome = true ∧ ((started rs).queueReset rs.body).isSome = true
    ∧ ((started al).alarmSet al.body).isSome = true := by decide +kernel

theorem test_hyps_ManagementCommands_parts :
    let p : Part := { placePart with clusters := 0xFF#16, ring := 0x100000000#256, sources := [7] }
    let resize := fun (cl ring : Nat) => cmd .mgmt 0x13#8 (leBytes 4 1 ++ leBytes 2 cl ++ leBytes 1 2 ++ leBytes 1 4 ++ leBytes 32 ring)
    let ok := fun (c : Cmd) => (started c).masksOk 1 (BitVec.ofNat 16 (fieldNat c.body 4 2)) (BitVec.ofNat 256 (fieldNat c.body 8 32))
      && (started c).waysOk p (fieldNat c.body 6 1) (fieldNat c.body 7 1)
    let same := resize 0xFF 0x100000000
    let new := resize 0x1FF 0x100000000
    let set := fun (on : Nat) => cmd .mgmt 0x16#8 (leBytes 4 1 ++ leBytes 2 1 ++ leBytes 2 on ++ leBytes 2 1024)
    let at_ := fun (op : BitVec 8) (n : Nat) => cmd .mgmt op (leBytes 8 1 ++ List.replicate n 0#8 ++ leBytes 8 0x10000 ++ leBytes 8 0)
    ([same, new, resize 0 1, set 0, set 1, at_ 0x19#8 0, at_ 0x1B#8 32].all opens) = true
    ∧ (started same).partOf 1 = some p ∧ p.resize = none ∧ ok same = true ∧ ok new = true ∧ ok (resize 0 1) = false
    ∧ BitVec.ofNat 16 (fieldNat same.body 4 2) = p.clusters ∧ BitVec.ofNat 256 (fieldNat same.body 8 32) = p.ring
    ∧ BitVec.ofNat 16 (fieldNat new.body 4 2) ≠ p.clusters
    ∧ fieldNat (set 0).body 4 2 = 2 ^ 0 ∧ fieldNat (set 0).body 6 2 = 0 ∧ fieldNat (set 1).body 6 2 = 2 ^ 0
    ∧ fieldNat (set 1).body 8 2 ≤ 1024 ∧ (started (set 0)).tenantOf ⟨1, 0⟩ = some (tenant .enabled)
    ∧ ({ started (set 1) with tenants := [tenant .disabled] } : State).tenantOf ⟨1, 0⟩ = some (tenant .disabled)
    ∧ (started (at_ 0x19#8 0)).writable ⟨1, 0⟩ 0x10000#64 4096 = some none
    ∧ (started (at_ 0x1B#8 32)).writable ⟨1, 0⟩ 0x10000#64 16480 = some none := by decide +kernel

theorem test_hyps_DebugCommands :
    let arm := fun (n : Nat) => cmd .debug 0x20#8 (leBytes 3 1 ++ leBytes 1 n ++ leBytes 12 0 ++ leBytes 16 0x10000)
    let stop := cmd .debug 0x21#8 (leBytes 8 1)
    let resume := cmd .debug 0x22#8 (leBytes 24 1)
    let nobody := cmd .debug 0x21#8 (leBytes 8 2)
    let a : DbgArm := ⟨⟨1, 0⟩, [], 0#64, 0, 0, 7, .debug, 0⟩
    let s : State := { started stop with dbgArms := [a] }
    let held := (started resume).onCore fun c => { c with phase := .held, dbg := { CoreDbg.reset with lead := some 0 } }
    ([arm 0, arm 1, stop, resume, nobody].all opens) = true
    ∧ ((started nobody).tenantOf (cmdSpace nobody)).isSome = false ∧ ((started (arm 0)).tenantOf (cmdSpace (arm 0))).isSome = true
    ∧ fieldNat (arm 0).body 4 2 = 0 ∧ fieldNat (arm 0).body 3 1 = 0 ∧ fieldNat (arm 1).body 3 1 = 1
    ∧ (s.armOf (cmdSpace stop)).isSome = true ∧ fieldNat resume.body 16 8 = 0
    ∧ ((started resume).targets ⟨1, 0⟩ 0).isEmpty = true ∧ (held.targets ⟨1, 0⟩ 0).isEmpty = false := by decide +kernel

theorem test_hyps_DebugCommands_traces :
    let trace := cmd .debug 0x23#8 (leBytes 4 1 ++ leBytes 12 10 ++ leBytes 8 0x10000 ++ leBytes 8 8192 ++ List.replicate 64 0#8)
    let count := cmd .debug 0x24#8 (leBytes 8 0x10001 ++ leBytes 8 0x10000)
    let replay := fun (mode : Nat) => cmd .debug 0x25#8 (leBytes 2 1 ++ leBytes 2 mode ++ leBytes 4 1000 ++ leBytes 20 0)
    let into := fun (area : Nat) => cmd .debug 0x25#8 (leBytes 2 1 ++ leBytes 2 1 ++ leBytes 8 1000 ++ leBytes 8 area ++ leBytes 8 65536)
    let area := fun (c : Cmd) => (started c).areaIn 1 (BitVec.ofNat 64 (fieldNat c.body 12 8)) (fieldNat c.body 20 8)
    let p : Pmc := ⟨1, List.replicate 32 0#16, List.replicate 32 0#64⟩
    let s : State := { started count with pmcs := [p] }
    ([trace, count, replay 0, replay 1, into 0x10000, into 0x70000].all opens) = true ∧ traceRange trace.body = true
    ∧ area (into 0x10000) = some (.inr ⟨1, 0⟩) ∧ area (into 0x70000) = none
    ∧ (started trace).reachAll ⟨1, 0⟩ 0x10000#64 8192 = none ∧ (started trace).reachAll ⟨1, 0⟩ 0x70000#64 8192 = some (.inl .xlateFault)
    ∧ (started trace).reachAll ⟨1, 0⟩ 0x60000#64 8192 = some (.inr 0x60000)
    ∧ (((chunks 2 32 (trace.body.drop 0x20)).map fun x => BitVec.ofNat 16 (leNat x)).all fun x => decide (x.toNat % 64 < 16)) = true
    ∧ (s.pmcs.find? fun p => p.part == fieldNat count.body 0 2) = some p ∧ s.firstTenant 1 = some ⟨1, 0⟩
    ∧ s.writable ⟨1, 0⟩ 0x10000#64 256 = some none
    ∧ ((started (replay 0)).partOf (fieldNat (replay 0).body 0 2)).isSome = true ∧ fieldNat (replay 0).body 4 4 ≤ 1000
    ∧ fieldNat (replay 0).body 2 1 = 0 ∧ fieldNat (replay 1).body 2 1 = 1 := by decide +kernel

end Sys2Proof.Tests
end

section
/-! The results of the integer forms of the scalar slots (R141 to R143). A result is stated as an integer modulo 2^64: the shapes
`scalarOne` and `scalarTwo` give `State.scalarNext` as soon as the word that an operation computes is the word of that integer. -/

namespace Sys2Proof.Machine

/-! ### Words as integers modulo 2^w -/

theorem ofInt_toNat {w : Nat} (a : BitVec w) : BitVec.ofInt w a.toNat = a := by
  rw [BitVec.ofInt_natCast, BitVec.ofNat_toNat, BitVec.setWidth_eq]

theorem eq_ofInt_of_toNat {w n : Nat} {a : BitVec w} (h : a.toNat = n) : a = BitVec.ofInt w n := by
  rw [← h, ofInt_toNat]

theorem add_eq_ofInt {w : Nat} (a b : BitVec w) : a + b = BitVec.ofInt w (a.toNat + b.toNat) := by
  rw [BitVec.ofInt_add, ofInt_toNat, ofInt_toNat]

theorem sub_eq_ofInt {w : Nat} (a b : BitVec w) : a - b = BitVec.ofInt w (a.toNat - b.toNat) := by
  rw [Int.sub_eq_add_neg, BitVec.ofInt_add, BitVec.ofInt_neg, ofInt_toNat, ofInt_toNat, BitVec.sub_eq_add_neg]

theorem mul_eq_ofInt {w : Nat} (a b : BitVec w) : a * b = BitVec.ofInt w (a.toNat * b.toNat) := by
  rw [BitVec.ofInt_mul, ofInt_toNat, ofInt_toNat]

theorem signExtend_eq_ofInt {w v : Nat} (imm : BitVec w) (h : w ≤ v) : imm.signExtend v = BitVec.ofInt v imm.toInt := by
  rw [← BitVec.toInt_signExtend_of_le h, BitVec.ofInt_toInt]

theorem add_signExtend_eq_ofInt {w v : Nat} (a : BitVec v) (imm : BitVec w) (h : w ≤ v) :
    a + imm.signExtend v = BitVec.ofInt v (a.toNat + imm.toInt) := by
  rw [BitVec.ofInt_add, ofInt_toNat, signExtend_eq_ofInt imm h]

theorem shiftLeft_eq_ofInt {w : Nat} (a : BitVec w) (n : Nat) : a <<< n = BitVec.ofInt w (a.toNat * 2 ^ n) := by
  have h : a <<< n = BitVec.ofNat w (a.toNat * 2 ^ n) :=
    BitVec.eq_of_toNat_eq (by rw [BitVec.toNat_shiftLeft, BitVec.toNat_ofNat, Nat.shiftLeft_eq])
  rw [h, ← BitVec.ofInt_natCast, Nat.cast_mul, Nat.cast_pow, Nat.cast_ofNat]

theorem shiftLeft_add_eq_ofInt {w : Nat} (a b : BitVec w) (n : Nat) :
    a <<< n + b = BitVec.ofInt w (a.toNat * 2 ^ n + b.toNat) := by
  rw [BitVec.ofInt_add, ← shiftLeft_eq_ofInt, ofInt_toNat]

theorem ushiftRight_eq_ofInt {w : Nat} (a : BitVec w) (n : Nat) : a >>> n = BitVec.ofInt w (a.toNat / 2 ^ n) :=
  eq_ofInt_of_toNat (by rw [BitVec.toNat_ushiftRight, Nat.shiftRight_eq_div_pow])

theorem sshiftRight_eq_ofInt {w : Nat} (a : BitVec w) (n : Nat) :
    a.sshiftRight n = BitVec.ofInt w (a.toInt / 2 ^ n) := by
  rw [← BitVec.ofInt_toInt (x := a.sshiftRight n), BitVec.toInt_sshiftRight, Int.shiftRight_eq_div_pow, Nat.cast_pow,
    Nat.cast_ofNat]

/-! ### The high halves of products (R141) -/

/-- The low half, discarded by the quotient, and the multiple of 2^128 by which the signed and the unsigned value of `p` differ leave
no trace in the high half modulo 2^64. -/
theorem extractHigh_eq_ofInt (p : BitVec 128) : p.extractLsb' 64 64 = BitVec.ofInt 64 (p.toInt / 2 ^ 64) := by
  have hsigned := BitVec.toInt_eq_toNat_cond p
  apply BitVec.eq_of_toNat_eq
  rw [BitVec.extractLsb'_toNat, BitVec.toNat_ofInt, Nat.shiftRight_eq_div_pow]
  split at hsigned <;> omega

/-- A product of two signed words lies between -2^126 and 2^126, so 128 bits hold it. -/
theorem toInt_signExtend_mul (a b : Word) : (a.signExtend 128 * b.signExtend 128).toInt = a.toInt * b.toInt := by
  have hle := BitVec.toInt_mul_toInt_le (x := a) (y := b)
  have hge := BitVec.le_toInt_mul_toInt (x := a) (y := b)
  rw [BitVec.toInt_mul, BitVec.toInt_signExtend_of_le (by decide), BitVec.toInt_signExtend_of_le (by decide)]
  exact Int.bmod_eq_of_le (by omega) (by omega)

theorem mulHigh_eq_ofInt (a b : Word) :
    (a.signExtend 128 * b.signExtend 128).extractLsb' 64 64 = BitVec.ofInt 64 (a.toInt * b.toInt / 2 ^ 64) := by
  rw [extractHigh_eq_ofInt, toInt_signExtend_mul]

theorem mulHighUnsigned_eq_ofInt (a b : Word) :
    BitVec.ofNat 64 (a.toNat * b.toNat / 2 ^ 64) = BitVec.ofInt 64 (a.toNat * b.toNat / 2 ^ 64) := by
  rw [← BitVec.ofInt_natCast]
  norm_cast

/-! ### Choices between two words (R141) -/

theorem andNot_toNat {w : Nat} (a b : BitVec w) : (a &&& ~~~b).toNat = a.toNat &&& (2 ^ w - 1 - b.toNat) := by
  rw [BitVec.toNat_and, BitVec.toNat_not]

theorem lesserSigned_eq_ofInt (a b : Word) :
    (if a.toInt < b.toInt then a else b) = BitVec.ofInt 64 (min a.toInt b.toInt) := by
  split
  · rw [min_eq_left (by omega), BitVec.ofInt_toInt]
  · rw [min_eq_right (by omega), BitVec.ofInt_toInt]

theorem greaterSigned_eq_ofInt (a b : Word) :
    (if a.toInt < b.toInt then b else a) = BitVec.ofInt 64 (max a.toInt b.toInt) := by
  split
  · rw [max_eq_right (by omega), BitVec.ofInt_toInt]
  · rw [max_eq_left (by omega), BitVec.ofInt_toInt]

theorem lesser_toNat (a b : Word) : (if a < b then a else b).toNat = min a.toNat b.toNat := by
  split <;> bv_omega

theorem greater_toNat (a b : Word) : (if a < b then b else a).toNat = max a.toNat b.toNat := by
  split <;> bv_omega

theorem chosen_eq_ofInt (c : Bool) (a b : Word) :
    (if c then a else b) = BitVec.ofInt 64 (if c then (a.toNat : Int) else b.toNat) := by
  split <;> rw [ofInt_toNat]

/-! ### Bit fields and counts of bits (R141) -/

/-- Dropping the bits above HI before or after those below LO gives the same field. -/
theorem extractBits_toNat (a : Word) {hi lo : BitVec 6} (h : lo.toNat ≤ hi.toNat) :
    (extractBits a hi lo).toNat = a.toNat % 2 ^ (hi.toNat + 1) / 2 ^ lo.toNat := by
  have hwidth : hi.toNat + 1 = lo.toNat + (hi.toNat - lo.toNat + 1) := by omega
  have hlt : a.toNat / 2 ^ lo.toNat % 2 ^ (hi.toNat - lo.toNat + 1) < 2 ^ 64 :=
    (Nat.mod_le _ _).trans_lt ((Nat.div_le_self _ _).trans_lt a.isLt)
  rw [extractBits, BitVec.toNat_ofNat, Nat.mod_eq_of_lt hlt, hwidth, Nat.pow_add _ lo.toNat, Nat.mod_mul_right_div_self]

theorem popNat_eq_count (x n : Nat) : popNat x n = ((List.range n).filter fun i => x.testBit i).length := by
  induction n with
  | zero => rfl
  | succ n ih =>
    rw [popNat, ih, List.range_succ, List.filter_append, List.length_append]
    cases h : x.testBit n <;> simp [h]

theorem popWord_eq_ofInt (a : Word) :
    BitVec.ofNat 64 (popNat a.toNat 64) = BitVec.ofInt 64 ((List.range 64).filter fun i => a.getLsbD i).length := by
  rw [BitVec.ofInt_natCast, popNat_eq_count]
  rfl

theorem clzWord_le (a : Word) : clzWord a ≤ 64 := by
  rw [clzWord]
  split <;> omega

theorem log2_toNat_lt {a : Word} (h : a ≠ 0#64) : a.toNat.log2 < 64 :=
  (Nat.log2_lt (BitVec.toNat_ne.1 h)).2 a.isLt

theorem toNat_lt_two_pow_clzWord (a : Word) : a.toNat < 2 ^ (64 - clzWord a) := by
  rw [clzWord]
  split
  next h => simp [h]
  next h =>
    have hlog := log2_toNat_lt h
    rw [show 64 - (63 - a.toNat.log2) = a.toNat.log2 + 1 by omega]
    exact Nat.lt_log2_self

theorem two_pow_clzWord_le_toNat (a : Word) (h : clzWord a < 64) : 2 ^ (63 - clzWord a) ≤ a.toNat := by
  have hne : a ≠ 0#64 := fun h0 => by simp [clzWord, h0] at h
  have hlog := log2_toNat_lt hne
  rw [clzWord, if_neg hne, show 63 - (63 - a.toNat.log2) = a.toNat.log2 by omega]
  exact Nat.log2_self_le (BitVec.toNat_ne.1 hne)

/-! ### Shifts by a whole count, and the moves of an immediate (R142, R143) -/

theorem shiftLeft64_eq_ofInt (a : Word) (k : Nat) :
    shiftLeft64 a k = BitVec.ofInt 64 (if 64 ≤ k then 0 else a.toNat * 2 ^ k) := by
  rw [shiftLeft64]
  split
  · rfl
  · exact shiftLeft_eq_ofInt a k

theorem shiftRight64_eq_ofInt (a : Word) (k : Nat) :
    shiftRight64 a k = BitVec.ofInt 64 (if 64 ≤ k then 0 else a.toNat / 2 ^ k) := by
  rw [shiftRight64]
  split
  · rfl
  · exact ushiftRight_eq_ofInt a k

/-- Shifted right by 63 a word is its sign in every bit. -/
theorem toInt_div_two_pow_63 (a : Word) : a.toInt / 2 ^ 63 = if a.toInt < 0 then -1 else 0 := by
  have hlt := BitVec.two_mul_toInt_lt (x := a)
  have hge := BitVec.le_two_mul_toInt (x := a)
  split <;> omega

theorem shiftArith64_eq_ofInt (a : Word) (k : Nat) :
    shiftArith64 a k = BitVec.ofInt 64 (if 64 ≤ k then (if a.toInt < 0 then -1 else 0) else a.toInt / 2 ^ k) := by
  rw [shiftArith64, sshiftRight_eq_ofInt]
  split
  · rw [min_eq_right (by omega), toInt_div_two_pow_63]
  · rw [min_eq_left (by omega)]

/-- The two parts that MOVHI joins have no bit in common, so their OR is their sum. -/
theorem shiftLeft_or_eq_ofInt (a : Word) (imm : BitVec 28) :
    a <<< 28 ||| imm.setWidth 64 = BitVec.ofInt 64 (a.toNat * 2 ^ 28 + imm.toNat) := by
  have hdisjoint : a <<< 28 &&& imm.setWidth 64 = 0#64 := by
    ext i hi
    rw [BitVec.getElem_and, BitVec.getElem_shiftLeft, BitVec.getElem_setWidth, BitVec.getElem_zero]
    by_cases h : i < 28
    · simp [h]
    · simp [BitVec.getLsbD_of_ge imm i (by omega)]
  rw [← BitVec.add_eq_or_of_and_eq_zero _ _ hdisjoint, BitVec.ofInt_add, ← shiftLeft_eq_ofInt, BitVec.ofInt_natCast,
    BitVec.ofNat_toNat]

/-! ### The shapes of a scalar operation -/

section
variable {u : Bool} {g : Guard} {lat : Nat} {d a b n : BitVec 6} {s : State} {v : Int}

theorem scalarTwo_next {f : Word → Word → Word} (hg : s.core.ctx.guardBit g = true)
    (hf : f (s.core.ctx.getS a) (s.core.ctx.getS b) = BitVec.ofInt 64 v) :
    scalarTwo u g lat d a b f s = s.scalarNext u lat d v := by
  rw [scalarTwo, guarded_true hg, State.scalarNext, ← hf]
  rfl

theorem scalarOne_next {f : Word → Word} (hg : s.core.ctx.guardBit g = true)
    (hf : f (s.core.ctx.getS a) = BitVec.ofInt 64 v) : scalarOne u g d a f s = s.scalarNext u 1 d v := by
  rw [scalarOne, guarded_true hg, State.scalarNext, ← hf]
  rfl

/-! ### Which shape each operation has -/

theorem exec_add : exec (.add u g d a b) s = scalarTwo u g 1 d a b (fun a b => a + b) s := rfl

theorem exec_sub : exec (.sub u g d a b) s = scalarTwo u g 1 d a b (fun a b => a - b) s := rfl

theorem exec_addi (imm : BitVec 22) :
    exec (.addi u g d a imm) s = scalarOne u g d a (fun a => a + imm.signExtend 64) s := rfl

theorem exec_mul : exec (.mul u g d a b) s = scalarTwo u g 3 d a b (fun a b => a * b) s := rfl

theorem exec_mulh : exec (.mulh u g d a b) s
    = scalarTwo u g 3 d a b (fun a b => (a.signExtend 128 * b.signExtend 128).extractLsb' 64 64) s := rfl

theorem exec_mulhu : exec (.mulhu u g d a b) s
    = scalarTwo u g 3 d a b (fun a b => BitVec.ofNat 64 (a.toNat * b.toNat / 2 ^ 64)) s := rfl

theorem exec_and : exec (.and u g d a b) s = scalarTwo u g 1 d a b (fun a b => a &&& b) s := rfl

theorem exec_or : exec (.or u g d a b) s = scalarTwo u g 1 d a b (fun a b => a ||| b) s := rfl

theorem exec_xor : exec (.xor u g d a b) s = scalarTwo u g 1 d a b (fun a b => a ^^^ b) s := rfl

theorem exec_andn : exec (.andn u g d a b) s = scalarTwo u g 1 d a b (fun a b => a &&& ~~~b) s := rfl

theorem exec_min : exec (.min u g d a b) s
    = scalarTwo u g 1 d a b (fun a b => if a.toInt < b.toInt then a else b) s := rfl

theorem exec_max : exec (.max u g d a b) s
    = scalarTwo u g 1 d a b (fun a b => if a.toInt < b.toInt then b else a) s := rfl

theorem exec_minu : exec (.minu u g d a b) s = scalarTwo u g 1 d a b (fun a b => if a < b then a else b) s := rfl

theorem exec_maxu : exec (.maxu u g d a b) s = scalarTwo u g 1 d a b (fun a b => if a < b then b else a) s := rfl

theorem exec_shadd (sh : BitVec 3) :
    exec (.shadd u g d a b sh) s = scalarTwo u g 1 d a b (fun a b => a <<< sh.toNat + b) s := rfl

/-- SEL has the shape of an operation on two sources: its predicate is read at issue as they are. -/
theorem exec_sel (ps : BitVec 5) : exec (.sel u g d a b ps) s
    = scalarTwo u g 1 d a b (fun a b => if (s.core.ctx.getP ps).getLsbD 0 then a else b) s := rfl

theorem exec_extu (hi lo : BitVec 6) :
    exec (.extu u g d a hi lo) s = scalarOne u g d a (fun a => extractBits a hi lo) s := rfl

theorem exec_clz : exec (.clz u g d a) s = scalarOne u g d a (fun a => BitVec.ofNat 64 (clzWord a)) s := rfl

theorem exec_popc : exec (.popc u g d a) s = scalarOne u g d a (fun a => BitVec.ofNat 64 (popNat a.toNat 64)) s := rfl

theorem exec_shl : exec (.shl u g d a b) s = scalarTwo u g 1 d a b (fun a b => shiftLeft64 a b.toNat) s := rfl

theorem exec_shr : exec (.shr u g d a b) s = scalarTwo u g 1 d a b (fun a b => shiftRight64 a b.toNat) s := rfl

theorem exec_sar : exec (.sar u g d a b) s = scalarTwo u g 1 d a b (fun a b => shiftArith64 a b.toNat) s := rfl

theorem exec_shli : exec (.shli u g d a n) s = scalarOne u g d a (fun a => shiftLeft64 a n.toNat) s := rfl

theorem exec_shri : exec (.shri u g d a n) s = scalarOne u g d a (fun a => shiftRight64 a n.toNat) s := rfl

theorem exec_sari : exec (.sari u g d a n) s = scalarOne u g d a (fun a => shiftArith64 a n.toNat) s := rfl

/-- MOVI has the shape of an operation on one source whose value it does not use. -/
theorem exec_movi (imm : BitVec 28) : exec (.movi u g d imm) s = scalarOne u g d d (fun _ => imm.signExtend 64) s := rfl

theorem exec_movhi (imm : BitVec 28) :
    exec (.movhi u g d imm) s = scalarOne u g d d (fun a => a <<< 28 ||| imm.setWidth 64) s := rfl

end

/-! ### The statements -/

/-- Settles O1: each form has one of the two shapes, and the word it computes is that of the integer in the table of R141. -/
theorem scalarIntegerResults : Obligations.ScalarIntegerResults := by
  intro s u g d a b hg A B
  exact ⟨exec_add.trans (scalarTwo_next hg (add_eq_ofInt A B)),
    exec_sub.trans (scalarTwo_next hg (sub_eq_ofInt A B)),
    fun imm => (exec_addi imm).trans (scalarOne_next hg (add_signExtend_eq_ofInt A imm (by decide))),
    exec_mul.trans (scalarTwo_next hg (mul_eq_ofInt A B)),
    exec_mulh.trans (scalarTwo_next hg (mulHigh_eq_ofInt A B)),
    exec_mulhu.trans (scalarTwo_next hg (mulHighUnsigned_eq_ofInt A B)),
    exec_and.trans (scalarTwo_next hg (eq_ofInt_of_toNat (BitVec.toNat_and A B))),
    exec_or.trans (scalarTwo_next hg (eq_ofInt_of_toNat (BitVec.toNat_or A B))),
    exec_xor.trans (scalarTwo_next hg (eq_ofInt_of_toNat (BitVec.toNat_xor A B))),
    exec_andn.trans (scalarTwo_next hg (eq_ofInt_of_toNat (andNot_toNat A B))),
    exec_min.trans (scalarTwo_next hg (lesserSigned_eq_ofInt A B)),
    exec_max.trans (scalarTwo_next hg (greaterSigned_eq_ofInt A B)),
    exec_minu.trans (scalarTwo_next hg (eq_ofInt_of_toNat (lesser_toNat A B))),
    exec_maxu.trans (scalarTwo_next hg (eq_ofInt_of_toNat (greater_toNat A B))),
    fun sh => (exec_shadd sh).trans (scalarTwo_next hg (shiftLeft_add_eq_ofInt A B sh.toNat)),
    fun ps => (exec_sel ps).trans (scalarTwo_next hg (chosen_eq_ofInt _ A B)),
    fun hi lo h => (exec_extu hi lo).trans (scalarOne_next hg (eq_ofInt_of_toNat (extractBits_toNat A h))),
    ⟨clzWord A, clzWord_le A, toNat_lt_two_pow_clzWord A, two_pow_clzWord_le_toNat A,
      exec_clz.trans (scalarOne_next hg (BitVec.ofInt_natCast 64 _).symm)⟩,
    exec_popc.trans (scalarOne_next hg (popWord_eq_ofInt A))⟩

/-- Settles O2: the register and the immediate forms share their shift, and six bits of an immediate never reach a count of 64. -/
theorem shiftsAndMoves : Obligations.ShiftsAndMoves := by
  intro s u g d a b n imm hg A k
  have hn : ¬ 64 ≤ n.toNat := by omega
  exact ⟨exec_shl.trans (scalarTwo_next hg (shiftLeft64_eq_ofInt A k)),
    exec_shr.trans (scalarTwo_next hg (shiftRight64_eq_ofInt A k)),
    exec_sar.trans (scalarTwo_next hg (shiftArith64_eq_ofInt A k)),
    exec_shli.trans (scalarOne_next hg (by rw [shiftLeft64_eq_ofInt, if_neg hn])),
    exec_shri.trans (scalarOne_next hg (by rw [shiftRight64_eq_ofInt, if_neg hn])),
    exec_sari.trans (scalarOne_next hg (by rw [shiftArith64_eq_ofInt, if_neg hn])),
    (exec_movi imm).trans (scalarOne_next hg (signExtend_eq_ofInt imm (by decide))),
    (exec_movhi imm).trans (scalarOne_next hg (shiftLeft_or_eq_ofInt _ imm))⟩

end Sys2Proof.Machine
end

section
/-! A word that decodes to an operation is that operation's word (R24 to R43). A decoder reads fields that do not overlap and checks
that the bits between them are zero, so the word is the sum of its fields, and that sum is what the encoder builds. -/

namespace Sys2Proof.Laws.Coding

/-! ### A word as the sum of its fields -/

/-- The value of the `n` bits from bit `lo` up. -/
def piece (w : BitVec 48) (lo n : Nat) : Nat := w.toNat / 2 ^ lo % 2 ^ n

/-- The pieces of a word, each at its place, as one number. -/
def pieceSum (w : BitVec 48) : List (Nat × Nat) → Nat
  | [] => 0
  | (lo, n) :: t => piece w lo n * 2 ^ lo + pieceSum w t

/-- Below bit `top` the pieces come from high to low without an overlap, and every bit outside them is zero. -/
def Tiled (w : BitVec 48) : Nat → List (Nat × Nat) → Prop
  | top, [] => piece w 0 top = 0
  | top, (lo, n) :: t => lo + n ≤ top ∧ piece w (lo + n) (top - (lo + n)) = 0 ∧ Tiled w lo t

/-- The bits below `a + b` are those from bit `a` up and those below `a`. -/
theorem mod_two_pow_add (x a b : Nat) : x % 2 ^ (a + b) = x / 2 ^ a % 2 ^ b * 2 ^ a + x % 2 ^ a := by
  rw [pow_add, Nat.mod_mul, Nat.add_comm, Nat.mul_comm]

theorem Tiled.mod_eq_pieceSum {w : BitVec 48} {l : List (Nat × Nat)} :
    ∀ {top : Nat}, Tiled w top l → w.toNat % 2 ^ top = pieceSum w l := by
  induction l with
  | nil =>
    intro top h
    simpa [piece, pieceSum, Tiled] using h
  | cons f t ih =>
    obtain ⟨lo, n⟩ := f
    intro top h
    obtain ⟨hle, hgap, ht⟩ := h
    obtain ⟨d, rfl⟩ := Nat.exists_eq_add_of_le hle
    rw [Nat.add_sub_cancel_left, piece] at hgap
    rw [mod_two_pow_add, hgap, Nat.zero_mul, Nat.zero_add, mod_two_pow_add, ih ht, pieceSum, piece]

@[simp] theorem piece_zero_bits (w : BitVec 48) (lo : Nat) : piece w lo 0 = 0 := by rw [piece, pow_zero, Nat.mod_one]

theorem zeroAt_iff (w : BitVec 48) (lo n : Nat) : zeroAt w lo n = true ↔ piece w lo n = 0 := decide_eq_true_iff

theorem fld_toNat (w : BitVec 48) (lo n : Nat) : (fld w lo n).toNat = piece w lo n := BitVec.toNat_ofNat ..

theorem piece_of_fld {w : BitVec 48} {lo n : Nat} {c : BitVec n} (h : fld w lo n = c) : piece w lo n = c.toNat := by
  rw [← h, fld_toNat]

theorem flagCode_bitAt (w : BitVec 48) (lo : Nat) : flagCode (bitAt w lo) = piece w lo 1 := by
  rw [bitAt, flagCode, piece, pow_one]
  rcases Nat.mod_two_eq_zero_or_one (w.toNat / 2 ^ lo) with h | h <;> simp [h]

theorem guardOf_p (w : BitVec 48) : (guardOf w).p.toNat = piece w 35 5 := fld_toNat w 35 5

theorem guardOf_n (w : BitVec 48) : flagCode (guardOf w).n = piece w 34 1 := flagCode_bitAt w 34

/-- A word with the operand pieces `T` and zeros between them is what the encoder builds from its opcode, its guard and those pieces. -/
theorem slotBits_of_tiled {w : BitVec 48} {opc : Nat} {l T : List (Nat × Nat)} (ho : (fld w 40 8).toNat = opc)
    (hT : Tiled w 34 T) (hl : fieldSum l = pieceSum w T) : slotBits opc (guardOf w) l = w := by
  have hw : Tiled w 48 ((40, 8) :: (35, 5) :: (34, 1) :: T) :=
    ⟨by decide, piece_zero_bits .., by decide, piece_zero_bits .., by decide, piece_zero_bits .., hT⟩
  have h := hw.mod_eq_pieceSum
  rw [Nat.mod_eq_of_lt w.isLt] at h
  have hs : fieldSum ((opc, 40) :: ((guardOf w).p.toNat, 35) :: (flagCode (guardOf w).n, 34) :: l) = w.toNat := by
    rw [h, ← ho, fld_toNat]
    simp only [fieldSum, pieceSum, guardOf_p, guardOf_n, hl]
  rw [slotBits, hs, BitVec.ofNat_toNat, BitVec.setWidth_eq]

/-! ### Codes read back -/

theorem vtypeCode_of (c : BitVec 2) : vtypeCode (vtypeOf c) = c.toNat := by revert c; decide
theorem widthCode_of (c : BitVec 2) : widthCode (widthOf c) = c.toNat := by revert c; decide
theorem roundCode_of (c : BitVec 2) : roundCode (roundOf c) = c.toNat := by revert c; decide
theorem elemCode_of {c : BitVec 4} {f : ElemFmt} (h : elemOf c = some f) : elemCode f = c.toNat := by revert c f; decide
theorem drainCode_of {c : BitVec 3} {f : DrainFmt} (h : drainOf c = some f) : drainCode f = c.toNat := by revert c f; decide
theorem scaleCode_of {c : BitVec 2} {f : ScaleMode} (h : scaleOf c = some f) : scaleCode f = c.toNat := by revert c f; decide
theorem fenceCode_of {c : BitVec 2} {f : FenceKind} (h : fenceOf c = some f) : fenceCode f = c.toNat := by revert c f; decide
theorem wideCode_of {c : BitVec 2} {b : Bool} (h : wideOf c = some b) : wideCode b = c.toNat := by revert c b; decide
theorem pushCode_of {c : BitVec 12} {p : Option (BitVec 2 × BitVec 9)} (h : pushOf c = some p) : pushCode p = c.toNat := by
  have hc := c.isLt
  simp only [pushOf] at h
  split at h
  · cases h
    simp only [pushCode, BitVec.toNat_ofNat]
    omega
  · split at h <;> cases h
    simp only [pushCode]
    omega

/-! ### What a slot decoder accepts -/

/-- Whatever the decoder of slot `k` accepts is well formed, belongs in that slot and has the word `w`. -/
def Sound (k : Slot) (w : BitVec 48) (r : Except DecodeError Instr) : Prop :=
  ∀ i, r = .ok i → WellFormed i ∧ i.slot = some k ∧ encode i = some w

theorem sound_error {k : Slot} {w : BitVec 48} {e : DecodeError} : Sound k w (.error e) := fun _ h => nomatch h

theorem sound_needPriv {k : Slot} {w : BitVec 48} {needs priv : Bool} {r : Except DecodeError Instr} (h : Sound k w r) :
    Sound k w (needPriv needs priv r) := by
  rw [needPriv]
  split
  · exact sound_error
  · exact h

theorem sound_coded {α : Type} {k : Slot} {w : BitVec 48} {c : Option α} {f : α → Except DecodeError Instr}
    (h : ∀ x, c = some x → Sound k w (f x)) : Sound k w (coded c f) := by
  cases c with
  | none => exact sound_error
  | some x => exact h x rfl

/-- The scalar slot, SA or SB, that the decoder's flag chooses. -/
def scalarPlace (u : Bool) : Slot := if u then .sb else .sa

/-- The vector slot, VX or VY, that the decoder's flag chooses. -/
def vectorPlace (u : Bool) : Slot := if u then .vy else .vx

/-- An operation whose operands are the pieces `T`, accepted where the bits between them are zero. -/
theorem sound_accept {k : Slot} {w : BitVec 48} {opc : Nat} {z : Bool} {i : Instr} {l : List (Nat × Nat)} (T : List (Nat × Nat))
    (ho : (fld w 40 8).toNat = opc) (he : encode i = some (slotBits opc (guardOf w) l) := by rfl) (hk : i.slot = some k := by rfl)
    (hl : z = true → fieldSum l = pieceSum w T := by
      intro; simp only [fieldSum, pieceSum, fld_toNat, flagCode_bitAt, vtypeCode_of, widthCode_of, roundCode_of])
    (hz : z = true → Tiled w 34 T := by simp +contextual [Tiled, zeroAt_iff]) : Sound k w (accept z i) := by
  intro j hj
  rw [accept] at hj
  split at hj
  · rename_i h
    rw [Bool.and_eq_true] at h
    cases hj
    exact ⟨h.2, hk, he.trans (congrArg some (slotBits_of_tiled ho (hz h.1) (hl h.1)))⟩
  · cases hj

theorem decodeCtl_sound {priv : Bool} {opc : Nat} {w : BitVec 48} (ho : (fld w 40 8).toNat = opc) :
    Sound .ctl w (decodeCtl priv opc w) := by
  unfold decodeCtl
  split
  · exact sound_accept [(10, 24)] ho
  · exact sound_accept [(28, 6)] ho
  · exact sound_accept [(10, 24)] ho
  · exact sound_accept [(28, 6)] ho
  · exact sound_accept [] ho
  · exact sound_accept [(32, 2), (20, 12), (0, 20)] ho
  · exact sound_accept [(32, 2), (20, 12), (14, 6)] ho
  · exact sound_accept [(32, 2)] ho
  · exact sound_accept [(0, 32)] ho
  · exact sound_accept [(0, 16)] ho
  · exact sound_accept [] ho
  · exact sound_accept [] ho
  · exact sound_accept [] ho
  · exact sound_accept [(0, 16)] ho
  · exact sound_accept [] ho
  · exact sound_needPriv (sound_accept [] ho)
  · exact sound_needPriv (sound_accept [] ho)
  · exact sound_error

theorem decodeScalar_sound {u : Bool} {priv : Bool} {opc : Nat} {w : BitVec 48} (ho : (fld w 40 8).toNat = opc) :
    Sound (scalarPlace u) w (decodeScalar u priv opc w) := by
  unfold decodeScalar
  split
  · exact sound_accept [(28, 6), (22, 6), (16, 6)] ho
  · exact sound_accept [(28, 6), (22, 6), (16, 6)] ho
  · exact sound_accept [(28, 6), (22, 6), (0, 22)] ho
  · exact sound_accept [(28, 6), (22, 6), (16, 6)] ho
  · exact sound_accept [(28, 6), (22, 6), (16, 6)] ho
  · exact sound_accept [(28, 6), (22, 6), (16, 6)] ho
  · exact sound_accept [(28, 6), (22, 6), (16, 6)] ho
  · exact sound_accept [(28, 6), (22, 6), (16, 6)] ho
  · exact sound_accept [(28, 6), (22, 6), (16, 6)] ho
  · exact sound_accept [(28, 6), (22, 6), (16, 6)] ho
  · exact sound_accept [(28, 6), (22, 6), (16, 6)] ho
  · exact sound_accept [(28, 6), (22, 6), (16, 6)] ho
  · exact sound_accept [(28, 6), (22, 6), (16, 6)] ho
  · exact sound_accept [(28, 6), (22, 6), (0, 6)] ho
  · exact sound_accept [(28, 6), (22, 6), (0, 6)] ho
  · exact sound_accept [(28, 6), (22, 6), (0, 6)] ho
  · exact sound_accept [(28, 6), (22, 6), (16, 6)] ho
  · exact sound_accept [(28, 6), (22, 6), (16, 6)] ho
  · exact sound_accept [(28, 6), (22, 6), (16, 6)] ho
  · exact sound_accept [(28, 6), (22, 6), (16, 6)] ho
  · exact sound_accept [(28, 6), (22, 6)] ho
  · exact sound_accept [(28, 6), (22, 6)] ho
  · exact sound_accept [(28, 6), (0, 28)] ho
  · exact sound_accept [(28, 6), (0, 28)] ho
  · exact sound_accept [(28, 6), (22, 6), (16, 6), (0, 3)] ho
  · exact sound_accept [(28, 6), (22, 6), (16, 6), (11, 5)] ho
  · exact sound_accept [(28, 6), (22, 6), (6, 6), (0, 6)] ho
  · exact sound_accept [(29, 5), (22, 6), (16, 6)] ho
  · exact sound_accept [(29, 5), (22, 6), (16, 6)] ho
  · exact sound_accept [(29, 5), (22, 6), (16, 6)] ho
  · exact sound_accept [(29, 5), (22, 6), (16, 6)] ho
  · exact sound_accept [(29, 5), (22, 6), (16, 6)] ho
  · exact sound_accept [(29, 5), (22, 6), (16, 6)] ho
  · exact sound_accept [(29, 5), (22, 6), (0, 22)] ho
  · exact sound_accept [(29, 5), (22, 6), (0, 22)] ho
  · exact sound_accept [(29, 5), (24, 5), (19, 5)] ho
  · exact sound_accept [(29, 5), (24, 5), (19, 5)] ho
  · exact sound_accept [(29, 5), (24, 5), (19, 5)] ho
  · exact sound_accept [(29, 5), (24, 5), (19, 5)] ho
  · exact sound_accept [(29, 5), (24, 5)] ho
  · exact sound_accept [(29, 5), (24, 5)] ho
  · exact sound_accept [(29, 5), (22, 6)] ho
  · exact sound_accept [(29, 5), (24, 5), (19, 5)] ho
  · exact sound_accept [(29, 5), (24, 5), (19, 5)] ho
  · exact sound_accept [(28, 6), (22, 6), (16, 6)] ho
  · exact sound_accept [(28, 6), (22, 6), (16, 6)] ho
  · exact sound_accept [(28, 6), (22, 6), (16, 6)] ho
  · exact sound_accept [(28, 6), (22, 6), (16, 6), (10, 6)] ho
  · exact sound_accept [(28, 6), (22, 6), (16, 6)] ho
  · exact sound_accept [(28, 6), (22, 6), (16, 6)] ho
  · exact sound_accept [(29, 5), (22, 6), (16, 6)] ho
  · exact sound_accept [(29, 5), (22, 6), (16, 6)] ho
  · exact sound_accept [(28, 6), (22, 6)] ho
  · exact sound_accept [(28, 6), (22, 6)] ho
  · exact sound_needPriv (sound_accept [(28, 6), (0, 8)] ho)
  · exact sound_needPriv (sound_accept [(22, 6), (0, 8)] ho)
  · exact sound_accept [(29, 5)] ho
  · exact sound_error

theorem decodeVector_sound {u : Bool} {opc : Nat} {w : BitVec 48} (ho : (fld w 40 8).toNat = opc) :
    Sound (vectorPlace u) w (decodeVector u opc w) := by
  unfold decodeVector
  split
  · exact sound_accept [(26, 8), (18, 8), (10, 8), (8, 2)] ho
  · exact sound_accept [(26, 8), (18, 8), (10, 8), (8, 2)] ho
  · exact sound_accept [(26, 8), (18, 8), (10, 8), (8, 2)] ho
  · exact sound_accept [(26, 8), (18, 8), (10, 8), (8, 2), (0, 8)] ho
  · exact sound_accept [(26, 8), (18, 8), (10, 8), (8, 2), (0, 8)] ho
  · exact sound_accept [(26, 8), (18, 8), (10, 8), (8, 2)] ho
  · exact sound_accept [(26, 8), (18, 8), (10, 8), (8, 2)] ho
  · exact sound_accept [(26, 8), (18, 8), (8, 2)] ho
  · exact sound_accept [(26, 8), (18, 8), (8, 2)] ho
  · exact sound_accept [(26, 8), (18, 8), (10, 8), (8, 2)] ho
  · exact sound_accept [(26, 8), (18, 8), (10, 8), (8, 2)] ho
  · exact sound_accept [(26, 8), (18, 8), (10, 8), (8, 2)] ho
  · exact sound_accept [(26, 8), (18, 8), (10, 8), (8, 2)] ho
  · exact sound_accept [(26, 8), (18, 8), (10, 8), (8, 2)] ho
  · exact sound_accept [(26, 8), (18, 8), (10, 8), (8, 2)] ho
  · exact sound_accept [(29, 5), (18, 8), (10, 8), (8, 2)] ho
  · exact sound_accept [(29, 5), (18, 8), (10, 8), (8, 2)] ho
  · exact sound_accept [(29, 5), (18, 8), (10, 8), (8, 2)] ho
  · exact sound_accept [(26, 8), (18, 8), (10, 8), (8, 2), (3, 5)] ho
  · exact sound_accept [(26, 8), (18, 8), (8, 2)] ho
  · exact sound_accept [(26, 8), (8, 2), (0, 6)] ho
  · exact sound_accept [(26, 8), (8, 2)] ho
  · exact sound_accept [(26, 8), (18, 8), (8, 2), (0, 6)] ho
  · exact sound_accept [(26, 8), (18, 8), (10, 8), (8, 2), (0, 6)] ho
  · exact sound_accept [(26, 8), (18, 8), (10, 8), (8, 2)] ho
  · exact sound_accept [(28, 6), (18, 8), (12, 6), (8, 2)] ho
  · exact sound_accept [(26, 8), (20, 6), (12, 6), (8, 2)] ho
  · exact sound_accept [(26, 8), (18, 8), (8, 2)] ho
  · exact sound_accept [(26, 8), (18, 8), (8, 2)] ho
  · exact sound_accept [(26, 8), (18, 8), (8, 2)] ho
  · exact sound_accept [(26, 8), (18, 8), (8, 2)] ho
  · exact sound_accept [(26, 8), (18, 8), (8, 2), (6, 2)] ho
  · exact sound_accept [(26, 8), (18, 8), (10, 8), (8, 2), (6, 2)] ho
  · exact sound_accept [(26, 8), (18, 8), (8, 2), (6, 2), (5, 1)] ho
  · exact sound_accept [(26, 8), (18, 8), (8, 2)] ho
  · exact sound_accept [(26, 8), (18, 8), (8, 2)] ho
  · exact sound_accept [(26, 8), (18, 8), (8, 2)] ho
  · exact sound_accept [(26, 8), (18, 8), (8, 2)] ho
  · exact sound_accept [(26, 8), (18, 8), (8, 2)] ho
  · exact sound_accept [(26, 8), (18, 8), (8, 2)] ho
  · exact sound_accept [(26, 8), (18, 8), (8, 2)] ho
  · exact sound_accept [(26, 8), (18, 8), (8, 2)] ho
  · exact sound_error

theorem decodeMatrix_sound {opc : Nat} {w : BitVec 48} (ho : (fld w 40 8).toNat = opc) :
    Sound .mx w (decodeMatrix opc w) := by
  unfold decodeMatrix
  split
  · exact sound_accept [(20, 2), (4, 9)] ho
  · exact sound_accept [] ho
  · exact sound_accept [(0, 9)] ho
  · exact sound_coded fun _ h0 => sound_coded fun _ h1 => sound_accept [(22, 12), (20, 2), (16, 4), (4, 12)] ho
      (hl := by intro; simp only [fieldSum, pieceSum, fld_toNat, elemCode_of h0, pushCode_of h1])
  · exact sound_coded fun _ h0 => sound_coded fun _ h1 => sound_accept [(22, 12), (20, 2), (16, 4), (4, 12)] ho
      (hl := by intro; simp only [fieldSum, pieceSum, fld_toNat, elemCode_of h0, pushCode_of h1])
  · exact sound_coded fun _ h => sound_accept [(22, 12), (20, 2), (4, 12)] ho
      (hl := by intro; simp only [fieldSum, pieceSum, fld_toNat, pushCode_of h])
  · exact sound_coded fun _ h => sound_accept [(22, 12), (19, 3), (13, 6), (0, 13)] ho
      (hl := by intro; simp only [fieldSum, pieceSum, fld_toNat, drainCode_of h])
  · exact sound_coded fun _ h => sound_accept [(22, 12), (19, 3), (13, 6), (0, 13)] ho
      (hl := by intro; simp only [fieldSum, pieceSum, fld_toNat, drainCode_of h])
  · exact sound_accept [(22, 12)] ho
  · exact sound_error

theorem decodeScratch_sound {opc : Nat} {w : BitVec 48} (ho : (fld w 40 8).toNat = opc) :
    Sound .ls w (decodeScratch opc w) := by
  unfold decodeScratch
  split
  · exact sound_accept [(26, 8), (22, 4), (0, 22)] ho
  · exact sound_accept [(26, 8), (22, 4), (0, 22)] ho
  · exact sound_accept [(28, 6), (26, 2), (22, 4), (0, 22)] ho
  · exact sound_accept [(28, 6), (26, 2), (22, 4), (0, 22)] ho
  · exact sound_accept [(26, 8), (18, 8), (14, 4), (12, 2), (0, 12)] ho
  · exact sound_accept [(26, 8), (18, 8), (14, 4), (12, 2), (0, 12)] ho
  · exact sound_accept [(26, 8), (22, 4), (0, 22)] ho
  · exact sound_coded fun _ h => sound_accept [(28, 6), (22, 6), (10, 6), (8, 2), (0, 8)] ho
      (hl := by intro; simp only [fieldSum, pieceSum, fld_toNat, wideCode_of h])
  · exact sound_coded fun _ h => sound_accept [(28, 6), (22, 6), (10, 6), (8, 2), (0, 8)] ho
      (hl := by intro; simp only [fieldSum, pieceSum, fld_toNat, wideCode_of h])
  · exact sound_coded fun _ h => sound_accept [(28, 6), (22, 6), (10, 6), (8, 2), (0, 8)] ho
      (hl := by intro; simp only [fieldSum, pieceSum, fld_toNat, wideCode_of h])
  · exact sound_coded fun _ h => sound_accept [(28, 6), (22, 6), (10, 6), (8, 2), (0, 8)] ho
      (hl := by intro; simp only [fieldSum, pieceSum, fld_toNat, wideCode_of h])
  · exact sound_coded fun _ h => sound_accept [(28, 6), (22, 6), (10, 6), (8, 2), (0, 8)] ho
      (hl := by intro; simp only [fieldSum, pieceSum, fld_toNat, wideCode_of h])
  · exact sound_coded fun _ h => sound_accept [(28, 6), (22, 6), (10, 6), (8, 2), (0, 8)] ho
      (hl := by intro; simp only [fieldSum, pieceSum, fld_toNat, wideCode_of h])
  · exact sound_coded fun _ h => sound_accept [(28, 6), (22, 6), (16, 6), (10, 6), (8, 2), (0, 8)] ho
      (hl := by intro; simp only [fieldSum, pieceSum, fld_toNat, wideCode_of h])
  · exact sound_accept [(28, 6), (22, 6), (10, 6), (8, 2), (0, 8)] ho
      (hl := fun hz => by
        simp only [Bool.and_eq_true, beq_iff_eq] at hz
        simp only [fieldSum, pieceSum, fld_toNat, piece_of_fld hz.2, BitVec.reduceToNat]
        omega)
  · exact sound_error

theorem decodeEngine_sound {priv : Bool} {opc : Nat} {w : BitVec 48} (ho : (fld w 40 8).toNat = opc) :
    Sound .eq w (decodeEngine priv opc w) := by
  unfold decodeEngine
  split
  · exact sound_accept [(28, 6), (22, 6), (20, 2), (16, 4), (15, 1), (2, 12)] ho
  · exact sound_accept [(26, 8), (20, 6), (16, 4), (15, 1), (2, 12)] ho
  · exact sound_accept [(28, 6), (22, 6), (20, 2), (16, 4), (14, 1)] ho
  · exact sound_accept [(26, 8), (20, 6), (16, 4), (14, 1)] ho
  · exact sound_accept [(31, 3), (25, 6), (19, 6), (13, 6), (9, 4), (5, 4)] ho
  · exact sound_accept [(31, 3), (25, 6), (19, 6), (13, 6), (9, 4), (5, 4)] ho
  · exact sound_accept [(31, 3), (25, 6), (19, 6), (13, 6), (9, 4), (5, 4)] ho
  · exact sound_accept [(31, 3), (19, 6), (5, 4)] ho
  · exact sound_accept [(8, 8)] ho
  · exact sound_coded fun _ h => sound_accept [(32, 2), (16, 16)] ho
      (hl := by intro; simp only [fieldSum, pieceSum, fld_toNat, fenceCode_of h])
  · exact sound_coded fun _ h => sound_accept [(28, 6), (22, 6), (20, 2), (16, 4), (15, 1), (14, 1), (2, 12)] ho
      (hl := by intro; simp only [fieldSum, pieceSum, fld_toNat, flagCode_bitAt, wideCode_of h])
  · exact sound_accept [(28, 6), (22, 6), (20, 2), (16, 4), (15, 1), (14, 1), (2, 12)] ho
      (hl := fun hz => by
        simp only [Bool.and_eq_true, beq_iff_eq] at hz
        simp only [fieldSum, pieceSum, fld_toNat, flagCode_bitAt, piece_of_fld hz.2, BitVec.reduceToNat]
        omega)
  · exact sound_coded fun _ h => sound_accept [(28, 6), (22, 6), (20, 2), (16, 4), (15, 1), (14, 1), (2, 12)] ho
      (hl := by intro; simp only [fieldSum, pieceSum, fld_toNat, flagCode_bitAt, wideCode_of h])
  · exact sound_coded fun _ h => sound_accept [(28, 6), (22, 6), (20, 2), (16, 4), (15, 1), (14, 1), (2, 12)] ho
      (hl := by intro; simp only [fieldSum, pieceSum, fld_toNat, flagCode_bitAt, wideCode_of h])
  · exact sound_coded fun _ h => sound_accept [(28, 6), (22, 6), (20, 2), (16, 4), (15, 1), (14, 1), (2, 12)] ho
      (hl := by intro; simp only [fieldSum, pieceSum, fld_toNat, flagCode_bitAt, wideCode_of h])
  · exact sound_coded fun _ h => sound_accept [(28, 6), (22, 6), (20, 2), (16, 4), (15, 1), (14, 1), (2, 12)] ho
      (hl := by intro; simp only [fieldSum, pieceSum, fld_toNat, flagCode_bitAt, wideCode_of h])
  · exact sound_coded fun _ h => sound_accept [(28, 6), (22, 6), (20, 2), (16, 4), (15, 1), (14, 1), (2, 12)] ho
      (hl := by intro; simp only [fieldSum, pieceSum, fld_toNat, flagCode_bitAt, wideCode_of h])
  · exact sound_coded fun _ h => sound_accept [(28, 6), (22, 6), (20, 2), (16, 4), (15, 1), (14, 1), (2, 12)] ho
      (hl := by intro; simp only [fieldSum, pieceSum, fld_toNat, flagCode_bitAt, wideCode_of h])
  · exact sound_coded fun _ h => sound_accept [(28, 6), (22, 6), (20, 2), (16, 4), (15, 1), (14, 1), (2, 12)] ho
      (hl := by intro; simp only [fieldSum, pieceSum, fld_toNat, flagCode_bitAt, wideCode_of h])
  · exact sound_accept [(28, 6), (22, 6), (16, 4), (14, 1)] ho
  · exact sound_accept [(28, 6), (22, 6), (21, 1), (16, 4), (15, 1), (2, 12)] ho
  · exact sound_accept [(28, 6), (22, 6), (6, 16)] ho
  · exact sound_accept [(28, 6), (22, 6)] ho
  · exact sound_accept [(28, 6), (22, 6)] ho
  · exact sound_accept [(30, 4), (26, 4), (22, 4), (19, 3), (13, 6)] ho
  · exact sound_accept [(30, 4), (26, 4), (22, 4)] ho
  · exact sound_accept [(30, 4), (26, 4)] ho
  · exact sound_accept [(30, 4), (7, 6)] ho
  · exact sound_accept [(30, 4), (13, 6), (7, 6), (6, 1)] ho
  · exact sound_accept [(30, 4), (13, 6), (7, 6)] ho
  · exact sound_accept [(30, 4), (13, 6), (7, 6)] ho
  · exact sound_accept [(30, 4), (19, 3), (13, 6)] ho
  · exact sound_accept [] ho
  · exact sound_needPriv (sound_accept [(28, 6), (22, 6)] ho)
  · exact sound_needPriv (sound_accept [(28, 6), (22, 6)] ho)
  · exact sound_needPriv (sound_accept [(28, 6), (22, 6)] ho)
  · exact sound_error

theorem decodeTile_sound {opc : Nat} {w : BitVec 48} (ho : (fld w 40 8).toNat = opc) :
    Sound .tf w (decodeTile opc w) := by
  unfold decodeTile
  split
  · exact sound_accept [(32, 2), (26, 6), (20, 6), (8, 12)] ho
  · exact sound_accept [(32, 2), (26, 6), (20, 6), (8, 12)] ho
  · exact sound_accept [(32, 2), (28, 4), (20, 6), (8, 12)] ho
  · exact sound_accept [(30, 4)] ho
  · exact sound_error

theorem decodeScale_sound {opc : Nat} {w : BitVec 48} (ho : (fld w 40 8).toNat = opc) :
    Sound .sc w (decodeScale opc w) := by
  unfold decodeScale
  split
  · exact sound_coded fun _ h0 => sound_coded fun _ h1 => sound_coded fun _ h2 => sound_accept [(30, 4), (26, 4), (24, 2), (23, 1)] ho
      (hl := by intro; simp only [fieldSum, pieceSum, fld_toNat, flagCode_bitAt, elemCode_of h0, elemCode_of h1, scaleCode_of h2])
  · exact sound_accept [(33, 1), (22, 4), (0, 22)] ho
  · exact sound_accept [(33, 1), (22, 6), (0, 6)] ho
  · exact sound_accept [(32, 2)] ho
  · exact sound_accept [(24, 10), (23, 1)] ho
  · exact sound_error
/-- Every operation satisfies its round trip: the lemma of its constructor says so. -/
theorem statement : ∀ i : Instr, Statement i
  | .bundleIssue => bundleIssue
  | .energyStretch => energyStretch
  | .budgetRefill => budgetRefill
  | .staticCharge => staticCharge
  | .resultLand => resultLand
  | .landing => landing
  | .lateDataArrival => lateDataArrival
  | .fetchArrival => fetchArrival
  | .codePageLoad => codePageLoad
  | .bodyPublish sp stub body => bodyPublish sp stub body
  | .nop => nop
  | .br g off => br g off
  | .bri g a => bri g a
  | .call g off => call g off
  | .calli g a => calli g a
  | .ret g => ret g
  | .loop g lc body count => loop g lc body count
  | .loopr g lc body a => loopr g lc body a
  | .lbrk g lc => lbrk g lc
  | .mark g ex => mark g ex
  | .trap g imm => trap g imm
  | .yield g => yield g
  | .commit g => commit g
  | .endt g => endt g
  | .taskDrainEnd => taskDrainEnd
  | .waitc g n => waitc g n
  | .cbar g => cbar g
  | .barrierComplete => barrierComplete
  | .trapret g => trapret g
  | .idle g => idle g
  | .idleTimeout => idleTimeout
  | .add u g d a b => add u g d a b
  | .sub u g d a b => sub u g d a b
  | .addi u g d a imm => addi u g d a imm
  | .mul u g d a b => mul u g d a b
  | .mulh u g d a b => mulh u g d a b
  | .mulhu u g d a b => mulhu u g d a b
  | .and u g d a b => and u g d a b
  | .or u g d a b => or u g d a b
  | .xor u g d a b => xor u g d a b
  | .andn u g d a b => andn u g d a b
  | .shl u g d a b => shl u g d a b
  | .shr u g d a b => shr u g d a b
  | .sar u g d a b => sar u g d a b
  | .shli u g d a n => shli u g d a n
  | .shri u g d a n => shri u g d a n
  | .sari u g d a n => sari u g d a n
  | .min u g d a b => min u g d a b
  | .max u g d a b => max u g d a b
  | .minu u g d a b => minu u g d a b
  | .maxu u g d a b => maxu u g d a b
  | .clz u g d a => clz u g d a
  | .popc u g d a => popc u g d a
  | .movi u g d imm => movi u g d imm
  | .movhi u g d imm => movhi u g d imm
  | .shadd u g d a b sh => shadd u g d a b sh
  | .sel u g d a b ps => sel u g d a b ps
  | .extu u g d a hi lo => extu u g d a hi lo
  | .cmpeq u g pd a b => cmpeq u g pd a b
  | .cmpne u g pd a b => cmpne u g pd a b
  | .cmplt u g pd a b => cmplt u g pd a b
  | .cmple u g pd a b => cmple u g pd a b
  | .cmpltu u g pd a b => cmpltu u g pd a b
  | .cmpleu u g pd a b => cmpleu u g pd a b
  | .cmpeqi u g pd a imm => cmpeqi u g pd a imm
  | .cmplti u g pd a imm => cmplti u g pd a imm
  | .pand u g pd pa pb => pand u g pd pa pb
  | .por u g pd pa pb => por u g pd pa pb
  | .pxor u g pd pa pb => pxor u g pd pa pb
  | .pandn u g pd pa pb => pandn u g pd pa pb
  | .pnot u g pd pa => pnot u g pd pa
  | .pmov u g pd pa => pmov u g pd pa
  | .psetn u g pd a => psetn u g pd a
  | .pany u g pd pa pb => pany u g pd pa pb
  | .pall u g pd pa pb => pall u g pd pa pb
  | .fadd u g d a b => fadd u g d a b
  | .fsub u g d a b => fsub u g d a b
  | .fmul u g d a b => fmul u g d a b
  | .ffma u g d a b c => ffma u g d a b c
  | .fmin u g d a b => fmin u g d a b
  | .fmax u g d a b => fmax u g d a b
  | .fcmplt u g pd a b => fcmplt u g pd a b
  | .fcmpeq u g pd a b => fcmpeq u g pd a b
  | .fcvtfi u g d a => fcvtfi u g d a
  | .fcvtif u g d a => fcvtif u g d a
  | .rdsys u g d idx => rdsys u g d idx
  | .wrsys u g a idx => wrsys u g a idx
  | .rddst u g pd => rddst u g pd
  | .vadd u g d a b t => vadd u g d a b t
  | .vsub u g d a b t => vsub u g d a b t
  | .vmul u g d a b t => vmul u g d a b t
  | .vfma u g d a b t c => vfma u g d a b t c
  | .vfms u g d a b t c => vfms u g d a b t c
  | .vmin u g d a b t => vmin u g d a b t
  | .vmax u g d a b t => vmax u g d a b t
  | .vabs u g d a t => vabs u g d a t
  | .vneg u g d a t => vneg u g d a t
  | .vand u g d a b t => vand u g d a b t
  | .vor u g d a b t => vor u g d a b t
  | .vxor u g d a b t => vxor u g d a b t
  | .vshl u g d a b t => vshl u g d a b t
  | .vshr u g d a b t => vshr u g d a b t
  | .vsar u g d a b t => vsar u g d a b t
  | .vcmpeq u g pd a b t => vcmpeq u g pd a b t
  | .vcmplt u g pd a b t => vcmplt u g pd a b t
  | .vcmple u g pd a b t => vcmple u g pd a b t
  | .vsel u g d a b t ps => vsel u g d a b t ps
  | .vmov u g d a t => vmov u g d a t
  | .vbcast u g d t ss => vbcast u g d t ss
  | .viota u g d t => viota u g d t
  | .vlsh u g d a t ss => vlsh u g d a t ss
  | .vlshd u g d a b t ss => vlshd u g d a b t ss
  | .vperm u g d a b t => vperm u g d a b t
  | .vext u g sd a si t => vext u g sd a si t
  | .vins u g d sv si t => vins u g d sv si t
  | .vredadd u g d a t => vredadd u g d a t
  | .vredmax u g d a t => vredmax u g d a t
  | .vredmin u g d a t => vredmin u g d a t
  | .vscan u g d a t => vscan u g d a t
  | .vcvt u g d a t td => vcvt u g d a t td
  | .vpack u g d a b t td => vpack u g d a b t td
  | .vunpk u g d a t td h => vunpk u g d a t td h
  | .vexp2 u g d a t => vexp2 u g d a t
  | .vlog2 u g d a t => vlog2 u g d a t
  | .vrcp u g d a t => vrcp u g d a t
  | .vrsq u g d a t => vrsq u g d a t
  | .vsqrt u g d a t => vsqrt u g d a t
  | .vtanh u g d a t => vtanh u g d a t
  | .vquant u g d a t => vquant u g d a t
  | .vdeq u g d a t => vdeq u g d a t
  | .mpush g q krow => mpush g q krow
  | .msel g => msel g
  | .mshift g ks => mshift g ks
  | .macc g acc q fc push => macc g acc q fc push
  | .maccz g acc q fc push => maccz g acc q fc push
  | .maccs g acc q push => maccs g acc q push
  | .mdrain g acc df sb off => mdrain g acc df sb off
  | .mdrainz g acc df sb off => mdrainz g acc df sb off
  | .mzero g acc => mzero g acc
  | .ldv g v b off => ldv g v b off
  | .stv g v b off => stv g v b off
  | .lds g d wd b off => lds g d wd b off
  | .sts g d wd b off => sts g d wd b off
  | .ldvx g v x b wd off => ldvx g v x b wd off
  | .stvx g v x b wd off => stvx g v x b wd off
  | .ldvb g v b off => ldvb g v b off
  | .atlAdd g d a b w8 off => atlAdd g d a b w8 off
  | .atlMin g d a b w8 off => atlMin g d a b w8 off
  | .atlMax g d a b w8 off => atlMax g d a b w8 off
  | .atlAnd g d a b w8 off => atlAnd g d a b w8 off
  | .atlOr g d a b w8 off => atlOr g d a b w8 off
  | .atlXchg g d a b w8 off => atlXchg g d a b w8 off
  | .atlCas g d a c b w8 off => atlCas g d a c b w8 off
  | .atlFadd g d a b off => atlFadd g d a b off
  | .ldg g d b wd cls aq arv => ldg g d b wd cls aq arv
  | .ldgv g v b cls aq arv => ldgv g v b cls aq arv
  | .stg g d b wd cls rl => stg g d b wd cls rl
  | .stgv g v b cls rl => stgv g v b cls rl
  | .atgAdd g d b w8 cls aq rl arv => atgAdd g d b w8 cls aq rl arv
  | .atgFadd g d b cls aq rl arv => atgFadd g d b cls aq rl arv
  | .atgMin g d b w8 cls aq rl arv => atgMin g d b w8 cls aq rl arv
  | .atgMax g d b w8 cls aq rl arv => atgMax g d b w8 cls aq rl arv
  | .atgAnd g d b w8 cls aq rl arv => atgAnd g d b w8 cls aq rl arv
  | .atgOr g d b w8 cls aq rl arv => atgOr g d b w8 cls aq rl arv
  | .atgXor g d b w8 cls aq rl arv => atgXor g d b w8 cls aq rl arv
  | .atgXchg g d b w8 cls aq rl arv => atgXchg g d b w8 cls aq rl arv
  | .atgCas g d b w8 cls aq rl arv => atgCas g d b w8 cls aq rl arv
  | .arrive g a b cls rl => arrive g a b cls rl
  | .waitv g a b susp cls aq arv => waitv g a b susp cls aq arv
  | .waitvSatisfied k => waitvSatisfied k
  | .waitvBoundExpiry => waitvBoundExpiry
  | .cpy g q d sr n lc cls => cpy g q d sr n lc cls
  | .cpyo g q d sr n lc cls => cpyo g q d sr n lc cls
  | .cpyt g q d sr n lc cls => cpyt g q d sr n lc cls
  | .cpyg g q sr cls => cpyg g q sr cls
  | .fence g kind cmask => fence g kind cmask
  | .qfence g qmask => qfence g qmask
  | .rfence g => rfence g
  | .spawn g a b hm => spawn g a b hm
  | .depend g a b => depend g a b
  | .signal g a b => signal g a b
  | .hsplit g h1 h2 h3 ax sp => hsplit g h1 h2 h3 ax sp
  | .hrejoin g h1 h2 h3 => hrejoin g h1 h2 h3
  | .hmov g h1 h2 => hmov g h1 h2
  | .hput g h1 sb => hput g h1 sb
  | .htake g h1 sa sb susp => htake g h1 sa sb susp
  | .htakeBoundExpiry => htakeBoundExpiry
  | .handleDepositWake pa => handleDepositWake pa
  | .hld g h1 sa sb => hld g h1 sa sb
  | .hst g h1 sa sb => hst g h1 sa sb
  | .hinfo g h1 ax sa => hinfo g h1 ax sa
  | .handleStep => handleStep
  | .tlbinv g a b => tlbinv g a b
  | .cachewb g a b => cachewb g a b
  | .cacheinv g a b => cacheinv g a b
  | .tfa g q t c arv => tfa g q t c arv
  | .tfb g q t c arv => tfb g q t c arv
  | .tfh g q h c arv => tfh g q h c arv
  | .tfx g qm => tfx g qm
  | .tfRowArrival q => tfRowArrival q
  | .setfmt g fa fb sm ty => setfmt g fa fb sm ty
  | .ldsct g tb b off => ldsct g tb b off
  | .setband g tb s band => setband g tb s band
  | .setrnd g rm => setrnd g rm
  | .clrflg g sm fe => clrflg g sm fe
  | .entryPerform k => entryPerform k
  | .copyPerform q => copyPerform q
  | .qfenceLeave q => qfenceLeave q
  | .commitLine k => commitLine k
  | .commitComplete => commitComplete
  | .pageWalk sp va => pageWalk sp va
  | .pageIn sp va => pageIn sp va
  | .shootdown sp va newPa => shootdown sp va newPa
  | .pinDropTimeout q => pinDropTimeout q
  | .nodeFinish k => nodeFinish k
  | .taskPlace core => taskPlace core
  | .launchComplete l => launchComplete l
  | .launchFault => launchFault
  | .gangSuspend => gangSuspend
  | .softStop => softStop
  | .hardStop => hardStop
  | .sliceEnd cl => sliceEnd cl
  | .tspanExpiry cl => tspanExpiry cl
  | .graceExpiry cl => graceExpiry cl
  | .tenantDrained cl => tenantDrained cl
  | .imageSpill => imageSpill
  | .launch c => launch c
  | .copy c => copy c
  | .waitevent c => waitevent c
  | .signalevent c => signalevent c
  | .resizeack c => resizeack c
  | .map c => map c
  | .unmap c => unmap c
  | .unsupportedPacket die cmdBit => unsupportedPacket die cmdBit
  | .unregisteredSend die => unregisteredSend die
  | .hostUetWrite sp va bytes tag => hostUetWrite sp va bytes tag
  | .hostUetRead sp va n tag => hostUetRead sp va n tag
  | .peerAck id => peerAck id
  | .peerArrival sp va n => peerArrival sp va n
  | .partcreate c => partcreate c
  | .partresize c => partresize c
  | .resizeApply p => resizeApply p
  | .partdestroy c => partdestroy c
  | .vdevcreate c => vdevcreate c
  | .vdevset c => vdevset c
  | .tenantDisabled sp => tenantDisabled sp
  | .queuecreate c => queuecreate c
  | .queuedestroy c => queuedestroy c
  | .energy c => energy c
  | .summary c => summary c
  | .attest c => attest c
  | .alarmset c => alarmset c
  | .queuereset c => queuereset c
  | .watchdogExpiry p q => watchdogExpiry p q
  | .alarm src => alarm src
  | .alarmClear => alarmClear
  | .powerOn => powerOn
  | .eccError st addr fatal => eccError st addr fatal
  | .patrolScrub addr => patrolScrub addr
  | .rowSpare stack row => rowSpare stack row
  | .pageRetire stack sp va newPa => pageRetire stack sp va newPa
  | .dbgarm c => dbgarm c
  | .dbgstop c => dbgstop c
  | .debugStop cause => debugStop cause
  | .dbgresume c => dbgresume c
  | .trace c => trace c
  | .counters c => counters c
  | .pcSample => pcSample
  | .freezeRecord => freezeRecord
  | .traceHeadAdvance sp => traceHeadAdvance sp
  | .replay c => replay c
  | .checkpoint p => checkpoint p
  | .replayHalt p => replayHalt p
  | .tileAccessPerform k => tileAccessPerform k
  | .peerTimeout id => peerTimeout id
  | .peerReadResponse id bytes => peerReadResponse id bytes
  | .linkLevelRetry die => linkLevelRetry die
  | .bufferSlotReturn p port => bufferSlotReturn p port
  | .retrieverInjection p port bytes => retrieverInjection p port bytes

/-- An operation that has a slot has a word. -/
theorem encode_isSome_of_slot {i : Instr} {k : Slot} (h : i.slot = some k) : ∃ w, encode i = some w := by
  rw [← Option.isSome_iff_exists]
  revert h
  cases i <;> simp [encode, Instr.slot]

theorem decode_encode {i : Instr} {k : Slot} (hwf : WellFormed i) (hk : i.slot = some k) :
    ∃ w, encode i = some w ∧ decodeSlot k true w = .ok i := by
  obtain ⟨w, hw⟩ := encode_isSome_of_slot hk
  exact ⟨w, hw, statement i k w hwf hk hw⟩

/-- Whatever a slot decoder accepts, other than an empty slot, encodes to the word it was read from. -/
theorem decodeSlot_sound {i : Instr} {k : Slot} {priv : Bool} {w : BitVec 48} (h : decodeSlot k priv w = .ok i) (hn : i ≠ .nop) :
    WellFormed i ∧ i.slot = some k ∧ encode i = some w := by
  rw [decodeSlot] at h
  split at h
  · cases h
    exact absurd rfl hn
  · simp only at h
    split at h
    · cases h
    · cases k with
      | ctl => exact decodeCtl_sound rfl i h
      | sa => exact decodeScalar_sound rfl i h
      | sb => exact decodeScalar_sound rfl i h
      | vx => exact decodeVector_sound rfl i h
      | vy => exact decodeVector_sound rfl i h
      | mx => exact decodeMatrix_sound rfl i h
      | ls => exact decodeScratch_sound rfl i h
      | eq => exact decodeEngine_sound rfl i h
      | tf => exact decodeTile_sound rfl i h
      | sc => exact decodeScale_sound rfl i h

/-! ### Bundles (R24, R25, R45) -/

open Sys2Proof.Machine (slotNo)

/-- A word that stands in place `m` of a bundle reads back there, and reads zero in every other place. -/
theorem extract_place (w : BitVec 48) {m n : Nat} (hn : n < 10) :
    (w.setWidth 512 <<< (32 + 48 * m)).extractLsb' (32 + 48 * n) 48 = if n = m then w else 0#48 := by
  apply BitVec.eq_of_getLsbD_eq
  intro i hi
  simp only [BitVec.getLsbD_extractLsb', BitVec.getLsbD_shiftLeft, BitVec.getLsbD_setWidth]
  split
  case isTrue h =>
    subst h
    simp [hi, show 32 + 48 * n + i < 512 by omega]
    omega
  case isFalse h =>
    rcases Nat.lt_or_gt_of_ne h with h | h
    · simp [show 32 + 48 * n + i < 32 + 48 * m by omega]
    · have hw : w.getLsbD (32 + 48 * n + i - (32 + 48 * m)) = false := BitVec.getLsbD_of_ge _ _ (by omega)
      simp [hw]

/-- The header reads nothing of a word in a slot. -/
theorem extract_header_place (w : BitVec 48) (m : Nat) : (w.setWidth 512 <<< (32 + 48 * m)).extractLsb' 0 32 = 0#32 := by
  apply BitVec.eq_of_getLsbD_eq
  intro i hi
  simp [BitVec.getLsbD_shiftLeft, show i < 32 + 48 * m by omega]

theorem slot_index_lt (k : Slot) : k.index < 10 := by cases k <;> decide

theorem slot_mem_all (k : Slot) : k ∈ Slot.all := by cases k <;> decide

theorem slot_index_inj : ∀ {j k : Slot}, j.index = k.index → j = k := by
  have h : ∀ j ∈ Slot.all, ∀ k ∈ Slot.all, j.index = k.index → j = k := by decide
  exact fun {j k} => h j (slot_mem_all j) k (slot_mem_all k)

theorem slotWord_or_place (b : BitVec 512) (w : BitVec 48) (j k : Slot) :
    slotWord (b ||| w.setWidth 512 <<< (32 + 48 * j.index)) k = slotWord b k ||| if k = j then w else 0#48 := by
  rw [slotWord, BitVec.extractLsb'_or, extract_place w (slot_index_lt k), slotWord]
  by_cases h : k = j
  · rw [if_pos h, if_pos (by rw [h])]
  · rw [if_neg h, if_neg fun e => h (slot_index_inj e)]

theorem slotWord_header (h : BitVec 32) (k : Slot) : slotWord (h.setWidth 512) k = 0#48 := by
  apply BitVec.eq_of_getLsbD_eq
  intro i hi
  simp [slotWord, BitVec.getLsbD_of_ge h (32 + 48 * k.index + i) (by omega)]

/-- The word that stands in slot `k` of a bundle of the operations `is`. -/
def wordIn (is : List Instr) (k : Slot) : BitVec 48 :=
  match is.find? fun i => decide (i.slot = some k) with
  | some i => (encode i).getD 0#48
  | none => 0#48

theorem wordIn_cons_same {i : Instr} {is : List Instr} {k : Slot} {w : BitVec 48} (hk : i.slot = some k) (hw : encode i = some w) :
    wordIn (i :: is) k = w := by
  simp [wordIn, hk, hw]

theorem wordIn_cons_other {i : Instr} {is : List Instr} {k : Slot} (hk : i.slot ≠ some k) : wordIn (i :: is) k = wordIn is k := by
  simp [wordIn, hk]

theorem wordIn_eq_zero {is : List Instr} {k : Slot} (h : ∀ i ∈ is, i.slot ≠ some k) : wordIn is k = 0#48 := by
  rw [wordIn, List.find?_eq_none.2 fun i hi => by simpa using h i hi]

theorem slotNo_of_slot {i : Instr} {k : Slot} (h : i.slot = some k) : slotNo i = k.index := by rw [slotNo, h]

/-- The encoder of a bundle adds the word of one operation in its slot. -/
def placeOp (b : BitVec 512) (i : Instr) : BitVec 512 :=
  match i.slot, encode i with
  | some k, some w => b ||| (w.setWidth 512 <<< (32 + 48 * k.index))
  | _, _ => b

theorem placeOp_of_slot (b : BitVec 512) {i : Instr} {k : Slot} {w : BitVec 48} (hk : i.slot = some k) (hw : encode i = some w) :
    placeOp b i = b ||| (w.setWidth 512 <<< (32 + 48 * k.index)) := by
  rw [placeOp, hk, hw]

theorem encodeBundle_eq (h : BitVec 32) (is : List Instr) : encodeBundle h is = is.foldl placeOp (h.setWidth 512) := rfl

/-- Operations in different slots do not disturb each other's words. -/
theorem slotWord_foldl {is : List Instr} {k : Slot} (hs : ∀ i ∈ is, i.slot.isSome = true)
    (hp : is.Pairwise fun i j => slotNo i < slotNo j) :
    ∀ b, slotWord (is.foldl placeOp b) k = slotWord b k ||| wordIn is k := by
  induction is with
  | nil => intro b; simp [wordIn]
  | cons i is ih =>
    intro b
    obtain ⟨j, hj⟩ := Option.isSome_iff_exists.1 (hs i (List.mem_cons_self ..))
    obtain ⟨w, hw⟩ := encode_isSome_of_slot hj
    obtain ⟨hlt, hp⟩ := List.pairwise_cons.1 hp
    rw [List.foldl_cons, ih (fun i hi => hs i (List.mem_cons_of_mem _ hi)) hp, placeOp_of_slot b hj hw, slotWord_or_place]
    by_cases hk : k = j
    · subst hk
      have hz : wordIn is k = 0#48 := wordIn_eq_zero fun i' hi' hk' => by
        have := hlt i' hi'
        rw [slotNo_of_slot hj, slotNo_of_slot hk'] at this
        omega
      rw [if_pos rfl, hz, wordIn_cons_same hj hw, BitVec.or_zero]
    · rw [if_neg hk, BitVec.or_zero, wordIn_cons_other (by rw [hj]; exact fun e => hk (Option.some.inj e).symm)]

theorem headerOf_foldl (is : List Instr) : ∀ b, headerOf (is.foldl placeOp b) = headerOf b := by
  induction is with
  | nil => intro b; rfl
  | cons i is ih =>
    intro b
    rw [List.foldl_cons, ih, placeOp]
    split
    · rw [headerOf, BitVec.extractLsb'_or, extract_header_place, BitVec.or_zero, headerOf]
    · rfl

theorem headerOf_encodeBundle (h : BitVec 32) (is : List Instr) : headerOf (encodeBundle h is) = h := by
  rw [encodeBundle_eq, headerOf_foldl]
  apply BitVec.eq_of_getLsbD_eq
  intro i hi
  simp [headerOf, hi, show i < 512 by omega]

theorem slotWord_encodeBundle {h : BitVec 32} {is : List Instr} {k : Slot} (hs : ∀ i ∈ is, i.slot.isSome = true)
    (hp : is.Pairwise fun i j => slotNo i < slotNo j) : slotWord (encodeBundle h is) k = wordIn is k := by
  rw [encodeBundle_eq, slotWord_foldl hs hp, slotWord_header, BitVec.zero_or]

theorem decodeSlot_zero (k : Slot) (priv : Bool) : decodeSlot k priv 0#48 = .ok .nop := by rw [decodeSlot, if_pos rfl]

/-- Slots in rising order whose words are those of operations in rising order decode to those operations. -/
theorem decodeSlots_of_words {b : BitVec 512} {ks : List Slot} (hks : ks.Pairwise fun j k => j.index < k.index) :
    ∀ {is : List Instr}, (∀ i ∈ is, WellFormed i ∧ i ≠ .nop ∧ ∃ k ∈ ks, i.slot = some k) →
      is.Pairwise (fun i j => slotNo i < slotNo j) → (∀ k ∈ ks, slotWord b k = wordIn is k) → decodeSlots true b ks = .ok is := by
  induction ks with
  | nil =>
    intro is his _ _
    cases is with
    | nil => rfl
    | cons i is =>
      obtain ⟨_, _, k, hk, _⟩ := his i (List.mem_cons_self ..)
      cases hk
  | cons k ks ih =>
    intro is his hp hw
    obtain ⟨hlt, hks⟩ := List.pairwise_cons.1 hks
    rw [decodeSlots, hw k (List.mem_cons_self ..)]
    by_cases hfirst : ∃ i js, is = i :: js ∧ i.slot = some k
    · obtain ⟨i, js, rfl, hik⟩ := hfirst
      obtain ⟨hwf, hnop, -⟩ := his i (List.mem_cons_self ..)
      obtain ⟨hlt', hp⟩ := List.pairwise_cons.1 hp
      obtain ⟨w, hew, hdw⟩ := decode_encode hwf hik
      have hrest : decodeSlots true b ks = .ok js := by
        refine ih hks (fun i' hi' => ?_) hp fun k' hk' => ?_
        · obtain ⟨hwf', hnop', k', hk', hs'⟩ := his i' (List.mem_cons_of_mem _ hi')
          refine ⟨hwf', hnop', k', (List.mem_cons.1 hk').resolve_left fun e => ?_, hs'⟩
          have := hlt' i' hi'
          rw [slotNo_of_slot hik, slotNo_of_slot hs', e] at this
          omega
        · rw [hw k' (List.mem_cons_of_mem _ hk'), wordIn_cons_other]
          rw [hik]
          rintro ⟨⟩
          exact absurd (hlt _ hk') (Nat.lt_irrefl _)
      rw [wordIn_cons_same hik hew, hdw, hrest]
      simp only [if_neg hnop]
    · have hnone : ∀ i ∈ is, i.slot ≠ some k := by
        cases is with
        | nil => exact fun _ hi => nomatch hi
        | cons i js =>
          obtain ⟨hlt', -⟩ := List.pairwise_cons.1 hp
          have hik : i.slot ≠ some k := fun e => hfirst ⟨i, js, rfl, e⟩
          obtain ⟨-, -, j, hj, hij⟩ := his i (List.mem_cons_self ..)
          have hkj := hlt j ((List.mem_cons.1 hj).resolve_left fun e => hik (e ▸ hij))
          intro i' hi' hk'
          rcases List.mem_cons.1 hi' with rfl | hi'
          · exact hik hk'
          · have := hlt' i' hi'
            rw [slotNo_of_slot hij, slotNo_of_slot hk'] at this
            omega
      have hrest : decodeSlots true b ks = .ok is := by
        refine ih hks (fun i hi => ?_) hp fun k' hk' => hw k' (List.mem_cons_of_mem _ hk')
        obtain ⟨hwf, hnop, k', hk', hs⟩ := his i hi
        exact ⟨hwf, hnop, k', (List.mem_cons.1 hk').resolve_left fun e => hnone i hi (e ▸ hs), hs⟩
      rw [wordIn_eq_zero hnone, decodeSlot_zero, hrest]
      simp only [if_pos]

/-- A bundle of operations in rising slots decodes to them. -/
theorem decodeBundle_encodeBundle {h : BitVec 32} {is : List Instr} (hh : headerOk h = true) (hne : is ≠ [])
    (his : ∀ i ∈ is, WellFormed i ∧ i ≠ .nop ∧ i.slot.isSome = true) (hp : is.Pairwise fun i j => slotNo i < slotNo j) :
    decodeBundle true (encodeBundle h is) = .ok is := by
  have hslots : decodeSlots true (encodeBundle h is) Slot.all = .ok is := by
    refine decodeSlots_of_words (by decide) (fun i hi => ?_) hp fun k _ => slotWord_encodeBundle (fun i hi => (his i hi).2.2) hp
    obtain ⟨hwf, hnop, hs⟩ := his i hi
    obtain ⟨k, hk⟩ := Option.isSome_iff_exists.1 hs
    exact ⟨hwf, hnop, k, slot_mem_all k, hk⟩
  rw [decodeBundle, headerOf_encodeBundle, if_pos hh, hslots]
  cases is with
  | nil => exact absurd rfl hne
  | cons i is => rfl

/-- Settles O41: each constructor's round trip, the soundness of each slot decoder, and the places of a bundle, which do not overlap. -/
theorem encodeDecode : Obligations.EncodeDecode :=
  ⟨fun _ _ hwf hk => decode_encode hwf hk, fun _ _ _ _ h hn => decodeSlot_sound h hn,
    fun h is hh hne his hp => ⟨headerOf_encodeBundle h is, decodeBundle_encodeBundle hh hne his hp⟩⟩

end Sys2Proof.Laws.Coding
end

section
/-! Numbers as digits of equal width (R77, R151): what a packed number, a row of lanes, a lane mask and a predicate read, bit by bit and
lane by lane. -/

namespace Sys2Proof.Machine

theorem packNat_lt (w : Nat) (f : Nat → Nat) (n : Nat) : packNat w f n < 2 ^ (w * n) := by
  induction n with
  | zero => simp [packNat]
  | succ n ih =>
    have hd : f n % 2 ^ w + 1 ≤ 2 ^ w := Nat.mod_lt _ (Nat.two_pow_pos w)
    have hm := Nat.mul_le_mul_right (2 ^ (w * n)) hd
    rw [← pow_add, Nat.succ_mul, show w + w * n = w * (n + 1) by ring] at hm
    rw [packNat]
    omega

/-- Bit j of a packed number is bit j mod w of digit j / w. -/
theorem testBit_packNat {w : Nat} (hw : 0 < w) (f : Nat → Nat) (n j : Nat) :
    (packNat w f n).testBit j = (decide (j < w * n) && (f (j / w)).testBit (j % w)) := by
  induction n with
  | zero => simp [packNat]
  | succ n ih =>
    have hlt := packNat_lt w f n
    rw [packNat, Nat.add_comm, Nat.mul_comm, Nat.testBit_two_pow_mul_add _ hlt, ih, Nat.testBit_mod_two_pow]
    have hdm := Nat.div_add_mod j w
    have hmod := Nat.mod_lt j hw
    split
    case isTrue h => simp [h, show j < w * (n + 1) by rw [Nat.mul_succ]; omega]
    case isFalse h =>
      obtain ⟨d, rfl⟩ := Nat.exists_eq_add_of_le (Nat.le_of_not_lt h)
      rw [Nat.add_sub_cancel_left]
      by_cases hd : d < w
      · have hdiv : (w * n + d) / w = n := by rw [Nat.mul_add_div hw, Nat.div_eq_of_lt hd, Nat.add_zero]
        rw [hdiv, Nat.mul_add_mod, Nat.mod_eq_of_lt hd, Nat.mul_succ]
        simp [hd]
      · rw [Nat.mul_succ]
        simp [hd]

theorem testBit_digit (w x i j : Nat) : (digit w x i).testBit j = (decide (j < w) && x.testBit (w * i + j)) := by
  rw [digit, Nat.testBit_mod_two_pow, Nat.testBit_div_two_pow, Nat.add_comm]

theorem digit_lt (w x i : Nat) : digit w x i < 2 ^ w := Nat.mod_lt _ (Nat.two_pow_pos w)

/-- A digit of a packed number is the digit that was packed. -/
theorem digit_packNat {w n i : Nat} (f : Nat → Nat) (h : i < n) : digit w (packNat w f n) i = f i % 2 ^ w := by
  rcases Nat.eq_zero_or_pos w with rfl | hw
  · simp [digit, Nat.mod_one]
  · apply Nat.eq_of_testBit_eq
    intro j
    rw [testBit_digit, testBit_packNat hw, Nat.testBit_mod_two_pow]
    by_cases hj : j < w
    · have hle : w * i + w ≤ w * n := by rw [← Nat.mul_succ]; exact Nat.mul_le_mul_left w h
      have hdiv : (w * i + j) / w = i := by rw [Nat.mul_add_div hw, Nat.div_eq_of_lt hj, Nat.add_zero]
      rw [hdiv, Nat.mul_add_mod, Nat.mod_eq_of_lt hj]
      simp [hj, show w * i + j < w * n by omega]
    · simp [hj]

theorem packNat_congr {w n : Nat} {f g : Nat → Nat} (h : ∀ i, i < n → f i % 2 ^ w = g i % 2 ^ w) : packNat w f n = packNat w g n := by
  induction n with
  | zero => rfl
  | succ n ih => rw [packNat, packNat, ih fun i hi => h i (by omega), h n (by omega)]

/-- A number below 2^(w*n) is packed from its digits. -/
theorem packNat_digit (w x n : Nat) : packNat w (digit w x) n = x % 2 ^ (w * n) := by
  induction n with
  | zero => simp [packNat, Nat.mod_one]
  | succ n ih =>
    rw [packNat, ih, digit, Nat.mod_mod, Nat.mul_succ, pow_add, Nat.mod_mul, Nat.mul_comm (2 ^ (w * n))]

/-! ### Rows -/

theorem rowOf_toNat {w n : Nat} (f : Nat → Nat) (h : w * n ≤ 16384) : (rowOf w n f).toNat = packNat w f n := by
  rw [rowOf, BitVec.toNat_ofNat,
    Nat.mod_eq_of_lt ((packNat_lt w f n).trans_le (Nat.pow_le_pow_right (by decide) h))]

theorem digit_rowOf {w n i : Nat} (f : Nat → Nat) (h : w * n ≤ 16384) (hi : i < n) : digit w (rowOf w n f).toNat i = f i % 2 ^ w := by
  rw [rowOf_toNat f h, digit_packNat f hi]

theorem rowOf_congr {w n : Nat} {f g : Nat → Nat} (h : ∀ i, i < n → f i % 2 ^ w = g i % 2 ^ w) : rowOf w n f = rowOf w n g := by
  rw [rowOf, rowOf, packNat_congr h]

theorem width_mul_lanes (t : VType) : t.width * t.lanes = 16384 := by cases t <;> rfl

theorem vtype_width_pos (t : VType) : 0 < t.width := by cases t <;> decide

theorem laneOf_lt (t : VType) (r : Row) (i : Nat) : laneOf t r i < 2 ^ t.width := digit_lt _ _ _

theorem laneOf_rowOf {t : VType} {i : Nat} (f : Nat → Nat) (hi : i < t.lanes) : laneOf t (rowOf t.width t.lanes f) i = f i % 2 ^ t.width :=
  digit_rowOf f (width_mul_lanes t).le hi

theorem laneMask_eq_rowOf (w n : Nat) (p : Pred) : laneMask w n p = rowOf w n fun i => if p.getLsbD i then 2 ^ w - 1 else 0 := rfl

/-! ### Predicates -/

theorem predOf_getLsbD {n i : Nat} (f : Nat → Bool) (hi : i < 1024) : (predOf n f).getLsbD i = (decide (i < n) && f i) := by
  rw [predOf, BitVec.getLsbD_ofNat, testBit_packNat (by decide), Nat.one_mul, Nat.div_one, Nat.mod_one]
  cases f i <;> simp [hi]

theorem lowPred_getLsbD {n i : Nat} (hi : i < 1024) : (lowPred n).getLsbD i = decide (i < n) := by
  rw [lowPred, BitVec.getLsbD_ofNat, Nat.testBit_two_pow_sub_one]
  simp [hi]

end Sys2Proof.Machine
end

section
/-! The scalar slots beyond the integer forms: compares, predicate operations, FP32 and the special registers (R80, R144 to R149). -/

namespace Sys2Proof.Machine

/-! ### Compares (R144) -/

section
variable {u : Bool} {g : Guard} {pd : BitVec 5} {a b : BitVec 6} {imm : BitVec 22} {s : State}

theorem compareTwo_next {f : Word → Word → Bool} {v : Pred} (hg : s.core.ctx.guardBit g = true)
    (hf : allPred (f (s.core.ctx.getS a) (s.core.ctx.getS b)) = v) : compareTwo u g pd a b f s = s.predNext u 1 pd v := by
  rw [compareTwo, guarded_true hg, State.predNext, ← hf]
  rfl

theorem compareImm_next {f : Word → Word → Bool} {v : Pred} (hg : s.core.ctx.guardBit g = true)
    (hf : allPred (f (s.core.ctx.getS a) (imm.signExtend 64)) = v) : compareImm u g pd a imm f s = s.predNext u 1 pd v := by
  rw [compareImm, guarded_true hg, State.predNext, ← hf]
  rfl

/-- A guarded predicate result, computed from the context at issue. -/
theorem guarded_predOut {u : Bool} {g : Guard} {lat : Nat} {pd : BitVec 5} {s : State} {v : Ctx → Pred}
    (hg : s.core.ctx.guardBit g = true) :
    guarded g s (fun c => c.onCtx fun x => x.predOut u lat pd (v x)) = s.predNext u lat pd (v s.core.ctx) := by
  rw [guarded_true hg]
  rfl

theorem allPred_false : allPred false = 0#1024 := rfl

/-! ### Which shape each operation has -/

theorem exec_cmpeq : exec (.cmpeq u g pd a b) s = compareTwo u g pd a b (fun a b => decide (a = b)) s := rfl

theorem exec_cmpne : exec (.cmpne u g pd a b) s = compareTwo u g pd a b (fun a b => decide (a ≠ b)) s := rfl

theorem exec_cmplt : exec (.cmplt u g pd a b) s = compareTwo u g pd a b (fun a b => decide (a.toInt < b.toInt)) s := rfl

theorem exec_cmple : exec (.cmple u g pd a b) s = compareTwo u g pd a b (fun a b => decide (a.toInt ≤ b.toInt)) s := rfl

theorem exec_cmpltu : exec (.cmpltu u g pd a b) s = compareTwo u g pd a b (fun a b => decide (a < b)) s := rfl

theorem exec_cmpleu : exec (.cmpleu u g pd a b) s = compareTwo u g pd a b (fun a b => decide (a ≤ b)) s := rfl

theorem exec_cmpeqi : exec (.cmpeqi u g pd a imm) s = compareImm u g pd a imm (fun a b => decide (a = b)) s := rfl

theorem exec_cmplti : exec (.cmplti u g pd a imm) s = compareImm u g pd a imm (fun a b => decide (a.toInt < b.toInt)) s := rfl

end

theorem allPred_of_iff {b : Bool} {p : Prop} [Decidable p] (h : b = true ↔ p) :
    allPred b = if p then BitVec.allOnes 1024 else 0#1024 := by
  rw [allPred]
  exact if_congr h rfl rfl

theorem allPred_of_iff_not {b : Bool} {p : Prop} [Decidable p] (h : b = true ↔ ¬ p) :
    allPred b = if p then 0#1024 else BitVec.allOnes 1024 := by
  rw [allPred_of_iff h]
  exact ite_not p _ _

theorem eq_iff_toInt_signExtend {a : Word} {imm : BitVec 22} : a = imm.signExtend 64 ↔ a.toInt = imm.toInt := by
  rw [← BitVec.toInt_inj, BitVec.toInt_signExtend_of_le (by decide)]

/-- Settles O3: each compare has one of two shapes, and its outcome is the relation of the two numbers. -/
theorem compareResults : Obligations.CompareResults := by
  intro s u g pd a b hg A B all
  exact ⟨exec_cmpeq.trans <| compareTwo_next hg (allPred_of_iff (decide_eq_true_iff.trans BitVec.toNat_inj.symm)),
    exec_cmpne.trans <| compareTwo_next hg (allPred_of_iff_not (decide_eq_true_iff.trans (not_congr BitVec.toNat_inj.symm))),
    exec_cmplt.trans <| compareTwo_next hg (allPred_of_iff decide_eq_true_iff),
    exec_cmple.trans <| compareTwo_next hg (allPred_of_iff decide_eq_true_iff),
    exec_cmpltu.trans <| compareTwo_next hg (allPred_of_iff (decide_eq_true_iff.trans BitVec.lt_def)),
    exec_cmpleu.trans <| compareTwo_next hg (allPred_of_iff (decide_eq_true_iff.trans BitVec.le_def)),
    fun imm => exec_cmpeqi.trans <| compareImm_next hg (allPred_of_iff (decide_eq_true_iff.trans eq_iff_toInt_signExtend)),
    fun imm => exec_cmplti.trans <| compareImm_next hg (allPred_of_iff (decide_eq_true_iff.trans
      (by rw [BitVec.toInt_signExtend_of_le (by decide)])))⟩

/-! ### Predicate operations (R145) -/

section
variable {u : Bool} {g : Guard} {pd pa pb : BitVec 5} {a : BitVec 6} {s : State}

theorem predTwo_next {f : Pred → Pred → Pred} {v : Pred} (hg : s.core.ctx.guardBit g = true)
    (hf : f (s.core.ctx.getP pa) (s.core.ctx.getP pb) = v) : predTwo u g pd pa pb f s = s.predNext u 1 pd v := by
  rw [predTwo, guarded_true hg, State.predNext, ← hf]
  rfl

theorem exec_pand : exec (.pand u g pd pa pb) s
    = predTwo u g pd pa pb (fun a b => a &&& b) s := rfl

theorem exec_por : exec (.por u g pd pa pb) s
    = predTwo u g pd pa pb (fun a b => a ||| b) s := rfl

theorem exec_pxor : exec (.pxor u g pd pa pb) s
    = predTwo u g pd pa pb (fun a b => a ^^^ b) s := rfl

theorem exec_pandn : exec (.pandn u g pd pa pb) s
    = predTwo u g pd pa pb (fun a b => a &&& ~~~b) s := rfl

theorem exec_pany : exec (.pany u g pd pa pb) s
    = predTwo u g pd pa pb (fun a b => allPred (decide (a &&& b ≠ 0#1024))) s := rfl

theorem exec_pall : exec (.pall u g pd pa pb) s
    = predTwo u g pd pa pb (fun a b => allPred (decide (a &&& b = b))) s := rfl

theorem exec_pnot : exec (.pnot u g pd pa) s = guarded g s fun c => c.onCtx fun x => x.predOut u 1 pd (~~~x.getP pa) := rfl

theorem exec_pmov : exec (.pmov u g pd pa) s = guarded g s fun c => c.onCtx fun x => x.predOut u 1 pd (x.getP pa) := rfl

theorem exec_psetn : exec (.psetn u g pd a) s
    = guarded g s fun c => c.onCtx fun x => x.predOut u 1 pd (lowPred (min (x.getS a).toNat 1024)) := rfl

end

/-- Two predicates meet where a bit is set in both. -/
theorem and_ne_zero_iff (p q : Pred) :
    p &&& q ≠ 0#1024 ↔ ((List.range 1024).any fun i => p.getLsbD i && q.getLsbD i) = true := by
  rw [List.any_eq_true]
  constructor
  · intro h
    by_contra hn
    refine h (BitVec.eq_of_getLsbD_eq fun i hi => ?_)
    rw [BitVec.getLsbD_and, BitVec.getLsbD_zero]
    exact Bool.eq_false_iff.2 fun hb => hn ⟨i, List.mem_range.2 hi, hb⟩
  · rintro ⟨i, -, hb⟩ h0
    rw [← BitVec.getLsbD_and, h0, BitVec.getLsbD_zero] at hb
    cases hb

/-- One predicate covers another where every bit of the other is set in it. -/
theorem and_eq_right_iff (p q : Pred) :
    p &&& q = q ↔ ((List.range 1024).all fun i => !q.getLsbD i || p.getLsbD i) = true := by
  rw [List.all_eq_true]
  constructor
  · intro h i _
    have hb := congrArg (·.getLsbD i) h
    simp only [BitVec.getLsbD_and] at hb
    cases hp : p.getLsbD i <;> cases hq : q.getLsbD i <;> simp_all
  · intro h
    refine BitVec.eq_of_getLsbD_eq fun i hi => ?_
    have hb := h i (List.mem_range.2 hi)
    rw [BitVec.getLsbD_and]
    revert hb
    generalize p.getLsbD i = x
    generalize q.getLsbD i = y
    revert x y
    decide

/-- Settles O4: PSETN sets the bits below its count, and PANY and PALL compare the conjunction of their predicates with zero and
with pB. -/
theorem predicateResults : Obligations.PredicateResults := by
  intro s u g pd pa pb a hg P Q all
  refine ⟨exec_pand.trans (predTwo_next hg rfl), exec_por.trans (predTwo_next hg rfl), exec_pxor.trans (predTwo_next hg rfl),
    exec_pandn.trans (predTwo_next hg rfl), exec_pnot.trans (guarded_predOut hg), exec_pmov.trans (guarded_predOut hg),
    ⟨lowPred (min (s.core.ctx.getS a).toNat 1024), fun i hi => ?_, exec_psetn.trans (guarded_predOut hg)⟩,
    exec_pany.trans (predTwo_next hg (allPred_of_iff (decide_eq_true_iff.trans (and_ne_zero_iff P Q)))),
    exec_pall.trans (predTwo_next hg (allPred_of_iff (decide_eq_true_iff.trans (and_eq_right_iff P Q))))⟩
  rw [lowPred_getLsbD hi]
  simp [hi]

/-! ### FP32 (R146, R100) -/

/-- No operation gives a number, a comparison that holds, or a flag where an operand is a NaN. -/
theorem FVal.add_nan {rm : RMode} {v w : FVal} (h : v = .nan ∨ w = .nan) : v.add rm w = (.nan, false) := by
  rcases h with rfl | rfl
  · rfl
  · cases v <;> rfl

theorem FVal.mul_nan {v w : FVal} (h : v = .nan ∨ w = .nan) : v.mul w = (.nan, false) := by
  rcases h with rfl | rfl
  · rfl
  · cases v <;> rfl

theorem fusedValue_nan {rm : RMode} {a b c : FVal} (h : a = .nan ∨ b = .nan ∨ c = .nan) : fusedValue rm a b c = (.nan, false) := by
  rw [fusedValue, if_pos]
  rcases h with rfl | rfl | rfl <;> simp [FVal.isNan]

theorem lesser_nan {v w : FVal} (h : v = .nan ∨ w = .nan) : lesser v w = .nan := by
  rw [lesser, if_pos]
  rcases h with rfl | rfl <;> simp [FVal.isNan]

theorem greater_nan {v w : FVal} (h : v = .nan ∨ w = .nan) : greater v w = .nan := by
  rw [greater, if_pos]
  rcases h with rfl | rfl <;> simp [FVal.isNan]

theorem FVal.lt_nan {v w : FVal} (h : v = .nan ∨ w = .nan) : v.lt w = false := by
  rcases h with rfl | rfl
  · rfl
  · cases v <;> rfl

theorem FVal.eq_nan {v w : FVal} (h : v = .nan ∨ w = .nan) : v.eq w = false := by
  rcases h with rfl | rfl
  · rfl
  · cases v <;> rfl

theorem round_nan_fp32 (rm : RMode) (ftz : Bool) : fp32.round rm ftz .nan = (0x7FC00000, 0#6) := rfl

theorem roundResult_nan (rm : RMode) (ftz : Bool) : roundResult fp32 rm ftz (.nan, false) = (0x7FC00000, 0#6) := rfl

theorem FVal.neg_eq_nan {v : FVal} : v = .nan → v.neg = .nan := by
  rintro rfl
  rfl

section
variable {u : Bool} {g : Guard} {d a b c : BitVec 6} {pd : BitVec 5} {s : State}

/-- A guarded FP32 result, computed from the context at issue. -/
theorem guarded_f32Out {r : Ctx → Nat × FlagSet} (hg : s.core.ctx.guardBit g = true) :
    guarded g s (fun c => c.onCtx fun x => x.f32Out u d (r x))
      = s.pends (scalarSlot u) 4 (r s.core.ctx).2 (.s d (BitVec.ofNat 64 (r s.core.ctx).1)) := by
  rw [guarded_true hg]
  rfl

/-- A guarded scalar result with flags, computed from the context at issue. -/
theorem guarded_scalarOut {lat : Nat} {fl : Ctx → FlagSet} {v : Ctx → Word} (hg : s.core.ctx.guardBit g = true) :
    guarded g s (fun c => c.onCtx fun x => x.scalarOut u lat (fl x) d (v x))
      = s.pends (scalarSlot u) lat (fl s.core.ctx) (.s d (v s.core.ctx)) := by
  rw [guarded_true hg]
  rfl

theorem exec_fadd : exec (.fadd u g d a b) s = guarded g s fun c => c.onCtx fun x =>
    x.f32Out u d (roundResult fp32 x.fmt.rm x.ftz ((x.f32 a).add x.fmt.rm (x.f32 b))) := rfl

theorem exec_fsub : exec (.fsub u g d a b) s = guarded g s fun c => c.onCtx fun x =>
    x.f32Out u d (roundResult fp32 x.fmt.rm x.ftz ((x.f32 a).add x.fmt.rm (x.f32 b).neg)) := rfl

theorem exec_fmul : exec (.fmul u g d a b) s = guarded g s fun c => c.onCtx fun x =>
    x.f32Out u d (roundResult fp32 x.fmt.rm x.ftz ((x.f32 a).mul (x.f32 b))) := rfl

theorem exec_ffma : exec (.ffma u g d a b c) s = guarded g s fun k => k.onCtx fun x =>
    x.f32Out u d (roundResult fp32 x.fmt.rm x.ftz (fusedValue x.fmt.rm (x.f32 a) (x.f32 b) (x.f32 c))) := rfl

theorem exec_fmin : exec (.fmin u g d a b) s = guarded g s fun c => c.onCtx fun x =>
    x.f32Out u d (fp32.round .rne false (lesser (x.f32 a) (x.f32 b))) := rfl

theorem exec_fmax : exec (.fmax u g d a b) s = guarded g s fun c => c.onCtx fun x =>
    x.f32Out u d (fp32.round .rne false (greater (x.f32 a) (x.f32 b))) := rfl

theorem exec_fcmplt : exec (.fcmplt u g pd a b) s
    = guarded g s fun c => c.onCtx fun x => x.predOut u 4 pd (allPred ((x.f32 a).lt (x.f32 b))) := rfl

theorem exec_fcmpeq : exec (.fcmpeq u g pd a b) s
    = guarded g s fun c => c.onCtx fun x => x.predOut u 4 pd (allPred ((x.f32 a).eq (x.f32 b))) := rfl

theorem exec_fcvtfi : exec (.fcvtfi u g d a) s = guarded g s fun c => c.onCtx fun x =>
    x.scalarOut u 4 (toIntSat 32 x.fmt.rm (x.f32 a)).2 d (BitVec.ofInt 64 (toIntSat 32 x.fmt.rm (x.f32 a)).1) := rfl

theorem exec_fcvtif : exec (.fcvtif u g d a) s = guarded g s fun c => c.onCtx fun x =>
    x.f32Out u d (fp32.round x.fmt.rm x.ftz (FVal.ofInt (x.getS a).toInt)) := rfl

end

/-- Settles O5: each form is guarded and rounds one exact value; a NaN operand makes that value a NaN, which rounds to the canonical
NaN. -/
theorem scalarFloatResults : Obligations.ScalarFloatResults := by
  intro s u g d a b c pd hg x A B out all
  refine ⟨exec_fadd.trans (guarded_f32Out hg), exec_fsub.trans (guarded_f32Out hg), exec_fmul.trans (guarded_f32Out hg), exec_ffma.trans (guarded_f32Out hg),
    exec_fmin.trans (guarded_f32Out hg), exec_fmax.trans (guarded_f32Out hg), exec_fcmplt.trans (guarded_predOut hg),
    exec_fcmpeq.trans (guarded_predOut hg), exec_fcvtfi.trans (guarded_scalarOut hg), exec_fcvtif.trans (guarded_f32Out hg), fun h => ?_⟩
  intro nan
  have hsub : A = .nan ∨ B.neg = .nan := h.imp_right FVal.neg_eq_nan
  have round_nan : ∀ {e : FVal × Bool}, e = (.nan, false) → out (roundResult fp32 x.fmt.rm x.ftz e) = nan := by
    rintro _ rfl
    rw [roundResult_nan]
  have least_nan : ∀ {v : FVal}, v = .nan → out (fp32.round .rne false v) = nan := by
    rintro _ rfl
    rw [round_nan_fp32]
  have compare_nan : ∀ {b : Bool}, b = false → s.predNext u 4 pd (allPred b) = s.predNext u 4 pd 0 := by
    rintro _ rfl
    rw [allPred_false]
    rfl
  exact ⟨exec_fadd.trans <| (guarded_f32Out hg).trans (round_nan (FVal.add_nan h)), exec_fsub.trans <| (guarded_f32Out hg).trans (round_nan (FVal.add_nan hsub)),
    exec_fmul.trans <| (guarded_f32Out hg).trans (round_nan (FVal.mul_nan h)),
    exec_ffma.trans <| (guarded_f32Out hg).trans (round_nan (fusedValue_nan (h.imp_right .inl))),
    exec_ffma.trans <| (guarded_f32Out hg).trans (round_nan (fusedValue_nan (h.imp_right .inr))),
    exec_ffma.trans <| (guarded_f32Out hg).trans (round_nan (fusedValue_nan (.inr h))),
    exec_fmin.trans <| (guarded_f32Out hg).trans (least_nan (lesser_nan h)), exec_fmax.trans <| (guarded_f32Out hg).trans (least_nan (greater_nan h)),
    exec_fcmplt.trans <| (guarded_predOut hg).trans (compare_nan (FVal.lt_nan h)), exec_fcmpeq.trans <| (guarded_predOut hg).trans (compare_nan (FVal.eq_nan h))⟩

/-! ### Special registers (R80, R147 to R149) -/

theorem getLsbD_seven_iff (idx : BitVec 8) : idx.getLsbD 7 = true ↔ 0x80 ≤ idx.toNat := by
  revert idx
  decide

theorem sysCheck_eq_none {idx : BitVec 8} {c : Core} (h : c.priv = true ∨ idx.toNat < 0x80) : sysCheck idx c = none := by
  have hb := getLsbD_seven_iff idx
  rw [sysCheck, if_neg]
  rcases h with h | h
  · simp [h]
  · rw [Bool.eq_false_iff.2 fun hb' => absurd (hb.1 hb') (by omega)]
    simp

theorem sysCheck_eq_some {idx : BitVec 8} {c : Core} (hp : c.priv = false) (h : 0x80 ≤ idx.toNat) :
    sysCheck idx c = some .privilege := by
  rw [sysCheck, if_pos]
  simp [hp, (getLsbD_seven_iff idx).2 h]

/-- Outside a recorded or replayed run a logged value is itself. -/
theorem State.logged_of_no_replay {s : State} {part kind who val : Nat} (h : s.replayOf part = none) :
    s.logged part kind who val = (val, s) := by
  rw [State.logged, h]

theorem State.rdsys_of_no_replay {s : State} (u : Bool) (d : BitVec 6) (idx : BitVec 8) (h : s.replayOf s.core.space.part = none) :
    s.rdsys u d idx = s.onCore fun c => c.onCtx fun x => x.push (scalarSlot u) 2 0#6 (.s d (s.core.rdsys idx)) := by
  simp only [State.rdsys, Ctx.scalarOut, State.logged_of_no_replay h, ite_self, BitVec.ofNat_toNat, BitVec.setWidth_eq]

theorem checkedState_fails {g : Guard} {slot : Nat} {check : State → Option Trap} {s : State} {f : State → State} {r : Trap}
    (h : s.core.ctx.guardBit g = true) (hc : check s = some r) : checkedState g slot check s f = .next (s.raise r slot) := by
  rw [checkedState, if_pos h, hc]

section
variable {u : Bool} {g : Guard} {d a : BitVec 6} {pd : BitVec 5} {idx : BitVec 8} {s : State}

theorem exec_rdsys : exec (.rdsys u g d idx) s
    = checkedState g (scalarSlot u) (fun s => sysCheck idx s.core) s fun s => s.rdsys u d idx := rfl

theorem exec_wrsys : exec (.wrsys u g a idx) s
    = checked g (scalarSlot u) (sysCheck idx) s fun c => c.onCtx fun x => x.push (scalarSlot u) 1 0#6 (.sys idx (x.getS a)) := rfl

theorem exec_rddst : exec (.rddst u g pd) s = guarded g s fun c => c.onCtx fun x => x.predOut u 8 pd x.dstat := rfl

end

/-- Settles O7: the check of privilege passes or fails as the index says, and outside a recorded run RDSYS samples the register. -/
theorem specialRegisterAccess : Obligations.SpecialRegisterAccess := by
  intro s u g d a pd idx hg
  refine ⟨fun h => ⟨fun hr => ?_, exec_wrsys.trans <| checked_passes hg (sysCheck_eq_none h)⟩,
    fun hp h => ⟨exec_rdsys.trans (checkedState_fails hg (sysCheck_eq_some hp h)), exec_wrsys.trans <| checked_fails hg (sysCheck_eq_some hp h)⟩, exec_rddst.trans (guarded_predOut hg)⟩
  refine exec_rdsys.trans <| (checkedState_passes hg (sysCheck_eq_none h)).trans ?_
  rw [State.rdsys_of_no_replay u d idx hr]
  rfl

end Sys2Proof.Machine
end

section
/-! What RDSYS reads after a WRSYS to the same register has taken effect (R63, R80, R148, R369). -/

namespace Sys2Proof.Machine

/-! ### Words with a field -/

/-- A field of `n` bits, zero-extended. -/
theorem setWidth_setWidth_eq_ofNat (v : Word) {n : Nat} (h : n ≤ 64) :
    (v.setWidth n).setWidth 64 = BitVec.ofNat 64 (v.toNat % 2 ^ n) := by
  have hp : 2 ^ n ≤ 2 ^ 64 := Nat.pow_le_pow_right (by decide) h
  have hlt : v.toNat % 2 ^ n < 2 ^ 64 := (Nat.mod_lt _ (Nat.two_pow_pos n)).trans_le hp
  apply BitVec.eq_of_toNat_eq
  rw [BitVec.toNat_setWidth, BitVec.toNat_setWidth, BitVec.toNat_ofNat]

theorem bitWord_getLsbD (b : Bool) {i j : Nat} (hj : j < 64) : (bitWord b i).getLsbD j = (b && decide (i = j)) := by
  rw [bitWord]
  cases b
  · simp
  · rw [if_pos rfl, BitVec.getLsbD_ofNat, Nat.testBit_two_pow]
    simp [hj]

theorem bitWord_toNat (b : Bool) {i : Nat} (h : i < 64) : (bitWord b i).toNat = if b then 2 ^ i else 0 := by
  cases b
  · rfl
  · rw [bitWord, if_pos rfl, if_pos rfl, BitVec.toNat_ofNat, Nat.mod_eq_of_lt (Nat.pow_lt_pow_right (by decide) h)]

/-- MODE is the three bits that were written (R81). -/
theorem mode_bits (v : Word) :
    bitWord (v.getLsbD 0) 0 ||| bitWord (v.getLsbD 1) 1 ||| bitWord (v.getLsbD 2) 2 = BitVec.ofNat 64 (v.toNat % 2 ^ 3) := by
  apply BitVec.eq_of_getLsbD_eq
  intro i hi
  rw [BitVec.getLsbD_or, BitVec.getLsbD_or, bitWord_getLsbD _ hi, bitWord_getLsbD _ hi, bitWord_getLsbD _ hi, BitVec.getLsbD_ofNat,
    Nat.testBit_mod_two_pow, BitVec.testBit_toNat]
  rcases i with _ | _ | _ | i <;> simp [hi]

/-- PSPAN holds at least 1 (R148). -/
theorem pspan_bits (v : Word) :
    (if v.setWidth 16 = 0#16 then 1#16 else v.setWidth 16).setWidth 64 = BitVec.ofNat 64 (max 1 (v.toNat % 2 ^ 16)) := by
  have hmod : v.toNat % 2 ^ 16 = (v.setWidth 16).toNat := (BitVec.toNat_setWidth ..).symm
  rw [hmod]
  generalize v.setWidth 16 = x
  apply BitVec.eq_of_toNat_eq
  have hx := x.isLt
  split
  case isTrue h => subst h; rfl
  case isFalse h =>
    have hne : x.toNat ≠ 0 := fun h0 => h (BitVec.eq_of_toNat_eq h0)
    rw [BitVec.toNat_setWidth, BitVec.toNat_ofNat, max_eq_right (by omega)]

/-! ### Registers of several fields -/

/-- The four debits of a written EDEBIT register are the bytes of its low half (R72). -/
theorem edebitWord_setEdebit (e : Energy) (v : Word) {j : Nat} (hj : j < 4) :
    (e.setEdebit j v).edebitWord j = BitVec.ofNat 64 (v.toNat % 2 ^ 32) := by
  have hdig : ∀ i, i < 4 → ((e.setEdebit j v).edebit.toList.getD (4 * j + i) 0#8).toNat = digit 8 v.toNat i := by
    intro i hi
    have h8 := digit_lt 8 v.toNat i
    rw [Energy.setEdebit, Vector.toList_ofFn, List.getD_eq_getElem?_getD, List.getElem?_ofFn, dif_pos (show 4 * j + i < 16 by omega),
      Option.getD_some, if_pos (show (4 * j + i) / 4 = j by omega), show (4 * j + i) % 4 = i by omega, BitVec.toNat_ofNat,
      Nat.mod_eq_of_lt h8]
  have hpack := packNat_congr (w := 8) (n := 4) fun i hi => congrArg (· % 2 ^ 8) (hdig i hi)
  rw [packNat_digit] at hpack
  rw [Energy.edebitWord, hpack]

/-- Fields that do not overlap join to their sum. -/
theorem or_shiftLeft_toNat {a b n : Nat} (h : a < 2 ^ n) : a ||| b <<< n = a + b * 2 ^ n := by
  rw [Nat.shiftLeft_eq, Nat.or_comm, Nat.mul_comm, ← Nat.two_pow_add_eq_or_of_lt h, Nat.add_comm]

/-- ALLOW reads its two limits and its trap bit (R63). -/
theorem allow_toNat {c : Core} (hA : c.allowA1.toNat < 2 ^ 8) (hW : c.allowAW.toNat < 2 ^ 10) :
    c.allow.toNat = c.allowA1.toNat + c.allowAW.toNat * 2 ^ 8 + if c.allowTrap then 2 ^ 18 else 0 := by
  have hA64 : c.allowA1.toNat % 2 ^ 64 = c.allowA1.toNat := Nat.mod_eq_of_lt (by omega)
  have hW64 : c.allowAW.toNat % 2 ^ 64 = c.allowAW.toNat := Nat.mod_eq_of_lt (by omega)
  have hsh : c.allowAW.toNat <<< 8 % 2 ^ 64 = c.allowAW.toNat <<< 8 := Nat.mod_eq_of_lt (by rw [Nat.shiftLeft_eq]; omega)
  have hbit : (if c.allowTrap then 2 ^ 18 else 0) = (if c.allowTrap then 1 else 0) <<< 18 := by cases c.allowTrap <;> rfl
  rw [Core.allow, BitVec.toNat_or, BitVec.toNat_or, BitVec.toNat_shiftLeft, BitVec.toNat_setWidth, BitVec.toNat_setWidth, hA64, hW64,
    hsh, bitWord_toNat _ (by decide), hbit, or_shiftLeft_toNat hA, or_shiftLeft_toNat (by omega), ← hbit]
  cases c.allowTrap <;> rfl

theorem clampNat_le {lo hi x : Nat} (h : lo ≤ hi) : clampNat lo hi x ≤ hi := by rw [clampNat]; omega

theorem toNat_ofNat_clampNat {w lo hi x : Nat} (h : lo ≤ hi) (hw : hi < 2 ^ w) :
    (BitVec.ofNat w (clampNat lo hi x)).toNat = max lo (min hi x) := by
  rw [BitVec.toNat_ofNat, Nat.mod_eq_of_lt ((clampNat_le h).trans_lt hw), clampNat]

theorem getLsbD_toNat (v : Word) (i : Nat) : (if v.getLsbD i then 2 ^ i else 0) = v.toNat / 2 ^ i % 2 * 2 ^ i := by
  rw [← BitVec.testBit_toNat, Nat.testBit_eq_decide_div_mod_eq]
  rcases Nat.mod_two_eq_zero_or_one (v.toNat / 2 ^ i) with h | h <;> simp [h]

theorem allow_wrsys (c : Core) (v : Word) : (c.wrsys 0x80#8 v).allow.toNat
    = max 2 (min 64 (v.toNat % 2 ^ 8)) + max 2 (min 512 (v.toNat / 2 ^ 8 % 2 ^ 10)) * 2 ^ 8 + v.toNat / 2 ^ 18 % 2 * 2 ^ 18 := by
  have hA : (c.wrsys 0x80#8 v).allowA1.toNat = max 2 (min 64 (v.toNat % 2 ^ 8)) := toNat_ofNat_clampNat (by decide) (by decide)
  have hW : (c.wrsys 0x80#8 v).allowAW.toNat = max 2 (min 512 (v.toNat / 2 ^ 8 % 2 ^ 10)) :=
    toNat_ofNat_clampNat (by decide) (by decide)
  have hT : (c.wrsys 0x80#8 v).allowTrap = v.getLsbD 18 := rfl
  rw [allow_toNat (by omega) (by omega), hA, hW, hT, getLsbD_toNat]

/-- TRAPVEC reads the handler, ACTIVE, which a write leaves as it was, and EN (R369). -/
theorem trapvec_wrsys (c : Core) (v : Word) : (c.wrsys 0x8A#8 v).ctx.trapvec.toNat
    = v.toNat / 64 * 64 + (if c.ctx.trapActive then 2 else 0) + v.toNat % 2 := by
  have hv := v.isLt
  have haddr : (addrOf (indexOf v)).toNat = v.toNat / 64 * 2 ^ 6 := by
    rw [addrOf, indexOf, BitVec.toNat_append, BitVec.extractLsb'_toNat, Nat.shiftRight_eq_div_pow, BitVec.toNat_ofNat,
      Nat.shiftLeft_eq]
    simp only [Nat.zero_mod, Nat.or_zero]
    omega
  have hen : (if v.getLsbD 0 then 1 else 0) = v.toNat % 2 := by
    have h := getLsbD_toNat v 0
    simpa using h
  have hbits : (bitWord c.ctx.trapActive 1).toNat ||| (bitWord (v.getLsbD 0) 0).toNat
      = (if c.ctx.trapActive then 2 else 0) + if v.getLsbD 0 then 1 else 0 := by
    cases c.ctx.trapActive <;> cases v.getLsbD 0 <;> rfl
  have hsmall : ((if c.ctx.trapActive then 2 else 0) + if v.getLsbD 0 then 1 else 0) < 2 ^ 6 := by
    cases c.ctx.trapActive <;> cases v.getLsbD 0 <;> decide
  have h : (c.wrsys 0x8A#8 v).ctx.trapvec = addrOf (indexOf v) ||| bitWord c.ctx.trapActive 1 ||| bitWord (v.getLsbD 0) 0 := rfl
  rw [h, BitVec.toNat_or, BitVec.toNat_or, Nat.or_assoc, haddr, hbits, Nat.mul_comm, ← Nat.two_pow_add_eq_or_of_lt hsmall, hen]
  omega

/-- The EDEBIT registers stand at 0x81 to 0x84. -/
theorem rdsys_wrsys_edebit (c : Core) (v : Word) {j : Nat} (hj : j < 4) :
    (c.wrsys (BitVec.ofNat 8 (0x81 + j)) v).rdsys (BitVec.ofNat 8 (0x81 + j)) = (c.energy.setEdebit j v).edebitWord j := by
  rcases j with _ | _ | _ | _ | j
  · rfl
  · rfl
  · rfl
  · rfl
  · omega

/-- Settles O8: each register reads back the fields that its write has kept. -/
theorem specialRegisterFields : Obligations.SpecialRegisterFields := fun c v =>
  ⟨setWidth_setWidth_eq_ofNat v (by decide), setWidth_setWidth_eq_ofNat v (by decide), mode_bits v,
    setWidth_setWidth_eq_ofNat v (by decide), setWidth_setWidth_eq_ofNat v (by decide), pspan_bits v,
    setWidth_setWidth_eq_ofNat v (by decide),
    fun _ hj => (rdsys_wrsys_edebit c v hj).trans (edebitWord_setEdebit c.energy v hj), allow_wrsys c v, trapvec_wrsys c v⟩

end Sys2Proof.Machine
end

section
/-! The lane-wise vector operations (R151 to R166): their shapes, the lane arithmetic of each type, and the moves of lanes. -/

namespace Sys2Proof.Machine

/-! ### Shapes of a row result -/

/-- Only the context at hand matters to an update of it. -/
theorem onCore_onCtx_congr {s : State} {f f' : Ctx → Ctx} (h : f s.core.ctx = f' s.core.ctx) :
    (s.onCore fun c => c.onCtx f) = s.onCore fun c => c.onCtx f' := by
  rw [State.onCore, State.onCore, Core.onCtx, Core.onCtx, h]

theorem onCore_onCtx_self {s : State} {f : Ctx → Ctx} (h : f s.core.ctx = s.core.ctx) : (s.onCore fun c => c.onCtx f) = s := by
  rw [State.onCore, Core.onCtx, h]

theorem joinFlags_congr {p : Pred} {f f' : Nat → FlagSet} {n : Nat} (h : ∀ i, i < n → p.getLsbD i = true → f i = f' i) :
    joinFlags p f n = joinFlags p f' n := by
  induction n with
  | zero => rfl
  | succ n ih =>
    rw [joinFlags, joinFlags, ih fun i hi => h i (by omega)]
    congr 1
    split
    · exact h n (by omega) ‹_›
    · rfl

theorem getLsbD_of_and_left {p q : Pred} {i : Nat} (h : (p &&& q).getLsbD i = true) : p.getLsbD i = true := by
  rw [BitVec.getLsbD_and, Bool.and_eq_true] at h
  exact h.1

/-- A row result depends on the lanes that its guard leaves on, modulo 2^w, and on their flags. -/
theorem vecOut_congr_on {x : Ctx} {u : Bool} {g : Guard} {lat w n : Nat} {d : BitVec 8} {f f' : Nat → Nat × FlagSet}
    (h : ∀ i, i < n → (x.guardMask g).getLsbD i = true → (f i).1 % 2 ^ w = (f' i).1 % 2 ^ w ∧ (f i).2 = (f' i).2) :
    x.vecOut u g lat w n d f = x.vecOut u g lat w n d f' := by
  have hrow : rowOf w n (fun i => if (x.guardMask g &&& lowPred n).getLsbD i then (f i).1 else 0)
      = rowOf w n (fun i => if (x.guardMask g &&& lowPred n).getLsbD i then (f' i).1 else 0) :=
    rowOf_congr fun i hi => by
      split
      case isTrue hon => exact (h i hi (getLsbD_of_and_left hon)).1
      case isFalse => rfl
  simp only [Ctx.vecOut, hrow, joinFlags_congr fun i hi hon => (h i hi (getLsbD_of_and_left hon)).2]

/-- With no lane on, a row result is none. -/
theorem vecOut_off {x : Ctx} {u : Bool} {g : Guard} {lat w n : Nat} {d : BitVec 8} {f : Nat → Nat × FlagSet}
    (h : x.guardMask g &&& lowPred n = 0#1024) : x.vecOut u g lat w n d f = x := by
  simp only [Ctx.vecOut, if_pos h]

section
variable {u : Bool} {g : Guard} {lat : Nat} {d : BitVec 8} {t : VType} {s : State}

theorem vecMap_next {F : Ctx → Nat → Nat × FlagSet} {f : Nat → Nat × FlagSet}
    (h : ∀ i, i < t.lanes → (F s.core.ctx i).1 % 2 ^ t.width = (f i).1 % 2 ^ t.width ∧ (F s.core.ctx i).2 = (f i).2) :
    vecMap u g lat d t F s = s.vecNext u g lat d t f := by
  rw [vecMap, State.vecNext, State.ctxNext]
  exact congrArg Host.Outcome.next (onCore_onCtx_congr (vecOut_congr_on fun i hi _ => h i hi))

/-- The form of a lane-wise operation whose lanes are given as the model computes them. -/
theorem vecMap_eq {F : Ctx → Nat → Nat × FlagSet} : vecMap u g lat d t F s = s.vecNext u g lat d t (F s.core.ctx) :=
  vecMap_next fun _ _ => ⟨rfl, rfl⟩

theorem vecMove_next {F : Ctx → Nat → Nat} {f : Nat → Nat}
    (h : ∀ i, i < t.lanes → F s.core.ctx i % 2 ^ t.width = f i % 2 ^ t.width) :
    vecMove u g lat d t F s = s.vecNext u g lat d t fun i => (f i, 0#6) :=
  vecMap_next fun i hi => ⟨h i hi, rfl⟩

theorem vecMove_eq {F : Ctx → Nat → Nat} : vecMove u g lat d t F s = s.vecNext u g lat d t fun i => (F s.core.ctx i, 0#6) := vecMap_eq

/-- An i32 form whose lanes are those of integers modulo 2^32. -/
theorem vecMap_i32_next {F : Ctx → Nat → Nat × FlagSet} {f : Nat → Int}
    (h : ∀ i, (F s.core.ctx i).1 = wrapInt 32 (f i) ∧ (F s.core.ctx i).2 = 0#6) :
    vecMap u g lat d .i32 F s = s.vecNext u g lat d .i32 fun i => ((f i % 2 ^ 32).toNat, 0#6) :=
  vecMap_next fun i _ => ⟨congrArg (· % 2 ^ 32) (h i).1, (h i).2⟩

theorem vecMove_i32_next {F : Ctx → Nat → Nat} {f : Nat → Int} (h : ∀ i, F s.core.ctx i = wrapInt 32 (f i)) :
    vecMove u g lat d .i32 F s = s.vecNext u g lat d .i32 fun i => ((f i % 2 ^ 32).toNat, 0#6) :=
  vecMap_i32_next fun i => ⟨h i, rfl⟩

end

/-! ### Which shape each operation has -/

section
variable {u : Bool} {g : Guard} {d a b c : BitVec 8} {t td : VType} {ss sd : BitVec 6} {ps : BitVec 5} {s : State}

theorem exec_vadd : exec (.vadd u g d a b t) s = vecMap u g 3 d t (fun x i =>
    laneArith t x ((laneValue t x.ftz (laneOf t (x.getV a) i)).add x.fmt.rm (laneValue t x.ftz (laneOf t (x.getV b) i)))
      (laneOf t (x.getV a) i + laneOf t (x.getV b) i)) s := rfl

theorem exec_vsub : exec (.vsub u g d a b t) s = vecMap u g 3 d t (fun x i =>
    laneArith t x ((laneValue t x.ftz (laneOf t (x.getV a) i)).add x.fmt.rm (laneValue t x.ftz (laneOf t (x.getV b) i)).neg)
      (laneOf t (x.getV a) i + 2 ^ 32 - laneOf t (x.getV b) i)) s := rfl

theorem exec_vmul : exec (.vmul u g d a b t) s = vecMap u g 5 d t (fun x i =>
    laneArith t x ((laneValue t x.ftz (laneOf t (x.getV a) i)).mul (laneValue t x.ftz (laneOf t (x.getV b) i)))
      (laneOf t (x.getV a) i * laneOf t (x.getV b) i)) s := rfl

theorem exec_vfma : exec (.vfma u g d a b t c) s = vecMap u g 5 d t (fun x i =>
    laneArith t x (fusedValue x.fmt.rm (laneValue t x.ftz (laneOf t (x.getV a) i)) (laneValue t x.ftz (laneOf t (x.getV b) i))
        (laneValue t x.ftz (laneOf t (x.getV c) i)))
      (laneOf t (x.getV a) i * laneOf t (x.getV b) i + laneOf t (x.getV c) i)) s := rfl

theorem exec_vfms : exec (.vfms u g d a b t c) s = vecMap u g 5 d t (fun x i =>
    laneArith t x (fusedValue x.fmt.rm (laneValue t x.ftz (laneOf t (x.getV a) i)) (laneValue t x.ftz (laneOf t (x.getV b) i))
        (laneValue t x.ftz (laneOf t (x.getV c) i)).neg)
      (laneOf t (x.getV a) i * laneOf t (x.getV b) i + 2 ^ 32 - laneOf t (x.getV c) i)) s := rfl

theorem exec_vmin : exec (.vmin u g d a b t) s
    = vecMove u g 3 d t (fun x i => lanePick t x.ftz lesser (laneOf t (x.getV a) i) (laneOf t (x.getV b) i)) s := rfl

theorem exec_vmax : exec (.vmax u g d a b t) s
    = vecMove u g 3 d t (fun x i => lanePick t x.ftz greater (laneOf t (x.getV a) i) (laneOf t (x.getV b) i)) s := rfl

theorem exec_vabs : exec (.vabs u g d a t) s = vecMove u g 2 d t (fun x i => laneAbs t (laneOf t (x.getV a) i)) s := rfl

theorem exec_vneg : exec (.vneg u g d a t) s = vecMove u g 2 d t (fun x i => laneNeg t (laneOf t (x.getV a) i)) s := rfl

theorem exec_vshl : exec (.vshl u g d a b t) s
    = vecMove u g 3 d t (fun x i => laneShl (laneOf t (x.getV a) i) (laneOf t (x.getV b) i)) s := rfl

theorem exec_vshr : exec (.vshr u g d a b t) s
    = vecMove u g 3 d t (fun x i => laneShr (laneOf t (x.getV a) i) (laneOf t (x.getV b) i)) s := rfl

theorem exec_vsar : exec (.vsar u g d a b t) s
    = vecMove u g 3 d t (fun x i => laneSar (laneOf t (x.getV a) i) (laneOf t (x.getV b) i)) s := rfl

theorem exec_viota : exec (.viota u g d t) s = vecMap u g 2 d t (fun x i => laneArith t x (FVal.ofInt i, false) i) s := rfl

theorem exec_vand : exec (.vand u g d a b t) s
    = vecMove u g 2 d t (fun x i => laneOf t (x.getV a) i &&& laneOf t (x.getV b) i) s := rfl

theorem exec_vor : exec (.vor u g d a b t) s
    = vecMove u g 2 d t (fun x i => laneOf t (x.getV a) i ||| laneOf t (x.getV b) i) s := rfl

theorem exec_vxor : exec (.vxor u g d a b t) s
    = vecMove u g 2 d t (fun x i => laneOf t (x.getV a) i ^^^ laneOf t (x.getV b) i) s := rfl

theorem exec_vsel : exec (.vsel u g d a b t ps) s
    = vecMove u g 2 d t (fun x i => if (x.getP ps).getLsbD i then laneOf t (x.getV a) i else laneOf t (x.getV b) i) s := rfl

theorem exec_vmov : exec (.vmov u g d a t) s = vecMove u g 2 d t (fun x i => laneOf t (x.getV a) i) s := rfl

theorem exec_vbcast : exec (.vbcast u g d t ss) s = vecMove u g 2 d t (fun x _ => (x.getS ss).toNat % 2 ^ t.width) s := rfl

theorem exec_vlsh : exec (.vlsh u g d a t ss) s
    = vecMove u g 3 d t (fun x i => laneOr0 t (x.getV a) (i + (x.getS ss).toInt)) s := rfl

theorem exec_vlshd : exec (.vlshd u g d a b t ss) s = vecMove u g 3 d t (fun x i =>
    if i + (x.getS ss).toNat < t.lanes then laneOf t (x.getV a) (i + (x.getS ss).toNat)
    else laneOr0 t (x.getV b) ((i + (x.getS ss).toNat : Nat) - t.lanes)) s := rfl

theorem exec_vperm : exec (.vperm u g d a b t) s
    = vecMove u g 3 d t (fun x i => laneOr0 t (x.getV a) (laneOf t (x.getV b) i)) s := rfl

theorem exec_vcvt : exec (.vcvt u g d a t td) s
    = vecMap u g 3 d td (fun x i => if i < t.lanes then convertLane t td x (laneOf t (x.getV a) i) else (0, 0#6)) s := rfl

theorem exec_vpack : exec (.vpack u g d a b t td) s = vecMap u g 3 d td (fun x i =>
    convertLane t td x (if i < 512 then laneOf t (x.getV a) i else laneOf t (x.getV b) (i - 512))) s := rfl

theorem exec_vunpk {h : Bool} : exec (.vunpk u g d a t td h) s
    = vecMap u g 3 d td (fun x i => convertLane t td x (laneOf t (x.getV a) (i + (if h then 512 else 0)))) s := rfl

theorem exec_vexp2 : exec (.vexp2 u g d a t) s = vecMap u g 9 d t (fun x i => specialLane t x exp2Fn (laneOf t (x.getV a) i)) s := rfl

theorem exec_vlog2 : exec (.vlog2 u g d a t) s = vecMap u g 9 d t (fun x i => specialLane t x log2Fn (laneOf t (x.getV a) i)) s := rfl

theorem exec_vrcp : exec (.vrcp u g d a t) s = vecMap u g 9 d t (fun x i => specialLane t x rcpFn (laneOf t (x.getV a) i)) s := rfl

theorem exec_vrsq : exec (.vrsq u g d a t) s = vecMap u g 9 d t (fun x i => specialLane t x rsqFn (laneOf t (x.getV a) i)) s := rfl

theorem exec_vsqrt : exec (.vsqrt u g d a t) s
    = vecMap u g 9 d t (fun x i => specialLane t x (fun _ => sqrtFn x.fmt.rm) (laneOf t (x.getV a) i)) s := rfl

theorem exec_vtanh : exec (.vtanh u g d a t) s = vecMap u g 9 d t (fun x i => specialLane t x tanhFn (laneOf t (x.getV a) i)) s := rfl

theorem exec_vdeq : exec (.vdeq u g d a t) s = vecMove u g 5 d t (fun x i => dequantLane t (x.getV a) i) s := rfl

theorem exec_vquant : exec (.vquant u g d a t) s = .next (if isSteel s.core.id then s.onCore fun c => c.onCtx fun x =>
    x.quantise u g d a t else s.raise .migrate (vectorSlot u)) := rfl

theorem exec_vext : exec (.vext u g sd a ss t) s = guarded g s fun c => c.onCtx fun x =>
    x.push (vectorSlot u) 2 0#6 (.s sd (extractLane t (x.getV a) (x.getS ss).toNat)) := rfl

theorem exec_vins : exec (.vins u g d sd ss t) s = .next (s.onCore fun c => c.onCtx fun x =>
    if t.lanes ≤ (x.getS ss).toNat then x
    else if (x.guardMask g).getLsbD (x.getS ss).toNat then
      x.push (vectorSlot u) 2 0#6 (.row (x.rowName d)
        (BitVec.ofNat 16384 ((2 ^ t.width - 1) * 2 ^ (t.width * (x.getS ss).toNat)))
        (BitVec.ofNat 16384 ((x.getS sd).toNat % 2 ^ t.width * 2 ^ (t.width * (x.getS ss).toNat))))
    else x) := rfl

theorem exec_vscan : exec (.vscan u g d a t) s = .next (s.onCore fun c => c.onCtx fun x =>
    x.vecOut u g 10 t.width t.lanes d fun i => (scanLanes t x (x.guardMask g &&& lowPred t.lanes) (laneOf t (x.getV a))
      (List.range t.lanes) none).getD i (0, 0#6)) := rfl

theorem exec_vcmpeq {pd : BitVec 5} : exec (.vcmpeq u g pd a b t) s = vecCompare u g pd a b t FVal.eq s := rfl

theorem exec_vcmplt {pd : BitVec 5} : exec (.vcmplt u g pd a b t) s = vecCompare u g pd a b t FVal.lt s := rfl

theorem exec_vcmple {pd : BitVec 5} : exec (.vcmple u g pd a b t) s
    = vecCompare u g pd a b t (fun a b => a.lt b || a.eq b) s := rfl

end

/-! ### Lanes of i32 (R154) -/

theorem laneOf_i32_lt (r : Row) (i : Nat) : laneOf .i32 r i < 2 ^ 32 := laneOf_lt .i32 r i

/-- A number below 2^32 that differs from an integer by a multiple of 2^32 is that integer modulo 2^32. -/
theorem mod_eq_wrapInt {n : Nat} {z k : Int} (h : (n : Int) = z + k * 2 ^ 32) : n % 2 ^ 32 = wrapInt 32 z := by
  rw [wrapInt]
  omega

theorem wrapInt_natCast (n : Nat) : wrapInt 32 n = n % 2 ^ 32 := by
  rw [wrapInt]
  omega

theorem FVal.scaled_ofInt (z : Int) : FVal.scaled (decide (z < 0)) z.natAbs 0 0 = z := by
  by_cases h : z < 0
  · simp [FVal.scaled, h, abs_of_neg h]
  · simp [FVal.scaled, h, abs_of_nonneg (not_lt.1 h)]

/-- Comparing two integers as values compares the integers. -/
theorem FVal.lt_ofInt (a b : Int) : (FVal.ofInt a).lt (FVal.ofInt b) = decide (a < b) := by
  simp only [FVal.ofInt, FVal.lt, min_self, FVal.scaled_ofInt]

theorem FVal.eq_ofInt (a b : Int) : (FVal.ofInt a).eq (FVal.ofInt b) = decide (a = b) := by
  simp only [FVal.ofInt, FVal.eq, min_self, FVal.scaled_ofInt]

/-- No integer is a negative zero, so below means less. -/
theorem FVal.below_ofInt (a b : Int) : (FVal.ofInt a).below (FVal.ofInt b) = decide (a < b) := by
  rw [FVal.below, FVal.lt_ofInt, FVal.eq_ofInt]
  by_cases h : a = b
  · subst h; simp [FVal.ofInt, FVal.isNeg]
  · simp [h]

theorem lesser_ofInt (a b : Int) : lesser (FVal.ofInt a) (FVal.ofInt b) = FVal.ofInt (min a b) := by
  rw [lesser, if_neg (by simp [FVal.ofInt, FVal.isNan]), FVal.below_ofInt]
  by_cases h : a < b
  · rw [if_pos (decide_eq_true h), min_eq_left h.le]
  · rw [if_neg (by simpa using h), min_eq_right (not_lt.1 h)]

theorem greater_ofInt (a b : Int) : greater (FVal.ofInt a) (FVal.ofInt b) = FVal.ofInt (max a b) := by
  rw [greater, if_neg (by simp [FVal.ofInt, FVal.isNan]), FVal.below_ofInt]
  by_cases h : a < b
  · rw [if_pos (decide_eq_true h), max_eq_right h.le]
  · rw [if_neg (by simpa using h), max_eq_left (not_lt.1 h)]

/-- An i32 choice between lanes is the choice between their signed numbers. -/
theorem lanePick_i32 {ftz : Bool} {pick : FVal → FVal → FVal} {a b : Nat} {z : Int}
    (h : pick (FVal.ofInt (signedOf 32 a)) (FVal.ofInt (signedOf 32 b)) = FVal.ofInt z) :
    lanePick .i32 ftz pick a b = wrapInt 32 z := by
  have hz : (if decide (z < 0) = true then -(z.natAbs : Int) else z.natAbs) = z := by
    by_cases h : z < 0
    · simp [h, abs_of_neg h]
    · simp [h, abs_of_nonneg (not_lt.1 h)]
  rw [lanePick]
  simp only [vfmt]
  rw [h, FVal.ofInt]
  exact congrArg (wrapInt 32) hz

theorem laneShl_eq_wrapInt (a n : Nat) : laneShl a n = wrapInt 32 (if 32 ≤ n then 0 else a * 2 ^ n) := by
  rw [laneShl]
  split
  · rfl
  · exact_mod_cast (wrapInt_natCast (a * 2 ^ n)).symm

theorem laneShr_eq_wrapInt {a : Nat} (n : Nat) (h : a < 2 ^ 32) : laneShr a n = wrapInt 32 (if 32 ≤ n then 0 else a / 2 ^ n) := by
  rw [laneShr]
  split
  · rfl
  · have hw := wrapInt_natCast (a / 2 ^ n)
    rw [Nat.mod_eq_of_lt ((Nat.div_le_self _ _).trans_lt h)] at hw
    exact_mod_cast hw.symm

/-- Settles O9: on i32 each form computes its integer modulo 2^32. -/
theorem vectorIntegerLanes : Obligations.VectorIntegerLanes := by
  intro s u g d a b c p q r out
  have hq : ∀ i, q i < 2 ^ 32 := laneOf_i32_lt _
  have hr : ∀ i, r i < 2 ^ 32 := laneOf_i32_lt _
  exact ⟨exec_vadd.trans (vecMap_i32_next fun i => ⟨mod_eq_wrapInt (k := 0) (by push_cast; ring), rfl⟩),
    exec_vsub.trans (vecMap_i32_next fun i => ⟨mod_eq_wrapInt (k := 1) (by have := hq i; simp only [p, q] at *; omega), rfl⟩),
    exec_vmul.trans (vecMap_i32_next fun i => ⟨mod_eq_wrapInt (k := 0) (by push_cast; ring), rfl⟩),
    exec_vfma.trans (vecMap_i32_next fun i => ⟨mod_eq_wrapInt (k := 0) (by push_cast; ring), rfl⟩),
    exec_vfms.trans (vecMap_i32_next fun i => ⟨mod_eq_wrapInt (k := 1) (by
      have := hr i
      simp only [r] at this
      rw [Nat.cast_sub (by omega)]
      push_cast
      ring), rfl⟩),
    exec_vmin.trans (vecMove_i32_next fun i => lanePick_i32 (lesser_ofInt _ _)),
    exec_vmax.trans (vecMove_i32_next fun i => lanePick_i32 (greater_ofInt _ _)),
    exec_vabs.trans (vecMove_i32_next fun _ => rfl), exec_vneg.trans (vecMove_i32_next fun _ => rfl),
    exec_vshl.trans (vecMove_i32_next fun i => laneShl_eq_wrapInt _ _),
    exec_vshr.trans (vecMove_i32_next fun i => laneShr_eq_wrapInt _ (laneOf_i32_lt _ i)),
    exec_vsar.trans (vecMove_i32_next fun _ => rfl),
    exec_viota.trans (vecMap_i32_next fun i => ⟨(wrapInt_natCast i).symm, rfl⟩)⟩

/-! ### Lanes of a float type (R154) -/

section
variable {t : VType} {f : FloatFmt}

theorem laneArith_float (hf : vfmt t = some f) (x : Ctx) (ff : FVal × Bool) (n : Nat) :
    laneArith t x ff n = roundResult f x.fmt.rm x.ftz ff := by rw [laneArith, hf]

theorem laneValue_float (hf : vfmt t = some f) (ftz : Bool) (a : Nat) : laneValue t ftz a = f.read ftz a := by rw [laneValue, hf]

theorem lanePick_float (hf : vfmt t = some f) (ftz : Bool) (pick : FVal → FVal → FVal) (a b : Nat) :
    lanePick t ftz pick a b = (f.round .rne false (pick (f.read ftz a) (f.read ftz b))).1 := by rw [lanePick, hf]

/-- The sign bit of a float type is the highest of its lane. -/
theorem sign_bit_of_float (hf : vfmt t = some f) : f.ebits + f.mbits = t.width - 1 := by
  cases t <;> cases hf <;> rfl

theorem laneAbs_float (hf : vfmt t = some f) (a : Nat) : laneAbs t a = a % 2 ^ (t.width - 1) := by
  rw [← sign_bit_of_float hf, laneAbs, hf]

theorem laneNeg_float (hf : vfmt t = some f) (a : Nat) : laneNeg t a = a ^^^ 2 ^ (t.width - 1) := by
  rw [← sign_bit_of_float hf, laneNeg, hf]

end

/-- Settles O10: in a float type each form rounds its exact value once. -/
theorem vectorFloatLanes : Obligations.VectorFloatLanes := by
  intro s u g d a b c t f hf x p q r v out
  have hv := laneValue_float hf
  have ha := laneArith_float hf
  have arith : ∀ {lat : Nat} {F : Ctx → Nat → FVal × Bool} {n : Ctx → Nat → Nat} {e : Nat → FVal × Bool}, (∀ i, F x i = e i) →
      vecMap u g lat d t (fun x i => laneArith t x (F x i) (n x i)) s = out lat e := fun h =>
    vecMap_next fun i _ => by simp only [ha, x, h, and_self]
  exact ⟨exec_vadd.trans (arith fun i => by rw [hv, hv]), exec_vsub.trans (arith fun i => by rw [hv, hv]),
    exec_vmul.trans (arith fun i => by rw [hv, hv]), exec_vfma.trans (arith fun i => by rw [hv, hv, hv]),
    exec_vfms.trans (arith fun i => by rw [hv, hv, hv]),
    exec_vmin.trans (vecMove_next fun i _ => by rw [lanePick_float hf]),
    exec_vmax.trans (vecMove_next fun i _ => by rw [lanePick_float hf]),
    exec_vabs.trans (vecMove_next fun i _ => by rw [laneAbs_float hf]),
    exec_vneg.trans (vecMove_next fun i _ => by rw [laneNeg_float hf]),
    exec_viota.trans (arith fun _ => rfl)⟩

/-! ### Moves of lanes (R156 to R158) -/

theorem laneOr0_natCast (t : VType) (r : Row) (j : Nat) : laneOr0 t r j = if j < t.lanes then laneOf t r j else 0 := by
  simp [laneOr0]

/-- The second half of a double lane shift. -/
theorem laneOr0_sub {t : VType} (r : Row) {j : Nat} (h : ¬ j < t.lanes) :
    laneOr0 t r ((j : Int) - t.lanes) = if j < 2 * t.lanes then laneOf t r (j - t.lanes) else 0 := by
  rw [show (j : Int) - t.lanes = ((j - t.lanes : Nat) : Int) by omega, laneOr0_natCast]
  exact if_congr (by omega) rfl rfl

/-- One digit in its place: the lane there, and zero in every other lane. -/
theorem laneOf_place {t : VType} {v i j : Nat} (hv : v < 2 ^ t.width) (hi : i < t.lanes) (hj : j < t.lanes) :
    laneOf t (BitVec.ofNat 16384 (v * 2 ^ (t.width * i))) j = if j = i then v else 0 := by
  have hrow : BitVec.ofNat 16384 (v * 2 ^ (t.width * i)) = rowOf t.width t.lanes fun k => if k = i then v else 0 := by
    apply BitVec.eq_of_getLsbD_eq
    intro k hk
    rw [BitVec.getLsbD_ofNat, rowOf, BitVec.getLsbD_ofNat, testBit_packNat (vtype_width_pos t), width_mul_lanes,
      Nat.testBit_mul_two_pow]
    have hdm := Nat.div_add_mod k t.width
    have hmod := Nat.mod_lt k (vtype_width_pos t)
    by_cases hki : k / t.width = i
    · subst hki
      simp [hk, Nat.mul_div_le, Nat.mod_eq_sub]
    · simp only [hki, if_false, Nat.zero_testBit, Bool.and_false]
      by_cases hle : t.width * i ≤ k
      · have hlt : i < k / t.width :=
          lt_of_le_of_ne ((Nat.le_div_iff_mul_le (vtype_width_pos t)).2 (by rw [Nat.mul_comm]; exact hle)) (Ne.symm hki)
        have hge : t.width * (i + 1) ≤ k := (Nat.mul_le_mul_left _ hlt).trans (Nat.mul_div_le _ _)
        rw [Nat.mul_succ] at hge
        have hz : v.testBit (k - t.width * i) = false :=
          Nat.testBit_lt_two_pow (hv.trans_le (Nat.pow_le_pow_right (by decide) (by omega)))
        simp [hz]
      · simp [hle]
  rw [hrow, laneOf_rowOf _ hj]
  split
  · exact Nat.mod_eq_of_lt hv
  · exact Nat.zero_mod _

/-- Settles O11: each move gives its lanes, and VINS places one lane. -/
theorem vectorMoves : Obligations.VectorMoves := by
  intro s u g d a b t ss sd ps x p q n out
  refine ⟨exec_vand.trans vecMove_eq, exec_vor.trans vecMove_eq, exec_vxor.trans vecMove_eq, exec_vsel.trans vecMove_eq,
    exec_vmov.trans vecMove_eq, exec_vbcast.trans vecMove_eq, exec_vlsh.trans vecMove_eq,
    exec_vlshd.trans (vecMove_next fun i _ => ?_), exec_vperm.trans (vecMove_next fun i _ => by rw [laneOr0_natCast]),
    fun hg => exec_vext.trans (guarded_true hg), fun hi => ?_, fun hi hg => ?_, fun hi hg => ?_⟩
  · by_cases h : i + (x.getS ss).toNat < t.lanes
    · simp only [x, n, p] at h ⊢
      rw [if_pos h, if_pos h]
    · simp only [x, n, q] at h ⊢
      rw [if_neg h, if_neg h, laneOr0_sub _ h]
  · rw [exec_vins]
    exact congrArg Host.Outcome.next (onCore_onCtx_self (if_pos hi))
  · rw [exec_vins]
    refine congrArg Host.Outcome.next (onCore_onCtx_self ?_)
    rw [if_neg (Nat.not_le.2 hi), hg]
    rfl
  · have h2 : 0 < 2 ^ t.width := Nat.two_pow_pos _
    refine ⟨BitVec.ofNat 16384 ((2 ^ t.width - 1) * 2 ^ (t.width * (x.getS ss).toNat)),
      BitVec.ofNat 16384 ((x.getS sd).toNat % 2 ^ t.width * 2 ^ (t.width * (x.getS ss).toNat)), ?_, ?_, ?_, fun j hj hji => ?_⟩
    · rw [exec_vins]
      refine congrArg Host.Outcome.next (onCore_onCtx_congr ?_)
      rw [if_neg (Nat.not_le.2 hi), hg, if_pos rfl]
    · rw [laneOf_place (by omega) hi hi, if_pos rfl]
    · rw [laneOf_place (Nat.mod_lt _ h2) hi hi, if_pos rfl]
    · rw [laneOf_place (by omega) hi hj, if_neg hji]

/-! ### Compares (R155) -/

/-- Settles O12: the mask of a compare is its guard below N and every bit from N up, and a bit of its value is the outcome of its
lane. -/
theorem vectorCompares : Obligations.VectorCompares := by
  intro s u g pd a b t x p q on out
  have compare : ∀ f : FVal → FVal → Bool, out (vecCompare u g pd a b t f s) f := by
    intro f
    refine ⟨fun h => ?_, fun h => ⟨on ||| ~~~lowPred t.lanes, predOf t.lanes fun i => on.getLsbD i && f (p i) (q i), ?_,
      fun i hi => ⟨?_, fun hm => ?_⟩⟩⟩
    · exact congrArg Host.Outcome.next (onCore_onCtx_self (if_pos h))
    · exact congrArg Host.Outcome.next (onCore_onCtx_congr (if_neg h))
    · have hl := lowPred_getLsbD (n := t.lanes) hi
      simp only [on, BitVec.getLsbD_or, BitVec.getLsbD_and, BitVec.getLsbD_not, hl, hi, decide_true, Bool.true_and]
      by_cases ht : i < t.lanes
      · simp [ht, Nat.not_le.2 ht]
      · simp [ht, Nat.not_lt.1 ht]
    · have hl := lowPred_getLsbD (n := t.lanes) hi
      rw [predOf_getLsbD _ hi]
      simp only [on, BitVec.getLsbD_or, BitVec.getLsbD_and, BitVec.getLsbD_not, hl, hi, decide_true, Bool.true_and] at hm ⊢
      by_cases ht : i < t.lanes
      · simp only [ht, decide_true, Bool.and_true, Bool.not_true, Bool.or_false] at hm
        simp [ht, hm]
      · simp [ht]
  rw [exec_vcmpeq, exec_vcmplt, exec_vcmple]
  exact ⟨compare _, compare _, compare _⟩

/-! ### Scans, conversions and special functions (R160 to R166) -/

/-- Settles O14: each conversion is lane-wise, and a scan gives its list of sums. -/
theorem vectorConversions : Obligations.VectorConversions := by
  intro s u g d a b t td x p q l
  exact ⟨exec_vscan.trans (congrArg Host.Outcome.next (onCore_onCtx_congr rfl)), exec_vcvt.trans vecMap_eq, exec_vpack.trans vecMap_eq, fun _ => exec_vunpk.trans vecMap_eq⟩

/-- Settles O15: each special function is lane-wise, and VQUANT migrates from a core that is not Steel. -/
theorem vectorSpecials : Obligations.VectorSpecials := by
  intro s u g d a t x p out
  exact ⟨exec_vexp2.trans vecMap_eq, exec_vlog2.trans vecMap_eq, exec_vrcp.trans vecMap_eq, exec_vrsq.trans vecMap_eq,
    exec_vsqrt.trans vecMap_eq, exec_vtanh.trans vecMap_eq,
    fun h => exec_vquant.trans (congrArg Host.Outcome.next (if_pos h)),
    fun h => exec_vquant.trans (congrArg Host.Outcome.next (if_neg (by rw [h]; decide))), exec_vdeq.trans vecMove_eq⟩

end Sys2Proof.Machine
end

section
/-! Reductions and scans (R159, R160). The tree joins its leaves in an order that no associative step can tell from the order of the
lanes; on i32 the steps are sums modulo 2^32, greatest and least. -/

namespace Sys2Proof.Machine

/-! ### The tree of an associative step -/

section
variable {f : Nat → Nat → Nat × FlagSet} {op : Nat → Nat → Nat}

theorem joinNodes_none_right (x : TreeNode) : joinNodes f x none = x := by cases x <;> rfl

theorem joinNodes_assoc (hf : ∀ a b, f a b = (op a b, 0#6)) (ho : ∀ a b c, op (op a b) c = op a (op b c)) (x y z : TreeNode) :
    joinNodes f (joinNodes f x y) z = joinNodes f x (joinNodes f y z) := by
  rcases x with _ | x
  · rfl
  · rcases y with _ | y
    · rfl
    · rcases z with _ | z
      · rfl
      · simp only [joinNodes, hf, ho, BitVec.zero_or, BitVec.or_assoc]

/-- The node of a list of nodes, joined from left to right. -/
def joinAll (f : Nat → Nat → Nat × FlagSet) (l : List TreeNode) : TreeNode := l.foldr (joinNodes f) none

theorem joinAll_treeLevel (hf : ∀ a b, f a b = (op a b, 0#6)) (ho : ∀ a b c, op (op a b) c = op a (op b c)) (l : List TreeNode) :
    joinAll f (treeLevel f l) = joinAll f l := by
  induction l using treeLevel.induct with
  | case1 x y t ih =>
    rw [treeLevel, joinAll, List.foldr_cons, ← joinAll, ih, joinNodes_assoc hf ho]
    rfl
  | case2 l h => rw [treeLevel]; exact h

theorem treeLevel_length (l : List TreeNode) : (treeLevel f l).length = (l.length + 1) / 2 := by
  induction l using treeLevel.induct with
  | case1 x y t ih => rw [treeLevel, List.length_cons, ih, List.length_cons, List.length_cons]; omega
  | case2 l h =>
    rw [treeLevel]
    · match l, h with
      | [], _ => rfl
      | [_], _ => simp
      | x :: y :: t, h => exact absurd rfl (h x y t)
    · exact h

/-- A tree that is deep enough joins all its leaves. -/
theorem treeFold_eq_joinAll (hf : ∀ a b, f a b = (op a b, 0#6)) (ho : ∀ a b c, op (op a b) c = op a (op b c)) {n : Nat} :
    ∀ {l : List TreeNode}, l.length ≤ 2 ^ n → treeFold f n l = joinAll f l := by
  induction n with
  | zero =>
    intro l h
    rw [pow_zero] at h
    match l, h with
    | [], _ => rfl
    | [x], _ => exact (joinNodes_none_right x).symm
  | succ n ih =>
    intro l h
    rw [treeFold, ih (by rw [treeLevel_length]; omega), joinAll_treeLevel hf ho]

/-- Leaves that are off do not count, and the others give the value `val` of their list. -/
theorem joinAll_leaves {on : Nat → Bool} {leaf : Nat → Nat} {val : List Nat → Nat} (hf : ∀ a b, f a b = (op a b, 0#6))
    (h1 : ∀ i, val [i] = leaf i) (hc : ∀ i l, l ≠ [] → val (i :: l) = op (leaf i) (val l)) (l : List Nat) :
    joinAll f (l.map fun i => if on i then some (leaf i, 0#6) else none)
      = if l.filter on = [] then none else some (val (l.filter on), 0#6) := by
  induction l with
  | nil => rfl
  | cons i l ih =>
    rw [List.map_cons, joinAll, List.foldr_cons, ← joinAll, ih]
    by_cases hi : on i = true
    · rw [if_pos hi, List.filter_cons_of_pos hi, if_neg (List.cons_ne_nil _ _)]
      by_cases hl : l.filter on = []
      · rw [if_pos hl, hl, h1, joinNodes_none_right]
      · rw [if_neg hl, hc i _ hl]
        simp only [joinNodes, hf, BitVec.or_zero]
    · rw [if_neg hi, List.filter_cons_of_neg hi]
      rfl

end

/-! ### A reduction as its tree -/

section
variable {u : Bool} {g : Guard} {d a : BitVec 8} {t : VType} {s : State}

theorem exec_vredadd : exec (.vredadd u g d a t) s = vecReduce u g d a t (fun x => widen t x.ftz) (sumStep t) (narrow t) s := rfl

theorem exec_vredmax : exec (.vredmax u g d a t) s = vecReduce u g d a t (fun x v => lanePick t x.ftz greater v v)
    (fun x p q => (lanePick t x.ftz greater p q, 0#6)) (fun _ v => (v, 0#6)) s := rfl

theorem exec_vredmin : exec (.vredmin u g d a t) s = vecReduce u g d a t (fun x v => lanePick t x.ftz greater v v)
    (fun x p q => (lanePick t x.ftz lesser p q, 0#6)) (fun _ v => (v, 0#6)) s := rfl

variable {leaf : Ctx → Nat → Nat} {step : Ctx → Nat → Nat → Nat × FlagSet} {out : Ctx → Nat → Nat × FlagSet}

theorem vecReduce_none (h : treeFold (step s.core.ctx) (treeDepth t) (treeLeaves t (s.core.ctx.guardMask g &&& lowPred t.lanes)
    fun i => leaf s.core.ctx (laneOf t (s.core.ctx.getV a) i)) = none) : vecReduce u g d a t leaf step out s = .next s := by
  refine congrArg Host.Outcome.next (onCore_onCtx_self ?_)
  simp only [h]

theorem vecReduce_some {v : Nat × FlagSet} (h : treeFold (step s.core.ctx) (treeDepth t)
    (treeLeaves t (s.core.ctx.guardMask g &&& lowPred t.lanes) fun i => leaf s.core.ctx (laneOf t (s.core.ctx.getV a) i)) = some v) :
    vecReduce u g d a t leaf step out s
      = s.vecNext u g 8 d t fun _ => ((out s.core.ctx v.1).1, (out s.core.ctx v.1).2 ||| v.2) := by
  refine congrArg Host.Outcome.next (onCore_onCtx_congr ?_)
  simp only [h]

end

/-! ### Reductions on i32 -/

/-- The lanes of an i32 row that a guard leaves on. -/
def lanesOn (x : Ctx) (g : Guard) : List Nat := (List.range 512).filter fun k => (x.guardMask g).getLsbD k

theorem guardMask_and_low (x : Ctx) (g : Guard) {k : Nat} (hk : k < 512) :
    (x.guardMask g &&& lowPred (VType.lanes .i32)).getLsbD k = (x.guardMask g).getLsbD k := by
  rw [BitVec.getLsbD_and, lowPred_getLsbD (by omega), decide_eq_true (show k < VType.lanes .i32 from hk), Bool.and_true]

theorem guardMask_off_of_lanesOn {x : Ctx} {g : Guard} (h : lanesOn x g = []) :
    x.guardMask g &&& lowPred (VType.lanes .i32) = 0#1024 := by
  apply BitVec.eq_of_getLsbD_eq
  intro k hk
  rw [BitVec.getLsbD_zero]
  by_cases hk' : k < 512
  · rw [guardMask_and_low x g hk']
    exact Bool.eq_false_iff.2 (List.filter_eq_nil_iff.1 h k (List.mem_range.2 hk'))
  · rw [BitVec.getLsbD_and, lowPred_getLsbD hk, decide_eq_false (show ¬ k < VType.lanes .i32 from hk'), Bool.and_false]

/-- A reduction on i32 whose step is an associative operation modulo 2^32: every guard-true lane gets the value of the list of the
guard-true lanes. -/
theorem vecReduce_i32 {u : Bool} {g : Guard} {d a : BitVec 8} {s : State} {leaf : Ctx → Nat → Nat}
    {step : Ctx → Nat → Nat → Nat × FlagSet} {out : Ctx → Nat → Nat × FlagSet} {op : Nat → Nat → Nat} {val : List Nat → Int}
    (hf : ∀ a b, step s.core.ctx a b = (op a b, 0#6)) (ho : ∀ a b c, op (op a b) c = op a (op b c))
    (hout : ∀ v, out s.core.ctx v = (v, 0#6))
    (h1 : ∀ i, wrapInt 32 (val [i]) = leaf s.core.ctx (laneOf .i32 (s.core.ctx.getV a) i))
    (hc : ∀ i l, l ≠ [] →
      wrapInt 32 (val (i :: l)) = op (leaf s.core.ctx (laneOf .i32 (s.core.ctx.getV a) i)) (wrapInt 32 (val l))) :
    vecReduce u g d a .i32 leaf step out s
      = s.vecNext u g 8 d .i32 fun _ => ((val (lanesOn s.core.ctx g) % 2 ^ 32).toNat, 0#6) := by
  have hleaves : treeLeaves .i32 (s.core.ctx.guardMask g &&& lowPred (VType.lanes .i32))
      (fun i => leaf s.core.ctx (laneOf .i32 (s.core.ctx.getV a) i))
      = (List.range 512).map fun i => if (s.core.ctx.guardMask g).getLsbD i
          then some (leaf s.core.ctx (laneOf .i32 (s.core.ctx.getV a) i), 0#6) else none := by
    refine List.map_congr_left fun i hi => ?_
    rw [guardMask_and_low _ _ (List.mem_range.1 hi)]
  have htree : treeFold (step s.core.ctx) (treeDepth .i32) (treeLeaves .i32 (s.core.ctx.guardMask g &&& lowPred (VType.lanes .i32))
      fun i => leaf s.core.ctx (laneOf .i32 (s.core.ctx.getV a) i))
      = if lanesOn s.core.ctx g = [] then none else some (wrapInt 32 (val (lanesOn s.core.ctx g)), 0#6) := by
    rw [hleaves, treeFold_eq_joinAll hf ho (n := treeDepth .i32) (by rw [List.length_map, List.length_range]; decide),
      joinAll_leaves (val := fun l => wrapInt 32 (val l)) hf h1 hc, lanesOn]
  by_cases hon : lanesOn s.core.ctx g = []
  · rw [if_pos hon] at htree
    rw [vecReduce_none htree]
    exact congrArg Host.Outcome.next (onCore_onCtx_self (vecOut_off (guardMask_off_of_lanesOn hon))).symm
  · rw [if_neg hon] at htree
    rw [vecReduce_some htree]
    simp only [hout, BitVec.or_zero, wrapInt]

theorem signedOf_bounds (a : Nat) : -(2 ^ 31) ≤ signedOf 32 a ∧ signedOf 32 a ≤ 2 ^ 31 - 1 := by
  have h := Nat.mod_lt a (show 0 < 2 ^ 32 by decide)
  simp only [signedOf]
  split <;> omega

/-- An integer of 32 bits is what its word reads as. -/
theorem signedOf_wrapInt {z : Int} (h : -(2 ^ 31) ≤ z ∧ z ≤ 2 ^ 31 - 1) : signedOf 32 (wrapInt 32 z) = z := by
  have hm : (wrapInt 32 z % 2 ^ 32 : Nat) = (z % 2 ^ 32).toNat := by rw [wrapInt]; omega
  simp only [signedOf, hm]
  split_ifs <;> omega

/-- A choice between lanes that follows a choice `ch` between integers, where `ch` stays among 32-bit integers, is associative. -/
theorem pick_assoc {ch : Int → Int → Int} (hch : ∀ a b, ch a b = a ∨ ch a b = b) (ha : ∀ a b c, ch (ch a b) c = ch a (ch b c))
    (a b c : Nat) :
    wrapInt 32 (ch (signedOf 32 (wrapInt 32 (ch (signedOf 32 a) (signedOf 32 b)))) (signedOf 32 c))
      = wrapInt 32 (ch (signedOf 32 a) (signedOf 32 (wrapInt 32 (ch (signedOf 32 b) (signedOf 32 c))))) := by
  have hin : ∀ a b, signedOf 32 (wrapInt 32 (ch (signedOf 32 a) (signedOf 32 b))) = ch (signedOf 32 a) (signedOf 32 b) := by
    intro a b
    apply signedOf_wrapInt
    rcases hch (signedOf 32 a) (signedOf 32 b) with h | h <;> rw [h] <;> exact signedOf_bounds _
  rw [hin, hin, ha]

/-- The value of a choice over a list stays among 32-bit integers. -/
theorem foldl_pick_bounds {ch : Int → Int → Int} (hch : ∀ a b, ch a b = a ∨ ch a b = b) {v : Nat → Nat} (l : List Nat) :
    ∀ {e : Int}, (-(2 ^ 31) ≤ e ∧ e ≤ 2 ^ 31 - 1) →
      -(2 ^ 31) ≤ (l.map fun k => signedOf 32 (v k)).foldl ch e ∧ (l.map fun k => signedOf 32 (v k)).foldl ch e ≤ 2 ^ 31 - 1 := by
  induction l with
  | nil => exact fun h => h
  | cons i l ih =>
    intro e h
    rw [List.map_cons, List.foldl_cons]
    refine ih ?_
    rcases hch e (signedOf 32 (v i)) with h' | h' <;> rw [h']
    · exact h
    · exact signedOf_bounds _

theorem vecReduce_pick {u : Bool} {g : Guard} {d a : BitVec 8} {s : State} {pick : FVal → FVal → FVal} {ch : Int → Int → Int}
    {e : Int} (hp : ∀ a b, pick (FVal.ofInt a) (FVal.ofInt b) = FVal.ofInt (ch a b)) (hch : ∀ a b, ch a b = a ∨ ch a b = b)
    (ha : ∀ a b c, ch (ch a b) c = ch a (ch b c)) (hc : ∀ a b, ch a b = ch b a)
    (he : ∀ v, -(2 ^ 31) ≤ v ∧ v ≤ 2 ^ 31 - 1 → ch e v = v) (hb : -(2 ^ 31) ≤ e ∧ e ≤ 2 ^ 31 - 1) :
    vecReduce u g d a .i32 (fun x v => lanePick .i32 x.ftz greater v v) (fun x p q => (lanePick .i32 x.ftz pick p q, 0#6))
        (fun _ v => (v, 0#6)) s
      = s.vecNext u g 8 d .i32 fun _ =>
          ((((lanesOn s.core.ctx g).map fun k => signedOf 32 (laneOf .i32 (s.core.ctx.getV a) k)).foldl ch e % 2 ^ 32).toNat, 0#6) := by
  have hpick : ∀ ftz p q, lanePick .i32 ftz pick p q = wrapInt 32 (ch (signedOf 32 p) (signedOf 32 q)) := fun ftz p q =>
    lanePick_i32 (hp _ _)
  have hleaf : ∀ ftz v, lanePick .i32 ftz greater v v = wrapInt 32 (signedOf 32 v) := fun ftz v =>
    lanePick_i32 (by rw [greater_ofInt, max_self])
  let v := laneOf .i32 (s.core.ctx.getV a)
  have hcons : ∀ i l, ((i :: l).map fun k => signedOf 32 (v k)).foldl ch e
      = ch (signedOf 32 (v i)) ((l.map fun k => signedOf 32 (v k)).foldl ch e) := by
    intro i l
    have := Std.Associative.mk ha
    have := Std.Commutative.mk hc
    rw [List.map_cons, List.foldl_cons, hc e, List.foldl_assoc]
  refine vecReduce_i32 (op := fun p q => wrapInt 32 (ch (signedOf 32 p) (signedOf 32 q)))
    (val := fun l => (l.map fun k => signedOf 32 (v k)).foldl ch e)
    (fun p q => by rw [hpick]) (pick_assoc hch ha) (fun _ => rfl) (fun i => ?_) fun i l _ => ?_
  · rw [hleaf]
    exact congrArg (wrapInt 32) (he _ (signedOf_bounds _))
  · simp only [hcons i l, hleaf, signedOf_wrapInt (signedOf_bounds _), signedOf_wrapInt (foldl_pick_bounds hch l hb)]
    rfl

theorem vredadd_i32 {u : Bool} {g : Guard} {d a : BitVec 8} {s : State} : exec (.vredadd u g d a .i32) s
    = s.vecNext u g 8 d .i32 fun _ =>
        (((((lanesOn s.core.ctx g).map (laneOf .i32 (s.core.ctx.getV a))).sum : Nat) % 2 ^ 32 : Int).toNat, 0#6) := by
  rw [exec_vredadd]
  have hlt := laneOf_i32_lt (s.core.ctx.getV a)
  refine vecReduce_i32 (op := fun p q => (p + q) % 2 ^ 32) (val := fun l => ((l.map (laneOf .i32 (s.core.ctx.getV a))).sum : Nat))
    (fun p q => rfl) (fun p q r => by omega) (fun _ => rfl) (fun i => ?_) fun i l _ => ?_
  · rw [wrapInt_natCast, List.map_singleton, List.sum_singleton]
    exact Nat.mod_eq_of_lt (hlt i)
  · rw [wrapInt_natCast, wrapInt_natCast, List.map_cons, List.sum_cons]
    exact (Nat.add_mod_mod _ _ _).symm

/-! ### The scan on i32 -/

/-- What the running sum of an i32 scan holds. -/
def scanned : TreeNode → Nat
  | none => 0
  | some p => p.1

/-- A guard-true lane of an i32 scan gets, and leaves, the sum modulo 2^32. -/
theorem scanLanes_i32_on {x : Ctx} {on : Pred} {lane : Nat → Nat} (hlane : ∀ i, lane i < 2 ^ 32) {i : Nat} {l : List Nat}
    {acc : TreeNode} (hi : on.getLsbD i = true) : scanLanes .i32 x on lane (i :: l) acc
      = ((scanned acc + lane i) % 2 ^ 32, 0#6) :: scanLanes .i32 x on lane l (some ((scanned acc + lane i) % 2 ^ 32, 0#6)) := by
  rw [scanLanes, if_pos hi]
  rcases acc with _ | p
  · rw [scanned, Nat.zero_add, Nat.mod_eq_of_lt (hlane i)]
    simp only [widen, vfmt, narrow, BitVec.or_self]
  · simp only [widen, vfmt, narrow, sumStep, scanned, BitVec.or_self]

/-- Each guard-true lane of a scan gets the sum, modulo 2^32, of what was summed before and of the guard-true lanes up to it. -/
theorem scanLanes_i32 {x : Ctx} {on : Pred} {lane : Nat → Nat} (hlane : ∀ i, lane i < 2 ^ 32) (l : List Nat) :
    ∀ {acc : TreeNode}, (∀ p, acc = some p → p.1 < 2 ^ 32 ∧ p.2 = 0#6) → ∀ {j : Nat} (hj : j < l.length), on.getLsbD l[j] = true →
      (scanLanes .i32 x on lane l acc)[j]?
        = some ((scanned acc + (((l.take (j + 1)).filter fun i => on.getLsbD i).map lane).sum) % 2 ^ 32, 0#6) := by
  induction l with
  | nil => intro acc _ j hj; exact absurd hj (Nat.not_lt_zero j)
  | cons i l ih =>
    intro acc hacc j hj hon
    by_cases hi : on.getLsbD i = true
    · rw [scanLanes_i32_on hlane hi, List.take_succ_cons, List.filter_cons_of_pos hi, List.map_cons, List.sum_cons]
      rcases j with _ | j
      · simp
      · have h := ih (acc := some ((scanned acc + lane i) % 2 ^ 32, 0#6))
          (fun p hp => by cases hp; exact ⟨Nat.mod_lt _ (by decide), rfl⟩) (Nat.lt_of_succ_lt_succ hj) (j := j) hon
        rw [List.getElem?_cons_succ, h, scanned, Nat.mod_add_mod, Nat.add_assoc]
    · rw [scanLanes, if_neg hi]
      rcases j with _ | j
      · exact absurd hon hi
      · rw [List.getElem?_cons_succ, ih hacc (Nat.lt_of_succ_lt_succ hj) hon, List.take_succ_cons, List.filter_cons_of_neg hi]

theorem filter_le_range {n k : Nat} (hk : k < n) : (List.range n).filter (fun j => decide (j ≤ k)) = List.range (k + 1) := by
  obtain ⟨m, rfl⟩ := Nat.exists_eq_add_of_le (Nat.succ_le_of_lt hk)
  rw [List.range_add, List.filter_append, List.filter_eq_self.2, List.filter_eq_nil_iff.2, List.append_nil]
  · simp only [List.mem_map, List.mem_range, decide_eq_true_eq]
    rintro _ ⟨j, _, rfl⟩
    omega
  · simp only [List.mem_range, decide_eq_true_eq]
    omega

theorem vscan_i32 {u : Bool} {g : Guard} {d a : BitVec 8} {s : State} : exec (.vscan u g d a .i32) s
    = s.vecNext u g 10 d .i32 fun k => ((((((lanesOn s.core.ctx g).filter fun j => decide (j ≤ k)).map
        (laneOf .i32 (s.core.ctx.getV a))).sum : Nat) % 2 ^ 32 : Int).toNat, 0#6) := by
  rw [exec_vscan]
  refine congrArg Host.Outcome.next (onCore_onCtx_congr (vecOut_congr_on fun k hk hon => ?_))
  have hk' : k < 512 := hk
  have hlanes : (lanesOn s.core.ctx g).filter (fun j => decide (j ≤ k))
      = ((List.range (VType.lanes .i32)).take (k + 1)).filter
          fun i => (s.core.ctx.guardMask g &&& lowPred (VType.lanes .i32)).getLsbD i := by
    rw [lanesOn, List.filter_comm, filter_le_range hk', List.take_range, min_eq_left (show k + 1 ≤ VType.lanes .i32 from hk')]
    refine List.filter_congr fun i hi => ?_
    rw [guardMask_and_low _ _ (by rw [List.mem_range] at hi; omega)]
  have h := scanLanes_i32 (x := s.core.ctx) (on := s.core.ctx.guardMask g &&& lowPred (VType.lanes .i32))
    (laneOf_i32_lt (s.core.ctx.getV a)) (List.range (VType.lanes .i32)) (acc := none) (fun p hp => nomatch hp) (j := k)
    (by rw [List.length_range]; exact hk) (by rw [List.getElem_range, guardMask_and_low _ _ hk']; exact hon)
  rw [List.getD_eq_getElem?_getD, h, Option.getD_some, ← hlanes, scanned, Nat.zero_add]
  refine ⟨congrArg (· % 2 ^ VType.width .i32) ?_, rfl⟩
  omega

/-- Settles O13: a reduction is its tree, and on i32 the trees are sums modulo 2^32, greatest and least. -/
theorem vectorReductions : Obligations.VectorReductions := by
  intro s u g d a t x p out
  have reduce : ∀ (leaf : Ctx → Nat → Nat) (step : Ctx → Nat → Nat → Nat × FlagSet) (last : Ctx → Nat → Nat × FlagSet),
      out (vecReduce u g d a t leaf step last s) (leaf x) (step x) (last x) := by
    intro leaf step last
    simp only [out]
    split
    case h_1 h => exact vecReduce_none h
    case h_2 v h => exact vecReduce_some h
  rw [exec_vredadd, exec_vredmax, exec_vredmin]
  refine ⟨reduce (fun x => widen t x.ftz) (sumStep t) (narrow t),
    reduce (fun x v => lanePick t x.ftz greater v v) (fun x p q => (lanePick t x.ftz greater p q, 0#6)) (fun _ v => (v, 0#6)),
    reduce (fun x v => lanePick t x.ftz greater v v) (fun x p q => (lanePick t x.ftz lesser p q, 0#6)) (fun _ v => (v, 0#6)),
    vredadd_i32, ?_, ?_, vscan_i32⟩
  · exact exec_vredmax.trans (vecReduce_pick greater_ofInt (fun a b => max_choice a b) (fun a b c => max_assoc a b c)
      (fun a b => max_comm a b) (fun v h => max_eq_right h.1) (by norm_num))
  · exact exec_vredmin.trans (vecReduce_pick lesser_ofInt (fun a b => min_choice a b) (fun a b c => min_assoc a b c)
      (fun a b => min_comm a b) (fun v h => min_eq_right h.2) (by norm_num))

end Sys2Proof.Machine
end

section
/-! The special values of the special functions on f32 (R163), and the lanes that a row result changes (R78, R79, R151, R152). -/

namespace Sys2Proof.Machine

/-! ### Special values (R163) -/

/-- On f32 a special function sees the value of its lane, and FTZ applies to its result. -/
theorem specialLane_f32 {x : Ctx} {fn : Nat → FVal → Nat × FlagSet} {a : Nat} {v : FVal} (h : ∀ ftz, fp32.read ftz a = v) :
    specialLane .f32 x fn a
      = ftzResult x.ftz (fn (fp32.round .rne false v).1 v).1 (fn (fp32.round .rne false v).1 v).2 := by
  rw [specialLane]
  simp only [vfmt, h, if_true]

/-- A result that is not tiny passes FTZ as it is. -/
theorem ftzResult_normal {ftz : Bool} {code : Nat} {flags : FlagSet}
    (h : (decide (code % 2 ^ 31 < 2 ^ 23) && decide (code % 2 ^ 31 ≠ 0) || flags &&& flagUF != 0#6) = false) :
    ftzResult ftz code flags = (code, flags) := by
  rw [ftzResult, h, Bool.and_false]
  rfl

/-- A special function on f32 where the value of the lane, and the result of the function there, are known. -/
theorem specialLane_f32_eq {x : Ctx} {fn : Nat → FVal → Nat × FlagSet} {a code : Nat} {flags : FlagSet} {v : FVal}
    (hv : ∀ ftz, fp32.read ftz a = v) (hf : ∀ bits, fn bits v = (code, flags))
    (hn : (decide (code % 2 ^ 31 < 2 ^ 23) && decide (code % 2 ^ 31 ≠ 0) || flags &&& flagUF != 0#6) = false) :
    specialLane .f32 x fn a = (code, flags) := by
  rw [specialLane_f32 hv, hf, ftzResult_normal hn]

theorem read_nan (ftz : Bool) : fp32.read ftz 0x7F800001 = .nan := rfl
theorem read_inf (ftz : Bool) : fp32.read ftz 0x7F800000 = .inf false := rfl
theorem read_neg_inf (ftz : Bool) : fp32.read ftz 0xFF800000 = .inf true := rfl
theorem read_zero (ftz : Bool) : fp32.read ftz 0 = .fin false 0 (-149) := by cases ftz <;> decide
theorem read_neg_zero (ftz : Bool) : fp32.read ftz 0x80000000 = .fin true 0 (-149) := by cases ftz <;> decide
theorem read_minus_two (ftz : Bool) : fp32.read ftz 0xC0000000 = .fin true (2 ^ 23) (-22) := by cases ftz <;> decide

/-- Settles O16: at each special value the function's own table gives its code and flags, none of them tiny. -/
theorem specialValues : Obligations.SpecialValues := by
  intro x f nan inf ninf nzero minusTwo bad
  have at_nan : ∀ {fn}, (∀ bits, fn bits .nan = (f32NaN, 0#6)) → f fn 0x7F800001 = nan := fun h =>
    specialLane_f32_eq read_nan h (by decide)
  have at_inf : ∀ {fn code flags}, (∀ bits, fn bits (.inf false) = (code, flags)) → _ → f fn inf = (code, flags) := fun h =>
    specialLane_f32_eq read_inf h
  have at_ninf : ∀ {fn code flags}, (∀ bits, fn bits (.inf true) = (code, flags)) → _ → f fn ninf = (code, flags) := fun h =>
    specialLane_f32_eq read_neg_inf h
  have at_zero : ∀ {fn code flags}, (∀ bits, fn bits (.fin false 0 (-149)) = (code, flags)) → _ → f fn 0 = (code, flags) := fun h =>
    specialLane_f32_eq read_zero h
  have at_nzero : ∀ {fn code flags}, (∀ bits, fn bits (.fin true 0 (-149)) = (code, flags)) → _ → f fn nzero = (code, flags) :=
    fun h => specialLane_f32_eq read_neg_zero h
  have at_minus : ∀ {fn code flags}, (∀ bits, fn bits (.fin true (2 ^ 23) (-22)) = (code, flags)) → _ →
      f fn minusTwo = (code, flags) := fun h => specialLane_f32_eq read_minus_two h
  refine ⟨fun fn hfn => ?_, ?_, ?_, ?_, ?_, ?_, ?_⟩
  · simp only [List.mem_cons, List.not_mem_nil, or_false] at hfn
    rcases hfn with rfl | rfl | rfl | rfl | rfl | rfl <;> exact at_nan fun _ => rfl
  · simp only [List.map_cons, List.map_nil]
    rw [at_ninf (fun _ => rfl) (by decide), at_nzero (fun _ => rfl) (by decide), at_zero (fun _ => rfl) (by decide),
      at_inf (fun _ => rfl) (by decide)]
    rfl
  · simp only [List.map_cons, List.map_nil]
    rw [at_ninf (fun _ => rfl) (by decide), at_minus (fun _ => rfl) (by decide), at_nzero (fun _ => rfl) (by decide),
      at_zero (fun _ => rfl) (by decide), at_inf (fun _ => rfl) (by decide)]
    rfl
  · simp only [List.map_cons, List.map_nil]
    rw [at_ninf (fun _ => rfl) (by decide), at_nzero (fun _ => rfl) (by decide), at_zero (fun _ => rfl) (by decide),
      at_inf (fun _ => rfl) (by decide)]
    rfl
  · simp only [List.map_cons, List.map_nil]
    rw [at_ninf (fun _ => rfl) (by decide), at_minus (fun _ => rfl) (by decide), at_nzero (fun _ => rfl) (by decide),
      at_zero (fun _ => rfl) (by decide), at_inf (fun _ => rfl) (by decide)]
    rfl
  · simp only [List.map_cons, List.map_nil]
    rw [at_ninf (fun _ => rfl) (by decide), at_minus (fun _ => rfl) (by decide), at_nzero (fun _ => rfl) (by decide),
      at_zero (fun _ => rfl) (by decide), at_inf (fun _ => rfl) (by decide)]
    rfl
  · simp only [List.map_cons, List.map_nil]
    rw [at_ninf (fun _ => rfl) (by decide), at_nzero (fun _ => rfl) (by decide), at_zero (fun _ => rfl) (by decide),
      at_inf (fun _ => rfl) (by decide)]
    rfl

/-! ### Row results (R78, R79) -/

/-- A row after a write reads the old bits outside the mask and the new ones inside. -/
theorem getRow_setRow_same {x : Ctx} {r : BitVec 12} {mask v : Row} (h : assocAbove 0#16384 none x.acc = true) :
    (x.setRow r mask v).getRow r = (x.getRow r &&& ~~~mask) ||| (v &&& mask) := assocGet_set_same h

theorem getRow_setRow_other {x : Ctx} {r q : BitVec 12} {mask v : Row} (h : q ≠ r) : (x.setRow r mask v).getRow q = x.getRow q :=
  assocGet_set_other fun e => h (BitVec.eq_of_toNat_eq e)

theorem setRow_acc_above {x : Ctx} {r : BitVec 12} {mask v : Row} (h : assocAbove 0#16384 none x.acc = true) :
    assocAbove 0#16384 none (x.setRow r mask v).acc = true := assocSet_above h fun _ hl => nomatch hl

/-- A lane of a row that was written under a mask is the written lane where the mask covers it, and else the old one. -/
theorem laneOf_masked {t : VType} {old mask v : Row} {i : Nat} {b : Bool} (hi : i < t.lanes)
    (hm : laneOf t mask i = if b then 2 ^ t.width - 1 else 0) :
    laneOf t ((old &&& ~~~mask) ||| (v &&& mask)) i = if b then laneOf t v i else laneOf t old i := by
  apply Nat.eq_of_testBit_eq
  intro j
  have hle : t.width * i + t.width ≤ 16384 := by
    rw [← Nat.mul_succ, ← width_mul_lanes t]
    exact Nat.mul_le_mul_left _ hi
  have hmj := congrArg (·.testBit j) hm
  simp only [laneOf, testBit_digit, apply_ite (fun n : Nat => n.testBit j), Nat.testBit_two_pow_sub_one, Nat.zero_testBit,
    BitVec.testBit_toNat, BitVec.getLsbD_or, BitVec.getLsbD_and, BitVec.getLsbD_not] at hmj ⊢
  by_cases hj : j < t.width
  · have hk : t.width * i + j < 16384 := by omega
    simp only [hj, decide_true, Bool.true_and] at hmj ⊢
    simp only [hmj, hk, decide_true, Bool.true_and]
    cases b <;> simp
  · cases b <;> simp [hj]

/-- Settles O17: the mask covers the lanes of the guard, so exactly those take their value. -/
theorem rowResultLanes : Obligations.RowResultLanes := by
  intro x t r on v hx y
  refine ⟨setRow_acc_above hx, fun i hi => ?_, fun q hq => getRow_setRow_other hq⟩
  have hmask : laneOf t (laneMask t.width t.lanes on) i = if on.getLsbD i then 2 ^ t.width - 1 else 0 := by
    have h2 : 0 < 2 ^ t.width := Nat.two_pow_pos _
    rw [laneMask_eq_rowOf, laneOf_rowOf _ hi]
    split
    · exact Nat.mod_eq_of_lt (by omega)
    · exact Nat.zero_mod _
  rw [getRow_setRow_same hx, laneOf_masked hi hmask, laneOf_rowOf _ hi]

end Sys2Proof.Machine
end

section
/-! A finite code of a format rounds back to itself (R97, R101): its mantissa already has the quantum that the rounding would choose. -/

namespace Sys2Proof.Machine

/-- The exponent and mantissa fields of a code below its sign. -/
def FloatFmt.fields (f : FloatFmt) (ex m : Nat) (neg : Bool) : FVal :=
  .fin neg (if ex = 0 then m else 2 ^ f.mbits + m) ((if ex = 0 then 1 else (ex : Int)) - f.bias - f.mbits)

theorem toQuantum_self (rm : RMode) (neg : Bool) (m : Nat) (e : Int) : toQuantum rm neg m e e = (m, false) := by
  simp [toQuantum]

/-- The quantum of a finite code is the unit of its mantissa, and its magnitude code is its fields. -/
theorem roundParts_fields (f : FloatFmt) (rm : RMode) (neg : Bool) {ex m : Nat} (hm : m < 2 ^ f.mbits) (h0 : ex = 0 → m ≠ 0) :
    (f.roundParts rm neg (if ex = 0 then m else 2 ^ f.mbits + m) ((if ex = 0 then 1 else (ex : Int)) - f.bias - f.mbits)).1
        = ex * 2 ^ f.mbits + m
      ∧ (f.roundParts rm neg (if ex = 0 then m else 2 ^ f.mbits + m) ((if ex = 0 then 1 else (ex : Int)) - f.bias - f.mbits)).2.1
        = false := by
  simp only [FloatFmt.roundParts]
  by_cases hex : ex = 0
  · have hlog : Nat.log2 m < f.mbits := (Nat.log2_lt (h0 hex)).2 hm
    have hq : max ((Nat.log2 m : Int) + (1 - f.bias - f.mbits) - f.mbits) (1 - f.bias - f.mbits) = 1 - f.bias - f.mbits :=
      max_eq_right (by omega)
    simp only [if_pos hex, hq, toQuantum_self]
    simp [hex]
  · have hlog : Nat.log2 (2 ^ f.mbits + m) = f.mbits :=
      (Nat.log2_eq_iff (by have := Nat.two_pow_pos f.mbits; omega)).2 ⟨by omega, by rw [pow_succ]; omega⟩
    have hq : max (((f.mbits : Nat) : Int) + ((ex : Int) - f.bias - f.mbits) - f.mbits) (1 - f.bias - f.mbits)
        = (ex : Int) - f.bias - f.mbits := by omega
    obtain ⟨k, rfl⟩ := Nat.exists_eq_succ_of_ne_zero hex
    have hk : (((k.succ : Nat) : Int) - f.bias - f.mbits - (1 - f.bias - f.mbits)).toNat = k := by omega
    simp only [if_neg hex, hlog, hq, toQuantum_self, hk, and_true]
    rw [Nat.succ_mul]
    omega

theorem round_fields (f : FloatFmt) (rm : RMode) (neg : Bool) {ex m : Nat} (hm : m < 2 ^ f.mbits)
    (hmax : ex * 2 ^ f.mbits + m ≤ f.maxMag) : f.round rm false (f.fields ex m neg) = (f.signOf neg + (ex * 2 ^ f.mbits + m), 0#6) := by
  rw [FloatFmt.fields, FloatFmt.round, FloatFmt.roundFin]
  by_cases hz : ex = 0 ∧ m = 0
  · obtain ⟨rfl, rfl⟩ := hz
    simp
  · have hne : (if ex = 0 then m else 2 ^ f.mbits + m) ≠ 0 := by
      have := Nat.two_pow_pos f.mbits
      split <;> omega
    obtain ⟨hmag, hix⟩ := roundParts_fields f rm neg hm fun h0 h => hz ⟨h0, h⟩
    rw [if_neg (by simpa using hne)]
    simp only [hmag, hix, if_neg (Nat.not_lt.2 hmax), Bool.false_and, Bool.false_eq_true, if_false]
    rfl

/-- A finite code reads as its fields, whose magnitude is at most the greatest of the format. -/
theorem decode_finite (f : FloatFmt) {code : Nat} (hn : (f.decode code).isNan = false) (hi : (f.decode code).isInf = false) :
    f.decode code = f.fields (code / 2 ^ f.mbits % 2 ^ f.ebits) (code % 2 ^ f.mbits) (code.testBit (f.ebits + f.mbits))
      ∧ code / 2 ^ f.mbits % 2 ^ f.ebits * 2 ^ f.mbits + code % 2 ^ f.mbits ≤ f.maxMag := by
  have hm := Nat.mod_lt code (Nat.two_pow_pos f.mbits)
  have hex := Nat.mod_lt (code / 2 ^ f.mbits) (Nat.two_pow_pos f.ebits)
  have hfull : (code / 2 ^ f.mbits % 2 ^ f.ebits + 1) * 2 ^ f.mbits ≤ 2 ^ (f.ebits + f.mbits) := by
    rw [pow_add]
    exact Nat.mul_le_mul_right _ hex
  rw [Nat.succ_mul] at hfull
  have hfin : (if (code / 2 ^ f.mbits % 2 ^ f.ebits == 0) = true
      then FVal.fin (code.testBit (f.ebits + f.mbits)) (code % 2 ^ f.mbits) (1 - f.bias - f.mbits)
      else FVal.fin (code.testBit (f.ebits + f.mbits)) (2 ^ f.mbits + code % 2 ^ f.mbits)
        ((code / 2 ^ f.mbits % 2 ^ f.ebits : Nat) - f.bias - f.mbits))
      = f.fields (code / 2 ^ f.mbits % 2 ^ f.ebits) (code % 2 ^ f.mbits) (code.testBit (f.ebits + f.mbits)) := by
    rw [FloatFmt.fields]
    by_cases h : code / 2 ^ f.mbits % 2 ^ f.ebits = 0 <;> simp [h]
  revert hn hi
  rw [FloatFmt.decode, FloatFmt.maxMag]
  cases f.top with
  | ieee =>
    simp only
    intro hn hi
    by_cases htop : code / 2 ^ f.mbits % 2 ^ f.ebits = 2 ^ f.ebits - 1
    · rw [if_pos (by simpa using htop)] at hn hi
      split at hn
      · rename_i hz
        rw [if_pos hz] at hi
        cases hi
      · cases hn
    · rw [if_neg (by simpa using htop)]
      refine ⟨hfin, ?_⟩
      have hlt : code / 2 ^ f.mbits % 2 ^ f.ebits + 1 ≤ 2 ^ f.ebits - 1 := by omega
      have := Nat.mul_le_mul_right (2 ^ f.mbits) hlt
      rw [Nat.succ_mul] at this
      rw [FloatFmt.infMag]
      omega
  | nanOnly =>
    simp only
    intro hn hi
    by_cases htop : code / 2 ^ f.mbits % 2 ^ f.ebits = 2 ^ f.ebits - 1 ∧ code % 2 ^ f.mbits = 2 ^ f.mbits - 1
    · rw [if_pos (by simpa using htop)] at hn
      cases hn
    · rw [if_neg (by simpa using htop)]
      refine ⟨hfin, ?_⟩
      by_cases he : code / 2 ^ f.mbits % 2 ^ f.ebits = 2 ^ f.ebits - 1
      · have hne : code % 2 ^ f.mbits ≠ 2 ^ f.mbits - 1 := fun h => htop ⟨he, h⟩
        omega
      · have hlt : code / 2 ^ f.mbits % 2 ^ f.ebits + 1 + 1 ≤ 2 ^ f.ebits := by omega
        have := Nat.mul_le_mul_right (2 ^ f.mbits) hlt
        rw [Nat.succ_mul, Nat.succ_mul, ← pow_add] at this
        omega
  | finite =>
    simp only
    intro _ _
    exact ⟨hfin, by omega⟩

/-- A code is its sign and its fields. -/
theorem code_eq_fields (f : FloatFmt) {code : Nat} (h : code < 2 ^ f.width) :
    f.signOf (code.testBit (f.ebits + f.mbits)) + (code / 2 ^ f.mbits % 2 ^ f.ebits * 2 ^ f.mbits + code % 2 ^ f.mbits) = code := by
  have hlow : code / 2 ^ f.mbits % 2 ^ f.ebits * 2 ^ f.mbits + code % 2 ^ f.mbits = code % 2 ^ (f.ebits + f.mbits) := by
    rw [Nat.add_comm f.ebits, pow_add, Nat.mod_mul]
    ring
  have hsign : f.signOf (code.testBit (f.ebits + f.mbits)) = code / 2 ^ (f.ebits + f.mbits) * 2 ^ (f.ebits + f.mbits) := by
    have hlt : code / 2 ^ (f.ebits + f.mbits) < 2 := Nat.div_lt_of_lt_mul (by
      rw [← pow_succ]
      convert h using 2
      rw [FloatFmt.width]
      omega)
    rw [FloatFmt.signOf, Nat.testBit_eq_decide_div_mod_eq, Nat.mod_eq_of_lt hlt]
    interval_cases code / 2 ^ (f.ebits + f.mbits) <;> simp
  rw [hlow, hsign, Nat.mul_comm, Nat.div_add_mod]

/-- Settles O6: the value of a finite code rounds to the sign and the fields of that code, in every format and every mode. -/
theorem codesAreExact : Obligations.CodesAreExact := by
  intro f _ rm code hcode hn hi
  obtain ⟨hdec, hmax⟩ := decode_finite f hn hi
  rw [hdec, round_fields f rm _ (Nat.mod_lt _ (Nat.two_pow_pos _)) hmax, code_eq_fields f hcode]

end Sys2Proof.Machine
end

section
/-! The matrix slot: the planes (R171, R172, R174) and the integer beats (R110, R175). -/

namespace Sys2Proof.Machine

/-! ### Shapes -/

theorem alwaysChecked_passes {g : Guard} {check : Core → Option Trap} {s : State} {f : Core → Core}
    (hg : s.core.ctx.guardBit g = true) (hc : check s.core = none) : alwaysChecked g check s f = .next (s.onCore f) := by
  rw [alwaysChecked, hc]
  exact guarded_true hg

theorem alwaysChecked_fails {g : Guard} {check : Core → Option Trap} {s : State} {f : Core → Core} {r : Trap}
    (hc : check s.core = some r) : alwaysChecked g check s f = .next (s.raise r 5) := by
  rw [alwaysChecked, hc]

section
variable {g : Guard} {q : BitVec 2} {krow ks : BitVec 9} {acc : BitVec 12} {fc : ElemFmt} {push : Option (BitVec 2 × BitVec 9)}
  {s : State}

theorem exec_mpush : exec (.mpush g q krow) s = alwaysChecked g (fun c => krowCheck c.ctx krow) s fun c =>
    match nextRow (c.ctx.queue q) with
    | none => { c with freeze := 3#4 }
    | some _ => c.onCtx fun x => x.pushPlane q krow := rfl

theorem exec_msel : exec (.msel g) s = guardedState g s fun s =>
    (s.emitBeats s.core.ctx.pc).onCore fun c => c.onCtx fun x => { x with active := x.shadow, shadow := x.active } := rfl

theorem exec_mshift : exec (.mshift g ks) s = guarded g s fun c => c.onCtx fun x => { x with window := x.window + ks } := rfl

theorem exec_macc : exec (.macc g acc q fc push) s
    = alwaysChecked g (beatCheck fc push) s fun c => c.beat .dense false acc q fc push := rfl

theorem exec_maccz : exec (.maccz g acc q fc push) s
    = alwaysChecked g (beatCheck fc push) s fun c => c.beat .dense true acc q fc push := rfl

theorem exec_maccs : exec (.maccs g acc q push) s = if isSteel s.core.id
    then alwaysChecked g (sparseCheck push) s fun c => c.beat .sparse false acc q .e4m3 push
    else alwaysChecked ⟨0#5, false⟩ (sparseCheck push) s fun c => c.raise .migrate 5 := rfl

end

/-! ### Planes -/

theorem onCore_congr {s : State} {f f' : Core → Core} (h : f s.core = f' s.core) : s.onCore f = s.onCore f' := by
  rw [State.onCore, State.onCore, h]

theorem emitIf_of_no_trace {s : State} {flag src now ty w1 w2 w3 : Nat} {sp : Space} (h : s.traceOf sp = none) :
    s.emitIf flag sp src now ty w1 w2 w3 = s := by
  rw [State.emitIf, h]

/-- Without a trace the record of the beats only starts their counts anew. -/
theorem emitBeats_of_no_trace {s : State} {pc : BitVec 58} (h : s.traceOf s.core.space = none) :
    s.emitBeats pc = s.onCore fun c => { c with beats := Vector.replicate 4 0#16, frozen := 0 } := by
  rw [State.emitBeats]
  simp only [emitIf_of_no_trace h]

theorem pushPlane_of_row {x : Ctx} {q : BitVec 2} {krow : BitVec 9} {r : Row} {st : Stream} (h : nextRow (x.queue q) = some (r, st)) :
    x.pushPlane q krow = { x.setQueue q (popQueue (x.queue q)) with
      matrix := true
      shadow := assocSet 0#16384 x.shadow krow.toNat (enterRow x.ftz x.fmt.sm r) } := by
  rw [Ctx.pushPlane, h]

/-- Settles O18: the check of KROW passes and a row is there; without a trace MSEL only exchanges the planes. -/
theorem planeOperations : Obligations.PlaneOperations := by
  intro s g q krow ks hg
  refine ⟨fun r st hk hr => ?_, fun ht => ?_, exec_mshift.trans (guarded_true hg)⟩
  · rw [exec_mpush, alwaysChecked_passes hg (if_pos hk)]
    refine congrArg Host.Outcome.next (onCore_congr ?_)
    rw [hr]
    simp only [Core.onCtx, pushPlane_of_row hr]
    rfl
  · refine ⟨_, exec_msel.trans (guardedState_true hg), ?_⟩
    rw [emitBeats_of_no_trace ht]
    exact ⟨rfl, rfl⟩

/-! ### The lanes of a beat (R175) -/

/-- The accumulator lane that a beat starts from. -/
def Beat.base (b : Beat) (base : Row) (n : Nat) : Nat := if b.zero then 0 else digit 32 base.toNat n

/-- Lane n of the row that a beat writes, from the groups of column n. -/
theorem beat_row_lane {b : Beat} {base : Row} {n : Nat} {gs : List ColSum} (hn : n < 512) (h : b.cols[n]? = some gs) :
    digit 32 (b.row base).1.toNat n
      = (if b.int then finishInt (b.base base n) gs else (finishCol b (b.base base n) gs).1) % 2 ^ 32 := by
  have hrow : ∀ f : Nat → Nat, digit 32 (BitVec.ofNat 16384 (packNat 32 f 512)).toNat n = f n % 2 ^ 32 := fun f =>
    digit_rowOf f (by decide) hn
  rw [Beat.row]
  simp only [hrow, List.getD_eq_getElem?_getD, List.getElem?_map, List.getElem?_zipIdx, h, Option.map_some, Nat.zero_add,
    Option.getD_some]
  rw [← Beat.base]
  split <;> rfl

/-! ### Integer beats (R110) -/

theorem elementFloat_of_int {w : Nat} {i : Int} (h : elementInt w = some i) : elementFloat w = none := by
  rw [elementInt] at h
  split at h
  · rename_i hf
    rw [elementFloat, hf]
    rfl
  · cases h

/-- The product of two integers, exact. -/
theorem intProduct_of_ints {a b : Nat} {i j : Int} (ha : elementInt a = some i) (hb : elementInt b = some j) :
    intProduct a b = i * j := by
  have hpair : elementPair a b
      = some (.fin (decide (i < 0)) i.natAbs 0, .fin (decide (j < 0)) j.natAbs 0) := by
    rw [elementPair, elementFloat_of_int ha, elementFloat_of_int hb, ha, hb]
  have hsign : ∀ z : Int, (if decide (z < 0) = true then -1 else 1) * (z.natAbs : Int) = z := fun z => by
    by_cases hz : z < 0
    · simp [hz, abs_of_neg hz]
    · simp [hz, abs_of_nonneg (not_lt.1 hz)]
  rw [intProduct, hpair]
  simp only [FVal.mul, add_zero, le_refl, if_true, Int.toNat_zero, pow_zero, mul_one, Nat.cast_mul]
  calc (if (decide (i < 0) != decide (j < 0)) = true then (-1 : Int) else 1) * (i.natAbs * j.natAbs)
      = ((if decide (i < 0) = true then -1 else 1) * i.natAbs) * ((if decide (j < 0) = true then -1 else 1) * j.natAbs) := by
        cases decide (i < 0) <;> cases decide (j < 0) <;> simp
    _ = i * j := by rw [hsign, hsign]

/-- An integer and an element that is none contribute 0. -/
theorem intProduct_of_int_left {a b : Nat} {i : Int} (ha : elementInt a = some i) (hb : elementInt b = none) : intProduct a b = 0 := by
  have hpair : elementPair a b = none := by rw [elementPair, elementFloat_of_int ha, ha, hb]
  rw [intProduct, hpair]

theorem intProduct_of_int_right {a b : Nat} {j : Int} (ha : elementInt a = none) (hb : elementInt b = some j) : intProduct a b = 0 := by
  have hpair : elementPair a b = none := by
    rw [elementPair, elementFloat_of_int hb, ha, hb]
    cases elementFloat a <;> rfl
  rw [intProduct, hpair]

/-- What two elements contribute to an integer beat: integers their product, an integer and another element 0. -/
theorem intProduct_eq (a b : Nat) : intProduct a b = match elementInt a, elementInt b with
    | some i, some j => i * j
    | none, none => intProduct a b
    | _, _ => 0 := by
  cases ha : elementInt a <;> cases hb : elementInt b
  · rfl
  · exact intProduct_of_int_right ha hb
  · exact intProduct_of_int_left ha hb
  · exact intProduct_of_ints ha hb

theorem zipIdx_eq_map_range (l : List Nat) : l.zipIdx = (List.range l.length).map fun k => (l.getD k 0, k) := by
  apply List.ext_getElem
  · simp
  · intro i h1 h2
    simp only [List.length_zipIdx] at h1
    simp [h1]

/-- The column of an integer beat holds the sum of its products. -/
theorem intColumn_eq (as : List Nat) (b : Nat → Nat) : intColumn as b
    = .num (decide (((List.range as.length).map fun k => intProduct (as.getD k 0) (b k)).sum < 0))
      ((List.range as.length).map fun k => intProduct (as.getD k 0) (b k)).sum.natAbs 0 := by
  have hsum : as.zipIdx.foldl (fun acc p => acc + intProduct p.1 (b p.2)) 0
      = ((List.range as.length).map fun k => intProduct (as.getD k 0) (b k)).sum := by
    rw [zipIdx_eq_map_range, List.foldl_map, List.sum_eq_foldl, List.foldl_map]
  rw [intColumn]
  simp only [hsum]

theorem finishInt_single (base : Nat) (v : Int) :
    finishInt base [.num (decide (v < 0)) v.natAbs 0] = wrapInt 32 (base + v) := by
  have hv : (if decide (v < 0) = true then -(v.natAbs : Int) else v.natAbs) = v := by
    by_cases h : v < 0
    · simp [h, abs_of_neg h]
    · simp [h, abs_of_nonneg (not_lt.1 h)]
  rw [finishInt, List.foldl_cons, List.foldl_nil]
  simp only
  rw [hv]

/-- Integer columns raise no flag. -/
theorem beat_row_flags_int {b : Beat} (base : Row) (hint : b.int = true) (hlost : b.lost = false) : (b.row base).2 = 0#6 := by
  have hfold : ∀ (l : List (List ColSum × Nat)) (c : List ColSum × Nat → Nat), (l.map fun p => (c p, (0#6 : FlagSet))).foldl
      (fun a q => a ||| q.2) (0#6 : FlagSet) = 0#6 := by
    intro l c
    induction l with
    | nil => rfl
    | cons p l ih =>
      rw [List.map_cons, List.foldl_cons]
      simp only [BitVec.or_self]
      exact ih
  rw [Beat.row]
  simp only [hint, hlost, if_true, Bool.false_eq_true, if_false]
  exact hfold _ _

/-- Settles O20: the one column of an integer beat is the sum of its products, and it is added modulo 2^32. -/
theorem integerBeats : Obligations.IntegerBeats := by
  intro b base as bs hint hlost hcols
  refine ⟨fun n hn => ?_, beat_row_flags_int base hint hlost⟩
  have hcol : b.cols[n]? = some [intColumn (as n) (bs n)] := by
    rw [hcols, List.getElem?_map, List.getElem?_range hn]
    rfl
  have hprod : ((List.range (as n).length).map fun k => intProduct ((as n).getD k 0) (bs n k))
      = (List.range (as n).length).map fun k => match elementInt ((as n).getD k 0), elementInt (bs n k) with
        | some i, some j => i * j
        | none, none => intProduct ((as n).getD k 0) (bs n k)
        | _, _ => 0 := List.map_congr_left fun k _ => intProduct_eq _ _
  have hlt : ∀ z : Int, wrapInt 32 z % 2 ^ 32 = wrapInt 32 z := fun z => by rw [wrapInt]; omega
  rw [beat_row_lane hn hcol, hint, if_pos rfl, intColumn_eq, finishInt_single, hlt, hprod, wrapInt, Beat.base]
    <;> rfl

end Sys2Proof.Machine
end

section
/-! The scratchpad slot (R190 to R197) and the scale slot (R183 to R188). -/

namespace Sys2Proof.Machine

/-! ### The checks of an access (R191) -/

theorem windowCheck_fits {c : Core} {e n align : Nat} (h : c.spmFits e n align) : windowCheck c.window e n align = none := by
  obtain ⟨hin, halign, hbank⟩ := h
  rw [windowCheck, if_neg (by omega), if_neg (by rintro (h | h) <;> contradiction)]

theorem windowCheck_outside {w e n align : Nat} (h : w < e + n) : windowCheck w e n align = some .protection := by
  rw [windowCheck, if_pos h]

theorem windowCheck_misaligned {w e n align : Nat} (h : e + n ≤ w) (ha : e % align ≠ 0 ∨ e / 2 ^ 20 ≠ (e + n - 1) / 2 ^ 20) :
    windowCheck w e n align = some .alignment := by
  rw [windowCheck, if_neg (by omega), if_pos ha]

theorem elemCheck_fits {c : Core} {b : BitVec 4} {off : BitVec 12} {x : BitVec 8} {size : Nat}
    (h : ∀ i, i < 512 → c.spmFits (c.elemOffset b off x i) size size) : elemCheck b off x size c = none := by
  have hnone : ∀ p : Option Trap → Bool, p none = false →
      ((List.range 512).map fun i => windowCheck c.window (c.elemOffset b off x i) size size).any p = false := by
    intro p hp
    rw [List.any_map, List.any_eq_false]
    intro i hi
    rw [Function.comp_apply, windowCheck_fits (h i (List.mem_range.1 hi)), hp]
    exact Bool.false_ne_true
  simp only [elemCheck, hnone (fun t => t == some .protection) rfl, hnone Option.isSome rfl, Bool.false_eq_true, if_false]

/-- A checked operation that pushes one result, once its check has passed. -/
theorem checked_push {g : Guard} {slot lat sl : Nat} {check : Core → Option Trap} {s : State} (W : Core → Ctx → Wr)
    (hg : s.core.ctx.guardBit g = true) (hc : check s.core = none) :
    checked g slot check s (fun c => c.onCtx fun x => x.push sl lat 0#6 (W c x)) = s.pends sl lat 0#6 (W s.core s.core.ctx) := by
  rw [checked_passes hg hc]
  rfl

theorem guarded_push {g : Guard} {lat sl : Nat} {s : State} (W : Ctx → Wr) (hg : s.core.ctx.guardBit g = true) :
    guarded g s (fun c => c.onCtx fun x => x.push sl lat 0#6 (W x)) = s.pends sl lat 0#6 (W s.core.ctx) := by
  rw [guarded_true hg]
  rfl

/-! ### Shapes -/

section
variable {g : Guard} {v y : BitVec 8} {d : BitVec 6} {w : Width} {b : BitVec 4} {off : BitVec 22} {disp : BitVec 12} {s : State}

theorem exec_ldv : exec (.ldv g v b off) s = checked g 6 (lsCheck b off.toNat 2048 64) s fun c => c.onCtx fun x =>
    x.push 6 6 0#6 (.row (x.rowName v) (BitVec.allOnes 16384) (bytesRow (readSpm s (c.lsOffset b off.toNat) 2048))) := rfl

theorem exec_stv : exec (.stv g v b off) s = checked g 6 (lsCheck b off.toNat 2048 64) s fun c => c.onCtx fun x =>
    x.push 6 2 0#6 (.spm (spmCells c (c.lsOffset b off.toNat) (leBytes 2048 (c.ctx.getV v).toNat))) := rfl

theorem exec_ldvb : exec (.ldvb g v b off) s = checked g 6 (lsCheck b off.toNat 64 64) s fun c => c.onCtx fun x =>
    x.push 6 6 0#6 (.row (x.rowName v) (BitVec.allOnes 16384)
      (rowOf 512 32 fun _ => leNat (readSpm s (c.lsOffset b off.toNat) 64))) := rfl

theorem exec_lds : exec (.lds g d w b off) s = checked g 6 (lsCheck b off.toNat w.bytes w.bytes) s fun c => c.onCtx fun x =>
    x.push 6 4 0#6 (.s d (BitVec.ofNat 64 (leNat (readSpm s (c.lsOffset b off.toNat) w.bytes)))) := rfl

theorem exec_sts : exec (.sts g d w b off) s = checked g 6 (lsCheck b off.toNat w.bytes w.bytes) s fun c => c.onCtx fun x =>
    x.push 6 2 0#6 (.spm (spmCells c (c.lsOffset b off.toNat) (leBytes w.bytes (c.ctx.getS d).toNat))) := rfl

theorem exec_ldvx : exec (.ldvx g v y b w disp) s = checked g 6 (elemCheck b disp y w.bytes) s fun c => c.onCtx fun x =>
    x.push 6 10 0#6 (.row (x.rowName v) (BitVec.ofNat 16384 (2 ^ (512 * 8 * w.bytes) - 1))
      (rowOf (8 * w.bytes) 512 fun i => leNat (readSpm s (c.elemOffset b disp y i) w.bytes))) := rfl

theorem exec_stvx : exec (.stvx g v y b w disp) s = checked g 6 (elemCheck b disp y w.bytes) s fun c => c.onCtx fun x =>
    x.push 6 2 0#6 (.spm ((List.range 512).flatMap fun i =>
      spmCells c (c.elemOffset b disp y i) (leBytes w.bytes (digit (8 * w.bytes) (c.ctx.getV v).toNat i)))) := rfl

end

/-! ### Loads and stores -/

/-- Settles O22: each load passes its check and pushes the bytes that it has read at issue. -/
theorem scratchpadLoads : Obligations.ScratchpadLoads := by
  intro s g v y d w b off disp hg
  exact ⟨fun h => exec_ldv.trans (checked_push _ hg (windowCheck_fits h)),
    fun h => exec_lds.trans (checked_push _ hg (windowCheck_fits h)),
    fun h => exec_ldvb.trans (checked_push _ hg (windowCheck_fits h)),
    fun h => exec_ldvx.trans (checked_push _ hg (elemCheck_fits h))⟩

/-- Settles O23: each store passes its check and pushes its bytes. -/
theorem scratchpadStores : Obligations.ScratchpadStores := by
  intro s g v y d w b off disp hg
  exact ⟨fun h => exec_stv.trans (checked_push _ hg (windowCheck_fits h)),
    fun h => exec_sts.trans (checked_push _ hg (windowCheck_fits h)),
    fun h => exec_stvx.trans (checked_push _ hg (elemCheck_fits h))⟩

/-! ### Local atomics -/

/-- An atomic whose word lies in the window has it in flight. -/
theorem localAtomic_fits {op : AtomOp} {g : Guard} {d a new b : BitVec 6} {size : Nat} {off : BitVec 8} {s : State}
    (hg : s.core.ctx.guardBit g = true)
    (h : s.core.spmFits (s.core.scaledOffset b off.toNat size) size size) :
    localAtomic op g d a new b size off s = s.pends 6 2 0#6 (.atom op (spmKey s.core (s.core.scaledOffset b off.toNat size)) size
      (s.core.ctx.getS a) (s.core.ctx.getS new) s.core.ctx.fmt.rm s.core.ctx.ftz d) :=
  checked_push (fun c x => .atom op (spmKey c (c.scaledOffset b off.toNat size)) size (x.getS a) (x.getS new) x.fmt.rm x.ftz d)
    hg (windowCheck_fits h)

/-- What an access outside its bounds raises: PROTECTION, or ALIGNMENT within the window. -/
theorem checked_window {g : Guard} {slot e n align : Nat} {s : State} {f : Core → Core} {check : Core → Option Trap}
    (hg : s.core.ctx.guardBit g = true) (hc : check s.core = windowCheck s.core.window e n align) :
    (s.core.window < e + n → checked g slot check s f = .next (s.raise .protection slot))
    ∧ (e + n ≤ s.core.window → (e % align ≠ 0 ∨ e / 2 ^ 20 ≠ (e + n - 1) / 2 ^ 20) →
      checked g slot check s f = .next (s.raise .alignment slot)) :=
  ⟨fun h => checked_fails hg (hc.trans (windowCheck_outside h)), fun h ha => checked_fails hg (hc.trans (windowCheck_misaligned h ha))⟩

/-- Settles O24: the atomics share one shape, and all accesses one check. -/
theorem localAtomics : Obligations.LocalAtomics := by
  intro s g d a c b w8 off v w sb offs hg x n e out f
  have hzero : s.core.ctx.getS 0#6 = 0#64 := Ctx.getS_zero _
  have hout : ∀ op, s.core.spmFits e n n → localAtomic op g d a 0#6 b (atomBytes w8) off s = out op 0#64 := fun op h =>
    (localAtomic_fits hg h).trans (by rw [hzero])
  refine ⟨fun h => ⟨hout .add h, hout .min h, hout .max h, hout .and h, hout .or h, hout .xchg h, localAtomic_fits hg h⟩,
    fun h => (localAtomic_fits hg h).trans (by rw [hzero]), ?_⟩
  exact ⟨checked_window hg rfl, checked_window hg rfl, checked_window hg rfl, checked_window hg rfl, checked_window hg rfl,
    checked_window hg rfl⟩

/-! ### The scale slot -/

section
variable {g : Guard} {fa fb : ElemFmt} {sm : ScaleMode} {ty tb fe : Bool} {b : BitVec 4} {off : BitVec 22}
  {src band : BitVec 6} {rm : RMode} {mask : BitVec 10} {s : State}

theorem exec_setfmt : exec (.setfmt g fa fb sm ty) s
    = guarded g s fun c => c.onCtx fun x => x.push 9 4 0#6 (.fmt fa fb sm ty) := rfl

theorem exec_ldsct : exec (.ldsct g tb b off) s = checked g 9 (ldsctCheck b off) s fun c => c.onCtx fun x =>
    x.push 9 4 0#6 (.table tb (readSpm s (c.lsOffset b off.toNat) 16)) := rfl

theorem exec_setband : exec (.setband g tb src band) s
    = guarded g s fun c => c.onCtx fun x => x.push 9 4 0#6 (.band tb band ((x.getS src).setWidth 16)) := rfl

theorem exec_setrnd : exec (.setrnd g rm) s = guarded g s fun c => c.onCtx fun x => x.push 9 4 0#6 (.rnd rm) := rfl

theorem exec_clrflg : exec (.clrflg g mask fe) s = guarded g s fun c => c.onCtx fun x => x.clearFlags mask fe := rfl

end

/-- Settles O25: the changes are in flight for four cycles, and CLRFLG acts on the context at once. -/
theorem scaleSlot : Obligations.ScaleSlot := by
  intro s g fa fb sm ty tb fe b off src band rm mask hg
  refine ⟨exec_setfmt.trans (guarded_push _ hg), fun h => exec_ldsct.trans (checked_push _ hg (windowCheck_fits h)),
    exec_setband.trans (guarded_push _ hg), exec_setrnd.trans (guarded_push _ hg),
    s.core.ctx.clearFlags mask fe, exec_clrflg.trans ?_, fun i => ?_, ?_, rfl⟩
  · rw [guarded_true hg]
    rfl
  · rw [Ctx.clearFlags]
    exact Vector.getElem_ofFn _
  · rw [Ctx.clearFlags]
    cases mask.getLsbD 5 <;> rfl

end Sys2Proof.Machine
end

section
/-! The engine-queue slot as it issues: requests, copy commands, fences and SPAWN (R250, R277 to R291, R310 to R313). -/

namespace Sys2Proof.Machine

/-! ### Checks and effects -/

theorem checked_coreNext {g : Guard} {slot : Nat} {check : Core → Option Trap} {s : State} {f f' : Core → Core}
    (hg : s.core.ctx.guardBit g = true) (hc : check s.core = none) (h : f s.core = f' s.core) :
    checked g slot check s f = s.coreNext f' :=
  (checked_passes hg hc).trans (congrArg Host.Outcome.next (onCore_congr h))

theorem guarded_coreNext {g : Guard} {s : State} {f f' : Core → Core} (hg : s.core.ctx.guardBit g = true)
    (h : f s.core = f' s.core) : guarded g s f = s.coreNext f' :=
  (guarded_true hg).trans (congrArg Host.Outcome.next (onCore_congr h))

theorem privileged_fails {g : Guard} {slot : Nat} {check : Core → Option Trap} {s : State} {f : Core → Core}
    (hp : s.core.priv = false) : privileged g slot check s f = .next (s.raise .privilege slot) := by
  rw [privileged, if_neg (by simp [hp])]

theorem privileged_checked {g : Guard} {slot : Nat} {check : Core → Option Trap} {s : State} {f : Core → Core}
    (hp : s.core.priv = true) : privileged g slot check s f = checked g slot check s f := by
  rw [privileged, if_pos hp]

theorem globalCheck_aligned {c : Core} {b : BitVec 6} {n : Nat} (h : c.aligned b n) : globalCheck b n c = none := if_pos h

theorem globalCheck_misaligned {c : Core} {b : BitVec 6} {n : Nat} (h : ¬ c.aligned b n) : globalCheck b n c = some .alignment :=
  if_neg h

theorem landingCheck_free {c : Core} (h : c.landingFree) : landingCheck c = none := if_pos h

theorem landingCheck_full {c : Core} (h : ¬ c.landingFree) : landingCheck c = some .schedule := if_neg h

theorem loadCheck_passes {c : Core} {b : BitVec 6} {n : Nat} (hl : c.landingFree) (h : c.aligned b n) : loadCheck b n c = none := by
  rw [loadCheck, globalCheck_aligned h, landingCheck_free hl]
  rfl

theorem loadCheck_full {c : Core} {b : BitVec 6} {n : Nat} (hl : ¬ c.landingFree) : loadCheck b n c = some .schedule := by
  rw [loadCheck, landingCheck_full hl]
  rfl

theorem loadCheck_misaligned {c : Core} {b : BitVec 6} {n : Nat} (hl : c.landingFree) (h : ¬ c.aligned b n) :
    loadCheck b n c = some .alignment := by
  rw [loadCheck, globalCheck_misaligned h, landingCheck_free hl]
  rfl

/-! ### Shapes -/

section
variable {g : Guard} {d b a sr n : BitVec 6} {v : BitVec 8} {w : Width} {susp aq rl : Bool} {cls lc : BitVec 4} {arv : BitVec 12}
  {q : BitVec 3} {s : State}

theorem exec_ldg : exec (.ldg g d b w cls aq arv) s = checked g 7 (loadCheck b w.bytes) s fun c =>
    c.enterLanding (.load w.bytes) cls aq false (c.ctx.getS b) arv (.s d) .load := rfl

theorem exec_ldgv : exec (.ldgv g v b cls aq arv) s = checked g 7 (loadCheck b 64) s fun c =>
    c.enterLanding (.load 2048) cls aq false (c.ctx.getS b) arv (.row (c.ctx.rowName v)) .load := rfl

theorem exec_waitv : exec (.waitv g a b susp cls aq arv) s = checked g 7 (loadCheck b 8) s fun c =>
    c.enterLanding (.wait (c.ctx.getS a)) cls aq false (c.ctx.getS b) arv (.s a) (.wait susp) := rfl

theorem exec_stg : exec (.stg g d b w cls rl) s = checked g 7 (globalCheck b w.bytes) s fun c =>
    c.enter (.store (leBytes w.bytes (c.ctx.getS d).toNat)) (classesOf cls false rl) cls false rl (c.ctx.getS b) none := rfl

theorem exec_stgv : exec (.stgv g v b cls rl) s = checked g 7 (globalCheck b 64) s fun c =>
    c.enter (.store (leBytes 2048 (c.ctx.getV v).toNat)) (classesOf cls false rl) cls false rl (c.ctx.getS b) none := rfl

theorem exec_arrive : exec (.arrive g a b cls rl) s = checked g 7 (globalCheck b 8) s fun c =>
    c.enter (.arrive (BitVec.ofNat 24 (c.ctx.getS a).toNat)) (classesOf cls false rl) cls false rl (c.ctx.getS b) none := rfl

theorem exec_cpy : exec (.cpy g q d sr n lc cls) s
    = checked g 7 (fun c => copyCheck (c.ctx.getS d) (c.ctx.getS sr) (c.copyLen n) lc c) s fun c =>
      c.enterCopy q cls ⟨c.ctx.getS d, c.ctx.getS sr, c.copyLen n, cls, false, 0#64, false, [], c.scope = 4#3, c.scope, none, none, [],
        false⟩ := rfl

theorem exec_cpyo : exec (.cpyo g q d sr n lc cls) s = checked g 7 (cpyoCheck d sr n lc) s fun c =>
    c.enterCopy q cls ⟨c.ctx.getS d, c.ctx.getS sr, c.copyLen n, cls, true, c.ctx.getS (n + 1), false, [], c.scope = 4#3, c.scope, none,
      none, [], false⟩ := rfl

theorem exec_cpyt : exec (.cpyt g q d sr n lc cls) s = checked g 7 (cpytCheck d sr) s fun c =>
    c.enterCopy q cls ⟨c.ctx.getS d, c.ctx.getS sr, 256 * 2 ^ lc.toNat, cls, false, 0#64, true, c.ctx.boxAt n, c.scope = 4#3, c.scope,
      none, none, [], false⟩ := rfl

theorem exec_cpyg : exec (.cpyg g q sr cls) s = checked g 7 (globalCheck sr 64) s fun c =>
    c.enter (.copyNode q (c.ctx.getS sr)) (classesOf cls false false) cls false false (c.ctx.getS sr) none := rfl

end

section
variable {g : Guard} {a b : BitVec 6} {kind : FenceKind} {cmask : BitVec 16} {qmask : BitVec 8} {hm : BitVec 16} {s : State}

theorem exec_fence : exec (.fence g kind cmask) s
    = guarded g s fun c => c.enter (.fence kind cmask) cmask 0#4 (kind != .rel) (kind != .acq) 0#64 none := rfl

theorem exec_qfence : exec (.qfence g qmask) s = guarded g s fun c => c.enter (.qfence qmask) 0#16 0#4 false false 0#64 none := rfl

theorem exec_rfence : exec (.rfence g) s = guarded g s fun c => c.onCtx fun x => x.push 7 1 0#6 .rfence := rfl

theorem exec_depend : exec (.depend g a b) s
    = guarded g s fun c => c.enter (.depend (c.ctx.getS a) (c.ctx.getS b)) 0#16 0#4 false false 0#64 none := rfl

theorem exec_signal : exec (.signal g a b) s = guarded g s fun c =>
    c.enter (.signal (BitVec.ofNat 16 (c.ctx.getS a).toNat) (c.ctx.getS b)) allClasses 0#4 false true (c.ctx.getS b) none := rfl

theorem exec_tlbinv : exec (.tlbinv g a b) s = privileged g 7 (fun _ => none) s fun c =>
    c.enter (.tlbinv (BitVec.ofNat 2 (c.ctx.getS a).toNat)) allClasses 0#4 false false (c.ctx.getS b) none := rfl

theorem exec_cachewb : exec (.cachewb g a b) s = privileged g 7 (fun _ => none) s fun c =>
    c.enter (.cachewb (c.ctx.getS a)) allClasses 0#4 false false (c.ctx.getS b) none := rfl

theorem exec_cacheinv : exec (.cacheinv g a b) s = privileged g 7 (fun _ => none) s fun c =>
    c.enter (.cacheinv (c.ctx.getS a)) allClasses 0#4 false false (c.ctx.getS b) none := rfl

theorem exec_idle : exec (.idle g) s = privileged g 0 (fun _ => none) s fun c => { c with after := .drainIdle } := rfl

theorem exec_spawn : exec (.spawn g a b hm) s = checked g 7 (spawnCheck s.handleKey b hm) s fun c => c.spawn a b hm := rfl

end

/-! ### Requests -/

/-- An atomic at the home, aligned, with a free landing entry. -/
theorem globalAtomic_enters {op : AtomOp} {g : Guard} {d b : BitVec 6} {size : Nat} {cls : BitVec 4} {aq rl : Bool} {arv : BitVec 12}
    {s : State} (hg : s.core.ctx.guardBit g = true) (hl : s.core.landingFree) (h : s.core.aligned b size) :
    globalAtomic op g d b size cls aq rl arv s = s.coreNext fun c => c.enterLanding
      (.atom op size (s.core.ctx.getS d) (s.core.ctx.getS (d + 1)) s.core.ctx.fmt.rm s.core.ctx.ftz) cls aq rl (s.core.ctx.getS b) arv
      (.s d) .load :=
  checked_coreNext hg (loadCheck_passes hl h) rfl

/-- The traps of a request that lands: SCHEDULE, else ALIGNMENT. -/
theorem checked_load {g : Guard} {b : BitVec 6} {n : Nat} {s : State} {f : Core → Core} (hg : s.core.ctx.guardBit g = true) :
    (¬ s.core.landingFree → checked g 7 (loadCheck b n) s f = .next (s.raise .schedule 7))
    ∧ (s.core.landingFree → ¬ s.core.aligned b n → checked g 7 (loadCheck b n) s f = .next (s.raise .alignment 7)) :=
  ⟨fun hl => checked_fails hg (loadCheck_full hl), fun hl h => checked_fails hg (loadCheck_misaligned hl h)⟩

/-- Settles O26: a request that passes its checks enters with a landing entry, and one that does not raises the first trap. -/
theorem landingRequests : Obligations.LandingRequests := by
  intro s g d b a v w w8 susp aq rl cls arv hg
  refine ⟨fun hl => ⟨fun h => exec_ldg.trans (checked_coreNext hg (loadCheck_passes hl h) rfl),
    fun h => exec_ldgv.trans (checked_coreNext hg (loadCheck_passes hl h) rfl), fun h => ?_, fun h => globalAtomic_enters hg hl h,
    fun h => exec_waitv.trans (checked_coreNext hg (loadCheck_passes hl h) rfl)⟩, ?_⟩
  · exact ⟨globalAtomic_enters hg hl h, globalAtomic_enters hg hl h, globalAtomic_enters hg hl h, globalAtomic_enters hg hl h,
      globalAtomic_enters hg hl h, globalAtomic_enters hg hl h, globalAtomic_enters hg hl h, globalAtomic_enters hg hl h⟩
  · exact ⟨checked_load hg, checked_load hg, checked_load hg, checked_load hg,
      fun h => exec_stg.trans (checked_fails hg (globalCheck_misaligned h)),
      fun h => exec_arrive.trans (checked_fails hg (globalCheck_misaligned h))⟩

/-- Settles O27: a store or an arrival enters once its address is aligned. -/
theorem storeRequests : Obligations.StoreRequests := by
  intro s g d b a v w rl cls hg
  exact ⟨fun h => exec_stg.trans (checked_coreNext hg (globalCheck_aligned h) rfl),
    fun h => exec_stgv.trans (checked_coreNext hg (globalCheck_aligned h) rfl),
    fun h => exec_arrive.trans (checked_coreNext hg (globalCheck_aligned h) rfl)⟩

/-! ### Copy commands (R286, R287, R292) -/

section
variable {c : Core} {dst src : Word} {len : Nat} {lc : BitVec 4}

theorem copyCheck_fits (hlen : len ≤ 256 * 2 ^ lc.toNat) (hd : windowRange c dst len = true) (hs : windowRange c src len = true) :
    copyCheck dst src len lc c = none := by
  rw [copyCheck, if_neg (by omega), hd, hs]
  rfl

theorem copyCheck_breaks
    (h : ¬ (len ≤ 256 * 2 ^ lc.toNat ∧ windowRange c dst len = true ∧ windowRange c src len = true)) :
    copyCheck dst src len lc c = some .protection := by
  rw [copyCheck]
  split
  · rfl
  · next hlen =>
      rw [if_neg]
      intro hw
      exact h ⟨by omega, Bool.and_eq_true_iff.1 hw⟩

theorem cpytCheck_record {d sr : BitVec 6} (hd : windowRange c (c.ctx.getS d) 1 = true) (hs : windowRange c (c.ctx.getS sr) 192 = true) :
    cpytCheck d sr c = globalCheck sr 64 c := by
  rw [cpytCheck, hd, hs, globalCheck]
  cases alignCheck (c.ctx.getS sr) 64 <;> rfl

theorem cpytCheck_breaks {d sr : BitVec 6}
    (h : ¬ (windowRange c (c.ctx.getS d) 1 = true ∧ windowRange c (c.ctx.getS sr) 192 = true)) :
    cpytCheck d sr c = some .protection := by
  rw [cpytCheck, if_neg (fun hw => h (Bool.and_eq_true_iff.1 hw))]
  rfl

theorem cpyoCheck_breaks {d sr n : BitVec 6} (h : ¬ (c.copyLen n ≤ 256 * 2 ^ lc.toNat
    ∧ windowRange c (c.ctx.getS d) (c.copyLen n) = true ∧ windowRange c (c.ctx.getS sr) (c.copyLen n) = true)) :
    cpyoCheck d sr n lc c = some .protection := by
  rw [cpyoCheck, copyCheck_breaks h]
  rfl

theorem cpyoCheck_of_copyCheck {d sr n : BitVec 6} (h : copyCheck (c.ctx.getS d) (c.ctx.getS sr) (c.copyLen n) lc c = none) :
    cpyoCheck d sr n lc c = alignCheck (c.ctx.getS (n + 1)) 8 := by
  rw [cpyoCheck, h]
  cases alignCheck (c.ctx.getS (n + 1)) 8 <;> rfl

end

/-- Settles O28: PROTECTION comes before ALIGNMENT, and a command that passes enters its class. -/
theorem copyCommands : Obligations.CopyCommands := by
  intro s g q d sr n lc cls hg
  have hfit : ∀ h, copyCheck (s.core.ctx.getS d) (s.core.ctx.getS sr) (s.core.copyLen n) lc s.core = none := fun h =>
    copyCheck_fits (And.left h) (And.left (And.right h)) (And.right (And.right h))
  refine ⟨fun h => exec_cpy.trans (checked_coreNext hg (hfit h) rfl),
    fun h ha => exec_cpyo.trans (checked_coreNext hg ((cpyoCheck_of_copyCheck (hfit h)).trans (if_pos ha)) rfl),
    fun h ha => exec_cpyt.trans (checked_coreNext hg ((cpytCheck_record h.1 h.2).trans (globalCheck_aligned ha)) rfl),
    fun ha => exec_cpyg.trans (checked_coreNext hg (globalCheck_aligned ha) rfl),
    fun h => ⟨exec_cpy.trans (checked_fails hg (copyCheck_breaks h)), exec_cpyo.trans (checked_fails hg (cpyoCheck_breaks h))⟩,
    fun h => exec_cpyt.trans (checked_fails hg (cpytCheck_breaks h)),
    fun h ha => exec_cpyo.trans (checked_fails hg ((cpyoCheck_of_copyCheck (hfit h)).trans (if_neg ha))),
    fun h ha => exec_cpyt.trans (checked_fails hg ((cpytCheck_record h.1 h.2).trans (globalCheck_misaligned ha))),
    fun ha => exec_cpyg.trans (checked_fails hg (globalCheck_misaligned ha))⟩

/-! ### Fences, maintenance and SPAWN -/

theorem fenceKind_bne (a b : FenceKind) : (a != b) = decide (a ≠ b) := by cases a <;> cases b <;> rfl

/-- Settles O29: each operation enters its classes; a privileged one only in a task with privilege. -/
theorem fencesAndMaintenance : Obligations.FencesAndMaintenance := by
  refine ⟨fun s g kind cmask qmask a b hg => ?_, fun s g a b hp => ?_⟩
  · refine ⟨?_, exec_qfence.trans (guarded_coreNext hg rfl), exec_rfence.trans (guarded_push _ hg),
      exec_depend.trans (guarded_coreNext hg rfl), exec_signal.trans (guarded_coreNext hg rfl), fun hp => ?_⟩
    · rw [exec_fence, fenceKind_bne, fenceKind_bne]
      exact guarded_coreNext hg rfl
    · exact ⟨exec_tlbinv.trans ((privileged_checked hp).trans (checked_coreNext hg rfl rfl)),
        exec_cachewb.trans ((privileged_checked hp).trans (checked_coreNext hg rfl rfl)),
        exec_cacheinv.trans ((privileged_checked hp).trans (checked_coreNext hg rfl rfl))⟩
  · exact ⟨privileged_fails hp, privileged_fails hp, privileged_fails hp, privileged_fails hp, privileged_fails hp⟩

/-! ### SPAWN (R310, R311) -/

theorem firstTrap_none {l : List (Option Trap)} (h : ∀ t ∈ l, t = none) : firstTrap l = none := by
  induction l with
  | nil => rfl
  | cons t l ih =>
    rw [h t List.mem_cons_self]
    exact ih fun u hu => h u (List.mem_cons_of_mem _ hu)

theorem sourceState_live {c : Core} {h : BitVec 4} (hl : (c.ctx.getH h).st = .live) : sourceState c h = none := by
  rw [sourceState, hl]

theorem sourceState_empty {c : Core} {h : BitVec 4} (hl : (c.ctx.getH h).st = .empty) : sourceState c h = some .emptyHandle := by
  rw [sourceState, hl]

theorem sourceState_moved {c : Core} {h : BitVec 4} (hl : (c.ctx.getH h).st = .moved) : sourceState c h = some .movedHandle := by
  rw [sourceState, hl]

/-- A register that holds a live, sound handle passes as a source. -/
theorem sourceCheck_hasHandle {s : State} {h : BitVec 4} (hh : s.hasHandle h) : sourceCheck s.handleKey s.core h = none := by
  rw [sourceCheck, sourceState_live hh.1, if_pos hh.2]
  rfl

theorem spawnCheck_passes {s : State} {b : BitVec 6} {hm : BitVec 16} (hb : s.core.aligned b 64)
    (hh : ∀ k, k < 16 → hm.getLsbD k = true → s.hasHandle (BitVec.ofNat 4 k)) : spawnCheck s.handleKey b hm s.core = none := by
  refine firstTrap_none fun t ht => ?_
  rcases List.mem_cons.1 ht with rfl | ht
  · exact globalCheck_aligned hb
  · obtain ⟨h, hmem, rfl⟩ := List.mem_map.1 ht
    obtain ⟨k, hk, rfl⟩ := List.mem_map.1 hmem
    obtain ⟨hlt, hbit⟩ := List.mem_filter.1 hk
    exact sourceCheck_hasHandle (hh k (List.mem_range.1 hlt) hbit)

/-- The results that moving registers adds, which touches none of them. -/
theorem moveAll_results (hs : List (BitVec 4)) (x : Ctx) :
    ((x.moveAll hs).results.map fun r => (r.wr, r.slot, r.rem))
      = x.results.map (fun r => (r.wr, r.slot, r.rem)) ++ hs.map fun h => (.h h ⟨(x.getH h).val, .moved⟩, 7, 1) := by
  induction hs generalizing x with
  | nil => simp [Ctx.moveAll]
  | cons h hs ih =>
    rw [Ctx.moveAll, List.foldl_cons, ← Ctx.moveAll, ih]
    simp only [Ctx.setHLater, Ctx.push, List.map_append, List.map_cons, List.map_nil, List.append_assoc, List.singleton_append]
    rfl

/-- Settles O30: the checks pass, the request enters every class, and each named register is moved. -/
theorem spawnRequests : Obligations.SpawnRequests := by
  intro s g a b hm hg hb hh x named
  have hregs : maskRegs hm = named.map (BitVec.ofNat 4) := rfl
  have hvals : (maskRegs hm).map (fun h => (h.toNat, (x.getH h).val)) = named.map fun k => (k, (x.getH (BitVec.ofNat 4 k)).val) := by
    rw [hregs, List.map_map]
    refine List.map_congr_left fun k hk => ?_
    have hlt : k < 16 := List.mem_range.1 (List.mem_filter.1 hk).1
    simp only [Function.comp_apply, BitVec.toNat_ofNat, Nat.mod_eq_of_lt hlt, Nat.reducePow]
  refine ⟨_, exec_spawn.trans (checked_passes hg (spawnCheck_passes hb hh)), rfl, ?_⟩
  have hresults := moveAll_results (maskRegs hm) x
  rw [hregs, List.map_map, ← hregs] at hresults
  rw [← hvals]
  by_cases hz : hm = 0#16
  · rw [if_pos hz, List.append_nil]
    simp only [State.onCore, Core.spawn, if_pos hz]
    exact ⟨rfl, rfl, hresults⟩
  · rw [if_neg hz]
    simp only [State.onCore, Core.spawn, if_neg hz]
    refine ⟨rfl, ?_, hresults⟩
    rw [Core.hstep, hregs, List.map_map]
    rfl

end Sys2Proof.Machine
end

section
/-! The handle operations and the tile-fetch slot as they issue (R268 to R273, R295 to R309). -/

namespace Sys2Proof.Machine

/-! ### Register checks (R270) -/

section
variable {s : State} {c : Core} {h h1 h2 h3 : BitVec 4} {consumed : List (BitVec 4)}

theorem sourceCheck_empty {key : Option (BitVec 512)} (hs : (c.ctx.getH h).st = .empty) : sourceCheck key c h = some .emptyHandle := by
  rw [sourceCheck, sourceState_empty hs]
  rfl

theorem sourceCheck_moved {key : Option (BitVec 512)} (hs : (c.ctx.getH h).st = .moved) : sourceCheck key c h = some .movedHandle := by
  rw [sourceCheck, sourceState_moved hs]
  rfl

theorem destCheck_free (hf : c.freeH h ∨ h ∈ consumed) : destCheck c h consumed = none := by
  rw [destCheck, if_neg]
  rintro ⟨hl, hn⟩
  exact hf.elim (· hl) hn

theorem destCheck_live (hl : (c.ctx.getH h).st = .live) (hn : h ∉ consumed) : destCheck c h consumed = some .handleLeak :=
  if_pos ⟨hl, hn⟩

theorem streamCheck_passes (hs : c.ctx.streamThrough (c.ctx.getH h).val = false) : streamCheck c h = none := by
  rw [streamCheck, hs]
  rfl

/-- A half that holds a live, sound handle passes as a source. -/
theorem halfCheck_hasHandle (hh : s.hasHandle h) : s.halfCheck h = none := by
  have hlive := hh.1
  simp only [State.halfCheck, hlive, sourceCheck_hasHandle hh, reduceCtorEq, false_and, if_false]

/-- The first of several checks that fails. -/
theorem firstTrap_cons_none {l : List (Option Trap)} {t : Option Trap} (ht : t = none) : firstTrap (t :: l) = firstTrap l := by
  rw [ht, firstTrap]

theorem firstTrap_cons_some {l : List (Option Trap)} {t : Option Trap} {r : Trap} (ht : t = some r) : firstTrap (t :: l) = some r := by
  rw [ht, firstTrap]

end

/-! ### Shapes -/

section
variable {g : Guard} {h h1 h2 h3 : BitVec 4} {sa sb sp t k : BitVec 6} {ax : BitVec 3} {susp : Bool} {q : BitVec 2} {arv : BitVec 12}
  {qm : BitVec 4} {s : State}

theorem exec_hmov : exec (.hmov g h1 h2) s = checked g 7 (hmovCheck s.handleKey h1 h2) s fun c => c.onCtx fun x =>
    (x.setHLater h2 ⟨(x.getH h2).val, .moved⟩).setHLater h1 ⟨(x.getH h2).val, .live⟩ := rfl

theorem exec_hput : exec (.hput g h1 sb) s = checked g 7 (hputCheck s.handleKey h1 sb) s fun c =>
    (c.hstep (.put (c.ctx.getH h1).val (c.ctx.getS sb)) [h1]).onCtx fun x => x.setHLater h1 ⟨(x.getH h1).val, .moved⟩ := rfl

theorem exec_htake : exec (.htake g h1 sa sb susp) s
    = checked g 7 (htakeCheck h1 sb) s fun c => c.hstep (.take h1 sa (c.ctx.getS sb) susp) [] := rfl

theorem exec_hld : exec (.hld g h1 sa sb) s
    = checked g 7 (tileCheck s.handleKey h1 sa) s fun c => c.hstep (.rowLoad (c.ctx.getH h1).val (c.ctx.getS sa) (c.ctx.getS sb)) [] := rfl

theorem exec_hst : exec (.hst g h1 sa sb) s
    = checked g 7 (tileCheck s.handleKey h1 sa) s fun c => c.hstep (.rowStore (c.ctx.getH h1).val (c.ctx.getS sa) (c.ctx.getS sb)) [] := rfl

theorem exec_hinfo : exec (.hinfo g h1 ax sa) s
    = checked g 7 (hinfoCheck s.handleKey h1) s fun c => c.hstep (.info (c.ctx.getH h1).val sa ax.toNat) [] := rfl

theorem exec_hrejoin : exec (.hrejoin g h1 h2 h3) s
    = checkedState g 7 (hrejoinCheck h1 h2 h3) s fun s => s.onCore fun c => c.hrejoin h1 h2 h3 := rfl

theorem exec_hsplit : exec (.hsplit g h1 h2 h3 ax sp) s
    = checkedState g 7 (fun s => hsplitCheck s.handleKey h1 h2 h3 s.core) s fun s => s.hsplit h1 h2 h3 ax sp := rfl

theorem exec_tfa : exec (.tfa g q t k arv) s = checked g 8 (tileFetchCheck q t) s fun c => c.startStream q false t k arv := rfl

theorem exec_tfb : exec (.tfb g q t k arv) s = checked g 8 (tileFetchCheck q t) s fun c => c.startStream q true t k arv := rfl

theorem exec_tfh : exec (.tfh g q h k arv) s = checked g 8 (tileHandleCheck s.handleKey q h) s fun c =>
    (c.newStream q false 0#64 (some (c.ctx.getH h).val) (c.ctx.boxAt k) arv).1.hstep
      (.stream (c.ctx.getH h).val q (c.newStream q false 0#64 (some (c.ctx.getH h).val) (c.ctx.boxAt k) arv).2.id) [] := rfl

theorem exec_tfx : exec (.tfx g qm) s = guarded g s fun c => c.onCtx fun x => x.push 8 1 0#6 (.tfx qm) := rfl

end

/-! ### Handle operations -/

/-- A rejoin of two live halves keeps their handles and has not lost one. -/
theorem hrejoin_of_live {c : Core} {h1 h2 h3 : BitVec 4} (h2l : (c.ctx.getH h2).st = .live) (h3l : (c.ctx.getH h3).st = .live) :
    c.hrejoin h1 h2 h3 = c.hstep (.rejoin h1 h2 h3 (c.ctx.getH h2).val (c.ctx.getH h3).val false) [] := by
  rw [Core.hrejoin, h2l, h3l]
  rfl

/-- Settles O31: the checks of each operation in their order, and its effect once they have passed. -/
theorem handleOperations : Obligations.HandleOperations := by
  intro s g h1 h2 h3 sa sb ax susp hg
  refine ⟨fun hs hf => exec_hmov.trans ((checked_passes hg ?_).trans (congrArg Host.Outcome.next (onCore_onCtx_congr rfl))),
    fun hs ha => exec_hput.trans (checked_coreNext hg ?_ rfl),
    fun hf ha => exec_htake.trans (checked_coreNext hg ?_ rfl),
    fun hs ha => ⟨exec_hld.trans (checked_coreNext hg ?_ rfl), exec_hst.trans (checked_coreNext hg ?_ rfl)⟩,
    fun hs ht => exec_hinfo.trans (checked_coreNext hg ?_ rfl), fun hs2 hs3 hf ht2 ht3 => exec_hrejoin.trans ?_, ?_⟩
  · exact (firstTrap_cons_none (sourceCheck_hasHandle hs)).trans (firstTrap_cons_none (destCheck_free (hf.imp_right List.mem_singleton.2)))
  · exact (firstTrap_cons_none (globalCheck_aligned ha)).trans (firstTrap_cons_none (sourceCheck_hasHandle hs))
  · exact (firstTrap_cons_none (globalCheck_aligned ha)).trans (firstTrap_cons_none (destCheck_free (.inl hf)))
  · exact (firstTrap_cons_none (globalCheck_aligned ha)).trans (firstTrap_cons_none (sourceCheck_hasHandle hs))
  · exact (firstTrap_cons_none (globalCheck_aligned ha)).trans (firstTrap_cons_none (sourceCheck_hasHandle hs))
  · exact (firstTrap_cons_none (sourceCheck_hasHandle hs)).trans (firstTrap_cons_none (streamCheck_passes ht))
  · have hdest : h1 ∈ [h2, h3] ∨ s.core.freeH h1 := by rcases hf with h | h | h <;> simp [h]
    have hchk : hrejoinCheck h1 h2 h3 s = none :=
      (firstTrap_cons_none (halfCheck_hasHandle hs2)).trans <| (firstTrap_cons_none (halfCheck_hasHandle hs3)).trans <|
        (firstTrap_cons_none (destCheck_free hdest.symm)).trans <| (firstTrap_cons_none (streamCheck_passes ht2)).trans <|
          firstTrap_cons_none (streamCheck_passes ht3)
    exact (checkedState_passes hg hchk).trans (congrArg Host.Outcome.next (onCore_congr (hrejoin_of_live hs2.1 hs3.1)))
  · refine ⟨fun hs => exec_hmov.trans (checked_fails hg (firstTrap_cons_some (sourceCheck_empty hs))),
      fun hs => exec_hmov.trans (checked_fails hg (firstTrap_cons_some (sourceCheck_moved hs))),
      fun hs => exec_hinfo.trans (checked_fails hg (firstTrap_cons_some (sourceCheck_empty hs))),
      fun hs => exec_hinfo.trans (checked_fails hg (firstTrap_cons_some (sourceCheck_moved hs))),
      fun hs hl hne => exec_hmov.trans (checked_fails hg ?_), fun ha hl => exec_htake.trans (checked_fails hg ?_),
      fun ha => ⟨exec_hput.trans (checked_fails hg (firstTrap_cons_some (globalCheck_misaligned ha))),
        exec_htake.trans (checked_fails hg (firstTrap_cons_some (globalCheck_misaligned ha)))⟩⟩
    · exact (firstTrap_cons_none (sourceCheck_hasHandle hs)).trans
        (firstTrap_cons_some (destCheck_live hl (by simpa using hne)))
    · exact (firstTrap_cons_none (globalCheck_aligned ha)).trans (firstTrap_cons_some (destCheck_live hl List.not_mem_nil))

/-! ### The tile-fetch slot -/

theorem queueCheck_free {c : Core} {q : BitVec 2} (h : ((c.ctx.queue q).filter fun st => !st.ended).length < 2) :
    queueCheck q c = none := if_pos h

/-- Settles O33: with room in the landing table and in the queue the stream starts. -/
theorem tileFetches : Obligations.TileFetches := by
  intro s g q t k h arv qm hg hl hq
  have hchk : ∀ u : Option Trap, u = none → firstTrap [landingCheck s.core, u, queueCheck q s.core] = none := fun u hu =>
    (firstTrap_cons_none (landingCheck_free hl)).trans <| (firstTrap_cons_none hu).trans <| firstTrap_cons_none (queueCheck_free hq)
  exact ⟨fun ha => ⟨exec_tfa.trans (checked_coreNext hg (hchk _ (globalCheck_aligned ha)) rfl),
      exec_tfb.trans (checked_coreNext hg (hchk _ (globalCheck_aligned ha)) rfl)⟩,
    fun hs => exec_tfh.trans (checked_coreNext hg (hchk _ (sourceCheck_hasHandle hs)) rfl), exec_tfx.trans (guarded_push _ hg)⟩

/-! ### Free entries of the lineage table (R271, R306) -/

/-- An entry that is not FREE stands in the table. -/
theorem entry_listed {s : State} {i : Nat} (h : (s.entryOf i).st ≠ .free) : i ∈ s.lineage.map Prod.fst := by
  rw [State.entryOf] at h
  generalize s.lineage = l at h ⊢
  induction l with
  | nil => exact absurd rfl h
  | cons p l ih =>
    rw [assocGet] at h
    split at h
    · next hk => exact hk ▸ List.mem_cons_self
    · exact List.mem_cons_of_mem _ (ih h)

/-- The search finds a FREE entry that is not taken, if one lies in its range. -/
theorem freeEntry_found {s : State} {taken : List Nat} : ∀ {n i : Nat}, i < Config.lineageEntries →
    (∃ k, k < n ∧ (s.entryOf ((i + k) % Config.lineageEntries)).st = .free ∧ (i + k) % Config.lineageEntries ∉ taken) →
    (s.entryOf (s.freeEntry taken n i)).st = .free ∧ s.freeEntry taken n i ∉ taken
  | 0, i, _, h => by obtain ⟨k, hk, -⟩ := h; exact absurd hk (Nat.not_lt_zero k)
  | n + 1, i, hi, h => by
    rw [State.freeEntry]
    split
    · next hfree => exact hfree
    · next hbusy =>
      have hpos : 0 < Config.lineageEntries := by decide
      refine freeEntry_found (Nat.mod_lt _ hpos) ?_
      obtain ⟨k, hk, hgood⟩ := h
      match k with
      | 0 =>
        rw [Nat.add_zero, Nat.mod_eq_of_lt hi] at hgood
        exact absurd hgood hbusy
      | k + 1 =>
        refine ⟨k, by omega, ?_⟩
        have hsame : ((i + 1) % Config.lineageEntries + k) % Config.lineageEntries = (i + (k + 1)) % Config.lineageEntries := by
          rw [Nat.mod_add_mod]
          congr 1
          omega
        rw [hsame]
        exact hgood

/-- Among as many entries in a row as are listed or taken, and one more, one is FREE and not taken. -/
theorem free_in_range {s : State} {taken : List Nat} {n i : Nat} (hn : n ≤ Config.lineageEntries)
    (hlen : s.lineage.length + taken.length < n) :
    ∃ k, k < n ∧ (s.entryOf ((i + k) % Config.lineageEntries)).st = .free ∧ (i + k) % Config.lineageEntries ∉ taken := by
  by_contra hno
  have hbad : ∀ k ∈ Finset.range n, (i + k) % Config.lineageEntries ∈ (s.lineage.map Prod.fst ++ taken).toFinset := by
    intro k hk
    rw [List.mem_toFinset, List.mem_append]
    by_cases ht : (i + k) % Config.lineageEntries ∈ taken
    · exact .inr ht
    · exact .inl (entry_listed fun hf => hno ⟨k, Finset.mem_range.1 hk, hf, ht⟩)
  have hinj : Set.InjOn (fun k => (i + k) % Config.lineageEntries) (Finset.range n : Set Nat) := by
    intro a ha b hb hab
    have ha := Finset.mem_range.1 (Finset.mem_coe.1 ha)
    have hb := Finset.mem_range.1 (Finset.mem_coe.1 hb)
    have hmod : a ≡ b [MOD Config.lineageEntries] := Nat.ModEq.add_left_cancel' i hab
    exact Nat.ModEq.eq_of_lt_of_lt hmod (by omega) (by omega)
  have hcard := Finset.card_le_card_of_injOn _ hbad hinj
  have hle := List.toFinset_card_le (s.lineage.map Prod.fst ++ taken)
  simp only [Finset.card_range, List.length_append, List.length_map] at hcard hle
  omega

/-- Nothing differs but the choices made and the order logs. -/
def State.sameButChoices (s t : State) : Prop := t = { s with picks := t.picks, replays := t.replays }

theorem sameButChoices_refl (s : State) : s.sameButChoices s := rfl

theorem sameButChoices_trans {s t u : State} (h : s.sameButChoices t) (h' : t.sameButChoices u) : s.sameButChoices u := by
  rw [State.sameButChoices] at *
  rw [h'.trans (by rw [h])]

theorem onCore_sameButChoices {s t : State} {f : Core → Core} {p : Prop} (h : s.sameButChoices t) (hr : p → t.replays = s.replays) :
    t.onCore f = { s with core := (t.onCore f).core, picks := (t.onCore f).picks, replays := (t.onCore f).replays }
    ∧ (p → (t.onCore f).replays = s.replays) := by
  obtain ⟨p, r, rfl⟩ : ∃ p r, t = { s with picks := p, replays := r } := ⟨_, _, h⟩
  exact ⟨rfl, hr⟩

/-- A free choice touches the choices made and the order logs only, and no order log that is not there. -/
theorem chooseFor_same (s : State) (part who n : Nat) : s.sameButChoices (s.chooseFor part who n).2
    ∧ (s.replayOf part = none → (s.chooseFor part who n).2.replays = s.replays) := by
  have hlogged : ∀ (u : State) (v : Nat), u.sameButChoices (u.logged part 0 who v).2
      ∧ (u.replayOf part = none → (u.logged part 0 who v).2.replays = u.replays) := by
    intro u v
    rw [State.logged]
    cases hr : u.replayOf part with
    | none => exact ⟨rfl, fun _ => rfl⟩
    | some r =>
      refine ⟨?_, fun h => nomatch h⟩
      simp only
      split
      · rfl
      · split
        · split <;> rfl
        · rfl
  rw [State.chooseFor]
  split
  · exact ⟨rfl, fun _ => rfl⟩
  · next hn =>
    rw [State.pickAny, if_neg hn]
    obtain ⟨hsame, hnone⟩ := hlogged { s with picks := s.picks + 1 } (Config.pick s.picks % n)
    exact ⟨sameButChoices_trans (t := { s with picks := s.picks + 1 }) rfl hsame, hnone⟩

theorem chooseFor_lt (s : State) (part who : Nat) {n : Nat} (hn : 0 < n) : (s.chooseFor part who n).1 < n := by
  rw [State.chooseFor]
  split
  · exact hn
  · exact Nat.mod_lt _ hn

/-- The entry picked is FREE and not taken, while the table has such an entry. -/
theorem pickEntry_free {s : State} {part who : Nat} {taken : List Nat}
    (h : s.lineage.length + taken.length + 1 ≤ Config.lineageEntries) :
    (s.entryOf (s.pickEntry part who taken).1).st = .free ∧ (s.pickEntry part who taken).1 ∉ taken :=
  freeEntry_found (chooseFor_lt s part who (by decide)) (free_in_range h (Nat.lt_succ_self _))

theorem pickEntry_same (s : State) (part who : Nat) (taken : List Nat) : s.sameButChoices (s.pickEntry part who taken).2
    ∧ (s.replayOf part = none → (s.pickEntry part who taken).2.replays = s.replays) :=
  chooseFor_same s part who _

theorem Core.owner_part (c : Core) : c.owner.key.part = c.space.part := by
  rw [Core.owner, Core.space]
  cases c.task <;> rfl

/-! ### HSPLIT -/

theorem hsplitCheck_passes {s : State} {h1 h2 h3 : BitVec 4} (hs : s.hasHandle h3) (hf1 : s.core.freeH h1 ∨ h1 = h3)
    (hf2 : s.core.freeH h2 ∨ h2 = h3) : hsplitCheck s.handleKey h1 h2 h3 s.core = none :=
  (firstTrap_cons_none (sourceCheck_hasHandle hs)).trans <|
    (firstTrap_cons_none (destCheck_free (hf1.imp_right List.mem_singleton.2))).trans <|
      firstTrap_cons_none (destCheck_free (hf2.imp_right List.mem_singleton.2))

theorem hsplitCheck_leak {s : State} {h1 h2 h3 : BitVec 4} (hs : s.hasHandle h3)
    (hl : (s.core.ctx.getH h1).st = .live ∧ h1 ≠ h3 ∨ (s.core.ctx.getH h2).st = .live ∧ h2 ≠ h3) :
    hsplitCheck s.handleKey h1 h2 h3 s.core = some .handleLeak := by
  refine (firstTrap_cons_none (sourceCheck_hasHandle hs)).trans ?_
  by_cases h1l : (s.core.ctx.getH h1).st = .live ∧ h1 ≠ h3
  · exact firstTrap_cons_some (destCheck_live h1l.1 (by simpa using h1l.2))
  · obtain ⟨h2l, h2n⟩ := hl.resolve_left h1l
    have hfree : destCheck s.core h1 [h3] = none := by
      rw [destCheck, if_neg]
      simpa using h1l
    exact (firstTrap_cons_none hfree).trans (firstTrap_cons_some (destCheck_live h2l (by simpa using h2n)))

/-- The entries that HSPLIT picks, one after the other, and the state that the choices leave. -/
def State.splitEntries (s : State) : Nat × Nat × State :=
  let a := s.pickEntry s.core.owner.key.part s.core.id.toNat s.allTaken
  let b := a.2.pickEntry s.core.owner.key.part s.core.id.toNat (a.1 :: s.allTaken)
  (a.1, b.1, b.2)

theorem allTaken_same {s t : State} (h : s.sameButChoices t) : t.allTaken = s.allTaken := by
  rw [h]
  rfl

theorem splitEntries_same (s : State) : s.sameButChoices s.splitEntries.2.2
    ∧ (s.replayOf s.core.space.part = none → s.splitEntries.2.2.replays = s.replays) := by
  obtain ⟨hs1, hr1⟩ := pickEntry_same s s.core.owner.key.part s.core.id.toNat s.allTaken
  obtain ⟨hs2, hr2⟩ := pickEntry_same (s.pickEntry s.core.owner.key.part s.core.id.toNat s.allTaken).2 s.core.owner.key.part s.core.id.toNat
    ((s.pickEntry s.core.owner.key.part s.core.id.toNat s.allTaken).1 :: s.allTaken)
  refine ⟨sameButChoices_trans hs1 hs2, fun hr => ?_⟩
  rw [← Core.owner_part] at hr
  refine (hr2 ?_).trans (hr1 hr)
  rw [State.replayOf, hr1 hr]
  exact hr

theorem splitEntries_free {s : State} (h : s.lineage.length + s.allTaken.length + 2 ≤ Config.lineageEntries) :
    s.splitEntries.1 ≠ s.splitEntries.2.1 ∧ (s.entryOf s.splitEntries.1).st = .free ∧ (s.entryOf s.splitEntries.2.1).st = .free
      ∧ s.splitEntries.1 ∉ s.allTaken ∧ s.splitEntries.2.1 ∉ s.allTaken := by
  have hsame := (pickEntry_same s s.core.owner.key.part s.core.id.toNat s.allTaken).1
  obtain ⟨hf1, hn1⟩ := pickEntry_free (s := s) (part := s.core.owner.key.part) (who := s.core.id.toNat) (taken := s.allTaken) (by omega)
  generalize hl : s.pickEntry s.core.owner.key.part s.core.id.toNat s.allTaken = a at hsame hf1 hn1
  have hlin : a.2.lineage = s.lineage := by rw [hsame]
  obtain ⟨hf2, hn2⟩ := pickEntry_free (s := a.2) (part := s.core.owner.key.part) (who := s.core.id.toNat) (taken := a.1 :: s.allTaken)
    (by rw [hlin, List.length_cons]; omega)
  rw [List.mem_cons, not_or] at hn2
  rw [State.entryOf, hlin] at hf2
  simp only [State.splitEntries, hl]
  exact ⟨Ne.symm hn2.1, hf1, hf2, hn1, hn2.2⟩

/-- HSPLIT, over the entries that it picks. -/
theorem hsplit_eq (s : State) (h1 h2 h3 : BitVec 4) (ax : BitVec 3) (sp : BitVec 6) : s.hsplit h1 h2 h3 ax sp
    = s.splitEntries.2.2.onCore fun c =>
      (c.hstep (.split (s.core.ctx.getH h3).val ax.toNat (signedOf 32 (c.ctx.getS sp).toNat) s.splitEntries.1 s.splitEntries.2.1)
        [h3, h1, h2]).onCtx fun x =>
      ((x.setHLater h3 ⟨(s.core.ctx.getH h3).val, .moved⟩).setHLater h1
        ⟨makeHandle s.handleKey s.splitEntries.1 (s.entryOf s.splitEntries.1).gen s.core.owner.key.part, .live⟩).setHLater h2
        ⟨makeHandle s.handleKey s.splitEntries.2.1 (s.entryOf s.splitEntries.2.1).gen s.core.owner.key.part, .live⟩ := by
  have hsame := (pickEntry_same s s.core.owner.key.part s.core.id.toNat s.allTaken).1
  have hsame' := (splitEntries_same s).1
  simp only [State.splitEntries] at hsame' ⊢
  simp only [State.hsplit]
  generalize s.pickEntry s.core.owner.key.part s.core.id.toNat s.allTaken = a at hsame hsame' ⊢
  have hcore : a.2.core = s.core := by rw [hsame]
  simp only [hcore, allTaken_same hsame]
  generalize a.2.pickEntry s.core.owner.key.part s.core.id.toNat (a.1 :: s.allTaken) = b at hsame' ⊢
  have hkey : b.2.handleKey = s.handleKey := by rw [hsame']
  have hent : ∀ i, b.2.entryOf i = s.entryOf i := fun i => by rw [hsame']; rfl
  simp only [hkey, hent]

/-- What HSPLIT leaves on its core: the step that waits, and three results on their way. -/
theorem hsplit_core (s : State) (h1 h2 h3 : BitVec 4) (ax : BitVec 3) (sp : BitVec 6) :
    (s.hsplit h1 h2 h3 ax sp).core.hsteps = s.core.hsteps ++ [⟨.split (s.core.ctx.getH h3).val ax.toNat
        (signedOf 32 (s.core.ctx.getS sp).toNat) s.splitEntries.1 s.splitEntries.2.1, s.core.owner, none, s.core.ctx.pc,
        [(h3, s.core.ctx.getH h3), (h1, s.core.ctx.getH h1), (h2, s.core.ctx.getH h2)]⟩]
    ∧ (s.hsplit h1 h2 h3 ax sp).core.ctx.results.map (fun q => (q.wr, q.slot, q.rem))
      = s.core.ctx.results.map (fun q => (q.wr, q.slot, q.rem)) ++ [(.h h3 ⟨(s.core.ctx.getH h3).val, .moved⟩, 7, 1),
        (.h h1 ⟨makeHandle s.handleKey s.splitEntries.1 (s.entryOf s.splitEntries.1).gen s.core.owner.key.part, .live⟩, 7, 1),
        (.h h2 ⟨makeHandle s.handleKey s.splitEntries.2.1 (s.entryOf s.splitEntries.2.1).gen s.core.owner.key.part, .live⟩, 7, 1)] := by
  have hcore : s.splitEntries.2.2.core = s.core := by rw [(splitEntries_same s).1]
  rw [hsplit_eq, State.onCore, hcore]
  refine ⟨rfl, ?_⟩
  simp only [Core.onCtx, Ctx.setHLater, Ctx.push, Core.hstep, List.map_append, List.map_cons, List.map_nil, List.append_assoc,
    List.cons_append, List.nil_append]

/-- Beyond its core HSPLIT leaves its two choices only. -/
theorem hsplit_beyond (s : State) (h1 h2 h3 : BitVec 4) (ax : BitVec 3) (sp : BitVec 6) :
    s.hsplit h1 h2 h3 ax sp = { s with
      core := (s.hsplit h1 h2 h3 ax sp).core, picks := (s.hsplit h1 h2 h3 ax sp).picks, replays := (s.hsplit h1 h2 h3 ax sp).replays }
    ∧ (s.replayOf s.core.space.part = none → (s.hsplit h1 h2 h3 ax sp).replays = s.replays) := by
  rw [hsplit_eq]
  exact onCore_sameButChoices (splitEntries_same s).1 (splitEntries_same s).2

section
variable {g : Guard} {h1 h2 h3 : BitVec 4} {ax : BitVec 3} {sp : BitVec 6} {s : State}

theorem exec_hsplit_passes (hg : s.core.ctx.guardBit g = true) (hc : hsplitCheck s.handleKey h1 h2 h3 s.core = none) :
    exec (.hsplit g h1 h2 h3 ax sp) s = .next (s.hsplit h1 h2 h3 ax sp) :=
  exec_hsplit.trans (checkedState_passes hg hc)

theorem exec_hsplit_fails {r : Trap} (hg : s.core.ctx.guardBit g = true) (hc : hsplitCheck s.handleKey h1 h2 h3 s.core = some r) :
    exec (.hsplit g h1 h2 h3 ax sp) s = .next (s.raise r 7) :=
  exec_hsplit.trans (checkedState_fails hg hc)

end

/-- Settles O32: the check passes, and the two entries picked are FREE while the table has such entries. -/
theorem handleSplits : Obligations.HandleSplits := by
  intro s g h1 h2 h3 ax sp hg
  refine ⟨fun hs hf1 hf2 => ?_, fun he => exec_hsplit_fails hg (firstTrap_cons_some (sourceCheck_empty he)),
    fun hm => exec_hsplit_fails hg (firstTrap_cons_some (sourceCheck_moved hm)),
    fun hs hl => exec_hsplit_fails hg (hsplitCheck_leak hs hl)⟩
  obtain ⟨hsteps, hresults⟩ := hsplit_core s h1 h2 h3 ax sp
  obtain ⟨hbeyond, hreplays⟩ := hsplit_beyond s h1 h2 h3 ax sp
  exact ⟨s.splitEntries.1, s.splitEntries.2.1, s.hsplit h1 h2 h3 ax sp, exec_hsplit_passes hg (hsplitCheck_passes hs hf1 hf2),
    hsteps, hresults, splitEntries_free, hbeyond, hreplays⟩

end Sys2Proof.Machine
end

section
/-! What the records that the module writes for a trace leave as it was (R398 to R401): all but memory and what follows its writes. -/

namespace Sys2Proof.Machine

/-- Nothing differs but memory with its order and its poison, the caches, the counters and the traces; a canonical memory is one
afterwards. -/
def State.records (s t : State) : Prop :=
  t = { s with caches := t.caches, pmcs := t.pmcs, now := t.now, hist := t.hist, mem := t.mem, poison := t.poison, traces := t.traces }
  ∧ (Memory.wf s.mem → Memory.wf t.mem)

theorem records_refl (s : State) : s.records s := ⟨rfl, id⟩

theorem records_trans {s t u : State} (h : s.records t) (h' : t.records u) : s.records u := by
  obtain ⟨h1, w1⟩ := h
  obtain ⟨h2, w2⟩ := h'
  refine ⟨?_, fun w => w2 (w1 w)⟩
  rw [h2.trans (by rw [h1])]

/-! ### Accesses and writes of the module -/

theorem tally_records (s : State) (part event cause n : Nat) : s.records (s.tally part event cause n) := ⟨rfl, id⟩

theorem onCaches_records (s : State) (f : Caches → Caches) : s.records (s.onCaches f) := ⟨rfl, id⟩

theorem l2Touch_records (s : State) (x : CLine) : s.records (s.l2Touch x) := by
  rw [State.l2Touch]
  split
  · exact onCaches_records s _
  · exact records_trans (tally_records s _ _ _ _) (onCaches_records _ _)

theorem llcTouch_records (s : State) (x : CLine) : s.records (s.llcTouch x) := by
  rw [State.llcTouch]
  split
  · exact onCaches_records s _
  · exact records_trans (tally_records s _ _ _ _) (onCaches_records _ _)

theorem homeTouch_records (s : State) (pa : Nat) (write : Bool) : s.records (s.homeTouch pa write) := by
  rw [State.homeTouch]
  split
  · exact records_refl s
  · split
    · exact records_refl s
    · exact l2Touch_records s _
    · exact llcTouch_records s _

theorem write_records (s : State) (pa : Nat) (bs : List Byte) (atomic : Bool) (rels : List (Nat × Nat × Nat)) :
    s.records (s.write pa bs atomic rels) := by
  obtain ⟨h, -⟩ := homeTouch_records s pa true
  refine ⟨?_, writeBytes_wf⟩
  rw [State.write, h]

theorem pokeLines_records (sp : Space) : ∀ (n : Nat) (s : State) (va : Nat) (bs : List Byte), s.records (s.pokeLines sp va bs n)
  | 0, s, _, _ => records_refl s
  | n + 1, s, va, bs => by
    have hline : s.records (match s.physOf sp va with | some pa => s.write pa (bs.take (64 - va % 64)) false [] | none => s) := by
      split
      · exact write_records s _ _ _ _
      · exact records_refl s
    rw [State.pokeLines]
    split
    · exact hline
    · exact records_trans hline (pokeLines_records sp n _ _ _)

theorem poke_records (s : State) (sp : Space) (va : Nat) (bs : List Byte) : s.records (s.poke sp va bs) := by
  rw [State.poke]
  split
  · exact records_refl s
  · exact pokeLines_records sp _ s va bs

/-! ### Records of a trace -/

theorem tracePut_records (s : State) (t : Trace) (bs : List Byte) : s.records (s.tracePut t bs).1 := by
  rw [State.tracePut]
  exact poke_records s _ _ _

theorem traceDrop_records (s : State) (t : Trace) (src : Nat) : s.records (s.traceDrop t src).1 := by
  rw [State.traceDrop]
  exact poke_records s t.space (t.buf.toNat + 16) (leBytes 8 (t.lost + 1))

theorem traceOne_records (s : State) (t : Trace) (src now ty w1 w2 w3 : Nat) : s.records (s.traceOne t src now ty w1 w2 w3).1 := by
  rw [State.traceOne]
  split
  · exact records_refl s
  · split
    · next d _ => exact tracePut_records s t (recordBytes ty src d w1 w2 w3)
    · have hfirst := tracePut_records s t (recordBytes 1 src 0 now 0 0)
      simp only
      split
      · exact hfirst
      · exact records_trans hfirst (tracePut_records _ _ (recordBytes ty src 0 w1 w2 w3))

theorem setTrace_records (s : State) (t : Trace) : s.records (s.setTrace t) := ⟨rfl, id⟩

theorem emit_records (s : State) (sp : Space) (src now ty w1 w2 w3 : Nat) : s.records (s.emit sp src now ty w1 w2 w3) := by
  rw [State.emit]
  split
  · exact records_refl s
  · next t _ =>
    have hlost : s.records (if assocGet 0 t.lostBy src = 0 then (s, t, true)
        else s.traceOne t src now 0x03 (assocGet 0 t.lostBy src) 0 0).1 := by
      split
      · exact records_refl s
      · exact traceOne_records s t src now 0x03 (assocGet 0 t.lostBy src) 0 0
    have hrec : ∀ (b : Bool) (u : State) (v : Trace),
        u.records (if b then u.traceOne v src now ty w1 w2 w3 else (u, v, false)).1 := fun b u v => by
      split
      · exact traceOne_records u v src now ty w1 w2 w3
      · exact records_refl u
    have hdrop : ∀ (b : Bool) (u : State) (v : Trace), u.records (if b then (u, v) else u.traceDrop v src).1 := fun b u v => by
      split
      · exact records_refl u
      · exact traceDrop_records u v src
    exact records_trans (records_trans (records_trans hlost (hrec _ _ _)) (hdrop _ _ _)) (setTrace_records _ _)

theorem emitIf_records (s : State) (flag : Nat) (sp : Space) (src now ty w1 w2 w3 : Nat) :
    s.records (s.emitIf flag sp src now ty w1 w2 w3) := by
  rw [State.emitIf]
  split
  · split
    · exact emit_records s _ _ _ _ _ _ _
    · exact records_refl s
  · exact records_refl s

section
variable {s t : State}

theorem records_core (h : s.records t) : t.core = s.core := by rw [h.1]
theorem records_parked (h : s.records t) : t.parked = s.parked := by rw [h.1]
theorem records_spm (h : s.records t) : t.spm = s.spm := by rw [h.1]
theorem records_nodes (h : s.records t) : t.nodes = s.nodes := by rw [h.1]
theorem records_maps (h : s.records t) : t.maps = s.maps := by rw [h.1]
theorem records_lineage (h : s.records t) : t.lineage = s.lineage := by rw [h.1]
theorem records_parts (h : s.records t) : t.parts = s.parts := by rw [h.1]
theorem records_replays (h : s.records t) : t.replays = s.replays := by rw [h.1]

end

end Sys2Proof.Machine
end

section
/-! The control slot: transfers, the loop unit, suspension points, markers and traps (R122 to R137, R370, R371). -/

namespace Sys2Proof.Machine

/-! ### Transfers (R122) -/

theorem relative_eq (x : Ctx) (off : BitVec 24) : x.relative off = BitVec.ofInt 58 (x.pc.toNat + off.toInt) := by
  rw [Ctx.relative, BitVec.signExtend, BitVec.ofInt_add, BitVec.ofInt_natCast, BitVec.ofNat_toNat, BitVec.setWidth_eq]

theorem addrOf_toNat (pc : BitVec 58) : (addrOf pc).toNat = 64 * pc.toNat := by
  rw [addrOf, BitVec.toNat_append]
  simp [Nat.shiftLeft_eq, Nat.mul_comm]

theorem addrOf_add (pc : BitVec 58) : addrOf (pc + 2) = BitVec.ofNat 64 (64 * pc.toNat + 128) := by
  apply BitVec.eq_of_toNat_eq
  have hadd : (pc + 2).toNat = (pc.toNat + 2) % 2 ^ 58 := BitVec.toNat_add pc 2
  rw [addrOf_toNat, hadd, BitVec.toNat_ofNat]
  omega

theorem indexOf_eq (a : Word) : indexOf a = BitVec.ofNat 58 (a.toNat / 64) := by
  apply BitVec.eq_of_toNat_eq
  rw [indexOf, BitVec.extractLsb'_toNat, BitVec.toNat_ofNat, Nat.shiftRight_eq_div_pow]

section
variable {g : Guard} {off : BitVec 24} {a : BitVec 6} {s : State}

theorem exec_br : exec (.br g off) s = guarded g s fun c => c.onCtx fun x => x.transfer (x.relative off) := rfl

theorem exec_call : exec (.call g off) s = guarded g s fun c => c.onCtx fun x => x.link.transfer (x.relative off) := rfl

theorem exec_bri : exec (.bri g a) s = checked g 0 (checkBri a) s fun c => c.onCtx fun x => x.transfer (indexOf (x.getS a)) := rfl

theorem exec_calli : exec (.calli g a) s
    = checked g 0 (checkBri a) s fun c => c.onCtx fun x => x.link.transfer (indexOf (x.getS a)) := rfl

theorem exec_ret : exec (.ret g) s = checked g 0 (checkBri 62#6) s fun c => c.onCtx fun x => x.transfer (indexOf (x.getS 62#6)) := rfl

end

theorem guarded_ctxNext {g : Guard} {s : State} {f f' : Ctx → Ctx} (hg : s.core.ctx.guardBit g = true)
    (h : f s.core.ctx = f' s.core.ctx) : guarded g s (fun c => c.onCtx f) = s.ctxNext f' :=
  (guarded_true hg).trans (congrArg Host.Outcome.next (onCore_onCtx_congr h))

theorem checked_ctxNext {g : Guard} {slot : Nat} {check : Core → Option Trap} {s : State} {f f' : Ctx → Ctx}
    (hg : s.core.ctx.guardBit g = true) (hc : check s.core = none) (h : f s.core.ctx = f' s.core.ctx) :
    checked g slot check s (fun c => c.onCtx f) = s.ctxNext f' :=
  (checked_passes hg hc).trans (congrArg Host.Outcome.next (onCore_onCtx_congr h))

theorem targetCheck_aligned {c : Core} {a : BitVec 6} (h : c.aligned a 64) : targetCheck (c.ctx.getS a) = none := if_pos h

theorem targetCheck_misaligned {c : Core} {a : BitVec 6} (h : ¬ c.aligned a 64) : targetCheck (c.ctx.getS a) = some .alignment :=
  if_neg h

theorem link_eq (x : Ctx) : x.link = x.push 0 1 0#6 (.s 62#6 (BitVec.ofNat 64 (64 * x.pc.toNat + 128))) := by
  rw [Ctx.link, addrOf_add]

/-- Settles O34: each transfer sets the bundle after the delay bundle, and a call its return address. -/
theorem transfers : Obligations.Transfers := by
  intro s g off a hg
  refine ⟨exec_br.trans (guarded_ctxNext hg ?_), exec_call.trans (guarded_ctxNext hg ?_),
    fun h => ⟨exec_bri.trans (checked_ctxNext hg (targetCheck_aligned h) ?_),
      exec_calli.trans (checked_ctxNext hg (targetCheck_aligned h) ?_)⟩,
    fun h => exec_ret.trans (checked_ctxNext hg (targetCheck_aligned h) ?_),
    fun h => ⟨exec_bri.trans (checked_fails hg (targetCheck_misaligned h)),
      exec_calli.trans (checked_fails hg (targetCheck_misaligned h))⟩⟩
  · simp only [relative_eq, Ctx.transfer]
  · simp only [relative_eq, Ctx.transfer, link_eq]
  · simp only [indexOf_eq, Ctx.transfer]
  · simp only [indexOf_eq, Ctx.transfer, link_eq]
  · simp only [indexOf_eq, Ctx.transfer]

/-! ### Loops (R124 to R129) -/

section
variable {g : Guard} {lc : BitVec 2} {s : State}

theorem exec_lbrk : exec (.lbrk g lc) s = guarded g s fun c => c.onCtx fun x =>
    if (x.level lc).active then { (x.endNewer lc).endLevel lc with redirect := some ((x.level lc).last + 1) } else x := rfl

end

section
variable {x : Ctx} {lc : BitVec 2}

theorem endNewer_inactive (h : (x.level lc).active = false) : x.endNewer lc = x := by
  rw [Ctx.endNewer, h]
  rfl

theorem endLevel_inactive (h : (x.level lc).active = false) : x.endLevel lc = x := by
  rw [Ctx.endLevel, h]
  rfl

theorem level_mem (l : LoopLevel) (h : l ∈ x.loops.toList) : ∃ k, x.level k = l := by
  obtain ⟨i, hi, rfl⟩ := List.getElem_of_mem h
  rw [Vector.length_toList] at hi
  refine ⟨⟨⟨i, hi⟩⟩, ?_⟩
  rw [Ctx.level, Vector.getElem_toList]
  rfl

theorem activeLevels_none (h : ∀ k, (x.level k).active = false) : x.activeLevels = 0 := by
  rw [Ctx.activeLevels, List.length_eq_zero_iff, List.filter_eq_nil_iff]
  intro l hl
  obtain ⟨k, rfl⟩ := level_mem l hl
  simp [h k]

theorem level_setLevel_same (l : LoopLevel) : (x.setLevel lc l).level lc = l := by
  rw [Ctx.level, Ctx.setLevel]
  exact Vector.getElem_set_self _

/-- A loop that starts while no level is active. -/
theorem startLoop_of_inactive (h : ∀ k, (x.level k).active = false) (body : BitVec 12) (n : BitVec 20) (e : BitVec 4) :
    x.startLoop lc body n e
      = if n = 0#20 then { x.setLevel lc ⟨x.pc + 1, x.pc + BitVec.ofNat 58 body.toNat, 0#20, e, false, 0#2⟩ with
          redirect := some (x.pc + BitVec.ofNat 58 body.toNat + 1) }
        else if lc = 3#2 then (x.setLevel lc ⟨x.pc + 1, x.pc + BitVec.ofNat 58 body.toNat, n, e, true, 0#2⟩).startModulo
        else x.setLevel lc ⟨x.pc + 1, x.pc + BitVec.ofNat 58 body.toNat, n, e, true, 0#2⟩ := by
  simp only [Ctx.startLoop, endNewer_inactive (h lc), endLevel_inactive (h lc), activeLevels_none h, BitVec.ofNat_toNat]

end

/-- What a level that starts does, in the three cases of its count. -/
theorem starts_of_startLoop {g : Guard} {s : State} {lc : BitVec 2} {body : BitVec 12} {n : BitVec 20} {e : BitVec 4}
    {f : Ctx → Ctx} (hg : s.core.ctx.guardBit g = true) (hoff : ∀ k, (s.core.ctx.level k).active = false)
    (hf : f s.core.ctx = s.core.ctx.startLoop lc body n e) :
    let x := s.core.ctx
    let last := x.pc + BitVec.ofNat 58 body.toNat
    let r := guarded g s fun c => c.onCtx f
    (n ≠ 0#20 → lc ≠ 3#2 → r = s.ctxNext fun y => y.setLevel lc ⟨x.pc + 1, last, n, e, true, 0#2⟩)
    ∧ (n ≠ 0#20 → lc = 3#2 → r = s.ctxNext fun y => (y.setLevel lc ⟨x.pc + 1, last, n, e, true, 0#2⟩).startModulo)
    ∧ (n = 0#20 → r = s.ctxNext fun y =>
        { y.setLevel lc ⟨x.pc + 1, last, 0#20, e, false, 0#2⟩ with redirect := some (last + 1) }) := by
  rw [startLoop_of_inactive hoff] at hf
  refine ⟨fun hn hl => guarded_ctxNext hg ?_, fun hn hl => guarded_ctxNext hg ?_, fun hn => guarded_ctxNext hg ?_⟩
  · rw [hf, if_neg hn, if_neg hl]
  · rw [hf, if_neg hn, if_pos hl]
  · rw [hf, if_pos hn]

theorem endLevel_active {x : Ctx} {lc : BitVec 2} (h : (x.level lc).active = true) : ((x.endLevel lc).level lc).active = false := by
  rw [Ctx.endLevel, if_pos h, Ctx.level]
  simp only [Vector.getElem_set_self]
  rfl

theorem endNewer_level_same (x : Ctx) (lc : BitVec 2) : (x.endNewer lc).level lc = x.level lc := by
  rw [Ctx.endNewer]
  split
  · next h =>
    rw [Ctx.level]
    simp only [Vector.getElem_map]
    rw [← Ctx.level, h]
    simp
  · rfl

/-- Settles O35: the starts of the level over its count, and LBRK of an active or an inactive level. -/
theorem loopStarts : Obligations.LoopStarts := by
  intro s g lc body count a hg
  refine ⟨fun hoff => ⟨starts_of_startLoop hg hoff rfl, ?_⟩, fun hact => ?_, fun hoff => ?_⟩
  · have hn : (s.core.ctx.getS a).extractLsb' 0 20 = BitVec.ofNat 20 (s.core.ctx.getS a).toNat := rfl
    have he : (if lc = 3#2 then (s.core.ctx.getS a).extractLsb' 32 4 else 0#4)
        = if lc = 3#2 then BitVec.ofNat 4 ((s.core.ctx.getS a).toNat / 2 ^ 32) else 0#4 := by
      rw [BitVec.extractLsb', Nat.shiftRight_eq_div_pow]
    exact starts_of_startLoop (f := fun x => x.startLoop lc body ((x.getS a).extractLsb' 0 20)
      (if lc = 3#2 then (x.getS a).extractLsb' 32 4 else 0#4)) hg hoff (by rw [hn, he])
  · refine ⟨{ (s.core.ctx.endNewer lc).endLevel lc with redirect := some ((s.core.ctx.level lc).last + 1) },
      exec_lbrk.trans (guarded_ctxNext hg (if_pos hact)), rfl, ?_⟩
    exact endLevel_active (by rw [endNewer_level_same, hact])
  · rw [exec_lbrk, guarded_true hg]
    exact congrArg Host.Outcome.next (onCore_onCtx_self (if_neg (by simp [hoff])))

/-! ### Back edges (R126, R129) -/

section
variable {x : Ctx} {lc : BitVec 2}

theorem filter_levels (lc : BitVec 2) : ([3#2, 2#2, 1#2, 0#2].filter fun k => decide (k = lc)) = [lc] := by
  revert lc
  decide

/-- The test of a back edge finds the one level that is active, at its last bundle. -/
theorem newestAt_only (hact : (x.level lc).active = true) (hlast : (x.level lc).last = x.pc)
    (hoff : ∀ k, k ≠ lc → (x.level k).active = false) : x.newestAt x.pc = some lc := by
  have hfilter : ([3#2, 2#2, 1#2, 0#2].filter fun k => (x.level k).active && decide ((x.level k).last = x.pc)) = [lc] := by
    have htest : ∀ k, ((x.level k).active && decide ((x.level k).last = x.pc)) = decide (k = lc) := fun k => by
      by_cases hk : k = lc
      · simp [hk, hact, hlast]
      · simp [hk, hoff k hk]
    simp only [htest]
    exact filter_levels lc
  rw [Ctx.newestAt, hfilter]
  rfl

theorem newestAt_none (a : BitVec 58) (hoff : ∀ k, (x.level k).active = false) : x.newestAt a = none := by
  have hfilter : ([3#2, 2#2, 1#2, 0#2].filter fun k => (x.level k).active && decide ((x.level k).last = a)) = [] := by
    simp [hoff]
  rw [Ctx.newestAt, hfilter]
  rfl

theorem endNewer_rrb : (x.endNewer lc).rrb = x.rrb := by
  rw [Ctx.endNewer]
  split <;> rfl

/-- The loop levels of a context, its other fields aside. -/
theorem level_of_loops {y : Ctx} (h : y.loops = x.loops) (k : BitVec 2) : y.level k = x.level k := by
  rw [Ctx.level, Ctx.level]
  simp only [h]

theorem back_loops (newp : Bool) : (x.back lc newp).loops = (x.endNewer lc).loops := by
  rw [Ctx.back]
  split
  · simp only [Ctx.setPhysP_loops]
  · rfl

theorem back_level (newp : Bool) : (x.back lc newp).level lc = x.level lc :=
  (level_of_loops (back_loops newp) lc).trans (endNewer_level_same x lc)

theorem back_pc (newp : Bool) : (x.back lc newp).pc = (x.level lc).start := by
  rw [← back_level newp, Ctx.back]
  rfl

theorem back_rrb (newp : Bool) : (x.back lc newp).rrb = if lc = 3#2 then x.rrb - 1 else x.rrb := by
  rw [Ctx.back]
  split
  · simp only [Ctx.setPhysP_rrb, endNewer_rrb]
  · exact endNewer_rrb

theorem physPred_stage_ne_zero (rrb : BitVec 6) : physPred rrb 16#5 ≠ 0#5 := by
  have hlt : (rrb.toNat) % 16 < 16 := Nat.mod_lt _ (by decide)
  rw [physPred, if_neg (by decide)]
  intro h
  have := congrArg BitVec.toNat h
  simp only [BitVec.toNat_ofNat, Nat.sub_self, Nat.zero_add] at this
  omega

/-- A predicate reads from the predicate registers and RRB alone. -/
theorem getP_of_fields {y z : Ctx} (hp : y.pregs = z.pregs) (hr : y.rrb = z.rrb) (n : BitVec 5) : y.getP n = z.getP n := by
  rw [Ctx.getP, Ctx.getP]
  simp only [hp, hr]

/-- A predicate written whole reads back. -/
theorem getP_setPhysP_same {y : Ctx} {n : BitVec 5} (v : Pred) (hn : n ≠ 0#5) (hp : physPred y.rrb n ≠ 0#5) :
    (y.setPhysP (physPred y.rrb n) (BitVec.allOnes 1024) v).getP n = v := by
  rw [Ctx.getP, if_neg hn]
  simp only [Ctx.setPhysP, if_neg hp, Vector.getElem_set_self]
  rw [BitVec.not_allOnes, BitVec.and_zero, BitVec.zero_or, BitVec.and_allOnes]

theorem back_stage (newp : Bool) (h : lc = 3#2) :
    (x.back lc newp).getP 16#5 = if newp then BitVec.allOnes 1024 else 0#1024 := by
  rw [← getP_setPhysP_same (y := { x.endNewer lc with rrb := (x.endNewer lc).rrb - 1 }) (if newp then BitVec.allOnes 1024 else 0#1024)
    (n := 16#5) (by decide) (physPred_stage_ne_zero _)]
  refine getP_of_fields ?_ ?_ _
  · rw [Ctx.back, if_pos h]
  · rw [Ctx.back, if_pos h]

/-- Once the one active level has ended none is active. -/
theorem endLevel_none_active (hact : (x.level lc).active = true) (hoff : ∀ k, k ≠ lc → (x.level k).active = false) (k : BitVec 2) :
    ((x.endLevel lc).level k).active = false := by
  by_cases hk : k = lc
  · rw [hk]
    exact endLevel_active hact
  · have hne : lc.toNat ≠ k.toNat := fun h => hk (BitVec.eq_of_toNat_eq h.symm)
    rw [Ctx.endLevel, if_pos hact, Ctx.level]
    simp only [Vector.getElem_set_ne lc.isLt _ hne, Vector.getElem_map]
    rw [← Ctx.level, hoff k hk]
    exact hoff k hk

theorem endLevel_pc : (x.endLevel lc).pc = x.pc := by
  rw [Ctx.endLevel]
  split <;> rfl

theorem endLevel_rrb : (x.endLevel lc).rrb = x.rrb := by
  rw [Ctx.endLevel]
  split <;> rfl

theorem backTest_none {n : Nat} (hoff : ∀ k, (x.level k).active = false) : x.backTest n = ({ x with pc := x.pc + 1 }, false) := by
  cases n with
  | zero => rfl
  | succ n => rw [Ctx.backTest, newestAt_none _ hoff]

end

theorem nextBundle_tests {x : Ctx} (hr : x.redirect = none) (hd : x.delayTarget = none) : x.nextBundle = x.backTest 4 := by
  rw [Ctx.nextBundle, hr, hd]
  rfl

/-- Settles O36: the test finds the level, and takes its back edge, its epilogue's, or ends it. -/
theorem loopBackEdges : Obligations.LoopBackEdges := by
  intro x lc hact hlast hr hd hoff l r
  have hrun : r = if 1 < l.lcnt.toNat then ((x.setLevel lc { l with lcnt := l.lcnt - 1 }).back lc true, true)
      else if 0 < l.ecnt.toNat then ((x.setLevel lc { l with ecnt := l.ecnt - 1 }).back lc false, true)
      else (x.endLevel lc).backTest 3 := by
    rw [show r = x.backTest 4 from nextBundle_tests hr hd, Ctx.backTest, newestAt_only hact hlast hoff]
  refine ⟨fun h => ?_, fun h he => ?_, fun h he => ?_⟩
  · rw [hrun, if_pos h]
    refine ⟨rfl, ?_, ?_, ?_, ?_, fun h3 => ?_⟩
    · rw [back_pc, level_setLevel_same]
    · rw [back_level, level_setLevel_same]
    · rw [back_level, level_setLevel_same]
      exact hact
    · rw [back_rrb]
      rfl
    · rw [back_stage _ h3]
      rfl
  · rw [hrun, if_neg (by omega), if_pos he]
    refine ⟨rfl, ?_, ?_, ?_, fun h3 => ?_⟩
    · rw [back_pc, level_setLevel_same]
    · rw [back_level, level_setLevel_same]
    · rw [back_rrb]
      rfl
    · rw [back_stage _ h3]
      rfl
  · rw [hrun, if_neg (by omega), if_neg (by rw [he]; decide), backTest_none (endLevel_none_active hact hoff)]
    refine ⟨rfl, ?_, endLevel_none_active hact hoff lc, endLevel_rrb⟩
    rw [endLevel_pc]

/-! ### Suspension points, the barrier and the wait (R130 to R134, R137) -/

section
variable {g : Guard} {n : BitVec 16} {ex : BitVec 32} {imm : BitVec 16} {s : State}

theorem exec_yield : exec (.yield g) s = guarded g s fun c => { c with after := .drainYield } := rfl

theorem exec_commit : exec (.commit g) s
    = guarded g s fun c => { c with after := .drainCommit, commitPc := c.ctx.pc, commitSlot := 0 } := rfl

theorem exec_endt : exec (.endt g) s
    = guarded g s fun c => { c with after := .drainEnd, commitPc := c.ctx.pc, commitSlot := 0 } := rfl

theorem exec_waitc : exec (.waitc g n) s = guarded g s fun c => { c with after := .waitc n.toNat } := rfl

theorem exec_cbar : exec (.cbar g) s = guarded g s fun c => { c with after := .barrier, commitPc := c.ctx.pc } := rfl

theorem exec_mark : exec (.mark g ex) s = guardedState g s fun s => s.mark ex := rfl

theorem exec_trap : exec (.trap g imm) s
    = guarded g s fun c => if c.handlerOpen then c.enterHandler imm else c.raiseSoftware imm := rfl

theorem exec_trapret : exec (.trapret g) s = privileged g 0 checkTrapret s fun c => c.onCtx Ctx.returnFromHandler := rfl

end

/-! ### Markers (R136, R395) -/

/-- Whether a marker with this drift arms interlock tracing, with the threshold of MARK records if they are on. -/
def marksArm (th : Option (BitVec 32)) (before : Option (BitVec 32)) (drift : BitVec 32) : Bool :=
  match th, before with
  | some th, some p => decide (th.toNat < driftStep drift p)
  | _, _ => false

/-- A marker: its record, and the context that it leaves. -/
theorem mark_eq (s : State) (ex : BitVec 32) : ∃ src now w1 w2 w3,
    s.mark ex = (s.emitIf 2 s.core.space src now 0x11 w1 w2 w3).onCore fun c => c.onCtx fun x =>
      { x with
        prevDrift := some (s.core.ctx.driftClocks - ex)
        armed := marksArm s.markThresh s.core.ctx.prevDrift (s.core.ctx.driftClocks - ex) } := ⟨_, _, _, _, _, rfl⟩

theorem mark_core (s : State) (ex : BitVec 32) : (s.mark ex).core = { s.core with ctx := { s.core.ctx with
    prevDrift := some (s.core.ctx.driftClocks - ex)
    armed := marksArm s.markThresh s.core.ctx.prevDrift (s.core.ctx.driftClocks - ex) } } := by
  have hcore : ∀ flag src now ty w1 w2 w3, (s.emitIf flag s.core.space src now ty w1 w2 w3).core = s.core := fun _ _ _ _ _ _ _ =>
    records_core (emitIf_records s _ _ _ _ _ _ _ _)
  obtain ⟨src, now, w1, w2, w3, hmark⟩ := mark_eq s ex
  rw [hmark]
  simp only [State.onCore, hcore]
  rfl

theorem markThresh_eq (s : State) : s.markThresh
    = match s.traceOf s.core.space with
      | some t => if t.flags.getLsbD 2 then some t.thresh else none
      | none => none := rfl

theorem markThresh_of_trace {s : State} {tr : Trace} (h : s.traceOf s.core.space = some tr) :
    s.markThresh = if tr.flags.getLsbD 2 then some tr.thresh else none := by
  rw [markThresh_eq, h]

theorem markThresh_of_no_trace {s : State} (h : s.traceOf s.core.space = none) : s.markThresh = none := by
  rw [markThresh_eq, h]

/-- With no MARK records on, a marker keeps its drift and writes nothing. -/
theorem mark_quiet {s : State} (ex : BitVec 32) (h : ∀ tr, s.traceOf s.core.space = some tr → tr.flags.getLsbD 2 = false) :
    s.mark ex = s.onCore fun c => c.onCtx fun x => { x with prevDrift := some (x.driftClocks - ex), armed := false } := by
  have hquiet : s.markThresh = none ∧ ∀ src now ty w1 w2 w3, s.emitIf 2 s.core.space src now ty w1 w2 w3 = s := by
    cases ht : s.traceOf s.core.space with
    | none =>
      exact ⟨markThresh_of_no_trace ht, fun _ _ _ _ _ _ => emitIf_of_no_trace ht⟩
    | some tr =>
      have hoff := h tr ht
      refine ⟨?_, fun _ _ _ _ _ _ => ?_⟩
      · rw [markThresh_of_trace ht, hoff]
        rfl
      · rw [State.emitIf, ht]
        simp only [hoff, Bool.false_eq_true, if_false]
  obtain ⟨hthresh, hemit⟩ := hquiet
  obtain ⟨src, now, w1, w2, w3, hmark⟩ := mark_eq s ex
  rw [hmark, hemit, hthresh]
  rfl

/-- Settles O37: each point sets what the core does after its bundle; a marker writes its context by its trace. -/
theorem suspensionAndMarkers : Obligations.SuspensionAndMarkers := by
  refine ⟨fun s g n hg => ?_, fun s g ex hg => ⟨fun ht => ?_, fun tr ht hoff => ?_, fun tr ht hon => ?_⟩⟩
  · exact ⟨exec_yield.trans (guarded_coreNext hg rfl), exec_commit.trans (guarded_coreNext hg rfl),
      exec_endt.trans (guarded_coreNext hg rfl), exec_waitc.trans (guarded_coreNext hg rfl), exec_cbar.trans (guarded_coreNext hg rfl),
      fun hp => exec_idle.trans ((privileged_checked hp).trans (checked_coreNext hg rfl rfl)), rfl⟩
  · refine exec_mark.trans ((guardedState_true hg).trans (congrArg Host.Outcome.next ((mark_quiet ex ?_).trans (onCore_onCtx_congr rfl))))
    intro tr' htr'
    rw [ht] at htr'
    cases htr'
  · refine exec_mark.trans ((guardedState_true hg).trans (congrArg Host.Outcome.next ((mark_quiet ex ?_).trans (onCore_onCtx_congr rfl))))
    intro tr' htr'
    rw [ht] at htr'
    cases htr'
    exact hoff
  · refine ⟨s.mark ex, exec_mark.trans (guardedState_true hg), ?_⟩
    have harm : marksArm (some tr.thresh) s.core.ctx.prevDrift (s.core.ctx.driftClocks - ex)
        = match s.core.ctx.prevDrift with
          | some p => decide (tr.thresh.toNat < ((s.core.ctx.driftClocks - ex).toInt - p.toInt).natAbs)
          | none => false := by
      cases s.core.ctx.prevDrift <;> rfl
    rw [mark_core, markThresh_of_trace ht, if_pos hon, harm]
      <;> rfl

/-! ### Traps (R121, R370, R371) -/

theorem handlerOpen_iff (c : Core) :
    c.handlerOpen = true ↔ c.priv = true ∧ c.ctx.trapEn = true ∧ c.ctx.trapActive = false := by
  rw [Core.handlerOpen]
  simp [and_assoc]

theorem trapCause_eq (imm : BitVec 16) : 0x1E#64 ||| (imm.setWidth 64 <<< 8) = BitVec.ofNat 64 (0x1E + 256 * imm.toNat) := by
  have himm := imm.isLt
  have hor : 2 ^ 8 * imm.toNat + 0x1E = 2 ^ 8 * imm.toNat ||| 0x1E := Nat.two_pow_add_eq_or_of_lt (by decide) _
  apply BitVec.eq_of_toNat_eq
  rw [BitVec.toNat_or, BitVec.toNat_shiftLeft, BitVec.toNat_setWidth, BitVec.toNat_ofNat, BitVec.toNat_ofNat, Nat.shiftLeft_eq,
    Nat.mod_eq_of_lt (by omega : imm.toNat < 2 ^ 64), Nat.mod_eq_of_lt (by omega : imm.toNat * 2 ^ 8 < 2 ^ 64),
    Nat.mod_eq_of_lt (by omega : 0x1E + 256 * imm.toNat < 2 ^ 64), Nat.or_comm, Nat.mul_comm imm.toNat, ← Nat.add_comm (256 * imm.toNat)]
  exact hor.symm

/-- What entering the handler leaves in flight. -/
theorem enterHandler_results (c : Core) (imm : BitVec 16) :
    (c.enterHandler imm).ctx.results.map (fun r => (r.wr, r.slot, r.rem)) = c.ctx.results.map (fun r => (r.wr, r.slot, r.rem))
      ++ [(.s 60#6 ((c.ctx.pc + 1) ++ 0#6), 0, 1), (.s 61#6 (BitVec.ofNat 64 (0x1E + 256 * imm.toNat)), 0, 1)] := by
  rw [Core.enterHandler, trapCause_eq]
  simp only [Ctx.push, List.map_append, List.map_cons, List.map_nil, List.append_assoc, List.cons_append, List.nil_append]
  rfl

/-- Settles O38: the handler is open or the trap is raised, and TRAPRET leaves the handler. -/
theorem trapHandler : Obligations.TrapHandler := by
  intro s g imm hg
  refine ⟨fun ht hshut => ?_, fun hp hen hact => ?_, fun hp hact ha => ?_, fun hp hact => ?_⟩
  · have hclosed : s.core.handlerOpen = false := by
      rw [← Bool.not_eq_true, handlerOpen_iff]
      rintro ⟨h1, h2, h3⟩
      simp [h1, h2, h3] at hshut
    refine exec_trap.trans (guarded_coreNext hg ?_)
    rw [hclosed, Core.raiseSoftware, ht]
    rfl
  · have hopen : s.core.handlerOpen = true := (handlerOpen_iff _).2 ⟨hp, hen, hact⟩
    refine ⟨s.onCore fun c => c.enterHandler imm, exec_trap.trans (guarded_coreNext hg (if_pos hopen)), rfl, rfl, rfl, rfl, rfl, rfl, rfl,
      enterHandler_results s.core imm⟩
  · have hchk : checkTrapret s.core = none := by
      rw [checkTrapret, if_pos hact]
      exact targetCheck_aligned ha
    refine exec_trapret.trans ((privileged_checked hp).trans (checked_ctxNext hg hchk ?_))
    rw [Ctx.returnFromHandler, indexOf_eq]
  · have hchk : checkTrapret s.core = some .illegalEncoding := by
      rw [checkTrapret, if_neg (by simp [hact])]
    exact exec_trapret.trans ((privileged_checked hp).trans (checked_fails hg hchk))

end Sys2Proof.Machine
end

section
/-! The words of the specification's own examples (R27 to R43). -/

namespace Sys2Proof.Machine

/-- Settles O40: each word is fixed, and the decoder is run on it. -/
theorem decodeWords : Obligations.DecodeWords := by
  rw [Obligations.DecodeWords]
  refine ⟨?_, ?_, ?_, ?_, ?_, ?_, ?_, ?_, ?_, ?_, ?_, ?_, ?_, ?_, ?_⟩ <;> rfl

end Sys2Proof.Machine
end

section
/-! Drains (R101 to R103, R180 to R182). -/

namespace Sys2Proof.Machine

/-! ### The bytes of a drain -/

theorem leBytes_getElem? (n v k : Nat) (h : k < n) : (leBytes n v)[k]? = some (BitVec.ofNat 8 (v / 2 ^ (8 * k))) := by
  induction n generalizing v k with
  | zero => exact absurd h (Nat.not_lt_zero k)
  | succ n ih =>
    rw [leBytes]
    match k with
    | 0 => simp
    | k + 1 =>
      rw [List.getElem?_cons_succ, ih _ _ (by omega), Nat.div_div_eq_div_mul, Nat.mul_succ, pow_add, Nat.mul_comm 256]
      rfl

theorem leBytes_length (n v : Nat) : (leBytes n v).length = n := by
  induction n generalizing v with
  | zero => rfl
  | succ n ih => rw [leBytes, List.length_cons, ih]

theorem spmCells_getElem? (c : Core) (bs : List Byte) (e k : Nat) :
    (spmCells c e bs)[k]? = bs[k]?.map fun b => (spmKey c (e + k), b) := by
  induction bs generalizing e k with
  | nil => rfl
  | cons b bs ih =>
    rw [spmCells]
    match k with
    | 0 => rfl
    | k + 1 =>
      rw [List.getElem?_cons_succ, List.getElem?_cons_succ, ih, Nat.add_assoc, Nat.add_comm 1]

theorem spmCells_length (c : Core) (bs : List Byte) (e : Nat) : (spmCells c e bs).length = bs.length := by
  induction bs generalizing e with
  | nil => rfl
  | cons b bs ih => rw [spmCells, List.length_cons, List.length_cons, ih]

/-- Byte b of element n in a packed row of elements of m bytes. -/
theorem packed_byte {m n b : Nat} (f : Nat → Nat) (hn : n < 512) (hb : b < m) :
    (leBytes (512 * m) (packNat (8 * m) f 512))[n * m + b]? = some (BitVec.ofNat 8 (f n / 2 ^ (8 * b))) := by
  have hk : n * m + b < 512 * m := by
    calc n * m + b < n * m + m := by omega
      _ = (n + 1) * m := by ring
      _ ≤ 512 * m := Nat.mul_le_mul_right m hn
  rw [leBytes_getElem? _ _ _ hk]
  refine congrArg some (BitVec.eq_of_getLsbD_eq fun j hj => ?_)
  have hbit := testBit_digit (8 * m) (packNat (8 * m) f 512) n (8 * b + j)
  rw [digit_packNat f hn, Nat.testBit_mod_two_pow] at hbit
  have hin : 8 * b + j < 8 * m := by omega
  simp only [hin, decide_true, Bool.true_and] at hbit
  rw [BitVec.getLsbD_ofNat, BitVec.getLsbD_ofNat, Nat.testBit_div_two_pow, Nat.testBit_div_two_pow, Nat.add_comm j (8 * b), hbit]
  congr 2
  ring

/-! ### Lanes and flags -/

/-- A lane converted to the drain format, as R101 to R103 say it. -/
theorem drainLane_eq (df : DrainFmt) (rm : RMode) (ftz : Bool) (a : Nat) : drainLane df rm ftz a =
    (let v := signedOf 32 a
    match df with
    | .f32 => (a, 0#6)
    | .i32 => (a, 0#6)
    | .bf16 => bf16.round rm ftz (fp32.read ftz a)
    | .f16 => fp16.round rm ftz (fp32.read ftz a)
    | .e4m3 => e4m3.round rm false (fp32.read ftz a)
    | .e5m2 => e5m2.round rm false (fp32.read ftz a)
    | .int8 => ((max (-128) (min 127 v) % 256).toNat, if -128 ≤ v ∧ v ≤ 127 then 0#6 else flagNV)) := by
  cases df with
  | int8 =>
    simp only [drainLane, wrapInt]
    split
    · next h =>
      rw [if_neg (by omega), max_eq_left (by omega)]
      rfl
    · split
      · next h =>
        rw [if_neg (by omega), min_eq_left (by omega)]
        rfl
      · rw [if_pos (by omega), min_eq_right (by omega), max_eq_right (by omega)]
        rfl
  | _ => rfl

theorem joinFlags_all_getLsbD (f : Nat → FlagSet) (n k : Nat) (hn : n ≤ 1024) :
    (joinFlags (BitVec.allOnes 1024) f n).getLsbD k = (List.range n).any fun i => (f i).getLsbD k := by
  induction n with
  | zero => simp [joinFlags]
  | succ n ih =>
    rw [joinFlags, BitVec.getLsbD_or, ih (by omega), List.range_succ, List.any_append, BitVec.getLsbD_allOnes,
      decide_eq_true (by omega : n < 1024)]
    simp

theorem drainInt_iff (df : DrainFmt) : drainInt df = true ↔ df = .i32 ∨ df = .int8 := by
  cases df <;> simp [drainInt]

/-! ### What a drain leaves -/

/-- What a drain leaves in flight: the bytes of its lanes, and the status of its group unless its lanes are i32. -/
def Core.drained (c : Core) (acc : BitVec 12) (df : DrainFmt) (e : Nat) (out : Nat → Nat × FlagSet) :
    List (Wr × Nat × Nat × FlagSet) :=
  (.spm (spmCells c e (leBytes (512 * df.bytes) (packNat (8 * df.bytes) (fun n => (out n).1) 512))), 5, 6,
    joinFlags (BitVec.allOnes 1024) (fun n => (out n).2) 512) ::
  if df = .i32 ∨ df = .int8 then [] else
    [(.dstat (BitVec.ofNat 6 (acc.toNat / 64)) ((List.range 512).any fun n => (fp32.decode (digit 32 (c.ctx.getRow acc).toNat n)).isNan)
      ((List.range 512).any fun n => (fp32.decode (digit 32 (c.ctx.getRow acc).toNat n)).isInf), 5, 6, 0#6)]

/-- Only results are added to the context of the core, and those of the list. -/
def Core.addsResults (c d : Core) (l : List (Wr × Nat × Nat × FlagSet)) : Prop :=
  c.sameBeyondCtx d ∧ c.ctx.sameRegisters d.ctx ∧ d.ctx.landings = c.ctx.landings
  ∧ d.ctx.results.map (fun r => (r.wr, r.slot, r.rem, r.flags)) = c.ctx.results.map (fun r => (r.wr, r.slot, r.rem, r.flags)) ++ l

theorem push_adds (c : Core) (slot lat : Nat) (fl : FlagSet) (wr : Wr) :
    c.addsResults (c.onCtx fun x => x.push slot lat fl wr) [(wr, slot, lat, fl)] := by
  refine ⟨rfl, rfl, rfl, ?_⟩
  simp only [Core.onCtx, Ctx.push, List.map_append, List.map_cons, List.map_nil]

theorem adds_trans {c d e : Core} {l m : List (Wr × Nat × Nat × FlagSet)} (h : c.addsResults d l) (h' : d.addsResults e m) :
    c.addsResults e (l ++ m) := by
  obtain ⟨hc, hr, hl, hres⟩ := h
  obtain ⟨hc', hr', hl', hres'⟩ := h'
  refine ⟨?_, ?_, hl'.trans hl, ?_⟩
  · rw [Core.sameBeyondCtx] at *
    rw [hc'.trans (by rw [hc])]
  · rw [Ctx.sameRegisters] at *
    rw [hr'.trans (by rw [hr])]
  · rw [hres', hres, List.append_assoc]

theorem drain_adds (c : Core) (acc : BitVec 12) (df : DrainFmt) (sb : BitVec 6) (off : BitVec 13) :
    c.addsResults (c.drain acc df sb off) (c.drained acc df (c.scaledOffset sb off.toNat 256) fun n =>
      drainLane df c.ctx.fmt.rm c.ctx.ftz (digit 32 (c.ctx.getRow acc).toNat n)) := by
  have hlanes : ∀ p : FVal → Bool, ((List.range 512).map fun n => fp32.decode (digit 32 (c.ctx.getRow acc).toNat n)).any p
      = (List.range 512).any fun n => p (fp32.decode (digit 32 (c.ctx.getRow acc).toNat n)) := fun p => List.any_map
  rw [Core.drained, Core.drain]
  by_cases hi : df = .i32 ∨ df = .int8
  · rw [if_pos hi]
    simp only [(drainInt_iff df).2 hi, if_true]
    exact push_adds c 5 6 _ _
  · have hf : drainInt df = false := by rwa [← Bool.not_eq_true, drainInt_iff]
    rw [if_neg hi]
    simp only [hf, Bool.false_eq_true, if_false, hlanes]
    exact adds_trans (push_adds c 5 6 _ _) (push_adds _ 5 6 0#6 _)

/-! ### The operations -/

section
variable {g : Guard} {acc : BitVec 12} {df : DrainFmt} {sb : BitVec 6} {off : BitVec 13} {s : State}

theorem exec_mdrain : exec (.mdrain g acc df sb off) s = checked g 5 (drainCheck df sb off) s fun c => c.drain acc df sb off := rfl

theorem exec_mdrainz : exec (.mdrainz g acc df sb off) s
    = checked g 5 (drainCheck df sb off) s fun c => (c.drain acc df sb off).zeroRow acc := rfl

theorem exec_mzero : exec (.mzero g acc) s = guarded g s fun c => c.zeroRow acc := rfl

end

theorem zeroRow_adds (c : Core) (acc : BitVec 12) :
    c.addsResults (c.zeroRow acc) [(.row acc (BitVec.allOnes 16384) 0#16384, 5, 1, 0#6)] := push_adds c 5 1 0#6 _

/-- A core that only gains results, seen from its state. -/
theorem next_adds {s : State} {r : Host.Outcome State Fault Refusal} {f : Core → Core} {l : List (Wr × Nat × Nat × FlagSet)}
    (hr : r = .next (s.onCore f)) (h : s.core.addsResults (f s.core) l) :
    ∃ t, r = .next t ∧ s.sameBeyondCore t ∧ s.core.sameBeyondCtx t.core ∧ s.core.ctx.sameRegisters t.core.ctx
      ∧ t.core.ctx.landings = s.core.ctx.landings
      ∧ t.core.ctx.results.map (fun r => (r.wr, r.slot, r.rem, r.flags))
        = s.core.ctx.results.map (fun r => (r.wr, r.slot, r.rem, r.flags)) ++ l :=
  ⟨s.onCore f, hr, rfl, h⟩

/-- Settles O21: the check is that of an access of 512 elements, and the results are the packed lanes with their status. -/
theorem drains : Obligations.Drains := by
  intro s g acc df sb off hg x e src ints conv out zero status does
  have hconv : (fun n => drainLane df s.core.ctx.fmt.rm s.core.ctx.ftz (digit 32 (s.core.ctx.getRow acc).toNat n))
      = fun n => conv (src n) := funext fun n => drainLane_eq df _ _ _
  have he : s.core.scaledOffset sb off.toNat 256 = e := by rw [Core.scaledOffset, Nat.mul_comm]
  have hcheck : drainCheck df sb off s.core = windowCheck s.core.window e (512 * df.bytes) 256 := by rw [drainCheck, he]
  refine ⟨fun hfit => ?_, ?_, fun h => ?_, fun h ha => ?_⟩
  · have hpass := hcheck.trans (windowCheck_fits hfit)
    have hadds := drain_adds s.core acc df sb off
    rw [he, hconv] at hadds
    refine ⟨_, _, next_adds (exec_mdrain.trans (checked_passes hg hpass)) hadds,
      next_adds (exec_mdrainz.trans (checked_passes hg hpass)) (adds_trans hadds (zeroRow_adds _ acc)), ?_, fun n b hn hb => ?_,
      fun k _ => joinFlags_all_getLsbD _ 512 k (by decide)⟩
    · rw [spmCells_length, leBytes_length]
    · rw [spmCells_getElem?, packed_byte _ hn hb]
      rfl
  · exact next_adds (exec_mzero.trans (guarded_true hg)) (zeroRow_adds s.core acc)
  · exact ⟨exec_mdrain.trans (checked_fails hg (hcheck.trans (windowCheck_outside h))), exec_mdrainz.trans (checked_fails hg (hcheck.trans (windowCheck_outside h)))⟩
  · exact ⟨exec_mdrain.trans (checked_fails hg (hcheck.trans (windowCheck_misaligned h ha))),
      exec_mdrainz.trans (checked_fails hg (hcheck.trans (windowCheck_misaligned h ha)))⟩

end Sys2Proof.Machine
end

section
/-! Floating beats: which beat is made, products, exact sums and their one rounding (R109, R111, R173 to R176). -/

namespace Sys2Proof.Machine

/-! ### Values -/

theorem value_fin (n : Bool) (m : Nat) (e : Int) : (FVal.fin n m e).value = (if n then -1 else 1) * m * 2 ^ e := rfl

theorem finite_iff {v : FVal} : v.finite ↔ ∃ n m e, v = .fin n m e := by
  cases v with
  | nan => simp [FVal.finite, FVal.isNan]
  | inf n => simp [FVal.finite, FVal.isInf]
  | fin n m e => simp [FVal.finite, FVal.isNan, FVal.isInf]

theorem finite_fin (n : Bool) (m : Nat) (e : Int) : (FVal.fin n m e).finite := ⟨rfl, rfl⟩

theorem two_zpow_pos (e : Int) : (0 : ℚ) < 2 ^ e := zpow_pos (by norm_num) e

/-- The value of a product. -/
theorem mul_value (a b : Bool) (m n : Nat) (d e : Int) :
    (FVal.fin (a != b) (m * n) (d + e)).value = (FVal.fin a m d).value * (FVal.fin b n e).value := by
  simp only [value_fin, Nat.cast_mul, zpow_add₀ (two_ne_zero : (2 : ℚ) ≠ 0)]
  cases a <;> cases b <;> simp <;> ring

/-- A scaled mantissa is the value in units of 2^q. -/
theorem scaled_value (n : Bool) (m : Nat) {e q : Int} (h : q ≤ e) :
    (FVal.scaled n m e q : ℚ) * 2 ^ q = (FVal.fin n m e).value := by
  have hpow : ((2 : ℚ) ^ (e - q).toNat) * 2 ^ q = 2 ^ e := by
    rw [← zpow_natCast, ← zpow_add₀ (two_ne_zero : (2 : ℚ) ≠ 0)]
    congr 1
    omega
  rw [FVal.scaled, value_fin]
  cases n
  · simp only [Bool.false_eq_true, if_false]
    push_cast
    rw [mul_assoc, hpow, one_mul]
  · simp only [if_true]
    push_cast
    rw [neg_mul, mul_assoc, hpow, neg_one_mul, neg_mul]

theorem signed_value (v q : Int) : (FVal.fin (decide (v < 0)) v.natAbs q).value = v * 2 ^ q := by
  rw [value_fin]
  congr 1
  by_cases h : v < 0
  · rw [decide_eq_true h, if_pos rfl, Nat.cast_natAbs, abs_of_neg h]
    push_cast
    ring
  · rw [decide_eq_false h, if_neg Bool.false_ne_true, Nat.cast_natAbs, abs_of_nonneg (not_lt.1 h), one_mul]

theorem zero_value (n : Bool) (e : Int) : (FVal.fin n 0 e).value = 0 := by rw [value_fin]; simp

/-- A sum is exact. -/
theorem addFin_value (rm : RMode) (n n' : Bool) (m m' : Nat) (e e' : Int) :
    ∃ k l d, FVal.addFin rm n m e n' m' e' = .fin k l d
      ∧ (FVal.fin k l d).value = (FVal.fin n m e).value + (FVal.fin n' m' e').value := by
  have hsum : ((FVal.scaled n m e (min e e') + FVal.scaled n' m' e' (min e e') : Int) : ℚ) * 2 ^ (min e e')
      = (FVal.fin n m e).value + (FVal.fin n' m' e').value := by
    rw [Int.cast_add, add_mul, scaled_value n m (min_le_left e e'), scaled_value n' m' (min_le_right e e')]
  rw [FVal.addFin]
  simp only [beq_iff_eq]
  split
  · next h =>
    refine ⟨_, _, _, rfl, ?_⟩
    rw [← hsum, h, zero_value]
    simp
  · exact ⟨_, _, _, rfl, (signed_value _ _).trans hsum⟩

/-- The value of a term of a group. -/
def termValue (t : Bool × Nat × Int) : ℚ := (FVal.fin t.1 t.2.1 t.2.2).value

/-- The sum of the terms of a group is exact. -/
theorem exactSum_value (rm : RMode) (ts : List (Bool × Nat × Int)) :
    termValue (exactSum rm ts) = (ts.map termValue).sum := by
  have hmin : ∀ (l : List (Bool × Nat × Int)) (a : Int), l.foldl (fun a t => min a t.2.2) a ≤ a
      ∧ ∀ t ∈ l, l.foldl (fun a t => min a t.2.2) a ≤ t.2.2 := by
    intro l
    induction l with
    | nil => exact fun a => ⟨le_refl a, fun t ht => absurd ht List.not_mem_nil⟩
    | cons x l ih =>
      intro a
      obtain ⟨hle, hmem⟩ := ih (min a x.2.2)
      refine ⟨hle.trans (min_le_left _ _), fun t ht => ?_⟩
      rcases List.mem_cons.1 ht with rfl | ht
      · exact hle.trans (min_le_right _ _)
      · exact hmem t ht
  have hsum : ∀ (q : Int) (l : List (Bool × Nat × Int)) (a : Int), (∀ t ∈ l, q ≤ t.2.2) →
      ((l.foldl (fun a t => a + FVal.scaled t.1 t.2.1 t.2.2 q) a : Int) : ℚ) * 2 ^ q = a * 2 ^ q + (l.map termValue).sum := by
    intro q l
    induction l with
    | nil => intro a _; simp
    | cons x l ih =>
      intro a hq
      rw [List.foldl_cons, ih _ fun t ht => hq t (List.mem_cons_of_mem _ ht), Int.cast_add, add_mul,
        scaled_value _ _ (hq x List.mem_cons_self), List.map_cons, List.sum_cons, add_assoc]
      rfl
  have htotal := hsum _ ts 0 (hmin ts 0).2
  rw [Int.cast_zero, zero_mul, zero_add] at htotal
  rw [exactSum]
  split
  · next h =>
    rw [h, Int.cast_zero, zero_mul] at htotal
    rw [← htotal]
    exact zero_value _ _
  · rw [← htotal]
    exact signed_value _ _

/-! ### Products (R109, R175) -/

/-- The product of finite factors is finite, and its value is theirs multiplied. -/
theorem productOf_finite (l : List FVal) (h : ∀ v ∈ l, v.finite) :
    (productOf l).2 = false ∧ (productOf l).1.finite ∧ (productOf l).1.value = (l.map FVal.value).prod := by
  induction l with
  | nil =>
    refine ⟨rfl, finite_fin _ _ _, ?_⟩
    rw [productOf, value_fin]
    simp
  | cons v l ih =>
    obtain ⟨hvalid, hfin, hval⟩ := ih fun w hw => h w (List.mem_cons_of_mem _ hw)
    obtain ⟨n, m, e, rfl⟩ := finite_iff.1 (h v List.mem_cons_self)
    obtain ⟨n', m', e', hp⟩ := finite_iff.1 hfin
    rw [productOf]
    simp only [hvalid, Bool.false_eq_true, if_false, hp, FVal.mul]
    refine ⟨trivial, finite_fin _ _ _, ?_⟩
    rw [List.map_cons, List.prod_cons, ← hval, hp]
    exact mul_value n n' m m' e e'

/-- The product of a column in a beat, over its six factors. -/
theorem beatProduct_value {x : Ctx} {bandA bandB va vb : FVal} {a b : Nat} (hp : elementPair a b = some (va, vb))
    (h : ∀ v ∈ [va, scaleVal (elementScale x.tableA a), vb, scaleVal (elementScale x.tableB b), bandA, bandB], v.finite) :
    (beatProduct x bandA bandB a b).2 = false ∧ (beatProduct x bandA bandB a b).1.finite
    ∧ (beatProduct x bandA bandB a b).1.value
      = va.value * (scaleVal (elementScale x.tableA a)).value * (vb.value * (scaleVal (elementScale x.tableB b)).value)
        * (bandA.value * bandB.value) := by
  have hnan : ([va, scaleVal (elementScale x.tableA a), vb, scaleVal (elementScale x.tableB b), bandA, bandB].any FVal.isNan) = false := by
    rw [List.any_eq_false]
    exact fun v hv => by rw [(h v hv).1]; exact Bool.false_ne_true
  obtain ⟨hvalid, hfin, hval⟩ := productOf_finite _ h
  rw [beatProduct, hp]
  simp only [hnan, Bool.false_eq_true, if_false]
  refine ⟨hvalid, hfin, hval.trans ?_⟩
  simp only [List.map_cons, List.map_nil, List.prod_cons, List.prod_nil]
  ring

/-! ### Codes of f32 (R97, R103) -/

/-- What rounding to f32 gives: a sign and a magnitude up to that of infinity, or the canonical NaN. -/
theorem roundFin_code (rm : RMode) (ftz neg : Bool) (m : Nat) (e : Int) :
    ∃ mag, mag ≤ fp32.infMag ∧ (fp32.roundFin rm ftz neg m e).1 = fp32.signOf neg + mag := by
  have hover : fp32.overflow rm neg ≤ fp32.infMag := by
    cases rm <;> cases neg <;> decide
  rw [FloatFmt.roundFin]
  split
  · exact ⟨0, Nat.zero_le _, rfl⟩
  · simp only
    split
    · exact ⟨_, hover, rfl⟩
    · next hle =>
      split
      · exact ⟨0, Nat.zero_le _, rfl⟩
      · exact ⟨_, (Nat.not_lt.1 hle).trans (by decide), rfl⟩

/-- The fields of an f32 code. -/
theorem fp32_decode_eq (c : Nat) : fp32.decode c
    = if (c / 2 ^ 23 % 2 ^ 8 == 255) = true then (if (c % 2 ^ 23 == 0) = true then .inf (c.testBit 31) else .nan)
      else if (c / 2 ^ 23 % 2 ^ 8 == 0) = true then .fin (c.testBit 31) (c % 2 ^ 23) (-149)
      else .fin (c.testBit 31) (2 ^ 23 + c % 2 ^ 23) (((c / 2 ^ 23 % 2 ^ 8 : Nat) : Int) - 127 - 23) := rfl

theorem fp32_decode_mod (c : Nat) : fp32.decode (c % 2 ^ 32) = fp32.decode c := by
  have hneg : (c % 2 ^ 32).testBit 31 = c.testBit 31 := by
    rw [Nat.testBit_mod_two_pow, decide_eq_true (by decide), Bool.true_and]
  have hex : c % 2 ^ 32 / 2 ^ 23 % 2 ^ 8 = c / 2 ^ 23 % 2 ^ 8 := by omega
  have hm : c % 2 ^ 32 % 2 ^ 23 = c % 2 ^ 23 := by omega
  rw [fp32_decode_eq, fp32_decode_eq, hneg, hex, hm]

/-- A finite code of f32 rounds back to itself. -/
theorem fp32_round_finite {c : Nat} (hc : c < 2 ^ 32) (h : (fp32.decode c).finite) : (fp32.round .rne false (fp32.decode c)).1 = c := by
  rw [codesAreExact fp32 (by simp) .rne c hc h.1 h.2]

/-- The value of any code rounds to a code of the same value. -/
theorem fp32_decode_round (c : Nat) : (fp32.round .rne false (fp32.decode c)).1 < 2 ^ 32
    ∧ fp32.decode (fp32.round .rne false (fp32.decode c)).1 = fp32.decode c := by
  cases hv : fp32.decode c with
  | nan => exact ⟨by decide, by decide⟩
  | inf neg => cases neg <;> exact ⟨by decide, by decide⟩
  | fin n m e =>
    have hmod := fp32_decode_mod c
    rw [hv] at hmod
    have hround : (fp32.round .rne false (.fin n m e)).1 = c % 2 ^ 32 := by
      rw [← hmod]
      exact fp32_round_finite (Nat.mod_lt _ (by decide)) (by rw [hmod]; exact finite_fin n m e)
    rw [hround]
    exact ⟨Nat.mod_lt _ (by decide), hmod⟩

/-- A code with a magnitude up to that of infinity rounds back to itself from its value. -/
theorem round_decode_code (neg : Bool) {mag : Nat} (h : mag ≤ fp32.infMag) :
    (fp32.round .rne false (fp32.decode (fp32.signOf neg + mag))).1 = fp32.signOf neg + mag := by
  have hinf : fp32.infMag = 0x7F800000 := by decide
  have hsign : fp32.signOf neg = 0 ∨ fp32.signOf neg = 2 ^ 31 := by cases neg <;> decide
  rw [hinf] at h
  rcases Nat.eq_or_lt_of_le h with rfl | hlt
  · cases neg <;> decide
  · refine fp32_round_finite (by omega) ?_
    have hex : (fp32.signOf neg + mag) / 2 ^ 23 % 2 ^ 8 ≠ 255 := by omega
    rw [fp32_decode_eq, if_neg (fun h => hex (beq_iff_eq.1 h))]
    split <;> exact finite_fin _ _ _

/-- One rounding to f32, and back. -/
theorem round_decode_round (rm : RMode) (ftz n : Bool) (m : Nat) (e : Int) :
    (fp32.round .rne false (fp32.decode (fp32.round rm ftz (.fin n m e)).1)).1 = (fp32.round rm ftz (.fin n m e)).1
    ∧ (fp32.round rm ftz (.fin n m e)).1 < 2 ^ 32 := by
  obtain ⟨mag, hmag, hcode⟩ := roundFin_code rm ftz n m e
  rw [show fp32.round rm ftz (.fin n m e) = fp32.roundFin rm ftz n m e from rfl, hcode]
  have hback := round_decode_code n hmag
  exact ⟨hback, hback ▸ (fp32_decode_round _).1⟩

/-! ### Groups and columns (R109, R111) -/

theorem groupSum_pinf {ps : List (FVal × Bool)} : (groupSum ps).pinf = true ↔ ∃ p ∈ ps, p.1 = .inf false := by
  simp [groupSum]

theorem groupSum_ninf {ps : List (FVal × Bool)} : (groupSum ps).ninf = true ↔ ∃ p ∈ ps, p.1 = .inf true := by
  simp [groupSum]

theorem groupSum_nan {ps : List (FVal × Bool)} : (groupSum ps).nan = true ↔ ∃ p ∈ ps, p.1 = .nan := by
  have hnan : ∀ v : FVal, v.isNan = true ↔ v = .nan := fun v => by cases v <;> simp [FVal.isNan]
  simp [groupSum, hnan]

theorem groupSum_invalid {ps : List (FVal × Bool)} : (groupSum ps).invalid = true ↔ ∃ p ∈ ps, p.2 = true := by
  simp [groupSum]

/-- The lane of a column of one group. -/
def laneOfGroup (b : Beat) (acc : FVal) (c : ColSum) : Nat := (fp32.round .rne false (addCol b.rm b.ftz acc c).1).1

theorem finishCol_single (b : Beat) (base : Nat) (c : ColSum) : (finishCol b base [c]).1 = laneOfGroup b (fp32.decode base) c := rfl

theorem laneOfGroup_nan (b : Beat) (acc : FVal) (i p n : Bool) : laneOfGroup b acc (.nan i p n) = 0x7FC00000 := by
  cases acc <;> rfl

theorem laneOfGroup_of_nan (b : Beat) (c : ColSum) : laneOfGroup b .nan c = 0x7FC00000 := by
  cases c <;> rfl

theorem laneOfGroup_clash (b : Beat) {p n : Bool} (h : p ≠ n) : laneOfGroup b (.inf p) (.inf n) = 0x7FC00000 := by
  cases p <;> cases n
  · exact absurd rfl h
  · rfl
  · rfl
  · exact absurd rfl h

theorem laneOfGroup_inf_acc (b : Beat) (p n : Bool) (m : Nat) (e : Int) :
    laneOfGroup b (.inf p) (.num n m e) = if p then 0xFF800000 else 0x7F800000 := by
  cases p <;> rfl

theorem laneOfGroup_inf_same (b : Beat) (p : Bool) : laneOfGroup b (.inf p) (.inf p) = if p then 0xFF800000 else 0x7F800000 := by
  cases p <;> rfl

theorem laneOfGroup_inf_group (b : Beat) (p n : Bool) (m : Nat) (e : Int) :
    laneOfGroup b (.fin n m e) (.inf p) = if p then 0xFF800000 else 0x7F800000 := by
  cases p <;> rfl

theorem addCol_num (rm : RMode) (ftz n n' : Bool) (m m' : Nat) (e e' : Int) : (addCol rm ftz (.fin n m e) (.num n' m' e')).1
    = fp32.decode (fp32.round rm ftz (FVal.addFin rm n m e n' m' e')).1 := rfl

/-- A finite column: one rounding of the exact sum. -/
theorem laneOfGroup_num (b : Beat) (n n' : Bool) (m m' : Nat) (e e' : Int) : ∃ k l d,
    laneOfGroup b (.fin n m e) (.num n' m' e') = (fp32.round b.rm b.ftz (.fin k l d)).1
    ∧ (FVal.fin k l d).value = (FVal.fin n m e).value + (FVal.fin n' m' e').value := by
  obtain ⟨k, l, d, hadd, hval⟩ := addFin_value b.rm n n' m m' e e'
  refine ⟨k, l, d, ?_, hval⟩
  rw [laneOfGroup, addCol_num, hadd]
  exact (round_decode_round b.rm b.ftz k l d).1

/-! ### Truncation of a 16-bit group (R111) -/

theorem termValue_eq_zero_iff (t : Bool × Nat × Int) : termValue t = 0 ↔ t.2.1 = 0 := by
  obtain ⟨n, m, e⟩ := t
  have hpow := (two_zpow_pos e).ne'
  rw [termValue, value_fin]
  cases n <;> simp [hpow]

theorem abs_termValue (t : Bool × Nat × Int) : |termValue t| = t.2.1 * 2 ^ t.2.2 := by
  obtain ⟨n, m, e⟩ := t
  have hpow := two_zpow_pos e
  rw [termValue, value_fin, abs_mul, abs_mul, abs_of_pos hpow, Nat.abs_cast]
  cases n <;> simp

/-- The exponent of the top bit of a term. -/
def termTop (t : Bool × Nat × Int) : Int := Nat.log2 t.2.1 + t.2.2

theorem log_termValue {t : Bool × Nat × Int} (h : t.2.1 ≠ 0) : Int.log 2 |termValue t| = termTop t := by
  have hpos : (0 : ℚ) < |termValue t| := abs_pos.2 fun h0 => h ((termValue_eq_zero_iff t).1 h0)
  have hle : 2 ^ Nat.log2 t.2.1 ≤ t.2.1 := Nat.log2_self_le h
  have hlt : t.2.1 < 2 ^ (Nat.log2 t.2.1 + 1) := Nat.lt_log2_self
  have hsplit : ∀ k : Nat, ((2 : ℕ) : ℚ) ^ ((k : Int) + t.2.2) = ((2 ^ k : Nat) : ℚ) * 2 ^ t.2.2 := fun k => by
    rw [zpow_add₀ (by norm_num), zpow_natCast]
    push_cast
    ring
  apply le_antisymm
  · have hup : |termValue t| < ((2 : ℕ) : ℚ) ^ (termTop t + 1) := by
      rw [abs_termValue, termTop, show (Nat.log2 t.2.1 : Int) + t.2.2 + 1 = ((Nat.log2 t.2.1 + 1 : Nat) : Int) + t.2.2 by push_cast; ring,
        hsplit]
      exact mul_lt_mul_of_pos_right (by exact_mod_cast hlt) (two_zpow_pos _)
    have := (Int.lt_zpow_iff_log_lt (by norm_num : 1 < 2) hpos).1 hup
    omega
  · rw [← Int.zpow_le_iff_le_log (by norm_num : 1 < 2) hpos, abs_termValue, termTop, hsplit]
    exact mul_le_mul_of_nonneg_right (by exact_mod_cast hle) (two_zpow_pos _).le

/-- The top exponent among the terms that are not zero. -/
def groupTop (ts : List (Bool × Nat × Int)) (a : Option Int) : Option Int :=
  ts.foldl (fun (a : Option Int) t =>
    if t.2.1 = 0 then a
    else match a with | none => some (termTop t) | some b => some (max b (termTop t))) a

theorem truncGroup_eq (ts : List (Bool × Nat × Int)) : truncGroup ts = match groupTop ts none with
    | none => (ts, false)
    | some e => ((ts.map (truncTerm (e - 48))).map Prod.fst, (ts.map (truncTerm (e - 48))).any Prod.snd) := rfl

theorem groupTop_zero {ts : List (Bool × Nat × Int)} (h : ∀ t ∈ ts, t.2.1 = 0) (a : Option Int) : groupTop ts a = a := by
  induction ts with
  | nil => rfl
  | cons t ts ih =>
    rw [groupTop, List.foldl_cons, if_pos (h t List.mem_cons_self)]
    exact ih fun u hu => h u (List.mem_cons_of_mem _ hu)

theorem groupTop_max {ts : List (Bool × Nat × Int)} {v : Int} (a : Option Int) (hle : ∀ t ∈ ts, t.2.1 ≠ 0 → termTop t ≤ v)
    (ha : ∀ b, a = some b → b ≤ v) (hat : a = some v ∨ ∃ t ∈ ts, t.2.1 ≠ 0 ∧ termTop t = v) : groupTop ts a = some v := by
  induction ts generalizing a with
  | nil =>
    rcases hat with h | ⟨t, ht, -⟩
    · exact h
    · exact absurd ht List.not_mem_nil
  | cons t ts ih =>
    rw [groupTop, List.foldl_cons, ← groupTop]
    have htail : ∀ u ∈ ts, u.2.1 ≠ 0 → termTop u ≤ v := fun u hu => hle u (List.mem_cons_of_mem _ hu)
    by_cases hz : t.2.1 = 0
    · rw [if_pos hz]
      refine ih a htail ha (hat.imp_right ?_)
      rintro ⟨u, hu, hn, hv⟩
      rcases List.mem_cons.1 hu with rfl | hu
      · exact absurd hz hn
      · exact ⟨u, hu, hn, hv⟩
    · rw [if_neg hz]
      have htop := hle t List.mem_cons_self hz
      cases a with
      | none =>
        refine ih _ htail (fun b hb => by cases hb; exact htop) ?_
        rcases hat with h | ⟨u, hu, hn, hv⟩
        · cases h
        · rcases List.mem_cons.1 hu with rfl | hu
          · exact .inl (congrArg some hv)
          · exact .inr ⟨u, hu, hn, hv⟩
      | some b =>
        have hb := ha b rfl
        refine ih _ htail (fun d hd => by cases hd; exact max_le hb htop) ?_
        rcases hat with h | ⟨u, hu, hn, hv⟩
        · cases h
          exact .inl (congrArg some (max_eq_left htop))
        · rcases List.mem_cons.1 hu with rfl | hu
          · exact .inl (congrArg some (hv ▸ max_eq_right (hv.symm ▸ hb)))
          · exact .inr ⟨u, hu, hn, hv⟩

/-- A term truncated in units of 2^u. -/
theorem truncTerm_value (u : Int) (t : Bool × Nat × Int) : termValue (truncTerm u t).1 = truncated u (termValue t) := by
  obtain ⟨n, m, e⟩ := t
  have hu := two_zpow_pos u
  have hsign : ∀ k : Nat, (m = 0 → k = 0) →
      (if termValue (n, m, e) < 0 then (-1 : ℚ) else 1) * k * 2 ^ u = (if n then -1 else 1) * k * 2 ^ u := by
    intro k hk
    rcases Nat.eq_zero_or_pos m with hm | hm
    · simp [hk hm]
    · have hpos : (0 : ℚ) < m * 2 ^ e := mul_pos (by exact_mod_cast hm) (two_zpow_pos e)
      have hval : termValue (n, m, e) = (if n then -1 else 1) * (m * 2 ^ e) := by rw [termValue, value_fin, mul_assoc]
      cases n
      · rw [hval, if_neg (by simpa using hpos.le)]
        simp
      · rw [hval, if_pos (by simpa using hpos)]
        simp
  rw [truncated, abs_termValue]
  simp only
  by_cases h : u ≤ e
  · have hq : (m : ℚ) * 2 ^ e / 2 ^ u = ((m * 2 ^ (e - u).toNat : Nat) : ℚ) := by
      rw [div_eq_iff hu.ne', Nat.cast_mul, mul_assoc, Nat.cast_pow, Nat.cast_ofNat, ← zpow_natCast, ← zpow_add₀ (two_ne_zero : (2 : ℚ) ≠ 0)]
      congr 2
      omega
    have hfloor : ((⌊(m : ℚ) * 2 ^ e / 2 ^ u⌋ : Int) : ℚ) = ((m * 2 ^ (e - u).toNat : Nat) : ℚ) := by
      rw [hq, Int.floor_natCast]
      rfl
    rw [truncTerm, if_pos h, hfloor, hsign _ fun hm => by simp [hm], ← hq]
    rw [termValue, value_fin]
    field_simp
  · have hq : (m : ℚ) * 2 ^ e / 2 ^ u = (m : ℚ) / ((2 ^ (u - e).toNat : Nat) : ℚ) := by
      rw [div_eq_div_iff hu.ne' (by positivity), mul_assoc, Nat.cast_pow, Nat.cast_ofNat, ← zpow_natCast,
        ← zpow_add₀ (two_ne_zero : (2 : ℚ) ≠ 0)]
      congr 2
      omega
    have hfloor : ((⌊(m : ℚ) * 2 ^ e / 2 ^ u⌋ : Int) : ℚ) = ((m / 2 ^ (u - e).toNat : Nat) : ℚ) := by
      rw [hq, Rat.floor_natCast_div_natCast]
      rfl
    rw [truncTerm, if_neg h, hfloor, hsign _ fun hm => by simp [hm]]
    rfl

/-! ### The lane of a column of one group -/

section
variable {ps : List (FVal × Bool)}

/-- The terms of a group of finite products, with their values. -/
theorem terms_of_finite (h : ∀ p ∈ ps, p.1.finite) : (groupSum ps).terms.map termValue = ps.map fun p => p.1.value := by
  rw [groupSum]
  simp only
  induction ps with
  | nil => rfl
  | cons p ps ih =>
    obtain ⟨n, m, e, hp⟩ := finite_iff.1 (h p List.mem_cons_self)
    rw [List.filterMap_cons]
    simp only [hp, List.map_cons]
    rw [ih fun q hq => h q (List.mem_cons_of_mem _ hq)]
    rfl

/-- A NaN, an invalid product, or infinities of both signs. -/
def GroupSum.isBad (g : GroupSum) : Bool := g.nan || g.invalid || (g.pinf && g.ninf)

theorem col_bad {g : GroupSum} (rm : RMode) (trunc : Bool) (h : g.isBad = true) : ∃ i p n, (g.col rm trunc).1 = .nan i p n := by
  rw [GroupSum.isBad] at h
  rw [GroupSum.col, if_pos h]
  exact ⟨_, _, _, rfl⟩

theorem col_pinf {g : GroupSum} (rm : RMode) (trunc : Bool) (h : g.isBad = false) (hp : g.pinf = true) :
    (g.col rm trunc).1 = .inf false := by
  rw [GroupSum.isBad] at h
  rw [GroupSum.col, if_neg (by simp [h]), if_pos hp]

theorem col_ninf {g : GroupSum} (rm : RMode) (trunc : Bool) (h : g.isBad = false) (hn : g.ninf = true) :
    (g.col rm trunc).1 = .inf true := by
  have hp : g.pinf = false := by
    rw [GroupSum.isBad, hn] at h
    simp_all
  rw [GroupSum.isBad] at h
  rw [GroupSum.col, if_neg (by simp [h]), if_neg (by simp [hp]), if_pos hn]

/-- A group with no infinity is the exact sum of its terms, truncated where it is a 16-bit group. -/
theorem col_num {g : GroupSum} (rm : RMode) (trunc : Bool) (h : g.isBad = false) (hp : g.pinf = false) (hn : g.ninf = false) :
    ∃ v : Bool × Nat × Int, (g.col rm trunc).1 = .num v.1 v.2.1 v.2.2
      ∧ termValue v = (((if trunc then (truncGroup g.terms).1 else g.terms)).map termValue).sum := by
  rw [GroupSum.isBad] at h
  rw [GroupSum.col, if_neg (by simp [h]), if_neg (by simp [hp]), if_neg (by simp [hn])]
  cases trunc
  · exact ⟨_, rfl, exactSum_value rm g.terms⟩
  · exact ⟨_, rfl, exactSum_value rm (truncGroup g.terms).1⟩

theorem isBad_iff : (groupSum ps).isBad = true ↔ (∃ p ∈ ps, p.1 = .nan ∨ p.2 = true)
    ∨ ((∃ p ∈ ps, p.1 = .inf false) ∧ ∃ p ∈ ps, p.1 = .inf true) := by
  rw [GroupSum.isBad, Bool.or_eq_true, Bool.or_eq_true, Bool.and_eq_true, groupSum_nan, groupSum_invalid, groupSum_pinf, groupSum_ninf]
  refine or_congr_left ⟨?_, ?_⟩
  · rintro (⟨p, hp, h⟩ | ⟨p, hp, h⟩)
    · exact ⟨p, hp, .inl h⟩
    · exact ⟨p, hp, .inr h⟩
  · rintro ⟨p, hp, h | h⟩
    · exact .inl ⟨p, hp, h⟩
    · exact .inr ⟨p, hp, h⟩

/-- The column that a group is, by what its products hold. -/
theorem col_cases (rm : RMode) (trunc : Bool) :
    ((groupSum ps).isBad = true ∧ ∃ i p n, ((groupSum ps).col rm trunc).1 = .nan i p n)
    ∨ ((groupSum ps).isBad = false ∧ ∃ neg, (∃ p ∈ ps, p.1 = .inf neg) ∧ ((groupSum ps).col rm trunc).1 = .inf neg)
    ∨ ((groupSum ps).isBad = false ∧ (∀ neg, ¬ ∃ p ∈ ps, p.1 = .inf neg) ∧ ∃ n m e, ((groupSum ps).col rm trunc).1 = .num n m e) := by
  cases hb : (groupSum ps).isBad
  · cases hp : (groupSum ps).pinf
    · cases hn : (groupSum ps).ninf
      · obtain ⟨v, hv, -⟩ := col_num rm trunc hb hp hn
        refine .inr (.inr ⟨rfl, fun neg h => ?_, _, _, _, hv⟩)
        cases neg
        · rw [groupSum_pinf.2 h] at hp
          cases hp
        · rw [groupSum_ninf.2 h] at hn
          cases hn
      · exact .inr (.inl ⟨rfl, true, groupSum_ninf.1 hn, col_ninf rm trunc hb hn⟩)
    · exact .inr (.inl ⟨rfl, false, groupSum_pinf.1 hp, col_pinf rm trunc hb hp⟩)
  · exact .inl ⟨rfl, col_bad rm trunc hb⟩

end

section
variable {b : Beat} {acc : FVal} {ps : List (FVal × Bool)} {trunc : Bool}

/-- The accumulator or a product is this infinity. -/
def hasInf (acc : FVal) (ps : List (FVal × Bool)) (neg : Bool) : Prop := acc = .inf neg ∨ ∃ p ∈ ps, p.1 = .inf neg

/-- What makes a sum NaN (R109, R111). -/
def sumBad (acc : FVal) (ps : List (FVal × Bool)) : Prop :=
  acc = .nan ∨ (∃ p ∈ ps, p.1 = .nan ∨ p.2 = true) ∨ (hasInf acc ps false ∧ hasInf acc ps true)

/-- A NaN, an invalid product, or infinities of both signs give the canonical NaN. -/
theorem laneOfGroup_bad (h : sumBad acc ps) : laneOfGroup b acc ((groupSum ps).col b.rm trunc).1 = 0x7FC00000 := by
  rcases col_cases (ps := ps) b.rm trunc with ⟨-, i, p, n, hc⟩ | ⟨hb, neg, hinf, hc⟩ | ⟨hb, hno, n, m, e, hc⟩
  · rw [hc, laneOfGroup_nan]
  · rw [hc]
    rw [← Bool.not_eq_true, isBad_iff, not_or] at hb
    rcases h with rfl | h | ⟨hf, ht⟩
    · exact laneOfGroup_of_nan b _
    · exact absurd h hb.1
    · have hother : ∀ p : Bool, hasInf acc ps p → p ≠ neg → acc = .inf p := fun p hp hne => hp.resolve_right fun hq => by
        refine hb.2 ?_
        cases p <;> cases neg
        · exact absurd rfl hne
        · exact ⟨hq, hinf⟩
        · exact ⟨hinf, hq⟩
        · exact absurd rfl hne
      have hacc : acc = .inf (!neg) := by
        cases neg
        · exact hother true ht (by decide)
        · exact hother false hf (by decide)
      rw [hacc]
      exact laneOfGroup_clash b (by cases neg <;> decide)
  · rw [hc]
    rw [← Bool.not_eq_true, isBad_iff, not_or] at hb
    rcases h with rfl | h | ⟨hf, ht⟩
    · exact laneOfGroup_of_nan b _
    · exact absurd h hb.1
    · have h1 : acc = .inf false := hf.resolve_right (hno false)
      have h2 : acc = .inf true := ht.resolve_right (hno true)
      rw [h1] at h2
      cases h2

/-- Infinities of one sign give that infinity. -/
theorem laneOfGroup_inf {neg : Bool} (hbad : ¬ sumBad acc ps) (h : hasInf acc ps neg) :
    laneOfGroup b acc ((groupSum ps).col b.rm trunc).1 = if neg then 0xFF800000 else 0x7F800000 := by
  have hnan : acc ≠ .nan := fun h => hbad (.inl h)
  have hclash : ∀ p q : Bool, hasInf acc ps p → hasInf acc ps q → p = q := fun p q hp hq => by
    cases p <;> cases q
    · rfl
    · exact absurd (.inr (.inr ⟨hp, hq⟩)) hbad
    · exact absurd (.inr (.inr ⟨hq, hp⟩)) hbad
    · rfl
  rcases col_cases (ps := ps) b.rm trunc with ⟨hb, -⟩ | ⟨hb, p, hinf, hc⟩ | ⟨hb, hno, n, m, e, hc⟩
  · rcases isBad_iff.1 hb with hb | ⟨hf, ht⟩
    · exact absurd (.inr (.inl hb)) hbad
    · exact absurd (.inr (.inr ⟨.inr hf, .inr ht⟩)) hbad
  · obtain rfl : p = neg := hclash _ _ (.inr hinf) h
    rw [hc]
    cases hacc : acc with
    | nan => exact absurd hacc hnan
    | inf q =>
      obtain rfl : q = p := hclash _ _ (.inl hacc) h
      exact laneOfGroup_inf_same b q
    | fin n m e => exact laneOfGroup_inf_group b p n m e
  · obtain rfl : acc = .inf neg := h.resolve_right (hno neg)
    rw [hc, laneOfGroup_inf_acc]

/-- One rounding of the accumulator plus the terms of a finite group. -/
theorem laneOfGroup_finite (hacc : acc.finite) (h : ∀ p ∈ ps, p.1.finite ∧ p.2 = false) : ∃ neg m e,
    laneOfGroup b acc ((groupSum ps).col b.rm trunc).1 = (fp32.round b.rm b.ftz (.fin neg m e)).1
    ∧ (FVal.fin neg m e).value = acc.value
      + ((if trunc then (truncGroup (groupSum ps).terms).1 else (groupSum ps).terms).map termValue).sum := by
  obtain ⟨n, m, e, rfl⟩ := finite_iff.1 hacc
  have hnoinf : ∀ neg, ¬ ∃ p ∈ ps, p.1 = .inf neg := fun neg ⟨p, hp, hi⟩ => by
    have := (h p hp).1.2
    rw [hi] at this
    cases this
  have hgood : (groupSum ps).isBad = false := by
    rw [← Bool.not_eq_true, isBad_iff]
    rintro (⟨p, hp, hi | hi⟩ | ⟨hf, -⟩)
    · have := (h p hp).1.1
      rw [hi] at this
      cases this
    · rw [(h p hp).2] at hi
      cases hi
    · exact hnoinf false hf
  have hp : (groupSum ps).pinf = false := by rw [← Bool.not_eq_true, groupSum_pinf]; exact hnoinf false
  have hn : (groupSum ps).ninf = false := by rw [← Bool.not_eq_true, groupSum_ninf]; exact hnoinf true
  obtain ⟨v, hv, hval⟩ := col_num b.rm trunc hgood hp hn
  obtain ⟨k, l, d, hlane, hsum⟩ := laneOfGroup_num b n v.1 m v.2.1 e v.2.2
  rw [hv, ← hval]
  exact ⟨k, l, d, hlane, hsum⟩

end

section
variable {ps : List (FVal × Bool)}

/-- Each term of a finite group is one of its products, and each product a term. -/
theorem mem_terms_value (h : ∀ p ∈ ps, p.1.finite) (q : ℚ) :
    (∃ t ∈ (groupSum ps).terms, termValue t = q) ↔ ∃ p ∈ ps, p.1.value = q := by
  have hmem := congrArg (q ∈ ·) (terms_of_finite h)
  simpa only [List.mem_map, eq_iff_iff] using hmem

/-- A 16-bit group of zeros is truncated nowhere. -/
theorem truncGroup_zero (h : ∀ p ∈ ps, p.1.finite) (hz : ∀ p ∈ ps, p.1.value = 0) :
    (truncGroup (groupSum ps).terms).1 = (groupSum ps).terms := by
  have hall : ∀ t ∈ (groupSum ps).terms, t.2.1 = 0 := fun t ht => by
    obtain ⟨p, hp, hv⟩ := (mem_terms_value h (termValue t)).1 ⟨t, ht, rfl⟩
    exact (termValue_eq_zero_iff t).1 (hv.symm.trans (hz p hp))
  rw [truncGroup_eq, groupTop_zero hall]

/-- Another one is truncated 48 bits below its largest product. -/
theorem truncGroup_values {u : Int} (h : ∀ p ∈ ps, p.1.finite) (htop : ∃ p ∈ ps, p.1.value ≠ 0 ∧ Int.log 2 |p.1.value| = u + 48)
    (hle : ∀ p ∈ ps, p.1.value ≠ 0 → Int.log 2 |p.1.value| ≤ u + 48) :
    (truncGroup (groupSum ps).terms).1.map termValue = ps.map fun p => truncated u p.1.value := by
  have hlog : ∀ t ∈ (groupSum ps).terms, t.2.1 ≠ 0 → ∃ p ∈ ps, p.1.value ≠ 0 ∧ Int.log 2 |p.1.value| = termTop t := by
    intro t ht hn
    obtain ⟨p, hp, hv⟩ := (mem_terms_value h (termValue t)).1 ⟨t, ht, rfl⟩
    refine ⟨p, hp, ?_, ?_⟩
    · rw [hv]
      exact fun h0 => hn ((termValue_eq_zero_iff t).1 h0)
    · rw [hv, log_termValue hn]
  have hmax : groupTop (groupSum ps).terms none = some (u + 48) := by
    refine groupTop_max none (fun t ht hn => ?_) (fun b hb => nomatch hb) (.inr ?_)
    · obtain ⟨p, hp, hne, hl⟩ := hlog t ht hn
      exact hl ▸ hle p hp hne
    · obtain ⟨p, hp, hne, hl⟩ := htop
      obtain ⟨t, ht, hv⟩ := (mem_terms_value h p.1.value).2 ⟨p, hp, rfl⟩
      have hn : t.2.1 ≠ 0 := fun h0 => hne (hv ▸ (termValue_eq_zero_iff t).2 h0)
      refine ⟨t, ht, hn, ?_⟩
      rw [← log_termValue hn, hv, hl]
  have hval := congrArg (List.map (truncated u)) (terms_of_finite h)
  rw [List.map_map, List.map_map] at hval
  rw [truncGroup_eq, hmax]
  simp only [List.map_map, add_sub_cancel_right]
  refine Eq.trans (List.map_congr_left fun t _ => ?_) hval
  exact truncTerm_value u t

end

/-! ### The row of a floating beat -/

/-- Lane n of a floating beat, over the groups of its column. -/
theorem beat_row_float {b : Beat} {base : Row} {n : Nat} {gs : List ColSum} (hn : n < 512) (hint : b.int = false)
    (h : b.cols[n]? = some gs) : digit 32 (b.row base).1.toNat n = (finishCol b (b.base base n) gs).1 % 2 ^ 32 := by
  rw [beat_row_lane hn h, hint]
  rfl

theorem laneOfGroup_lt (b : Beat) {c : Nat} (g : ColSum) : laneOfGroup b (fp32.decode c) g < 2 ^ 32
    ∧ ∃ d, (addCol b.rm b.ftz (fp32.decode c) g).1 = fp32.decode d := by
  have hall : ∀ v : FVal, (∃ d, v = fp32.decode d) → (fp32.round .rne false v).1 < 2 ^ 32 := by
    rintro v ⟨d, rfl⟩
    exact (fp32_decode_round d).1
  suffices hcode : ∃ d, (addCol b.rm b.ftz (fp32.decode c) g).1 = fp32.decode d from ⟨hall _ hcode, hcode⟩
  have hnan : FVal.nan = fp32.decode 0x7FC00000 := by decide
  have hinf : ∀ neg, FVal.inf neg = fp32.decode (if neg then 0xFF800000 else 0x7F800000) := by decide
  cases hacc : fp32.decode c with
  | nan => cases g <;> exact ⟨_, hnan⟩
  | inf p =>
    cases g with
    | nan i q r => exact ⟨_, hnan⟩
    | inf q =>
      cases p <;> cases q
      · exact ⟨_, hinf false⟩
      · exact ⟨_, hnan⟩
      · exact ⟨_, hnan⟩
      · exact ⟨_, hinf true⟩
    | num n m e => exact ⟨_, hinf p⟩
  | fin n m e =>
    cases g with
    | nan i q r => exact ⟨_, hnan⟩
    | inf q => exact ⟨_, hinf q⟩
    | num n' m' e' => exact ⟨_, addCol_num b.rm b.ftz n n' m m' e e'⟩

/-- The accumulator after some groups, before it is a code again. -/
def accAfter (b : Beat) (v : FVal) (gs : List ColSum) : FVal := gs.foldl (fun a g => (addCol b.rm b.ftz a g).1) v

theorem finishCol_eq (b : Beat) (base : Nat) (gs : List ColSum) :
    (finishCol b base gs).1 = (fp32.round .rne false (accAfter b (fp32.decode base) gs)).1 := by
  have hfold : ∀ (gs : List ColSum) (a : FVal × FlagSet),
      (gs.foldl (fun (a : FVal × FlagSet) g => let x := addCol b.rm b.ftz a.1 g; (x.1, a.2 ||| x.2)) a).1 = accAfter b a.1 gs := by
    intro gs
    induction gs with
    | nil => exact fun _ => rfl
    | cons g gs ih => exact fun a => ih _
  rw [finishCol]
  simp only [hfold]

theorem accAfter_code (b : Beat) (gs : List ColSum) (c : Nat) : ∃ d, accAfter b (fp32.decode c) gs = fp32.decode d := by
  induction gs generalizing c with
  | nil => exact ⟨c, rfl⟩
  | cons g gs ih =>
    obtain ⟨d, hd⟩ := (laneOfGroup_lt b (c := c) g).2
    rw [accAfter, List.foldl_cons, hd]
    exact ih d

theorem finishCol_lt (b : Beat) (base : Nat) (gs : List ColSum) : (finishCol b base gs).1 < 2 ^ 32 := by
  obtain ⟨d, hd⟩ := accAfter_code b gs base
  rw [finishCol_eq, hd]
  exact (fp32_decode_round d).1

/-- The last group is added to the lane that the groups before it leave. -/
theorem finishCol_append (b : Beat) (base : Nat) (gs : List ColSum) (g : ColSum) :
    (finishCol b base (gs ++ [g])).1 = (finishCol b (finishCol b base gs).1 [g]).1 := by
  obtain ⟨d, hd⟩ := accAfter_code b gs base
  have happ : accAfter b (fp32.decode base) (gs ++ [g]) = accAfter b (accAfter b (fp32.decode base) gs) [g] := List.foldl_append
  rw [finishCol_eq, finishCol_eq, finishCol_eq b base gs, happ, hd, (fp32_decode_round d).2]

/-- A beat of the columns of another one rounds and flushes as it does. -/
theorem finishCol_cols (b : Beat) (cols : List (List ColSum)) (z : Bool) (base : Nat) (gs : List ColSum) :
    finishCol { b with cols := cols, zero := z } base gs = finishCol b base gs := rfl

section
variable {s : State} {g : Guard} {acc : BitVec 12} {q : BitVec 2} {fc : ElemFmt} {push : Option (BitVec 2 × BitVec 9)}

theorem pushCheck_passes {x : Ctx} (h : ∀ p, push = some p → p.2.toNat < ElemFmt.k x.fmt.fb) : pushCheck x push = none := by
  cases push with
  | none => rfl
  | some p => exact if_pos (h p rfl)

theorem beatCheck_passes {c : Core} (hf : fc = c.ctx.fmt.fa) (h : ∀ p, push = some p → p.2.toNat < ElemFmt.k c.ctx.fmt.fb) :
    beatCheck fc push c = none := (if_pos hf).trans (pushCheck_passes h)

theorem sparseCheck_passes {c : Core} (ha : c.ctx.fmt.fa = .e4m3) (hb : c.ctx.fmt.fb = .e4m3)
    (h : ∀ p, push = some p → p.2.toNat < ElemFmt.k c.ctx.fmt.fb) : sparseCheck push c = none :=
  (if_pos ⟨ha, hb⟩).trans (pushCheck_passes h)

theorem sparseCheck_fails {c : Core} (h : c.ctx.fmt.fa ≠ .e4m3 ∨ c.ctx.fmt.fb ≠ .e4m3) :
    sparseCheck push c = some .illegalEncoding := if_neg fun hab => h.elim (· hab.1) (· hab.2)

/-- Which beat an operation makes, by the formats in effect. -/
theorem beat_made (hg : s.core.ctx.guardBit g = true) (hpush : ∀ p, push = some p → p.2.toNat < ElemFmt.k s.core.ctx.fmt.fb) :
    (fc = s.core.ctx.fmt.fa →
      exec (.macc g acc q fc push) s = s.coreNext (fun c => c.beat .dense false acc q fc push)
      ∧ exec (.maccz g acc q fc push) s = s.coreNext (fun c => c.beat .dense true acc q fc push))
    ∧ (fc ≠ s.core.ctx.fmt.fa →
      exec (.macc g acc q fc push) s = .next (s.raise .illegalEncoding 5)
      ∧ exec (.maccz g acc q fc push) s = .next (s.raise .illegalEncoding 5))
    ∧ (isSteel s.core.id = true → s.core.ctx.fmt.fa = .e4m3 → s.core.ctx.fmt.fb = .e4m3 →
      exec (.maccs g acc q push) s = s.coreNext fun c => c.beat .sparse false acc q .e4m3 push)
    ∧ ((s.core.ctx.fmt.fa ≠ .e4m3 ∨ s.core.ctx.fmt.fb ≠ .e4m3) →
      exec (.maccs g acc q push) s = .next (s.raise .illegalEncoding 5)) := by
  refine ⟨fun hf => ⟨exec_macc.trans (alwaysChecked_passes hg (beatCheck_passes hf hpush)),
      exec_maccz.trans (alwaysChecked_passes hg (beatCheck_passes hf hpush))⟩,
    fun hf => ⟨exec_macc.trans (alwaysChecked_fails (if_neg hf)), exec_maccz.trans (alwaysChecked_fails (if_neg hf))⟩,
    fun hsteel ha hb => ?_, fun hab => ?_⟩
  · rw [exec_maccs, if_pos hsteel]
    exact alwaysChecked_passes hg (sparseCheck_passes ha hb hpush)
  · rw [exec_maccs]
    split
    · exact alwaysChecked_fails (sparseCheck_fails hab)
    · exact alwaysChecked_fails (sparseCheck_fails hab)

end

/-- Settles O19: the beats by their checks, the products by their values, and each lane by the one rounding of each of its groups. -/
theorem beats : Obligations.Beats := by
  refine ⟨fun s g acc q fc push hg _ hpush => beat_made hg hpush, fun x bandA bandB va vb sa sb a b hp hsa hsb h => ?_,
    fun b base n hn hint => ⟨fun ps trunc hcol => ?_, fun gs g hcol => ?_⟩⟩
  · subst hsa hsb
    exact beatProduct_value hp h
  · have hlt := finishCol_lt b (b.base base n) [((groupSum ps).col b.rm trunc).1]
    have hlane : digit 32 (b.row base).1.toNat n
        = laneOfGroup b (fp32.decode (b.base base n)) ((groupSum ps).col b.rm trunc).1 := by
      rw [beat_row_float hn hint hcol, Nat.mod_eq_of_lt hlt, finishCol_single]
    rw [hlane]
    refine ⟨fun hbad => laneOfGroup_bad hbad, fun neg hbad hinf => laneOfGroup_inf hbad hinf, fun hacc hfin => ?_⟩
    obtain ⟨neg, m, e, hround, hval⟩ := laneOfGroup_finite (b := b) (trunc := trunc) hacc hfin
    have hplain : ∀ t : List (Bool × Nat × Int), t = (groupSum ps).terms → (t.map termValue).sum = (ps.map fun p => id p.1.value).sum :=
      fun t ht => by rw [ht, terms_of_finite fun p hp => (hfin p hp).1]; rfl
    refine ⟨fun ht => ⟨neg, m, e, hround, hval.trans ?_⟩, fun ht => ⟨fun hz => ⟨neg, m, e, hround, hval.trans ?_⟩,
      fun u htop hle => ⟨neg, m, e, hround, hval.trans ?_⟩⟩⟩
    · rw [ht, if_neg Bool.false_ne_true, hplain _ rfl]
    · rw [ht, if_pos rfl, hplain _ (truncGroup_zero (fun p hp => (hfin p hp).1) hz)]
    · rw [ht, if_pos rfl, truncGroup_values (fun p hp => (hfin p hp).1) htop hle]
  · have hlen : n < b.cols.length := (List.getElem?_eq_some_iff.1 hcol).1
    have hset : ∀ l : List ColSum, (b.cols.set n l)[n]? = some l := fun l => List.getElem?_set_self hlen
    have hfirst : digit 32 (({ b with cols := b.cols.set n gs } : Beat).row base).1.toNat n = (finishCol b (b.base base n) gs).1 := by
      rw [beat_row_float (b := { b with cols := b.cols.set n gs }) hn hint (hset gs)]
      exact Nat.mod_eq_of_lt (finishCol_lt b _ gs)
    have hbase : ({ b with cols := b.cols.set n [g], zero := false } : Beat).base
        (rowOf 32 512 fun _ => (finishCol b (b.base base n) gs).1) n = (finishCol b (b.base base n) gs).1 := by
      rw [Beat.base, if_neg Bool.false_ne_true, digit_rowOf _ (by decide) hn, Nat.mod_eq_of_lt (finishCol_lt b _ gs)]
    intro first
    have hf : first = (finishCol b (b.base base n) gs).1 := hfirst
    clear_value first
    subst hf
    rw [beat_row_float hn hint hcol, beat_row_float (b := { b with cols := b.cols.set n [g], zero := false }) hn hint (hset [g]),
      hbase, finishCol_append, finishCol_cols b (b.cols.set n [g]) false]

end Sys2Proof.Machine
end

section
/-! The frame of every slot operation at its issue: what it leaves as it was, by the shape that it is written with. -/

namespace Sys2Proof.Machine

/-! ### What of a core is kept -/

/-- The registers of a task that only results reach. -/
def Ctx.registers (x : Ctx) : Vector Word 64 × List (Nat × Row) × Vector HReg 16 := (x.sregs, x.acc, x.hregs)

/-- Those, and the predicates and flags. -/
def Ctx.visible (x : Ctx) : (Vector Word 64 × List (Nat × Row) × Vector HReg 16) × Vector Pred 32 × Vector FlagSet 10 × FeRec :=
  (x.registers, x.pregs, x.flags, x.ferec)

/-- A core's effect keeps what its task sees, and a trap that stands. -/
def Core.Kept (c d : Core) : Prop := d.ctx.visible = c.ctx.visible ∧ (c.trap.isSome = true → d.trap = c.trap)

theorem kept_refl (c : Core) : c.Kept c := ⟨rfl, fun _ => rfl⟩

theorem kept_trans {c d e : Core} (h : c.Kept d) (h' : d.Kept e) : c.Kept e :=
  ⟨h'.1.trans h.1, fun ht => (h'.2 (by rw [h.2 ht]; exact ht)).trans (h.2 ht)⟩

theorem kept_onCtx {c : Core} {f : Ctx → Ctx} (h : (f c.ctx).visible = c.ctx.visible) : c.Kept (c.onCtx f) := ⟨h, fun _ => rfl⟩

theorem kept_raise (c : Core) (t : Trap) (slot : Nat) : c.Kept (c.raise t slot) := by
  refine ⟨by rw [Core.raise_ctx], fun h => ?_⟩
  obtain ⟨r, hr⟩ := Option.isSome_iff_exists.1 h
  rw [Core.raise_kept t slot hr]

theorem push_visible (x : Ctx) (slot lat : Nat) (flags : FlagSet) (wr : Wr) : (x.push slot lat flags wr).visible = x.visible := rfl

theorem setQueue_visible (x : Ctx) (q : BitVec 2) (l : List Stream) : (x.setQueue q l).visible = x.visible := by
  rw [Ctx.setQueue]
  rfl

theorem pushPlane_visible (x : Ctx) (q : BitVec 2) (krow : BitVec 9) : (x.pushPlane q krow).visible = x.visible := by
  rw [Ctx.pushPlane]
  split
  · rfl
  · exact setQueue_visible x q (popQueue (x.queue q))

theorem moveAll_visible (hs : List (BitVec 4)) (x : Ctx) : (x.moveAll hs).visible = x.visible := by
  induction hs generalizing x with
  | nil => rfl
  | cons h hs ih => exact (ih (x.setHLater h ⟨(x.getH h).val, .moved⟩)).trans rfl

theorem vecOut_visible (x : Ctx) (u : Bool) (g : Guard) (lat w n : Nat) (d : BitVec 8) (f : Nat → Nat × FlagSet) :
    (x.vecOut u g lat w n d f).visible = x.visible := by
  rw [Ctx.vecOut]
  split <;> rfl

theorem quantise_visible (x : Ctx) (u : Bool) (g : Guard) (d a : BitVec 8) (t : VType) : (x.quantise u g d a t).visible = x.visible := by
  rw [Ctx.quantise]
  split
  · rfl
  · dsimp only
    split <;> rfl

theorem endLevel_visible (x : Ctx) (lc : BitVec 2) : (x.endLevel lc).visible = x.visible := by
  rw [Ctx.endLevel]
  split <;> rfl

theorem endNewer_visible (x : Ctx) (lc : BitVec 2) : (x.endNewer lc).visible = x.visible := by
  rw [Ctx.endNewer]
  split <;> rfl

theorem foldl_visible {α : Type} {f : Ctx → α → Ctx} (hf : ∀ x a, (f x a).visible = x.visible) (l : List α) (x : Ctx) :
    (l.foldl f x).visible = x.visible := by
  induction l generalizing x with
  | nil => rfl
  | cons a l ih => exact (ih (f x a)).trans (hf x a)

theorem startModulo_visible (x : Ctx) : x.startModulo.visible = x.visible :=
  foldl_visible (fun y _ => push_visible y 0 1 _ _) _ _

/-- The predicates of a modulo loop are results of its cycle: the start itself touches no register. -/
theorem startLoop_visible (x : Ctx) (lc : BitVec 2) (body : BitVec 12) (n : BitVec 20) (e : BitVec 4) :
    (x.startLoop lc body n e).visible = x.visible := by
  have hx : ((x.endNewer lc).endLevel lc).visible = x.visible := (endLevel_visible _ lc).trans (endNewer_visible x lc)
  rw [Ctx.startLoop]
  generalize (x.endNewer lc).endLevel lc = y at hx ⊢
  dsimp only
  split
  · exact hx
  · split
    · exact (startModulo_visible _).trans hx
    · exact hx

section
variable (c : Core)

theorem kept_spmStore (e : Nat) (bs : List Byte) : c.Kept (c.spmStore e bs) := kept_onCtx rfl

theorem kept_enter (op : EOp) (classes : BitVec 16) (cls : BitVec 4) (acq rel : Bool) (va : Word) (landing : Option Nat) :
    c.Kept (c.enter op classes cls acq rel va landing) := ⟨rfl, fun _ => rfl⟩

theorem kept_enterLanding (op : EOp) (cls : BitVec 4) (acq rel : Bool) (va : Word) (arv : BitVec 12) (dest : LDest) (kind : LKind) :
    c.Kept (c.enterLanding op cls acq rel va arv dest kind) := ⟨rfl, fun _ => rfl⟩

theorem kept_enterCopy (q : BitVec 3) (cls : BitVec 4) (d : Copy) : c.Kept (c.enterCopy q cls d) := ⟨rfl, fun _ => rfl⟩

theorem kept_hstep (op : HOp) (changed : List (BitVec 4)) : c.Kept (c.hstep op changed) := ⟨rfl, fun _ => rfl⟩

theorem kept_spawn (a b : BitVec 6) (hm : BitVec 16) : c.Kept (c.spawn a b hm) := by
  rw [Core.spawn]
  have hv : ∀ va, (c.ctx.moveAll va).visible = c.ctx.visible := fun va => moveAll_visible va c.ctx
  split
  · exact ⟨hv _, fun _ => rfl⟩
  · exact ⟨hv _, fun _ => rfl⟩

theorem kept_newStream (q : BitVec 2) (isB : Bool) (addr : Word) (h : Option (BitVec 128)) (box : Box) (arv : BitVec 12) :
    c.Kept (c.newStream q isB addr h box arv).1 := kept_onCtx rfl

theorem kept_openStream (q : BitVec 2) (st : Stream) (u : Tsr) : c.Kept (c.openStream q st u) := by
  rw [Core.openStream]
  split
  · exact kept_onCtx rfl
  · exact kept_onCtx rfl

theorem kept_startStream (q : BitVec 2) (isB : Bool) (t b : BitVec 6) (arv : BitVec 12) : c.Kept (c.startStream q isB t b arv) := by
  rw [Core.startStream]
  split
  · exact kept_trans (kept_newStream c q isB _ none _ arv) (kept_openStream _ q _ _)
  · exact kept_newStream c q isB _ none _ arv

theorem kept_drain (acc : BitVec 12) (df : DrainFmt) (sb : BitVec 6) (off : BitVec 13) : c.Kept (c.drain acc df sb off) := by
  rw [Core.drain]
  refine ⟨?_, fun _ => rfl⟩
  dsimp only
  split <;> rfl

theorem kept_beat (kind : BeatKind) (zero : Bool) (acc : BitVec 12) (q : BitVec 2) (fc : ElemFmt) (push : Option (BitVec 2 × BitVec 9)) :
    c.Kept (c.beat kind zero acc q fc push) := by
  rw [Core.beat]
  split
  · exact ⟨rfl, fun _ => rfl⟩
  · refine ⟨?_, fun _ => rfl⟩
    dsimp only
    rw [push_visible]
    cases push with
    | none => exact setQueue_visible c.ctx q (popQueue (c.ctx.queue q))
    | some p => exact (pushPlane_visible _ p.1 p.2).trans (setQueue_visible c.ctx q (popQueue (c.ctx.queue q)))

end

/-! ### What of the state is kept -/

/-- What no slot operation changes beyond its core. -/
def State.around (s : State) :
    List Host.Cell × List Core × List Node × List Mapping × List (Nat × Lineage) × List Part :=
  (s.spm, s.parked, s.nodes, s.maps, s.lineage, s.parts)

/-- An outcome that goes on and keeps all of that, memory, and what the core's task sees. -/
def Framed (s : State) (o : Host.Outcome State Fault Refusal) : Prop :=
  ∃ t, o = .next t ∧ t.around = s.around ∧ t.mem = s.mem ∧ s.core.Kept t.core

section
variable {s : State} {f : Core → Core} {g : Guard} {slot : Nat} {check : Core → Option Trap}

theorem framed_refl : Framed s (.next s) := ⟨s, rfl, rfl, rfl, kept_refl _⟩

theorem framed_onCore (h : s.core.Kept (f s.core)) : Framed s (.next (s.onCore f)) := ⟨_, rfl, rfl, rfl, h⟩

theorem framed_raise (t : Trap) : Framed s (.next (s.raise t slot)) := framed_onCore (kept_raise _ t slot)

theorem guarded_framed (h : s.core.Kept (f s.core)) : Framed s (guarded g s f) := by
  cases hg : s.core.ctx.guardBit g with
  | false => rw [guarded_false hg]; exact framed_refl
  | true => rw [guarded_true hg]; exact framed_onCore h

theorem checked_framed (h : s.core.Kept (f s.core)) : Framed s (checked g slot check s f) := by
  cases hg : s.core.ctx.guardBit g with
  | false => rw [checked_false hg]; exact framed_refl
  | true =>
    cases hc : check s.core with
    | some t => rw [checked_fails hg hc]; exact framed_raise t
    | none => rw [checked_passes hg hc]; exact framed_onCore h

theorem checkedState_framed {check : State → Option Trap} {f : State → State} (h : Framed s (.next (f s))) :
    Framed s (checkedState g slot check s f) := by
  rw [checkedState]
  split
  · split
    · exact framed_raise _
    · exact h
  · exact framed_refl

theorem alwaysChecked_framed (h : s.core.Kept (f s.core)) : Framed s (alwaysChecked g check s f) := by
  rw [alwaysChecked]
  split
  · exact framed_raise _
  · exact guarded_framed h

theorem privileged_framed (h : s.core.Kept (f s.core)) : Framed s (privileged g slot check s f) := by
  rw [privileged]
  split
  · exact checked_framed h
  · exact framed_raise _

/-! ### The shapes of the slots -/

theorem guarded_framed_ctx {f : Ctx → Ctx} (h : (f s.core.ctx).visible = s.core.ctx.visible) :
    Framed s (guarded g s fun c => c.onCtx f) := guarded_framed (kept_onCtx h)

theorem checked_framed_ctx {f : Ctx → Ctx} (h : (f s.core.ctx).visible = s.core.ctx.visible) :
    Framed s (checked g slot check s fun c => c.onCtx f) := checked_framed (kept_onCtx h)

theorem vecMap_framed {u : Bool} {lat : Nat} {d : BitVec 8} {t : VType} {f : Ctx → Nat → Nat × FlagSet} :
    Framed s (vecMap u g lat d t f s) := framed_onCore (kept_onCtx (vecOut_visible _ _ _ _ _ _ _ _))

theorem vecCompare_framed {u : Bool} {pd : BitVec 5} {a b : BitVec 8} {t : VType} {f : FVal → FVal → Bool} :
    Framed s (vecCompare u g pd a b t f s) := by
  refine framed_onCore (kept_onCtx ?_)
  dsimp only
  split <;> rfl

theorem vecReduce_framed {u : Bool} {d a : BitVec 8} {t : VType} {leaf : Ctx → Nat → Nat} {step : Ctx → Nat → Nat → Nat × FlagSet}
    {out : Ctx → Nat → Nat × FlagSet} : Framed s (vecReduce u g d a t leaf step out s) := by
  refine framed_onCore (kept_onCtx ?_)
  dsimp only
  split
  · rfl
  · exact vecOut_visible _ _ _ _ _ _ _ _

theorem vins_framed {u : Bool} {d : BitVec 8} {sv si : BitVec 6} {t : VType} : Framed s (exec (.vins u g d sv si t) s) := by
  refine framed_onCore (kept_onCtx ?_)
  dsimp only
  split
  · rfl
  · split <;> rfl

theorem vquant_framed {u : Bool} {d a : BitVec 8} {t : VType} : Framed s (exec (.vquant u g d a t) s) := by
  rw [show exec (.vquant u g d a t) s = .next (if isSteel s.core.id then s.onCore fun c => c.onCtx fun x => x.quantise u g d a t
    else s.raise .migrate (vectorSlot u)) from rfl]
  split
  · exact framed_onCore (kept_onCtx (quantise_visible _ _ _ _ _ _))
  · exact framed_raise _

theorem maccs_framed {acc : BitVec 12} {q : BitVec 2} {push : Option (BitVec 2 × BitVec 9)} :
    Framed s (exec (.maccs g acc q push) s) := by
  rw [show exec (.maccs g acc q push) s = if isSteel s.core.id then alwaysChecked g (sparseCheck push) s fun c =>
    c.beat .sparse false acc q .e4m3 push else alwaysChecked ⟨0#5, false⟩ (sparseCheck push) s fun c => c.raise .migrate 5 from rfl]
  split
  · exact alwaysChecked_framed (kept_beat _ _ _ _ _ _ _)
  · exact alwaysChecked_framed (kept_raise _ _ _)

theorem mpush_framed {q : BitVec 2} {krow : BitVec 9} : Framed s (exec (.mpush g q krow) s) := by
  refine exec_mpush ▸ alwaysChecked_framed ?_
  split
  · exact ⟨rfl, fun _ => rfl⟩
  · exact kept_onCtx (pushPlane_visible _ _ _)

theorem lbrk_framed {lc : BitVec 2} : Framed s (exec (.lbrk g lc) s) := by
  refine guarded_framed_ctx ?_
  split
  · exact (endLevel_visible _ lc).trans (endNewer_visible _ lc)
  · rfl

theorem trap_framed {imm : BitVec 16} : Framed s (exec (.trap g imm) s) := by
  refine guarded_framed ?_
  split
  · exact ⟨rfl, fun _ => rfl⟩
  · rw [Core.raiseSoftware]
    split
    · exact kept_refl _
    · exact ⟨rfl, fun h => by simp_all⟩

theorem tfh_framed {q : BitVec 2} {h : BitVec 4} {k : BitVec 6} {arv : BitVec 12} : Framed s (exec (.tfh g q h k arv) s) :=
  checked_framed (kept_trans (kept_newStream _ q false 0#64 _ _ arv) (kept_hstep _ _ _))

/-- A state that differs in its choices only, with an effect on its core. -/
theorem framed_sameButChoices {t : State} (h : s.sameButChoices t) (hf : s.core.Kept (f s.core)) : Framed s (.next (t.onCore f)) := by
  have hcore : t.core = s.core := by rw [h]
  refine ⟨_, rfl, ?_, ?_, ?_⟩
  · rw [h]; rfl
  · rw [h]; rfl
  · rw [State.onCore_core, hcore]; exact hf

theorem setHLaters_visible (x : Ctx) (h1 h2 h3 : BitVec 4) (r1 r2 r3 : HReg) :
    (((x.setHLater h1 r1).setHLater h2 r2).setHLater h3 r3).visible = x.visible := rfl

theorem hsplit_framed {h1 h2 h3 : BitVec 4} {ax : BitVec 3} {sp : BitVec 6} : Framed s (exec (.hsplit g h1 h2 h3 ax sp) s) := by
  refine exec_hsplit ▸ checkedState_framed ?_
  rw [hsplit_eq]
  exact framed_sameButChoices (splitEntries_same s).1 (kept_trans (kept_hstep _ _ _) (kept_onCtx (setHLaters_visible _ _ _ _ _ _ _)))

section
variable {v y : BitVec 8} {w : Width} {b4 : BitVec 4} {b : BitVec 6} {off22 : BitVec 22} {disp : BitVec 12} {cls : BitVec 4} {aq rl : Bool} {arv : BitVec 12}

theorem ldv_framed : Framed s (exec (.ldv g v b4 off22) s) := by
  rw [exec_ldv]
  exact checked_framed (kept_onCtx (push_visible _ _ _ _ _))

theorem ldvx_framed : Framed s (exec (.ldvx g v y b4 w disp) s) := by
  rw [exec_ldvx]
  exact checked_framed (kept_onCtx (push_visible _ _ _ _ _))

theorem ldvb_framed : Framed s (exec (.ldvb g v b4 off22) s) := by
  rw [exec_ldvb]
  exact checked_framed (kept_onCtx (push_visible _ _ _ _ _))

theorem stv_framed : Framed s (exec (.stv g v b4 off22) s) := by
  rw [exec_stv]
  exact checked_framed (kept_onCtx (push_visible _ _ _ _ _))

theorem stvx_framed : Framed s (exec (.stvx g v y b4 w disp) s) := by
  rw [exec_stvx]
  exact checked_framed (kept_onCtx (push_visible _ _ _ _ _))

theorem ldgv_framed : Framed s (exec (.ldgv g v b cls aq arv) s) := by
  rw [exec_ldgv]
  exact checked_framed (kept_enterLanding _ _ _ _ _ _ _ _ _)

theorem stgv_framed : Framed s (exec (.stgv g v b cls rl) s) := by
  rw [exec_stgv]
  exact checked_framed (kept_enter _ _ _ _ _ _ _ _)

end

theorem cpy_framed {q : BitVec 3} {d sr n : BitVec 6} {lc cls : BitVec 4} : Framed s (exec (.cpy g q d sr n lc cls) s) := by
  rw [exec_cpy]
  exact checked_framed (kept_enterCopy _ _ _ _)

theorem cpyo_framed {q : BitVec 3} {d sr n : BitVec 6} {lc cls : BitVec 4} : Framed s (exec (.cpyo g q d sr n lc cls) s) := by
  rw [exec_cpyo]
  exact checked_framed (kept_enterCopy _ _ _ _)

theorem cpyt_framed {q : BitVec 3} {d sr n : BitVec 6} {lc cls : BitVec 4} : Framed s (exec (.cpyt g q d sr n lc cls) s) := by
  rw [exec_cpyt]
  exact checked_framed (kept_enterCopy _ _ _ _)

theorem hrejoin_framed {h1 h2 h3 : BitVec 4} : Framed s (exec (.hrejoin g h1 h2 h3) s) := by
  refine exec_hrejoin ▸ checkedState_framed ?_
  exact framed_onCore (kept_hstep _ _ _)

theorem logged_recorded {s : State} {part : Nat} {r : Replay} (h : s.replayOf part = some r) (kind who val : Nat) :
    s.logged part kind who val = if r.recording then (val, s.setReplay { r with log := r.log ++ [⟨kind, who, tickOf s.time, val, []⟩] })
      else if r.replaying then
        match takeKind kind who r.log with
        | some (e, rest) => (e.val, s.setReplay { r with log := rest })
        | none => (val, s.setReplay { r with lack := true })
      else (val, s) := by
  rw [State.logged, h] <;> rfl

theorem logged_same (s : State) (part kind who val : Nat) : s.sameButChoices (s.logged part kind who val).2 := by
  cases hr : s.replayOf part with
  | none =>
    rw [State.logged, hr]
    rfl
  | some r =>
    rw [logged_recorded hr]
    split
    · rfl
    · split
      · split <;> rfl
      · rfl

theorem rdsys_framed {u : Bool} {d : BitVec 6} {idx : BitVec 8} : Framed s (exec (.rdsys u g d idx) s) := by
  refine exec_rdsys ▸ checkedState_framed ?_
  rw [State.rdsys]
  split
  · exact framed_sameButChoices (logged_same s _ _ _ _) ⟨rfl, fun _ => rfl⟩
  · exact framed_onCore ⟨rfl, fun _ => rfl⟩

end

/-- Every slot operation but MARK, MSEL and CLRFLG leaves the whole frame. -/
theorem exec_framed {i : Instr} {s : State} (hi : i.slot.isSome = true) (hmark : ∀ g ex, i ≠ .mark g ex) (hmsel : ∀ g, i ≠ .msel g)
    (hclr : ∀ g m fe, i ≠ .clrflg g m fe) : Framed s (exec i s) := by
  cases i with
  | nop => exact framed_refl
  | br | call | yield | commit | endt | waitc | cbar | movi | sel | pnot | pmov | psetn | fadd | fsub | fmul | ffma | fmin
  | fmax | fcmplt | fcmpeq | fcvtfi | fcvtif | rddst | vext | mshift | mzero | fence | qfence | rfence | depend | signal | tfx
  | setfmt | setband | setrnd => exact guarded_framed ⟨rfl, fun _ => rfl⟩
  | bri | calli | ret | wrsys | lds | ldg | stg | arrive | waitv | cpyg | hmov | hput | htake | hld | hst | hinfo | ldsct => exact checked_framed ⟨rfl, fun _ => rfl⟩
  | cpy => exact cpy_framed
  | cpyo => exact cpyo_framed
  | cpyt => exact cpyt_framed
  | stvx => exact stvx_framed
  | ldgv => exact ldgv_framed
  | ldv => exact ldv_framed
  | ldvx => exact ldvx_framed
  | ldvb => exact ldvb_framed
  | stv => exact stv_framed
  | stgv => exact stgv_framed
  | sts => exact checked_framed (kept_spmStore _ _ _)
  | loop | loopr => exact guarded_framed_ctx (startLoop_visible _ _ _ _ _)
  | lbrk => exact lbrk_framed
  | trap => exact trap_framed
  | trapret | idle | tlbinv | cachewb | cacheinv => exact privileged_framed ⟨rfl, fun _ => rfl⟩
  | add | sub | addi | mul | mulh | mulhu | and | or | xor | andn | shl | shr | sar | shli | shri | sari | min | max | minu
  | maxu | clz | popc | movhi | shadd | extu | cmpeq | cmpne | cmplt | cmple | cmpltu | cmpleu | cmpeqi | cmplti | pand | por
  | pxor | pandn | pany | pall => exact guarded_framed_ctx rfl
  | rdsys => exact rdsys_framed
  | vadd | vsub | vmul | vfma | vfms | vmin | vmax | vabs | vneg | vand | vor | vxor | vshl | vshr | vsar | vsel | vmov | vbcast
  | viota | vlsh | vlshd | vperm | vcvt | vpack | vunpk | vexp2 | vlog2 | vrcp | vrsq | vsqrt | vtanh | vdeq => exact vecMap_framed
  | vcmpeq => exact exec_vcmpeq ▸ vecCompare_framed
  | vcmplt => exact exec_vcmplt ▸ vecCompare_framed
  | vcmple => exact exec_vcmple ▸ vecCompare_framed
  | vins => exact vins_framed
  | vredadd => exact exec_vredadd ▸ vecReduce_framed
  | vredmax => exact exec_vredmax ▸ vecReduce_framed
  | vredmin => exact exec_vredmin ▸ vecReduce_framed
  | vscan => exact framed_onCore (kept_onCtx (vecOut_visible _ _ _ _ _ _ _ _))
  | vquant => exact vquant_framed
  | mpush => exact mpush_framed
  | macc => exact exec_macc ▸ alwaysChecked_framed (kept_beat _ _ _ _ _ _ _)
  | maccz => exact exec_maccz ▸ alwaysChecked_framed (kept_beat _ _ _ _ _ _ _)
  | maccs => exact maccs_framed
  | mdrain => exact checked_framed (kept_drain _ _ _ _ _)
  | mdrainz => exact checked_framed (kept_trans (kept_drain _ _ _ _ _) (kept_onCtx rfl))
  | atlAdd | atlMin | atlMax | atlAnd | atlOr | atlXchg | atlCas | atlFadd => exact checked_framed_ctx rfl
  | atgAdd | atgFadd | atgMin | atgMax | atgAnd | atgOr | atgXor | atgXchg | atgCas =>
    exact checked_framed (kept_enterLanding _ _ _ _ _ _ _ _ _)
  | spawn => exact checked_framed (kept_spawn _ _ _ _)
  | hsplit => exact hsplit_framed
  | hrejoin => exact hrejoin_framed
  | tfa | tfb => exact checked_framed (kept_startStream _ _ _ _ _ _)
  | tfh => exact tfh_framed
  | mark g ex => exact absurd rfl (hmark g ex)
  | msel g => exact absurd rfl (hmsel g)
  | clrflg g m fe => exact absurd rfl (hclr g m fe)
  | _ => exact absurd hi Bool.false_ne_true

/-! ### The three operations that reach further -/

theorem emitBeats_eq (s : State) (pc : BitVec 58) : ∃ src now w1 w2 w3, s.emitBeats pc
    = (s.emitIf 0 s.core.space src now 0x20 w1 w2 w3).onCore fun c => { c with beats := Vector.replicate 4 0#16, frozen := 0 } :=
  ⟨_, _, _, _, _, rfl⟩

theorem onCore_around (s : State) (f : Core → Core) : (s.onCore f).around = s.around := rfl

theorem records_around {s t : State} (h : s.records t) : t.around = s.around := by
  rw [State.around, records_spm h, records_parked h, records_nodes h, records_maps h, records_lineage h, records_parts h]
  rfl

theorem mark_around (s : State) (ex : BitVec 32) : (s.mark ex).around = s.around ∧ s.core.Kept (s.mark ex).core := by
  refine ⟨?_, mark_core s ex ▸ ⟨rfl, fun _ => rfl⟩⟩
  obtain ⟨src, now, w1, w2, w3, hmark⟩ := mark_eq s ex
  rw [hmark, onCore_around]
  exact records_around (emitIf_records s _ _ _ _ _ _ _ _)

/-- MSEL with its guard true: the record of the beats, then the exchange of the planes. -/
def State.mselStep (s : State) : State :=
  (s.emitBeats s.core.ctx.pc).onCore fun c => c.onCtx fun x => { x with active := x.shadow, shadow := x.active }

theorem mselStep_around (s : State) : s.mselStep.around = s.around ∧ s.core.Kept s.mselStep.core := by
  obtain ⟨src, now, w1, w2, w3, hbeats⟩ := emitBeats_eq s s.core.ctx.pc
  have hrec := emitIf_records s 0 s.core.space src now 0x20 w1 w2 w3
  rw [State.mselStep, hbeats]
  generalize s.emitIf 0 s.core.space src now 0x20 w1 w2 w3 = u at hrec
  rw [onCore_around, onCore_around]
  refine ⟨records_around hrec, ?_⟩
  rw [← records_core hrec]
  exact ⟨rfl, fun _ => rfl⟩

theorem clearFlags_registers (x : Ctx) (mask : BitVec 10) (fe : Bool) :
    (x.clearFlags mask fe).registers = x.registers ∧ (x.clearFlags mask fe).pregs = x.pregs := ⟨rfl, rfl⟩

/-! ### O45 -/

/-- What the statement says of an operation that goes on. -/
def FrameOf (i : Instr) (s t : State) : Prop :=
  t.spm = s.spm ∧ t.parked = s.parked ∧ t.nodes = s.nodes ∧ t.maps = s.maps ∧ t.lineage = s.lineage ∧ t.parts = s.parts
  ∧ t.core.ctx.sregs = s.core.ctx.sregs ∧ t.core.ctx.acc = s.core.ctx.acc ∧ t.core.ctx.hregs = s.core.ctx.hregs
  ∧ ((∀ g ex, i ≠ .mark g ex) → (∀ g, i ≠ .msel g) → t.mem = s.mem)
  ∧ ((∀ g lc body n, i ≠ .loop g lc body n) → (∀ g lc body a, i ≠ .loopr g lc body a) → t.core.ctx.pregs = s.core.ctx.pregs)
  ∧ ((∀ g m fe, i ≠ .clrflg g m fe) → t.core.ctx.flags = s.core.ctx.flags ∧ t.core.ctx.ferec = s.core.ctx.ferec)
  ∧ (s.core.trap.isSome = true → t.core.trap = s.core.trap)

section
variable {i : Instr} {s t : State}

theorem frame_of_kept (ha : t.around = s.around) (hmem : (∀ g ex, i ≠ .mark g ex) → (∀ g, i ≠ .msel g) → t.mem = s.mem)
    (hk : s.core.Kept t.core) : FrameOf i s t := by
  obtain ⟨hv, ht⟩ := hk
  simp only [State.around, Prod.mk.injEq] at ha
  simp only [Ctx.visible, Ctx.registers, Prod.mk.injEq] at hv
  obtain ⟨hspm, hparked, hnodes, hmaps, hlin, hparts⟩ := ha
  obtain ⟨⟨hs, hacc, hh⟩, hp, hf, he⟩ := hv
  exact ⟨hspm, hparked, hnodes, hmaps, hlin, hparts, hs, hacc, hh, hmem, fun _ _ => hp, fun _ => ⟨hf, he⟩, ht⟩

theorem frame_refl : FrameOf i s s := frame_of_kept rfl (fun _ _ => rfl) (kept_refl _)

theorem guardedState_frame {g : Guard} {f : State → State} (h : FrameOf i s (f s)) : ∃ t, guardedState g s f = .next t ∧ FrameOf i s t := by
  rw [guardedState]
  split
  · exact ⟨_, rfl, h⟩
  · exact ⟨_, rfl, frame_refl⟩

theorem clrflg_frame {g : Guard} {m : BitVec 10} {fe : Bool} : ∃ t, exec (.clrflg g m fe) s = .next t ∧ FrameOf (.clrflg g m fe) s t := by
  have hexec : exec (.clrflg g m fe) s = guarded g s fun c => c.onCtx fun x => x.clearFlags m fe := rfl
  rw [hexec, guarded]
  split
  · obtain ⟨hr, hp⟩ := clearFlags_registers s.core.ctx m fe
    simp only [Ctx.registers, Prod.mk.injEq] at hr
    obtain ⟨hs, hacc, hh⟩ := hr
    exact ⟨_, rfl, rfl, rfl, rfl, rfl, rfl, rfl, hs, hacc, hh, fun _ _ => rfl, fun _ _ => hp, fun h => absurd rfl (h g m fe), fun _ => rfl⟩
  · exact ⟨_, rfl, frame_refl⟩

end

/-- Settles O45: every slot operation, by its shape, keeps the frame; MARK and MSEL but for their records, CLRFLG but for the
flags. -/
theorem framesAtIssue : Obligations.FramesAtIssue := by
  unfold Obligations.FramesAtIssue
  intro i s hi
  change ∃ t, exec i s = .next t ∧ FrameOf i s t
  by_cases hmark : ∃ g ex, i = .mark g ex
  · obtain ⟨g, ex, rfl⟩ := hmark
    exact guardedState_frame (f := fun s => s.mark ex) (frame_of_kept (mark_around s ex).1 (fun h _ => absurd rfl (h g ex)) (mark_around s ex).2)
  by_cases hmsel : ∃ g, i = .msel g
  · obtain ⟨g, rfl⟩ := hmsel
    exact guardedState_frame (f := State.mselStep) (frame_of_kept (mselStep_around s).1 (fun _ h => absurd rfl (h g)) (mselStep_around s).2)
  by_cases hclr : ∃ g m fe, i = .clrflg g m fe
  · obtain ⟨g, m, fe, rfl⟩ := hclr
    exact clrflg_frame
  obtain ⟨t, ht, ha, hmem, hk⟩ := exec_framed hi (fun g ex h => hmark ⟨g, ex, h⟩) (fun g h => hmsel ⟨g, h⟩)
    (fun g m fe h => hclr ⟨g, m, fe, h⟩)
  exact ⟨t, ht, frame_of_kept ha (fun _ _ => hmem) hk⟩

end Sys2Proof.Machine
end

section
/-! The stores of a state: its memory, its scratchpads and its lineage table, and what keeps them in canonical form (log entry 1, R271).
Most operations leave all three as they are; the others write them by the operations of sparse storage alone. -/

namespace Sys2Proof.Machine

/-- Memory, scratchpads and the lineage table. -/
abbrev Stores : Type := List Host.Cell × List Host.Cell × List (Nat × Lineage)

def State.store (s : State) : Stores := (s.mem, s.spm, s.lineage)

/-- Each of the three is in canonical form in `b` if it is in `a`. -/
def Keeps (a b : Stores) : Prop :=
  (Memory.wf a.1 → Memory.wf b.1) ∧ (Memory.wf a.2.1 → Memory.wf b.2.1)
  ∧ (assocAbove Lineage.free none a.2.2 = true → assocAbove Lineage.free none b.2.2 = true)

theorem keeps_refl (a : Stores) : Keeps a a := ⟨id, id, id⟩

/-- The stores of a state that is given by its fields. -/
@[simp] theorem store_mk {core parked mem spm spmLate now time hist versions lineage mailboxes hwaits maps frames objects stubs parts tenants
    cqueues launches nodes edges jobs clusters energies tlb caches pageWalks devState actions alarmSrc alarmAt alarmGone counters repairs
    poison spmPoison retired badFrames admins handleKey coreMap dbgArms traces pmcs replays checkpoints peers hostReqs moves inbox outbox
    picks} : (State.mk core parked mem spm spmLate now time hist versions lineage mailboxes hwaits maps frames objects stubs parts tenants
    cqueues launches nodes edges jobs clusters energies tlb caches pageWalks devState actions alarmSrc alarmAt alarmGone counters repairs
    poison spmPoison retired badFrames admins handleKey coreMap dbgArms traces pmcs replays checkpoints peers hostReqs moves inbox outbox
    picks).store = (mem, spm, lineage) := (rfl)

@[simp] theorem store_fold (s : State) : (s.mem, s.spm, s.lineage) = s.store := (rfl)

section
variable {a : Stores} {s : State}

theorem keeps_mem {m : List Host.Cell} (h : Keeps a s.store) (hm : Memory.wf s.mem → Memory.wf m) : Keeps a (m, s.spm, s.lineage) :=
  ⟨fun w => hm (h.1 w), h.2.1, h.2.2⟩

theorem keeps_spm {m : List Host.Cell} (h : Keeps a s.store) (hm : Memory.wf s.spm → Memory.wf m) : Keeps a (s.mem, m, s.lineage) :=
  ⟨h.1, fun w => hm (h.2.1 w), h.2.2⟩

theorem keeps_lineage {l : List (Nat × Lineage)} (h : Keeps a s.store)
    (hl : assocAbove Lineage.free none s.lineage = true → assocAbove Lineage.free none l = true) : Keeps a (s.mem, s.spm, l) :=
  ⟨h.1, h.2.1, fun w => hl (h.2.2 w)⟩

end

/-! ### Choices and folds -/

@[simp] theorem store_ite {p : Prop} [Decidable p] {a : Stores} {s t : State} (hs : s.store = a) (ht : t.store = a) :
    (if p then s else t).store = a := by
  split
  · exact hs
  · exact ht

@[simp] theorem keeps_ite {p : Prop} [Decidable p] {a : Stores} {s t : State} (hs : Keeps a s.store) (ht : Keeps a t.store) :
    Keeps a (if p then s else t).store := by
  split
  · exact hs
  · exact ht

@[simp] theorem foldl_store {α : Type} {f : State → α → State} (hf : ∀ s x, (f s x).store = s.store) (l : List α) (s : State) :
    (l.foldl f s).store = s.store := by
  induction l generalizing s with
  | nil => rfl
  | cons x l ih => rw [List.foldl_cons, ih, hf]

@[simp] theorem foldl_keeps {α : Type} {a : Stores} {f : State → α → State} (hf : ∀ s x, Keeps a s.store → Keeps a (f s x).store)
    (l : List α) {s : State} (h : Keeps a s.store) : Keeps a (l.foldl f s).store := by
  induction l generalizing s with
  | nil => exact h
  | cons x l ih => exact ih (hf s x h)

/-! ### Sparse storage written in several steps -/

theorem keeps_records {a : Stores} {s t : State} (h : s.records t) (hk : Keeps a s.store) : Keeps a t.store := by
  rw [State.store, records_spm h, records_lineage h]
  exact keeps_mem hk h.2

theorem foldl_above {α β : Type} [DecidableEq α] {dflt : α} {f : List (Nat × α) → β → List (Nat × α)}
    (hf : ∀ m x, assocAbove dflt none m = true → assocAbove dflt none (f m x) = true) (l : List β) {m : List (Nat × α)}
    (h : assocAbove dflt none m = true) : assocAbove dflt none (l.foldl f m) = true := by
  induction l generalizing m with
  | nil => exact h
  | cons x l ih => exact ih (hf m x h)

theorem assocAbove_append {α : Type} [DecidableEq α] {dflt : α} {m m' : List (Nat × α)} {k : Nat} : ∀ {lo : Option Nat},
    assocAbove dflt lo m = true → (∀ c ∈ m, c.1 < k) → (∀ l, lo = some l → l < k) → assocAbove dflt none m' = true →
    (∀ c ∈ m', k ≤ c.1) → assocAbove dflt lo (m ++ m') = true := by
  induction m with
  | nil =>
    intro lo _ _ hlo hm' hk
    cases m' with
    | nil => rfl
    | cons p t =>
      obtain ⟨-, hv, ht⟩ := assocAbove_cons.1 hm'
      exact assocAbove_cons.2 ⟨fun l hl => lt_of_lt_of_le (hlo l hl) (hk p (List.mem_cons_self ..)), hv, ht⟩
  | cons p t ih =>
    intro lo hm hlt _ hm' hk
    obtain ⟨hl, hv, ht⟩ := assocAbove_cons.1 hm
    refine assocAbove_cons.2 ⟨hl, hv, ih ht (fun c hc => hlt c (List.mem_cons_of_mem _ hc)) ?_ hm' hk⟩
    rintro l ⟨⟩
    exact hlt p (List.mem_cons_self ..)

theorem cellsFrom_bounds (bs : List Byte) (a : Nat) : ∀ c ∈ cellsFrom bs a, a ≤ c.1 ∧ c.1 < a + bs.length := by
  induction bs generalizing a with
  | nil => exact fun c hc => nomatch hc
  | cons b t ih =>
    intro c hc
    rw [cellsFrom] at hc
    have hlater : c ∈ cellsFrom t (a + 1) → a ≤ c.1 ∧ c.1 < a + (b :: t).length := fun h => by
      have := ih (a + 1) c h
      rw [List.length_cons]
      omega
    split at hc
    · exact hlater hc
    · rcases List.mem_cons.1 hc with rfl | hc
      · simp
      · exact hlater hc

theorem cellsFrom_above (bs : List Byte) : ∀ (a : Nat) (lo : Option Nat), (∀ l, lo = some l → l < a) →
    assocAbove unlistedByte lo (cellsFrom bs a) = true := by
  induction bs with
  | nil => exact fun _ _ _ => rfl
  | cons b t ih =>
    intro a lo hlo
    rw [cellsFrom]
    split
    · exact ih _ _ fun l hl => Nat.lt_succ_of_lt (hlo l hl)
    · next hb => exact assocAbove_cons.2 ⟨hlo, hb, ih _ _ fun l hl => by cases hl; exact Nat.lt_succ_self a⟩

/-- A run of addresses that is replaced whole. -/
theorem patched_wf {m : List Host.Cell} (pa : Nat) (bs : List Byte) (h : Memory.wf m) :
    Memory.wf ((m.filter fun c => decide (c.1 < pa)) ++ cellsFrom bs pa ++ m.filter fun c => decide (pa + bs.length ≤ c.1)) := by
  have hfirst : Memory.wf ((m.filter fun c => decide (c.1 < pa)) ++ cellsFrom bs pa) :=
    assocAbove_append (k := pa) (filter_wf h) (fun c hc => by simpa using (List.mem_filter.1 hc).2) (fun _ hl => nomatch hl)
      (cellsFrom_above bs pa none fun _ hl => nomatch hl) fun c hc => (cellsFrom_bounds bs pa c hc).1
  refine assocAbove_append (k := pa + bs.length) hfirst ?_ (fun _ hl => nomatch hl) (filter_wf h)
    fun c hc => by simpa using (List.mem_filter.1 hc).2
  intro c hc
  rcases List.mem_append.1 hc with hc | hc
  · have : c.1 < pa := by simpa using (List.mem_filter.1 hc).2
    omega
  · exact (cellsFrom_bounds bs pa c hc).2

/-! ### Answers that carry a state -/

/-- Every state that a step of a transfer answers with has its stores kept. -/
def CopyStep.Keeps (a : Stores) : CopyStep → Prop
  | .stay s => Machine.Keeps a s.store
  | .commit s => Machine.Keeps a s.store
  | .fail _ => True
  | .moved s _ => Machine.Keeps a s.store

def HAns.Keeps (a : Stores) : HAns → Prop
  | .wait s => Machine.Keeps a s.store
  | .idle s => Machine.Keeps a s.store
  | .fail _ => True
  | .done s => Machine.Keeps a s.store

def Start.Keeps {α : Type} (a : Stores) (p : α → Prop) : Start α → Prop
  | .wait _ => True
  | .refuse _ _ s => Machine.Keeps a s.store
  | .ok x => p x

def KeepsExcept {ε α : Type} (a : Stores) (f : α → State) (o : Except ε α) : Prop := ∀ x, o = .ok x → Keeps a (f x).store

def KeepsOption {α : Type} (a : Stores) (f : α → State) (o : Option α) : Prop := ∀ x, o = some x → Keeps a (f x).store

section
variable {α ε : Type} {a : Stores} {s : State} {t : Trap} {n : Nat} {p : α → Prop} {f : α → State} {x : α} {y : ε}

@[simp] theorem copyStep_keeps_stay : (CopyStep.stay s).Keeps a ↔ Keeps a s.store := Iff.rfl
@[simp] theorem copyStep_keeps_commit : (CopyStep.commit s).Keeps a ↔ Keeps a s.store := Iff.rfl
@[simp] theorem copyStep_keeps_fail : (CopyStep.fail t).Keeps a := trivial
@[simp] theorem copyStep_keeps_moved : (CopyStep.moved s n).Keeps a ↔ Keeps a s.store := Iff.rfl
@[simp] theorem hAns_keeps_wait : (HAns.wait s).Keeps a ↔ Keeps a s.store := Iff.rfl
@[simp] theorem hAns_keeps_idle : (HAns.idle s).Keeps a ↔ Keeps a s.store := Iff.rfl
@[simp] theorem hAns_keeps_fail : (HAns.fail t).Keeps a := trivial
@[simp] theorem hAns_keeps_done : (HAns.done s).Keeps a ↔ Keeps a s.store := Iff.rfl
@[simp] theorem start_keeps_wait : (Start.wait n).Keeps a p := trivial
@[simp] theorem start_keeps_refuse {d : Done} {c : Option Word} : (Start.refuse d c s).Keeps a p ↔ Keeps a s.store := Iff.rfl
@[simp] theorem start_keeps_ok : (Start.ok x).Keeps a p ↔ p x := Iff.rfl
@[simp] theorem keepsExcept_error : KeepsExcept a f (.error y) := nofun
@[simp] theorem keepsExcept_ok : KeepsExcept a f (.ok x : Except ε α) ↔ Keeps a (f x).store :=
  ⟨fun h => h x rfl, fun h _ e => Except.ok.inj e ▸ h⟩
@[simp] theorem keepsOption_none : KeepsOption a f none := nofun
@[simp] theorem keepsOption_some : KeepsOption a f (some x) ↔ Keeps a (f x).store := ⟨fun h => h x rfl, fun h _ e => Option.some.inj e ▸ h⟩

end

theorem start_bind_keeps {α β : Type} {a : Stores} {p : α → Prop} {q : β → Prop} {x : Start α} {f : α → Start β} (hx : x.Keeps a p)
    (hf : ∀ y, p y → (f y).Keeps a q) : (x.bind f).Keeps a q := by
  cases x with
  | wait _ => trivial
  | refuse _ _ _ => exact hx
  | ok y => exact hf y hx

theorem stepsTo_keeps {α : Type} {a : Stores} {p : α → Prop} {f : α → Nat → Start α} (hf : ∀ i x, p x → (f x i).Keeps a p) :
    ∀ (n : Nat) {x : α}, p x → (stepsTo f n x).Keeps a p
  | 0, _, hx => hx
  | n + 1, _, hx => start_bind_keeps (stepsTo_keeps hf n hx) fun y hy => hf n y hy

/-- The state that an outcome goes on to has its stores kept. -/
def KeepsNext (a : Stores) (o : Host.Outcome State Fault Refusal) : Prop := ∀ t, o = .next t → Keeps a t.store

@[simp] theorem keepsNext_next {a : Stores} {t : State} : KeepsNext a (.next t) ↔ Keeps a t.store :=
  ⟨fun h => h t rfl, fun h _ e => Host.Outcome.next.inj e ▸ h⟩

/-! ### The operations of Ops.lean -/

@[simp] theorem onCore_store (s : State) (f : Core → Core) : (s.onCore f).store = s.store := (rfl)
@[simp] theorem raise_store (s : State) (code : Trap) (slot : Nat) : (s.raise code slot).store = s.store := (rfl)
@[simp] theorem setReplay_store (s : State) (r : Replay) : (s.setReplay r).store = s.store := (rfl)

@[simp] theorem logged_store (s : State) (part kind who val : Nat) : (s.logged part kind who val).2.store = s.store := by
  rw [logged_same s part kind who val]
  rfl

@[simp] theorem pickAny_store (s : State) (n : Nat) : (s.pickAny n).2.store = s.store := by
  rw [State.pickAny]
  split <;> rfl

@[simp] theorem chooseFor_store (s : State) (part who n : Nat) : (s.chooseFor part who n).2.store = s.store := by
  rw [(chooseFor_same s part who n).1]
  rfl

@[simp] theorem choose_store (s : State) (n : Nat) : (s.choose n).2.store = s.store := by
  simp [State.choose]

@[simp] theorem mapCores_store (s : State) (f : Core → Core) : (s.mapCores f).store = s.store := (rfl)
@[simp] theorem onCoreId_store (s : State) (id : Nat) (f : Core → Core) : (s.onCoreId id f).store = s.store := (rfl)

@[simp] theorem focus_store (s : State) (id : Nat) : (s.focus id).store = s.store := by
  unfold State.focus
  (repeat' split) <;> simp

@[simp] theorem passTo_store (s : State) (t : Nat) : (s.passTo t).store = s.store := by
  rw [State.passTo]
  split <;> rfl

@[simp] theorem clock_store (s : State) : (s.clock).store = s.store := by
  simp [State.clock]

/-! ### The operations of Cache.lean -/

@[simp] theorem tally_store (s : State) (part event cause n : Nat) : (s.tally part event cause n).store = s.store := (rfl)
@[simp] theorem onCaches_store (s : State) (f : Caches → Caches) : (s.onCaches f).store = s.store := (rfl)

@[simp] theorem l2Touch_store (s : State) (x : CLine) : (s.l2Touch x).store = s.store := by
  rw [State.l2Touch]
  split <;> rfl

@[simp] theorem llcTouch_store (s : State) (x : CLine) : (s.llcTouch x).store = s.store := by
  rw [State.llcTouch]
  split <;> rfl

@[simp] theorem homeTouch_store (s : State) (pa : Nat) (write : Bool) : (s.homeTouch pa write).store = s.store := by
  unfold State.homeTouch
  (repeat' split) <;> simp

@[simp] theorem l1Touch_store (s : State) (core pa part : Nat) : (s.l1Touch core pa part).store = s.store := by
  rw [State.l1Touch]
  split <;> simp

@[simp] theorem tileTouch_store (s : State) (core pa : Nat) (tile : Nat × Nat × Nat) : (s.tileTouch core pa tile).store = s.store := by
  rw [State.tileTouch]
  split <;> simp

@[simp] theorem writeBack_store (s : State) (hit : CLine → Bool) : (s.writeBack hit).store = s.store := (rfl)
@[simp] theorem dropLines_store (s : State) (hit : CLine → Bool) : (s.dropLines hit).store = s.store := (rfl)

@[simp] theorem dropTileCopies_store (s : State) (core : Nat) (ids handles : List Nat) :
    (s.dropTileCopies core ids handles).store = s.store := (rfl)

@[simp] theorem dropCores_store (s : State) (gone : Nat → Bool) : (s.dropCores gone).store = s.store := (rfl)
@[simp] theorem dropPart_store (s : State) (part : Nat) : (s.dropPart part).store = s.store := (rfl)
@[simp] theorem trimWays_store (s : State) (part ways : Nat) : (s.trimWays part ways).store = s.store := (rfl)

@[simp] theorem fuseCluster_store (s : State) (cl : Nat) (on : Bool) : (s.fuseCluster cl on).store = s.store := by
  rw [State.fuseCluster]
  split <;> rfl

@[simp] theorem icacheFill_store (s : State) (core : Nat) (sp : Space) (va : Nat) : (s.icacheFill core sp va).store = s.store := by
  rw [State.icacheFill]
  split <;> rfl

@[simp] theorem icacheDrop_store (s : State) (sp : Space) (va size : Nat) : (s.icacheDrop sp va size).store = s.store := (rfl)

/-! ### The operations of Space.lean -/

@[simp] theorem write_keeps {z : Stores} {s : State} (pa : Nat) (bs : List Byte) (atomic : Bool) (rels : List (Nat × Nat × Nat))
    (h : Keeps z s.store) : Keeps z (s.write pa bs atomic rels).store := keeps_records (write_records s pa bs atomic rels) h

@[simp] theorem poke_keeps {z : Stores} {s : State} (sp : Space) (va : Nat) (bs : List Byte) (h : Keeps z s.store) :
    Keeps z (s.poke sp va bs).store := keeps_records (poke_records s sp va bs) h

/-! ### The operations of Trace.lean -/

@[simp] theorem setTrace_store (s : State) (t : Trace) : (s.setTrace t).store = s.store := (rfl)

@[simp] theorem emit_keeps {z : Stores} {s : State} (sp : Space) (src now ty w1 w2 w3 : Nat) (h : Keeps z s.store) :
    Keeps z (s.emit sp src now ty w1 w2 w3).store := keeps_records (emit_records s sp src now ty w1 w2 w3) h

@[simp] theorem emitIf_keeps {z : Stores} {s : State} (flag : Nat) (sp : Space) (src now ty w1 w2 w3 : Nat) (h :
    Keeps z s.store) : Keeps z (s.emitIf flag sp src now ty w1 w2 w3).store :=
  keeps_records (emitIf_records s flag sp src now ty w1 w2 w3) h

/-! ### The operations of Handle.lean -/

@[simp] theorem setEntry_keeps {z : Stores} {s : State} (i : Nat) (l : Lineage) (h : Keeps z s.store) : Keeps z (s.setEntry i l).store :=
  keeps_lineage (s := s) h fun w => assocSet_above w fun _ hl => nomatch hl

@[simp] theorem pickEntry_store (s : State) (part who : Nat) (taken : List Nat) : (s.pickEntry part who taken).2.store = s.store := by
  simp [State.pickEntry]

@[simp] theorem hsplit_store (s : State) (h1 h2 h3 : BitVec 4) (ax : BitVec 3) (sp : BitVec 6) :
    (s.hsplit h1 h2 h3 ax sp).store = s.store := by
  simp [State.hsplit]

/-! ### The operations of Matrix.lean -/

@[simp] theorem emitBeats_keeps {z : Stores} {s : State} (pc : BitVec 58) (hk : Keeps z s.store) : Keeps z (s.emitBeats pc).store := by
  simp [State.emitBeats, hk]

/-! ### The operations of Graph.lean -/

@[simp] theorem onLaunch_store (s : State) (part launch : Nat) (f : Launch → Launch) : (s.onLaunch part launch f).store = s.store :=
  (rfl)

@[simp] theorem endLaunchAt_store (s : State) (key : TaskKey) (r : TrapRec) (core : Nat) : (s.endLaunchAt key r core).store = s.store :=
  (rfl)

@[simp] theorem endLaunch_store (s : State) (key : TaskKey) (r : TrapRec) : (s.endLaunch key r).store = s.store := (rfl)

@[simp] theorem raiseLater_store (s : State) (o : Running) (t : Trap) (slot : Nat) (pc : BitVec 58) :
    (s.raiseLater o t slot pc).store = s.store := by
  unfold State.raiseLater
  (repeat' split) <;> simp

@[simp] theorem mapNode_store (s : State) (n : Node) : (s.mapNode n).store = s.store := (rfl)

@[simp] theorem setNode_keeps {z : Stores} {s : State} (n : Node) (hk : Keeps z s.store) : Keeps z (s.setNode n).store := by
  simp [State.setNode, hk]

@[simp] theorem onNode_keeps {z : Stores} {s : State} (k : TaskKey) (f : Node → Node) (hk : Keeps z s.store) :
    Keeps z (s.onNode k f).store := by
  rw [State.onNode]
  split <;> simp [hk]

@[simp] theorem readyNode_store (s : State) (n : Node) : (s.readyNode n).store = s.store := by
  rw [State.readyNode]
  split <;> rfl

@[simp] theorem lowerNode_keeps {z : Stores} {s : State} (n : Node) (k : Nat) (hk : Keeps z s.store) : Keeps z (s.lowerNode n k).store := by
  simp [State.lowerNode, hk]

@[simp] theorem decrement_keeps {z : Stores} {s : State} (by_ : Node) (e : Word) (hk : Keeps z s.store) :
    Keeps z (s.decrement by_ e).store := by
  rw [State.decrement]
  split <;> simp [hk]

@[simp] theorem decrementNext_keeps {z : Stores} {s : State} (by_ : Node) (e : Except Trap Word) (hk : Keeps z s.store) :
    Keeps z (s.decrementNext by_ e).store := by
  unfold State.decrementNext
  (repeat' split) <;> simp [hk]

@[simp] theorem finishNode_keeps {z : Stores} {s : State} (n : Node) (hk : Keeps z s.store) : Keeps z (s.finishNode n).store := by
  unfold State.finishNode
  refine foldl_keeps (fun t e ht => decrementNext_keeps n _ ht) _ ?_
  refine (?_ : Keeps z (State.store (List.foldl _ _ _)))
  exact foldl_keeps (fun t e ht => decrementNext_keeps n e ht) _ (by simp [hk])

theorem dependNodes_keeps {z : Stores} {s : State} (part launch : Nat) (pred succ : Word) (hk : Keeps z s.store) :
    KeepsExcept z id (s.dependNodes part launch pred succ) := by
  unfold State.dependNodes
  dsimp only
  (repeat' split) <;> simp [hk]

theorem signalNode_keeps {z : Stores} {s : State} (part launch count : Nat) (node : Word) (hk : Keeps z s.store) :
    KeepsExcept z id (s.signalNode part launch count node) := by
  unfold State.signalNode
  (repeat' split) <;> simp [hk]

@[simp] theorem setHolder_keeps {z : Stores} {s : State} (v : BitVec 128) (task : Nat) (hk : Keeps z s.store) :
    Keeps z (s.setHolder v task).store := by
  simp [State.setHolder, hk]

theorem spawnNode_keeps {z : Stores} {s : State} (o : Running) (pred child : Word) (hm : BitVec 16) (vals : List (Nat × BitVec 128))
    (hk : Keeps z s.store) : KeepsExcept z id (s.spawnNode o pred child hm vals) := by
  unfold State.spawnNode
  split
  · simp
  · split
    · simp [hk]
    · split
      · simp
      · dsimp only
        generalize hu : State.setNode _ _ = u
        have huk : Keeps z u.store := by
          rw [← hu]
          exact setNode_keeps _ (foldl_keeps (fun t v ht => by simp [ht]) _ hk)
        have hr : KeepsExcept z id (if pred = 0#64 then (.ok u : Except Trap State) else u.dependNodes o.key.part o.key.launch child pred) := by
          split
          · exact keepsExcept_ok.2 huk
          · exact dependNodes_keeps _ _ _ _ huk
        generalize (if pred = 0#64 then (.ok u : Except Trap State) else u.dependNodes o.key.part o.key.launch child pred) = r at hr ⊢
        cases r with
        | error t => simp
        | ok v => simp [show Keeps z v.store from hr v rfl]

/-! ### The operations of Cmds.lean -/

@[simp] theorem sendFrom_store (s : State) (part : Nat) (m : Msg) : (s.sendFrom part m).store = s.store := by
  rw [State.sendFrom]
  split <;> simp

@[simp] theorem respond_store (s : State) (c : Cmd) (status : Nat) : (s.respond c status).store = s.store := by
  simp [State.respond]

@[simp] theorem tell_store (s : State) (c : Cmd) (status code : Nat) (body : List Byte) : (s.tell c status code body).store = s.store := by
  simp [State.tell]

@[simp] theorem count_store (s : State) (die : Bool) (i : Nat) : (s.count die i).store = s.store := (rfl)

@[simp] theorem reportHosts_store (s : State) (part : Nat) (bs : List Byte) : (s.reportHosts part bs).store = s.store := by
  rw [State.reportHosts]
  split <;> simp

@[simp] theorem reportAdmins_store (s : State) (event src : Nat) : (s.reportAdmins event src).store = s.store := by
  simp [State.reportAdmins]

@[simp] theorem setQueue_store (s : State) (q : CmdQueue) : (s.setQueue q).store = s.store := (rfl)
@[simp] theorem setPart_store (s : State) (p : Part) : (s.setPart p).store = s.store := (rfl)
@[simp] theorem setTenant_store (s : State) (t : Tenant) : (s.setTenant t).store = s.store := (rfl)

@[simp] theorem arrive_store (s : State) (c : Cmd) (bad : Bool) : (s.arrive c bad).store = s.store := by
  simp only [State.arrive]
  (repeat' split) <;> simp

@[simp] theorem finish_store (s : State) (c : Cmd) (status code : Nat) (body : List Byte) :
    (s.finish c status code body).store = s.store := by
  rw [State.finish]
  split <;> simp

theorem command_keeps {z : Stores} {s : State} (c : Cmd) (op : BitVec 8) (ours bad : Bool) {act : State → Cmd → State} (hk :
    Keeps z s.store)
    (ha : ∀ t : State, Keeps z t.store → Keeps z (act t c).store) : Keeps z (s.command c op ours bad act).store := by
  unfold State.command
  split
  · simp [hk]
  · split
    · exact ha _ hk
    · split
      · split
        · exact ha _ hk
        · exact hk
      · exact hk

@[simp] theorem noteBegun_store (s : State) (c : Cmd) (b : Begun) : (s.noteBegun c b).store = s.store := by
  rw [State.noteBegun]
  split <;> rfl

/-! ### The operations of Control.lean -/

@[simp] theorem mark_keeps {z : Stores} {s : State} (ex : BitVec 32) (hk : Keeps z s.store) : Keeps z (s.mark ex).store := by
  simp [State.mark, hk]

/-! ### The operations of Issue.lean -/

@[simp] theorem clockAs_store (s : State) (pc : BitVec 58) (cycle : Word) (code : BitVec 4) :
    (s.clockAs pc cycle code).store = s.store := by
  simp [State.clockAs]

@[simp] theorem freezeClock_store (s : State) (cause : BitVec 4) : (s.freezeClock cause).store = s.store := by
  rw [State.freezeClock]
  split <;> simp

@[simp] theorem tallyBundle_keeps {z : Stores} {s : State} (ops : List Instr) (hk : Keeps z s.store) :
    Keeps z (s.tallyBundle ops).store := by
  simp [State.tallyBundle, hk]

@[simp] theorem startIssue_keeps {z : Stores} {s : State} (hdr : BitVec 32) (ops : List Instr) (hk : Keeps z s.store) :
    Keeps z (s.startIssue hdr ops).store := by
  simp [State.startIssue, hk]

@[simp] theorem issueResources_keeps {z : Stores} {s : State} (hdr : BitVec 32) (ops : List Instr) (hk : Keeps z s.store) :
    Keeps z (s.issueResources hdr ops).store := by
  unfold State.issueResources
  (repeat' split) <;> simp [hk]

@[simp] theorem issueOperands_keeps {z : Stores} {s : State} (hdr : BitVec 32) (ops : List Instr) (hk : Keeps z s.store) :
    Keeps z (s.issueOperands hdr ops).store := by
  unfold State.issueOperands
  (repeat' split) <;> simp [hk]

@[simp] theorem issueOps_keeps {z : Stores} {s : State} (hdr : BitVec 32) (ops : List Instr) (hk : Keeps z s.store) :
    Keeps z (s.issueOps hdr ops).store := by
  unfold State.issueOps
  (repeat' split) <;> simp [hk]

@[simp] theorem issueBits_keeps {z : Stores} {s : State} (b : BitVec 512) (hk : Keeps z s.store) : Keeps z (s.issueBits b).store := by
  unfold State.issueBits
  (repeat' split) <;> simp [hk]

@[simp] theorem issueDue_keeps {z : Stores} {s : State} (f : Fetch) (hk : Keeps z s.store) : Keeps z (s.issueDue f).store := by
  unfold State.issueDue
  (repeat' split) <;> simp [hk]

@[simp] theorem bundleIssue_keeps {z : Stores} {s : State} (hk : Keeps z s.store) : Keeps z (s.bundleIssue).store := by
  simp only [State.bundleIssue]
  (repeat' split) <;> simp [hk]

@[simp] theorem fetchIn_store (s : State) : (s.fetchIn).store = s.store := by
  rw [State.fetchIn]
  split <;> simp

@[simp] theorem fetchAhead_store (s : State) (straight : Bool) : (s.fetchAhead straight).store = s.store := by
  simp only [State.fetchAhead]
  (repeat' split) <;> simp

@[simp] theorem freezeRecord_keeps {z : Stores} {s : State} (hk : Keeps z s.store) : Keeps z (s.freezeRecord).store := by
  rw [State.freezeRecord]
  split <;> simp [hk]

/-! ### The operations of Perform.lean -/

@[simp] theorem askFor_store (s : State) (unit : Nat) (sp : Space) (va : Nat) : (s.askFor unit sp va).store = s.store := by
  rw [State.askFor]
  split <;> simp

@[simp] theorem askPage_store (s : State) (sp : Space) (va : Nat) : (s.askPage sp va).store = s.store := by
  simp [State.askPage]

@[simp] theorem askModule_store (s : State) (sp : Space) (va : Nat) : (s.askModule sp va).store = s.store := by
  simp [State.askModule]

@[simp] theorem setEntryRec_store (s : State) (e : Entry) : (s.setEntryRec e).store = s.store := (rfl)
@[simp] theorem dropEntry_store (s : State) (e : Entry) : (s.dropEntry e).store = s.store := (rfl)
@[simp] theorem deliver_store (s : State) (e : Entry) (v : Row) : (s.deliver e v).store = s.store := (rfl)

@[simp] theorem failEntry_store (s : State) (e : Entry) (t : Trap) : (s.failEntry e t).store = s.store := by
  rw [State.failEntry]
  split <;> simp

@[simp] theorem setVersion_store (s : State) (k : TaskKey) (bytes : List (Nat × Byte)) : (s.setVersion k bytes).store = s.store :=
  (rfl)

@[simp] theorem putVersion_store (s : State) (k : TaskKey) (va : Nat) (bs : List Byte) (rels : List (Nat × Nat × Nat)) :
    (s.putVersion k va bs rels).store = s.store := (rfl)

@[simp] theorem startCommit_keeps {z : Stores} {s : State} (k : TaskKey) (entry : Option Nat) (auto : Bool) (pc : BitVec 58)
    (slot : Nat) (hk : Keeps z s.store) : Keeps z (s.startCommit k entry auto pc slot).store := by
  simp [State.startCommit, hk]

@[simp] theorem autoCommit_keeps {z : Stores} {s : State} (k : TaskKey) (entry : Option Nat) (pc : BitVec 58) (hk :
    Keeps z s.store) : Keeps z (s.autoCommit k entry pc).store := by
  simp [State.autoCommit, hk]

@[simp] theorem coresOf_store (s : State) (k : TaskKey) (f : Core → Core) : (s.coresOf k f).store = s.store := (rfl)
@[simp] theorem wroteBy_store (s : State) (k : TaskKey) (pa : Nat) : (s.wroteBy k pa).store = s.store := (rfl)

@[simp] theorem writeMasked_keeps {z : Stores} {s : State} (pa : Nat) (bs : List (Nat × Byte)) (rels : Nat → List (Nat × Nat × Nat))
    (h : Keeps z s.store) : Keeps z (s.writeMasked pa bs rels).store := by
  have hh : (s.homeTouch pa true).store = s.store := by simp
  simp only [State.store, Prod.mk.injEq] at hh
  rw [State.writeMasked, State.store]
  simp only [hh]
  exact keeps_mem (s := s) h writeCells_wf

@[simp] theorem commitStep_keeps {z : Stores} {s : State} (k : Nat) (hk : Keeps z s.store) : Keeps z (s.commitStep k).store := by
  simp only [State.commitStep]
  (repeat' split) <;> simp [hk]

@[simp] theorem readUnit_store (s : State) (e : Entry) (va pa : Nat) (m : Mapping) (n : Nat) :
    (s.readUnit e va pa m n).2.store = s.store := by
  simp [State.readUnit]

@[simp] theorem performLoad_store (s : State) (e : Entry) (size : Nat) : (s.performLoad e size).store = s.store := by
  simp only [State.performLoad]
  (repeat' split) <;> simp

@[simp] theorem wakeNode_store (s : State) (n : Node) (w : Wait) (f : Ctx → Ctx) (member : Nat) :
    (s.wakeNode n w f member).store = s.store := by
  rw [State.wakeNode]
  split <;> simp

@[simp] theorem retest_store (s : State) (pa : Nat) : (s.retest pa).store = s.store := (rfl)
@[simp] theorem cleanLine_store (s : State) (pa : Nat) : (s.cleanLine pa).store = s.store := (rfl)

@[simp] theorem performDirect_keeps {z : Stores} {s : State} (e : Entry) (bytes : List Byte) (k g : Nat) (va : Word) (hk :
    Keeps z s.store) : Keeps z (s.performDirect e bytes k g va).store := by
  rw [State.performDirect]
  split <;> simp [hk]

@[simp] theorem enterVersion_store (s : State) (e : Entry) (bytes : List Byte) (k g : Nat) (va : Word) :
    (s.enterVersion e bytes k g va).store = s.store := by
  rw [State.enterVersion]
  split <;> rfl

@[simp] theorem performVersioned_keeps {z : Stores} {s : State} (e : Entry) (bytes : List Byte) (k g : Nat) (va : Word) (hk :
    Keeps z s.store) : Keeps z (s.performVersioned e bytes k g va).store := by
  unfold State.performVersioned
  (repeat' split) <;> simp [hk]

@[simp] theorem performStore_keeps {z : Stores} {s : State} (e : Entry) (bytes : List Byte) (hk : Keeps z s.store) :
    Keeps z (s.performStore e bytes).store := by
  simp only [State.performStore]
  (repeat' split) <;> simp [hk]

@[simp] theorem arriveAt_keeps {z : Stores} {s : State} (pa n : Nat) (rels : Nat → List (Nat × Nat × Nat)) (hk :
    Keeps z s.store) : Keeps z (s.arriveAt pa n rels).store := by
  simp [State.arriveAt, hk]

@[simp] theorem performAtomic_keeps {z : Stores} {s : State} (e : Entry) (op : AtomOp) (size : Nat) (a b : Word) (rm : RMode)
    (ftz : Bool) (hk : Keeps z s.store) : Keeps z (s.performAtomic e op size a b rm ftz).store := by
  rw [State.performAtomic]
  split <;> simp [hk]

@[simp] theorem performArrive_keeps {z : Stores} {s : State} (e : Entry) (n : BitVec 24) (hk : Keeps z s.store) :
    Keeps z (s.performArrive e n).store := by
  rw [State.performArrive]
  split <;> simp [hk]

@[simp] theorem endWaitAt_store (s : State) (e : Entry) (pa u v : Nat) : (s.endWaitAt e pa u v).store = s.store := (rfl)
@[simp] theorem endWait_store (s : State) (e : Entry) (pa : Nat) : (s.endWait e pa).store = s.store := (rfl)

@[simp] theorem performWait_store (s : State) (e : Entry) (cond : Word) (force : Bool) : (s.performWait e cond force).store = s.store := by
  unfold State.performWait
  (repeat' split) <;> simp

@[simp] theorem performFence_store (s : State) (e : Entry) (kind : FenceKind) (mask : BitVec 16) :
    (s.performFence e kind mask).store = s.store := (rfl)

@[simp] theorem performCopy_store (s : State) (e : Entry) (q : BitVec 3) (x : QEntry) : (s.performCopy e q x).store = s.store := by
  rw [State.performCopy]
  split <;> rfl

@[simp] theorem performQfence_store (s : State) (e : Entry) (mask : BitVec 8) : (s.performQfence e mask).store = s.store := by
  rw [State.performQfence]
  split <;> rfl

@[simp] theorem tlbinv_store (s : State) (e : Entry) (kind : BitVec 2) : (s.tlbinv e kind).store = s.store := (rfl)
@[simp] theorem performCachewb_store (s : State) (e : Entry) (len : Word) : (s.performCachewb e len).store = s.store := (rfl)

@[simp] theorem performCacheinv_store (s : State) (e : Entry) (len : Word) : (s.performCacheinv e len).store = s.store := by
  rw [State.performCacheinv]
  split <;> rfl

@[simp] theorem spawnUndone_store (s : State) (e : Entry) : (s.spawnUndone e).store = s.store := (rfl)
@[simp] theorem spawnDone_store (s : State) (e : Entry) : (s.spawnDone e).store = s.store := (rfl)

theorem walkerStep_keeps {z : Stores} {s : State} (e : Entry) {r : Except Trap State} (hk : Keeps z s.store) (hr :
    KeepsExcept z id r) :
    Keeps z (s.walkerStep e r).store := by
  cases r with
  | error t => simp [State.walkerStep, hk]
  | ok t => simp [State.walkerStep, show Keeps z t.store from hr t rfl]

@[simp] theorem performNow_keeps {z : Stores} {s : State} (e : Entry) (hk : Keeps z s.store) : Keeps z (s.performNow e).store := by
  unfold State.performNow
  split
  case h_10 =>
    split
    · simp [hk]
    · rw [spawnDone_store]
      exact walkerStep_keeps e hk (spawnNode_keeps _ _ _ _ _ hk)
  case h_11 => exact walkerStep_keeps e hk (dependNodes_keeps _ _ _ _ hk)
  case h_12 => exact walkerStep_keeps e hk (signalNode_keeps _ _ _ _ hk)
  all_goals simp [hk]

@[simp] theorem entryPerform_keeps {z : Stores} {s : State} (k : Nat) (hk : Keeps z s.store) : Keeps z (s.entryPerform k).store := by
  unfold State.entryPerform
  (repeat' split) <;> simp [hk]

@[simp] theorem qfenceLeave_store (s : State) (q : BitVec 3) : (s.qfenceLeave q).store = s.store := by
  rw [State.qfenceLeave]
  split <;> simp

@[simp] theorem endNodeWait_store (s : State) (n : Node) (w : Wait) : (s.endNodeWait n w).store = s.store := by
  unfold State.endNodeWait
  (repeat' split) <;> simp

@[simp] theorem waitNode_keeps {z : Stores} {s : State} (n : Node) (hk : Keeps z s.store) : Keeps z (s.waitNode n).store := by
  unfold State.waitNode
  refine foldl_keeps (fun t w ht => ?_) _ hk
  (repeat' split) <;> simp [ht]

/-! ### The operations of Copies.lean -/

@[simp] theorem engineAsk_store (s : State) (e : Engine) (va : Nat) : (s.engineAsk e va).store = s.store := by
  simp [State.engineAsk]

@[simp] theorem putSpm_keeps {z : Stores} {s : State} (cells : List (Nat × Byte)) (h : Keeps z s.store) :
    Keeps z (s.putSpm cells).store := keeps_spm (s := s) h writeCells_wf

@[simp] theorem settleSpm_keeps {z : Stores} {s : State} (inside : Nat → Bool) (hk : Keeps z s.store) :
    Keeps z (s.settleSpm inside).store := by
  simp [State.settleSpm, hk]

@[simp] theorem seeSome_keeps {z : Stores} {s : State} (gs : List Nat) (hk : Keeps z s.store) : Keeps z (s.seeSome gs).store := by
  unfold State.seeSome
  exact foldl_keeps (fun s x h => by simp [h]) _ hk

@[simp] theorem copySpm_keeps {z : Stores} {s : State} (cells : List (Nat × Byte)) (hk : Keeps z s.store) :
    Keeps z (s.copySpm cells).store := by
  simp [State.copySpm, hk]

@[simp] theorem writeSpm_keeps {z : Stores} {s : State} (cells : List (Nat × Byte)) (hk : Keeps z s.store) :
    Keeps z (s.writeSpm cells).store := by
  simp [State.writeSpm, hk]

@[simp] theorem askPeer_store (s : State) (e : Engine) (m : Mapping) (va : Nat) (read : Bool) (dst : Word) (n : Nat)
    (bs : List Byte) : (s.askPeer e m va read dst n bs).store = s.store := by
  rw [State.askPeer]
  split <;> simp

@[simp] theorem copyClean_store (s : State) (c : Copy) (done va pa n : Nat) : (s.copyClean c done va pa n).store = s.store := by
  rw [State.copyClean]
  split <;> rfl

theorem copyPut_keeps {z : Stores} {s : State} (e : Engine) (c : Copy) (done va : Nat) (bs : List Byte) (hk :
    Keeps z s.store) : (s.copyPut e c done va bs).Keeps z := by
  unfold State.copyPut
  dsimp only
  (repeat' split) <;> simp [hk]

theorem copyUnit_keeps {z : Stores} {s : State} (e : Engine) (c : Copy) (done : Nat) (hk :
    Keeps z s.store) : (s.copyUnit e c done).Keeps z := by
  unfold State.copyUnit
  dsimp only
  split <;> simp [hk, copyPut_keeps]

theorem openCopy_keeps {z : Stores} {s : State} (e : Engine) (c : Copy) (a : Word) (n : Nat) (hk : Keeps z s.store) :
    KeepsExcept z Prod.fst (s.openCopy e c a n) := by
  unfold State.openCopy
  dsimp only
  (repeat' split) <;> simp [hk]

theorem copyArrive_keeps {z : Stores} {s : State} (e : Engine) (c : Copy) (hk : Keeps z s.store) : (s.copyArrive e c).Keeps z := by
  unfold State.copyArrive
  dsimp only
  (repeat' split) <;> simp [hk]

@[simp] theorem emitCopy_keeps {z : Stores} {s : State} (e : Engine) (c : Copy) (ty : Nat) (hk : Keeps z s.store) :
    Keeps z (s.emitCopy e c ty).store := by
  simp [State.emitCopy, hk]

theorem registerCopy_keeps {z : Stores} {s : State} (e : Engine) (desc : Word) (hk :
    Keeps z s.store) : (s.registerCopy e desc).Keeps z := by
  unfold State.registerCopy
  dsimp only
  (repeat' split) <;> simp [hk]

theorem moveOn_keeps {z : Stores} {s : State} (e : Engine) (c : Copy) (moved : Nat) (hk : Keeps z s.store) :
    KeepsExcept z Prod.fst (s.moveOn e c moved) := by
  have hu := copyUnit_keeps e c moved hk
  unfold State.moveOn
  dsimp only
  split
  · generalize s.copyUnit e c moved = r at hu ⊢
    cases r <;> simp_all
  · split
    · simp [hk]
    · have ht : Keeps z (if c.len = 0 then s.emitCopy e c 0x30 else s).store := keeps_ite (emitCopy_keeps e c 0x30 hk) hk
      generalize (if c.len = 0 then s.emitCopy e c 0x30 else s) = t at ht ⊢
      split
      · have ha := copyArrive_keeps e c ht
        generalize t.copyArrive e c = r at ha ⊢
        cases r <;> simp_all
      · simp [ht]

theorem copyStep_keeps {z : Stores} {s : State} (e : Engine) (c : Copy) (moved : Nat) (hk : Keeps z s.store) :
    KeepsExcept z Prod.fst (s.copyStep e c moved) := by
  unfold State.copyStep
  split
  · simp [hk]
  · split
    · exact moveOn_keeps e c moved hk
    · next w n hw =>
      have ho := openCopy_keeps e c w n hk
      generalize s.openCopy e c w n = r at ho ⊢
      cases r <;> simp_all

@[simp] theorem queueStep_keeps {z : Stores} {s : State} (q : BitVec 3) (hk : Keeps z s.store) : Keeps z (s.queueStep q).store := by
  unfold State.queueStep
  split
  · next c moved o pc rest _ =>
    have hc := copyStep_keeps (s.core.engine q o pc) c moved hk
    generalize s.copyStep (s.core.engine q o pc) c moved = r at hc ⊢
    rcases r with _ | ⟨t, _ | ⟨c', n⟩⟩ <;> simp_all
  · next desc o pc rest _ =>
    have hr := registerCopy_keeps (s.core.engine q o pc) desc hk
    generalize s.registerCopy (s.core.engine q o pc) desc = r at hr ⊢
    cases r <;> simp_all
  · exact hk

@[simp] theorem startNode_store (s : State) (n : Node) : (s.startNode n).store = s.store := by
  rw [State.startNode]
  split <;> rfl

@[simp] theorem dropJob_store (s : State) (j : Job) : (s.dropJob j).store = s.store := (rfl)

@[simp] theorem endJob_keeps {z : Stores} {s : State} (j : Job) (f : Option Trap) (hk : Keeps z s.store) :
    Keeps z (s.endJob j f).store := by
  simp only [State.endJob]
  (repeat' split) <;> simp [hk]

@[simp] theorem jobStep_keeps {z : Stores} {s : State} (j : Job) (hk : Keeps z s.store) : Keeps z (s.jobStep j).store := by
  unfold State.jobStep
  split
  · simp [hk]
  · have hc := copyStep_keeps j.engine j.copy j.moved hk
    generalize s.copyStep j.engine j.copy j.moved = r at hc ⊢
    rcases r with _ | ⟨t, _ | ⟨c', n⟩⟩ <;> simp_all

@[simp] theorem dropPeer_store (s : State) (id : Nat) : (s.dropPeer id).store = s.store := (rfl)

@[simp] theorem replyHost_store (s : State) (sp : Space) (tag : UetTag) (ok : Bool) (bs : List Byte) :
    (s.replyHost sp tag ok bs).store = s.store := by
  simp [State.replyHost]

@[simp] theorem hostTake_store (s : State) (p : Peer) (bs : List Byte) : (s.hostTake p bs).store = s.store := by
  rw [State.hostTake]
  split <;> simp

@[simp] theorem hostAsk_keeps {z : Stores} {s : State} (sp : Space) (write : Bool) (va n : Nat) (bs : List Byte) (k : Nat) (hk :
    Keeps z s.store) : Keeps z (s.hostAsk sp write va n bs k).1.store := by
  induction k generalizing s va n bs with
  | zero => exact hk
  | succ k ih =>
    simp only [State.hostAsk]
    split
    · exact hk
    · refine ih _ _ _ ?_
      split
      · split <;> simp [hk]
      · exact hk

@[simp] theorem hostRelay_keeps {z : Stores} {s : State} (sp : Space) (va n : Nat) (write : Bool) (tag : UetTag) (bs : List Byte)
    (got : List (Nat × Byte)) (hk : Keeps z s.store) : Keeps z (s.hostRelay sp va n write tag bs got).store := by
  simp [State.hostRelay, hk]

@[simp] theorem peerAcked_store (s : State) (p : Peer) : (s.peerAcked p).store = s.store := by
  rw [State.peerAcked]
  split <;> simp

@[simp] theorem peerPut_store (s : State) (p : Peer) (bs : List Byte) : (s.peerPut p bs).store = s.store := by
  rw [State.peerPut]
  split <;> simp

/-! ### The operations of Lineage.lean -/

@[simp] theorem addOutst_keeps {z : Stores} {s : State} (i : Nat) (up : Bool) (h : Keeps z s.store) : Keeps z (s.addOutst i up).store :=
  keeps_lineage (s := s) h fun w => assocSet_above w fun _ hl => nomatch hl

@[simp] theorem granuleRead_store (s : State) (since g : Nat) : (s.granuleRead since g).2.store = s.store := by
  simp [State.granuleRead]

@[simp] theorem granulesRead_keeps {z : Stores} {s : State} (since : Nat) (l : List Nat) (hk : Keeps z s.store) :
    Keeps z (s.granulesRead since l).2.store := by
  induction l with
  | nil => exact hk
  | cons pa l ih =>
    simp only [State.granulesRead]
    split <;> simp [ih]

@[simp] theorem viewedTsr_keeps {z : Stores} {s : State} (addr : Word) (hk : Keeps z s.store) : Keeps z (s.viewedTsr addr).2.store := by
  simp only [State.viewedTsr]
  (repeat' split) <;> simp [hk]

theorem splitStep_keeps {z : Stores} {s : State} (h : HStep) (v : BitVec 128) (ax : Nat) (point : Int) (low high : Nat) (hk :
    Keeps z s.store) : (s.splitStep h v ax point low high).Keeps z := by
  have hset : ∀ i l i' l' i'' l'', Keeps z (((s.setEntry i l).setEntry i' l').setEntry i'' l'').store := fun _ _ _ _ _ _ =>
    setEntry_keeps _ _ (setEntry_keeps _ _ (setEntry_keeps _ _ hk))
  unfold State.splitStep
  dsimp only
  (repeat' split) <;> simp [hk, hset]

theorem rejoinStep_keeps {z : Stores} {s : State} (h : HStep) (hp hl hr : BitVec 4) (vl vr : BitVec 128) (movedSrc : Bool) (hk :
    Keeps z s.store) : (s.rejoinStep h hp hl hr vl vr movedSrc).Keeps z := by
  have hset : ∀ i l i' l' i'' l'', Keeps z (((s.setEntry i l).setEntry i' l').setEntry i'' l'').store := fun _ _ _ _ _ _ =>
    setEntry_keeps _ _ (setEntry_keeps _ _ (setEntry_keeps _ _ hk))
  unfold State.rejoinStep
  dsimp only
  (repeat' split) <;> simp [hk, hset]

@[simp] theorem emptyMailbox_store (s : State) (pa : Nat) : (s.emptyMailbox pa).store = s.store := (rfl)

theorem putStep_keeps {z : Stores} {s : State} (h : HStep) (v : BitVec 128) (va : Word) (hk :
    Keeps z s.store) : (s.putStep h v va).Keeps z := by
  unfold State.putStep
  dsimp only
  (repeat' split) <;> simp [hk]

theorem takeFrom_keeps {z : Stores} {s : State} (pa : Nat) (v : BitVec 128) (task : Nat) (hk : Keeps z s.store) :
    KeepsOption z id (s.takeFrom pa v task) := by
  unfold State.takeFrom
  dsimp only
  split <;> simp [hk]

@[simp] theorem entryLost_store (s : State) (k : TaskKey) : (s.entryLost k).store = s.store := (rfl)

theorem takeStep_keeps {z : Stores} {s : State} (h : HStep) (hd : BitVec 4) (sa : BitVec 6) (va : Word) (susp : Bool) (hk :
    Keeps z s.store) : (s.takeStep h hd sa va susp).Keeps z := by
  unfold State.takeStep
  dsimp only
  (repeat' split) <;> simp [hk]
  next ht => exact takeFrom_keeps _ _ _ hk _ ht

theorem accessStep_keeps {z : Stores} {s : State} (h : HStep) (store : Bool) (v : BitVec 128) (e rows : Word) (hk :
    Keeps z s.store) : (s.accessStep h store v e rows).Keeps z := by
  unfold State.accessStep
  dsimp only
  (repeat' split) <;> simp [hk]

theorem infoStep_keeps {z : Stores} {s : State} (h : HStep) (v : BitVec 128) (sa : BitVec 6) (ax : Nat) (hk :
    Keeps z s.store) : (s.infoStep h v sa ax).Keeps z := by
  unfold State.infoStep
  dsimp only
  (repeat' split) <;> simp [hk]

theorem streamStep_keeps {z : Stores} {s : State} (h : HStep) (v : BitVec 128) (q : BitVec 2) (id : Nat) (hk :
    Keeps z s.store) : (s.streamStep h v q id).Keeps z := by
  unfold State.streamStep
  extract_lets i l failed r
  split
  · exact hk
  · split
    · exact hk
    · have hr : Keeps z r.2.store := by
        unfold r
        split <;> simp [hk]
      clear_value r
      obtain ⟨(t | a) | t, u⟩ := r
      · exact hk
      · simp [hk]
      · dsimp only at hr ⊢
        (repeat' split) <;> simp [hk, hr, failed]

theorem hopStep_keeps {z : Stores} {s : State} (h : HStep) (hk : Keeps z s.store) : (s.hopStep h).Keeps z := by
  unfold State.hopStep
  split
  · simp [hk]
  · split
    · exact splitStep_keeps _ _ _ _ _ _ hk
    · exact rejoinStep_keeps _ _ _ _ _ _ _ hk
    · exact putStep_keeps _ _ _ hk
    · exact takeStep_keeps _ _ _ _ _ hk
    · exact accessStep_keeps _ _ _ _ _ hk
    · exact accessStep_keeps _ _ _ _ _ hk
    · exact infoStep_keeps _ _ _ _ hk
    · exact streamStep_keeps _ _ _ _ hk
    · exact hk

@[simp] theorem handleStep_keeps {z : Stores} {s : State} (hk : Keeps z s.store) : Keeps z (s.handleStep).store := by
  unfold State.handleStep
  split
  · exact hk
  · next h rest _ =>
    have ha := hopStep_keeps h hk
    generalize s.hopStep h = r at ha ⊢
    cases r <;> simp_all

@[simp] theorem depositWake_keeps {z : Stores} {s : State} (pa : Nat) (hk : Keeps z s.store) : Keeps z (s.depositWake pa).store := by
  unfold State.depositWake
  split
  · exact hk
  · split
    · split
      · split
        · exact hk
        · dsimp only
          split
          · simp [hk]
          · split
            · simp [hk]
            · next t ht =>
              have hu : Keeps z t.store := takeFrom_keeps _ _ _ hk t ht
              simp [hu]
      · exact hk
    · exact hk

@[simp] theorem writeTile_keeps {z : Stores} {s : State} (pa : Nat) (b : Byte) (h : Keeps z s.store) :
    Keeps z (s.writeTile pa b).store := keeps_mem (s := s) h writeByte_wf

@[simp] theorem storeRow_keeps {z : Stores} {s : State} (o : Running) (t : Tsr) (es : List ElemSrc) (bs : List Byte) (hk :
    Keeps z s.store) : Keeps z (s.storeRow o t es bs).store := by
  unfold State.storeRow
  refine foldl_keeps (fun t p ht => ?_) _ hk
  have hput : ∀ (u : State) (a : Nat) (b : Byte), Keeps z u.store →
      Keeps z (match u.tilePlace o true a with | .mem pa => u.writeTile pa b | _ => u).store := by
    intro u a b hu
    split <;> simp [hu]
  split
  · exact ht
  · dsimp only
    split
    · exact hput _ _ _ ht
    · exact hput _ _ _ (hput _ _ _ ht)
    · exact hput _ _ _ ht

@[simp] theorem cleanTile_store (s : State) (o : Running) (t : Tsr) (es : List ElemSrc) : (s.cleanTile o t es).store = s.store :=
  (rfl)

@[simp] theorem touchPlaces_store (s : State) (write : Bool) (places : List Place) : (s.touchPlaces write places).store = s.store := by
  simp [State.touchPlaces]

@[simp] theorem tileRowStep_keeps {z : Stores} {s : State} (k : Nat) (a : TAcc) (hk : Keeps z s.store) :
    Keeps z (s.tileRowStep k a).store := by
  simp only [State.tileRowStep]
  (repeat' split) <;> simp [hk]

/-! ### The operations of Rows.lean -/

@[simp] theorem readRecord_keeps {z : Stores} {s : State} (q : BitVec 2) (st : Stream) (hk : Keeps z s.store) :
    Keeps z (s.readRecord q st).store := by
  have hv := viewedTsr_keeps st.recAddr hk
  unfold State.readRecord
  generalize s.viewedTsr st.recAddr = x at hv ⊢
  rcases x with ⟨(_ | _) | _, t⟩ <;> simp_all

theorem readRow_keeps {z : Stores} {s : State} (st : Stream) (t : Tsr) (hk : Keeps z s.store) :
    KeepsExcept z Prod.snd (s.readRow st t) := by
  unfold State.readRow
  dsimp only
  split
  · simp
  · split
    · simp
    · simp [hk]

@[simp] theorem fetchStream_keeps {z : Stores} {s : State} (q : BitVec 2) (st : Stream) (hk : Keeps z s.store) :
    Keeps z (s.fetchStream q st).store := by
  unfold State.fetchStream
  split
  · split <;> simp [hk]
  · next t _ =>
    split
    · exact hk
    · split
      · exact hk
      · have hr := readRow_keeps st t hk
        generalize s.readRow st t = x at hr ⊢
        rcases x with (_ | _) | ⟨r, u⟩ <;> simp_all

@[simp] theorem rowArrival_keeps {z : Stores} {s : State} (q : BitVec 2) (hk : Keeps z s.store) : Keeps z (s.rowArrival q).store := by
  rw [State.rowArrival]
  split <;> simp [hk]

@[simp] theorem pinDrop_store (s : State) (q : BitVec 2) : (s.pinDrop q).store = s.store := by
  simp [State.pinDrop]

/-! ### The operations of Paging.lean -/

@[simp] theorem endWalk_store (s : State) (sp : Space) (page unit : Nat) : (s.endWalk sp page unit).store = s.store := (rfl)

@[simp] theorem walkDone_store (s : State) (m : Mapping) (va unit : Nat) : (s.walkDone m va unit).store = s.store := by
  rw [State.walkDone]
  split <;> rfl

@[simp] theorem pageWalk_store (s : State) (sp : Space) (va : Nat) : (s.pageWalk sp va).store = s.store := by
  simp only [State.pageWalk]
  (repeat' split) <;> simp

@[simp] theorem zeroFrame_keeps {z : Stores} {s : State} (pa size : Nat) (h : Keeps z s.store) : Keeps z (s.zeroFrame pa size).store :=
  keeps_mem (s := s) h filter_wf

@[simp] theorem freeFrame_store (s : State) (base top size : Nat) : (s.freeFrame base top size).2.store = s.store := by
  simp only [State.freeFrame]
  (repeat' split) <;> simp

@[simp] theorem onPart_store (s : State) (id : Nat) (f : Part → Part) : (s.onPart id f).store = s.store := (rfl)

theorem newFrame_keeps {z : Stores} {s : State} (part : Nat) (lpddr : Bool) (size : Nat) (hk : Keeps z s.store) :
    KeepsOption z Prod.snd (s.newFrame part lpddr size) := by
  unfold State.newFrame
  split
  · simp
  · split
    · simp
    · have hf : ∀ b t n, Keeps z (s.freeFrame b t n).2.store := fun b t n => by simp [hk]
      generalize hr : (if lpddr then s.freeFrame lpddrBase lpddrEnd size else s.freeFrame 0 hbmSize size) = r
      have hr' : Keeps z r.2.store := by
        rw [← hr]
        split <;> exact hf _ _ _
      obtain ⟨_ | pa, t⟩ := r
      · simp
      · exact keepsOption_some.2 (zeroFrame_keeps pa size hr')

@[simp] theorem setMapping_store (s : State) (m : Mapping) : (s.setMapping m).store = s.store := (rfl)

@[simp] theorem addStub_store (s : State) (sp : Space) (entry : Nat) : (s.addStub sp entry).store = s.store := by
  rw [State.addStub]
  split <;> rfl

@[simp] theorem backPage_keeps {z : Stores} {s : State} (m : Mapping) (lpddr : Bool) (hk : Keeps z s.store) :
    Keeps z (s.backPage m lpddr).store := by
  have hf := newFrame_keeps m.space.part lpddr m.size hk
  unfold State.backPage
  generalize s.newFrame m.space.part lpddr m.size = r at hf ⊢
  cases r <;> simp_all

@[simp] theorem pageIn_keeps {z : Stores} {s : State} (sp : Space) (va : Nat) (hk : Keeps z s.store) : Keeps z (s.pageIn sp va).store := by
  unfold State.pageIn
  (repeat' split) <;> simp [hk]

@[simp] theorem copyFrame_keeps {z : Stores} {s : State} (old new size : Nat) (h : Keeps z s.store) :
    Keeps z (s.copyFrame old new size).store := keeps_mem (s := s) h fun w => writeCells_wf (filter_wf w)

@[simp] theorem releaseFrame_store (s : State) (pa size part : Nat) : (s.releaseFrame pa size part).store = s.store := by
  rw [State.releaseFrame]
  split <;> rfl

@[simp] theorem giveBack_store (s : State) (m : Mapping) : (s.giveBack m).store = s.store := by
  rw [State.giveBack]
  split <;> rfl

@[simp] theorem dropPage_store (s : State) (m : Mapping) : (s.dropPage m).store = s.store := by
  rw [State.dropPage]
  split <;> rfl

@[simp] theorem moveOver_store (s : State) (m : Mapping) : (s.moveOver m).store = s.store := (rfl)

@[simp] theorem endUnmap_store (s : State) (m : Mapping) : (s.endUnmap m).store = s.store := by
  rw [State.endUnmap]
  split <;> simp

@[simp] theorem endMove_keeps {z : Stores} {s : State} (m : Mapping) (pa : Nat) (hk : Keeps z s.store) :
    Keeps z (s.endMove m pa).store := by
  simp [State.endMove, hk]

@[simp] theorem beginShoot_store (s : State) (m : Mapping) (newPa : Option Nat) : (s.beginShoot m newPa).store = s.store := by
  rw [State.beginShoot]
  split <;> rfl

@[simp] theorem shootdown_keeps {z : Stores} {s : State} (sp : Space) (va : Nat) (newPa : Option Nat) (hk : Keeps z s.store) :
    Keeps z (s.shootdown sp va newPa).store := by
  simp only [State.shootdown]
  (repeat' split) <;> simp [hk]

@[simp] theorem codePageLoad_store (s : State) : (s.codePageLoad).store = s.store := by
  simp only [State.codePageLoad]
  (repeat' split) <;> simp

/-! ### The operations of Land.lean -/

@[simp] theorem landing_store (s : State) : (s.landing).store = s.store := by
  simp only [State.landing]
  (repeat' split) <;> simp

@[simp] theorem releaseStreams_keeps {z : Stores} {s : State} (sts : List Stream) (hk : Keeps z s.store) :
    Keeps z (s.releaseStreams sts).store := by
  unfold State.releaseStreams
  exact foldl_keeps (fun s x h => by (repeat' split) <;> simp [h]) _ hk

@[simp] theorem cancelQueue_keeps {z : Stores} {s : State} (q : BitVec 2) (hk : Keeps z s.store) : Keeps z (s.cancelQueue q).store := by
  simp [State.cancelQueue, hk]

@[simp] theorem localAtom_keeps {z : Stores} {s : State} (r : Result) (op : AtomOp) (a size : Nat) (x y : Word) (rm : RMode)
    (ftz : Bool) (d : BitVec 6) (hk : Keeps z s.store) : Keeps z (s.localAtom r op a size x y rm ftz d).store := by
  simp [State.localAtom, hk]

@[simp] theorem apply_keeps {z : Stores} {s : State} (r : Result) (hk : Keeps z s.store) : Keeps z (s.apply r).store := by
  unfold State.apply
  split
  case h_16 => exact foldl_keeps (fun t q ht => by simp [ht]) _ hk
  all_goals simp [hk]

@[simp] theorem endStreams_keeps {z : Stores} {s : State} (hk : Keeps z s.store) : Keeps z (s.endStreams).store := by
  simp [State.endStreams, hk]

@[simp] theorem landResults_keeps {z : Stores} {s : State} (hk : Keeps z s.store) : Keeps z (s.landResults).store := by
  unfold State.landResults
  exact endStreams_keeps (foldl_keeps (fun t r ht => apply_keeps r ht) _ hk)

@[simp] theorem widen_store (s : State) : (s.widen).store = s.store := by
  simp [State.widen]

@[simp] theorem cancelAll_keeps {z : Stores} {s : State} (hk : Keeps z s.store) : Keeps z (s.cancelAll).store := by
  unfold State.cancelAll
  split
  · exact hk
  · exact foldl_keeps (fun t q ht => by simp [ht]) _ hk

@[simp] theorem tick_keeps {z : Stores} {s : State} (hk : Keeps z s.store) : Keeps z (s.tick).store := by
  unfold State.tick
  extract_lets issue pc cycle t u
  have ht : Keeps z t.store := by simp [t, landResults_keeps hk]
  have hu : Keeps z u.store := by simp [u, ht]
  clear_value u
  (repeat' split) <;> simp [hu]

@[simp] theorem resultLand_keeps {z : Stores} {s : State} (hk : Keeps z s.store) : Keeps z (s.resultLand).store := by
  unfold State.resultLand
  (repeat' split) <;> simp [hk]

/-! ### The operations of Tasks.lean -/

@[simp] theorem onMembers_store (s : State) (f : Core → Core) : (s.onMembers f).store = s.store := (rfl)

@[simp] theorem dropStreams_keeps {z : Stores} {s : State} (hk : Keeps z s.store) : Keeps z (s.dropStreams).store := by
  simp [State.dropStreams, hk]

@[simp] theorem imageSpill_store (s : State) : (s.imageSpill).store = s.store := by
  unfold State.imageSpill
  (repeat' split) <;> simp

@[simp] theorem emitLeave_keeps {z : Stores} {s : State} (status : Nat) (hk : Keeps z s.store) : Keeps z (s.emitLeave status).store := by
  unfold State.emitLeave
  exact emitIf_keeps _ _ _ _ _ _ _ _ (emitBeats_keeps _ (freezeRecord_keeps (freezeRecord_keeps hk)))

@[simp] theorem settleTask_keeps {z : Stores} {s : State} (hk : Keeps z s.store) : Keeps z (s.settleTask).store := by
  simp [State.settleTask, hk]

@[simp] theorem vacateAll_keeps {z : Stores} {s : State} (status : Nat) (hk : Keeps z s.store) : Keeps z (s.vacateAll status).store := by
  have hs : Keeps z s.settleTask.store := by simp [hk]
  unfold State.vacateAll
  simp only [focus_store]
  refine foldl_keeps (fun t i ht => ?_) _ hs
  rw [onCore_store]
  exact emitLeave_keeps status (dropStreams_keeps (by simp [ht]))

@[simp] theorem imageHome_store (s : State) (sp : Space) (k : TaskKey) (n : Nat) : (s.imageHome sp k n).2.store = s.store := by
  rw [State.imageHome]
  split <;> rfl

@[simp] theorem writeImage_keeps {z : Stores} {s : State} (m : Mapping) (bs : List Byte) (h : Keeps z s.store) :
    Keeps z (s.writeImage m bs).store := keeps_mem (s := s) h (patched_wf m.pa bs)

@[simp] theorem writeSlots_keeps {z : Stores} {s : State} (n : Node) (hk : Keeps z s.store) : Keeps z (s.writeSlots n).store := by
  unfold State.writeSlots
  split
  · split
    · exact hk
    · split
      · exact hk
      · exact foldl_keeps (fun t i ht => by simp [ht]) _ hk
  · exact hk

@[simp] theorem suspend_keeps {z : Stores} {s : State} (kind status : Nat) (migr : Bool) (hk : Keeps z s.store) :
    Keeps z (s.suspend kind status migr).store := by
  have ht : Keeps z s.settleTask.store := by simp [hk]
  unfold State.suspend
  generalize s.settleTask = t at ht ⊢
  dsimp only
  split
  · simp [ht]
  · next n _ =>
    have hu := fun size => imageHome_store t n.space n.key size
    generalize hx : t.imageHome n.space n.key _ = x
    have hx' : Keeps z x.2.store := by
      rw [← hx, hu]
      exact ht
    obtain ⟨home, u⟩ := x
    dsimp only
    generalize hv : State.setNode _ _ = v
    have hvk : Keeps z v.store := by
      rw [← hv]
      exact setNode_keeps _ (writeSlots_keeps _ (writeImage_keeps _ _ (vacateAll_keeps _ hx')))
    split <;> simp [hvk]

@[simp] theorem leaveWait_keeps {z : Stores} {s : State} (hk : Keeps z s.store) : Keeps z (s.leaveWait).store := by
  rw [State.leaveWait]
  split <;> simp [hk]

@[simp] theorem endTask_keeps {z : Stores} {s : State} (hk : Keeps z s.store) : Keeps z (s.endTask).store := by
  simp only [State.endTask]
  (repeat' split) <;> simp [hk]

@[simp] theorem commitComplete_keeps {z : Stores} {s : State} (hk : Keeps z s.store) : Keeps z (s.commitComplete).store := by
  simp only [State.commitComplete]
  (repeat' split) <;> simp [hk]

@[simp] theorem beginCommit_keeps {z : Stores} {s : State} (next : Phase) (hk : Keeps z s.store) : Keeps z (s.beginCommit next).store := by
  rw [State.beginCommit]
  split <;> simp [hk]

@[simp] theorem joinGang_store (s : State) (next : Phase) : (s.joinGang next).store = s.store := (rfl)

@[simp] theorem yieldNow_keeps {z : Stores} {s : State} (hk : Keeps z s.store) : Keeps z (s.yieldNow).store := by
  simp [State.yieldNow, hk]

@[simp] theorem drainEnd_keeps {z : Stores} {s : State} (hk : Keeps z s.store) : Keeps z (s.drainEnd).store := by
  simp only [State.drainEnd]
  (repeat' split) <;> simp [hk]

@[simp] theorem gangFault_store (s : State) (c : Core) : (s.gangFault c).store = s.store := (rfl)

@[simp] theorem gangSuspend_keeps {z : Stores} {s : State} (hk : Keeps z s.store) : Keeps z (s.gangSuspend).store := by
  simp only [State.gangSuspend]
  (repeat' split) <;> simp [hk]

@[simp] theorem flushWrites_keeps {z : Stores} {s : State} (hk : Keeps z s.store) : Keeps z (s.flushWrites).store := by
  unfold State.flushWrites
  exact foldl_keeps (fun s x h => by (repeat' split) <;> simp [h]) _ hk

@[simp] theorem barrierComplete_keeps {z : Stores} {s : State} (hk : Keeps z s.store) : Keeps z (s.barrierComplete).store := by
  unfold State.barrierComplete
  dsimp only
  (repeat' split) <;> simp +contextual [hk]

@[simp] theorem softStop_keeps {z : Stores} {s : State} (hk : Keeps z s.store) : Keeps z (s.softStop).store := by
  unfold State.softStop
  (repeat' split) <;> simp [hk]

@[simp] theorem hardStop_keeps {z : Stores} {s : State} (hk : Keeps z s.store) : Keeps z (s.hardStop).store := by
  simp only [State.hardStop]
  (repeat' split) <;> simp [hk]

@[simp] theorem saveEnergy_store (s : State) (id : Nat) : (s.saveEnergy id).store = s.store := by
  unfold State.saveEnergy
  (repeat' split) <;> simp

@[simp] theorem loadEnergy_store (s : State) (sp : Space) (id : Nat) : (s.loadEnergy sp id).store = s.store := by
  rw [State.loadEnergy]
  split <;> simp

@[simp] theorem placeSpm_keeps {z : Stores} {s : State} (n : Node) (base size : Nat) (h : Keeps z s.store) :
    Keeps z (s.placeSpm n base size).store := keeps_spm (s := s) h fun w => writeCells_wf (filter_wf w)

@[simp] theorem recountStreams_keeps {z : Stores} {s : State} (hk : Keeps z s.store) : Keeps z (s.recountStreams).store := by
  unfold State.recountStreams
  exact foldl_keeps (fun s x h => by (repeat' split) <;> simp [h]) _ hk

@[simp] theorem placeMember_keeps {z : Stores} {s : State} (n : Node) (p : Part) (id m : Nat) (hk : Keeps z s.store) :
    Keeps z (s.placeMember n p id m).store := by
  simp [State.placeMember, hk]

@[simp] theorem replayEnds_store (s : State) (n : Node) : (s.replayEnds n).store = s.store := by
  rw [State.replayEnds]
  split <;> simp

@[simp] theorem setL1_store (s : State) (n : Node) (cl : Nat) : (s.setL1 n cl).store = s.store := by
  rw [State.setL1]
  split <;> simp

@[simp] theorem placeNode_keeps {z : Stores} {s : State} (n : Node) (p : Part) (ids : List Nat) (hk : Keeps z s.store) :
    Keeps z (s.placeNode n p ids).store := by
  simp +contextual [State.placeNode, hk]

@[simp] theorem startNodeOn_keeps {z : Stores} {s : State} (n : Node) (p : Part) (ids : List Nat) (hk : Keeps z s.store) :
    Keeps z (s.startNodeOn n p ids).store := by
  rw [State.startNodeOn]
  split <;> simp [hk]

@[simp] theorem idleGives_keeps {z : Stores} {s : State} (id : Nat) (hk : Keeps z s.store) : Keeps z (s.idleGives id).store := by
  rw [State.idleGives]
  split <;> simp [hk]

@[simp] theorem taskPlace_keeps {z : Stores} {s : State} (id : Nat) (hk : Keeps z s.store) : Keeps z (s.taskPlace id).store := by
  unfold State.taskPlace
  dsimp only
  (repeat' split) <;> simp +contextual [hk]

/-! ### The operations of Sched.lean -/

@[simp] theorem setCluster_store (s : State) (k : Cluster) : (s.setCluster k).store = s.store := (rfl)

@[simp] theorem judge_store (s : State) (k : Cluster) : (s.judge k).store = s.store := by
  rw [State.judge]
  split <;> simp

@[simp] theorem judgeAll_store (s : State) : (s.judgeAll).store = s.store := by
  unfold State.judgeAll
  exact foldl_store (fun s x => by (repeat' split) <;> simp) _ _

@[simp] theorem chargePass_store (s : State) (sp : Space) (cl held : Nat) : (s.chargePass sp cl held).store = s.store := by
  rw [State.chargePass]
  split <;> rfl

@[simp] theorem emitSlice_keeps {z : Stores} {s : State} (cl : Nat) (old new : Option Space) (hk : Keeps z s.store) :
    Keeps z (s.emitSlice cl old new).store := by
  simp only [State.emitSlice]
  (repeat' split) <;> simp [hk]

@[simp] theorem saveCluster_store (s : State) (cl : Nat) : (s.saveCluster cl).store = s.store := by
  simp [State.saveCluster]

@[simp] theorem give_keeps {z : Stores} {s : State} (k : Cluster) (dest : Option Space) (hk : Keeps z s.store) :
    Keeps z (s.give k dest).store := by
  simp [State.give, hk]

@[simp] theorem sliceEnd_keeps {z : Stores} {s : State} (cl : Nat) (hk : Keeps z s.store) : Keeps z (s.sliceEnd cl).store := by
  simp only [State.sliceEnd]
  (repeat' split) <;> simp [hk]

@[simp] theorem tspanExpiry_store (s : State) (cl : Nat) : (s.tspanExpiry cl).store = s.store := by
  rw [State.tspanExpiry]
  split <;> simp

@[simp] theorem graceExpiry_store (s : State) (cl : Nat) : (s.graceExpiry cl).store = s.store := by
  rw [State.graceExpiry]
  split <;> simp

@[simp] theorem tenantDrained_keeps {z : Stores} {s : State} (cl : Nat) (hk : Keeps z s.store) : Keeps z (s.tenantDrained cl).store := by
  unfold State.tenantDrained
  (repeat' split) <;> simp [hk]

/-! ### The operations of Launch.lean -/

@[simp] theorem complete_keeps {z : Stores} {s : State} (sp : Space) (compl : Option Word) (c : Cmd) (d : Done) (hk :
    Keeps z s.store) : Keeps z (s.complete sp compl c d).store := by
  unfold State.complete
  (repeat' split) <;> simp [hk]

theorem needs_keeps {z : Stores} {s : State} (sp : Space) (va : Word) (n launch task start : Nat) (compl : Option Word) (hk :
    Keeps z s.store) : (s.needs sp va n launch task start compl).Keeps z fun _ => True := by
  unfold State.needs
  (repeat' split) <;> simp [hk]

theorem readLaunch_keeps {z : Stores} {s : State} (sp : Space) (bs : List Byte) (start : Nat) (hk :
    Keeps z s.store) : (s.readLaunch sp bs start).Keeps z fun _ => True := by
  unfold State.readLaunch
  dsimp only
  (repeat' split) <;> simp [hk]

@[simp] theorem heapMove_store (s : State) (part : Nat) (f : Nat → Nat) : (s.heapMove part f).store = s.store := (rfl)

@[simp] theorem evict_store (s : State) (b : Stub) : (s.evict b).store = s.store := by
  rw [State.evict]
  split <;> rfl

@[simp] theorem evictFor_store (s : State) (part need : Nat) : (s.evictFor part need).store = s.store := by
  unfold State.evictFor
  exact foldl_store (fun s x => by (repeat' split) <;> simp) _ _

@[simp] theorem holdObject_keeps {z : Stores} {s : State} (o : CodeObj) (hk : Keeps z s.store) : Keeps z (s.holdObject o).store := by
  unfold State.holdObject
  refine foldl_keeps (fun t e ht => by simp [ht]) _ ?_
  split
  · split
    · exact hk
    · refine foldl_keeps (fun t e ht => ?_) _ hk
      (repeat' split) <;> simp [ht]
  · exact hk

theorem needsAll_keeps {z : Stores} {s : State} (sp : Space) (base : Nat) (l : List Section) (launch task start : Nat)
    (compl : Option Word) (hk : Keeps z s.store) : (s.needsAll sp base l launch task start compl).Keeps z fun _ => True := by
  have hfold : ∀ (l : List Section) (x : Start Unit), x.Keeps z (fun _ => True) →
      (l.foldl (fun x e => x.bind fun _ => if e.size = 0 then .ok ()
        else s.needs sp (BitVec.ofNat 64 (base + e.off)) e.size launch task start compl) x).Keeps z fun _ => True := by
    intro l
    induction l with
    | nil => exact fun _ h => h
    | cons e l ih =>
      refine fun x hx => ih _ (start_bind_keeps hx fun _ _ => ?_)
      split
      · simp
      · exact needs_keeps _ _ _ _ _ _ _ hk
  exact hfold l _ trivial

theorem loadObject_keeps {z : Stores} {s : State} (sp : Space) (r : LaunchRec) (start : Nat) (hk :
    Keeps z s.store) : (s.loadObject sp r start).Keeps z fun t => Keeps z t.store := by
  have hneeds := fun va n => needs_keeps (s := s) sp va n 0 0 start (some r.compl) hk
  have hall := fun base l => needsAll_keeps (s := s) sp base l 0 0 start (some r.compl) hk
  unfold State.loadObject
  extract_lets compl no h base n size tab raw secs all
  refine start_bind_keeps (hneeds _ _) fun _ _ => ?_
  split
  · exact hk
  · split
    · exact hk
    · refine start_bind_keeps (hneeds _ _) fun _ _ => ?_
      split
      · exact hk
      · refine start_bind_keeps (hall _ _) fun _ _ => ?_
        split
        split
        · exact hk
        · split
          · simp
          · split
            · exact holdObject_keeps _ hk
            · extract_lets lack checked text rep
              clear_value rep
              refine start_bind_keeps (hall _ _) fun _ _ => ?_
              split
              · exact hk
              · split
                · exact holdObject_keeps _ hk
                · exact hk

theorem assignLaunch_keeps {z : Stores} {s : State} (sp : Space) (a : Word) (r : LaunchRec) (queue : Nat) (start : Nat) (hk :
    Keeps z s.store) : (s.assignLaunch sp a r queue start).Keeps z fun x => Keeps z x.2.store := by
  unfold State.assignLaunch
  split
  · exact hk
  · refine start_bind_keeps (p := fun _ => True) (needs_keeps _ _ _ _ _ _ _ ?_) fun _ _ => ?_
    · simp [hk]
    · simp [hk]

theorem prepareRoot_keeps {z : Stores} {s : State} (sp : Space) (r : LaunchRec) (id start i : Nat) (hk :
    Keeps z s.store) : (s.prepareRoot sp r id start i).Keeps z fun t => Keeps z t.store := by
  unfold State.prepareRoot
  extract_lets a compl t u bs task entry
  have ht : Keeps z t.store := poke_keeps _ _ _ hk
  have hu : Keeps z u.store := keeps_ite (poke_keeps _ _ _ ht) ht
  clear_value u
  refine start_bind_keeps (p := fun _ => True) (needs_keeps sp a 64 id 0 start compl hk) fun _ _ => ?_
  (repeat' split) <;> exact hu

theorem createRoot_keeps {z : Stores} {s : State} (sp : Space) (r : LaunchRec) (id start i : Nat) (hk :
    Keeps z s.store) : (s.createRoot sp r id start i).Keeps z fun t => Keeps z t.store := by
  unfold State.createRoot
  refine start_bind_keeps (needs_keeps _ _ _ _ _ _ _ hk) fun _ _ => ?_
  dsimp only
  split
  · exact hk
  · refine start_bind_keeps (needs_keeps _ _ _ _ _ _ _ hk) fun _ _ => ?_
    refine start_bind_keeps (needs_keeps _ _ _ _ _ _ _ hk) fun _ _ => ?_
    (repeat' split) <;> simp [hk]
    exact poke_keeps _ _ _ (poke_keeps _ _ _ (setEntry_keeps _ _ (by simp [hk])))

@[simp] theorem freeLineage_keeps {z : Stores} {s : State} (part launch : Nat) (hk : Keeps z s.store) :
    Keeps z (s.freeLineage part launch).store := by
  simp +contextual [State.freeLineage, hk]

@[simp] theorem registerRoots_store (s : State) (sp : Space) (r : LaunchRec) (id : Nat) : (s.registerRoots sp r id).store = s.store := by
  simp [State.registerRoots]

theorem startLaunch_keeps {z : Stores} {s : State} (sp : Space) (q : CmdQueue) (a : Word) (bs : List Byte) (start : Nat) (hk :
    Keeps z s.store) : (s.startLaunch sp q a bs start).Keeps z fun x => Keeps z x.2.2.store := by
  unfold State.startLaunch
  refine start_bind_keeps (readLaunch_keeps sp bs start hk) fun r _ => ?_
  refine start_bind_keeps (loadObject_keeps sp r start hk) fun t ht => ?_
  refine start_bind_keeps (assignLaunch_keeps sp a r q.id start ht) fun x hx => ?_
  refine start_bind_keeps (stepsTo_keeps (fun i t ht => prepareRoot_keeps sp r x.1 start i ht) r.nroot hx) fun u hu => ?_
  exact start_bind_keeps (stepsTo_keeps (fun i t ht => createRoot_keeps sp r x.1 start i ht) r.nhandle hu) fun v hv => hv

@[simp] theorem launchFrom_keeps {z : Stores} {s : State} (c : Cmd) (q : CmdQueue) (a : Word) (bs : List Byte) (hk :
    Keeps z s.store) : Keeps z (s.launchFrom c q a bs).store := by
  have hl := startLaunch_keeps q.space q a bs q.began hk
  unfold State.launchFrom
  dsimp only
  generalize s.startLaunch q.space q a bs q.began = x at hl ⊢
  cases x with
  | wait va => simp [hk]
  | refuse d c' t => simp [show Keeps z t.store from hl]
  | ok y => simp [show Keeps z y.2.2.store from hl]

@[simp] theorem launchStep_keeps {z : Stores} {s : State} (c : Cmd) (hk : Keeps z s.store) : Keeps z (s.launchStep c).store := by
  unfold State.launchStep
  split
  · exact hk
  · next q _ =>
    split
    · exact hk
    · dsimp only
      split
      · simp [hk]
      · have hn := needs_keeps q.space (BitVec.ofNat 64 (fieldNat c.body 0 8)) 128 0 0 q.began none hk
        generalize s.needs q.space (BitVec.ofNat 64 (fieldNat c.body 0 8)) 128 0 0 q.began none = x at hn ⊢
        cases x with
        | wait va => simp [hk]
        | refuse d c' t => simp [show Keeps z t.store from hn]
        | ok y => simp [hk]

@[simp] theorem freeImages_keeps {z : Stores} {s : State} (l : Launch) (hk : Keeps z s.store) : Keeps z (s.freeImages l).store := by
  simp +contextual [State.freeImages, hk]

@[simp] theorem forgetLaunch_keeps {z : Stores} {s : State} (l : Launch) (hk : Keeps z s.store) : Keeps z (s.forgetLaunch l).store := by
  simp [State.forgetLaunch, hk]

@[simp] theorem launchComplete_keeps {z : Stores} {s : State} (i : Nat) (hk : Keeps z s.store) : Keeps z (s.launchComplete i).store := by
  unfold State.launchComplete
  (repeat' split) <;> simp [hk]

@[simp] theorem faultStatus_keeps {z : Stores} {s : State} (k : TaskKey) (t : Trap) (hk : Keeps z s.store) :
    Keeps z (s.faultStatus k t).store := by
  simp [State.faultStatus, hk]

@[simp] theorem discardCore_keeps {z : Stores} {s : State} (status : Nat) (hk : Keeps z s.store) :
    Keeps z (s.discardCore status).store := by
  simp [State.discardCore, hk]

@[simp] theorem faultCore_keeps {z : Stores} {s : State} (r : TrapRec) (hk : Keeps z s.store) : Keeps z (s.faultCore r).store := by
  unfold State.faultCore
  exact discardCore_keeps _ (flushWrites_keeps (by simp [hk]))

@[simp] theorem launchFault_keeps {z : Stores} {s : State} (hk : Keeps z s.store) : Keeps z (s.launchFault).store := by
  unfold State.launchFault
  split
  · split <;> simp [hk]
  · split
    · split <;> simp [hk]
    · split
      · simp [hk]
      · split
        · split
          · exact complete_keeps _ _ _ _ (forgetLaunch_keeps _ (by split <;> simp [hk]))
          · exact hk
        · exact hk

@[simp] theorem dropStart_keeps {z : Stores} {s : State} (q : CmdQueue) (code : Nat) (hk : Keeps z s.store) :
    Keeps z (s.dropStart q code).store := by
  rw [State.dropStart]
  split <;> simp [hk]

@[simp] theorem dropLaunches_keeps {z : Stores} {s : State} (part : Nat) (expired : List Nat) (hk : Keeps z s.store) :
    Keeps z (s.dropLaunches part expired).store := by
  unfold State.dropLaunches
  refine foldl_keeps (fun t q ht => by simp [ht]) _ ?_
  exact foldl_keeps (fun t l ht => complete_keeps _ _ _ _ (forgetLaunch_keeps l ht)) _ hk

/-! ### The operations of HostCmd.lean -/

@[simp] theorem copyCmd_store (s : State) (c : Cmd) : (s.copyCmd c).store = s.store := by
  unfold State.copyCmd
  (repeat' split) <;> simp

@[simp] theorem failVariable_store (s : State) (c : Cmd) (x : Trap ⊕ Nat) : (s.failVariable c x).store = s.store := by
  unfold State.failVariable
  (repeat' split) <;> simp

@[simp] theorem waitCmd_store (s : State) (c : Cmd) : (s.waitCmd c).store = s.store := by
  rw [State.waitCmd]
  split <;> simp

@[simp] theorem signalCmd_keeps {z : Stores} {s : State} (c : Cmd) (hk : Keeps z s.store) : Keeps z (s.signalCmd c).store := by
  rw [State.signalCmd]
  split <;> simp [hk]

theorem actNow_keeps {z : Stores} {s : State} (c : Cmd) (bad : Bool) {act : State → Cmd → State} (hk : Keeps z s.store)
    (ha : ∀ t : State, Keeps z t.store → Keeps z (act t c).store) : Keeps z (s.actNow c bad act).store := by
  unfold State.actNow
  split
  · simp [hk]
  · split
    · exact hk
    · simp [hk]
    · split
      · simp [hk]
      · exact ha _ (by simp [hk])

@[simp] theorem ackResize_store (s : State) (c : Cmd) : (s.ackResize c).store = s.store := by
  simp only [State.ackResize]
  (repeat' split) <;> simp

theorem nameFrame_keeps {z : Stores} {s : State} (r : MapReq) (part pa : Nat) (hk : Keeps z s.store) :
    KeepsOption z id (s.nameFrame r part pa) := by
  unfold State.nameFrame
  dsimp only
  (repeat' split) <;> simp [hk]
  exact foldl_keeps (fun t f ht => zeroFrame_keeps _ _ ht) _ hk

theorem takeFrame_keeps {z : Stores} {s : State} (r : MapReq) (p : Part) (hk : Keeps z s.store) :
    KeepsOption z Prod.snd (s.takeFrame r p) := by
  unfold State.takeFrame
  split
  · have hf := freeFrame_store s (r.half p) (r.half p + Config.syncHalf) r.size
    generalize s.freeFrame (r.half p) (r.half p + Config.syncHalf) r.size = x at hf
    obtain ⟨_ | pa, t⟩ := x
    · simp
    · simpa using zeroFrame_keeps pa r.size (hf ▸ hk)
  · exact newFrame_keeps _ _ _ hk

theorem mapPage_keeps {z : Stores} {s : State} (r : MapReq) (sp : Space) (i : Nat) (hk : Keeps z s.store) :
    KeepsOption z id (s.mapPage r sp i) := by
  unfold State.mapPage
  split
  · simp
  · next p _ =>
    split
    · split
      · have hf := takeFrame_keeps r p hk
        generalize s.takeFrame r p = x at hf ⊢
        cases x <;> simp_all
      · simp [hk]
    · have hn := nameFrame_keeps r sp.part (r.pa + i * r.size) hk
      generalize s.nameFrame r sp.part (r.pa + i * r.size) = x at hn ⊢
      cases x <;> simp_all

theorem mapPages_keeps {z : Stores} {s : State} (r : MapReq) (sp : Space) (n : Nat) (hk : Keeps z s.store) :
    KeepsOption z id (s.mapPages r sp n) := by
  induction n with
  | zero => exact keepsOption_some.2 hk
  | succ n ih =>
    rw [State.mapPages]
    generalize s.mapPages r sp n = x at ih ⊢
    cases x with
    | none => simp
    | some t => exact mapPage_keeps r sp n (ih t rfl)

@[simp] theorem mapCmd_keeps {z : Stores} {s : State} (c : Cmd) (hk : Keeps z s.store) : Keeps z (s.mapCmd c).store := by
  have hm := mapPages_keeps (mapReq c.body) (s.spaceOf c) ((mapReq c.body).len / (mapReq c.body).size) hk
  unfold State.mapCmd
  dsimp only
  generalize s.mapPages (mapReq c.body) (s.spaceOf c) ((mapReq c.body).len / (mapReq c.body).size) = x at hm
  split
  · next t ht =>
    split at ht
    · subst ht
      simp [show Keeps z t.store from hm t rfl]
    · exact nomatch ht
  · simp [hk]

@[simp] theorem unmapCmd_keeps {z : Stores} {s : State} (c : Cmd) (hk : Keeps z s.store) : Keeps z (s.unmapCmd c).store := by
  unfold State.unmapCmd
  dsimp only
  (repeat' split) <;> simp +contextual [hk]

/-! ### The operations of Mgmt.lean -/

theorem settle_keeps {z : Stores} {s : State} (c : Cmd) {r : Option State} (hk : Keeps z s.store) (hr : KeepsOption z id r) :
    Keeps z (s.settle c r).store := by
  cases r with
  | none => simp [State.settle, hk]
  | some t => simp [State.settle, show Keeps z t.store from hr t rfl]

@[simp] theorem scrubCluster_keeps {z : Stores} {s : State} (cl : Nat) (h : Keeps z s.store) : Keeps z (s.scrubCluster cl).store :=
  keeps_spm (s := s) h filter_wf

@[simp] theorem addClusters_store (s : State) (m : BitVec 16) : (s.addClusters m).store = s.store := (rfl)

theorem partCreate_keeps {z : Stores} {s : State} (bs : List Byte) (hk : Keeps z s.store) : KeepsOption z id (s.partCreate bs) := by
  unfold State.partCreate
  dsimp only
  split
  · simp only [keepsOption_some, id, addClusters_store]
    exact foldl_keeps (fun t c ht => scrubCluster_keeps c ht) _ hk
  · simp

@[simp] theorem partResize_store (s : State) (c : Cmd) : (s.partResize c).store = s.store := by
  unfold State.partResize
  (repeat' split) <;> simp

@[simp] theorem resizeApply_keeps {z : Stores} {s : State} (id : Nat) (hk : Keeps z s.store) : Keeps z (s.resizeApply id).store := by
  unfold State.resizeApply
  dsimp only
  (repeat' split) <;> simp +contextual [hk]

@[simp] theorem discardCmds_store (s : State) (q : CmdQueue) : (s.discardCmds q).store = s.store := by
  unfold State.discardCmds
  exact foldl_store (fun s x => by simp) _ _

@[simp] theorem answerAll_keeps {z : Stores} {s : State} (id : Nat) (hk : Keeps z s.store) : Keeps z (s.answerAll id).store := by
  simp [State.answerAll, hk]

@[simp] theorem partDestroy_keeps {z : Stores} {s : State} (p : Part) (hk : Keeps z s.store) : Keeps z (s.partDestroy p).store := by
  unfold State.partDestroy
  extract_lets id out t u v mine again
  have ht : Keeps z t.store := answerAll_keeps _ hk
  have hu : Keeps z u.store := foldl_keeps (fun t m ht => zeroFrame_keeps _ _ ht) _ ht
  have hv : Keeps z v.store := by
    simp only [v, dropPart_store]
    exact foldl_keeps (fun t c ht => scrubCluster_keeps c ht) _ hu
  exact hv

@[simp] theorem partDestroyCmd_keeps {z : Stores} {s : State} (c : Cmd) (hk : Keeps z s.store) : Keeps z (s.partDestroyCmd c).store := by
  simp only [State.partDestroyCmd]
  (repeat' split) <;> simp [hk]

theorem vdevCreate_keeps {z : Stores} {s : State} (bs : List Byte) (hk : Keeps z s.store) : KeepsOption z id (s.vdevCreate bs) := by
  unfold State.vdevCreate
  dsimp only
  (repeat' split) <;> simp [hk]

@[simp] theorem tenantEvent_store (s : State) (sp : Space) (ev : Nat) : (s.tenantEvent sp ev).store = s.store := by
  rw [State.tenantEvent]
  split <;> simp

@[simp] theorem vdevMove_store (s : State) (sp : Space) (on : Bool) (tickets : Nat) : (s.vdevMove sp on tickets).store = s.store := by
  simp only [State.vdevMove]
  (repeat' split) <;> simp

@[simp] theorem vdevSet_store (s : State) (c : Cmd) : (s.vdevSet c).store = s.store := by
  rw [State.vdevSet]
  split <;> simp

@[simp] theorem tenantDisabled_store (s : State) (sp : Space) : (s.tenantDisabled sp).store = s.store := by
  unfold State.tenantDisabled
  (repeat' split) <;> simp

theorem queueCreate_keeps {z : Stores} {s : State} (bs : List Byte) (hk : Keeps z s.store) : KeepsOption z id (s.queueCreate bs) := by
  unfold State.queueCreate
  dsimp only
  (repeat' split) <;> simp [hk]

theorem queueDestroy_keeps {z : Stores} {s : State} (bs : List Byte) (hk : Keeps z s.store) : KeepsOption z id (s.queueDestroy bs) := by
  unfold State.queueDestroy
  (repeat' split) <;> simp [hk]

theorem queueReset_keeps {z : Stores} {s : State} (bs : List Byte) (hk : Keeps z s.store) : KeepsOption z id (s.queueReset bs) := by
  unfold State.queueReset
  (repeat' split) <;> simp [hk]

@[simp] theorem mapEnergies_store (s : State) (sp : Space) (f : Energy → Energy) : (s.mapEnergies sp f).store = s.store := (rfl)

@[simp] theorem energyCmd_keeps {z : Stores} {s : State} (c : Cmd) (hk : Keeps z s.store) : Keeps z (s.energyCmd c).store := by
  simp only [State.energyCmd]
  (repeat' split) <;> simp [hk]

@[simp] theorem summary_keeps {z : Stores} {s : State} (c : Cmd) (hk : Keeps z s.store) : Keeps z (s.summary c).store := by
  simp [State.summary, hk]

@[simp] theorem attest_keeps {z : Stores} {s : State} (c : Cmd) (hk : Keeps z s.store) : Keeps z (s.attest c).store := by
  simp only [State.attest]
  (repeat' split) <;> simp [hk]

theorem alarmSet_keeps {z : Stores} {s : State} (bs : List Byte) (hk : Keeps z s.store) : KeepsOption z id (s.alarmSet bs) := by
  unfold State.alarmSet
  dsimp only
  (repeat' split) <;> simp [hk]

/-! ### The operations of Faults.lean -/

@[simp] theorem discardPart_keeps {z : Stores} {s : State} (part : Nat) (hk : Keeps z s.store) : Keeps z (s.discardPart part).store := by
  simp +contextual [State.discardPart, hk]

@[simp] theorem dropWait_store (s : State) (q : CmdQueue) : (s.dropWait q).store = s.store := by
  rw [State.dropWait]
  split <;> simp

@[simp] theorem haltCluster_keeps {z : Stores} {s : State} (cl : Nat) (hk : Keeps z s.store) : Keeps z (s.haltCluster cl).store := by
  unfold State.haltCluster
  (repeat' split) <;> simp [hk]

@[simp] theorem stopPart_keeps {z : Stores} {s : State} (p : Part) (hk : Keeps z s.store) : Keeps z (s.stopPart p).store := by
  simp +contextual [State.stopPart, hk]

@[simp] theorem endPart_keeps {z : Stores} {s : State} (p : Part) (expired : List Nat) (hk : Keeps z s.store) :
    Keeps z (s.endPart p expired).store := by
  simp +contextual [State.endPart, hk]

@[simp] theorem resetPart_keeps {z : Stores} {s : State} (p : Part) (expired : List Nat) (hk : Keeps z s.store) :
    Keeps z (s.resetPart p expired).store := by
  simp [State.resetPart, hk]

@[simp] theorem wipeWith_store (s : State) (p : Part) (t0 : Nat) (old new : List Nat) : (s.wipeWith p t0 old new).store = s.store := by
  simp [State.wipeWith]

@[simp] theorem wipeEnd_keeps {z : Stores} {s : State} (p : Part) (ids : List Nat) (hk : Keeps z s.store) :
    Keeps z (s.wipeEnd p ids).store := by
  simp [State.wipeEnd, hk]

@[simp] theorem watchdog_keeps {z : Stores} {s : State} (part q : Nat) (hk : Keeps z s.store) : Keeps z (s.watchdog part q).store := by
  unfold State.watchdog
  (repeat' split) <;> simp [hk]

@[simp] theorem emitStopped_keeps {z : Stores} {s : State} (t : Trace) (hk : Keeps z s.store) : Keeps z (s.emitStopped t).store := by
  simp +contextual [State.emitStopped, hk]

@[simp] theorem stopModule_keeps {z : Stores} {s : State} (hk : Keeps z s.store) : Keeps z (s.stopModule).store := by
  unfold State.stopModule
  split
  · exact foldl_keeps (fun t r ht => emitStopped_keeps r ht) _ hk
  · exact hk

theorem eraseModule_keeps {z : Stores} (s : State) : Keeps z s.eraseModule.store := ⟨fun _ => rfl, fun _ => rfl, fun _ => rfl⟩

@[simp] theorem alarm_keeps {z : Stores} {s : State} (a : AlarmSource) (hk : Keeps z s.store) : Keeps z (s.alarm a).store := by
  unfold State.alarm
  extract_lets src t u
  have hu : Keeps z u.store := by simp [u, t, src, hk]
  clear_value u
  split
  · exact hu
  · split
    · exact hu
    · exact stopModule_keeps hu
    · exact eraseModule_keeps u

theorem broughtUp_keeps {z : Stores} (s : State) : Keeps z s.broughtUp.store := ⟨fun _ => rfl, fun _ => rfl, fun _ => rfl⟩

@[simp] theorem bringUp_keeps {z : Stores} {s : State} (hk : Keeps z s.store) : Keeps z (s.bringUp).store := by
  have hb := broughtUp_keeps (z := z) (s.pickAny 2).2
  simp only [State.bringUp]
  split
  · simp [hb]
  · exact hb

@[simp] theorem poisonLine_store (s : State) (line : Nat) : (s.poisonLine line).store = s.store := (rfl)

@[simp] theorem dropEntryAt_store (s : State) (a : Nat) : (s.dropEntryAt a).store = s.store := by
  unfold State.dropEntryAt
  (repeat' split) <;> simp

@[simp] theorem poisonSram_store (s : State) (a : Nat) : (s.poisonSram a).store = s.store := by
  unfold State.poisonSram
  (repeat' split) <;> simp

@[simp] theorem onRepair_store (s : State) (i : Nat) (f : Repair → Repair) : (s.onRepair i f).store = s.store := (rfl)

@[simp] theorem dramError_store (s : State) (pa : Nat) (fatal : Bool) : (s.dramError pa fatal).store = s.store := by
  rw [State.dramError]
  split <;> simp

@[simp] theorem retire_store (s : State) (stack : Nat) (m : Mapping) : (s.retire stack m).store = s.store := (rfl)

@[simp] theorem pageRetire_keeps {z : Stores} {s : State} (stack : Nat) (sp : Space) (va newPa : Nat) (hk : Keeps z s.store) :
    Keeps z (s.pageRetire stack sp va newPa).store := by
  rw [State.pageRetire]
  split <;> simp [hk]

/-! ### The operations of Debug.lean -/

@[simp] theorem armCores_store (s : State) (sp : Space) : (s.armCores sp).store = s.store := (rfl)

@[simp] theorem arm_store (s : State) (c : Cmd) : (s.arm c).store = s.store := by
  simp only [State.arm]
  (repeat' split) <;> simp

@[simp] theorem dbgStop_store (s : State) (c : Cmd) : (s.dbgStop c).store = s.store := by
  rw [State.dbgStop]
  split <;> simp

@[simp] theorem appendDump_keeps {z : Stores} {s : State} (a : DbgArm) (cause : BitVec 2) (bp stamp : Nat) (hk :
    Keeps z s.store) : Keeps z (s.appendDump a cause bp stamp).store := by
  simp [State.appendDump, hk]

@[simp] theorem dumpDue_keeps {z : Stores} {s : State} (hk : Keeps z s.store) : Keeps z (s.dumpDue).store := by
  simp only [State.dumpDue]
  (repeat' split) <;> simp [hk]

@[simp] theorem debugStop_keeps {z : Stores} {s : State} (cause : BitVec 2) (hk : Keeps z s.store) : Keeps z (s.debugStop cause).store := by
  unfold State.debugStop
  (repeat' split) <;> simp [hk]

@[simp] theorem putHeld_keeps {z : Stores} {s : State} (k : Held) (h : Keeps z s.store) : Keeps z (s.putHeld k).store :=
  keeps_spm (s := s) h fun w => writeCells_wf (filter_wf w)

@[simp] theorem resumeHere_store (s : State) (step : Nat) : (s.resumeHere step).store = s.store := (rfl)

@[simp] theorem release_keeps {z : Stores} {s : State} (step : Nat) (t : Target) (hk : Keeps z s.store) :
    Keeps z (s.release step t).store := by
  unfold State.release
  (repeat' split) <;> simp [hk]

theorem releaseEdited_keeps {z : Stores} {s : State} (step : Nat) (t : Target) (bs : List Byte) (hk : Keeps z s.store) :
    KeepsOption z id (s.releaseEdited step t bs) := by
  unfold State.releaseEdited
  split
  · dsimp only
    split <;> simp [hk]
  · split <;> simp [hk]

@[simp] theorem dbgResume_keeps {z : Stores} {s : State} (c : Cmd) (hk : Keeps z s.store) : Keeps z (s.dbgResume c).store := by
  unfold State.dbgResume
  extract_lets sp step va ts
  clear_value ts
  split
  · simp [hk]
  · split
    · split
      · simp [hk]
      · simp only [finish_store]
        exact foldl_keeps (fun t x ht => by simp [ht]) _ hk
    · split
      · next t =>
        split
        · simp [hk]
        · simp [hk]
        · split
          · simp [hk]
          · simp [hk]
          · have hr := fun bs => releaseEdited_keeps step t bs hk
            generalize hx : s.releaseEdited step t _ = x
            cases x with
            | none => simp [hk]
            | some u => simp [show Keeps z u.store from hr _ u hx]
      · simp [hk]

/-! ### The operations of Replay.lean -/

@[simp] theorem traceCmd_keeps {z : Stores} {s : State} (c : Cmd) (hk : Keeps z s.store) : Keeps z (s.traceCmd c).store := by
  simp only [State.traceCmd]
  (repeat' split) <;> simp [hk]

@[simp] theorem countersCmd_keeps {z : Stores} {s : State} (c : Cmd) (hk : Keeps z s.store) : Keeps z (s.countersCmd c).store := by
  simp only [State.countersCmd]
  (repeat' split) <;> simp [hk]

@[simp] theorem headAdvance_keeps {z : Stores} {s : State} (sp : Space) (hk : Keeps z s.store) : Keeps z (s.headAdvance sp).store := by
  unfold State.headAdvance
  (repeat' split) <;> simp [hk]

@[simp] theorem lostRecord_keeps {z : Stores} {s : State} (part : Nat) (hk : Keeps z s.store) : Keeps z (s.lostRecord part).store := by
  simp +contextual [State.lostRecord, hk]

@[simp] theorem checkpoint_keeps {z : Stores} {s : State} (part : Nat) (hk : Keeps z s.store) : Keeps z (s.checkpoint part).store := by
  simp only [State.checkpoint]
  (repeat' split) <;> simp [hk]

@[simp] theorem restore_keeps {z : Stores} {s : State} (p : Part) (k : Checkpoint) (h : Keeps z s.store) :
    Keeps z (s.restore p k).store :=
  ⟨fun w => writeCells_wf (filter_wf (h.1 w)), fun w => writeCells_wf (filter_wf (h.2.1 w)), fun w =>
    foldl_above (fun _ e w => assocSet_above w fun _ hl => nomatch hl) _ (foldl_above (fun _ i w => assocSet_above w fun _ hl => nomatch hl) _ (h.2.2 w))⟩

@[simp] theorem putReplay_store (s : State) (r : Replay) : (s.putReplay r).store = s.store := (rfl)

@[simp] theorem endReplay_keeps {z : Stores} {s : State} (p : Part) (hk : Keeps z s.store) : Keeps z (s.endReplay p).store := by
  simp [State.endReplay, hk]

theorem startReplay_keeps {z : Stores} {s : State} (p : Part) (mode ckpt : Nat) (hk : Keeps z s.store) :
    KeepsOption z id (s.startReplay p mode ckpt) := by
  unfold State.startReplay
  split
  · simp [hk]
  · simp

@[simp] theorem replayCmd_keeps {z : Stores} {s : State} (c : Cmd) (hk : Keeps z s.store) : Keeps z (s.replayCmd c).store := by
  unfold State.replayCmd
  extract_lets b mode period
  split
  · simp [hk]
  · next p _ =>
    split
    · simp [hk]
    · split
      · simp [hk]
      · split
        · split
          · simp [hk]
          · split <;> simp [hk]
          · simp [hk]
        · have hr := startReplay_keeps p mode (fieldNat b 8 4) hk
          generalize s.startReplay p mode (fieldNat b 8 4) = x at hr ⊢
          cases x with
          | none => simp [hk]
          | some t => simp [show Keeps z t.store from hr t rfl]

theorem answer_keeps {z : Stores} {s : State} (part : Nat) (bs : List Byte) (hk : Keeps z s.store) :
    KeepsOption z id (s.answer part bs) := by
  unfold State.answer
  dsimp only
  split
  · generalize List.find? _ s.peers = x
    cases x <;> simp [hk]
  · generalize List.find? _ s.peers = x
    cases x with
    | none => simp
    | some p => simp [hk]
  · generalize arrivalOf part bs = x
    cases x <;> simp [hk]

@[simp] theorem retrieverLog_store (s : State) (part kind val : Nat) (bs : List Byte) :
    (s.retrieverLog part kind val bs).store = s.store := by
  rw [State.retrieverLog]
  split <;> simp

@[simp] theorem logArrival_store (s : State) (i : Instr) : (s.logArrival i).store = s.store := by
  rw [State.logArrival]
  split <;> simp

@[simp] theorem inject_keeps {z : Stores} {s : State} (part : Nat) (port : BitVec 4) (bs : List Byte) (hk : Keeps z s.store) :
    Keeps z (s.inject part port bs).store := by
  unfold State.inject
  split
  · exact hk
  · next r _ =>
    split
    · next e rest _ =>
      split
      · have ha := answer_keeps (z := z) (s := s.setReplay { r with log := rest }) part bs (by simp [hk])
        dsimp only
        generalize (s.setReplay { r with log := rest }).answer part bs = x at ha
        cases x with
        | none => simp [hk]
        | some t => exact ha t rfl
      · exact hk
    · exact hk

/-! ### The operations of Bodies.lean -/

theorem heapBacked_keeps {z : Stores} {s : State} (sp : Space) (va : Nat) (hk : Keeps z s.store) :
    KeepsOption z id (s.heapBacked sp va) := by
  have hf := freeFrame_store s 0 hbmSize 65536
  unfold State.heapBacked
  generalize s.freeFrame 0 hbmSize 65536 = r at hf
  obtain ⟨_ | pa, t⟩ := r
  · simp
  · exact keepsOption_some.2 (zeroFrame_keeps pa 65536 (hf ▸ hk))

theorem heapPages_keeps {z : Stores} {s : State} (b : Stub) (n va : Nat) (hk : Keeps z s.store) :
    KeepsOption z id (s.heapPages b n va) := by
  have hfold : ∀ (l : List Nat) (x : Option State), KeepsOption z id x →
      KeepsOption z id (l.foldl (fun x k => x.bind fun s => s.heapBacked b.space (va + 65536 * k)) x) := by
    intro l
    induction l with
    | nil => exact fun _ h => h
    | cons k l ih =>
      intro x hx
      refine ih _ ?_
      cases x with
      | none => simp
      | some t =>
        simp only [Option.bind_some]
        exact heapBacked_keeps b.space (va + 65536 * k) (hx t rfl)
  exact hfold _ _ (heapBacked_keeps b.space _ hk)

@[simp] theorem publish_keeps {z : Stores} {s : State} (b : Stub) (body : List Byte) (va : Nat) (hk : Keeps z s.store) :
    Keeps z (s.publish b body va).store := by
  simp [State.publish, hk]

@[simp] theorem bodyPublish_keeps {z : Stores} {s : State} (sp : Space) (stub : Nat) (body : List Byte) (hk : Keeps z s.store) :
    Keeps z (s.bodyPublish sp stub body).store := by
  unfold State.bodyPublish
  split
  · next b p _ _ =>
    split
    · exact hk
    · next c _ =>
      split
      · exact hk
      · have he : Keeps z (s.evictFor p.id body.length).store := by simp [hk]
        generalize s.evictFor p.id body.length = t at he ⊢
        extract_lets t' used u n
        split
        · simp [u, t', he]
        · split
          · next va _ =>
            have hh := heapPages_keeps b n va (s := t') he
            generalize t'.heapPages b n va = x at hh ⊢
            cases x with
            | none => exact he
            | some v => exact publish_keeps _ _ _ (hh v rfl)
          · exact he
  · exact hk

/-! ### The operations of Scalar.lean -/

@[simp] theorem rdsys_store (s : State) (u : Bool) (d : BitVec 6) (idx : BitVec 8) : (s.rdsys u d idx).store = s.store := by
  rw [State.rdsys]
  split <;> simp

/-! ### The operations of Next.lean -/

@[simp] theorem takeInbox_store (s : State) (i : Instr) : (s.takeInbox i).store = s.store := by
  rw [State.takeInbox]
  split <;> simp

@[simp] theorem chosen_store (s : State) (w : Nat × Instr) : (s.chosen w).2.store = s.store := by
  rw [State.chosen]
  split <;> simp

@[simp] theorem nextEvent_store (s : State) : (s.nextEvent).2.store = s.store := by
  simp only [State.nextEvent]
  (repeat' split) <;> simp

/-! ### The events -/

theorem execBodyPublish_keeps {z : Stores} {s : State} (sp : Space) (stub : Nat) (body : List Byte) (hk : Keeps z s.store) :
    KeepsNext z (execBodyPublish sp stub body s) := by
  simp [execBodyPublish, hk]

theorem execWaitvSatisfied_keeps {z : Stores} {s : State} (k : Nat) (hk : Keeps z s.store) : KeepsNext z (execWaitvSatisfied k s) := by
  unfold execWaitvSatisfied
  (repeat' split) <;> simp [hk]

theorem execHandleDepositWake_keeps {z : Stores} {s : State} (pa : Nat) (hk : Keeps z s.store) :
    KeepsNext z (execHandleDepositWake pa s) := by
  simp [execHandleDepositWake, hk]

theorem execTfRowArrival_keeps {z : Stores} {s : State} (q : BitVec 2) (hk : Keeps z s.store) : KeepsNext z (execTfRowArrival q s) := by
  simp [execTfRowArrival, hk]

theorem execEntryPerform_keeps {z : Stores} {s : State} (k : Nat) (hk : Keeps z s.store) : KeepsNext z (execEntryPerform k s) := by
  simp [execEntryPerform, hk]

theorem execCopyPerform_keeps {z : Stores} {s : State} (q : Nat) (hk : Keeps z s.store) : KeepsNext z (execCopyPerform q s) := by
  unfold execCopyPerform
  (repeat' split) <;> simp [hk]

theorem execQfenceLeave_keeps {z : Stores} {s : State} (q : BitVec 3) (hk : Keeps z s.store) : KeepsNext z (execQfenceLeave q s) := by
  simp [execQfenceLeave, hk]

theorem execCommitLine_keeps {z : Stores} {s : State} (k : Nat) (hk : Keeps z s.store) : KeepsNext z (execCommitLine k s) := by
  simp [execCommitLine, hk]

theorem execPageWalk_keeps {z : Stores} {s : State} (sp : Space) (va : BitVec 64) (hk : Keeps z s.store) :
    KeepsNext z (execPageWalk sp va s) := by
  simp [execPageWalk, hk]

theorem execPageIn_keeps {z : Stores} {s : State} (sp : Space) (va : BitVec 64) (hk : Keeps z s.store) :
    KeepsNext z (execPageIn sp va s) := by
  simp [execPageIn, hk]

theorem execShootdown_keeps {z : Stores} {s : State} (sp : Space) (va : BitVec 64) (newPa : Option Nat) (hk : Keeps z s.store) :
    KeepsNext z (execShootdown sp va newPa s) := by
  simp [execShootdown, hk]

theorem execPinDropTimeout_keeps {z : Stores} {s : State} (q : BitVec 2) (hk : Keeps z s.store) : KeepsNext z (execPinDropTimeout q s) := by
  simp [execPinDropTimeout, hk]

theorem execNodeFinish_keeps {z : Stores} {s : State} (k : Nat) (hk : Keeps z s.store) : KeepsNext z (execNodeFinish k s) := by
  unfold execNodeFinish
  (repeat' split) <;> simp [hk]

theorem execTaskPlace_keeps {z : Stores} {s : State} (core : Nat) (hk : Keeps z s.store) : KeepsNext z (execTaskPlace core s) := by
  simp [execTaskPlace, hk]

theorem execLaunchComplete_keeps {z : Stores} {s : State} (l : Nat) (hk : Keeps z s.store) : KeepsNext z (execLaunchComplete l s) := by
  simp [execLaunchComplete, hk]

theorem execSliceEnd_keeps {z : Stores} {s : State} (cl : Nat) (hk : Keeps z s.store) : KeepsNext z (execSliceEnd cl s) := by
  simp [execSliceEnd, hk]

theorem execTspanExpiry_keeps {z : Stores} {s : State} (cl : Nat) (hk : Keeps z s.store) : KeepsNext z (execTspanExpiry cl s) := by
  simp [execTspanExpiry, hk]

theorem execGraceExpiry_keeps {z : Stores} {s : State} (cl : Nat) (hk : Keeps z s.store) : KeepsNext z (execGraceExpiry cl s) := by
  simp [execGraceExpiry, hk]

theorem execTenantDrained_keeps {z : Stores} {s : State} (cl : Nat) (hk : Keeps z s.store) : KeepsNext z (execTenantDrained cl s) := by
  simp [execTenantDrained, hk]

theorem execLaunch_keeps {z : Stores} {s : State} (c : Cmd) (hk : Keeps z s.store) : KeepsNext z (execLaunch c s) := by
  rw [execLaunch, keepsNext_next]
  exact command_keeps c _ _ _ hk fun t ht => by simp [ht]

theorem execCopy_keeps {z : Stores} {s : State} (c : Cmd) (hk : Keeps z s.store) : KeepsNext z (execCopy c s) := by
  rw [execCopy, keepsNext_next]
  exact command_keeps c _ _ _ hk fun t ht => by simp [ht]

theorem execWaitevent_keeps {z : Stores} {s : State} (c : Cmd) (hk : Keeps z s.store) : KeepsNext z (execWaitevent c s) := by
  rw [execWaitevent, keepsNext_next]
  exact command_keeps c _ _ _ hk fun t ht => by simp [ht]

theorem execSignalevent_keeps {z : Stores} {s : State} (c : Cmd) (hk : Keeps z s.store) : KeepsNext z (execSignalevent c s) := by
  rw [execSignalevent, keepsNext_next]
  exact command_keeps c _ _ _ hk fun t ht => by simp [ht]

theorem execResizeack_keeps {z : Stores} {s : State} (c : Cmd) (hk : Keeps z s.store) : KeepsNext z (execResizeack c s) := by
  rw [execResizeack, keepsNext_next]
  split
  · exact actNow_keeps c _ hk fun t ht => by simp [ht]
  · exact hk

theorem execMap_keeps {z : Stores} {s : State} (c : Cmd) (hk : Keeps z s.store) : KeepsNext z (execMap c s) := by
  rw [execMap, keepsNext_next]
  exact command_keeps c _ _ _ hk fun t ht => by simp [ht]

theorem execUnmap_keeps {z : Stores} {s : State} (c : Cmd) (hk : Keeps z s.store) : KeepsNext z (execUnmap c s) := by
  rw [execUnmap, keepsNext_next]
  exact command_keeps c _ _ _ hk fun t ht => by simp [ht]

theorem execHostUetWrite_keeps {z : Stores} {s : State} (sp : Space) (va : BitVec 64) (bytes : List Byte) (tag : UetTag) (hk :
    Keeps z s.store) : KeepsNext z (execHostUetWrite sp va bytes tag s) := by
  unfold execHostUetWrite
  (repeat' split) <;> simp [hk]

theorem execHostUetRead_keeps {z : Stores} {s : State} (sp : Space) (va : BitVec 64) (n : Nat) (tag : UetTag) (hk :
    Keeps z s.store) : KeepsNext z (execHostUetRead sp va n tag s) := by
  unfold execHostUetRead
  (repeat' split) <;> simp [hk]

theorem execPeerArrival_keeps {z : Stores} {s : State} (sp : Space) (va : BitVec 64) (n : BitVec 24) (hk : Keeps z s.store) :
    KeepsNext z (execPeerArrival sp va n s) := by
  unfold execPeerArrival
  (repeat' split) <;> simp [hk]

theorem execPartcreate_keeps {z : Stores} {s : State} (c : Cmd) (hk : Keeps z s.store) : KeepsNext z (execPartcreate c s) := by
  rw [execPartcreate, keepsNext_next]
  exact command_keeps c _ _ _ hk fun t ht => settle_keeps c ht (partCreate_keeps _ ht)

theorem execPartresize_keeps {z : Stores} {s : State} (c : Cmd) (hk : Keeps z s.store) : KeepsNext z (execPartresize c s) := by
  rw [execPartresize, keepsNext_next]
  exact command_keeps c _ _ _ hk fun t ht => by simp [ht]

theorem execResizeApply_keeps {z : Stores} {s : State} (p : Nat) (hk : Keeps z s.store) : KeepsNext z (execResizeApply p s) := by
  simp [execResizeApply, hk]

theorem execPartdestroy_keeps {z : Stores} {s : State} (c : Cmd) (hk : Keeps z s.store) : KeepsNext z (execPartdestroy c s) := by
  rw [execPartdestroy, keepsNext_next]
  exact command_keeps c _ _ _ hk fun t ht => by simp [ht]

theorem execVdevcreate_keeps {z : Stores} {s : State} (c : Cmd) (hk : Keeps z s.store) : KeepsNext z (execVdevcreate c s) := by
  rw [execVdevcreate, keepsNext_next]
  exact command_keeps c _ _ _ hk fun t ht => settle_keeps c ht (vdevCreate_keeps _ ht)

theorem execVdevset_keeps {z : Stores} {s : State} (c : Cmd) (hk : Keeps z s.store) : KeepsNext z (execVdevset c s) := by
  rw [execVdevset, keepsNext_next]
  exact command_keeps c _ _ _ hk fun t ht => by simp [ht]

theorem execTenantDisabled_keeps {z : Stores} {s : State} (sp : Space) (hk : Keeps z s.store) : KeepsNext z (execTenantDisabled sp s) := by
  simp [execTenantDisabled, hk]

theorem execQueuecreate_keeps {z : Stores} {s : State} (c : Cmd) (hk : Keeps z s.store) : KeepsNext z (execQueuecreate c s) := by
  rw [execQueuecreate, keepsNext_next]
  exact command_keeps c _ _ _ hk fun t ht => settle_keeps c ht (queueCreate_keeps _ ht)

theorem execQueuedestroy_keeps {z : Stores} {s : State} (c : Cmd) (hk : Keeps z s.store) : KeepsNext z (execQueuedestroy c s) := by
  rw [execQueuedestroy, keepsNext_next]
  exact command_keeps c _ _ _ hk fun t ht => settle_keeps c ht (queueDestroy_keeps _ ht)

theorem execEnergy_keeps {z : Stores} {s : State} (c : Cmd) (hk : Keeps z s.store) : KeepsNext z (execEnergy c s) := by
  rw [execEnergy, keepsNext_next]
  exact command_keeps c _ _ _ hk fun t ht => by simp [ht]

theorem execSummary_keeps {z : Stores} {s : State} (c : Cmd) (hk : Keeps z s.store) : KeepsNext z (execSummary c s) := by
  unfold execSummary
  (repeat' split) <;> simp [hk]

theorem execAttest_keeps {z : Stores} {s : State} (c : Cmd) (hk : Keeps z s.store) : KeepsNext z (execAttest c s) := by
  rw [execAttest, keepsNext_next]
  exact command_keeps c _ _ _ hk fun t ht => by simp [ht]

theorem execAlarmset_keeps {z : Stores} {s : State} (c : Cmd) (hk : Keeps z s.store) : KeepsNext z (execAlarmset c s) := by
  rw [execAlarmset, keepsNext_next]
  exact command_keeps c _ _ _ hk fun t ht => settle_keeps c ht (alarmSet_keeps _ ht)

theorem execQueuereset_keeps {z : Stores} {s : State} (c : Cmd) (hk : Keeps z s.store) : KeepsNext z (execQueuereset c s) := by
  rw [execQueuereset, keepsNext_next]
  exact command_keeps c _ _ _ hk fun t ht => settle_keeps c ht (queueReset_keeps _ ht)

theorem execWatchdogExpiry_keeps {z : Stores} {s : State} (p q : Nat) (hk : Keeps z s.store) : KeepsNext z (execWatchdogExpiry p q s) := by
  simp [execWatchdogExpiry, hk]

theorem execRowSpare_keeps {z : Stores} {s : State} (stack : BitVec 3) (row : Nat) (hk : Keeps z s.store) :
    KeepsNext z (execRowSpare stack row s) := by
  unfold execRowSpare
  (repeat' split) <;> simp [hk]

theorem execPageRetire_keeps {z : Stores} {s : State} (stack : BitVec 3) (sp : Space) (va : BitVec 64) (newPa : Nat) (hk :
    Keeps z s.store) : KeepsNext z (execPageRetire stack sp va newPa s) := by
  simp [execPageRetire, hk]

theorem execDbgarm_keeps {z : Stores} {s : State} (c : Cmd) (hk : Keeps z s.store) : KeepsNext z (execDbgarm c s) := by
  rw [execDbgarm, keepsNext_next]
  exact command_keeps c _ _ _ hk fun t ht => by simp [ht]

theorem execDbgstop_keeps {z : Stores} {s : State} (c : Cmd) (hk : Keeps z s.store) : KeepsNext z (execDbgstop c s) := by
  rw [execDbgstop, keepsNext_next]
  exact command_keeps c _ _ _ hk fun t ht => by simp [ht]

theorem execDebugStop_keeps {z : Stores} {s : State} (cause : BitVec 2) (hk : Keeps z s.store) : KeepsNext z (execDebugStop cause s) := by
  simp [execDebugStop, hk]

theorem execDbgresume_keeps {z : Stores} {s : State} (c : Cmd) (hk : Keeps z s.store) : KeepsNext z (execDbgresume c s) := by
  rw [execDbgresume, keepsNext_next]
  exact command_keeps c _ _ _ hk fun t ht => by simp [ht]

theorem execTrace_keeps {z : Stores} {s : State} (c : Cmd) (hk : Keeps z s.store) : KeepsNext z (execTrace c s) := by
  rw [execTrace, keepsNext_next]
  exact command_keeps c _ _ _ hk fun t ht => by simp [ht]

theorem execCounters_keeps {z : Stores} {s : State} (c : Cmd) (hk : Keeps z s.store) : KeepsNext z (execCounters c s) := by
  rw [execCounters, keepsNext_next]
  exact command_keeps c _ _ _ hk fun t ht => by simp [ht]

theorem execTraceHeadAdvance_keeps {z : Stores} {s : State} (sp : Space) (hk : Keeps z s.store) :
    KeepsNext z (execTraceHeadAdvance sp s) := by
  simp [execTraceHeadAdvance, hk]

theorem execReplay_keeps {z : Stores} {s : State} (c : Cmd) (hk : Keeps z s.store) : KeepsNext z (execReplay c s) := by
  rw [execReplay, keepsNext_next]
  exact command_keeps c _ _ _ hk fun t ht => by simp [ht]

theorem execCheckpoint_keeps {z : Stores} {s : State} (p : Nat) (hk : Keeps z s.store) : KeepsNext z (execCheckpoint p s) := by
  simp [execCheckpoint, hk]

theorem execReplayHalt_keeps {z : Stores} {s : State} (p : Nat) (hk : Keeps z s.store) : KeepsNext z (execReplayHalt p s) := by
  unfold execReplayHalt
  (repeat' split) <;> simp [hk]

theorem execTileAccessPerform_keeps {z : Stores} {s : State} (k : Nat) (hk : Keeps z s.store) :
    KeepsNext z (execTileAccessPerform k s) := by
  unfold execTileAccessPerform
  (repeat' split) <;> simp [hk]

theorem execPeerTimeout_keeps {z : Stores} {s : State} (id : Nat) (hk : Keeps z s.store) : KeepsNext z (execPeerTimeout id s) := by
  unfold execPeerTimeout
  (repeat' split) <;> simp [hk]

theorem execRetrieverInjection_keeps {z : Stores} {s : State} (p : Nat) (port : BitVec 4) (bytes : List Byte) (hk :
    Keeps z s.store) : KeepsNext z (execRetrieverInjection p port bytes s) := by
  simp [execRetrieverInjection, hk]

theorem execUnsupportedPacket_keeps {z : Stores} {s : State} (die cmdBit : Bool) (hk : Keeps z s.store) :
    KeepsNext z (execUnsupportedPacket die cmdBit s) := by
  simp [execUnsupportedPacket, hk]

theorem execUnregisteredSend_keeps {z : Stores} {s : State} (die : Bool) (hk : Keeps z s.store) :
    KeepsNext z (execUnregisteredSend die s) := by
  simp [execUnregisteredSend, hk]

theorem execPeerAck_keeps {z : Stores} {s : State} (id : Nat) (hk : Keeps z s.store) : KeepsNext z (execPeerAck id s) := by
  unfold execPeerAck
  (repeat' split) <;> simp [hk]

theorem execAlarm_keeps {z : Stores} {s : State} (src : AlarmSource) (hk : Keeps z s.store) : KeepsNext z (execAlarm src s) := by
  simp [execAlarm, hk]

theorem execEccError_keeps {z : Stores} {s : State} (st : Storage) (addr : Nat) (fatal : Bool) (hk : Keeps z s.store) :
    KeepsNext z (execEccError st addr fatal s) := by
  unfold execEccError
  (repeat' split) <;> simp [hk]

theorem execPatrolScrub_keeps {z : Stores} {s : State} (addr : Nat) (hk : Keeps z s.store) : KeepsNext z (execPatrolScrub addr s) := by
  unfold execPatrolScrub
  simp only [keepsNext_next]
  (repeat' split) <;> simp [hk]

theorem execPeerReadResponse_keeps {z : Stores} {s : State} (id : Nat) (bytes : List Byte) (hk : Keeps z s.store) :
    KeepsNext z (execPeerReadResponse id bytes s) := by
  unfold execPeerReadResponse
  (repeat' split) <;> simp [hk]

theorem execLinkLevelRetry_keeps {z : Stores} {s : State} (die : Bool) (hk : Keeps z s.store) : KeepsNext z (execLinkLevelRetry die s) := by
  simp [execLinkLevelRetry, hk]

theorem execBufferSlotReturn_keeps {z : Stores} {s : State} (p : Nat) (port : BitVec 4) (hk : Keeps z s.store) :
    KeepsNext z (execBufferSlotReturn p port s) := by
  simp [execBufferSlotReturn, hk]

theorem execBundleIssue_keeps {z : Stores} {s : State} (hk : Keeps z s.store) : KeepsNext z (execBundleIssue s) := by
  simp [execBundleIssue, hk]

theorem execEnergyStretch_keeps {z : Stores} {s : State} (hk : Keeps z s.store) : KeepsNext z (execEnergyStretch s) := by
  simp [execEnergyStretch, hk]

theorem execBudgetRefill_keeps {z : Stores} {s : State} (hk : Keeps z s.store) : KeepsNext z (execBudgetRefill s) := by
  simp [execBudgetRefill, hk]

theorem execStaticCharge_keeps {z : Stores} {s : State} (hk : Keeps z s.store) : KeepsNext z (execStaticCharge s) := by
  simp [execStaticCharge, hk]

theorem execResultLand_keeps {z : Stores} {s : State} (hk : Keeps z s.store) : KeepsNext z (execResultLand s) := by
  simp [execResultLand, hk]

theorem execLanding_keeps {z : Stores} {s : State} (hk : Keeps z s.store) : KeepsNext z (execLanding s) := by
  simp [execLanding, hk]

theorem execLateDataArrival_keeps {z : Stores} {s : State} (hk : Keeps z s.store) : KeepsNext z (execLateDataArrival s) := by
  simp [execLateDataArrival, hk]

theorem execFetchArrival_keeps {z : Stores} {s : State} (hk : Keeps z s.store) : KeepsNext z (execFetchArrival s) := by
  unfold execFetchArrival
  (repeat' split) <;> simp [hk]

theorem execCodePageLoad_keeps {z : Stores} {s : State} (hk : Keeps z s.store) : KeepsNext z (execCodePageLoad s) := by
  simp [execCodePageLoad, hk]

theorem execTaskDrainEnd_keeps {z : Stores} {s : State} (hk : Keeps z s.store) : KeepsNext z (execTaskDrainEnd s) := by
  simp [execTaskDrainEnd, hk]

theorem execBarrierComplete_keeps {z : Stores} {s : State} (hk : Keeps z s.store) : KeepsNext z (execBarrierComplete s) := by
  simp [execBarrierComplete, hk]

theorem execIdleTimeout_keeps {z : Stores} {s : State} (hk : Keeps z s.store) : KeepsNext z (execIdleTimeout s) := by
  unfold execIdleTimeout
  (repeat' split) <;> simp [hk]

theorem execWaitvBoundExpiry_keeps {z : Stores} {s : State} (hk : Keeps z s.store) : KeepsNext z (execWaitvBoundExpiry s) := by
  unfold execWaitvBoundExpiry
  (repeat' split) <;> simp [hk]

theorem execHtakeBoundExpiry_keeps {z : Stores} {s : State} (hk : Keeps z s.store) : KeepsNext z (execHtakeBoundExpiry s) := by
  unfold execHtakeBoundExpiry
  (repeat' split) <;> simp [hk]

theorem execHandleStep_keeps {z : Stores} {s : State} (hk : Keeps z s.store) : KeepsNext z (execHandleStep s) := by
  simp [execHandleStep, hk]

theorem execCommitComplete_keeps {z : Stores} {s : State} (hk : Keeps z s.store) : KeepsNext z (execCommitComplete s) := by
  simp [execCommitComplete, hk]

theorem execLaunchFault_keeps {z : Stores} {s : State} (hk : Keeps z s.store) : KeepsNext z (execLaunchFault s) := by
  simp [execLaunchFault, hk]

theorem execGangSuspend_keeps {z : Stores} {s : State} (hk : Keeps z s.store) : KeepsNext z (execGangSuspend s) := by
  simp [execGangSuspend, hk]

theorem execSoftStop_keeps {z : Stores} {s : State} (hk : Keeps z s.store) : KeepsNext z (execSoftStop s) := by
  simp [execSoftStop, hk]

theorem execHardStop_keeps {z : Stores} {s : State} (hk : Keeps z s.store) : KeepsNext z (execHardStop s) := by
  simp [execHardStop, hk]

theorem execImageSpill_keeps {z : Stores} {s : State} (hk : Keeps z s.store) : KeepsNext z (execImageSpill s) := by
  simp [execImageSpill, hk]

theorem execAlarmClear_keeps {z : Stores} {s : State} (hk : Keeps z s.store) : KeepsNext z (execAlarmClear s) := by
  unfold execAlarmClear
  (repeat' split) <;> simp [hk]

theorem execPowerOn_keeps {z : Stores} {s : State} (hk : Keeps z s.store) : KeepsNext z (execPowerOn s) := by
  simp [execPowerOn, hk]

theorem execPcSample_keeps {z : Stores} {s : State} (hk : Keeps z s.store) : KeepsNext z (execPcSample s) := by
  unfold execPcSample
  simp only [keepsNext_next]
  (repeat' split) <;> simp [hk]

theorem execFreezeRecord_keeps {z : Stores} {s : State} (hk : Keeps z s.store) : KeepsNext z (execFreezeRecord s) := by
  simp [execFreezeRecord, hk]

/-- The events: every operation that is of no slot. -/
theorem event_keeps {z : Stores} {i : Instr} {s : State} (hi : i.slot = none) (hk : Keeps z s.store) : KeepsNext z (exec i s) := by
  cases i with
  | bodyPublish => exact execBodyPublish_keeps _ _ _ hk
  | waitvSatisfied => exact execWaitvSatisfied_keeps _ hk
  | handleDepositWake => exact execHandleDepositWake_keeps _ hk
  | tfRowArrival => exact execTfRowArrival_keeps _ hk
  | entryPerform => exact execEntryPerform_keeps _ hk
  | copyPerform => exact execCopyPerform_keeps _ hk
  | qfenceLeave => exact execQfenceLeave_keeps _ hk
  | commitLine => exact execCommitLine_keeps _ hk
  | pageWalk => exact execPageWalk_keeps _ _ hk
  | pageIn => exact execPageIn_keeps _ _ hk
  | shootdown => exact execShootdown_keeps _ _ _ hk
  | pinDropTimeout => exact execPinDropTimeout_keeps _ hk
  | nodeFinish => exact execNodeFinish_keeps _ hk
  | taskPlace => exact execTaskPlace_keeps _ hk
  | launchComplete => exact execLaunchComplete_keeps _ hk
  | sliceEnd => exact execSliceEnd_keeps _ hk
  | tspanExpiry => exact execTspanExpiry_keeps _ hk
  | graceExpiry => exact execGraceExpiry_keeps _ hk
  | tenantDrained => exact execTenantDrained_keeps _ hk
  | launch => exact execLaunch_keeps _ hk
  | copy => exact execCopy_keeps _ hk
  | waitevent => exact execWaitevent_keeps _ hk
  | signalevent => exact execSignalevent_keeps _ hk
  | resizeack => exact execResizeack_keeps _ hk
  | map => exact execMap_keeps _ hk
  | unmap => exact execUnmap_keeps _ hk
  | hostUetWrite => exact execHostUetWrite_keeps _ _ _ _ hk
  | hostUetRead => exact execHostUetRead_keeps _ _ _ _ hk
  | peerArrival => exact execPeerArrival_keeps _ _ _ hk
  | partcreate => exact execPartcreate_keeps _ hk
  | partresize => exact execPartresize_keeps _ hk
  | resizeApply => exact execResizeApply_keeps _ hk
  | partdestroy => exact execPartdestroy_keeps _ hk
  | vdevcreate => exact execVdevcreate_keeps _ hk
  | vdevset => exact execVdevset_keeps _ hk
  | tenantDisabled => exact execTenantDisabled_keeps _ hk
  | queuecreate => exact execQueuecreate_keeps _ hk
  | queuedestroy => exact execQueuedestroy_keeps _ hk
  | energy => exact execEnergy_keeps _ hk
  | summary => exact execSummary_keeps _ hk
  | attest => exact execAttest_keeps _ hk
  | alarmset => exact execAlarmset_keeps _ hk
  | queuereset => exact execQueuereset_keeps _ hk
  | watchdogExpiry => exact execWatchdogExpiry_keeps _ _ hk
  | rowSpare => exact execRowSpare_keeps _ _ hk
  | pageRetire => exact execPageRetire_keeps _ _ _ _ hk
  | dbgarm => exact execDbgarm_keeps _ hk
  | dbgstop => exact execDbgstop_keeps _ hk
  | debugStop => exact execDebugStop_keeps _ hk
  | dbgresume => exact execDbgresume_keeps _ hk
  | trace => exact execTrace_keeps _ hk
  | counters => exact execCounters_keeps _ hk
  | traceHeadAdvance => exact execTraceHeadAdvance_keeps _ hk
  | replay => exact execReplay_keeps _ hk
  | checkpoint => exact execCheckpoint_keeps _ hk
  | replayHalt => exact execReplayHalt_keeps _ hk
  | tileAccessPerform => exact execTileAccessPerform_keeps _ hk
  | peerTimeout => exact execPeerTimeout_keeps _ hk
  | retrieverInjection => exact execRetrieverInjection_keeps _ _ _ hk
  | unsupportedPacket => exact execUnsupportedPacket_keeps _ _ hk
  | unregisteredSend => exact execUnregisteredSend_keeps _ hk
  | peerAck => exact execPeerAck_keeps _ hk
  | alarm => exact execAlarm_keeps _ hk
  | eccError => exact execEccError_keeps _ _ _ hk
  | patrolScrub => exact execPatrolScrub_keeps _ hk
  | peerReadResponse => exact execPeerReadResponse_keeps _ _ hk
  | linkLevelRetry => exact execLinkLevelRetry_keeps _ hk
  | bufferSlotReturn => exact execBufferSlotReturn_keeps _ _ hk
  | bundleIssue => exact execBundleIssue_keeps hk
  | energyStretch => exact execEnergyStretch_keeps hk
  | budgetRefill => exact execBudgetRefill_keeps hk
  | staticCharge => exact execStaticCharge_keeps hk
  | resultLand => exact execResultLand_keeps hk
  | landing => exact execLanding_keeps hk
  | lateDataArrival => exact execLateDataArrival_keeps hk
  | fetchArrival => exact execFetchArrival_keeps hk
  | codePageLoad => exact execCodePageLoad_keeps hk
  | taskDrainEnd => exact execTaskDrainEnd_keeps hk
  | barrierComplete => exact execBarrierComplete_keeps hk
  | idleTimeout => exact execIdleTimeout_keeps hk
  | waitvBoundExpiry => exact execWaitvBoundExpiry_keeps hk
  | htakeBoundExpiry => exact execHtakeBoundExpiry_keeps hk
  | handleStep => exact execHandleStep_keeps hk
  | commitComplete => exact execCommitComplete_keeps hk
  | launchFault => exact execLaunchFault_keeps hk
  | gangSuspend => exact execGangSuspend_keeps hk
  | softStop => exact execSoftStop_keeps hk
  | hardStop => exact execHardStop_keeps hk
  | imageSpill => exact execImageSpill_keeps hk
  | alarmClear => exact execAlarmClear_keeps hk
  | powerOn => exact execPowerOn_keeps hk
  | pcSample => exact execPcSample_keeps hk
  | freezeRecord => exact execFreezeRecord_keeps hk
  | _ => exact nomatch hi

/-! ### The operations of the slots -/

/-- MARK and MSEL write trace records; every other operation of a slot leaves the three stores as they are. -/
theorem slot_keeps {z : Stores} {i : Instr} {s : State} (hi : i.slot.isSome = true) (hk : Keeps z s.store) : KeepsNext z (exec i s) := by
  by_cases hmark : ∃ g ex, i = .mark g ex
  · obtain ⟨g, ex, rfl⟩ := hmark
    rw [exec_mark, guardedState, keepsNext_next]
    exact keeps_ite (mark_keeps ex hk) hk
  by_cases hmsel : ∃ g, i = .msel g
  · obtain ⟨g, rfl⟩ := hmsel
    rw [exec_msel, guardedState, keepsNext_next]
    exact keeps_ite (emitBeats_keeps _ hk) hk
  obtain ⟨t, ht, hspm, -, -, -, hlin, -, -, -, -, hmem, -⟩ := framesAtIssue i s hi
  rw [ht, keepsNext_next, State.store, hspm, hlin, hmem (fun g ex h => hmark ⟨g, ex, h⟩) fun g h => hmsel ⟨g, h⟩]
  exact hk

theorem exec_keeps {z : Stores} {i : Instr} {s : State} (hk : Keeps z s.store) : KeepsNext z (exec i s) := by
  cases hi : i.slot with
  | none => exact event_keeps hi hk
  | some k => exact slot_keeps (by rw [hi]; rfl) hk

/-! ### A step -/

theorem runOps_keeps {z : Stores} (l : List Instr) {s : State} (hk : Keeps z s.store) : KeepsNext z (runOps l s) := by
  induction l generalizing s with
  | nil => exact keepsNext_next.2 hk
  | cons i l ih =>
    rw [runOps]
    split
    · next u hu => exact ih (exec_keeps hk u hu)
    · next hn => exact fun t ht => absurd ht (hn t)

theorem runIssued_keeps {z : Stores} {s : State} (hk : Keeps z s.store) : KeepsNext z s.runIssued := by
  rw [State.runIssued]
  split
  · exact runOps_keeps _ hk
  · exact keepsNext_next.2 hk

theorem runEvent_keeps {z : Stores} (i : Instr) {s : State} (hk : Keeps z s.store) : KeepsNext z (runEvent i s) := by
  unfold runEvent
  split
  · split
    · next u hu => exact runIssued_keeps (exec_keeps hk u hu)
    · next hn => exact fun t ht => absurd ht (hn t)
  · exact exec_keeps hk

theorem noteStep_keeps {z : Stores} (s : State) {t : State} (i : Instr) (hk : Keeps z t.store) : Keeps z (s.noteStep t i).store := by
  rw [State.noteStep]
  split
  · exact hk
  · split
    · split <;> simp [hk]
    · exact hk

theorem step_keeps {s t : State} (h : step s = .next t) : Keeps s.store t.store := by
  rw [step, State.advance] at h
  have hrun := runEvent_keeps s.nextEvent.1 (s := s.nextEvent.2) (z := s.store) (by rw [nextEvent_store]; exact keeps_refl _)
  split at h
  · next u hu =>
    obtain rfl := Host.Outcome.next.inj h
    exact noteStep_keeps _ _ (hrun u hu)
  · next hn => exact absurd h (hn t)

/-- Settles O42: the stores are canonical after every operation that is run on canonical ones, and a step is such a run. -/
theorem memoryStaysCanonical : Obligations.MemoryStaysCanonical := by
  unfold Obligations.MemoryStaysCanonical
  intro s t h
  obtain ⟨hmem, hspm, hlineage⟩ := step_keeps h
  exact ⟨fun hc => ⟨hmem hc.1, hspm hc.2⟩, hlineage⟩

end Sys2Proof.Machine
end

section
/-! What reset leaves, and how POWER_ON ends (R107, R270, R383, R389). -/

namespace Sys2Proof.Machine

/-- A report to the administrators only puts packets at the end of the outbox. -/
theorem reportAdmins_eq (s : State) (event src : Nat) :
    ∃ ps, s.reportAdmins event src = { s with outbox := s.outbox ++ ps } := by
  unfold State.reportAdmins
  generalize leBytes 2 event ++ leBytes 2 0 ++ leBytes 1 0xFF ++ leBytes 3 0 ++ leBytes 8 src ++ leBytes 8 (tickOf s.time)
    ++ leBytes 8 0 = bs
  suffices h : ∀ (as : List Nat) (t : State),
      ∃ ps, as.foldl (fun t a => { t with outbox := t.outbox ++ [⟨.mgmt, routePort a, a, .send, bs⟩] }) t
        = { t with outbox := t.outbox ++ ps } from h s.admins s
  intro as
  induction as with
  | nil => exact fun t => ⟨[], by simp⟩
  | cons a as ih =>
    intro t
    obtain ⟨ps, hps⟩ := ih { t with outbox := t.outbox ++ [⟨.mgmt, routePort a, a, .send, bs⟩] }
    exact ⟨⟨.mgmt, routePort a, a, .send, bs⟩ :: ps, by simp [hps]⟩

theorem exec_powerOn (s : State) : exec .powerOn s = .next s.bringUp := rfl

/-- POWER_ON ends with the state that the bring-up makes, or with it FAILED. -/
theorem bringUp_cases (s : State) : ∃ u : State,
    (∃ ps, s.bringUp = { u.broughtUp with outbox := u.broughtUp.outbox ++ ps })
      ∨ s.bringUp = { u.broughtUp with devState := .failed } := by
  refine ⟨(s.pickAny 2).2, ?_⟩
  by_cases hk : (s.pickAny 2).1 = 0
  · left
    obtain ⟨ps, hps⟩ := reportAdmins_eq (s.pickAny 2).2.broughtUp 0x10 0
    exact ⟨ps, (if_pos hk).trans hps⟩
  · exact .inr (if_neg hk)

/-- Every core of a state that has been brought up is idle. -/
theorem broughtUp_cores (s : State) :
    s.broughtUp.cores.length = 64 ∧ ∀ c ∈ s.broughtUp.cores, c.task = none ∧ c.phase = .noTask := by
  refine ⟨by simp [State.cores, State.broughtUp], fun c hc => ?_⟩
  simp only [State.cores, State.broughtUp, List.mem_cons, List.mem_map] at hc
  obtain rfl | ⟨i, -, rfl⟩ := hc <;> exact ⟨rfl, rfl⟩

theorem powerOn_outcome (s : State) : ∃ t, exec .powerOn s = .next t ∧ (t.devState = .ready ∨ t.devState = .failed)
    ∧ (t.devState = .ready → t.parts = [] ∧ t.mem = [] ∧ t.spm = [] ∧ t.cores.length = 64
      ∧ ∀ c ∈ t.cores, c.task = none ∧ c.phase = .noTask) := by
  refine ⟨s.bringUp, exec_powerOn s, ?_⟩
  obtain ⟨u, ⟨ps, hu⟩ | hu⟩ := bringUp_cases s
  · rw [hu]
    exact ⟨.inl rfl, fun _ => ⟨rfl, rfl, rfl, broughtUp_cores u⟩⟩
  · rw [hu]
    exact ⟨.inr rfl, fun h => absurd h (by simp)⟩

/-- The first step takes POWER_ON from the inbox. -/
theorem step_reset : step State.reset = exec .powerOn { State.reset with inbox := [] } := by
  have hev : State.reset.nextEvent = (.powerOn, { State.reset with inbox := [] }) := rfl
  have hn : ∀ u : State, u.replays = [] → ∀ t i, u.noteStep t i = t := fun u hu t i => by simp [State.noteStep, hu]
  show State.advance _ = _
  rw [State.advance, hev, exec_powerOn]
  show Host.Outcome.next (State.noteStep _ _ _) = _
  rw [hn _ rfl]

/-- Settles O43: reset field by field, and POWER_ON by the two ways the bring-up ends. -/
theorem resetAndPowerOn : Obligations.ResetAndPowerOn := by
  refine ⟨⟨rfl, rfl⟩, rfl, rfl, rfl, rfl, rfl, rfl, rfl, rfl, rfl, fun i => ?_, fun i => ?_, fun i => ?_, fun h => ?_, fun k => ?_,
    rfl, rfl, fun c => ?_, rfl, step_reset, powerOn_outcome⟩
  · exact ⟨Vector.getElem_replicate _, Vector.getElem_replicate _⟩
  · exact Vector.getElem_replicate _
  · exact Vector.getElem_replicate _
  · exact congrArg HReg.st (Vector.getElem_replicate _)
  · exact congrArg LoopLevel.active (Vector.getElem_replicate _)
  · exact Vector.getElem_ofFn _

end Sys2Proof.Machine
end

section
/-! Stretched clocks, refill and static charge, freeze records and samples (R70, R73, R75, R395, R396). -/

namespace Sys2Proof.Machine

section
variable (s : State) (n : BitVec 4)

theorem passTo_core (t : Nat) : (s.passTo t).core = s.core := by
  rw [State.passTo]
  split <;> rfl

theorem clock_core : s.clock.core = s.core.advance := passTo_core _ _

/-- A clock of the core moves its time and, of its context, at most the drift count. -/
theorem advance_around (c : Core) :
    ∃ d rf st e, c.advance = { c with
      time := c.time + clockOf c.id, ctx := { c.ctx with driftClocks := d }, refillDue := rf, staticDue := st, energy := e } := by
  have hd : ∃ d, (if c.task.isSome && c.ctx.started then
      { c with ctx := { c.ctx with driftClocks := c.ctx.driftClocks + 1 } } else c)
        = { c with ctx := { c.ctx with driftClocks := d } } := by
    split
    · exact ⟨_, rfl⟩
    · exact ⟨c.ctx.driftClocks, rfl⟩
  obtain ⟨d, hd⟩ := hd
  unfold Core.advance
  simp only [hd]
  cases he : c.energyOf with
  | none => exact ⟨d, c.refillDue, c.staticDue, c.energy, rfl⟩
  | some o => exact ⟨d, _, _, _, rfl⟩

theorem freezeClock_core : (s.freezeClock n).core = { s.core.advance with
    last := ⟨s.core.time, s.core.nextPc, s.core.ctx.cycle, s.sampledCode n⟩
    freeze := s.sampledCode n, froze := s.core.advance.froze + 1, worst := codeMax (s.sampledCode n) s.core.advance.worst
    stopNow := false
    frozen := if s.sampledCode n = 3#4 ∨ s.sampledCode n = 10#4 then s.core.advance.frozen + 1 else s.core.advance.frozen } := by
  rw [← clock_core]
  rfl

/-- States with the same stores read the same bytes. -/
theorem sameBytes_of_store {s t : State} (h : t.store = s.store) : s.sameBytes t := by
  obtain ⟨hm, hs, -⟩ : t.mem = s.mem ∧ t.spm = s.spm ∧ t.lineage = s.lineage := by
    rw [State.store, State.store, Prod.mk.injEq, Prod.mk.injEq] at h
    exact h
  exact fun a => ⟨by rw [hm], by rw [hs]⟩

/-- Where no other reason stands above 4, a stretched clock is one of reason 4. -/
theorem sampledCode_stretch (h : ∀ k ∈ s.activeCodes, k.toNat ≤ 4) : s.sampledCode 4#4 = 4#4 := by
  unfold State.sampledCode
  generalize s.activeCodes = ks at h ⊢
  induction ks with
  | nil => rfl
  | cons k ks ih =>
    have hk : codeMax 4#4 k = 4#4 := if_neg (by simpa using h k List.mem_cons_self)
    rw [List.foldl_cons, hk]
    exact ih fun j hj => h j (List.mem_cons_of_mem _ hj)

end

theorem exec_energyStretch {s : State} (hp : s.core.phase = .ready) (hm : s.core.mid = false) (hf : s.core.freeze = 4#4) :
    exec .energyStretch s = .next ((s.freezeClock 4#4).onCore fun c =>
      { c with freeze := 0#4, weights := (c.weights ++ [0]).drop (c.weights.length + 1 - 7) }) :=
  congrArg Host.Outcome.next (if_pos ⟨hp, hm, hf⟩)

theorem exec_budgetRefill {s : State} (h : s.core.refillDue = true) :
    exec .budgetRefill s = s.coreNext fun c => { c with energy := c.energy.refill, refillDue := false } :=
  congrArg Host.Outcome.next (if_pos h)

theorem exec_staticCharge {s : State} (h : s.core.staticDue = true) :
    exec .staticCharge s = s.coreNext fun c => { c with energy := c.energy.credit c.energy.estatic.toNat, staticDue := false } :=
  congrArg Host.Outcome.next (if_pos h)

theorem exec_freezeRecord {s : State} {code : BitVec 4} {n : Nat} (h : s.core.ended = some (code, n)) :
    exec .freezeRecord s = .next ((s.emitIf 2 s.core.space s.core.id.toNat s.core.reftime 0x12 (addrOf s.core.ctx.pc).toNat
      (code.toNat + n * 256) s.core.owner.key.task).onCore fun c => { c with ended := none }) := by
  have he : exec .freezeRecord s = .next s.freezeRecord := rfl
  rw [he, State.freezeRecord, h]

theorem emitIf_core (s : State) (flag : Nat) (sp : Space) (src now ty w1 w2 w3 : Nat) :
    (s.emitIf flag sp src now ty w1 w2 w3).core = s.core :=
  records_core (emitIf_records ..)

theorem exec_pcSample {s : State} {o : Running} (h : s.core.task = some o) :
    exec .pcSample s = .next ((s.emitIf 1 s.core.space s.core.id.toNat (tickOf s.core.last.at_) 0x10 (addrOf s.core.last.pc).toNat
      s.core.last.cycle.toNat (o.key.task + s.core.last.code.toNat * 2 ^ 32)).onCore
      fun c => { c with sampled := tickOf s.core.last.at_ }) := by
  have he : exec .pcSample s = execPcSample s := rfl
  rw [he, execPcSample, h]
  exact congrArg Host.Outcome.next (onCore_congr (by rw [emitIf_core]))

/-- A charge ends saturated, or is the exact sum. -/
theorem credit_cases (e : Energy) (n : Nat) :
    (e.esat = true → e.credit n = e)
    ∧ (e.esat = false → e.ecount.toNat + n ≤ 2 ^ 48 - 1 → e.credit n = { e with ecount := BitVec.ofNat 48 (e.ecount.toNat + n) })
    ∧ (e.esat = false → 2 ^ 48 - 1 < e.ecount.toNat + n → e.credit n = { e with ecount := BitVec.allOnes 48, esat := true }) := by
  unfold Energy.credit
  refine ⟨fun h => if_pos h, fun h hn => ?_, fun h hn => ?_⟩
  · rw [if_neg (by simp [h]), if_neg (by omega)]
  · rw [if_neg (by simp [h]), if_pos hn]

theorem energyStretch_outcome (s : State) (hp : s.core.phase = .ready) (hm : s.core.mid = false) (hf : s.core.freeze = 4#4) :
    ∃ t, exec .energyStretch s = .next t ∧ t.core.freeze = 0#4
      ∧ t.core.weights = (s.core.weights ++ [0]).drop (s.core.weights.length + 1 - 7)
      ∧ t.core.time = s.core.time + clockOf s.core.id
      ∧ t.core.last = ⟨s.core.time, s.core.ctx.pc, s.core.ctx.cycle, s.sampledCode 4#4⟩
      ∧ ((∀ k ∈ s.activeCodes, k.toNat ≤ 4) → s.sampledCode 4#4 = 4#4)
      ∧ t.core.ctx.sregs = s.core.ctx.sregs ∧ t.core.ctx.acc = s.core.ctx.acc ∧ t.core.ctx.cycle = s.core.ctx.cycle
      ∧ t.core.ctx.results = s.core.ctx.results ∧ t.core.ctx.landings = s.core.ctx.landings ∧ s.sameBytes t := by
  refine ⟨_, exec_energyStretch hp hm hf, ?_⟩
  obtain ⟨d, rf, st, e, ha⟩ := advance_around s.core
  have hpc : s.core.nextPc = s.core.ctx.pc := if_neg (by simp [hp])
  have hc := freezeClock_core s 4#4
  rw [ha, hpc] at hc
  have hb : s.sameBytes (s.freezeClock 4#4) := sameBytes_of_store (freezeClock_store s 4#4)
  generalize s.freezeClock 4#4 = t at hc hb
  refine ⟨rfl, ?_, ?_, ?_, sampledCode_stretch s, ?_, ?_, ?_, ?_, ?_, hb⟩ <;> simp only [State.onCore, hc]

/-- Settles O46: one equation per event, and the core that a frozen clock leaves. -/
theorem energyEvents : Obligations.EnergyEvents := by
  intro s
  refine ⟨energyStretch_outcome s, exec_budgetRefill, fun h => ⟨_, exec_staticCharge h, credit_cases _ _⟩,
    fun _ _ h => ⟨_, exec_freezeRecord h, rfl, rfl⟩, fun _ h => exec_pcSample h⟩

end Sys2Proof.Machine
end

section
/-! The end of a cycle (R83, R85, R95, R193, R196, R197): which parts of the core and of the bytes every later stage of RESULT_LAND
keeps, and the results themselves. -/

namespace Sys2Proof.Machine

/-! ### What a result that lands is seen in -/

/-- The scalar registers, the rows, the results in flight and CYCLE. -/
def Ctx.landed (x : Ctx) : Vector Word 64 × List (Nat × Row) × List Result × Word := (x.sregs, x.acc, x.results, x.cycle)

/-- Those of the core's context, and its clock. -/
def Core.landed (c : Core) : (Vector Word 64 × List (Nat × Row) × List Result × Word) × Nat × BitVec 6 × Bool :=
  (c.ctx.landed, c.time, c.id, c.mid)

/-- Memory, the scratchpads, and the bytes that copies have yet to show in them. -/
def State.bytes (s : State) : List Host.Cell × List Host.Cell × List (Nat × Byte) := (s.mem, s.spm, s.spmLate)

section
variable (s : State)

/-! ### Stages that touch neither the core nor a byte -/

theorem sameButChoices_core {s t : State} (h : s.sameButChoices t) : t.core = s.core := by
  rw [State.sameButChoices] at h
  rw [h]
theorem sameButChoices_bytes {s t : State} (h : s.sameButChoices t) : t.bytes = s.bytes := by
  rw [State.sameButChoices] at h
  rw [h]
  rfl


theorem homeTouch_core (pa : Nat) (w : Bool) : (s.homeTouch pa w).core = s.core := records_core (homeTouch_records ..)

theorem homeTouch_bytes (pa : Nat) (w : Bool) : (s.homeTouch pa w).bytes = s.bytes := by
  rw [State.homeTouch]
  split
  · rfl
  · split
    · rfl
    · rw [State.l2Touch]; split <;> rfl
    · rw [State.llcTouch]; split <;> rfl

theorem icacheFill_core (core : Nat) (sp : Space) (va : Nat) : (s.icacheFill core sp va).core = s.core := by
  rw [State.icacheFill]
  split <;> rfl

theorem icacheFill_bytes (core : Nat) (sp : Space) (va : Nat) : (s.icacheFill core sp va).bytes = s.bytes := by
  rw [State.icacheFill]
  split <;> rfl

theorem pickAny_same (n : Nat) : s.sameButChoices (s.pickAny n).2 := by
  rw [State.pickAny]
  split <;> rfl

theorem choose_same (n : Nat) : s.sameButChoices (s.choose n).2 := (chooseFor_same s _ _ n).1

theorem clock_bytes : s.clock.bytes = s.bytes := by
  rw [State.clock, State.passTo]
  split <;> rfl

theorem seeSome_core (gs : List Nat) : (s.seeSome gs).core = s.core := by
  unfold State.seeSome
  induction gs generalizing s with
  | nil => rfl
  | cons g gs ih =>
    have hc := sameButChoices_core (choose_same s 2)
    rw [List.foldl_cons, ih]
    generalize s.choose 2 = x at hc
    simp only
    split
    · exact hc
    · exact hc

/-- Streams that leave touch the caches and the lineage table. -/
theorem releaseStreams_frame (sts : List Stream) :
    (s.releaseStreams sts).core = s.core ∧ (s.releaseStreams sts).bytes = s.bytes := by
  unfold State.releaseStreams
  generalize ht : s.dropTileCopies s.core.id.toNat _ _ = t
  have hs : t.core = s.core ∧ t.bytes = s.bytes := by rw [← ht]; exact ⟨rfl, rfl⟩
  clear ht
  show (sts.foldl _ t).core = _ ∧ (sts.foldl _ t).bytes = _
  induction sts generalizing t with
  | nil => exact hs
  | cons st sts ih =>
    rw [List.foldl_cons]
    refine ih _ ?_
    cases st.handle with
    | none => exact hs
    | some v =>
      cases st.counted with
      | false => exact hs
      | true => exact hs

theorem endStreams_frame : s.endStreams.core.landed = s.core.landed ∧ s.endStreams.bytes = s.bytes := by
  rw [State.endStreams]
  split
  · exact ⟨rfl, rfl⟩
  · obtain ⟨hc, hb⟩ := releaseStreams_frame s (s.core.ctx.queues.toList.flatMap fun q => q.filter Stream.ended)
    generalize s.releaseStreams _ = t at hc hb
    have hl : t.core.landed = s.core.landed := congrArg Core.landed hc
    exact ⟨hl, hb⟩

theorem cancelQueue_frame (q : BitVec 2) :
    (s.cancelQueue q).core.landed = s.core.landed ∧ (s.cancelQueue q).bytes = s.bytes := by
  obtain ⟨hc, hb⟩ := releaseStreams_frame s (s.core.ctx.queue q)
  rw [State.cancelQueue]
  generalize s.releaseStreams _ = t at hc hb
  have hl : t.core.landed = s.core.landed := congrArg Core.landed hc
  exact ⟨hl, hb⟩

theorem cancelAll_frame : s.cancelAll.core.landed = s.core.landed ∧ s.cancelAll.bytes = s.bytes := by
  rw [State.cancelAll]
  split
  · exact ⟨rfl, rfl⟩
  · next h =>
    clear h
    generalize List.range 4 = qs
    induction qs generalizing s with
    | nil => exact ⟨rfl, rfl⟩
    | cons q qs ih =>
      obtain ⟨hc, hb⟩ := cancelQueue_frame s (BitVec.ofNat 2 q)
      rw [List.foldl_cons]
      exact ⟨(ih _).1.trans hc, (ih _).2.trans hb⟩

theorem fetchIn_frame : s.fetchIn.core.landed = s.core.landed ∧ s.fetchIn.bytes = s.bytes := by
  rw [State.fetchIn]
  split
  · next pa _ =>
    have hc := (icacheFill_core (s.homeTouch pa false) s.core.id.toNat s.core.space (addrOf s.core.ctx.pc).toNat).trans
      (homeTouch_core s pa false)
    have hb := (icacheFill_bytes (s.homeTouch pa false) s.core.id.toNat s.core.space (addrOf s.core.ctx.pc).toNat).trans
      (homeTouch_bytes s pa false)
    generalize State.icacheFill _ _ _ _ = t at hc hb
    have hl : t.core.landed = s.core.landed := congrArg Core.landed hc
    exact ⟨hl, hb⟩
  · exact ⟨rfl, rfl⟩

theorem fetchAhead_frame (straight : Bool) :
    (s.fetchAhead straight).core.landed = s.core.landed ∧ (s.fetchAhead straight).bytes = s.bytes := by
  rw [State.fetchAhead]
  split
  · exact ⟨rfl, rfl⟩
  · have hs : s.sameButChoices (if straight then (0, s) else s.pickAny 2).2 := by
      split
      · exact sameButChoices_refl s
      · exact pickAny_same s 2
    generalize (if straight then (0, s) else s.pickAny 2) = x at hs
    have hl : x.2.core.landed = s.core.landed := congrArg Core.landed (sameButChoices_core hs)
    have hc : (x.2.onCore fun c => { c with fetched := false }).core.landed = s.core.landed := hl
    have hm : x.2.bytes = s.bytes := sameButChoices_bytes hs
    have hb : (x.2.onCore fun c => { c with fetched := false }).bytes = s.bytes := hm
    simp only
    generalize x.2.onCore _ = t at hc hb
    split
    · split
      · obtain ⟨hc', hb'⟩ := fetchIn_frame t
        exact ⟨hc'.trans hc, hb'.trans hb⟩
      · exact ⟨hc, hb⟩
    · exact ⟨hc, hb⟩

end

/-! ### The end of the bundle -/

section
variable (x : Ctx) (lc : BitVec 2)

theorem setLevel_landed (l : LoopLevel) : (x.setLevel lc l).landed = x.landed := rfl

theorem endLevel_landed : (x.endLevel lc).landed = x.landed := by
  rw [Ctx.endLevel]
  split <;> rfl

theorem endNewer_landed : (x.endNewer lc).landed = x.landed := by
  rw [Ctx.endNewer]
  split <;> rfl

theorem setPhysP_landed (n : BitVec 5) (m v : Pred) : (x.setPhysP n m v).landed = x.landed := by
  rw [Ctx.setPhysP]
  split <;> rfl

theorem back_landed (newp : Bool) : (x.back lc newp).landed = x.landed := by
  rw [← endNewer_landed x lc, Ctx.back]
  by_cases h : lc = 3#2
  · simp only [if_pos h]
    exact setPhysP_landed { x.endNewer lc with rrb := (x.endNewer lc).rrb - 1 } _ _ _
  · simp only [if_neg h]
    rfl

theorem backTest_landed (n : Nat) : (x.backTest n).1.landed = x.landed := by
  induction n generalizing x with
  | zero => rfl
  | succ n ih =>
    rw [Ctx.backTest]
    split
    · rfl
    · simp only
      split
      · exact (back_landed _ _ _).trans (setLevel_landed ..)
      · split
        · exact (back_landed _ _ _).trans (setLevel_landed ..)
        · exact (ih _).trans (endLevel_landed ..)

theorem nextBundle_landed : x.nextBundle.1.landed = x.landed := by
  rw [Ctx.nextBundle]
  split
  · rfl
  · split
    · rfl
    · exact backTest_landed x 4

end

theorem boundary_landed (c : Core) : c.boundary.landed = c.landed := by
  have h := nextBundle_landed c.ctx
  rw [Core.boundary]
  generalize c.ctx.nextBundle = n at h
  obtain ⟨y, b⟩ := n
  cases b with
  | false => exact congrArg (fun l => (l, c.time, c.id, c.mid)) h
  | true => exact congrArg (fun l => (l, c.time, c.id, c.mid)) h

theorem afterTick_landed (c : Core) (issue : Bool) : (c.afterTick issue).landed = c.landed := by
  rw [Core.afterTick]
  split
  · split
    · split
      · exact boundary_landed c
      · rfl
    · split
      · exact boundary_landed { c with stall := 0 }
      · rfl
  · rfl
  · rfl

theorem advance_landed (c : Core) : c.advance.landed = (c.ctx.landed, c.time + clockOf c.id, c.id, c.mid) := by
  obtain ⟨d, rf, st, e, h⟩ := advance_around c
  rw [h]
  rfl

/-- What a tick does once the clock has moved: it fetches on, or cancels the streams of a task that ends. -/
theorem tickEnd_frame (v : State) (straight : Bool) :
    (if v.core.phase = .ready then v.fetchAhead straight else if v.core.phase = .drainEnd then v.cancelAll else v).core.landed
        = v.core.landed
    ∧ (if v.core.phase = .ready then v.fetchAhead straight else if v.core.phase = .drainEnd then v.cancelAll else v).bytes
        = v.bytes := by
  split
  · exact fetchAhead_frame v straight
  · split
    · exact cancelAll_frame v
    · exact ⟨rfl, rfl⟩

/-- The clock of a cycle that ends. -/
theorem endClock_landed (u : State) (issue : Bool) (pc : BitVec 58) (cycle : Word) (code : BitVec 4) :
    ((u.onCore fun c => c.endTick.afterTick issue).clockAs pc cycle code).core.landed
      = (u.core.ctx.landed, u.core.time + clockOf u.core.id, u.core.id, false) := by
  have hl := afterTick_landed u.core.endTick issue
  have ha := advance_landed (u.core.endTick.afterTick issue)
  have hc := clock_core (u.onCore fun c => c.endTick.afterTick issue)
  rw [State.onCore_core] at hc
  rw [← hc] at ha
  simp only [Core.landed, Prod.mk.injEq] at hl
  obtain ⟨hx, ht, hid, hmid⟩ := hl
  rw [hx, ht, hid, hmid] at ha
  exact ha

theorem endClock_bytes (u : State) (issue : Bool) (pc : BitVec 58) (cycle : Word) (code : BitVec 4) :
    ((u.onCore fun c => c.endTick.afterTick issue).clockAs pc cycle code).bytes = u.bytes :=
  clock_bytes (u.onCore fun c => c.endTick.afterTick issue)

/-- After its results a tick moves the clock of the core and ends its cycle; with no byte of a copy in flight no byte moves. -/
theorem tick_landed (s : State) : s.tick.core.landed = (s.landResults.core.ctx.landed,
      s.landResults.core.time + clockOf s.landResults.core.id, s.landResults.core.id, false)
    ∧ (s.landResults.spmLate = [] → s.tick.bytes = s.landResults.bytes) := by
  rw [State.tick]
  generalize s.landResults = u
  have hc := endClock_landed u s.core.mid (if s.core.mid then s.core.ctx.pc else s.core.nextPc) s.core.ctx.cycle
    (if s.core.mid then 0#4 else 1#4)
  have hb := endClock_bytes u s.core.mid (if s.core.mid then s.core.ctx.pc else s.core.nextPc) s.core.ctx.cycle
    (if s.core.mid then 0#4 else 1#4)
  generalize State.clockAs _ _ _ _ = w at hc hb
  obtain ⟨hc', hb'⟩ := tickEnd_frame ((w.tally w.core.space.part 2 0 1).seeSome w.lateGranules)
    (((w.tally w.core.space.part 2 0 1).seeSome w.lateGranules).core.ctx.pc
      == ((w.tally w.core.space.part 2 0 1).seeSome w.lateGranules).core.lastBundle + 1)
  have hsee : ((w.tally w.core.space.part 2 0 1).seeSome w.lateGranules).core = w.core := seeSome_core _ _
  refine ⟨(hc'.trans (congrArg Core.landed hsee)).trans hc, fun h => hb'.trans ?_⟩
  have hlate : w.lateGranules = [] := by
    have hw : w.spmLate = [] := (congrArg (fun b => b.2.2) hb).trans h
    rw [State.lateGranules, hw] <;> rfl
  rw [hlate]
  exact hb

/-! ### The results themselves -/

/-- The results of which the last cycle is this one, in the order in which they land. -/
def Ctx.due (x : Ctx) : List Result := (sortResults (x.results.filter fun r => r.rem == 1)).map fun r => r.finished x

/-- The results that land are written in their order; flags and streams that end touch none of what they are seen in. -/
theorem landResults_landed (s : State) :
    let u := s.core.ctx.due.foldl State.apply (s.onCore fun c => c.onCtx Ctx.nextCycle)
    s.landResults.core.landed = u.core.landed ∧ s.landResults.bytes = u.bytes := by
  intro u
  have hflags : ∀ (rs : List Result) (y : Ctx), (rs.foldl (fun x r => x.raiseFlags r.slot r.flags) y).landed = y.landed := by
    intro rs
    induction rs with
    | nil => exact fun y => rfl
    | cons r rs ih => exact fun y => ih _
  have hevent : ∀ (rs : List Result) (y : Ctx), (y.recordEvent rs).landed = y.landed := by
    intro rs y
    rw [Ctx.recordEvent]
    split
    · rfl
    · split <;> rfl
  have hl : ((s.core.ctx.due.foldl (fun x r => x.raiseFlags r.slot r.flags) u.core.ctx).recordEvent s.core.ctx.due).landed
      = u.core.ctx.landed := (hevent _ _).trans (hflags _ _)
  obtain ⟨hc, hb⟩ := endStreams_frame (u.onCore fun c => c.onCtx fun x =>
    (s.core.ctx.due.foldl (fun x r => x.raiseFlags r.slot r.flags) x).recordEvent s.core.ctx.due)
  exact ⟨hc.trans (congrArg (fun l => (l, u.core.time, u.core.id, u.core.mid)) hl), hb⟩

/-! ### RESULT_LAND in an issue cycle -/

theorem onCore_self {s : State} {f : Core → Core} (h : f s.core = s.core) : s.onCore f = s := by
  rw [State.onCore, h]

theorem exec_resultLand {s : State} (hp : s.core.phase = .issued) (hm : s.core.mid = true) :
    exec .resultLand s = .next s.tick := by
  have he : exec .resultLand s = .next s.resultLand := rfl
  have hk : s.core.phase.frozenCode = none := by rw [hp]; rfl
  have hs : (s.onCore fun c => if c.mid then c else c.thaw) = s :=
    onCore_self (if_pos hm)
  rw [he, State.resultLand, if_neg (by simp [hm]), hk, hs]
  simp [hm, hp]

section
variable {s : State}

/-- The state in which the results of a cycle are written. -/
def State.shifted (s : State) : State := s.onCore fun c => c.onCtx Ctx.nextCycle

/-- What a tick in which `rs` land shows of the core and of the bytes. -/
theorem tick_shows {rs : List Result} {u : State} (hd : s.core.ctx.due = rs) (hu : rs.foldl State.apply s.shifted = u) :
    s.tick.core.landed = (u.core.ctx.landed, u.core.time + clockOf u.core.id, u.core.id, false)
    ∧ (u.spmLate = [] → s.tick.bytes = u.bytes) := by
  obtain ⟨hc, hb⟩ := tick_landed s
  obtain ⟨hc', hb'⟩ := landResults_landed s
  rw [hd] at hc' hb'
  rw [show rs.foldl State.apply (s.onCore fun c => c.onCtx Ctx.nextCycle) = u from hu] at hc' hb'
  simp only [Core.landed, Prod.mk.injEq] at hc'
  obtain ⟨hx, ht, hid, hmid⟩ := hc'
  rw [hx, ht, hid] at hc
  refine ⟨hc, fun h => (hb ?_).trans hb'⟩
  exact (congrArg (fun b => b.2.2) hb').trans h

theorem due_single {r : Result} (hr : r.rem = 1) (hs : s.core.ctx.results = [r]) (hb : r.finished s.core.ctx = r) :
    s.core.ctx.due = [r] := by
  simp [Ctx.due, hs, hr, sortResults, insertResult, hb]

theorem shifted_results {r : Result} (hr : r.rem = 1) (hs : s.core.ctx.results = [r]) : s.shifted.core.ctx.results = [] := by
  simp [State.shifted, State.onCore, Core.onCtx, Ctx.nextCycle, hs, hr]

/-- A result that is no beat lands as it stands. -/
theorem finished_of_wr {r : Result} (x : Ctx) (h : ∀ n b, r.wr ≠ .beat n b) : r.finished x = r := by
  rw [Result.finished]
  split
  · next n b hw => exact absurd hw (h n b)
  · rfl

theorem getS_of_sregs {x y : Ctx} (h : x.sregs = y.sregs) (n : BitVec 6) : x.getS n = y.getS n := by
  rw [Ctx.getS, Ctx.getS]
  simp only [h]

theorem apply_scalar {r : Result} {d : BitVec 6} {v : Word} (u : State) (hw : r.wr = .s d v) :
    u.apply r = u.onCore fun c => c.onCtx fun x => x.setS d v := by
  rw [State.apply, hw]

theorem scalar_lands {r : Result} {d : BitVec 6} {v : Word} (hr : r.rem = 1) (hw : r.wr = .s d v)
    (hs : s.core.ctx.results = [r]) (hl : s.spmLate = []) :
    s.tick.core.ctx.getS d = (if d = 0#6 then 0#64 else v)
    ∧ (∀ n, n ≠ d → s.tick.core.ctx.getS n = s.core.ctx.getS n)
    ∧ s.tick.core.ctx.acc = s.core.ctx.acc ∧ s.tick.mem = s.mem ∧ s.tick.spm = s.spm
    ∧ s.tick.core.ctx.results = [] ∧ s.tick.core.ctx.cycle = s.core.ctx.cycle + 1
    ∧ s.tick.core.time = s.core.time + clockOf s.core.id ∧ s.tick.core.mid = false := by
  have hd := due_single hr hs (finished_of_wr _ (by simp [hw]))
  obtain ⟨hc, hb⟩ := tick_shows hd (u := s.shifted.onCore fun c => c.onCtx fun x => x.setS d v) (by
    rw [List.foldl_cons, List.foldl_nil, apply_scalar _ hw])
  have hb := hb hl
  have hres := shifted_results hr hs
  simp only [Core.landed, Ctx.landed, Prod.mk.injEq, State.onCore_core, Core.onCtx, Ctx.setS_acc, Ctx.setS_results, Ctx.setS_cycle,
    hres] at hc
  obtain ⟨⟨hregs, hacc, hresults, hcycle⟩, htime, -, hmid⟩ := hc
  simp only [State.bytes, Prod.mk.injEq] at hb
  obtain ⟨hmem, hspm, -⟩ := hb
  refine ⟨?_, fun n hn => ?_, hacc, hmem, hspm, hresults, hcycle, htime, hmid⟩
  · rw [getS_of_sregs hregs]
    split
    · next h0 => rw [h0, Ctx.getS_zero]
    · next h0 => exact Ctx.getS_setS_same _ _ _ h0
  · exact (getS_of_sregs hregs n).trans (Ctx.getS_setS_other _ _ _ _ hn.symm)

theorem insertResult_before {r q : Result} (h : r.slot < q.slot ∨ (r.slot = q.slot ∧ r.order < q.order)) :
    insertResult r [q] = [r, q] ∧ insertResult q [r] = [r, q] := by
  constructor
  · rw [insertResult, if_pos h]
  · rw [insertResult, if_neg (by omega), insertResult]

theorem higher_slot_wins {r q : Result} {d : BitVec 6} {v w : Word} (hr : r.rem = 1) (hwr : r.wr = .s d v) (hwq : q.wr = .s d w)
    (hq : q.rem = 1) (ho : r.slot < q.slot ∨ (r.slot = q.slot ∧ r.order < q.order)) (hd : d ≠ 0#6)
    (hs : s.core.ctx.results = [r, q] ∨ s.core.ctx.results = [q, r]) : s.tick.core.ctx.getS d = w := by
  have hfr : r.finished s.core.ctx = r := finished_of_wr _ (by simp [hwr])
  have hfq : q.finished s.core.ctx = q := finished_of_wr _ (by simp [hwq])
  obtain ⟨hrq, hqr⟩ := insertResult_before ho
  have hone : ∀ z, insertResult z [] = [z] := fun _ => rfl
  have hdue : s.core.ctx.due = [r, q] := by
    rcases hs with h | h
    · simp [Ctx.due, h, hr, hq, sortResults, hone, hrq, hfr, hfq]
    · simp [Ctx.due, h, hr, hq, sortResults, hone, hqr, hfr, hfq]
  obtain ⟨hc, -⟩ := tick_shows hdue
    (u := (s.shifted.onCore fun c => c.onCtx fun x => x.setS d v).onCore fun c => c.onCtx fun x => x.setS d w) (by
    rw [List.foldl_cons, List.foldl_cons, List.foldl_nil, apply_scalar _ hwr, apply_scalar _ hwq])
  have hregs : s.tick.core.ctx.sregs = ((s.shifted.core.ctx.setS d v).setS d w).sregs := congrArg (fun l => l.1.1) hc
  exact (getS_of_sregs hregs d).trans (Ctx.getS_setS_same _ _ _ hd)

/-- Of the cells written to one byte the last stands. -/
theorem readByte_writeCells_last {m : List Host.Cell} {cells : List (Nat × Byte)} (hm : Memory.wf m) {i a : Nat} {b : Byte}
    (hi : cells[i]? = some (a, b)) (hlast : ∀ (j : Nat) (c : Nat × Byte), i < j → cells[j]? = some c → c.1 ≠ a) :
    readByte (writeCells m cells) a = b := by
  induction cells generalizing m i with
  | nil => exact absurd hi (by simp)
  | cons c cells ih =>
    obtain ⟨k, v⟩ := c
    rw [writeCells]
    cases i with
    | zero =>
      obtain ⟨rfl, rfl⟩ : k = a ∧ v = b := by simpa using hi
      rw [readByte_writeCells_outside fun p hp => ?_, readByte_writeByte_same hm]
      obtain ⟨j, hj⟩ := List.mem_iff_getElem?.mp hp
      exact hlast (j + 1) p (Nat.succ_pos _) (by simpa using hj)
    | succ i => exact ih (writeByte_wf hm) (by simpa using hi) fun j c hj hc => hlast (j + 1) c (by omega) (by simpa using hc)

theorem putSpm_core (u : State) (cells : List (Nat × Byte)) : (u.putSpm cells).core = u.core := rfl

theorem spm_lands {r : Result} {cells : List (Nat × Byte)} (hc : s.canonical) (hl : s.spmLate = []) (hr : r.rem = 1)
    (hw : r.wr = .spm cells) (hs : s.core.ctx.results = [r]) :
    (∀ i a b, cells[i]? = some (a, b) → (∀ (j : Nat) (c : Nat × Byte), i < j → cells[j]? = some c → c.1 ≠ a) →
      readByte s.tick.spm a = b)
    ∧ (∀ a, (∀ c : Nat × Byte, c ∈ cells → c.1 ≠ a) → readByte s.tick.spm a = readByte s.spm a)
    ∧ s.tick.mem = s.mem ∧ (∀ n, s.tick.core.ctx.getS n = s.core.ctx.getS n) ∧ s.tick.core.ctx.acc = s.core.ctx.acc
    ∧ s.tick.core.ctx.results = [] := by
  have hlate : s.shifted.lateGranules = [] := by
    rw [State.lateGranules, show s.shifted.spmLate = [] from hl]
    rfl
  have hwrite : s.shifted.writeSpm cells = s.shifted.putSpm cells := by
    rw [State.writeSpm, hlate]
    rfl
  obtain ⟨hcore, hb⟩ := tick_shows (due_single hr hs (finished_of_wr _ (by simp [hw]))) (u := s.shifted.putSpm cells) (by
    rw [List.foldl_cons, List.foldl_nil, State.apply, hw]
    exact hwrite)
  have hbytes : s.tick.bytes = (s.mem, writeCells s.spm cells, s.spmLate) := hb hl
  simp only [State.bytes, Prod.mk.injEq] at hbytes
  obtain ⟨hmem, hspm, -⟩ := hbytes
  simp only [Core.landed, Ctx.landed, Prod.mk.injEq, putSpm_core, shifted_results hr hs] at hcore
  obtain ⟨⟨hregs, hacc, hresults, -⟩, -⟩ := hcore
  rw [hspm]
  exact ⟨fun i a b => readByte_writeCells_last hc.2, fun a => readByte_writeCells_outside, hmem, getS_of_sregs hregs, hacc, hresults⟩

/-- The cells of a run of bytes. -/
theorem writeCells_run (m : List Host.Cell) (a k : Nat) (bs : List Byte) :
    writeCells m ((bs.zipIdx k).map fun p => (a + p.2, p.1)) = writeBytes m (a + k) bs := by
  induction bs generalizing m k with
  | nil => rfl
  | cons b bs ih =>
    rw [List.zipIdx_cons, List.map_cons, writeCells, writeBytes, ih, ← Nat.add_assoc]

theorem atom_lands {r : Result} {op : AtomOp} {a size : Nat} {x y : Word} {rm : RMode} {ftz : Bool} {d : BitVec 6}
    (hc : s.canonical) (hl : s.spmLate = []) (hr : r.rem = 1) (hw : r.wr = .atom op a size x y rm ftz d)
    (hs : s.core.ctx.results = [r]) :
    let old := leNat (readBytes s.spm a size)
    let new := atomNew op size rm ftz old (x.toNat % 2 ^ (8 * size)) (y.toNat % 2 ^ (8 * size))
    readBytes s.tick.spm a size = leBytes size new.1
    ∧ (∀ b, (b < a ∨ a + size ≤ b) → readByte s.tick.spm b = readByte s.spm b)
    ∧ s.tick.mem = s.mem ∧ (∀ n, s.tick.core.ctx.getS n = s.core.ctx.getS n) ∧ s.tick.core.ctx.acc = s.core.ctx.acc
    ∧ s.tick.core.ctx.results.map (fun z => (z.wr, z.slot, z.rem, z.flags))
      = [(.s d (BitVec.ofNat 64 old), r.slot, 4, new.2)] := by
  intro old new
  have hlate : s.shifted.lateGranules = [] := by
    rw [State.lateGranules, show s.shifted.spmLate = [] from hl]
    rfl
  have hsee : s.shifted.seeSome (s.shifted.lateGranules.filter fun g => g == a / 16) = s.shifted := by
    rw [hlate]
    rfl
  have hrun : writeCells s.shifted.spm ((leBytes size new.1).zipIdx.map fun p => (a + p.2, p.1))
      = writeBytes s.spm a (leBytes size new.1) := writeCells_run _ a 0 _
  obtain ⟨hcore, hb⟩ := tick_shows (due_single hr hs (finished_of_wr _ (by simp [hw])))
    (u := (s.shifted.putSpm ((leBytes size new.1).zipIdx.map fun p => (a + p.2, p.1))).onCore fun c => c.onCtx fun z =>
      { z with results := z.results ++ [{ r with wr := .s d (BitVec.ofNat 64 old), rem := 4, flags := new.2 }] }) (by
    rw [List.foldl_cons, List.foldl_nil, State.apply, hw]
    show State.localAtom _ _ _ _ _ _ _ _ _ _ = _
    rw [State.localAtom, hsee] <;> rfl)
  have hbytes : s.tick.bytes = (s.mem, writeBytes s.spm a (leBytes size new.1), s.spmLate) := by
    rw [← hrun]
    exact hb hl
  simp only [State.bytes, Prod.mk.injEq] at hbytes
  obtain ⟨hmem, hspm, -⟩ := hbytes
  simp only [Core.landed, Ctx.landed, Prod.mk.injEq, State.onCore_core, Core.onCtx, putSpm_core, shifted_results hr hs,
    List.nil_append] at hcore
  obtain ⟨⟨hregs, hacc, hresults, -⟩, -⟩ := hcore
  have hlen : (leBytes size new.1).length = size := leBytes_length _ _
  rw [hspm]
  refine ⟨?_, fun b h => readByte_writeBytes_outside (by rwa [hlen]), hmem, ?_, ?_, ?_⟩
  · have := readBytes_writeBytes (a := a) (bs := leBytes size new.1) hc.2
    rwa [hlen] at this
  · exact getS_of_sregs hregs
  · exact hacc
  · rw [hresults]
    rfl

end

/-- Settles O44: the tick shows the results that land, each kind by its write. -/
theorem scalarResultLands : Obligations.ScalarResultLands := by
  intro s r q d v w hp hm _ hr
  have he := exec_resultLand hp hm
  exact ⟨fun hw hs hl => ⟨_, he, scalar_lands hr hw hs hl⟩,
    fun hwr hwq hq ho hd hs => ⟨_, he, higher_slot_wins hr hwr hwq hq ho hd hs⟩,
    fun cells hc hl hw hs => ⟨_, he, spm_lands hc hl hr hw hs⟩,
    fun op a size x y rm ftz hc hl hw _ hs => ⟨_, he, atom_lands hc hl hr hw hs⟩⟩

end Sys2Proof.Machine
end

section
/-! A step runs the bundle that is due, or raises its trap (R45, R69, R391, R411). -/

namespace Sys2Proof.Machine

/-! ### A step by the event that is next -/

/-- An event that is no issue of a bundle has its meaning. -/
theorem runEvent_of_ne {i : Instr} (s : State) (h : i ≠ .bundleIssue) : runEvent i s = exec i s := by
  unfold runEvent
  split
  · exact absurd rfl h
  · rfl

theorem runEvent_issue (s : State) : runEvent .bundleIssue s = s.bundleIssue.runIssued := rfl

theorem noteStep_silent {s t : State} {i : Instr} (h : s.replays = [] ∨ s.homeStep i = none) : s.noteStep t i = t := by
  rw [State.noteStep]
  split
  · rfl
  · next hr =>
    rcases h with h | h
    · exact absurd (by rw [h]; rfl) hr
    · rw [h]

theorem homeStep_issue (s : State) : s.homeStep .bundleIssue = none := rfl

theorem step_eq (s : State) : step s = match runEvent s.nextEvent.1 s.nextEvent.2 with
    | .next t => .next (s.nextEvent.2.noteStep t s.nextEvent.1)
    | r => r := rfl

theorem step_of_next {s t : State} (h : runEvent s.nextEvent.1 s.nextEvent.2 = .next t) :
    step s = .next (s.nextEvent.2.noteStep t s.nextEvent.1) := by
  rw [step_eq, h]

/-- A step of which the order log takes no note is its event. -/
theorem step_of_silent {s : State} (h : s.nextEvent.2.replays = [] ∨ s.nextEvent.2.homeStep s.nextEvent.1 = none) :
    step s = runEvent s.nextEvent.1 s.nextEvent.2 := by
  rw [step_eq]
  cases runEvent s.nextEvent.1 s.nextEvent.2 with
  | next t => exact congrArg Host.Outcome.next (noteStep_silent h)
  | fault f => rfl
  | refused r => rfl

theorem step_issue {s : State} (h : s.nextEvent.1 = .bundleIssue) : step s = s.nextEvent.2.bundleIssue.runIssued := by
  rw [step_of_silent (.inr (by rw [h]; exact homeStep_issue _)), h, runEvent_issue]

/-- A state in which no cycle is under way ends the step. -/
theorem runIssued_of_not_mid {s : State} (h : s.core.mid = false) : s.runIssued = .next s := if_neg (by simp [h])

theorem runOps_single (i : Instr) (s : State) : runOps [i] s = exec i s := by
  rw [runOps]
  cases exec i s <;> rfl

/-! ### The bundle due -/

section
variable {u : State} {b : BitVec 512} {ops : List Instr}

theorem raise_mid (s : State) (code : Trap) (slot : Nat) : (s.raise code slot).core.mid = s.core.mid := by
  show (s.core.raiseAt code slot s.core.ctx.pc).mid = _
  rw [Core.raiseAt]
  split <;> rfl

/-- A core at its boundary is in no cycle and meets no debug stop. -/
theorem atBoundary_quiet {c : Core} (h : c.atBoundary = true) : c.mid = false ∧ c.dbg.due = none := by
  simp only [Core.atBoundary, Bool.and_eq_true, Bool.not_eq_true', Option.isNone_iff_eq_none] at h
  obtain ⟨⟨⟨⟨⟨-, hm⟩, -⟩, -⟩, hd⟩, -⟩ := h
  exact ⟨hm, hd⟩

/-- With its bytes there, no arming of its tenant and no landing, the bundle due is judged. -/
theorem bundleIssue_bits (ha : u.core.atBoundary = true) (hs : u.stands = false) (hc : u.core.autoCommit = false)
    (hf : u.fetch = .bundle b) (hin : u.core.fetched = true) (harm : u.armOf u.core.space = none) (hl : u.core.landsNow = false) :
    u.bundleIssue = u.tested.issueBits b := by
  have hd : u.tested.core.dbg.due = none := (atBoundary_quiet ha).2
  have hl' : u.tested.core.landsNow = false := hl
  unfold State.bundleIssue
  rw [if_pos ha, hf, hs, hc, hin]
  have ht : (u.onCore fun c => c.stopTest (u.armOf c.space) (b.getLsbD 18)) = u.tested :=
    onCore_congr (f' := fun c => c.stopTest none false) (by simp only [harm]; rfl)
  simp only [Bool.or_self, Bool.not_true, Bool.false_and, Bool.false_eq_true, if_false]
  rw [ht, hd, hl']
  rfl

variable {v : State}

/-- Bytes that do not decode raise the trap of the slots below the fault, and else the fault's own. -/
theorem issueBits_error {e : DecodeError} {k : Nat} (h : decodeBundle v.core.priv b = .error (e, k)) :
    let below := if k = 0 ∨ k = 0xFF then none else v.core.slotFate (decodeBefore v.core.priv b Slot.all)
    (below = none → v.issueBits b = v.raise (decodeTrap e) k) ∧ ∀ t j, below = some (t, j) → v.issueBits b = v.raise t j := by
  rw [State.issueBits, h]
  refine ⟨fun hb => ?_, fun t j hb => ?_⟩
  · simp only [hb]
  · simp only [hb]

theorem issueBits_ok (h : decodeBundle v.core.priv b = .ok ops) : v.issueBits b = v.issueOps (headerOf b) ops := by
  rw [State.issueBits, h]

variable {hdr : BitVec 32}

theorem issueOps_fate {t : Trap} {k : Nat} (hj : v.core.judged = false) (h : v.core.earlyFate hdr ops = some (t, k)) :
    v.issueOps hdr ops = v.raise t k := by
  rw [State.issueOps, if_neg (by simp [hj]), h]

theorem issueResources_free (hw : v.waitCode hdr ops = 0#4) (hr : v.core.rowFate ops = none) :
    v.issueResources hdr ops = v.startIssue hdr ops := by
  rw [State.issueResources, if_neg (by simp [hw]), hr]

/-- A bundle that every check admits goes on to the resources that it needs. -/
theorem issueOps_admitted (h : v.core.judged = true ∨ (v.core.earlyFate hdr ops = none
      ∧ v.core.windowSum (weightOf ops) ≤ v.core.allowAW.toNat ∧ v.operandFate 0 ops = none
      ∧ (∀ i ∈ ops, isTrapOp i = true → v.core.ctx.guardBit (guardIn i) = false)
      ∧ (isSteel v.core.id = true ∨ ops.any steelOnly = false))) : v.issueOps hdr ops = v.issueResources hdr ops := by
  rw [State.issueOps]
  by_cases hj : v.core.judged = true
  · rw [if_pos hj]
  · obtain ⟨hearly, hwindow, hoperands, htraps, hsteel⟩ := h.resolve_left hj
    have htrap : v.core.ctx.trapOp ops = none := by
      rw [Ctx.trapOp, List.find?_eq_none]
      intro i hi
      by_cases hk : isTrapOp i = true
      · simp [hk, htraps i hi hk]
      · simp [hk]
    rw [if_neg hj, hearly]
    simp only
    rw [if_neg (by omega), State.issueOperands, hoperands, htrap]
    simp only
    rw [if_neg]
    rcases hsteel with h | h <;> simp [h]

end

/-- Settles O39: the step by its event, and the bundle by the first check that it fails. -/
theorem stepRunsBundle : Obligations.StepRunsBundle := by
  intro s b ops u v
  refine ⟨fun hev => ⟨fun t ht => ?_, fun hq => ?_⟩, fun hev ha hs hc hf hin harm hl => ?_⟩
  · exact step_of_next ((runEvent_of_ne u hev).trans ht)
  · exact (step_of_silent hq).trans (runEvent_of_ne u hev)
  · have hbits : u.bundleIssue = v.issueBits b := bundleIssue_bits ha hs hc hf hin harm hl
    have hstep : step s = (v.issueBits b).runIssued := (step_issue hev).trans (by rw [hbits])
    have hmid : v.core.mid = false := (atBoundary_quiet ha).1
    have hraise : ∀ t k, (v.raise t k).runIssued = .next (v.raise t k) := fun t k =>
      runIssued_of_not_mid ((raise_mid v t k).trans hmid)
    refine ⟨fun e k hd => ?_, fun hd => ⟨fun t k hj he => ?_, fun hok hw hr => ?_⟩⟩
    · obtain ⟨hown, hbelow⟩ := issueBits_error (v := v) hd
      exact ⟨fun h => by rw [hstep, hown h, hraise], fun t j h => by rw [hstep, hbelow t j h, hraise]⟩
    · rw [hstep, issueBits_ok (v := v) hd, issueOps_fate hj he, hraise]
    · have hrun : v.issueBits b = v.startIssue (headerOf b) ops := by
        rw [issueBits_ok (v := v) hd, issueOps_admitted hok, issueResources_free hw hr]
      have hops : step s = runOps ops (v.startIssue (headerOf b) ops) := by rw [hstep, hrun]; rfl
      refine ⟨congrArg Host.Outcome.next (hbits.trans hrun), hops, fun i hi => ?_⟩
      subst hi
      exact hops.trans (runOps_single i _)

end Sys2Proof.Machine
end

section
/-! Landings that are due, late data, bounded waits, fetches and page hashes (R88, R89, R91, R93, R94, R285, R343, R412). -/

namespace Sys2Proof.Machine

/-! ### Landings that are due -/

section
variable {s : State} {l : Landing}

theorem exec_landing (hl : s.core.landsNow = true) (ht : s.core.ticking = true) (hn : s.core.trap = none) :
    exec .landing s = .next s.landing :=
  congrArg Host.Outcome.next (if_pos (by simp [hl, ht, hn]))

theorem exec_lateDataArrival (hl : s.core.landsNow = true) (hf : s.core.lateFrom.isSome = true)
    (hd : (s.core.ctx.dueLandings.all fun l => !l.missing) = true) : exec .lateDataArrival s = .next s.landing :=
  congrArg Host.Outcome.next (if_pos (by rw [hl, hf, hd]; rfl))

/-- With nothing late and no error every landing that is due lands. -/
theorem landing_lands (hd : (s.core.ctx.dueLandings.all fun l => !l.missing) = true) (hb : s.core.ctx.beatErrors = [])
    (he : s.core.ctx.landingErrors = []) : s.landing = s.onCore fun c => c.thaw.onCtx Ctx.landDue := by
  have hlate : s.core.ctx.dueLandings.filter Landing.missing = [] := by
    rw [List.filter_eq_nil_iff]
    intro l hl
    simpa using List.all_eq_true.mp hd l hl
  rw [State.landing, hlate, hb, he]
  rfl

/-- A landing without its data freezes the core. -/
theorem landing_late (hd : s.core.ctx.dueLandings = [l]) (hdata : l.data = none) (herr : l.err = none)
    (hk : (l.kind == .wait true) = false) :
    s.landing = (s.onCore fun c => { c with lateFrom := some (c.lateFrom.getD c.time) }).freezeClock
      (codeMax (if l.kind = .wait false then 6#4 else 2#4)
        (if s.core.phase = .ready ∧ s.core.dbg.skip = true then s.dueCode else 0#4)) := by
  have hm : l.missing = true := by rw [Landing.missing, hdata, herr]; rfl
  have hlate : s.core.ctx.dueLandings.filter Landing.missing = [l] := by rw [hd]; simp [hm]
  have hfind : ([l].find? fun l => !l.suspends) = some l := by simp [Landing.suspends, hk]
  have hkind : lateKind [l] = if l.kind = .wait false then 6#4 else 2#4 := by simp [lateKind]
  rw [State.landing, hlate]
  simp only
  rw [hfind]
  simp only
  rw [State.lateCode, hkind]

/-- The error of a request is raised at its operation. -/
theorem landing_error {t : Trap} (hd : s.core.ctx.dueLandings = [l]) (herr : l.err = some t) (hb : s.core.ctx.beatErrors = []) :
    s.landing = s.onCore fun c => c.thaw.raiseAt t l.slot l.pc := by
  have hm : l.missing = false := by rw [Landing.missing, herr]; simp
  have hlate : s.core.ctx.dueLandings.filter Landing.missing = [] := by rw [hd]; simp [hm]
  have herrs : s.core.ctx.landingErrors = [(t, l.slot, l.pc)] := by rw [Ctx.landingErrors, hd]; simp [herr]
  rw [State.landing, hlate, hb, herrs]
  rfl

end

/-! ### The bound of a frozen WAITV -/

/-- The first entry that passes a test is the first that passes a stricter one, if it passes that too. -/
theorem find_stricter {α : Type} {p q : α → Bool} {l : List α} {a : α} (h : l.find? p = some a) (hpq : ∀ x, q x = true → p x = true)
    (hq : q a = true) : l.find? q = some a := by
  rw [List.find?_eq_some_iff_append] at h ⊢
  obtain ⟨-, as, bs, hl, hn⟩ := h
  refine ⟨hq, as, bs, hl, fun b hb => ?_⟩
  cases hqb : q b with
  | false => rfl
  | true => exact absurd (hpq b hqb) (by simpa using hn b hb)

section
variable {s : State} {l : Landing} {e : Entry} {cond : Word} {pa since : Nat} {m : Mapping}

/-- The frozen WAITV whose bound has passed. -/
theorem boundWait_only (hf : s.core.lateFrom = some since) (ht : since + 16384 * 24 ≤ s.core.time)
    (hl : (s.core.ctx.landings.filter fun l => l.rem == 1 && l.kind == .wait false && l.missing) = [l])
    (he : (s.core.fifo.find? fun e => e.landing == some l.id) = some e) (hfree : s.entryFree e = true)
    (hr : s.reach e.space e.va (e.access false) ⟨true, true⟩ = .go pa m) : s.boundWait = some e := by
  rw [State.boundWait, hf, if_pos (by simpa using ht), hl, List.findSome?_cons]
  rw [find_stricter he]
  · intro x hx
    rw [Bool.and_eq_true, Bool.and_eq_true] at hx
    exact hx.1.1
  · simp only [hfree, hr, List.find?_some he, Bool.and_self]

theorem exec_waitvBoundExpiry (hb : s.boundWait = some e) (hop : e.op = .wait cond) :
    exec .waitvBoundExpiry s = .next (s.performWait e cond true) := by
  have hx : exec .waitvBoundExpiry s = execWaitvBoundExpiry s := rfl
  rw [hx, execWaitvBoundExpiry, hb]
  simp only
  rw [hop]

theorem performWait_go (hr : s.reach e.space e.va (e.access false) ⟨true, true⟩ = .go pa m) (hp : s.poisoned pa 8 = false) :
    (e.part = [] → s.performWait e cond true = s.endWait e pa)
    ∧ ∀ u bs rest, e.part = (u, bs) :: rest → s.performWait e cond true = s.endWaitAt e pa u (leNat bs) := by
  rw [State.performWait, hr]
  simp only
  rw [hp]
  refine ⟨fun h => ?_, fun u bs rest h => ?_⟩
  · rw [h] <;> rfl
  · rw [h] <;> rfl

end

/-! ### Fetches and page hashes -/

section
variable {s : State} {b : BitVec 512} {pa : Nat} {m : Mapping} {o : CodeObj}

theorem fetchIn_core (h : s.physOf s.core.space (addrOf s.core.ctx.pc).toNat = some pa) :
    s.fetchIn.core = { s.core with fetched := true } := by
  rw [State.fetchIn, h]
  show ({ (State.core _) with fetched := true } : Core) = _
  rw [icacheFill_core, homeTouch_core]

theorem exec_fetchArrival (h : s.fetch = .bundle b) : exec .fetchArrival s = .next s.fetchIn := by
  have hx : exec .fetchArrival s = execFetchArrival s := rfl
  rw [hx, execFetchArrival, h]

/-- The object in which the page that has been checked stands. -/
def CodeObj.checked (o : CodeObj) (i : Nat) (ok : Bool) : CodeObj :=
  { o with pages := o.pages.set i (if ok then .verified else .poisoned) }

theorem codePageLoad_objects
    (hx : s.xlate s.core.space (addrOf s.core.ctx.pc) ⟨false, true, false, false, s.core.priv⟩ = .at_ pa m)
    (ho : (s.objects.find? fun o => o.holds s.core.space (addrOf s.core.ctx.pc).toNat) = some o)
    (hp : o.pages.getD (((addrOf s.core.ctx.pc).toNat - o.text) / 65536) .unloaded = .unloaded)
    (hc : ∀ a, s.codePageStop o (((addrOf s.core.ctx.pc).toNat - o.text) / 65536) ≠ some (.inr a)) :
    s.codePageLoad.objects = s.objects.map fun p => if p.space = o.space ∧ p.base = o.base then
      o.checked (((addrOf s.core.ctx.pc).toNat - o.text) / 65536)
        (s.pageSound o (((addrOf s.core.ctx.pc).toNat - o.text) / 65536)) else p := by
  rw [State.codePageLoad, hx]
  simp only
  rw [ho]
  simp only
  rw [hp]
  simp only [bne_self_eq_false, Bool.false_eq_true, if_false]
  cases hstop : s.codePageStop o (((addrOf s.core.ctx.pc).toNat - o.text) / 65536) with
  | none => cases s.pageSound o _ <;> rfl
  | some r =>
    cases r with
    | inl t => cases s.pageSound o _ <;> rfl
    | inr a => exact absurd hstop (hc a)

end

/-- Settles O47: the landings by their cases, the wait that is over, the fetch, and the page that is checked. -/
theorem landings : Obligations.Landings := by
  intro s x lands
  refine ⟨fun hl ht hb he hd => ⟨fun hk => ?_, fun hf => ?_⟩, fun l hl ht hk hd => ?_, ?_, ?_, ?_⟩
  · rw [exec_landing hl hk ht, landing_lands hd hb he]
    rfl
  · rw [exec_lateDataArrival hl hf hd, landing_lands hd hb he]
    rfl
  · intro due late
    have hx : exec .landing s = .next s.landing := exec_landing hl hk ht
    refine ⟨fun hdata herr hkind => ?_, fun hdata herr hkind => ?_, fun t herr hb => ?_⟩
    · have hw : l.kind ≠ .wait false ∧ (l.kind == .wait true) = false := by
        rcases hkind with h | h <;> rw [h] <;> decide
      have h := landing_late hd hdata herr hw.2
      rw [if_neg hw.1] at h
      exact hx.trans (congrArg Host.Outcome.next h)
    · have h := landing_late hd hdata herr (by rw [hkind]; rfl)
      rw [if_pos hkind] at h
      exact hx.trans (congrArg Host.Outcome.next h)
    · exact hx.trans (congrArg Host.Outcome.next (landing_error hd herr hb))
  · intro l e cond pa m since hf ht hl he hop hfree hr hp
    obtain ⟨hnone, hsome⟩ := performWait_go (cond := cond) hr hp
    have hx := exec_waitvBoundExpiry (boundWait_only hf ht hl he hfree hr) hop
    exact ⟨fun h => hx.trans (congrArg Host.Outcome.next (hnone h)),
      fun u bs rest h => hx.trans (congrArg Host.Outcome.next (hsome u bs rest h))⟩
  · intro b pa hf hp
    exact ⟨_, exec_fetchArrival hf, fetchIn_core hp, sameBytes_of_store (fetchIn_store s)⟩
  · intro pa m o hx ho i hp hc
    exact ⟨_, rfl, codePageLoad_objects hx ho hp hc, sameBytes_of_store (codePageLoad_store s)⟩

end Sys2Proof.Machine
end

section
/-! Walks, page-ins, shootdowns and the publication of bodies (R238, R239, R241, R346). -/

namespace Sys2Proof.Machine

section
variable {s : State} {sp : Space} {va unit : Nat} {m : Mapping}

/-! ### Mappings -/

/-- The mapping of an address is of its space and covers it. -/
theorem mappingOf_some (h : s.mappingOf sp va = some m) : m ∈ s.maps ∧ m.space = sp ∧ m.va ≤ va ∧ va < m.va + m.size := by
  have hp := List.find?_some h
  simp only [Bool.and_eq_true, decide_eq_true_eq] at hp
  obtain ⟨⟨hs, hlo⟩, hhi⟩ := hp
  exact ⟨List.mem_of_find?_eq_some h, hs, hlo, hhi⟩

/-- The element found is found again in the place of every element that was replaced by one that passes the test. -/
theorem find_replaced {α : Type} {p g : α → Bool} {l : List α} {a b : α} (h : l.find? p = some a) (hg : g a = true) (hb : p b = true) :
    (l.map fun n => if g n then b else n).find? p = some b := by
  induction l with
  | nil => exact nomatch h
  | cons n l ih =>
    rw [List.map_cons]
    by_cases hn : g n = true
    · rw [if_pos hn, List.find?_cons_of_pos hb]
    · rw [if_neg hn]
      by_cases hp : p n = true
      · rw [List.find?_cons_of_pos hp] at h
        exact absurd (Option.some.inj h ▸ hg) hn
      · rw [List.find?_cons_of_neg hp] at h ⊢
        exact ih h

/-- A mapping that takes the place of the one at an address, with its key and its size, is the one at the address. -/
theorem mappingOf_setMapping {n : Mapping} (h : s.mappingOf sp va = some m) (hs : n.space = m.space) (hv : n.va = m.va)
    (hz : n.size = m.size) : (s.setMapping n).mappingOf sp va = some n := by
  obtain ⟨-, hsp, hlo, hhi⟩ := mappingOf_some h
  have hr := find_replaced (g := fun x => decide (x.space = n.space ∧ x.va = n.va)) (b := n) h (by simp [hs, hv])
    (by simp only [hs, hv, hz, Bool.and_eq_true, decide_eq_true_eq]; exact ⟨⟨hsp, hlo⟩, hhi⟩)
  simp only [decide_eq_true_eq] at hr
  exact hr

/-! ### Walks -/

theorem exec_pageWalk (va : BitVec 64) : exec (.pageWalk sp va) s = .next (s.pageWalk sp va.toNat) := rfl

/-- With one unit that waits, that one's walk is made. -/
theorem pageWalk_single (h : s.walkUnits sp va = [unit]) : s.pageWalk sp va = match s.mappingOf sp va with
    | none => s.endWalk sp va unit
    | some m => if m.present then s.walkDone m va unit else if m.isRefused then s.endWalk sp va unit else s := by
  rw [State.pageWalk, h]
  rfl

theorem walkDone_fields (m : Mapping) (va unit : Nat) :
    (s.walkDone m va unit).pageWalks = s.pageWalks.erase (m.space, va, unit)
    ∧ (s.walkDone m va unit).tlb = (s.cores.filter fun c => c.serves m.space && chipletOf c.id.toNat == unit).foldl
      (fun t c => fillTlb t c.id.toNat m.space m.va) s.tlb
    ∧ (unit < 8 → (s.walkDone m va unit).caches.tlb2 = fillTlb2 s.caches.tlb2 unit m.space m.va) := by
  rw [State.walkDone]
  split
  · exact ⟨rfl, rfl, fun hu => if_pos hu⟩
  · exact ⟨rfl, rfl, fun hu => if_pos hu⟩

theorem pageWalk_present (va : BitVec 64) (hw : s.walkUnits sp va.toNat = [unit]) (hm : s.mappingOf sp va.toNat = some m)
    (hp : m.present = true) : ∃ t, exec (.pageWalk sp va) s = .next t ∧ t.pageWalks = s.pageWalks.erase (sp, va.toNat, unit)
      ∧ s.sameBytes t
      ∧ t.tlb = (s.cores.filter fun c => c.serves sp && chipletOf c.id.toNat == unit).foldl
        (fun t c => fillTlb t c.id.toNat sp m.va) s.tlb
      ∧ (unit < 8 → t.caches.tlb2 = fillTlb2 s.caches.tlb2 unit sp m.va) := by
  obtain ⟨-, hs, -, -⟩ := mappingOf_some hm
  obtain ⟨hwalks, htlb, htlb2⟩ := walkDone_fields (s := s) m va.toNat unit
  rw [hs] at hwalks htlb htlb2
  refine ⟨s.walkDone m va.toNat unit, ?_, hwalks, sameBytes_of_store (walkDone_store s m _ _), htlb, htlb2⟩
  rw [exec_pageWalk, pageWalk_single hw, hm]
  simp only
  rw [if_pos hp]

theorem pageWalk_gone (va : BitVec 64) (hw : s.walkUnits sp va.toNat = [unit])
    (hm : s.mappingOf sp va.toNat = none ∨ ∃ m, s.mappingOf sp va.toNat = some m ∧ m.present = false ∧ m.isRefused = true) :
    exec (.pageWalk sp va) s = .next { s with pageWalks := s.pageWalks.erase (sp, va.toNat, unit) } := by
  rw [exec_pageWalk, pageWalk_single hw]
  rcases hm with hm | ⟨m, hm, hp, hr⟩
  · rw [hm] <;> rfl
  · rw [hm]
    simp only
    rw [if_neg (by simp [hp]), if_pos hr] <;> rfl

/-! ### Page-ins -/

/-- A page that is wanted and neither unpublished nor moved comes in as its backing says. -/
theorem pageIn_away (hm : s.mappingOf sp va = some m) (hp : m.present = false) (hu : s.unpublished m = false)
    (hv : s.moving m = false) : s.pageIn sp va = match m.back with
      | .later d => s.backPage m d
      | .refused d => s.backPage m d
      | .frame => s.setMapping { m with present := true }
      | .heap => s.setMapping { m with present := true }
      | .image _ _ => s.setMapping { m with present := true }
      | .stub => s := by
  obtain ⟨-, hs, -, -⟩ := mappingOf_some hm
  rw [State.moving, hs] at hv
  rw [State.pageIn, hm]
  simp only
  rw [if_neg (by simp only [hp, hu, hv, Bool.or_self]; decide)] <;> rfl

theorem pageIn_framed (va : BitVec 64) (hm : s.mappingOf sp va.toNat = some m) (hp : m.present = false) (hu : s.unpublished m = false)
    (hv : s.moving m = false) (hb : m.back = .frame ∨ m.back = .heap) :
    exec (.pageIn sp va) s = .next (s.setMapping { m with present := true }) := by
  refine congrArg Host.Outcome.next ((pageIn_away hm hp hu hv).trans ?_)
  rcases hb with hb | hb
  · rw [hb]
  · rw [hb]

theorem pageIn_backed (va : BitVec 64) (hm : s.mappingOf sp va.toNat = some m) (hp : m.present = false) (hu : s.unpublished m = false)
    (hv : s.moving m = false) {d : Bool} (hb : m.back = .later d ∨ m.back = .refused d) :
    (s.newFrame sp.part d m.size = none → exec (.pageIn sp va) s = .next (s.setMapping { m with back := .refused d }))
    ∧ ∀ pa u, s.newFrame sp.part d m.size = some (pa, u) →
      exec (.pageIn sp va) s = .next (u.setMapping { m with pa := pa, present := true, back := .frame }) := by
  have hin : exec (.pageIn sp va) s = .next (s.backPage m d) := by
    refine congrArg Host.Outcome.next ((pageIn_away hm hp hu hv).trans ?_)
    rcases hb with hb | hb
    · rw [hb]
    · rw [hb]
  obtain ⟨-, hs, -, -⟩ := mappingOf_some hm
  refine ⟨fun hn => ?_, fun pa u hn => ?_⟩
  · rw [hin, State.backPage, hs, hn]
  · rw [hin, State.backPage, hs, hn]

/-! ### Shootdowns -/

/-- A shootdown that begins takes the page out of every TLB. -/
theorem beginShoot_fresh (hv : s.moving m = false) (newPa : Option Nat) : s.beginShoot m newPa =
    { s.setMapping { m with present := false } with
      tlb := s.tlb.filter fun e => !(decide (e.2.1 = m.space) && e.2.2 == m.va)
      caches := { s.caches with tlb2 := s.caches.tlb2.filter fun e => !(decide (e.2.1 = m.space) && e.2.2 == m.va) }
      moves := s.moves ++ [(m.space, m.va, newPa, s.time)] } := if_neg (by simp [hv])

/-- The first steps of a shootdown hold back no transfer and no pin. -/
theorem beginShoot_shootClear (hv : s.moving m = false) (newPa : Option Nat) (n : Mapping) :
    (s.beginShoot m newPa).shootClear n = s.shootClear n := by
  rw [beginShoot_fresh hv] <;> rfl

theorem beginShoot_moving (hv : s.moving m = false) (newPa : Option Nat) : (s.beginShoot m newPa).moving m = true := by
  rw [beginShoot_fresh hv, State.moving]
  simp

theorem dropPage_tlb (n : Mapping) : (s.dropPage n).tlb = s.tlb := by
  rw [State.dropPage]
  split <;> rfl

theorem endUnmap_tlb (n : Mapping) : (s.endUnmap n).tlb = s.tlb := by
  have hgive : ∀ u : State, (u.giveBack n).tlb = u.tlb := by
    intro u
    rw [State.giveBack]
    split <;> rfl
  have hrelease : ∀ u : State, (u.releaseFrame n.pa n.size n.space.part).tlb = u.tlb := by
    intro u
    rw [State.releaseFrame]
    split <;> rfl
  rw [State.endUnmap]
  split
  · exact (hgive _).trans (dropPage_tlb n)
  · exact ((hrelease _).trans (hgive _)).trans (dropPage_tlb n)

/-- A page that has been unmapped is in no mapping. -/
theorem endUnmap_maps (n : Mapping) : ∀ x ∈ (s.endUnmap n).maps, ¬ (x.space = n.space ∧ x.va = n.va) := by
  have hgive : ∀ u : State, (∀ x ∈ u.maps, ¬ (x.space = n.space ∧ x.va = n.va)) →
      ∀ x ∈ (u.giveBack n).maps, ¬ (x.space = n.space ∧ x.va = n.va) := by
    intro u hu x hx
    rw [State.giveBack] at hx
    split at hx
    · exact hu x hx
    · obtain ⟨y, hy, rfl⟩ := List.mem_map.mp hx
      have hkey := hu y hy
      cases hb : y.back <;> simpa only [hb] using hkey
  have hrelease : ∀ u : State, (u.releaseFrame n.pa n.size n.space.part).maps = u.maps := by
    intro u
    rw [State.releaseFrame]
    split <;> rfl
  have hfilter : ∀ (l : List Mapping), ∀ x ∈ l.filter (fun x => !(decide (x.space = n.space) && x.va == n.va)),
      ¬ (x.space = n.space ∧ x.va = n.va) := by
    intro l x hx
    have := (List.mem_filter.mp hx).2
    simpa only [Bool.not_eq_true', Bool.and_eq_false_iff, decide_eq_false_iff_not, beq_eq_false_iff_ne, ne_eq, not_and_or] using this
  rw [State.endUnmap]
  split
  · exact hgive _ (hfilter _)
  · rw [hrelease]
    exact hgive _ (hfilter _)

theorem shootdown_away (hm : s.mappingOf sp va = some m) (hv : s.moving m = false) :
    (s.pageHeld m false = true → s.shootdown sp va none = s)
    ∧ (s.pageHeld m false = false → s.shootClear m = true →
      s.shootdown sp va none = (s.beginShoot m none).endUnmap { m with present := false })
    ∧ (s.pageHeld m false = false → s.shootClear m = false → s.shootdown sp va none = s.beginShoot m none) := by
  have hc := beginShoot_shootClear hv none m
  rw [State.shootdown, hm]
  simp only
  refine ⟨fun hp => ?_, fun hp h => ?_, fun hp h => ?_⟩
  · rw [if_pos (by simp [hv, hp])]
  · rw [if_neg (by simp [hp]), hc, if_pos h]
  · rw [if_neg (by simp [hp]), hc, if_neg (by simp [h])]

/-- The entries of the TLBs that a shootdown of the page leaves. -/
theorem beginShoot_tlb (hs : m.space = sp) (hv : s.moving m = false) (newPa : Option Nat) :
    (s.beginShoot m newPa).tlb = s.tlb.filter fun e => !(decide (e.2.1 = sp) && e.2.2 == m.va) := by
  rw [beginShoot_fresh hv, ← hs]

theorem shootdown_clear (va : BitVec 64) (hm : s.mappingOf sp va.toNat = some m) (hv : s.moving m = false)
    (hp : s.pageHeld m false = false) (hc : s.shootClear m = true) : ∃ t, exec (.shootdown sp va none) s = .next t
      ∧ t.tlb = s.tlb.filter (fun e => !(decide (e.2.1 = sp) && e.2.2 == m.va)) ∧ s.sameBytes t
      ∧ ∀ n ∈ t.maps, ¬ (n.space = sp ∧ n.va = m.va) := by
  obtain ⟨-, hs, -, -⟩ := mappingOf_some hm
  refine ⟨_, congrArg Host.Outcome.next ((shootdown_away hm hv).2.1 hp hc), ?_, ?_, ?_⟩
  · rw [endUnmap_tlb, beginShoot_tlb hs hv]
  · exact sameBytes_of_store ((endUnmap_store _ _).trans (beginShoot_store s m none))
  · have := endUnmap_maps (s := s.beginShoot m none) { m with present := false }
    rw [← hs]
    exact this

theorem shootdown_waits (va : BitVec 64) (hm : s.mappingOf sp va.toNat = some m) (hv : s.moving m = false)
    (hp : s.pageHeld m false = false) (hc : s.shootClear m = false) : ∃ t, exec (.shootdown sp va none) s = .next t
      ∧ t.tlb = s.tlb.filter (fun e => !(decide (e.2.1 = sp) && e.2.2 == m.va)) ∧ s.sameBytes t ∧ t.moving m = true
      ∧ t.mappingOf sp va.toNat = some { m with present := false } := by
  obtain ⟨-, hs, -, -⟩ := mappingOf_some hm
  refine ⟨_, congrArg Host.Outcome.next ((shootdown_away hm hv).2.2 hp hc), beginShoot_tlb hs hv none,
    sameBytes_of_store (beginShoot_store s m none), beginShoot_moving hv none, ?_⟩
  have h := mappingOf_setMapping (n := { m with present := false }) hm rfl rfl rfl
  rw [beginShoot_fresh hv]
  exact h

/-! ### Moves -/

/-- Where the page stands alone on its frame, its place in the table is the one that names the frame once it is away. -/
theorem aliases_away (hg : m ∈ s.maps) (ha : s.aliases m = [m]) :
    (∀ n ∈ (s.setMapping { m with present := false }).aliases m, n = { m with present := false })
    ∧ (s.setMapping { m with present := false }).aliases m ≠ [] := by
  have hself : (!m.remote && m.held && meets m.pa m.size m.pa m.size) = true := by
    have : m ∈ s.aliases m := by rw [ha]; exact List.mem_singleton_self m
    exact (List.mem_filter.mp this).2
  refine ⟨fun n hn => ?_, fun h => ?_⟩
  · obtain ⟨hn, hp⟩ := List.mem_filter.mp hn
    obtain ⟨x, hx, rfl⟩ := List.mem_map.mp hn
    by_cases hk : x.space = m.space ∧ x.va = m.va
    · exact if_pos hk
    · rw [if_neg hk] at hp
      have hin : x ∈ s.aliases m := List.mem_filter.mpr ⟨hx, hp⟩
      rw [ha, List.mem_singleton] at hin
      exact absurd (by rw [hin]; exact ⟨rfl, rfl⟩) hk
  · have hin : { m with present := false } ∈ (s.setMapping { m with present := false }).aliases m :=
      List.mem_filter.mpr ⟨List.mem_map.mpr ⟨m, hg, if_pos ⟨rfl, rfl⟩⟩, hself⟩
    rw [h] at hin
    exact absurd hin (by simp)

/-- Drops of pages change no mapping, no TLB and no byte. -/
theorem dropPages_fields (group : List Mapping) (u : State) :
    let t := group.foldl (fun s n => (s.dropPage n).moveOver n) u
    t.maps = u.maps ∧ t.tlb = u.tlb ∧ t.mem = u.mem ∧ t.spm = u.spm := by
  induction group generalizing u with
  | nil => exact ⟨rfl, rfl, rfl, rfl⟩
  | cons n group ih =>
    have hd : (u.dropPage n).maps = u.maps ∧ (u.dropPage n).tlb = u.tlb ∧ (u.dropPage n).mem = u.mem ∧ (u.dropPage n).spm = u.spm := by
      rw [State.dropPage]
      split <;> exact ⟨rfl, rfl, rfl, rfl⟩
    obtain ⟨h1, h2, h3, h4⟩ := ih ((u.dropPage n).moveOver n)
    obtain ⟨d1, d2, d3, d4⟩ := hd
    exact ⟨h1.trans d1, h2.trans d2, h3.trans d3, h4.trans d4⟩

/-- Mappings set one after the other change neither the TLBs nor a byte; if each of them is `x`, which fits the place of the mapping at an
address, `x` is the mapping there. -/
theorem setMappings_fields (f : Mapping → Mapping) (x : Mapping) (group : List Mapping) (u : State) (hx : ∀ n ∈ group, f n = x) :
    let t := group.foldl (fun s n => s.setMapping (f n)) u
    t.tlb = u.tlb ∧ t.mem = u.mem ∧ t.spm = u.spm
    ∧ ∀ y, u.mappingOf sp va = some y → x.space = y.space → x.va = y.va → x.size = y.size → group ≠ [] → t.mappingOf sp va = some x := by
  induction group generalizing u with
  | nil => exact ⟨rfl, rfl, rfl, fun y _ _ _ _ h => absurd rfl h⟩
  | cons n group ih =>
    obtain ⟨h1, h2, h3, h4⟩ := ih (u.setMapping (f n)) fun k hk => hx k (List.mem_cons_of_mem _ hk)
    refine ⟨h1, h2, h3, fun y hy hs hv hz _ => ?_⟩
    have hset : (u.setMapping (f n)).mappingOf sp va = some x := by
      rw [hx n List.mem_cons_self]
      exact mappingOf_setMapping hy hs hv hz
    cases group with
    | nil => exact hset
    | cons k ks => exact h4 x hset rfl rfl rfl (by simp)

/-- A page that stands alone on its frame moves in one step where nothing keeps it. -/
theorem shootdown_moves (va : BitVec 64) {pa : Nat} (hm : s.mappingOf sp va.toNat = some m) (hv : s.moving m = false)
    (hmov : s.movable m = true) (hopen : s.frameOpen m pa = true) (ha : s.aliases m = [m]) (hc : s.shootClear m = true) :
    ∃ t, exec (.shootdown sp va (some pa)) s = .next t
      ∧ t.tlb = s.tlb.filter (fun e => !(decide (e.2.1 = sp) && e.2.2 == m.va))
      ∧ t.mem = (s.copyFrame m.pa pa m.size).mem ∧ t.spm = s.spm ∧ t.mappingOf sp va.toNat = some { m with pa := pa, present := true } := by
  obtain ⟨hin, hs, -, -⟩ := mappingOf_some hm
  obtain ⟨hall, hne⟩ := aliases_away hin ha
  have hclear : (s.beginShoot m (some pa)).shootClear m = true := (beginShoot_shootClear hv _ m).trans hc
  have haway := mappingOf_setMapping (n := { m with present := false }) hm rfl rfl rfl
  have htlb := beginShoot_tlb hs hv (some pa)
  have hbegun : (s.beginShoot m (some pa)).aliases m = (s.setMapping { m with present := false }).aliases m
      ∧ (s.beginShoot m (some pa)).mappingOf sp va.toNat = some { m with present := false }
      ∧ (s.beginShoot m (some pa)).mem = s.mem ∧ (s.beginShoot m (some pa)).spm = s.spm := by
    rw [beginShoot_fresh hv]
    exact ⟨rfl, haway, rfl, rfl⟩
  obtain ⟨halias, hmap, hmem, hspm⟩ := hbegun
  rw [← halias] at hall hne
  have hrun : s.shootdown sp va.toNat (some pa) = (s.beginShoot m (some pa)).endMove m pa := by
    rw [State.shootdown, hm]
    simp only
    rw [if_neg (by simp [hmov, hv, hopen]), ha, List.foldl_cons, List.foldl_nil, Nat.sub_self, Nat.add_zero,
      if_pos (List.all_eq_true.mpr fun n hn => ?_)]
    rw [hall n hn]
    exact hclear
  refine ⟨_, congrArg Host.Outcome.next hrun, ?_⟩
  generalize s.beginShoot m (some pa) = u at *
  obtain ⟨dmaps, dtlb, dmem, dspm⟩ := dropPages_fields (u.aliases m) u
  rw [State.endMove]
  generalize (u.aliases m).foldl (fun s n => (s.dropPage n).moveOver n) u = w at *
  obtain ⟨stlb, smem, sspm, smap⟩ := setMappings_fields (sp := sp) (va := va.toNat)
    (fun n => { n with pa := pa + (n.pa - m.pa), present := true }) { m with pa := pa, present := true } (u.aliases m)
    (w.copyFrame m.pa pa m.size) (fun n hn => by rw [hall n hn]; simp)
  generalize (u.aliases m).foldl _ (w.copyFrame m.pa pa m.size) = x at *
  refine ⟨stlb.trans (dtlb.trans htlb), smem.trans ?_, sspm.trans (dspm.trans hspm), ?_⟩
  · rw [State.copyFrame, State.copyFrame, State.mapCores, State.mapCores]
    simp only [dmem, hmem]
  · refine smap { m with present := false } ?_ rfl rfl rfl hne
    rw [← hmap]
    exact congrArg (fun l => List.find? _ l) dmaps

/-! ### The publication of bodies -/

theorem partOf_id {p : Part} {i : Nat} (h : s.partOf i = some p) : p.id = i := by simpa using List.find?_some h

theorem bodyPublish_room {stub : Nat} {body : List Byte} {b : Stub} {p : Part} {c : Core} {at_ : Nat} {t : State}
    (hb : (s.stubs.find? fun b => decide (b.space = sp) && b.stub == stub && b.body.isNone) = some b)
    (hp : s.partOf sp.part = some p) (hw : s.stubWaiter b = some c) (hok : s.bodyOk p body = true)
    (hroom : p.heapUsed + body.length ≤ p.heap) (he : s.evictFor p.id body.length = s)
    (hat : s.bodyPlace sp stub ((body.length + 65535) / 65536) = some at_)
    (ht : s.heapPages b ((body.length + 65535) / 65536) at_ = some t) :
    exec (.bodyPublish sp stub body) s = .next (t.publish b body at_) := by
  have hx : exec (.bodyPublish sp stub body) s = .next (s.bodyPublish sp stub body) := rfl
  have hp' : s.partOf p.id = some p := by rw [partOf_id hp]; exact hp
  rw [hx, State.bodyPublish, hb, hp]
  simp only
  rw [hw]
  simp only
  rw [if_neg (by simp [hok]), he, hp']
  simp only
  rw [if_neg (by omega), hat]
  simp only
  rw [ht]

end

/-- Settles O53: walks, page-ins and shootdowns by the mapping of the address, and the body that is published. -/
theorem pages : Obligations.Pages := by
  intro s sp va
  refine ⟨fun m unit hw hm hp => pageWalk_present va hw hm hp, fun unit hw hm => pageWalk_gone va hw hm,
    fun m hm hp hu hv => ⟨pageIn_framed va hm hp hu hv, fun d hb => pageIn_backed va hm hp hu hv hb⟩,
    fun m hm hv => ⟨fun hh => ?_, shootdown_clear va hm hv, shootdown_waits va hm hv, fun pa => shootdown_moves va hm hv⟩, ?_⟩
  · exact congrArg Host.Outcome.next ((shootdown_away hm hv).1 hh)
  · intro stub body b p c at_ hb hp hw hok hroom he hat t ht
    exact bodyPublish_room hb hp hw hok hroom he hat ht

end Sys2Proof.Machine
end

section
/-! How launches end: completion, faults and expired timers (R224, R225, R303, R379, R380). -/

namespace Sys2Proof.Machine

/-! ### The partitions and launches through the operations that end tasks -/

/-- The partitions and the launches of the module. -/
def State.roster (s : State) : List Part × List Launch := (s.parts, s.launches)

/-- What no step of a fold changes the fold does not change. -/
theorem foldl_view {α σ β : Type} (v : σ → β) {f : σ → α → σ} (h : ∀ t x, v (f t x) = v t) (l : List α) (s : σ) :
    v (l.foldl f s) = v s := by
  induction l generalizing s with
  | nil => rfl
  | cons x l ih => exact (ih _).trans (h s x)

section
variable (s : State)

theorem records_roster {s t : State} (h : s.records t) : t.roster = s.roster := by rw [h.1] <;> rfl

@[simp] theorem onCore_roster (f : Core → Core) : (s.onCore f).roster = s.roster := (rfl)
@[simp] theorem mapCores_roster (f : Core → Core) : (s.mapCores f).roster = s.roster := (rfl)
@[simp] theorem onCoreId_roster (id : Nat) (f : Core → Core) : (s.onCoreId id f).roster = s.roster := (rfl)
@[simp] theorem onCaches_roster (f : Caches → Caches) : (s.onCaches f).roster = s.roster := (rfl)
@[simp] theorem dropLines_roster (f : CLine → Bool) : (s.dropLines f).roster = s.roster := (rfl)
@[simp] theorem setTenant_roster (t : Tenant) : (s.setTenant t).roster = s.roster := (rfl)
@[simp] theorem setCluster_roster (k : Cluster) : (s.setCluster k).roster = s.roster := (rfl)
@[simp] theorem addOutst_roster (i : Nat) (up : Bool) : (s.addOutst i up).roster = s.roster := (rfl)
@[simp] theorem setEntry_roster (i : Nat) (e : Lineage) : (s.setEntry i e).roster = s.roster := (rfl)
@[simp] theorem setQueue_roster (q : CmdQueue) : (s.setQueue q).roster = s.roster := (rfl)
@[simp] theorem count_roster (die : Bool) (i : Nat) : (s.count die i).roster = s.roster := (rfl)
@[simp] theorem zeroFrame_roster (pa size : Nat) : (s.zeroFrame pa size).roster = s.roster := (rfl)
@[simp] theorem dropPart_roster (part : Nat) : (s.dropPart part).roster = s.roster := (rfl)
@[simp] theorem scrubCluster_roster (cl : Nat) : (s.scrubCluster cl).roster = s.roster := (rfl)

@[simp] theorem emitIf_roster (flag : Nat) (sp : Space) (src now ty w1 w2 w3 : Nat) :
    (s.emitIf flag sp src now ty w1 w2 w3).roster = s.roster := records_roster (emitIf_records ..)

@[simp] theorem poke_roster (sp : Space) (va : Nat) (bs : List Byte) : (s.poke sp va bs).roster = s.roster :=
  records_roster (poke_records ..)

@[simp] theorem focus_roster (id : Nat) : (s.focus id).roster = s.roster := by
  rw [State.focus]
  split
  · rfl
  · split <;> rfl

@[simp] theorem releaseStreams_roster (sts : List Stream) : (s.releaseStreams sts).roster = s.roster := by
  refine foldl_view State.roster (fun t st => ?_) _ _
  cases st.handle with
  | none => rfl
  | some v => cases st.counted <;> rfl

@[simp] theorem dropStreams_roster : s.dropStreams.roster = s.roster := by
  rw [State.dropStreams, onCore_roster, releaseStreams_roster]

@[simp] theorem freezeRecord_roster : s.freezeRecord.roster = s.roster := by
  rw [State.freezeRecord]
  split
  · rfl
  · simp only [onCore_roster, emitIf_roster]

@[simp] theorem emitBeats_roster (pc : BitVec 58) : (s.emitBeats pc).roster = s.roster := by
  simp only [State.emitBeats, onCore_roster, emitIf_roster]

@[simp] theorem emitLeave_roster (status : Nat) : (s.emitLeave status).roster = s.roster := by
  simp only [State.emitLeave, emitIf_roster, emitBeats_roster, freezeRecord_roster, onCore_roster]

@[simp] theorem discardCore_roster (status : Nat) : (s.discardCore status).roster = s.roster := by
  rw [State.discardCore, onCore_roster, emitLeave_roster, dropStreams_roster]

@[simp] theorem discardPart_roster (part : Nat) : (s.discardPart part).roster = s.roster := by
  refine (focus_roster _ _).trans (foldl_view State.roster (fun t c => ?_) _ _)
  simp only [discardCore_roster, focus_roster]

@[simp] theorem chargePass_roster (sp : Space) (cl held : Nat) : (s.chargePass sp cl held).roster = s.roster := by
  rw [State.chargePass]
  split <;> rfl

@[simp] theorem saveEnergy_roster (id : Nat) : (s.saveEnergy id).roster = s.roster := by
  rw [State.saveEnergy]
  split
  · split <;> rfl
  · rfl

@[simp] theorem saveCluster_roster (cl : Nat) : (s.saveCluster cl).roster = s.roster :=
  foldl_view State.roster (fun t _ => saveEnergy_roster t _) _ _

@[simp] theorem emitSlice_roster (cl : Nat) (old new : Option Space) : (s.emitSlice cl old new).roster = s.roster := by
  simp only [State.emitSlice]
  (repeat' split) <;> simp only [emitIf_roster]

@[simp] theorem give_roster (k : Cluster) (dest : Option Space) : (s.give k dest).roster = s.roster := by
  simp only [State.give, setCluster_roster, emitSlice_roster]
  split
  · rfl
  · exact saveCluster_roster s _

theorem haltCluster_roster (cl : Nat) : (s.haltCluster cl).roster = s.roster := by
  rw [State.haltCluster]
  split
  · rfl
  · simp only [give_roster, saveCluster_roster]
    split
    · exact chargePass_roster _ _ _ _
    · rfl

theorem stopPart_roster (p : Part) : (s.stopPart p).roster = s.roster :=
  (foldl_view State.roster haltCluster_roster _ _).trans (discardPart_roster s p.id)

@[simp] theorem sendFrom_roster (part : Nat) (m : Msg) : (s.sendFrom part m).roster = s.roster := by
  rw [State.sendFrom]
  (repeat' split) <;> rfl

@[simp] theorem finish_roster (c : Cmd) (status code : Nat) (body : List Byte) : (s.finish c status code body).roster = s.roster := by
  have ht : (s.tell c status code body).roster = s.roster := sendFrom_roster ..
  simp only [State.finish]
  split
  · split
    · exact (setQueue_roster _ _).trans ht
    · exact ht
  · exact ht

@[simp] theorem complete_roster (sp : Space) (compl : Option Word) (c : Cmd) (d : Done) : (s.complete sp compl c d).roster = s.roster := by
  cases compl with
  | none => simp only [State.complete, finish_roster]
  | some a => simp only [State.complete, finish_roster, poke_roster]

@[simp] theorem dropStart_roster (q : CmdQueue) (code : Nat) : (s.dropStart q code).roster = s.roster := by
  rw [State.dropStart]
  split
  · split
    · exact complete_roster _ _ _ _ _
    · rfl
  · rfl

@[simp] theorem dropWait_roster (q : CmdQueue) : (s.dropWait q).roster = s.roster := by
  rw [State.dropWait]
  split
  · split
    · exact finish_roster _ _ _ _ _
    · rfl
  · rfl

theorem freeLineage_roster (part launch : Nat) : (s.freeLineage part launch).roster = s.roster :=
  foldl_view State.roster (fun t i => setEntry_roster t i _) _ _

theorem freeImages_roster (l : Launch) : (s.freeImages l).roster = s.roster :=
  foldl_view State.roster (fun t (m : Mapping) => zeroFrame_roster t m.pa m.size) _ _

/-- A launch that is forgotten leaves the table, and no other does. -/
theorem forgetLaunch_roster (l : Launch) : (s.forgetLaunch l).roster
    = (s.parts, s.launches.filter fun k => !(decide (k.space = l.space) && k.id == l.id)) := by
  have h : ∀ u : State, u.roster = s.roster → ((u.freeLineage l.space.part l.id).freeImages l).roster = s.roster := fun u hu =>
    (freeImages_roster _ l).trans ((freeLineage_roster u _ _).trans hu)
  have hs := h { s with peers := s.peers.filter fun p => !s.peerOf l p } rfl
  rw [State.forgetLaunch]
  generalize State.freeImages _ l = u at hs
  simp only [State.roster, Prod.mk.injEq] at hs
  obtain ⟨hp, hl⟩ := hs
  show (u.parts, u.launches.filter _) = _
  rw [hp, hl]

/-- Launches that end with a record leave the table; no other enters it. -/
theorem endLaunches_launches (f : Launch → Done) (ls : List Launch) :
    let t := ls.foldl (fun s l => (s.forgetLaunch l).complete l.space (some l.compl) l.cmd (f l)) s
    t.launches ⊆ s.launches ∧ ∀ l ∈ ls, ∀ k ∈ t.launches, ¬ (k.space = l.space ∧ k.id = l.id) := by
  induction ls generalizing s with
  | nil => exact ⟨fun _ h => h, fun l hl => absurd hl (by simp)⟩
  | cons l ls ih =>
    have hl : ((s.forgetLaunch l).complete l.space (some l.compl) l.cmd (f l)).launches
        = s.launches.filter fun k => !(decide (k.space = l.space) && k.id == l.id) := by
      have h := (complete_roster (s.forgetLaunch l) l.space (some l.compl) l.cmd (f l)).trans (forgetLaunch_roster s l)
      rw [State.roster, Prod.mk.injEq] at h
      exact h.2
    rw [List.foldl_cons]
    obtain ⟨hsub, hgone⟩ := ih ((s.forgetLaunch l).complete l.space (some l.compl) l.cmd (f l))
    rw [hl] at hsub
    refine ⟨fun k hk => (List.mem_filter.mp (hsub hk)).1, fun l' hl' k hk => ?_⟩
    rcases List.mem_cons.mp hl' with rfl | hin
    · intro hkey
      have := (List.mem_filter.mp (hsub hk)).2
      simp [hkey] at this
    · exact hgone l' hin k hk

/-- The reset of a partition leaves it no launch. -/
theorem dropLaunches_launches (part : Nat) (expired : List Nat) :
    ∀ l ∈ (s.dropLaunches part expired).launches, l.space.part ≠ part := by
  intro k hk hpart
  obtain ⟨hsub, hgone⟩ := endLaunches_launches s
    (fun l => resetDone (if expired.contains l.queue then 0x1F else 0) l.id l.start l.finished)
    (s.launches.filter fun l => l.space.part == part)
  rw [show (s.dropLaunches part expired).launches = _ from
    congrArg Prod.snd (foldl_view State.roster (fun t q => dropStart_roster t q _) _ _)] at hk
  exact hgone k (List.mem_filter.mpr ⟨hsub hk, by simp [hpart]⟩) k hk ⟨rfl, rfl⟩

theorem onPart_wiped (part : Nat) :
    (s.onPart part fun q => { q with wipe := none }).wiping part = false := by
  rw [State.wiping, List.any_eq_false]
  intro q hq
  obtain ⟨r, -, rfl⟩ := List.mem_map.mp hq
  by_cases hr : r.id = part
  · simp [hr]
  · simp [hr]

theorem endPart_done (p : Part) (ids : List Nat) :
    (s.endPart p ids).wiping p.id = false ∧ ∀ l ∈ (s.endPart p ids).launches, l.space.part ≠ p.id := by
  refine ⟨onPart_wiped _ p.id, fun l hl => ?_⟩
  have hscrub : ((clustersIn p.clusters).foldl State.scrubCluster (s.dropLaunches p.id ids)).launches
      = (s.dropLaunches p.id ids).launches := congrArg Prod.snd (foldl_view State.roster scrubCluster_roster _ _)
  refine dropLaunches_launches s p.id ids l ?_
  rw [← hscrub]
  exact hl

/-- The reset that ends leaves no launch of the partition, and the queues that expired in ERROR. -/
theorem wipeEnd_done (p : Part) (ids : List Nat) :
    (s.wipeEnd p ids).wiping p.id = false ∧ (∀ l ∈ (s.wipeEnd p ids).launches, l.space.part ≠ p.id)
    ∧ ∀ r ∈ (s.wipeEnd p ids).cqueues, r.space.part = p.id → r.id ∈ ids → r.error = true := by
  obtain ⟨hw, hl⟩ := endPart_done s p ids
  have hroster := foldl_view State.roster dropWait_roster
    ((s.endPart p ids).cqueues.filter fun r => r.space.part == p.id && ids.contains r.id) (s.endPart p ids)
  rw [State.wipeEnd]
  simp only
  generalize List.foldl State.dropWait _ _ = t at hroster
  simp only [State.roster, Prod.mk.injEq] at hroster
  obtain ⟨hparts, hlaunches⟩ := hroster
  refine ⟨?_, ?_, fun r hr hpart hid => ?_⟩
  · rw [← hw, State.wiping, State.wiping]
    exact congrArg (fun l => List.any l _) hparts
  · show ∀ l ∈ t.launches, _
    rw [hlaunches]
    exact hl
  · obtain ⟨q, -, rfl⟩ := List.mem_map.mp hr
    by_cases hq : q.space.part = p.id ∧ ids.contains q.id = true
    · rw [if_pos hq]
    · rw [if_neg hq] at hpart hid
      exact absurd ⟨hpart, by simpa using hid⟩ hq

/-! ### The events -/

theorem exec_launchComplete {i : Nat} {l : Launch} (hl : s.launches[i]? = some l) (he : l.ending = none) (hf : l.finished = l.created)
    (hc : s.onCores l = false) : exec (.launchComplete i) s = .next ((s.forgetLaunch l).complete l.space (some l.compl) l.cmd
      ⟨0, 0, 0xFF, l.id, 0, 0, 0, l.start, l.finished, 0, 0⟩) := by
  have hx : exec (.launchComplete i) s = .next (s.launchComplete i) := rfl
  rw [hx, State.launchComplete, hl]
  simp only
  rw [if_neg (by simp [he, hf, hc])]

theorem exec_launchFault : exec .launchFault s = .next s.launchFault := rfl

theorem launchFault_trap {r : TrapRec} (ht : s.core.trap = some r) (hr : r.code ≠ .migrate) : s.launchFault
    = (((s.endLaunchAt s.core.owner.key r s.core.id.toNat).faultStatus s.core.owner.key r.code).flushWrites.discardCore
      (Trap.code r.code).toNat) := by
  rw [State.launchFault, ht]
  simp only
  rw [if_neg hr]
  rfl

theorem discardCore_task (status : Nat) : (s.discardCore status).core.task = none := rfl

theorem launchFault_ended {l : Launch} {r : TrapRec} (ht : s.core.trap = none) (hf : s.core.lateFault = none)
    (hc : s.coreEnds = false) (he : s.endedLaunch = some l) (hr : l.ending = some r) : s.launchFault
    = (((if l.lack.isSome then s else s.faultStatus ⟨l.space.part, l.id, l.endTask⟩ r.code).forgetLaunch l).complete l.space
      (some l.compl) l.cmd (l.faultDone r)) := by
  rw [State.launchFault, ht]
  simp only
  rw [if_neg (by simp [hf]), if_neg (by simp [hc]), he]
  simp only
  rw [hr]

theorem exec_watchdogExpiry (part q : Nat) : exec (.watchdogExpiry part q) s = .next (s.watchdog part q) := rfl

/-- The queues of a partition that expire anew. -/
def State.dueQueues (s : State) (part : Nat) : List Nat :=
  (s.cqueues.filter fun r => r.space.part == part && s.expiring r).map CmdQueue.id

theorem watchdog_begins {part q : Nat} {p : Part} {k : CmdQueue} (hp : s.partOf part = some p) (hw : p.wipe = none)
    (hk : s.queueAt (part, q) = some k) (he : k.expired = true) :
    q ∈ s.dueQueues part ∧ s.watchdog part q = (s.stopPart p).wipeWith p (tickOf s.time) [] (s.dueQueues part) := by
  have hmem := List.mem_of_find?_eq_some hk
  have hkey := List.find?_some hk
  simp only [Bool.and_eq_true, beq_iff_eq] at hkey
  obtain ⟨hpart, hid⟩ := hkey
  have hexp : s.expiring k = true := by rw [State.expiring, hpart, hp]; simp [he, hw]
  have hq : q ∈ s.dueQueues part := List.mem_map.mpr ⟨k, List.mem_filter.mpr ⟨hmem, by simp [hpart, hexp]⟩, hid⟩
  refine ⟨hq, ?_⟩
  rw [State.watchdog, hp]
  simp only
  rw [hw]
  simp only
  exact if_pos (List.elem_iff.mpr hq)

theorem wipeWith_wiping {p : Part} {t0 : Nat} {old new : List Nat} (hp : ∃ q ∈ s.parts, q.id = p.id) :
    (s.wipeWith p t0 old new).wiping p.id = true := by
  obtain ⟨q, hq, hid⟩ := hp
  have hcount : (new.foldl (fun s _ => s.count (p.die == 1) 13) s).parts = s.parts :=
    congrArg Prod.fst (foldl_view State.roster (fun t _ => count_roster t _ _) _ _)
  rw [State.wiping, List.any_eq_true]
  refine ⟨{ q with wipe := some (t0, old ++ new) }, ?_, by simp [hid]⟩
  rw [State.wipeWith, State.onPart, hcount]
  exact List.mem_map.mpr ⟨q, hq, if_pos hid⟩

theorem watchdog_ends {part q t0 : Nat} {ids : List Nat} {p : Part} (hp : s.partOf part = some p) (hw : p.wipe = some (t0, ids))
    (hd : (s.cqueues.any fun k => k.space.part == part && s.expiring k) = false) : s.watchdog part q = s.wipeEnd p ids := by
  have hnone : (s.cqueues.filter fun r => r.space.part == part && s.expiring r) = [] :=
    List.filter_eq_nil_iff.mpr (by simpa using hd)
  rw [State.watchdog, hp]
  simp only
  rw [hw, hnone]
  rfl

end

/-- Settles O54: completion, faults and the two steps of a reset, each by the launches and partitions that it leaves. -/
theorem launchEnds : Obligations.LaunchEnds := by
  intro s
  refine ⟨fun i l hl he hf hc => exec_launchComplete s hl he hf hc, fun r ht hr => ?_, fun l r ht hf hc he hr => ?_,
    fun part q p hp => ⟨fun k hw hk he => ?_, fun t0 ids hw hd => ?_⟩⟩
  · have h := launchFault_trap s ht hr
    refine ⟨s.launchFault, exec_launchFault s, ?_, h⟩
    rw [h]
    exact discardCore_task _ _
  · exact (exec_launchFault s).trans (congrArg Host.Outcome.next (launchFault_ended s ht hf hc he hr))
  · obtain ⟨hq, hrun⟩ := watchdog_begins s hp hw hk he
    refine ⟨_, _, exec_watchdogExpiry s part q, hq, hrun, ?_⟩
    rw [hrun, ← partOf_id hp]
    refine wipeWith_wiping _ ⟨p, ?_, rfl⟩
    rw [show (s.stopPart p).parts = s.parts from congrArg Prod.fst (stopPart_roster s p)]
    exact List.mem_of_find?_eq_some hp
  · have hid := partOf_id hp
    subst hid
    exact ⟨_, congrArg Host.Outcome.next (watchdog_ends s hp hw hd), wipeEnd_done s p ids⟩

end Sys2Proof.Machine
end

section
/-! Alarms, soft errors, repairs and counted packets (R325, R326, R381, R382, R386 to R388). -/

namespace Sys2Proof.Machine

section
variable (s : State)

/-! ### Alarms -/

/-- The state in which the alarm has been counted and recorded. -/
def State.alarmed (s : State) (a : AlarmSource) : State :=
  { (s.count false 14) with alarmSrc := some a, alarmAt := tickOf s.time, alarmGone := none }

/-- The response of an alarm in a module that it has not erased before. -/
theorem alarm_response (a : AlarmSource) : ∃ ps, s.alarm a = if s.devState = .alarm then { s.alarmed a with outbox := s.outbox ++ ps }
    else match s.actions.getD (alarmIndex a) .log with
      | .log => { s.alarmed a with outbox := s.outbox ++ ps }
      | .stop => { s.alarmed a with outbox := s.outbox ++ ps }.stopModule
      | .erase => { s.alarmed a with outbox := s.outbox ++ ps }.eraseModule := by
  obtain ⟨ps, hps⟩ := reportAdmins_eq (s.alarmed a) 0x11 (alarmIndex a)
  refine ⟨ps, ?_⟩
  show (let u := (s.alarmed a).reportAdmins 0x11 (alarmIndex a)
    if u.devState = .alarm then u else match u.actions.getD (alarmIndex a) .log with
      | .log => u
      | .stop => u.stopModule
      | .erase => u.eraseModule) = _
  rw [hps]
  rfl

/-- The records of clocks that have stopped reach memory; the module stops, its counters as they were. -/
theorem stopModule_fields : s.stopModule.counters = s.counters ∧ (s.devState = .ready → s.stopModule.devState = .stopped) := by
  have hemit : ∀ (u : State) (t : Trace), ((u.emitStopped t).counters, (u.emitStopped t).devState) = (u.counters, u.devState) := by
    intro u t
    refine foldl_view (fun v : State => (v.counters, v.devState)) (fun v x => ?_) _ _
    have hr := (emit_records v t.space x.1 (tickOf v.time) 0x02 (tickOf v.time) 0 0).1
    show ((v.emit t.space x.1 (tickOf v.time) 0x02 (tickOf v.time) 0 0).counters, _) = _
    rw [hr]
  rw [State.stopModule]
  split
  · have h := foldl_view (fun v : State => (v.counters, v.devState)) hemit s.traces { s with devState := .stopped }
    simp only [Prod.mk.injEq] at h
    exact ⟨h.1, fun _ => h.2⟩
  · next hr => exact ⟨rfl, fun h => absurd h hr⟩

theorem eraseModule_cores : ∀ c ∈ s.eraseModule.cores, c.task = none := by
  intro c hc
  rcases List.mem_cons.mp hc with rfl | hc
  · rfl
  · obtain ⟨d, -, rfl⟩ := List.mem_map.mp hc
    rfl

theorem alarm_outcome (a : AlarmSource) : (s.alarm a).counters = (s.count false 14).counters
    ∧ (s.devState = .ready → s.actions.getD (alarmIndex a) .log = .stop → (s.alarm a).devState = .stopped)
    ∧ (s.devState ≠ .alarm → s.actions.getD (alarmIndex a) .log = .erase → (s.alarm a).devState = .alarm ∧ (s.alarm a).mem = []
      ∧ (s.alarm a).spm = [] ∧ (s.alarm a).launches = [] ∧ (s.alarm a).nodes = [] ∧ ∀ c ∈ (s.alarm a).cores, c.task = none)
    ∧ (s.actions.getD (alarmIndex a) .log = .log → (s.alarm a).devState = s.devState ∧ (s.alarm a).mem = s.mem
      ∧ (s.alarm a).alarmSrc = some a ∧ (s.alarm a).alarmAt = tickOf s.time) := by
  obtain ⟨ps, h⟩ := alarm_response s a
  rw [h]
  clear h
  by_cases hd : s.devState = .alarm
  · rw [if_pos hd]
    exact ⟨rfl, fun hr => absurd (hd.symm.trans hr) (by decide), fun hn => absurd hd hn, fun _ => ⟨rfl, rfl, rfl, rfl⟩⟩
  · rw [if_neg hd]
    cases ha : s.actions.getD (alarmIndex a) .log with
    | log => exact ⟨rfl, fun _ h => AlarmAction.noConfusion h, fun _ h => AlarmAction.noConfusion h, fun _ => ⟨rfl, rfl, rfl, rfl⟩⟩
    | stop =>
      obtain ⟨hc, hs⟩ := stopModule_fields { s.alarmed a with outbox := s.outbox ++ ps }
      exact ⟨hc, fun hr _ => hs hr, fun _ h => AlarmAction.noConfusion h, fun h => AlarmAction.noConfusion h⟩
    | erase => exact ⟨rfl, fun _ h => AlarmAction.noConfusion h, fun _ _ => ⟨rfl, rfl, rfl, rfl, rfl, eraseModule_cores _⟩, fun h => AlarmAction.noConfusion h⟩

theorem exec_alarmClear (hs : s.devState = .stopped) : exec .alarmClear s = .next (match s.alarmGone with
    | none => { s with alarmGone := some (tickOf s.time) }
    | some t => if t + 1000000 ≤ tickOf s.time then { s with devState := .ready, alarmGone := none } else s) :=
  congrArg Host.Outcome.next (if_pos hs)

theorem alarmClear_first (hs : s.devState = .stopped) (hg : s.alarmGone = none) :
    exec .alarmClear s = .next { s with alarmGone := some (tickOf s.time) } := by
  rw [exec_alarmClear s hs, hg]

theorem alarmClear_last {t0 : Nat} (hs : s.devState = .stopped) (hg : s.alarmGone = some t0) (ht : t0 + 1000000 ≤ tickOf s.time) :
    exec .alarmClear s = .next { s with devState := .ready, alarmGone := none } := by
  rw [exec_alarmClear s hs, hg]
  simp only
  rw [if_pos ht]

/-! ### Soft errors -/

theorem exec_eccHbm {a : Nat} (h : a < hbmSize) : exec (.eccError .hbm a true) s = .next (s.dramError a true) :=
  congrArg Host.Outcome.next (if_pos h)

theorem exec_eccLpddr {a : Nat} (h : lpddrBase ≤ a) (h' : a < lpddrEnd) :
    exec (.eccError .lpddr a true) s = .next (s.dramError a true) := congrArg Host.Outcome.next (if_pos ⟨h, h'⟩)

theorem dramError_hbm {a : Nat} (h : a < hbmSize) (fatal : Bool) : s.dramError a fatal = if fatal
    then (s.count (homeDie a == 1) 4).poisonLine (a / 64)
    else (s.count (homeDie a == 1) 3).onRepair (stackOf a) fun r => r.bump (Config.rowOf (a / 64)) (a / 64) := if_pos h

theorem lpddr_above_hbm : hbmSize ≤ lpddrBase := by decide

theorem dramError_lpddr {a : Nat} (h : lpddrBase ≤ a) : (s.dramError a true).badFrames = insertNew (a / 65536 * 65536) s.badFrames
    ∧ (s.dramError a true).mem = s.mem := by
  have hn : ¬ a < hbmSize := Nat.not_lt.mpr (lpddr_above_hbm.trans h)
  rw [State.dramError]
  simp only
  rw [if_neg hn]
  exact ⟨rfl, rfl⟩

/-- A scrub that finds no error, a corrected one, or one that it cannot correct. -/
theorem patrolScrub_outcome {a : Nat} (h : a < hbmSize) : ∃ t, exec (.patrolScrub a) s = .next t ∧ t.mem = s.mem
    ∧ t.picks = s.picks + 1 ∧ (t.poison = s.poison ∨ t.poison = insertNew (a / 64) s.poison) := by
  have hx : exec (.patrolScrub a) s = .next (if (s.pickAny 3).1 = 1 then (s.pickAny 3).2.dramError a false
      else if (s.pickAny 3).1 = 2 then (s.pickAny 3).2.dramError a true else (s.pickAny 3).2) :=
    congrArg Host.Outcome.next (if_pos (.inl h))
  have hp : (s.pickAny 3).2 = { s with picks := s.picks + 1 } := rfl
  refine ⟨_, hx, ?_⟩
  rw [hp, dramError_hbm _ h, dramError_hbm _ h]
  split
  · exact ⟨rfl, rfl, .inl rfl⟩
  · split
    · exact ⟨rfl, rfl, .inr rfl⟩
    · exact ⟨rfl, rfl, .inl rfl⟩

/-! ### Repairs -/

theorem onRepair_same {i : Nat} {f : Repair → Repair} {r : Repair} (h : s.repairs[i]? = some r) :
    (s.onRepair i f).repairs[i]? = some (f r) := by
  simp [State.onRepair, h]

theorem rowSpare_outcome {stack : BitVec 3} {row : Nat} {r : Repair} (h : s.repairs[stack.toNat]? = some r)
    (hw : (r.worn.any fun x => x.1 == row) = true) (hl : 0 < r.left stack.toNat (bankOf row)) :
    ∃ t, exec (.rowSpare stack row) s = .next t ∧ t.counters = (s.count (decide (4 ≤ stack.toNat)) 7).counters
      ∧ t.repairs[stack.toNat]? = some { r with
        used := assocSet 0 r.used (bankOf row) (assocGet 0 r.used (bankOf row) + 1), rows := r.rows.filter fun x => x.1 != row } := by
  have hx : exec (.rowSpare stack row) s = execRowSpare stack row s := rfl
  have hs : r.spares stack.toNat row = true := by rw [Repair.spares, hw]; simpa using hl
  refine ⟨(s.count (decide (4 ≤ stack.toNat)) 7).onRepair stack.toNat fun r =>
    { r with used := assocSet 0 r.used (bankOf row) (assocGet 0 r.used (bankOf row) + 1), rows := r.rows.filter fun x => x.1 != row },
    ?_, rfl, onRepair_same _ h⟩
  rw [hx, execRowSpare, h]
  simp only
  rw [if_pos hs]

theorem exec_pageRetire {stack : BitVec 3} {sp : Space} {va : BitVec 64} {pa : Nat} {m : Mapping} (hm : s.mappingOf sp va.toNat = some m)
    (hv : s.movable m = true) (hw : s.wornPage stack.toNat m = true)
    (hf : s.movingTo m pa = true ∨ (s.moving m = false ∧ s.frameFits m pa = true)) :
    exec (.pageRetire stack sp va pa) s = .next (if (s.shootdown sp m.va (some pa)).moving m then s.shootdown sp m.va (some pa)
      else (s.shootdown sp m.va (some pa)).retire stack.toNat m) := by
  have hx : exec (.pageRetire stack sp va pa) s = .next (s.pageRetire stack.toNat sp va.toNat pa) := rfl
  have hmay : (s.movingTo m pa || (!s.moving m && s.frameFits m pa)) = true := by
    rcases hf with h | ⟨h, h'⟩
    · rw [h]; rfl
    · rw [h, h']; simp
  rw [hx, State.pageRetire, hm]
  simp only
  rw [if_pos (by rw [hv, hw, hmay]; rfl)]

end

/-- Settles O55: the response of an alarm, and what each error and repair counts and marks. -/
theorem moduleEvents : Obligations.ModuleEvents := by
  intro s now counted
  refine ⟨fun a => ⟨_, rfl, alarm_outcome s a⟩, alarmClear_first s, fun t0 hs hg ht => alarmClear_last s hs hg ht,
    fun a => ⟨rfl, rfl, rfl, rfl⟩, fun a h => ⟨_, exec_eccHbm s h, ?_⟩, fun a h h' => ⟨_, exec_eccLpddr s h h', dramError_lpddr s h⟩,
    fun a h => patrolScrub_outcome s h, fun stack row r h hw hl => rowSpare_outcome s h hw hl, fun stack sp va pa m hm hv hw hf => ?_,
    fun die => ⟨rfl, rfl, rfl, rfl⟩⟩
  · rw [dramError_hbm s h]
    exact ⟨rfl, rfl, rfl⟩
  · have hx := exec_pageRetire s hm hv hw hf
    exact ⟨fun h => by rw [hx, if_neg (by simp [h])], fun h => by rw [hx, if_pos h]⟩

end Sys2Proof.Machine
end

section
/-! Debug stops, trace headers, checkpoints and replay (R391, R392, R401 to R404). -/

namespace Sys2Proof.Machine

section
variable (s : State)

/-! ### Writes through the tenant's pages -/

/-- A write changes the bytes that it names. -/
theorem write_bytes (pa : Nat) (bs : List Byte) (atomic : Bool) (rels : List (Nat × Nat × Nat)) (hm : Memory.wf s.mem) :
    readBytes (s.write pa bs atomic rels).mem pa bs.length = bs ∧ s.sameBytesBut (s.write pa bs atomic rels) pa bs.length := by
  have hspm : (s.write pa bs atomic rels).spm = s.spm := records_spm (write_records s pa bs atomic rels)
  refine ⟨readBytes_writeBytes hm, fun a ha => ?_, fun a => by rw [hspm]⟩
  exact readByte_writeBytes_outside (by omega)

/-- Bytes that lie in one line are one write. -/
theorem poke_one_line {sp : Space} {va pa : Nat} {bs : List Byte} (hne : bs ≠ []) (hp : s.physOf sp va = some pa)
    (hl : bs.length ≤ 64 - va % 64) : s.poke sp va bs = s.write pa bs false [] := by
  rw [State.poke, if_neg hne, State.pokeLines, hp]
  simp only
  rw [if_pos hl, List.take_of_length_le hl]

theorem poke_bytes {sp : Space} {va pa : Nat} {bs : List Byte} (hm : Memory.wf s.mem) (hp : s.physOf sp va = some pa)
    (hl : bs.length ≤ 64 - va % 64) :
    readBytes (s.poke sp va bs).mem pa bs.length = bs ∧ s.sameBytesBut (s.poke sp va bs) pa bs.length := by
  by_cases hne : bs = []
  · rw [State.poke, if_pos hne, hne]
    exact ⟨rfl, fun _ _ => rfl, fun _ => rfl⟩
  · rw [poke_one_line s hne hp hl]
    exact write_bytes s pa bs false [] hm

/-! ### Debug stops -/

theorem sendFrom_eq (part : Nat) (m : Msg) : ∃ ps, s.sendFrom part m = { s with outbox := s.outbox ++ ps } := by
  rw [State.sendFrom]
  cases s.replayOf part with
  | none => exact ⟨[m], rfl⟩
  | some r =>
    simp only
    split
    · exact ⟨[], by rw [List.append_nil]⟩
    · exact ⟨[m], rfl⟩

theorem sendFrom_core (part : Nat) (m : Msg) : (s.sendFrom part m).core = s.core := by
  obtain ⟨ps, h⟩ := sendFrom_eq s part m
  rw [h]

theorem askFor_core (unit : Nat) (sp : Space) (va : Nat) : (s.askFor unit sp va).core = s.core := by
  rw [State.askFor]
  (repeat' split) <;> rfl

theorem appendDump_core (a : DbgArm) (cause : BitVec 2) (bp stamp : Nat) : (s.appendDump a cause bp stamp).core = s.core := by
  rw [State.appendDump]
  simp only
  split
  · exact (records_core (poke_records ..)).trans (sendFrom_core s _ _)
  · exact sendFrom_core s _ _

theorem focus_self {id : Nat} (h : s.core.id.toNat = id) : s.focus id = s := if_pos h

theorem members_alone (h : s.core.owner.gang = false) : s.members = [s.core] := if_neg (by simp [h])

/-- The dump of a task of one core leaves its core, but for the debug state. -/
theorem dumpDue_core (h : s.core.owner.gang = false) : ∃ d, s.dumpDue.core = { s.core with dbg := d } := by
  have hsame : ∀ u : State, (∃ d, u.core = { s.core with dbg := d }) → ∃ d, (u.focus s.core.id.toNat).core = { s.core with dbg := d } := by
    rintro u ⟨d, hd⟩
    rw [focus_self u (by rw [hd])]
    exact ⟨d, hd⟩
  have hdone : ∀ u : State, u.core = s.core → ∃ d, (u.onCore fun c => { c with dbg := { c.dbg with due := none } }).core
      = { s.core with dbg := d } := fun u hu => ⟨{ s.core.dbg with due := none }, by rw [State.onCore_core, hu]⟩
  rw [State.dumpDue, members_alone s h]
  by_cases hc : (s.core.dbg.lead.isSome && s.core.dbg.due.isSome) = true
  · have hfind : ([s.core].find? fun c => c.dbg.lead.isSome && c.dbg.due.isSome) = some s.core := List.find?_cons_of_pos hc
    rw [hfind]
    simp only
    rw [focus_self s rfl]
    split
    · exact ⟨s.core.dbg, rfl⟩
    · refine hsame _ ?_
      split
      · split
        · exact ⟨s.core.dbg, askFor_core ..⟩
        · exact hdone _ (appendDump_core ..)
      · exact hdone s rfl
  · have hfind : ([s.core].find? fun c => c.dbg.lead.isSome && c.dbg.due.isSome) = none := List.find?_cons_of_neg hc
    rw [hfind]
    exact ⟨s.core.dbg, rfl⟩

theorem hold_fields (c : Core) (lead : Option Nat) : (c.hold lead).phase = .held ∧ (c.hold lead).ctx = c.ctx
    ∧ (c.hold lead).owner = c.owner := by
  have h : c.thaw.ctx = c.ctx ∧ c.thaw.task = c.task := by
    rw [Core.thaw]
    split <;> exact ⟨rfl, rfl⟩
  exact ⟨rfl, h.1, by rw [Core.owner, Core.owner, ← h.2]; rfl⟩

/-- The stop of a task of one core holds that core before the bundle due. -/
theorem debugStop_holds {cause : BitVec 2} {bp : Nat} (ha : s.alone) (hd : s.core.dbg.due = some (cause, bp))
    (hp : s.core.phase = .ready) (hm : s.core.mid = false) :
    (s.debugStop cause).core.phase = .held ∧ (s.debugStop cause).core.ctx = s.core.ctx := by
  rw [State.debugStop, if_neg (by rw [hp]; decide), hd]
  simp only
  rw [if_neg (by simp [hm, hp])]
  rw [onCore_congr (f' := fun c => c.hold (if (s.members.all fun c => c.dbg.lead.isNone) = true then some s.core.reftime else none)) rfl]
  generalize (if (s.members.all fun c => c.dbg.lead.isNone) = true then some s.core.reftime else none) = lead
  obtain ⟨hphase, hctx, howner⟩ := hold_fields s.core lead
  have hcore : ∀ (f : Core → Core), (∀ c, c.phase = .held → f c = c) →
      ((s.onCore fun c => c.hold lead).onMembers f).core = s.core.hold lead := by
    intro f hf
    show (if _ then f (s.core.hold lead) else s.core.hold lead) = _
    split
    · exact hf _ hphase
    · rfl
  have hheld := hcore (fun c => if c.phase = .held ∨ c.dbg.due.isSome = true then c else
    { c with dbg := { c.dbg with due := some (cause, bp) } }) fun c hc => if_pos (.inl hc)
  generalize State.onMembers _ _ = u at hheld
  obtain ⟨d, hdump⟩ := dumpDue_core u (by rw [hheld, howner]; exact ha.1)
  rw [hdump, hheld]
  exact ⟨hphase, hctx⟩

/-! ### Trace headers -/

theorem traceHeadAdvance_outcome {sp : Space} {tr : Trace} {pa : Nat} (hm : Memory.wf s.mem) (ht : s.traceOf sp = some tr)
    (hh : tr.head ≠ tr.pend) (hp : s.physOf sp tr.buf.toNat = some pa) : ∃ t, exec (.traceHeadAdvance sp) s = .next t
      ∧ s.sameBytesBut t pa 8 ∧ readBytes t.mem pa 8 = leBytes 8 tr.pend := by
  have hx : exec (.traceHeadAdvance sp) s = .next (s.headAdvance sp) := rfl
  obtain ⟨hread, hrest⟩ := write_bytes s pa (leBytes 8 tr.pend) false [(64, s.now + 1, 4)] hm
  rw [leBytes_length] at hread hrest
  refine ⟨_, hx, ?_⟩
  rw [State.headAdvance, ht]
  simp only
  rw [if_neg hh, hp]
  exact ⟨hrest, hread⟩

/-! ### Checkpoints and replay -/

theorem replayOf_part {part : Nat} {r : Replay} (h : s.replayOf part = some r) : r.part = part := by simpa using List.find?_some h

/-- An order log that is put back is the one of its partition. -/
theorem replayOf_setReplay {part : Nat} {r r' : Replay} (h : s.replayOf part = some r) (hp : r'.part = r.part) :
    (s.setReplay r').replayOf part = some r' := by
  have hf := find_replaced (g := fun q => decide (q.part = r'.part)) (b := r') h (by simp [hp])
    (by simpa [hp] using replayOf_part s h)
  simp only [decide_eq_true_eq] at hf
  exact hf

theorem records_time {s t : State} (h : s.records t) : t.time = s.time := by rw [h.1]
theorem records_checkpoints {s t : State} (h : s.records t) : t.checkpoints = s.checkpoints := by rw [h.1]

/-- The records that were lost reach the traces. -/
theorem lostRecord_records (part : Nat) : s.records (s.lostRecord part) := by
  unfold State.lostRecord
  suffices h : ∀ (l : List Trace) (u : State), s.records u →
      s.records (l.foldl (fun s t => s.emit t.space 112 (tickOf s.time) 0x03 0 0 0) u) from
    h _ s (records_refl s)
  intro l
  induction l with
  | nil => exact fun u hu => hu
  | cons t l ih => exact fun u hu => ih _ (records_trans hu (emit_records ..))

/-- The recording once a checkpoint of `len` bytes is in its area. -/
def Replay.noted (r : Replay) (now len : Nat) : Replay :=
  { r with
    last := now, used := r.used + len, count := r.count + 1
    log := r.log ++ [⟨9, 0, now, r.count, []⟩], mark := r.log.length + 1 }

/-- The state in which a checkpoint has been taken. -/
def State.captured (s : State) (p : Part) (number : Nat) : State :=
  { s with picks := s.picks + 1, checkpoints := s.checkpoints ++ [s.capture p number] }

/-- Its bytes go to the area, through the pages of the first tenant. -/
def State.pokeFirst (s : State) (sp : Option Space) (va : Nat) (bs : List Byte) : State :=
  match sp with
  | some sp => s.poke sp va bs
  | none => s

theorem pokeFirst_records (sp : Option Space) (va : Nat) (bs : List Byte) : s.records (s.pokeFirst sp va bs) := by
  cases sp with
  | none => exact records_refl s
  | some sp => exact poke_records ..

theorem checkpoint_due {part : Nat} {p : Part} {r : Replay} {v : State} (hp : s.partOf part = some p) (hr : s.replayOf part = some r)
    (hd : r.checkpointDue (tickOf s.time) = true) (hc : (s.cores.all fun c => !p.hasCore c || c.holdsStill) = true)
    (hv : (s.captured p r.count).pokeFirst (s.firstTenant part) (r.area.toNat + r.used) (Config.checkpointBytes s.picks) = v) :
    s.checkpoint part = if r.size < r.used + (Config.checkpointBytes s.picks).length
      then (({ s with picks := s.picks + 1 } : State).lostRecord part).setReplay { r with mode := 0 }
      else v.setReplay (r.noted (tickOf v.time) (Config.checkpointBytes s.picks).length) := by
  have hstill : (s.cores.any fun c => p.hasCore c && !c.holdsStill) = false := by
    rw [List.any_eq_false]
    intro c hin
    have := List.all_eq_true.mp hc c hin
    revert this
    cases p.hasCore c <;> cases c.holdsStill <;> simp
  rw [State.checkpoint, hp, hr]
  simp only
  rw [if_neg (by rw [hd, hstill]; decide), ← hv]
  rfl

theorem checkpoint_outcome {part : Nat} {p : Part} {r : Replay} (hm : Memory.wf s.mem) (hp : s.partOf part = some p)
    (hr : s.replayOf part = some r) (hd : r.checkpointDue (tickOf s.time) = true)
    (hc : (s.cores.all fun c => !p.hasCore c || c.holdsStill) = true) :
    let bs := Config.checkpointBytes s.picks
    let at_ := r.area.toNat + r.used
    let t := s.checkpoint part
    (r.used + bs.length ≤ r.size → t.checkpoints = s.checkpoints ++ [s.capture p r.count]
      ∧ (∃ r', t.replayOf part = some r' ∧ r'.mode = r.mode ∧ r'.used = r.used + bs.length ∧ r'.count = r.count + 1
        ∧ r'.last = tickOf s.time ∧ r'.log = r.log ++ [⟨9, 0, tickOf s.time, r.count, []⟩])
      ∧ ∀ sp pa, s.firstTenant part = some sp → s.physOf sp at_ = some pa → bs.length ≤ 64 - at_ % 64 →
        readBytes t.mem pa bs.length = bs ∧ s.sameBytesBut t pa bs.length)
    ∧ (r.size < r.used + bs.length → t.checkpoints = s.checkpoints ∧ t.replayOf part = some { r with mode := 0 }) := by
  intro bs at_ t
  have hrec := pokeFirst_records (s.captured p r.count) (s.firstTenant part) at_ bs
  generalize hv : (s.captured p r.count).pokeFirst (s.firstTenant part) at_ bs = v at hrec
  have ht : t = _ := checkpoint_due s hp hr hd hc hv
  refine ⟨fun hfit => ?_, fun hfull => ?_⟩
  · have hvr : v.replayOf part = some r := by
      rw [State.replayOf, records_replays hrec]
      exact hr
    have hkept : v.checkpoints = s.checkpoints ++ [s.capture p r.count] := (records_checkpoints hrec).trans rfl
    have htime : v.time = s.time := (records_time hrec).trans rfl
    rw [if_neg (Nat.not_lt.mpr hfit), htime] at ht
    rw [ht]
    refine ⟨hkept, ⟨_, replayOf_setReplay v hvr rfl, rfl, rfl, rfl, rfl, rfl⟩, fun sp pa hsp hpa hl => ?_⟩
    have hone := poke_bytes (s.captured p r.count) (sp := sp) (va := at_) (pa := pa) (bs := bs) hm hpa hl
    rw [hsp] at hv
    rw [show (s.captured p r.count).poke sp at_ bs = v from hv] at hone
    exact hone
  · rw [if_pos hfull] at ht
    have hrec := lostRecord_records { s with picks := s.picks + 1 } part
    generalize State.lostRecord _ part = v at ht hrec
    have hvr : v.replayOf part = some r := by
      rw [State.replayOf, records_replays hrec]
      exact hr
    have hkept : v.checkpoints = s.checkpoints := (records_checkpoints hrec).trans rfl
    rw [ht]
    exact ⟨hkept, replayOf_setReplay v hvr rfl⟩

theorem exec_replayHalt {part : Nat} {r : Replay} (hr : s.replayOf part = some r) (hl : r.lack = true) (hh : r.halted = false) :
    exec (.replayHalt part) s = .next ((s.lostRecord part).setReplay { r with halted := true }) := by
  have hx : exec (.replayHalt part) s = execReplayHalt part s := rfl
  rw [hx, execReplayHalt, hr]
  simp only
  rw [if_pos (by rw [hl, hh]; rfl)]

theorem exec_bufferSlotReturn {part : Nat} {port : BitVec 4} {r : Replay} (hr : s.replayOf part = some r) (hm : r.mode = 3) :
    exec (.bufferSlotReturn part port) s
      = .next (s.setReplay { r with log := r.log ++ [⟨4, 0, tickOf s.time, port.toNat, []⟩] }) := by
  have hx : exec (.bufferSlotReturn part port) s = .next (s.retrieverLog part 4 port.toNat []) := rfl
  rw [hx, State.retrieverLog, hr]
  simp only
  rw [if_pos (.inl hm)]

/-- No bytes are no packet. -/
theorem answer_nil (part : Nat) : s.answer part [] = none := rfl

theorem exec_retrieverInjection {part : Nat} {port : BitVec 4} {r : Replay} {e : LogEntry} {rest : List LogEntry}
    (hr : s.replayOf part = some r) (hn : s.nextArrival r = some (e, rest)) (hd : e.data = []) (hv : e.val = port.toNat) :
    exec (.retrieverInjection part port []) s = .next (s.setReplay { r with log := rest }) := by
  have hx : exec (.retrieverInjection part port []) s = .next (s.inject part port []) := rfl
  rw [hx, State.inject, hr]
  simp only
  rw [hn]
  simp only
  rw [if_pos ⟨hd, hv⟩, answer_nil]
  rfl

end

/-- Settles O56: each event by its state, and the bytes that it writes by the writes through a tenant's page. -/
theorem debugEvents : Obligations.DebugEvents := by
  intro s hcanon
  refine ⟨fun cause bp ha hd hp hm => ?_, fun sp tr pa ht hh hp => traceHeadAdvance_outcome s hcanon.1 ht hh hp,
    fun part p r hp hr hd hc => ⟨_, rfl, checkpoint_outcome s hcanon.1 hp hr hd hc⟩, fun part r hr hl hh => exec_replayHalt s hr hl hh,
    fun part port r hr hm => exec_bufferSlotReturn s hr hm, fun part port r e rest hr hn _ hd hv => exec_retrieverInjection s hr hn hd hv⟩
  obtain ⟨hphase, hctx⟩ := debugStop_holds s ha hd hp hm
  exact ⟨_, rfl, hphase, by rw [hctx], by rw [hctx]⟩

end Sys2Proof.Machine
end

section
/-! How an arriving command is answered and enters its queue; RESIZEACK and SUMMARY (R326, R328 to R331, R352, R364, R386, R387, R390). -/

namespace Sys2Proof.Machine

/-! ### Answers -/

/-- Nothing differs but packets sent. -/
def State.sends (s t : State) : Prop := ∃ ps, t = { s with outbox := s.outbox ++ ps }

section
variable {s t u : State}

theorem sends_refl (s : State) : s.sends s := ⟨[], by rw [List.append_nil]⟩

theorem sends_trans (h : s.sends t) (h' : t.sends u) : s.sends u := by
  obtain ⟨ps, rfl⟩ := h
  obtain ⟨qs, rfl⟩ := h'
  exact ⟨ps ++ qs, by rw [List.append_assoc]⟩

theorem sendFrom_sends (s : State) (part : Nat) (m : Msg) : s.sends (s.sendFrom part m) := sendFrom_eq s part m

theorem respond_sends (s : State) (c : Cmd) (status : Nat) : s.sends (s.respond c status) := sendFrom_sends ..

theorem tell_sends (s : State) (c : Cmd) (status code : Nat) (body : List Byte) : s.sends (s.tell c status code body) :=
  sendFrom_sends ..

theorem foldl_sends {α : Type} {f : State → α → State} (h : ∀ (s : State) x, s.sends (f s x)) (l : List α) (s : State) :
    s.sends (l.foldl f s) := by
  induction l generalizing s with
  | nil => exact sends_refl s
  | cons x l ih => exact sends_trans (h s x) (ih _)

theorem sends_queueAt (h : s.sends t) (k : Nat × Nat) : t.queueAt k = s.queueAt k := by
  obtain ⟨ps, rfl⟩ := h
  rfl

/-- With no order log of the module's own packets a packet is sent. -/
theorem sendFrom_last {part : Nat} (m : Msg) (h : s.replayOf part = none) : (s.sendFrom part m).outbox = s.outbox ++ [m] := by
  rw [State.sendFrom, h]
  rfl

end

/-! ### Commands that arrive -/

section
variable {s : State} {c : Cmd}

/-- The events of the commands that have queues, with the opcode, the endpoint and the form of each. -/
def arrivals (c : Cmd) : List (Instr × BitVec 8 × Bool × Bool) :=
  let f := fieldNat c.body
  let len := c.body.length
  let part := cmdAtPart c
  let mgmt := cmdAtMgmt c
  let debug := cmdAtDebug c
  [(.launch c, 0x01#8, part, decide (len = 8)),
    (.copy c, 0x02#8, part, decide (len = 64 ∧ f 0x18 2 = 0 ∧ f 0x1C 4 = 0 ∧ f 0x20 8 = 0) && !descReserved c.body),
    (.waitevent c, 0x03#8, part, decide (len = 16)),
    (.signalevent c, 0x04#8, part, decide (len = 16 ∧ f 8 8 < 2 ^ 24)),
    (.map c, 0x10#8, part, !mapBodyBad c.body),
    (.unmap c, 0x11#8, part, decide (len = 16)),
    (.partcreate c, 0x12#8, mgmt, decide (len = 96)),
    (.partresize c, 0x13#8, mgmt, decide (len = 40 ∧ f 2 2 = 0)),
    (.partdestroy c, 0x14#8, mgmt, decide (len = 2)),
    (.vdevcreate c, 0x15#8, mgmt, decide (len = 6 ∧ f 3 1 = 0)),
    (.vdevset c, 0x16#8, mgmt, decide (len = 10 ∧ f 2 2 = 0)),
    (.queuecreate c, 0x17#8, mgmt, decide (len = 8)),
    (.queuedestroy c, 0x18#8, mgmt, decide (len = 3)),
    (.energy c, 0x19#8, mgmt, decide (len = 24 ∧ f 3 1 < 8 ∧ f 20 4 = 0)),
    (.attest c, 0x1B#8, mgmt, decide (len = 48 ∧ f 3 5 = 0)),
    (.alarmset c, 0x1C#8, mgmt, decide (len = 4)),
    (.queuereset c, 0x1D#8, mgmt, decide (len = 4 ∧ f 3 1 < 2)),
    (.dbgarm c, 0x20#8, debug, decide (len = 32 ∧ f 3 1 < 2 ∧ f 6 2 = 0)),
    (.dbgstop c, 0x21#8, debug, decide (len = 8 ∧ f 3 1 = 0)),
    (.dbgresume c, 0x22#8, debug, decide (len = 24 ∧ f 3 1 = 0 ∧ f 12 4 = 0)),
    (.trace c, 0x23#8, debug, decide (len = 96 ∧ f 3 1 < 16 ∧ f 5 3 = 0 ∧ f 12 4 = 0)),
    (.counters c, 0x24#8, debug, decide (len = 16 ∧ f 2 2 < 2 ∧ f 4 4 = 0)),
    (.replay c, 0x25#8, debug, decide (len = 28 ∧ f 3 1 = 0))]

/-- A command that arrives is judged by its endpoint, its opcode and its form. -/
theorem command_arrives (ha : c.arriving = true) {op : BitVec 8} {ours bad good : Bool} {act : State → Cmd → State} (hb : bad = !good) :
    s.command c op ours bad act = s.arrive c (!(ours && decide (c.op = op) && good)) := by
  rw [State.command, if_pos ha, hb]
  congr 1
  by_cases h : c.op = op
  · cases good <;> cases ours <;> simp [h]
  · cases good <;> cases ours <;> simp [h]

/-- The reserved fields of the descriptor of a COPY. -/
theorem copyBodyBad_eq (bs : List Byte) : copyBodyBad bs = !(decide (bs.length = 64 ∧ fieldNat bs 0x18 2 = 0 ∧ fieldNat bs 0x1C 4 = 0
    ∧ fieldNat bs 0x20 8 = 0) && !descReserved bs) := by
  rw [copyBodyBad, Bool.not_and, Bool.not_not, ← decide_not]
  congr 1
  simp only [decide_eq_decide, not_and_or]
  tauto

theorem exec_arrives (ha : c.arriving = true) : ∀ i ∈ arrivals c,
    exec i.1 s = .next (s.arrive c (!(i.2.2.1 && decide (c.op = i.2.1) && i.2.2.2))) := by
  have row : ∀ {i : Instr} {op : BitVec 8} {ours bad good : Bool} {act : State → Cmd → State},
      exec i s = .next (s.command c op ours bad act) → bad = !good →
      exec i s = .next (s.arrive c (!(ours && decide (c.op = op) && good))) :=
    fun hx hb => hx.trans (congrArg Host.Outcome.next (command_arrives ha hb))
  have hle : ∀ a b : Nat, decide (a ≤ b) = !decide (b < a) := fun a b => by
    simp only [← Nat.not_lt, decide_not]
  unfold arrivals
  simp only [List.forall_mem_cons]
  refine ⟨row rfl ?_, row rfl (copyBodyBad_eq _), row rfl ?_, row rfl ?_, row rfl ?_, row rfl ?_, row rfl ?_, row rfl ?_, row rfl ?_, row rfl ?_,
    row rfl ?_, row rfl ?_, row rfl ?_, row rfl ?_, row rfl ?_, row rfl ?_, row rfl ?_, row rfl ?_, row rfl ?_, row rfl ?_,
    row rfl ?_, row rfl ?_, row rfl ?_, fun _ h => absurd h (List.not_mem_nil)⟩ <;>
    simp only [bodyNot, Bool.decide_and, Bool.not_and, hle, bne, Bool.not_not, Bool.or_assoc] <;> rfl

/-- The form that a command must have whatever its operation. -/
def Cmd.sound (c : Cmd) : Bool := !c.rsvd && decide (32 ≤ c.bytes.length) && decide (c.len ≤ 992) && decide (c.len = c.body.length)
  && (if c.ep = .mgmt ∨ c.ep = .debug then c.queue == 0#8 else decide (c.queue.toNat < 64))

theorem form_sound (c : Cmd) (good : Bool) : (!good || c.rsvd || c.lenBad || (c.ep != .mgmt && c.ep != .debug && decide (63 < c.queue.toNat))
    || ((c.ep == .mgmt || c.ep == .debug) && c.queue != 0#8)) = !(good && Cmd.sound c) := by
  have hlen : c.lenBad = !(decide (32 ≤ c.bytes.length) && decide (c.len ≤ 992) && decide (c.len = c.body.length)) := by
    simp only [Bool.not_and, Sys2Proof.Cmd.lenBad, ← Nat.not_le, decide_not, bne]
    rfl
  have hqueue : ((c.ep != .mgmt && c.ep != .debug && decide (63 < c.queue.toNat)) || ((c.ep == .mgmt || c.ep == .debug) && c.queue != 0#8))
      = !(if c.ep = .mgmt ∨ c.ep = .debug then c.queue == 0#8 else decide (c.queue.toNat < 64)) := by
    cases c.ep with
    | mgmt => rfl
    | debug => rfl
    | part p =>
      have h : decide (63 < c.queue.toNat) = !decide (c.queue.toNat < 64) := by
        by_cases hq : c.queue.toNat < 64
        · simp only [hq, decide_true, Bool.not_true, decide_eq_false_iff_not]
          omega
        · simp only [hq, decide_false, Bool.not_false, decide_eq_true_eq]
          omega
      have hm : (Endpoint.part p == .mgmt) = false := rfl
      have hd : (Endpoint.part p == .debug) = false := rfl
      simp [bne, hm, hd, h]
  rw [Bool.or_assoc, hqueue, hlen, Cmd.sound]
  cases good <;> cases c.rsvd <;> simp [Bool.and_assoc, Bool.or_assoc]

theorem verdict_absent (bad : Bool) (h : s.queueAt (cmdHome c) = none) : s.verdict c bad = 2 := by rw [State.verdict, h]

/-- The first cause that holds. -/
theorem verdict_queue {q : CmdQueue} (good : Bool) (h : s.queueAt (cmdHome c) = some q) : s.verdict c (!good)
    = if (good && Cmd.sound c) = false then 2 else if s.queueShut q then 3 else if q.knows c.seq then 4 else if 256 ≤ q.depth then 1 else 0 := by
  rw [State.verdict, h]
  simp only
  rw [form_sound]
  simp only [Bool.not_eq_true']

theorem arrive_unknown (bad : Bool) (h : s.knownSource c (cmdPart c) = false) :
    s.arrive c bad = s.count (decide (6 ≤ c.port.val)) 11 := by
  rw [State.arrive, if_pos (by rw [h]; rfl)]
  rfl

theorem arrive_known {bad : Bool} (h : s.knownSource c (cmdPart c) = true) : s.arrive c bad = match s.refusal with
    | some 99 => s
    | some k => s.respond c k
    | none =>
      let k := s.verdict c bad
      let s := s.respond c k
      if k = 0 then
        match s.queueAt (cmdHome c) with
        | some q => (s.logged (Endpoint.owner c.ep) 3 q.id (c.seq.toNat + 2 ^ 32 * c.port.val)).2.setQueue (q.take { c with arriving := false })
        | none => s
      else s := by
  rw [State.arrive, if_neg (by rw [h]; decide)] <;> rfl

/-- A module that does not serve refuses a command or stays silent. -/
theorem arrive_refused {bad : Bool} (h : s.knownSource c (cmdPart c) = true) :
    (s.devState = .boot ∨ s.devState = .stopped → s.arrive c bad = s.respond c 3)
    ∧ (s.devState = .alarm ∨ s.devState = .failed → s.arrive c bad = s) := by
  rw [arrive_known h]
  refine ⟨fun hd => ?_, fun hd => ?_⟩
  · rcases hd with hd | hd <;> simp only [State.refusal, hd]
  · rcases hd with hd | hd <;> simp only [State.refusal, hd]

theorem arrive_verdict {bad : Bool} (h : s.knownSource c (cmdPart c) = true) (hd : s.devState = .ready) :
    (s.verdict c bad ≠ 0 → s.arrive c bad = s.respond c (s.verdict c bad))
    ∧ ∀ q, s.queueAt (cmdHome c) = some q → s.verdict c bad = 0 → s.arrive c bad
      = ((s.respond c 0).logged (Endpoint.owner c.ep) 3 q.id (c.seq.toNat + 2 ^ 32 * c.port.val)).2.setQueue
        (q.take { c with arriving := false }) := by
  rw [arrive_known h, State.refusal, hd]
  refine ⟨fun hv => if_neg hv, fun q hq hv => ?_⟩
  simp only
  rw [if_pos hv, hv, sends_queueAt (respond_sends ..), hq]

/-! ### Commands in a queue -/

/-- The queue keeps its place while commands that were ahead become due. -/
theorem advance_key (n : Nat) (q : CmdQueue) : (CmdQueue.advance n q).space = q.space ∧ (CmdQueue.advance n q).id = q.id := by
  induction n generalizing q with
  | zero => exact ⟨rfl, rfl⟩
  | succ n ih =>
    rw [CmdQueue.advance]
    split
    · exact ih _
    · exact ⟨rfl, rfl⟩

/-- The command that is next is held. -/
theorem take_next {q : CmdQueue} (h : q.ahead = []) (hs : c.seq = q.nextSeq) :
    q.take c = { q with held := q.held ++ [c], nextSeq := q.nextSeq + 1 } := by
  have hfind : (([] ++ [c] : List Cmd).find? fun d => d.seq == q.nextSeq) = some c := List.find?_cons_of_pos (by simp [hs])
  rw [CmdQueue.take, h, List.length_nil, CmdQueue.advance, hfind]
  simp [CmdQueue.advance]

/-- A command that is not next waits ahead. -/
theorem take_ahead {q : CmdQueue} (hs : c.seq ≠ q.nextSeq) (h : ∀ d ∈ q.ahead, d.seq ≠ q.nextSeq) :
    q.take c = { q with ahead := q.ahead ++ [c] } := by
  have hfind : ((q.ahead ++ [c]).find? fun d => d.seq == q.nextSeq) = none := by
    rw [List.find?_eq_none]
    intro d hd
    rcases List.mem_append.mp hd with hd | hd
    · simpa using h d hd
    · rw [List.mem_singleton.mp hd]
      simpa using hs
  rw [CmdQueue.take, CmdQueue.advance, hfind]

theorem queueAt_key {k : Nat × Nat} {q : CmdQueue} (h : s.queueAt k = some q) : q.space.part = k.1 ∧ q.id = k.2 := by
  have := List.find?_some h
  simpa using this

/-- A queue that is put back is the one in its place. -/
theorem queueAt_setQueue {k : Nat × Nat} {q r : CmdQueue} (h : s.queueAt k = some q) (hs : r.space.part = q.space.part) (hi : r.id = q.id) :
    (s.setQueue r).queueAt k = some r := by
  obtain ⟨hp, hid⟩ := queueAt_key h
  have hf := find_replaced (g := fun x => decide (x.space.part = r.space.part ∧ x.id = r.id)) (b := r) h (by simp [hs, hi])
    (by simp [hs, hi, hp, hid])
  simp only [decide_eq_true_eq] at hf
  exact hf

/-- A command that is accepted is in its queue, and its place in the order log if there is one. -/
theorem accepted {q : CmdQueue} {part kind who val : Nat} {later : Cmd} (h : s.queueAt (cmdHome c) = some q) :
    let t := ((s.respond c 0).logged part kind who val).2.setQueue (q.take later)
    t.queueAt (cmdHome c) = some (q.take later) ∧ t.mem = s.mem ∧ t.core = s.core := by
  intro t
  obtain ⟨ps, hs⟩ := respond_sends s c 0
  have hl := logged_same (s.respond c 0) part kind who val
  rw [hs] at hl
  show _ ∧ (State.logged _ part kind who val).2.mem = _ ∧ (State.logged _ part kind who val).2.core = _
  rw [hs]
  generalize hv : (State.logged _ part kind who val).2 = v at hl
  have hq : v.queueAt (cmdHome c) = some q := by rw [State.sameButChoices] at hl; rw [hl]; exact h
  obtain ⟨hspace, hid⟩ := advance_key (q.ahead.length + 1) { q with ahead := q.ahead ++ [later] }
  refine ⟨?_, ?_, ?_⟩
  · show (State.setQueue _ _).queueAt _ = _
    rw [hs, hv]
    exact queueAt_setQueue hq (congrArg Space.part hspace) hid
  · rw [State.sameButChoices] at hl
    rw [hl]
  · rw [State.sameButChoices] at hl
    rw [hl]

/-! ### RESIZEACK and SUMMARY -/

theorem exec_resizeack {p : Part} {q : CmdQueue} (ha : c.arriving = true) (hk : s.knownSource c (cmdPart c) = true)
    (hd : s.devState = .ready) (hop : c.op = 0x05#8) (hlen : c.body.length = 8) (hf : fieldNat c.body 2 2 = 0) (hr : c.rsvd = false)
    (hl : c.lenBad = false) (hq : s.queueAt (cmdHome c) = some q) (hep : c.ep = .part p.id)
    (hp : s.partOf (fieldNat c.body 0 2) = some p) (hu : p.unacked = true) (hseq : p.rseq.toNat = fieldNat c.body 4 4) :
    exec (.resizeack c) s = .next (match p.resize with
      | some (_, _, some d) => (((s.respond c 0).setPart { p with resize := none, unacked := false }).tell c 0 0 []).finish d 0 0 []
      | some (_, _, none) => ((s.respond c 0).setPart { p with resize := none, unacked := false }).tell c 0 0 []
      | none => ((s.respond c 0).setPart { p with resize := none, unacked := false }).tell c 0 0 []) := by
  have hpart : (s.respond c 0).partOf (cmdPart c) = some p := by
    obtain ⟨ps, hs⟩ := respond_sends s c 0
    rw [hs]
    exact hp
  have hx : exec (.resizeack c) s = .next ((s.respond c 0).ackResize c) := by
    refine (congrArg Host.Outcome.next (if_pos ha)).trans (congrArg Host.Outcome.next ?_)
    rw [State.actNow, if_neg (by rw [hk]; decide), State.refusal, hd]
    simp only
    rw [if_neg (by simp [cmdAtPart, hep, hop, hlen, hf, hr, hl, hq])]
  rw [hx, State.ackResize, hpart]
  simp only
  rw [if_pos (by simp [hu, hseq, hep])]
  cases p.resize with
  | none => rfl
  | some x =>
    obtain ⟨cl, ring, d⟩ := x
    cases d <;> rfl

theorem exec_summary (ha : c.arriving = true) (hs : s.admins.contains c.src = true) (hep : c.ep = .mgmt) (hop : c.op = 0x1A#8)
    (hlen : c.body.length = 4) (hr : c.rsvd = false) (hl : c.lenBad = false) (hq : c.queue = 0#8) (hf : fieldNat c.body 0 4 < 2) :
    exec (.summary c) s = .next (s.summary c) := by
  have hk : s.knownSource c 0 = true := by rw [State.knownSource, hep]; exact hs
  have hx : exec (.summary c) s = execSummary c s := rfl
  rw [hx, execSummary, if_neg (by rw [ha]; decide), if_neg (by rw [hk]; decide),
    if_neg (by simp [cmdAtMgmt, hep, hop, bodyNot, hlen, hr, hl, hq]; omega)]

theorem summary_outcome (hep : c.ep = .mgmt) (hf : fieldNat c.body 0 4 < 2) :
    (s.summary c).counters = (if fieldNat c.body 0 4 = 1 then List.replicate 32 0#32 else s.counters)
    ∧ (s.summary c).mem = s.mem ∧ (s.summary c).core = s.core ∧ (s.summary c).cqueues = s.cqueues ∧ s.outbox <+: (s.summary c).outbox
    ∧ (s.replayOf 0 = none → (s.summary c).outbox.getLast? = some ⟨.mgmt, c.port, c.src, .send, cmdAnswer c 1 0 0 []⟩) := by
  rw [State.summary]
  generalize hfold : List.foldl _ (s.respond c 0) _ = u
  have hu : s.sends u := by
    rw [← hfold]
    exact sends_trans (respond_sends ..) (foldl_sends (fun _ _ => sendFrom_sends ..) _ _)
  obtain ⟨ps, hps⟩ := sends_trans hu (tell_sends u c 0 0 [])
  have hlast : s.replayOf 0 = none → (u.tell c 0 0 []).outbox.getLast? = some ⟨.mgmt, c.port, c.src, .send, cmdAnswer c 1 0 0 []⟩ := by
    intro hr
    obtain ⟨qs, hqs⟩ := hu
    have hr' : u.replayOf 0 = none := by rw [hqs]; exact hr
    rw [State.tell, hep, Endpoint.owner, sendFrom_last _ hr', List.getLast?_concat]
  clear hfold hu
  generalize u.tell c 0 0 [] = v at hps hlast
  subst hps
  by_cases h1 : fieldNat c.body 0 4 = 1
  · rw [if_pos (by omega), if_pos h1]
    exact ⟨rfl, rfl, rfl, rfl, ⟨ps, rfl⟩, hlast⟩
  · rw [if_neg (by omega), if_neg h1]
    exact ⟨rfl, rfl, rfl, rfl, ⟨ps, rfl⟩, hlast⟩

end

/-- Settles O57: an arrival by its source, the module's state and the first cause that holds. -/
theorem commandArrivals : Obligations.CommandArrivals := by
  intro s c ha known sound later f len part mgmt debug
  refine ⟨?_, fun p q hk hd hop hlen hf hr hl hq hep hp hu hseq => exec_resizeack ha hk hd hop hlen hf hr hl hq hep hp hu hseq,
    fun hs hep hop hlen hr hl hq hf => ⟨_, exec_summary ha hs hep hop hlen hr hl hq hf, summary_outcome hep hf⟩⟩
  intro i hi good
  have hx := exec_arrives (s := s) ha i hi
  refine ⟨fun hk => ?_, fun hk hd => ?_, fun hk hd => ?_, fun hk hd => ⟨fun hq => ?_, fun q hq => ?_⟩⟩
  · rw [hx, arrive_unknown _ hk]
  · rw [hx, (arrive_refused hk).1 hd]
  · rw [hx, (arrive_refused hk).2 hd]
  · have hv := verdict_absent (!(i.2.2.1 && decide (c.op = i.2.1) && i.2.2.2)) hq
    rw [hx, (arrive_verdict hk hd).1 (by rw [hv]; decide), hv]
  · have hv := verdict_queue (i.2.2.1 && decide (c.op = i.2.1) && i.2.2.2) hq
    have hother : ∀ k, k ≠ 0 → s.verdict c (!(i.2.2.1 && decide (c.op = i.2.1) && i.2.2.2)) = k → exec i.1 s = .next (s.respond c k) := by
      intro k hk0 hkv
      rw [hx, (arrive_verdict hk hd).1 (by rw [hkv]; exact hk0), hkv]
    refine ⟨fun hg => hother 2 (by decide) ?_, fun hg hs => hother 3 (by decide) ?_, fun hg hs hn => hother 4 (by decide) ?_,
      fun hg hs hn hf => hother 1 (by decide) ?_, fun hg hs hn hf => ?_⟩
    · exact hv.trans (if_pos hg)
    · rw [hv, if_neg (by rw [show (_ && Cmd.sound c) = true from hg]; decide), if_pos hs]
    · rw [hv, if_neg (by rw [show (_ && Cmd.sound c) = true from hg]; decide), if_neg (by simp [hs]), if_pos hn]
    · rw [hv, if_neg (by rw [show (_ && Cmd.sound c) = true from hg]; decide), if_neg (by simp [hs]), if_neg (by simp [hn]), if_pos hf]
    · rw [if_neg (by rw [show (_ && Cmd.sound c) = true from hg]; decide), if_neg (by simp [hs]), if_neg (by simp [hn]),
        if_neg (by omega)] at hv
      obtain ⟨hqueue, hmem, hcore⟩ := accepted (part := Endpoint.owner c.ep) (kind := 3) (who := q.id)
        (val := c.seq.toNat + 2 ^ 32 * c.port.val) (later := later) hq
      refine ⟨_, hx, (arrive_verdict hk hd).2 q hq hv, ?_⟩
      rw [(arrive_verdict hk hd).2 q hq hv]
      exact ⟨hqueue, hmem, hcore, fun h hs => take_next h hs, fun hs h => take_ahead hs h⟩

end Sys2Proof.Machine
end

section
/-! COUNTERS does not leave the counters as they are when its FLAGS are 0: the command writes the 256 bytes of the
values through the caches, and a counter that counts misses of a cache counts the misses of that very write. The witness is a partition
whose counters all count the misses of an LLC that holds no line yet. -/

namespace Sys2Proof.Machine
open Sys2Proof.Tests

theorem finish_pmcs (s : State) (c : Cmd) (status code : Nat) (body : List Byte) :
    (s.finish c status code body).pmcs = s.pmcs := by
  have h : (s.tell c status code body).pmcs = s.pmcs := by
    obtain ⟨ps, hps⟩ := sendFrom_eq s (Endpoint.owner c.ep) ⟨c.ep, c.port, c.src, .send, cmdAnswer c 1 status code body⟩
    rw [State.tell, hps]
  rw [State.finish]
  (repeat' split) <;> exact h

/-- A COUNTERS command for partition 1 and the address 0x10000, with FLAGS 0. -/
def missCount : Cmd := cmd .debug 0x24#8 (leBytes 8 1 ++ leBytes 8 0x10000)

/-- Counters of partition 1 that all count event 9, a miss of an LLC. -/
def missCounters : Pmc := ⟨1, List.replicate 32 9#16, List.replicate 32 0#64⟩

/-- The command at the head of its queue, in a state whose caches hold no line. -/
def missState : State := { asked missCount with pmcs := [missCounters] }

theorem missState_pmcs : missState.pmcs = [missCounters] := rfl

/-- The state in which the command runs. -/
def missBegun : State := missState.begun missCount (homeOf missCount)

theorem missState_begins : missState.begins missCount = some (homeOf missCount) := by decide +kernel

theorem missBegun_tenant : missBegun.firstTenant (fieldNat missCount.body 0 2) = some ⟨1, 0⟩ := by decide +kernel

theorem missBegun_writable :
    missBegun.writable ⟨1, 0⟩ (BitVec.ofNat 64 (fieldNat missCount.body 8 8)) 256 = some none := by decide +kernel

theorem missBegun_flags : ¬ fieldNat missCount.body 2 2 % 2 = 1 := by decide +kernel

/-- What the step makes of the state. -/
def missDone : State :=
  missState.command missCount 0x24#8 (cmdAtDebug missCount)
    (bodyNot missCount 16 || decide (2 ≤ fieldNat missCount.body 2 2) || fieldNat missCount.body 4 4 != 0) State.countersCmd

theorem exec_missCount : exec (.counters missCount) missState = .next missDone := rfl

/-- The value of the first counter of each partition. -/
def countsOf (l : List Pmc) : List Nat := l.map fun p => (p.vals.getD 0 0#64).toNat

/-- The first counter has counted the four lines that the command wrote. -/
theorem missDone_counts : countsOf missDone.pmcs = [4] := by decide +kernel

/-- Refutes O60, in the clause of COUNTERS: with FLAGS 0 the counters of the witness are not as they were. -/
theorem not_debugCommands : ¬ Obligations.DebugCommands := by
  unfold Obligations.DebugCommands
  intro h
  obtain ⟨_, _, _, _, _, _, hcounters, _⟩ := h missState missCount _ rfl missState_begins
  obtain ⟨t, hexec, _, hpmcs⟩ := hcounters missCounters ⟨1, 0⟩ (by decide +kernel) missBegun_tenant missBegun_writable
  have hdone : missDone.pmcs = t.pmcs := by
    rw [Host.Outcome.next.inj (exec_missCount.symm.trans hexec), finish_pmcs]
  have hkept : missDone.pmcs = [missCounters] := by
    rw [hdone, hpmcs]
    simp only [missState_pmcs, List.map_cons, List.map_nil, missBegun_flags, false_and, if_false]
  exact absurd ((congrArg countsOf hkept).symm.trans missDone_counts) (by decide)
end Sys2Proof.Machine
end

section
/-! The commands of an administrator as they begin (R349, R352, R353, R364, R366, R368, R378, R383 to R385). -/

namespace Sys2Proof.Machine

theorem leNat_lt (bs : List Byte) : leNat bs < 2 ^ (8 * bs.length) := by
  induction bs with
  | nil => decide
  | cons b bs ih =>
    have hb := b.isLt
    have hpow : 2 ^ (8 * (b :: bs).length) = 256 * 2 ^ (8 * bs.length) := by
      rw [List.length_cons, Nat.mul_succ, Nat.pow_add, Nat.mul_comm]
    rw [hpow, leNat]
    omega

theorem fieldNat_lt (bs : List Byte) (o n : Nat) : fieldNat bs o n < 2 ^ (8 * n) :=
  Nat.lt_of_lt_of_le (leNat_lt _) (Nat.pow_le_pow_right (by decide) (Nat.mul_le_mul_left 8 (List.length_take_le ..)))

/-! ### A command that begins -/

section
variable {s : State} {c : Cmd} {q : CmdQueue}

/-- A command at the head of its queue runs in the state that its beginning leaves. -/
theorem command_begins (ha : c.arriving = false) (hb : s.begins c = some q) (op : BitVec 8) (ours bad : Bool)
    (act : State → Cmd → State) : s.command c op ours bad act = act (s.begun c q) c := by
  rw [State.command, if_neg (by rw [ha]; decide), hb] <;> rfl

theorem begins_queueAt (hb : s.begins c = some q) : s.queueAt (cmdHome c) = some q := by
  rw [State.begins] at hb
  cases hq : s.queueAt (cmdHome c) with
  | none => rw [hq] at hb; exact nomatch hb
  | some r =>
    rw [hq] at hb
    simp only at hb
    split at hb
    · exact hb
    · exact nomatch hb

/-- The queue of a command that begins, in the state in which it runs. -/
def CmdQueue.beginning (q : CmdQueue) (now : Nat) (c : Cmd) : CmdQueue :=
  { q with running := some c, elapsed := 0, began := now, begun := none, held := q.held.tail }

theorem begun_queueAt (hb : s.begins c = some q) : (s.begun c q).queueAt (cmdHome c) = some (q.beginning (tickOf s.time) c) :=
  queueAt_setQueue (begins_queueAt hb) (r := q.beginning (tickOf s.time) c) rfl rfl

end

/-! ### What an answer leaves -/

/-- Nothing differs but packets and command queues. -/
def State.answers (s t : State) : Prop := t = { s with outbox := t.outbox, cqueues := t.cqueues }

theorem finish_answers (s : State) (c : Cmd) (status code : Nat) (body : List Byte) : s.answers (s.finish c status code body) := by
  obtain ⟨ps, hps⟩ := tell_sends s c status code body
  rw [State.answers, State.finish, hps]
  (repeat' split) <;> rfl

theorem noteBegun_answers (s : State) (c : Cmd) (b : Begun) : s.answers (s.noteBegun c b) := by
  rw [State.answers, State.noteBegun]
  split <;> rfl

theorem answers_tenantOf {s t : State} (h : s.answers t) (sp : Space) : t.tenantOf sp = s.tenantOf sp := by
  rw [h] <;> rfl

theorem answers_cores {s t : State} (h : s.answers t) : t.cores = s.cores := by
  rw [h] <;> rfl

/-! ### Partitions -/

theorem and_eq_zero_of_or {w : Nat} {a b m : BitVec w} (h : (a ||| b) &&& m = 0#w) : a &&& m = 0#w := by
  ext i hi
  have hbit := congrArg (fun x => x.getLsbD i) h
  simp only [BitVec.getLsbD_and, BitVec.getLsbD_or, BitVec.getLsbD_zero, Bool.and_eq_false_iff, Bool.or_eq_false_iff] at hbit
  rw [← BitVec.getLsbD_eq_getElem, ← BitVec.getLsbD_eq_getElem, BitVec.getLsbD_and, BitVec.getLsbD_zero, Bool.and_eq_false_iff]
  exact hbit.imp And.left id

/-- What is free of all that a partition holds is free of what it has now. -/
theorem holds_free {o : Part} {cl : BitVec 16} {ring : BitVec 256} (hcl : o.holds.1 &&& cl = 0#16) (hring : o.holds.2 &&& ring = 0#256) :
    o.clusters &&& cl = 0#16 ∧ o.ring &&& ring = 0#256 := by
  rw [Part.holds] at hcl hring
  cases hr : o.resize with
  | none =>
    rw [hr] at hcl hring
    exact ⟨hcl, hring⟩
  | some x =>
    rw [hr] at hcl hring
    exact ⟨and_eq_zero_of_or hcl, and_eq_zero_of_or hring⟩

theorem masksOk_others {s : State} {id : Nat} {cl : BitVec 16} {ring : BitVec 256} (h : s.masksOk id cl ring = true) {o : Part}
    (ho : o ∈ s.others id) : o.clusters &&& cl = 0#16 ∧ o.ring &&& ring = 0#256 := by
  rw [State.masksOk, Bool.and_eq_true, List.all_eq_true] at h
  obtain ⟨hcl, hring⟩ := (Bool.and_eq_true ..).mp (h.2 o ho)
  exact holds_free (beq_iff_eq.mp hcl) (beq_iff_eq.mp hring)

/-- The partitions and the number of draws. -/
def State.drawn (s : State) : List Part × Nat := (s.parts, s.picks)

theorem createOk_free {s : State} {bs : List Byte} (h : s.createOk bs = true) {o : Part} (ho : o ∈ s.parts) :
    o.id ≠ fieldNat bs 0 2 ∧ o.clusters &&& (partOfBody bs).clusters = 0#16 ∧ o.ring &&& (partOfBody bs).ring = 0#256 := by
  simp only [State.createOk, Bool.and_eq_true, and_assoc] at h
  obtain ⟨_, hnone, _, _, _, hmasks, _⟩ := h
  have hid : o.id ≠ fieldNat bs 0 2 := fun he =>
    absurd (beq_iff_eq.mpr he) (List.find?_eq_none.mp (Option.isNone_iff_eq_none.mp hnone) o ho)
  exact ⟨hid, masksOk_others hmasks (List.mem_filter.mpr ⟨ho, bne_iff_ne.mpr hid⟩)⟩

/-- PARTCREATE adds one partition, with a new key. -/
theorem partCreate_adds {s t : State} {bs : List Byte} (h : s.partCreate bs = some t) :
    t.parts = s.parts ++ [{ partOfBody bs with key := some (Config.random s.picks) }] ∧ t.picks = s.picks + 1
      ∧ s.createOk bs = true := by
  rw [State.partCreate] at h
  simp only at h
  split at h
  · next hok =>
    have hd : ((clustersIn (partOfBody bs).clusters).foldl State.scrubCluster s).drawn = s.drawn :=
      foldl_view State.drawn (f := State.scrubCluster) (fun _ _ => rfl) _ _
    simp only [State.drawn, Prod.mk.injEq] at hd
    obtain ⟨hparts, hpicks⟩ := hd
    rw [← Option.some.inj h]
    simp only [State.addClusters, hparts, hpicks, hok, and_self]
  · exact nomatch h

/-- Nothing of a partition is left once it is destroyed. -/
theorem partDestroy_none (s : State) (p : Part) : (∀ o ∈ (s.partDestroy p).parts, o.id ≠ p.id)
    ∧ (∀ m ∈ (s.partDestroy p).maps, m.space.part ≠ p.id) ∧ ∀ v ∈ (s.partDestroy p).tenants, v.space.part ≠ p.id := by
  refine ⟨fun o ho => ?_, fun m hm => ?_, fun v hv => ?_⟩
  · exact bne_iff_ne.mp (List.mem_filter.mp ho).2
  · obtain ⟨x, hx, rfl⟩ := List.mem_map.mp hm
    have hx := bne_iff_ne.mp (List.mem_filter.mp hx).2
    cases hb : x.back <;> simpa only [hb] using hx
  · exact bne_iff_ne.mp (List.mem_filter.mp hv).2

/-! ### Tenants -/

/-- A tenant that is put back is the one in its place. -/
theorem tenantOf_setTenant {s : State} {sp : Space} {t n : Tenant} (h : s.tenantOf sp = some t) (hs : n.space = t.space) :
    (s.setTenant n).tenantOf sp = some n := by
  have hsp : t.space = sp := by simpa using List.find?_some (p := fun u : Tenant => decide (u.space = sp)) h
  have hf := find_replaced (g := fun u => decide (u.space = n.space)) (b := n) h (by simp [hs]) (by simp [hs, hsp])
  simp only [decide_eq_true_eq] at hf
  exact hf

theorem reportHosts_sends (s : State) (part : Nat) (bs : List Byte) : s.sends (s.reportHosts part bs) := by
  rw [State.reportHosts]
  split
  · exact foldl_sends (fun _ _ => sendFrom_sends ..) _ _
  · exact sends_refl s

theorem tenantEvent_sends (s : State) (sp : Space) (ev : Nat) : s.sends (s.tenantEvent sp ev) := by
  rw [State.tenantEvent]
  split
  · exact reportHosts_sends ..
  · exact sends_refl s

theorem sends_tenantOf {s t : State} (h : s.sends t) (sp : Space) : t.tenantOf sp = s.tenantOf sp := by
  obtain ⟨ps, rfl⟩ := h
  rfl

theorem mapCores_cores (s : State) (f : Core → Core) : (s.mapCores f).cores = s.cores.map f := rfl

theorem askStop_stop (k : Core) : k.askStop.stop = true := rfl

/-- The tickets that a VDEVSET leaves a tenant. -/
def Tenant.sold (t : Tenant) (tickets : Nat) : Tenant := { t with tickets := if tickets = 0 then t.tickets else tickets }

theorem sold_eq (t : Tenant) (tickets : Nat) : (if tickets = 0 then t else { t with tickets := tickets }) = t.sold tickets := by
  rw [Tenant.sold]
  split <;> rfl

/-- A disabled tenant that is to run is enabled at once. -/
theorem vdevMove_on {s : State} {sp : Space} {t : Tenant} (h : s.tenantOf sp = some t) (hst : t.st = .disabled) (tickets : Nat) :
    (s.vdevMove sp true tickets).tenantOf sp = some { t.sold tickets with st := .enabled } := by
  have hm : s.vdevMove sp true tickets = (s.setTenant { t.sold tickets with st := .enabled }).tenantEvent sp 0x03 := by
    rw [State.vdevMove, h]
    simp only [sold_eq]
    have hs : (t.sold tickets).st = .disabled := hst
    rw [hs]
  rw [hm, sends_tenantOf (tenantEvent_sends ..)]
  exact tenantOf_setTenant (n := { t.sold tickets with st := .enabled }) h rfl

/-- An enabled tenant that is to stop is stopping, and its running tasks are asked to. -/
theorem vdevMove_off {s : State} {sp : Space} {t : Tenant} (h : s.tenantOf sp = some t) (hst : t.st = .enabled) (tickets : Nat) :
    (s.vdevMove sp false tickets).tenantOf sp = some { t.sold tickets with st := .stopping, since := tickOf s.time }
      ∧ ∀ k ∈ (s.vdevMove sp false tickets).cores, k.task.isSome = true → k.space = sp → k.stop = true := by
  have hm : s.vdevMove sp false tickets = (s.setTenant { t.sold tickets with st := .stopping, since := tickOf s.time }).mapCores fun c =>
      if c.task.isSome ∧ c.space = sp then c.askStop else c := by
    rw [State.vdevMove, h]
    simp only [sold_eq]
    have hs : (t.sold tickets).st = .enabled := hst
    rw [hs]
  rw [hm]
  refine ⟨tenantOf_setTenant (n := { t.sold tickets with st := .stopping, since := tickOf s.time }) h rfl, fun k hk htask hspace => ?_⟩
  obtain ⟨c, -, rfl⟩ := List.mem_map.mp (mapCores_cores .. ▸ hk)
  by_cases hc : c.task.isSome = true ∧ c.space = sp
  · rw [if_pos hc, askStop_stop]
  · rw [if_neg hc] at htask hspace
    exact absurd ⟨htask, hspace⟩ hc

/-- The one tenant of a mask with one bit. -/
theorem named_one {v : Nat} (hv : v < 16) : ((List.range 16).filter fun w => 2 ^ v / 2 ^ w % 2 == 1) = [v] := by
  decide +revert

theorem vdevCreate_tenant {s t : State} {bs : List Byte} (h : s.vdevCreate bs = some t) :
    t.tenantOf ⟨fieldNat bs 0 2, fieldNat bs 2 1⟩ = some ⟨⟨fieldNat bs 0 2, fieldNat bs 2 1⟩, fieldNat bs 4 2, .disabled, [], 0⟩ := by
  rw [State.vdevCreate] at h
  simp only at h
  split at h
  · next hok =>
    simp only [Bool.and_eq_true, and_assoc] at hok
    obtain ⟨_, _, hnone, _⟩ := hok
    rw [← Option.some.inj h, State.tenantOf, List.find?_append, ← State.tenantOf, Option.isNone_iff_eq_none.mp hnone]
    simp
  · exact nomatch h

/-- A VDEVSET that begins and names one tenant moves it. -/
theorem vdevSet_one {s : State} {c : Cmd} {k : CmdQueue} {v : Nat} {p : Part} {t : Tenant} (hq : s.queueAt (cmdHome c) = some k)
    (hk : k.begun = none) (hv : v < 16) (hmask : fieldNat c.body 4 2 = 2 ^ v) (hticket : fieldNat c.body 8 2 ≤ 1024)
    (hp : s.partOf (cmdPart c) = some p) (ht : s.tenantOf ⟨cmdPart c, v⟩ = some t) :
    (s.vdevMove ⟨cmdPart c, v⟩ (fieldNat c.body 6 2 / 2 ^ v % 2 == 1) (fieldNat c.body 8 2)).answers (s.vdevSet c) := by
  have hno : ((s.partOf (cmdPart c)).isNone || !(([v] : List Nat).all fun v => (s.tenantOf ⟨cmdPart c, v⟩).isSome)
      || decide (1024 < fieldNat c.body 8 2)) = false := by
    simp [hp, ht, hticket]
  rw [State.vdevSet]
  simp only [hq, hk, hmask, named_one hv, hno, Bool.false_eq_true, if_false, List.foldl_cons, List.foldl_nil]
  split
  · exact finish_answers ..
  · exact noteBegun_answers ..

/-! ### Queues -/

theorem namedQueue_some {s : State} {bs : List Byte} {q : CmdQueue} (h : s.namedQueue bs = some q) :
    s.queueAt (fieldNat bs 0 2, fieldNat bs 2 1) = some q := by
  rw [State.namedQueue] at h
  split at h
  · exact h
  · exact nomatch h

theorem queueCreate_queue {s t : State} {bs : List Byte} (h : s.queueCreate bs = some t) :
    t.queueAt (fieldNat bs 0 2, fieldNat bs 3 1)
      = some (CmdQueue.reset ⟨fieldNat bs 0 2, fieldNat bs 2 1⟩ (fieldNat bs 3 1) (fieldNat bs 4 4)) := by
  rw [State.queueCreate] at h
  simp only at h
  split at h
  · next hok =>
    simp only [Bool.and_eq_true, and_assoc] at hok
    obtain ⟨_, _, hnone, _⟩ := hok
    rw [← Option.some.inj h, State.queueAt, List.find?_append, ← State.queueAt, Option.isNone_iff_eq_none.mp hnone]
    simp [CmdQueue.reset]
  · exact nomatch h

theorem queueDestroy_none {s t : State} {bs : List Byte} (h : s.queueDestroy bs = some t) :
    t.queueAt (fieldNat bs 0 2, fieldNat bs 2 1) = none := by
  rw [State.queueDestroy] at h
  cases hn : s.namedQueue bs with
  | none => rw [hn] at h; exact nomatch h
  | some q =>
    rw [hn] at h
    simp only at h
    split at h
    · obtain ⟨hpart, hid⟩ := queueAt_key (namedQueue_some hn)
      rw [← Option.some.inj h, State.queueAt, List.find?_eq_none]
      intro r hr hkey
      have hout := (List.mem_filter.mp hr).2
      simp only [hpart, hid] at hout
      rw [hkey] at hout
      exact nomatch hout
    · exact nomatch h

theorem queueReset_queue {s t : State} {bs : List Byte} (h : s.queueReset bs = some t) :
    ∃ k, t.queueAt (fieldNat bs 0 2, fieldNat bs 2 1) = some k ∧ k.error = false
      ∧ (fieldNat bs 3 1 = 1 → k.held = [] ∧ k.ahead = []) := by
  rw [State.queueReset] at h
  cases hn : s.namedQueue bs with
  | none => rw [hn] at h; exact nomatch h
  | some q =>
    have hq := namedQueue_some hn
    rw [hn] at h
    simp only at h
    split at h
    · exact nomatch h
    · split at h
      · rw [← Option.some.inj h, sends_queueAt (foldl_sends (fun _ _ => tell_sends ..) _ _)]
        exact ⟨_, queueAt_setQueue hq (r := { q with error := false, held := [], ahead := [] }) rfl rfl, rfl, fun _ => ⟨rfl, rfl⟩⟩
      · next hflag =>
        rw [← Option.some.inj h]
        exact ⟨_, queueAt_setQueue hq (r := { q with error := false }) rfl rfl, rfl, fun hone => absurd (by rw [hone]) hflag⟩

/-! ### Alarms -/

theorem actionOf_code {n : Nat} (h : n < 3) : (actionOf n).code = n := by
  decide +revert

theorem alarmSet_raises {s t : State} {bs : List Byte} (h : s.alarmSet bs = some t) :
    ((s.actions.zip t.actions).all fun p => decide (p.1.code ≤ p.2.code)) = true := by
  rw [State.alarmSet] at h
  split at h
  · next hok =>
    obtain ⟨hsmall, hup⟩ := (Bool.and_eq_true ..).mp hok
    rw [← Option.some.inj h]
    simp only [List.zip_map_right, List.map_map, List.all_map, List.all_eq_true, Function.comp_apply, decide_eq_true_eq] at hsmall hup ⊢
    intro ⟨old, new⟩ hp
    exact (hup _ hp).trans_eq (actionOf_code (hsmall new (List.of_mem_zip hp).2)).symm
  · exact nomatch h

/-! ### Records that a command writes -/

/-- The 64 records of a tenant, as ENERGY writes them. -/
def State.energyBytes (s : State) (sp : Space) : List Byte :=
  (List.range 64).flatMap fun id => match s.energyRecord sp id with | some e => Energy.bytes e | none => List.replicate 64 0#8

theorem energyCmd_writes {s : State} {c : Cmd} (hsp : (s.tenantOf ⟨fieldNat c.body 0 2, fieldNat c.body 2 1⟩).isSome = true)
    (hal : (BitVec.ofNat 64 (fieldNat c.body 8 8)).toNat % 64 = 0)
    (hw : s.writable ⟨fieldNat c.body 0 2, fieldNat c.body 2 1⟩ (BitVec.ofNat 64 (fieldNat c.body 8 8)) 4096 = some none) :
    s.energyCmd c = ((s.poke ⟨fieldNat c.body 0 2, fieldNat c.body 2 1⟩ (BitVec.ofNat 64 (fieldNat c.body 8 8)).toNat
        (s.energyBytes ⟨fieldNat c.body 0 2, fieldNat c.body 2 1⟩)).mapEnergies ⟨fieldNat c.body 0 2, fieldNat c.body 2 1⟩
      fun e => e.set (fieldNat c.body 3 1) (fieldNat c.body 4 4) (fieldNat c.body 16 4)).finish c 0 0 [] := by
  have hno : (s.tenantOf ⟨fieldNat c.body 0 2, fieldNat c.body 2 1⟩).isNone = false := by rw [← Option.not_isSome, hsp] <;> rfl
  rw [State.energyCmd]
  simp only [hno, hal, hw, bne_self_eq_false, Bool.or_self, Bool.false_eq_true, if_false]
  rfl

theorem attest_writes {s : State} {c : Cmd} {p : Part} (hp : s.partOf (fieldNat c.body 0 2) = some p)
    (hsp : (s.tenantOf ⟨fieldNat c.body 0 2, fieldNat c.body 2 1⟩).isSome = true)
    (hal : (BitVec.ofNat 64 (fieldNat c.body 0x28 8)).toNat % 64 = 0)
    (hw : s.writable ⟨fieldNat c.body 0 2, fieldNat c.body 2 1⟩ (BitVec.ofNat 64 (fieldNat c.body 0x28 8)) 16480 = some none) :
    let r := s.report p ((c.body.drop 8).take 32)
    s.attest c = (s.poke ⟨fieldNat c.body 0 2, fieldNat c.body 2 1⟩ (BitVec.ofNat 64 (fieldNat c.body 0x28 8)).toNat
      (r ++ signatureOf r)).finish c 0 0 [] := by
  obtain ⟨t, ht⟩ := Option.isSome_iff_exists.mp hsp
  rw [State.attest]
  simp only [hp, ht, hw]
  exact if_neg (not_not.mpr hal)

/-! ### The obligation -/

section
variable {s : State} {c : Cmd} {q : CmdQueue}

theorem settles (ha : c.arriving = false) (hb : s.begins c = some q) {i : Instr × Option State} (hi : i ∈ [
    (.partcreate c, (s.begun c q).partCreate c.body), (.vdevcreate c, (s.begun c q).vdevCreate c.body),
    (.queuecreate c, (s.begun c q).queueCreate c.body), (.queuedestroy c, (s.begun c q).queueDestroy c.body),
    (.queuereset c, (s.begun c q).queueReset c.body), (.alarmset c, (s.begun c q).alarmSet c.body)]) :
    exec i.1 s = .next ((s.begun c q).settle c i.2) := by
  simp only [List.mem_cons, List.not_mem_nil, or_false] at hi
  rcases hi with rfl | rfl | rfl | rfl | rfl | rfl <;> exact congrArg Host.Outcome.next (command_begins ha hb ..)

theorem exec_partdestroy (ha : c.arriving = false) (hb : s.begins c = some q) :
    exec (.partdestroy c) s = .next ((s.begun c q).partDestroyCmd c) := congrArg Host.Outcome.next (command_begins ha hb ..)

theorem exec_partresize (ha : c.arriving = false) (hb : s.begins c = some q) :
    exec (.partresize c) s = .next ((s.begun c q).partResize c) := congrArg Host.Outcome.next (command_begins ha hb ..)

theorem exec_vdevset (ha : c.arriving = false) (hb : s.begins c = some q) :
    exec (.vdevset c) s = .next ((s.begun c q).vdevSet c) := congrArg Host.Outcome.next (command_begins ha hb ..)

theorem exec_energy (ha : c.arriving = false) (hb : s.begins c = some q) :
    exec (.energy c) s = .next ((s.begun c q).energyCmd c) := congrArg Host.Outcome.next (command_begins ha hb ..)

theorem exec_attest (ha : c.arriving = false) (hb : s.begins c = some q) :
    exec (.attest c) s = .next ((s.begun c q).attest c) := congrArg Host.Outcome.next (command_begins ha hb ..)

end

/-- Settles O59: each command by what it makes of the state in which it begins. -/
theorem managementCommands : Obligations.ManagementCommands := by
  unfold Obligations.ManagementCommands
  intro s c q ha hb u f part
  refine ⟨fun i hi => (settles ha hb hi).trans ?_, fun t ht => ?_, fun hp => ?_, fun p hp => ?_, fun t ht => ?_,
    fun t ht => queueCreate_queue ht, fun t ht => queueDestroy_none ht, fun t ht => queueReset_queue ht, fun t ht => alarmSet_raises (s := u) ht,
    fun p hp hr => ?_, fun v p t hv hmask hticket hp ht => ?_, ?_, ?_⟩
  · cases i.2 <;> rfl
  · obtain ⟨hparts, hpicks, hok⟩ := partCreate_adds ht
    exact ⟨_, hparts, rfl, BitVec.toNat_ofNat .. ▸ Nat.mod_eq_of_lt (fieldNat_lt c.body 4 2), rfl, hpicks, fun o ho => createOk_free hok ho⟩
  · rw [exec_partdestroy ha hb, State.partDestroyCmd, show u.partOf (cmdPart c) = none from hp]
  · have hid : p.id = part := partOf_id hp
    have hrun := exec_partdestroy ha hb
    rw [State.partDestroyCmd, show (s.begun c q).partOf (cmdPart c) = some p from hp] at hrun
    simp only [hid] at hrun
    intro is_ t
    obtain ⟨hparts, hmaps, htenants⟩ := partDestroy_none u p
    rw [hid] at hparts hmaps htenants
    refine ⟨fun h => ?_, fun h h' => ?_, fun h h' => ?_, hparts, hmaps, htenants⟩
    · exact hrun.trans (congrArg _ (if_pos h))
    · exact hrun.trans (congrArg _ ((if_neg (ne_true_of_eq_false h)).trans (if_pos h')))
    · exact hrun.trans (congrArg _ ((if_neg (ne_true_of_eq_false h)).trans (if_neg (ne_true_of_eq_false h'))))
  · exact vdevCreate_tenant ht
  · intro cl ring new ok v
    have hrun := exec_partresize ha hb
    rw [State.partResize, show (s.begun c q).partOf (cmdPart c) = some p from hp] at hrun
    have hidle : p.resize.isSome = false := by rw [hr] <;> rfl
    simp only [hidle, Bool.false_eq_true, if_false] at hrun
    refine ⟨fun h => ?_, fun h hcl hring => ?_, fun h hne => ?_⟩
    · exact hrun.trans (congrArg _ (if_neg (ne_true_of_eq_false h)))
    · exact hrun.trans (congrArg _ ((if_pos h).trans (if_pos (And.intro hcl hring))))
    · exact hrun.trans (congrArg _ ((if_pos h).trans (if_neg hne)))
  · have hmoved := vdevSet_one (begun_queueAt hb) rfl hv hmask hticket hp ht
    refine ⟨_, exec_vdevset ha hb, fun hon hst => ?_, fun hoff hst => ?_⟩
    · rw [answers_tenantOf hmoved, show fieldNat c.body 6 2 = 2 ^ v from hon, Nat.div_self (Nat.two_pow_pos v)]
      exact vdevMove_on (s := u) ht hst _
    · rw [show fieldNat c.body 6 2 = 0 from hoff, Nat.zero_div] at hmoved
      rw [answers_tenantOf hmoved, answers_cores hmoved]
      exact vdevMove_off (s := u) ht hst _
  · intro sp va hsp hal hw
    exact (exec_energy ha hb).trans (congrArg _ (energyCmd_writes hsp hal hw))
  · intro sp va p hp hsp hal hw
    exact (exec_attest ha hb).trans (congrArg _ (attest_writes hp hsp hal hw))
end Sys2Proof.Machine
end

section
/-! The commands of a host as they begin (R328, R329, R331, R332, R335, R410, R414). -/

namespace Sys2Proof.Machine

/-! ### Arrivals -/

/-- An arrival changes its variable and nothing else of memory. -/
theorem arriveAt_bytes (s : State) (pa n : Nat) (rels : Nat → List (Nat × Nat × Nat)) (hm : Memory.wf s.mem) :
    s.sameBytesBut (s.arriveAt pa n rels) pa 8
      ∧ readBytes (s.arriveAt pa n rels).mem pa 8 = leBytes 8 (arriveNew (leNat (readBytes s.mem pa 8)) n) := by
  obtain ⟨hread, hrest⟩ := write_bytes s pa (leBytes 8 (arriveNew (leNat (readBytes s.mem pa 8)) n)) true
    ((rels (s.now + 1) ++ s.relsAt pa 8).dedup) hm
  rw [leBytes_length] at hread hrest
  exact ⟨hrest, hread⟩

section
variable {s : State} {c : Cmd} {q : CmdQueue}

theorem any_new {α : Type} {p : α → Prop} [DecidablePred p] {l : List α} (h : (l.all fun x => decide ¬p x) = true) :
    (l.any fun x => decide (p x)) = false := by
  rw [List.any_eq_false]
  exact fun x hx => by simpa using List.all_eq_true.mp h x hx

/-! ### LAUNCH -/

theorem exec_launch (ha : c.arriving = false) (hb : s.begins c = some q) :
    exec (.launch c) s = .next ((s.begun c q).launchStep c) := congrArg Host.Outcome.next (command_begins ha hb ..)

/-- What a launch holds once its record at `a` has been read. -/
def State.launchBegun (s : State) (sp : Space) (a : Word) : Begun :=
  let bs := s.peek sp a.toNat 128
  ⟨bs, if launchRecBad bs then pagesOf a 128 else (launchRecOf bs).pages a⟩

/-- A launch whose record has not been read yet waits for its page, ends, or has it read. -/
theorem launchStep_unread {k : CmdQueue} (hk : s.queueAt (cmdHome c) = some k) (hbegun : k.begun = none)
    (hnew : (s.launches.any fun l => decide (l.cmd = c)) = false) {a : Word} (ha : a = BitVec.ofNat 64 (fieldNat c.body 0 8)) :
    (∀ va, s.needs k.space a 128 0 0 k.began none = .wait va → s.launchStep c = s.askModule k.space va)
    ∧ (∀ d compl t, s.needs k.space a 128 0 0 k.began none = .refuse d compl t → s.launchStep c = t.complete k.space compl c d)
    ∧ (∀ x, s.needs k.space a 128 0 0 k.began none = .ok x → s.launchStep c
      = (s.noteBegun c (s.launchBegun k.space a)).launchFrom c { k with begun := some (s.launchBegun k.space a) } a
        (s.peek k.space a.toNat 128)) := by
  subst ha
  rw [State.launchStep, hk]
  simp only [hnew, hbegun, Bool.false_eq_true, if_false]
  refine ⟨fun va h => ?_, fun d compl t h => ?_, fun x h => ?_⟩ <;> (rw [h] <;> rfl)

/-- The start of a launch waits, ends with a record of its refusal, or registers the launch and its roots. -/
theorem launchFrom_start (c : Cmd) (k : CmdQueue) (a : Word) (bs : List Byte) :
    (∀ va, s.startLaunch k.space k a bs k.began = .wait va → s.launchFrom c k a bs = s.askModule k.space va)
    ∧ (∀ d compl t, s.startLaunch k.space k a bs k.began = .refuse d compl t →
      s.launchFrom c k a bs = (t.freeLineage k.space.part d.launch).complete k.space compl c d)
    ∧ (∀ r id t, s.startLaunch k.space k a bs k.began = .ok (r, id, t) → ∃ l : Launch, l.space = k.space ∧ l.queue = k.id ∧ l.id = id
      ∧ l.cmd = c ∧ l.record = a ∧ l.compl = r.compl ∧ l.created = r.nroot ∧ l.finished = 0 ∧ l.ending = none ∧ l.start = k.began
      ∧ s.launchFrom c k a bs = ({ t with launches := t.launches ++ [l] } : State).registerRoots k.space r id) := by
  refine ⟨fun va h => ?_, fun d compl t h => ?_, fun r id t h => ?_⟩
  · rw [State.launchFrom]
    simp only [h]
  · rw [State.launchFrom]
    simp only [h]
  · rw [State.launchFrom]
    simp only [h]
    exact ⟨_, rfl, rfl, rfl, rfl, rfl, rfl, rfl, rfl, rfl, rfl, rfl⟩

/-! ### COPY, WAITEVENT and SIGNALEVENT -/

theorem exec_copy (ha : c.arriving = false) (hb : s.begins c = some q) :
    exec (.copy c) s = .next ((s.begun c q).copyCmd c) := congrArg Host.Outcome.next (command_begins ha hb ..)

theorem exec_waitevent (ha : c.arriving = false) (hb : s.begins c = some q) :
    exec (.waitevent c) s = .next ((s.begun c q).waitCmd c) := congrArg Host.Outcome.next (command_begins ha hb ..)

theorem exec_signalevent (ha : c.arriving = false) (hb : s.begins c = some q) :
    exec (.signalevent c) s = .next ((s.begun c q).signalCmd c) := congrArg Host.Outcome.next (command_begins ha hb ..)

theorem spaceOf_queue {k : CmdQueue} (hk : s.queueAt (cmdHome c) = some k) : s.spaceOf c = k.space := by
  rw [State.spaceOf, hk]

/-- A copy that has no job yet is refused by its descriptor, or becomes one job. -/
theorem copyCmd_new (hnew : (s.jobs.any fun j => decide (j.cmd = some c)) = false) :
    (∀ t, descCheck c.body = some t → s.copyCmd c = s.finish c 7 (Trap.code t).toNat [])
    ∧ (descCheck c.body = none → ∃ j : Job, j.cmd = some c ∧ j.moved = 0 ∧ j.die = 0
      ∧ j.copy = { copyOf c.body with sys := true, scope := 4#3 } ∧ s.copyCmd c = { s with jobs := s.jobs ++ [j] }) := by
  rw [State.copyCmd]
  simp only [hnew, Bool.false_eq_true, if_false]
  refine ⟨fun t ht => ?_, fun hnone => ?_⟩
  · rw [ht]
  · rw [hnone]
    exact ⟨_, rfl, rfl, rfl, rfl, rfl⟩

/-! ### MAP and UNMAP -/

theorem exec_map (ha : c.arriving = false) (hb : s.begins c = some q) :
    exec (.map c) s = .next ((s.begun c q).mapCmd c) := congrArg Host.Outcome.next (command_begins ha hb ..)

theorem exec_unmap (ha : c.arriving = false) (hb : s.begins c = some q) :
    exec (.unmap c) s = .next ((s.begun c q).unmapCmd c) := congrArg Host.Outcome.next (command_begins ha hb ..)

end

section
variable {s : State}

theorem pickAny_maps (s : State) (n : Nat) : (s.pickAny n).2.maps = s.maps := by
  rw [State.pickAny]
  split <;> rfl

theorem freeFrame_maps (s : State) (base top size : Nat) : (s.freeFrame base top size).2.maps = s.maps := by
  rw [State.freeFrame]
  simp only
  split <;> exact pickAny_maps ..

/-- A new frame leaves the mappings. -/
theorem newFrame_maps {part : Nat} {lpddr : Bool} {size pa : Nat} {t : State} (h : s.newFrame part lpddr size = some (pa, t)) :
    t.maps = s.maps := by
  rw [State.newFrame] at h
  cases hp : s.parts.find? fun p => p.id == part with
  | none => rw [hp] at h; exact nomatch h
  | some p =>
    rw [hp] at h
    simp only at h
    split at h
    · exact nomatch h
    · generalize hr : (if lpddr then s.freeFrame lpddrBase lpddrEnd size else s.freeFrame 0 hbmSize size) = r at h
      have hmaps : r.2.maps = s.maps := by
        rw [← hr]
        split <;> exact freeFrame_maps ..
      obtain ⟨_ | pa, u⟩ := r
      · exact nomatch h
      · obtain ⟨-, rfl⟩ := Prod.mk.inj (Option.some.inj h)
        exact hmaps

theorem takeFrame_maps {r : MapReq} {p : Part} {pa : Nat} {t : State} (h : s.takeFrame r p = some (pa, t)) : t.maps = s.maps := by
  rw [State.takeFrame] at h
  split at h
  · have hmaps := freeFrame_maps s (r.half p) (r.half p + Config.syncHalf) r.size
    generalize s.freeFrame (r.half p) (r.half p + Config.syncHalf) r.size = x at h hmaps
    obtain ⟨_ | pa, u⟩ := x
    · exact nomatch h
    · obtain ⟨-, rfl⟩ := Prod.mk.inj (Option.some.inj h)
      exact hmaps
  · exact newFrame_maps h

theorem zeroFrames_maps (s : State) (l : List Nat) : (l.foldl (fun s f => s.zeroFrame f 65536) s).maps = s.maps :=
  foldl_view State.maps (f := fun s f => s.zeroFrame f 65536) (fun _ _ => rfl) l s

/-- What a frame that is named may take is frames, zeroed. -/
theorem nameFrame_maps {r : MapReq} {part pa : Nat} {t : State} (h : s.nameFrame r part pa = some t) : t.maps = s.maps := by
  rw [State.nameFrame] at h
  split at h
  · rw [← Option.some.inj h]
  · split at h
    · exact nomatch h
    · split at h
      · exact nomatch h
      · split at h
        · split at h
          · exact nomatch h
          · rw [← Option.some.inj h]
            exact zeroFrames_maps ..
        · split at h
          · rw [← Option.some.inj h]
          · exact nomatch h

/-- The mapping of a page of a request has the page's place. -/
theorem page_place (r : MapReq) (sp : Space) (pa i : Nat) (back : Backing) :
    ((r.page sp pa i back).space, (r.page sp pa i back).va, (r.page sp pa i back).size) = (sp, r.va + i * r.size, r.size) := rfl

/-- A page that is mapped is one more mapping. -/
theorem mapPage_maps {r : MapReq} {sp : Space} {i : Nat} {t : State} (h : s.mapPage r sp i = some t) :
    ∃ m, t.maps = s.maps ++ [m] ∧ (m.space, m.va, m.size) = (sp, r.va + i * r.size, r.size) := by
  rw [State.mapPage] at h
  cases hp : s.partOf sp.part with
  | none => rw [hp] at h; exact nomatch h
  | some p =>
    rw [hp] at h
    simp only at h
    split at h
    · split at h
      · cases hf : s.takeFrame r p with
        | none => rw [hf] at h; exact nomatch h
        | some x =>
          rw [hf] at h
          rw [← Option.some.inj h]
          exact ⟨_, congrArg (· ++ _) (takeFrame_maps hf), page_place ..⟩
      · rw [← Option.some.inj h]
        exact ⟨_, rfl, page_place ..⟩
    · cases hf : s.nameFrame r sp.part (r.pa + i * r.size) with
      | none => rw [hf] at h; exact nomatch h
      | some u =>
        rw [hf] at h
        rw [← Option.some.inj h]
        exact ⟨_, congrArg (· ++ _) (nameFrame_maps hf), page_place ..⟩

theorem mapPages_maps {r : MapReq} {sp : Space} {n : Nat} {t : State} (h : s.mapPages r sp n = some t) :
    ∃ ms, t.maps = s.maps ++ ms
      ∧ ms.map (fun m => (m.space, m.va, m.size)) = (List.range n).map fun i => (sp, r.va + i * r.size, r.size) := by
  induction n generalizing t with
  | zero =>
    rw [← Option.some.inj h]
    exact ⟨[], (List.append_nil _).symm, rfl⟩
  | succ n ih =>
    rw [State.mapPages] at h
    cases hn : s.mapPages r sp n with
    | none => rw [hn] at h; exact nomatch h
    | some u =>
      rw [hn] at h
      obtain ⟨ms, hu, hms⟩ := ih hn
      obtain ⟨m, ht, hm⟩ := mapPage_maps h
      refine ⟨ms ++ [m], by rw [ht, hu, List.append_assoc], ?_⟩
      rw [List.map_append, hms, List.range_succ, List.map_append, List.map_singleton, List.map_singleton, hm]

/-- MAP maps every page of its request, or none. -/
theorem mapCmd_maps {c : Cmd} {sp : Space} {r : MapReq} (hsp : s.spaceOf c = sp) (hr : mapReq c.body = r) :
    (s.mapFits r sp = false → s.mapCmd c = s.finish c 5 0 [])
    ∧ (s.mapFits r sp = true → s.mapPages r sp (r.len / r.size) = none → s.mapCmd c = s.finish c 5 0 [])
    ∧ ∀ t, s.mapFits r sp = true → s.mapPages r sp (r.len / r.size) = some t → s.mapCmd c = t.finish c 0 0 [] := by
  have hrun : s.mapCmd c = Option.elim (if s.mapFits r sp then s.mapPages r sp (r.len / r.size) else none) (s.finish c 5 0 [])
      fun t => t.finish c 0 0 [] := by
    rw [← hsp, ← hr]
    unfold State.mapCmd
    extract_lets r sp
    generalize (if s.mapFits r sp then s.mapPages r sp (r.len / r.size) else none) = x
    cases x <;> rfl
  refine ⟨fun h => hrun.trans ?_, fun h h' => hrun.trans ?_, fun t h h' => hrun.trans ?_⟩
  · rw [h, if_neg Bool.false_ne_true, Option.elim_none]
  · rw [h, if_pos rfl, h', Option.elim_none]
  · rw [h, if_pos rfl, h', Option.elim_some]

/-- UNMAP as it begins: there is nothing to unmap, or it is refused, or a shootdown of each page begins. -/
theorem unmapCmd_pages {c : Cmd} {sp : Space} {k : CmdQueue} (hsp : s.spaceOf c = sp) (hk : s.queueAt (cmdHome c) = some k)
    (hbegun : k.begun = none) :
    let va := fieldNat c.body 0 8
    let n := fieldNat c.body 8 8
    let hit := s.maps.filter fun m => decide (m.space = sp) && meets va n m.va m.size
    (hit = [] → s.unmapCmd c = s.finish c 0 0 [])
    ∧ ((∃ m ∈ hit, s.pageHeld m false = true ∨ m.va < va ∨ va + n < m.va + m.size) → s.unmapCmd c = s.finish c 5 0 [])
    ∧ (hit ≠ [] → (∀ m ∈ hit, va ≤ m.va ∧ m.va + m.size ≤ va + n ∧ s.pageHeld m false = false) →
      s.unmapCmd c = hit.foldl (fun s m => s.shootdown sp m.va none) (s.noteBegun c ⟨[], []⟩)) := by
  intro va n hit
  rw [State.unmapCmd, hsp, hk]
  simp only [hbegun, Option.isSome_none, Bool.not_false, Bool.true_and]
  refine ⟨fun h => if_pos h, fun h => ?_, fun hne h => ?_⟩
  · obtain ⟨m, hm, hbad⟩ := h
    rw [if_neg (List.ne_nil_of_mem hm), if_pos]
    refine List.any_eq_true.mpr ⟨m, hm, ?_⟩
    rcases hbad with hheld | hlow | hhigh
    · rw [hheld, Bool.or_true]
    · rw [decide_eq_false (Nat.not_le.mpr hlow)] <;> rfl
    · rw [decide_eq_false (Nat.not_le.mpr hhigh), Bool.and_false] <;> rfl
  · rw [if_neg hne, if_neg]
    rw [Bool.not_eq_true, List.any_eq_false]
    intro m hm
    obtain ⟨hlow, hhigh, hheld⟩ := h m hm
    rw [hheld, decide_eq_true hlow, decide_eq_true hhigh]
    decide

end

/-- Settles O58: each command by what it makes of the state in which it begins. -/
theorem hostCommands : Obligations.HostCommands := by
  unfold Obligations.HostCommands
  intro s c q k hc ha hb u f hk
  have hqueue : u.queueAt (cmdHome c) = some (q.beginning (tickOf s.time) c) := begun_queueAt hb
  have hkq : k = q.beginning (tickOf s.time) c := Option.some.inj (hk.symm.trans hqueue)
  have hspace : u.spaceOf c = q.space := (spaceOf_queue hqueue).trans rfl
  subst hkq
  refine ⟨rfl, fun hnew => ?_, fun hnew => ?_, fun pa hpa => ?_, fun x hx => ?_, fun x hx => ?_, fun pa hpa => ?_, ?_, ?_⟩
  · intro a reads bs b v start
    obtain ⟨hread, hno, hgo⟩ := launchStep_unread hqueue rfl (any_new hnew) rfl
    obtain ⟨hwait, hrefuse, hstart⟩ := launchFrom_start (s := v) c { q.beginning (tickOf s.time) c with begun := some b } a bs
    refine ⟨fun va h => ?_, fun d compl t h => ?_, fun x h => ⟨fun va h' => ?_, fun d compl t h' => ?_, fun r id t h' => ?_⟩⟩
    · exact (exec_launch ha hb).trans (congrArg _ (hread va h))
    · exact (exec_launch ha hb).trans (congrArg _ (hno d compl t h))
    · exact (exec_launch ha hb).trans (congrArg _ ((hgo x h).trans (hwait va h')))
    · exact (exec_launch ha hb).trans (congrArg _ ((hgo x h).trans (hrefuse d compl t h')))
    · obtain ⟨l, hsp, hq, hid, hcmd, hrec, hcompl, hcreated, hfin, hend, hst, hv⟩ := hstart r id t h'
      exact ⟨l, hsp, hq, hid, hcmd, hrec, hcompl, hcreated, hfin, hend, hst,
        (exec_launch ha hb).trans (congrArg _ ((hgo x h).trans hv))⟩
  · obtain ⟨hbad, hgood⟩ := copyCmd_new (s := u) (any_new hnew)
    refine ⟨fun t ht => (exec_copy ha hb).trans (congrArg _ (hbad t ht)), fun hnone => ?_⟩
    obtain ⟨j, hcmd, hmoved, hdie, hcopy, hu⟩ := hgood hnone
    exact ⟨j, hcmd, hmoved, hdie, hcopy, (exec_copy ha hb).trans (congrArg _ hu)⟩
  · refine (exec_waitevent ha hb).trans (congrArg _ ?_)
    rw [State.waitCmd, hspace, hpa]
    rfl
  · refine (exec_waitevent ha hb).trans (congrArg _ ?_)
    rw [State.waitCmd, hspace, hx]
  · refine (exec_signalevent ha hb).trans (congrArg _ ?_)
    rw [State.signalCmd, hspace, hx]
  · refine ⟨_, (exec_signalevent ha hb).trans (congrArg _ ?_), arriveAt_bytes u pa _ (fun w => [(64, w, 4)]) hc.1⟩
    rw [State.signalCmd, hspace, hpa]
  · obtain ⟨hno, hnone, hsome⟩ := mapCmd_maps hspace rfl
    exact ⟨fun h => (exec_map ha hb).trans (congrArg _ (hno h)), fun h h' => (exec_map ha hb).trans (congrArg _ (hnone h h')),
      fun t h h' => ⟨(exec_map ha hb).trans (congrArg _ (hsome t h h')), mapPages_maps (s := u) h'⟩⟩
  · obtain ⟨hnone, hbad, hgood⟩ := unmapCmd_pages hspace hqueue rfl
    exact ⟨fun h => (exec_unmap ha hb).trans (congrArg _ (hnone h)), fun h => (exec_unmap ha hb).trans (congrArg _ (hbad h)),
      fun h h' => (exec_unmap ha hb).trans (congrArg _ (hgood h h'))⟩

end Sys2Proof.Machine
end

section
/-! How a task leaves its core: drains, commits, barriers, gangs and stops (R130 to R135, R215, R217, R221, R361 to R363, R372). -/

namespace Sys2Proof.Machine

section
variable {s : State}

/-! ### A task of size 1 -/

theorem alone_members (h : s.alone) : s.members = [s.core] := members_alone s h.1

/-- What is done to every member of a task of size 1 is done to its core. -/
theorem onMembers_alone (h : s.alone) (f : Core → Core) : s.onMembers f = s.onCore f := by
  have hparked : s.parked.map (fun c => if [s.core.id.toNat].contains c.id.toNat then f c else c) = s.parked := by
    refine (List.map_congr_left (g := id) fun c hc => ?_).trans (List.map_id _)
    rw [if_neg, id]
    rw [List.contains_cons, List.contains_nil, Bool.or_false, beq_iff_eq]
    exact fun he => h.2 c hc (BitVec.eq_of_toNat_eq he)
  simp only [State.onMembers, alone_members h, List.map_singleton, State.mapCores, hparked]
  simp only [List.contains_cons, beq_self_eq_true, Bool.true_or, if_true]
  rfl

theorem onCore_same {f : Core → Core} (h : f s.core = s.core) : s.onCore f = s := by
  rw [State.onCore, h]

theorem alone_onCore (h : s.alone) {f : Core → Core} (hid : (f s.core).id = s.core.id) (hgang : (f s.core).owner.gang = s.core.owner.gang) :
    (s.onCore f).alone :=
  ⟨hgang.trans h.1, fun c hc he => h.2 c hc (he.trans hid)⟩

/-! ### Drains and commits -/

/-- What a drained core of a task of size 1 does. -/
theorem drainEnd_alone (h : s.alone) (hq : s.core.quiet = true) (hm : s.core.mid = false) :
    (s.core.phase = .drainIdle → s.drainEnd = s.onCore fun c => { c with phase := .idle c.time })
    ∧ (s.core.phase = .drainYield → s.leaveReady 1 = true → s.drainEnd = s.suspend 1 0 false)
    ∧ (s.core.phase = .drainCommit → s.commitReady = true → s.drainEnd = s.beginCommit .drainCommit)
    ∧ (s.core.phase = .drainEnd → s.core.ctx.holdsHandle = true → s.drainEnd = s.onCore fun c => c.raiseAt .handleLeak 0 c.commitPc)
    ∧ (s.core.phase = .drainEnd → s.core.ctx.holdsHandle = false → s.core.tilesLeft s.core.owner.key = false →
      s.copiesLeft s.core.owner.key true = false → s.commitReady = true → s.drainEnd = s.beginCommit .drainEnd) := by
  have hgang := h.1
  refine ⟨fun hp => ?_, fun hp hr => ?_, fun hp hr => ?_, fun hp hh => ?_, fun hp hh ht hcp hr => ?_⟩
  · simp only [State.drainEnd, hq, hm, hp, Bool.not_true, Bool.or_self, Bool.false_eq_true, if_false]
  · simp only [State.drainEnd, State.yieldNow, hq, hm, hp, hgang, hr, Bool.not_true, Bool.or_self, Bool.false_eq_true, if_false, if_true]
  · simp only [State.drainEnd, hq, hm, hp, hgang, hr, Bool.not_true, Bool.or_self, Bool.false_eq_true, if_false, if_true]
  · simp only [State.drainEnd, hq, hm, hp, hh, Bool.not_true, Bool.or_self, Bool.false_eq_true, if_false, if_true]
  · have hready : s.endReady = true := by
      simp only [State.endReady, alone_members h, List.all_cons, List.all_nil, ht, hcp, hr, Bool.not_false, Bool.and_self]
    simp only [State.drainEnd, hq, hm, hp, hh, hgang, hready, Bool.not_true, Bool.or_self, Bool.false_eq_true, if_false, if_true]

/-- A commit that is complete ends the task, or lets it go on to suspend. -/
theorem commitComplete_alone {m : Commit} (h : s.alone) (hm : s.core.commit = some m) (hl : m.lines = []) (he : m.entry = none)
    (ha : m.auto = false) :
    (s.core.after = .drainEnd → s.commitComplete = (s.onCore fun c => { c with commit := none }).endTask)
    ∧ (s.core.after = .drainCommit → s.commitComplete = s.onCore fun c => { c with commit := none, phase := .drainYield, after := .ready }) := by
  have hrun : s.commitComplete = match (s.onCore fun c => { c with commit := none }).core.after with
      | .drainEnd => (s.onCore fun c => { c with commit := none }).endTask
      | _ => (s.onCore fun c => { c with commit := none }).onMembers fun c =>
        if c.owner.gang then (if c.after = .drainCommit then { c with after := .drainYield } else c)
        else { c with phase := .drainYield, after := .ready } := by
    rw [State.commitComplete, hm]
    simp only [hl, he, ha, Option.isSome_none, Bool.or_self, Bool.false_eq_true, if_false, ne_eq, not_true] <;> rfl
  refine ⟨fun hafter => ?_, fun hafter => ?_⟩
  · rw [hrun, show (s.onCore fun c => { c with commit := none }).core.after = .drainEnd from hafter]
  · rw [hrun, show (s.onCore fun c => { c with commit := none }).core.after = .drainCommit from hafter]
    refine (onMembers_alone (alone_onCore h rfl rfl) _).trans ?_
    exact congrArg (fun k => ({ s with core := k } : State)) (if_neg (ne_true_of_eq_false h.1))

/-! ### Gangs and stops -/

/-- A gang whose members all stand at their end commits. -/
theorem gangSuspend_ends (hg : s.core.owner.gang = true) (hn : s.members.length = 4) (hend : ∀ m ∈ s.members, m.atEnd = true)
    (hbar : ∀ m ∈ s.members, m.atBarrier = false) (ht : ∀ m ∈ s.members, m.tilesLeft m.owner.key = false)
    (hcp : s.copiesLeft s.core.owner.key true = false) (hr : s.commitReady = true) : s.gangSuspend = s.beginCommit .drainEnd := by
  have hends : ∀ m ∈ s.members, m.waitsGang = true ∧ m.after = .drainEnd := fun m hm => by
    simpa [Core.atEnd] using hend m hm
  have hall : s.members.all (fun c => c.waitsGang || c.atBarrier) = true :=
    List.all_eq_true.mpr fun m hm => by rw [(hends m hm).1, Bool.true_or]
  have hnone : s.members.find? Core.atBarrier = none := List.find?_eq_none.mpr fun m hm => by rw [hbar m hm]; decide
  obtain ⟨e, he⟩ : ∃ e, s.members.find? Core.atEnd = some e := by
    refine Option.isSome_iff_exists.mp (List.find?_isSome.mpr ?_)
    cases hl : s.members with
    | nil => rw [hl] at hn; exact nomatch hn
    | cons m ms => exact ⟨m, List.mem_cons_self, hend m (hl ▸ List.mem_cons_self)⟩
  have hno : (s.members.any fun c => c.after == .drainYield || c.after == .drainCommit) = false :=
    List.any_eq_false.mpr fun m hm => by rw [(hends m hm).2]; decide
  have hendall : s.members.all Core.atEnd = true := List.all_eq_true.mpr hend
  have hready : s.endReady = true := by
    simp only [State.endReady, hcp, hr, Bool.not_false, Bool.and_true]
    exact List.all_eq_true.mpr fun m hm => by rw [ht m hm]; rfl
  simp only [State.gangSuspend, hg, hn, hall, hnone, he, hno, hendall, hready, Bool.not_true, Bool.or_false, ne_eq,
    not_true, decide_false, Bool.false_eq_true, if_false, if_true]

/-- A soft stop that is due suspends the task. -/
theorem softStop_alone (h : s.alone) (hd : s.softDue = true) (hr : s.leaveReady 1 = true) : s.softStop = s.suspend 1 0x04 false := by
  have hgang := h.1
  simp only [State.softStop, hd, or_true, hgang, hr, Bool.false_eq_true, if_false, if_true]

theorem stopped_trap {c : Core} (h : c.stopped = true) : c.trap = none := by
  simp only [Core.stopped, Core.settled, Bool.and_eq_true] at h
  exact Option.isNone_iff_eq_none.mp h.1.1.2

/-- A hard stop of a core that stands at a boundary suspends the task. -/
theorem hardStop_alone (h : s.alone) (hl : s.core.leave = some .hard) (hstop : s.core.stopped = true) (hp : s.core.phase ≠ .committing)
    (hr : s.leaveReady 2 = true) : s.hardStop = s.suspend 2 (if s.onPageIn then 0x02 else 0x04) false := by
  have hmigr : s.onCore Core.migrates = s := onCore_same (by rw [Core.migrates, stopped_trap hstop])
  have hstops : s.stopsHere s.core = true := by rw [State.stopsHere, hstop, Bool.true_or]
  have hgang : s.onMembers (fun c => if c.leave.isNone || c.leave == some .soft then { c with leave := some .gang } else c) = s :=
    (onMembers_alone h _).trans (onCore_same (by rw [hl]; rfl))
  have hphase : (s.core.phase == .committing) = false := beq_eq_false_iff_ne.mpr hp
  have hstatus : s.hardStatus = if s.onPageIn then 0x02 else 0x04 := by
    simp only [State.hardStatus, alone_members h, List.filterMap_cons, List.filterMap_nil, hl, List.any_cons, List.any_nil, Bool.or_false,
      focus_self s rfl]
    rfl
  have hplain : [Leave.hard].contains .migrate = false := by decide
  simp only [State.hardStop, hmigr, hl, hstops, hgang, alone_members h, List.all_cons, List.all_nil, List.find?_cons, List.find?_nil, hphase,
    hstatus, List.filterMap_cons, List.filterMap_nil, hplain, Bool.and_self, Bool.not_true, Bool.false_and, Bool.false_eq_true, if_false]
  exact if_pos hr

/-! ### Barriers -/

/-- No scratchpad write is among the results. -/
def noSpm (rs : List Result) : Prop := ∀ r ∈ rs, ∀ cells, r.wr ≠ .spm cells

def Core.withResults (c : Core) (rs : List Result) : Core := { c with ctx := { c.ctx with results := rs } }

/-- The core differs in its results alone, among which no scratchpad write is left; mappings and the other cores are as they were. -/
def State.flushed (s t : State) : Prop :=
  t.parked = s.parked ∧ t.maps = s.maps
    ∧ ∃ rs, t.core = s.core.withResults rs ∧ noSpm rs

theorem seeSome_around (gs : List Nat) : (s.seeSome gs).parked = s.parked ∧ (s.seeSome gs).maps = s.maps := by
  have hv := foldl_view (fun t : State => (t.parked, t.maps))
    (f := fun (s : State) g => let (k, s) := s.choose 2; if k = 0 then s.settleSpm fun a => a / 16 == g else s) (fun t g => by
      have hc := choose_same t 2
      rw [State.sameButChoices] at hc
      generalize t.choose 2 = x at hc
      simp only
      rw [hc]
      split <;> rfl) gs s
  exact Prod.mk.inj hv

theorem flagsLeft_noSpm (rs : List Result) : noSpm (rs.filterMap Result.flagsLeft) := by
  intro r hr cells hspm
  obtain ⟨x, -, hx⟩ := List.mem_filterMap.mp hr
  rw [Result.flagsLeft] at hx
  split at hx
  · rw [← Option.some.inj hx] at hspm
    exact nomatch hspm
  · exact nomatch hx
  · next hno _ =>
    rw [Option.some.inj hx] at hno
    exact hno cells hspm

theorem writeSpm_flushed {t : State} (h : s.flushed t) (cells : List (Nat × Byte)) : s.flushed (t.writeSpm cells) := by
  obtain ⟨hparked, hmaps, rs, hcore, hno⟩ := h
  obtain ⟨hp, hm⟩ := seeSome_around (s := t) (t.lateGranules.filter fun g => cells.any fun c => c.1 / 16 == g)
  exact ⟨hp.trans hparked, hm.trans hmaps, rs, (seeSome_core t _).trans hcore, hno⟩

theorem added_flushed {t : State} (h : s.flushed t) (q : Result) (hq : ∀ cells, q.wr ≠ .spm cells) :
    s.flushed (t.onCore fun c => c.onCtx fun z => { z with results := z.results ++ [q] }) := by
  obtain ⟨hparked, hmaps, rs, hcore, hno⟩ := h
  refine ⟨hparked, hmaps, rs ++ [q], ?_, fun r hr => ?_⟩
  · rw [State.onCore, hcore]
    rfl
  · rcases List.mem_append.mp hr with hr | hr
    · exact hno r hr
    · exact List.mem_singleton.mp hr ▸ hq

theorem localAtom_flushed {t : State} (h : s.flushed t) (r : Result) (op : AtomOp) (a size : Nat) (x y : Word) (rm : RMode) (ftz : Bool)
    (d : BitVec 6) : s.flushed (t.localAtom r op a size x y rm ftz d) := by
  obtain ⟨hparked, hmaps, rs, hcore, hno⟩ := h
  obtain ⟨hp, hm⟩ := seeSome_around (s := t) (t.lateGranules.filter fun g => g == a / 16)
  exact added_flushed ⟨hp.trans hparked, hm.trans hmaps, rs, (seeSome_core t _).trans hcore, hno⟩ _ fun _ => nofun

/-- A new due cycle of a result leaves what it writes. -/
theorem later_flushed {t : State} (h : s.flushed t) {f : List Result → List Result}
    (hf : ∀ rs : List Result, ∀ r ∈ f rs, ∃ q ∈ rs, r.wr = q.wr) : s.flushed (t.onCore fun c => c.onCtx fun z => { z with results := f z.results }) := by
  obtain ⟨hparked, hmaps, rs, hcore, hno⟩ := h
  refine ⟨hparked, hmaps, f rs, ?_, fun r hr cells => ?_⟩
  · rw [State.onCore, hcore]
    rfl
  · obtain ⟨q, hq, hwr⟩ := hf rs r hr
    exact hwr ▸ hno q hq cells

theorem mem_insertResult {r x : Result} {l : List Result} (h : r ∈ insertResult x l) : r = x ∨ r ∈ l := by
  induction l with
  | nil => exact List.mem_cons.mp h
  | cons y l ih =>
    rw [insertResult] at h
    split at h
    · exact List.mem_cons.mp h
    · rcases List.mem_cons.mp h with h | h
      · exact .inr (h ▸ List.mem_cons_self)
      · exact (ih h).imp_right fun h => List.mem_cons_of_mem _ h

theorem mem_sortResults {r : Result} {l : List Result} (h : r ∈ sortResults l) : r ∈ l := by
  induction l with
  | nil => exact h
  | cons x l ih =>
    rcases mem_insertResult h with h | h
    · exact h ▸ List.mem_cons_self
    · exact List.mem_cons_of_mem _ (ih h)

/-- A flush performs scratchpad writes and local atomics, which leave the rest of the core. -/
theorem flushWrites_flushed (s : State) : s.flushed s.flushWrites := by
  rw [State.flushWrites]
  refine List.foldlRecOn _ _ ⟨rfl, rfl, _, rfl, flagsLeft_noSpm _⟩ fun t ht r hr => ?_
  obtain ⟨k, -, hr⟩ := List.mem_flatMap.mp hr
  have hw := (List.mem_filter.mp (mem_sortResults (List.mem_filter.mp hr).1)).2
  split at hw
  · next cells hwr =>
    have hrun : t.apply r = t.writeSpm cells := by rw [State.apply, hwr]
    simp only [hwr, hrun]
    exact writeSpm_flushed ht cells
  · next hwr =>
    simp only [hwr]
    refine later_flushed (f := fun rs => rs.zipIdx.map fun p => if p.2 + 1 = rs.length then { p.1 with rem := r.rem + 4 } else p.1)
      (localAtom_flushed ht ..) fun rs q hq => ?_
    obtain ⟨⟨x, i⟩, hx, rfl⟩ := List.mem_map.mp hq
    exact ⟨x, List.mem_of_getElem? (List.mem_zipIdx_iff_getElem?.mp hx), by simp only; split <;> rfl⟩
  · exact nomatch hw

theorem physOf_maps {t : State} (h : t.maps = s.maps) (sp : Space) (va : Nat) : t.physOf sp va = s.physOf sp va := by
  rw [State.physOf, State.mappingOf, h] <;> rfl

/-- A core at its barrier goes on, in the clock that it stands in. -/
def Core.passes (c : Core) : Core := { (c.reach c.time).thaw with phase := .ready, after := .ready }

theorem reach_time (c : Core) : c.reach c.time = c := by
  rw [Core.reach, Nat.sub_self, Nat.zero_div, Core.catchUp, Nat.max_self]

theorem thaw_kept (c : Core) : c.thaw.freeze = 0#4 ∧ c.thaw.time = c.time ∧ c.thaw.ctx = c.ctx ∧ c.thaw.task = c.task
    ∧ c.thaw.id = c.id := by
  rw [Core.thaw]
  split <;> exact ⟨rfl, rfl, rfl, rfl, rfl⟩

theorem passes_kept (c : Core) : c.passes.freeze = 0#4 ∧ c.passes.time = c.time ∧ c.passes.ctx = c.ctx ∧ c.passes.task = c.task
    ∧ c.passes.id = c.id := by
  rw [Core.passes, reach_time]
  exact thaw_kept c

/-- A fetch marks its core, where the page of the bundle due has a frame. -/
theorem fetchIn_fetched (s : State) :
    s.fetchIn.core = { s.core with fetched := (s.physOf s.core.space (addrOf s.core.ctx.pc).toNat).isSome || s.core.fetched } := by
  cases hp : s.physOf s.core.space (addrOf s.core.ctx.pc).toNat with
  | none => rw [State.fetchIn, hp] <;> rfl
  | some pa => exact fetchIn_core hp

/-- The barrier of a task of size 1. -/
theorem barrierComplete_alone (h : s.alone) (hp : s.core.phase = .barrier) :
    s.barrierComplete = (s.flushWrites.onCore fun c => c.passes).fetchIn := by
  obtain ⟨hparked, -, rs, hcore, -⟩ := flushWrites_flushed s
  have hid : s.flushWrites.core.id = s.core.id := by rw [hcore] <;> rfl
  have halone : s.flushWrites.alone := by
    refine ⟨by rw [hcore]; exact h.1, fun c hc => ?_⟩
    rw [hid]
    exact h.2 c (hparked ▸ hc)
  have hbar : s.core.atBarrier = true := beq_iff_eq.mpr hp
  have htime : max 0 s.core.time = s.flushWrites.core.time := by rw [hcore, Nat.zero_max] <;> rfl
  have hpid : (s.flushWrites.onCore fun c => c.passes).core.id = s.core.id := (passes_kept s.flushWrites.core).2.2.2.2.trans hid
  have hfid : (s.flushWrites.onCore fun c => c.passes).fetchIn.core.id = s.core.id := by
    rw [fetchIn_fetched]
    exact hpid
  rw [State.barrierComplete]
  simp only [alone_members h, List.all_cons, List.all_nil, List.foldl_cons, List.foldl_nil, hbar, h.1, Bool.and_self, Bool.not_true,
    Bool.false_and, Bool.or_self, Bool.false_eq_true, if_false, focus_self s rfl, focus_self _ (congrArg BitVec.toNat hid), htime,
    onMembers_alone halone]
  rw [show (s.flushWrites.onCore fun c => { (c.reach s.flushWrites.core.time).thaw with phase := .ready, after := .ready })
    = s.flushWrites.onCore fun c => c.passes from rfl, focus_self _ (congrArg BitVec.toNat hpid), focus_self _ (congrArg BitVec.toNat hfid)]

/-- What the core of a task of size 1 is once its barrier is complete. -/
theorem barrierComplete_core (h : s.alone) (hp : s.core.phase = .barrier) {t : State} (ht : s.barrierComplete = t) :
    t.core.phase = .ready ∧ t.core.after = .ready ∧ t.core.freeze = 0#4 ∧ t.core.time = s.core.time
      ∧ ((s.physOf s.core.space (addrOf s.core.ctx.pc).toNat).isSome = true → t.core.fetched = true)
      ∧ noSpm t.core.ctx.results := by
  obtain ⟨-, hmaps, rs, hcore, hno⟩ := flushWrites_flushed s
  obtain ⟨hfreeze, htime, hctx, htask, -⟩ := passes_kept s.flushWrites.core
  have hspace : s.flushWrites.core.passes.space = s.core.space := by
    rw [Core.space, htask, hcore] <;> rfl
  have hpc : s.flushWrites.core.passes.ctx.pc = s.core.ctx.pc := by
    rw [hctx, hcore] <;> rfl
  have htcore := fetchIn_fetched (s.flushWrites.onCore fun c => c.passes)
  rw [← barrierComplete_alone h hp, ht] at htcore
  rw [htcore]
  refine ⟨rfl, rfl, hfreeze, htime.trans (by rw [hcore] <;> rfl), fun hphys => ?_, ?_⟩
  · have hsome : ((s.flushWrites.onCore fun c => c.passes).physOf s.flushWrites.core.passes.space
        (addrOf s.flushWrites.core.passes.ctx.pc).toNat).isSome = true := by
      rw [physOf_maps (s := s) (t := s.flushWrites.onCore fun c => c.passes) hmaps, hspace, hpc, hphys]
    exact Bool.or_eq_true_iff.mpr (.inl hsome)
  · show noSpm s.flushWrites.core.passes.ctx.results
    rw [hctx, hcore]
    exact hno

/-! ### Tasks that leave -/

theorem onCore_id (s : State) {f : Core → Core} (hf : ∀ c, (f c).id = c.id) : (s.onCore f).core.id = s.core.id := hf _

theorem freezeRecord_id (s : State) : s.freezeRecord.core.id = s.core.id := by
  rw [State.freezeRecord]
  split
  · rfl
  · exact (onCore_id _ fun _ => rfl).trans (congrArg Core.id (emitIf_core ..))

theorem emitBeats_id (s : State) (pc : BitVec 58) : (s.emitBeats pc).core.id = s.core.id := by
  rw [State.emitBeats]
  exact (onCore_id _ fun _ => rfl).trans (congrArg Core.id (emitIf_core ..))

theorem emitLeave_id (s : State) (status : Nat) : (s.emitLeave status).core.id = s.core.id := by
  have hthaw : (s.freezeRecord.onCore Core.thaw).core.id = s.core.id := (thaw_kept _).2.2.2.2.trans (freezeRecord_id s)
  simp only [State.emitLeave, emitIf_core, emitBeats_id, freezeRecord_id, hthaw]

theorem dropStreams_id (s : State) : s.dropStreams.core.id = s.core.id := by
  have hcore := (releaseStreams_frame s (s.core.ctx.queues.toList.flatMap id)).1
  rw [State.dropStreams]
  generalize s.releaseStreams (s.core.ctx.queues.toList.flatMap id) = t at hcore
  rw [← hcore]
  rfl

theorem vacate_id (c : Core) : c.vacate.id = c.id := rfl

/-- A task of size 1 that leaves its core leaves it without a task. -/
theorem vacateAll_core (h : s.alone) (status : Nat) :
    (s.vacateAll status).core.task = none ∧ (s.vacateAll status).core.phase = .noTask := by
  have hone : s.settleTask.alone := h
  have hid : ((s.settleTask.dropStreams.emitLeave status).onCore Core.vacate).core.id = s.settleTask.core.id :=
    (onCore_id _ vacate_id).trans ((emitLeave_id ..).trans (dropStreams_id _))
  have hv : s.vacateAll status = (s.settleTask.dropStreams.emitLeave status).onCore Core.vacate := by
    rw [State.vacateAll]
    simp only [alone_members hone, List.map_cons, List.map_nil, List.foldl_cons, List.foldl_nil, focus_self s.settleTask rfl,
      focus_self _ (congrArg BitVec.toNat hid)]
  rw [hv]
  exact ⟨rfl, rfl⟩

theorem writeSlots_core (s : State) (n : Node) : (s.writeSlots n).core = s.core := by
  rw [State.writeSlots]
  split
  · split
    · rfl
    · split
      · rfl
      · generalize List.range 16 = l
        refine foldl_view State.core (fun t k => ?_) l s
        split
        · exact records_core (poke_records ..)
        · rfl
  · rfl

theorem setNode_core (s : State) (n : Node) : (s.setNode n).core = s.core := by
  rw [State.setNode]
  split <;> exact (records_core (poke_records (s.mapNode n) ..)).trans rfl

theorem writeImage_core (s : State) (m : Mapping) (bs : List Byte) : (s.writeImage m bs).core = s.core := rfl

theorem tally_core (s : State) (part event cause n : Nat) : (s.tally part event cause n).core = s.core := rfl

theorem imageHome_alone (h : s.alone) (sp : Space) (k : TaskKey) (n : Nat) : (s.imageHome sp k n).2.alone := by
  rw [State.imageHome]
  simp only
  split <;> exact h

/-- A task of size 1 that is suspended leaves its core without a task. -/
theorem suspend_core (h : s.alone) (kind status : Nat) (migr : Bool) :
    (s.suspend kind status migr).core.task = none ∧ (s.suspend kind status migr).core.phase = .noTask := by
  have hone : s.settleTask.alone := h
  rw [State.suspend]
  generalize s.settleTask = u at hone
  cases hn : u.nodeOfKey u.core.owner.key with
  | none => exact vacateAll_core hone status
  | some n =>
    have hl := imageHome_alone hone n.space n.key (u.heldHere kind).size
    simp only
    generalize u.imageHome n.space n.key (u.heldHere kind).size = x at hl
    obtain ⟨home, v⟩ := x
    split <;> simp only [tally_core, setNode_core, writeSlots_core, writeImage_core] <;> exact vacateAll_core hl _

end

/-- Settles O48: each event by what it makes of the state. -/
theorem departures : Obligations.Departures := by
  unfold Obligations.Departures
  intro s c
  refine ⟨fun h hq hm => ?_, fun m h hm hl he ha => ?_, fun h hp => ⟨_, rfl, barrierComplete_core h hp rfl⟩, fun hg hn hend hbar ht hcp hr => ?_,
    fun h hd hr => ?_, fun h hl hstop hp hr => ?_, fun n place size at_ htask hroom hold hstore => ?_, fun t0 hp hm ht => ?_, fun h => suspend_core h ..⟩
  · obtain ⟨hidle, hyield, hcommit, hleak, hend⟩ := drainEnd_alone h hq hm
    exact ⟨fun h => congrArg _ (hidle h), fun h h' => congrArg _ (hyield h h'), fun h h' => congrArg _ (hcommit h h'),
      fun h h' => congrArg _ (hleak h h'), fun h h1 h2 h3 h4 => congrArg _ (hend h h1 h2 h3 h4)⟩
  · obtain ⟨hend, hcommit⟩ := commitComplete_alone h hm hl he ha
    exact ⟨fun h => congrArg _ (hend h), fun h => congrArg _ (hcommit h)⟩
  · exact congrArg _ (gangSuspend_ends hg hn hend hbar ht hcp hr)
  · exact congrArg _ (softStop_alone h hd hr)
  · exact congrArg _ (hardStop_alone h hl hstop hp hr)
  · have hfull : (s.core.task.isSome && !s.imageRoom s.core.imageKind) = true := by
      rw [show s.core.task.isSome = true from htask, show s.imageRoom s.core.imageKind = false from hroom] <;> rfl
    refine congrArg Host.Outcome.next ((if_pos hfull).trans ?_)
    simp only [State.imageSpill, hold, hstore]
  · have hrun : exec .idleTimeout s = execIdleTimeout s := rfl
    rw [hrun, execIdleTimeout, show s.core.phase = .idle t0 from hp]
    exact congrArg Host.Outcome.next (if_pos ⟨hm, ht⟩)
end Sys2Proof.Machine
end

section
/-! Placement, slices, stops, disabling and resizing (R214, R218, R219, R354 to R366). -/

namespace Sys2Proof.Machine

section
variable {s : State}

/-! ### Placement -/

/-- The task of size 1 that comes next is placed on a free, rested core. -/
theorem taskPlace_one {id : Nat} {c : Core} {k : Cluster} {sp : Space} {n : Node} {p : Part} (hc : s.coreOf id = some c)
    (hk : s.clusterAt (id / 4) = some k) (htask : c.task = none) (hended : k.ended = none) (hholder : k.holder = some sp)
    (hnext : s.nextTask sp c id = some n) (hp : s.partOf sp.part = some p) (hgang : n.gang = false)
    (hreplay : s.replayPlaces n [id] = true) (hrest : c.rested = true) : s.taskPlace id = s.startNodeOn n p [id] := by
  have hfree : c.free = true := by rw [Core.free, htask] <;> rfl
  have hids : placeIds n id = [id] := if_neg (by rw [hgang]; decide)
  have hcs : [id].filterMap s.coreOf = [c] := by rw [List.filterMap_cons, hc] <;> rfl
  simp only [State.taskPlace, hc, hk, hfree, hended, hholder, hnext, hp, hids, hcs, hreplay, hrest, htask, Option.isSome_none, Bool.not_true,
    Bool.or_self, Bool.false_eq_true, if_false, List.all_cons, List.all_nil, List.any_cons, List.any_nil, Bool.and_self, List.length_singleton,
    ne_eq, not_true, decide_false, if_true]

/-- A task whose slots can be reached and whose image can be read is placed. -/
theorem startNodeOn_place {n : Node} (p : Part) (ids : List Nat) (hslots : n.saved = [] → s.slotsReach n n.hmask = none)
    (himage : s.imageFault n = none) : s.startNodeOn n p ids = s.placeNode n p ids := by
  have hreach : (if n.saved = [] then s.slotsReach n n.hmask else none) = none := by
    split
    · next h => exact hslots h
    · rfl
  rw [State.startNodeOn, hreach, himage]

/-- Outside a replay the task that comes next is the first that waits. -/
theorem nextTask_first {sp : Space} (hr : ∀ r, s.replayOf sp.part = some r → r.replaying = false) (c : Core) (id : Nat) :
    s.nextTask sp c id = s.firstTask sp c := by
  rw [State.nextTask]
  cases h : s.replayOf sp.part with
  | none => rfl
  | some r => exact if_neg (by rw [hr r h, Bool.false_and]; decide)

theorem exec_taskPlace {id : Nat} {t : State} (h : s.taskPlace id = t) : exec (.taskPlace id) s = .next t :=
  congrArg Host.Outcome.next h

/-- A node that has ended finishes, or waits for a page of its successor list. -/
theorem exec_nodeFinish {k : Nat} {n : Node} (hn : s.nodes[k]? = some n) (hst : n.st = .ended) (hw : s.workLeft n.key = false) :
    (s.succWait n = none → exec (.nodeFinish k) s = .next (s.finishNode n))
    ∧ ∀ a, s.succWait n = some a → exec (.nodeFinish k) s = .next (s.askModule n.space a) := by
  have hrun : exec (.nodeFinish k) s = execNodeFinish k s := rfl
  refine ⟨fun h => ?_, fun a h => ?_⟩
  · rw [hrun, execNodeFinish, hn]
    simp only [hst, hw, h, and_self, if_true]
  · rw [hrun, execNodeFinish, hn]
    simp only [hst, hw, h, and_self, if_true]

/-! ### Slices -/

/-- A free cluster goes to the tenant chosen. -/
theorem sliceEnd_free {cl : Nat} {k : Cluster} {sp : Space} (hk : s.clusterAt cl = some k) (hended : k.ended = none)
    (hholder : k.holder = none) (hnext : s.nextTenant cl = some sp) : s.sliceEnd cl = s.give k (some sp) := by
  simp only [State.sliceEnd, hk, hended, hholder, hnext, Option.isSome_none, Bool.false_eq_true, if_false]

/-- A cluster whose holder's slice is over goes to another tenant, at once if it is empty. -/
theorem sliceEnd_over {cl : Nat} {k : Cluster} {sp x : Space} {u : State} (hk : s.clusterAt cl = some k) (hended : k.ended = none)
    (hholder : k.holder = some sp) (hover : s.sliceOver k sp = true) (hu : s.chargePass sp cl (tickOf s.time - k.start) = u)
    (hnext : u.nextTenant cl = some x) (hne : x ≠ sp) :
    (u.tasksOn cl sp = [] → s.sliceEnd cl = u.give k (some x))
    ∧ (u.tasksOn cl sp ≠ [] → s.sliceEnd cl = u.setCluster { k with ended := some (tickOf s.time), next := some x }) := by
  have hother : ¬ (some x = some sp) := fun h => hne (Option.some.inj h)
  refine ⟨fun h => ?_, fun h => ?_⟩
  · simp only [State.sliceEnd, hk, hended, hholder, hover, hu, hnext, h, hother, List.isEmpty_nil, Option.isSome_none, Bool.not_true,
      Bool.false_eq_true, if_false]
  · have hbusy : (u.tasksOn cl sp).isEmpty = false := by simpa using h
    simp only [State.sliceEnd, hk, hended, hholder, hover, hu, hnext, hbusy, hother, Option.isSome_none, Bool.not_true, Bool.not_false,
      Bool.false_eq_true, if_false, if_true]

theorem tspanExpiry_asks {cl e : Nat} {k : Cluster} {p : Part} (hk : s.clusterAt cl = some k) (hp : s.partOfCluster cl = some p)
    (hended : k.ended = some e) (hasked : k.asked = none) (hdue : e + p.tspan * 1000 ≤ tickOf s.time) :
    s.tspanExpiry cl
      = ((s.leavers k).foldl (fun s c => s.onCoreId c.id.toNat Core.askStop) s).setCluster { k with asked := some (tickOf s.time) } := by
  have hd : s.tspanDue k p = true := by
    rw [State.tspanDue, hended]
    simp only [hasked, hdue, Option.isNone_none, decide_true, Bool.and_self]
  rw [State.tspanExpiry, hk, hp]
  exact if_pos hd

theorem graceExpiry_asks {cl : Nat} {k : Cluster} {p : Part} (hk : s.clusterAt cl = some k) (hp : s.partOfCluster cl = some p) :
    s.graceExpiry cl = (s.overdue k p).foldl (fun s c => s.onCoreId c.id.toNat Core.askHard) s := by
  rw [State.graceExpiry, hk, hp]

/-- A core whose task may be asked harder is overdue once GRACE is over, of its holder's slice or of its own stop. -/
theorem mem_overdue {k : Cluster} {p : Part} {c : Core} (hc : c ∈ s.coresIn k.id) (htask : c.task.isSome = true)
    (hsharp : c.maySharpen = true) :
    (∀ g, s.graceAt k p = some g → g ≤ tickOf s.time → some c.space = k.holder → c ∈ s.overdue k p)
    ∧ (∀ t, c.stop = true → c.stopAt = some t → t + p.grace * 1000 ≤ tickOf s.time → c ∈ s.overdue k p) := by
  refine ⟨fun g hg hlate hholder => List.mem_filter.mpr ⟨hc, ?_⟩, fun t hstop hat hlate => List.mem_filter.mpr ⟨hc, ?_⟩⟩
  · simp only [hg, htask, hsharp, hlate, hholder, decide_true, beq_self_eq_true, Bool.and_self, Bool.true_or]
  · simp only [htask, hsharp, hstop, hat, hlate, decide_true, Bool.and_self, Bool.or_true]

theorem tenantDrained_gives {cl e : Nat} {k : Cluster} {sp : Space} (hk : s.clusterAt cl = some k) (hended : k.ended = some e)
    (hholder : k.holder = some sp) (hempty : s.tasksOn cl sp = []) :
    s.tenantDrained cl = (s.chargePass sp cl (tickOf s.time - e)).give k k.next := by
  simp only [State.tenantDrained, hk, hended, hholder, hempty, List.isEmpty_nil, if_true]

/-! ### Disabling and resizing -/

/-- The partitions, the tenants and the command queues. -/
def State.register (s : State) : List Part × List Tenant × List CmdQueue := (s.parts, s.tenants, s.cqueues)

theorem saveEnergy_register (s : State) (id : Nat) : (s.saveEnergy id).register = s.register := by
  rw [State.saveEnergy]
  split
  · split <;> rfl
  · rfl

theorem sends_register {t : State} (h : s.sends t) : t.register = s.register := by
  obtain ⟨ps, rfl⟩ := h
  rfl

/-- A stopping tenant without tasks is disabled, and a command that waits for it has its bit done. -/
theorem tenantDisabled_register {sp : Space} {t : Tenant} (hoff : s.tenantOff sp = true) (ht : s.tenantOf sp = some t) :
    (s.tenantDisabled sp).tenants = s.tenants.map (fun v => if v.space = sp then { t with st := .disabled } else v)
      ∧ (s.tenantDisabled sp).cqueues = s.cqueues.map fun q => q.disabled sp := by
  have hsp : t.space = sp := by simpa using List.find?_some (p := fun u : Tenant => decide (u.space = sp)) ht
  have hsaved := foldl_view State.register (f := fun (s : State) (c : Core) => s.saveEnergy c.id.toNat) (fun t c => saveEnergy_register t _)
    (s.cores.filter fun c => decide (c.energyOf = some sp)) s
  rw [State.tenantDisabled, ht]
  simp only [hoff, Bool.not_true, Bool.false_eq_true, if_false]
  generalize (s.cores.filter fun c => decide (c.energyOf = some sp)).foldl (fun s c => s.saveEnergy c.id.toNat) s = u at hsaved
  have hev := sends_register (tenantEvent_sends (u.setTenant { t with st := .disabled }) sp 0x02)
  generalize (u.setTenant { t with st := .disabled }).tenantEvent sp 0x02 = w at hev
  simp only [State.register, Prod.mk.injEq] at hsaved hev
  obtain ⟨-, hten, hqs⟩ := hsaved
  obtain ⟨-, hten', hqs'⟩ := hev
  refine ⟨hten'.trans ?_, congrArg _ (hqs'.trans hqs)⟩
  rw [State.setTenant, hten]
  simp only [hsp]

theorem scrubCluster_parts (s : State) (cl : Nat) : (s.scrubCluster cl).parts = s.parts := rfl

theorem saveEnergy_parts (s : State) (id : Nat) : (s.saveEnergy id).parts = s.parts := congrArg Prod.fst (saveEnergy_register s id)

theorem saveCluster_parts (s : State) (cl : Nat) : (s.saveCluster cl).parts = s.parts :=
  foldl_view State.parts (f := fun (s : State) (c : Core) => s.saveEnergy c.id.toNat) (fun t c => saveEnergy_parts t _) _ s

theorem reportHosts_parts (s : State) (part : Nat) (bs : List Byte) : (s.reportHosts part bs).parts = s.parts :=
  congrArg Prod.fst (sends_register (reportHosts_sends s part bs))

/-- A resize whose masks are still free applies. -/
theorem resizeApply_parts {id : Nat} {p : Part} {cl : BitVec 16} {ring : BitVec 256} {d : Option Cmd} (hp : s.partOf id = some p)
    (hr : p.resize = some (cl, ring, d)) (hacked : p.unacked = false) (hl : s.launching id = false) (hok : s.masksOk id cl ring = true) :
    (s.resizeApply id).parts = s.parts.map fun v => if v.id = p.id then
      { p with clusters := cl, ring := ring, rseq := p.rseq + 1, resize := some (cl, ring, d), unacked := true } else v := by
  have hsaved := foldl_view State.parts (f := fun (s : State) k => (s.saveCluster k).scrubCluster k)
    (fun t k => (scrubCluster_parts _ _).trans (saveCluster_parts t k)) (clustersIn (p.clusters &&& ~~~cl)) s
  rw [State.resizeApply, hp]
  simp only [hr, hacked, hl, hok, Bool.or_self, Bool.not_true, Bool.false_eq_true, if_false]
  generalize (clustersIn (p.clusters &&& ~~~cl)).foldl (fun s k => (s.saveCluster k).scrubCluster k) s = u at hsaved
  refine (reportHosts_parts ..).trans ?_
  rw [← hsaved]
  rfl

/-- A resize whose masks are no longer free is refused. -/
theorem resizeApply_refused {id : Nat} {p : Part} {cl : BitVec 16} {ring : BitVec 256} {b : Cmd} (hp : s.partOf id = some p)
    (hr : p.resize = some (cl, ring, some b)) (hacked : p.unacked = false) (hl : s.launching id = false)
    (hok : s.masksOk id cl ring = false) : s.resizeApply id = (s.setPart { p with resize := none }).finish b 5 0 [] := by
  rw [State.resizeApply, hp]
  simp only [hr, hacked, hl, hok, Bool.or_self, Bool.not_false, Bool.false_eq_true, if_false, if_true]

end

/-- Settles O49: each event by what it makes of the state. -/
theorem scheduling : Obligations.Scheduling := by
  unfold Obligations.Scheduling
  intro s now
  refine ⟨fun id c k sp n p hc hk htask hended hholder hnext hp hgang hreplay hrest hslots himage =>
      exec_taskPlace ((taskPlace_one hc hk htask hended hholder hnext hp hgang hreplay hrest).trans (startNodeOn_place p _ hslots himage)),
    fun sp c id hr => nextTask_first hr c id, fun k n hn hst hw => exec_nodeFinish hn hst hw,
    fun cl k sp hk hended hholder hnext => congrArg _ (sliceEnd_free hk hended hholder hnext), fun cl k sp x hk hended hholder hover => ?_,
    fun cl k p e hk hp hended hasked hdue => congrArg _ (tspanExpiry_asks hk hp hended hasked hdue),
    fun cl k p hk hp => ⟨congrArg _ (graceExpiry_asks hk hp), fun c hc htask hsharp => mem_overdue hc htask hsharp⟩,
    fun cl k e sp hk hended hholder hempty => congrArg _ (tenantDrained_gives hk hended hholder hempty),
    fun sp t hoff ht => ⟨_, rfl, tenantDisabled_register hoff ht⟩, fun id p cl ring d hp hr hacked hl => ?_⟩
  · intro u hnext hne
    obtain ⟨hgive, hend⟩ := sliceEnd_over hk hended hholder hover rfl hnext hne
    exact ⟨fun h => congrArg _ (hgive h), fun h => congrArg _ (hend h)⟩
  · refine ⟨fun hok => ⟨_, rfl, resizeApply_parts hp hr hacked hl hok⟩, fun hno b hb => ?_⟩
    rw [hb] at hr
    exact congrArg _ (resizeApply_refused hp hr hacked hl hno)
end Sys2Proof.Machine
end

section
/-! What each handle step does (R242, R246, R266, R271, R273, R274, R299, R305 to R309). -/

namespace Sys2Proof.Machine

/-! ### Entries of the lineage table -/

/-- A value that is not the default reads back. -/
theorem assocGet_set_new {α : Type} [DecidableEq α] {dflt : α} {m : List (Nat × α)} {a : Nat} {b : α} (hb : b ≠ dflt) :
    assocGet dflt (assocSet dflt m a b) a = b := by
  induction m with
  | nil => rw [assocSet, if_neg hb, assocGet, if_pos rfl]
  | cons p t ih =>
    obtain ⟨k, v⟩ := p
    rw [assocSet]
    split
    · rw [assocGet, if_pos rfl]
    · split
      · rw [assocGet, if_pos rfl]
      · next hk => rw [assocGet, if_neg (Ne.symm hk), ih]

section
variable {s t : State}

theorem entryOf_setEntry_other {i j : Nat} (l : Lineage) (h : j ≠ i) : (s.setEntry i l).entryOf j = s.entryOf j := assocGet_set_other h

theorem entryOf_setEntry_new {i : Nat} {l : Lineage} (h : l.st ≠ .free) : (s.setEntry i l).entryOf i = l :=
  assocGet_set_new fun he => h (he ▸ rfl)

theorem entryOf_setEntry_same {i : Nat} (l : Lineage) (h : assocAbove Lineage.free none s.lineage = true) :
    (s.setEntry i l).entryOf i = l := assocGet_set_same h

theorem setEntry_above (i : Nat) (l : Lineage) (h : assocAbove Lineage.free none s.lineage = true) :
    assocAbove Lineage.free none (s.setEntry i l).lineage = true := assocSet_above h nofun

/-- Nothing differs but the current core, the entries of a list, mailboxes and their requests. -/
def State.onlyEntries (s u : State) (l : List Nat) : Prop :=
  (∀ j, j ∉ l → u.entryOf j = s.entryOf j)
    ∧ u = { s with core := u.core, lineage := u.lineage, poison := u.poison, mailboxes := u.mailboxes, hwaits := u.hwaits }

theorem onlyEntries_setEntry {l : List Nat} (h : s.onlyEntries t l) {i : Nat} (hi : i ∈ l) (e : Lineage) :
    s.onlyEntries (t.setEntry i e) l := by
  obtain ⟨hread, hrest⟩ := h
  refine ⟨fun j hj => ?_, ?_⟩
  · rw [entryOf_setEntry_other e fun he : j = i => hj (he ▸ hi)]
    exact hread j hj
  · rw [hrest] <;> rfl

theorem onlyEntries_refl (s : State) (l : List Nat) : s.onlyEntries s l := ⟨fun _ _ => rfl, rfl⟩

theorem onlyEntries_onCore {l : List Nat} (h : s.onlyEntries t l) (f : Core → Core) : s.onlyEntries (t.onCore f) l := by
  obtain ⟨hread, hrest⟩ := h
  exact ⟨hread, by rw [hrest] <;> rfl⟩

/-! ### HSPLIT -/

/-- The task of a step holds a live handle. -/
def State.holdsLive (s : State) (h : HStep) (v : BitVec 128) : Prop :=
  ((s.handleEntry v).valid v = true ∧ (s.handleEntry v).holder = h.owner.key.task) ∧ (s.handleEntry v).st = .live

/-- No access is under way through a handle. -/
def State.unused (s : State) (h : HStep) (v : BitVec 128) : Prop :=
  (s.handleEntry v).outst = 0 ∧ s.core.heldByStream h.owner v = false

theorem unused_iff (h : HStep) (v : BitVec 128) :
    s.unused h v ↔ ¬ ((s.entryOf (handleLidx v).toNat).outst ≠ 0 ∨ s.core.heldByStream h.owner v = true) := by
  rw [not_or, not_not, Bool.not_eq_true]
  rfl

theorem holdsLive_iff (h : HStep) (v : BitVec 128) :
    s.holdsLive h v ↔ ¬ (!(s.entryOf (handleLidx v).toNat).valid v || (s.entryOf (handleLidx v).toNat).st != .live
      || (s.entryOf (handleLidx v).toNat).holder != h.owner.key.task) = true := by
  show (((s.entryOf _).valid v = true ∧ (s.entryOf _).holder = _) ∧ (s.entryOf _).st = .live) ↔ _
  simp only [Bool.or_eq_true, Bool.not_eq_true', bne_iff_ne, not_or, Bool.not_eq_false, ne_eq, not_not]
  tauto

section
variable {h : HStep} {v : BitVec 128} {t : Tsr} {ax low high : Nat} {point : Int}

/-- The box of a split, and the room for its halves. -/
def State.splitFits (s : State) (l : Lineage) (t : Tsr) (ax : Nat) (point : Int) : Prop :=
  ax < t.rank ∧ l.lo.getD ax 0 < point ∧ point < l.hi.getD ax 1 ∧ s.usedEntries l.part + 2 ≤ s.lineageQuota l.part

/-- The lower half of a split entry. -/
def Lineage.lower (l : Lineage) (i : Nat) (gen : BitVec 16) (ax : Nat) (point : Int) : Lineage :=
  { l with parent := i, childL := 0, childH := 0, st := .live, gen := gen, hi := l.hi.set ax point }

/-- The upper half of a split entry. -/
def Lineage.upper (l : Lineage) (i : Nat) (gen : BitVec 16) (ax : Nat) (point : Int) : Lineage :=
  { l with parent := i, childL := 0, childH := 0, st := .live, gen := gen, lo := l.lo.set ax point }

/-- An entry once it is split. -/
def Lineage.splitAt (l : Lineage) (ax : Nat) (point : Int) (low high : Nat) : Lineage :=
  { l with st := .split, axis := ax, point := point, childL := low, childH := high, gen := l.gen + 1 }

/-- The state that a split leaves. -/
def State.splitDone (s : State) (v : BitVec 128) (ax : Nat) (point : Int) (low high : Nat) : State :=
  let i := (handleLidx v).toNat
  ((s.setEntry i ((s.handleEntry v).splitAt ax point low high)).setEntry low
    ((s.handleEntry v).lower i (s.entryOf low).gen ax point)).setEntry high ((s.handleEntry v).upper i (s.entryOf high).gen ax point)

theorem splitIn_iff {a b : Int} : (a < point ∧ point < b) ↔ ¬ (!(decide (a < point) && decide (point < b))) = true := by
  simp

theorem splitStep_cases :
    (¬ s.unused h v → s.splitStep h v ax point low high = .wait s)
    ∧ (s.unused h v → ¬ s.holdsLive h v → s.splitStep h v ax point low high = .fail .protection)
    ∧ (s.unused h v → s.holdsLive h v → s.entryTsr h.owner (s.handleEntry v) = .ok t →
      (¬ s.splitFits (s.handleEntry v) t ax point → s.splitStep h v ax point low high = .fail .protection)
      ∧ (s.splitFits (s.handleEntry v) t ax point → s.splitStep h v ax point low high = .done (s.splitDone v ax point low high))) := by
  refine ⟨fun hu => ?_, fun hu hh => ?_, fun hu hh ht => ⟨fun hf => ?_, fun hf => ?_⟩⟩
  · exact if_pos (not_not.mp (mt (unused_iff h v).mpr hu))
  · exact (if_neg ((unused_iff h v).mp hu)).trans (if_pos (not_not.mp (mt (holdsLive_iff h v).mpr hh)))
  · refine (if_neg ((unused_iff h v).mp hu)).trans ((if_neg ((holdsLive_iff h v).mp hh)).trans ?_)
    rw [show s.entryTsr h.owner (s.entryOf (handleLidx v).toNat) = .ok t from ht]
    by_cases hrank : t.rank ≤ ax
    · exact if_pos hrank
    refine (if_neg hrank).trans ?_
    by_cases hin : (s.handleEntry v).lo.getD ax 0 < point ∧ point < (s.handleEntry v).hi.getD ax 1
    · have hroom : s.lineageQuota (s.handleEntry v).part < s.usedEntries (s.handleEntry v).part + 2 :=
        Nat.lt_of_not_le fun hroom => hf ⟨Nat.lt_of_not_le hrank, hin.1, hin.2, hroom⟩
      exact (if_neg (splitIn_iff.mp hin)).trans (if_pos hroom)
    · exact if_pos (not_not.mp (mt splitIn_iff.mpr hin))
  · refine (if_neg ((unused_iff h v).mp hu)).trans ((if_neg ((holdsLive_iff h v).mp hh)).trans ?_)
    rw [show s.entryTsr h.owner (s.entryOf (handleLidx v).toNat) = .ok t from ht]
    obtain ⟨hrank, hlow, hhigh, hroom⟩ := hf
    exact (if_neg (Nat.not_le.mpr hrank)).trans ((if_neg (splitIn_iff.mp ⟨hlow, hhigh⟩)).trans (if_neg (Nat.not_lt.mpr hroom)))

/-- What a split changes: the entry and its halves. -/
theorem splitDone_entries (hlh : low ≠ high) (hl : (handleLidx v).toNat ≠ low) (hh : (handleLidx v).toNat ≠ high) :
    let i := (handleLidx v).toNat
    let u := s.splitDone v ax point low high
    s.onlyEntries u [i, low, high] ∧ u.core = s.core ∧ u.entryOf i = (s.handleEntry v).splitAt ax point low high
      ∧ u.entryOf low = (s.handleEntry v).lower i (s.entryOf low).gen ax point
      ∧ u.entryOf high = (s.handleEntry v).upper i (s.entryOf high).gen ax point := by
  intro i u
  refine ⟨?_, rfl, ?_, ?_, entryOf_setEntry_new nofun⟩
  · exact onlyEntries_setEntry (onlyEntries_setEntry (onlyEntries_setEntry (onlyEntries_refl s _) (by simp [i]) _) (by simp) _) (by simp) _
  · exact (entryOf_setEntry_other _ hh).trans ((entryOf_setEntry_other _ hl).trans (entryOf_setEntry_new nofun))
  · exact (entryOf_setEntry_other _ hlh).trans (entryOf_setEntry_new nofun)

end

/-! ### HREJOIN -/

section
variable {h : HStep} {hp hl hr : BitVec 4} {vl vr : BitVec 128} {lost : Bool}

/-- A handle is valid and its holder is the task of a step. -/
def State.owns (s : State) (h : HStep) (v : BitVec 128) : Prop :=
  (s.handleEntry v).valid v = true ∧ (s.handleEntry v).holder = h.owner.key.task

/-- The entries of two handles are the live halves of one split. -/
def State.siblings (s : State) (vl vr : BitVec 128) : Prop :=
  let a := s.handleEntry vl
  let b := s.handleEntry vr
  let p := s.entryOf a.parent
  p.st = .split ∧ p.childL = (handleLidx vl).toNat ∧ p.childH = (handleLidx vr).toNat ∧ a.st = .live ∧ b.st = .live ∧ a.parent = b.parent

/-- The entries that a rejoin leaves. -/
def State.rejoined (s : State) (h : HStep) (vl vr : BitVec 128) : State :=
  let a := s.handleEntry vl
  let b := s.handleEntry vr
  ((s.setEntry a.parent { s.entryOf a.parent with st := .live, holder := h.owner.key.task }).setEntry (handleLidx vl).toNat
    { Lineage.free with gen := a.gen + 1 }).setEntry (handleLidx vr).toNat { Lineage.free with gen := b.gen + 1 }

/-- The registers that a rejoin leaves: the halves are empty, and the parent's handle is live. -/
def Core.rejoins (c : Core) (hp hl hr : BitVec 4) (v : BitVec 128) : Core :=
  let c := if hl = hp then c else c.setHandle hl HReg.reset
  let c := if hr = hp then c else c.setHandle hr HReg.reset
  c.setHandle hp ⟨v, .live⟩

theorem rejoinStep_cases :
    let quiet := (s.handleEntry vl).outst = 0 ∧ (s.handleEntry vr).outst = 0
    (¬ quiet → s.rejoinStep h hp hl hr vl vr lost = .wait s)
    ∧ (quiet → lost = true → s.rejoinStep h hp hl hr vl vr lost = .fail .mismatchedRejoin)
    ∧ (quiet → lost = false → ¬ (s.owns h vl ∧ s.owns h vr) → s.rejoinStep h hp hl hr vl vr lost = .fail .protection)
    ∧ (quiet → lost = false → s.owns h vl → s.owns h vr → ¬ s.siblings vl vr →
      s.rejoinStep h hp hl hr vl vr lost = .fail .mismatchedRejoin)
    ∧ (quiet → lost = false → s.owns h vl → s.owns h vr → s.siblings vl vr →
      s.rejoinStep h hp hl hr vl vr lost = .done ((s.rejoined h vl vr).onCore fun c => c.rejoins hp hl hr
        (makeHandle s.handleKey (s.handleEntry vl).parent (s.entryOf (s.handleEntry vl).parent).gen
          (s.entryOf (s.handleEntry vl).parent).part))) := by
  have hquiet : ((s.handleEntry vl).outst = 0 ∧ (s.handleEntry vr).outst = 0)
      ↔ ¬ ((s.handleEntry vl).outst ≠ 0 ∨ (s.handleEntry vr).outst ≠ 0) := by rw [not_or, not_not, not_not]
  have howns : (s.owns h vl ∧ s.owns h vr) ↔ ¬ (!(s.handleEntry vl).valid vl || !(s.handleEntry vr).valid vr
      || (s.handleEntry vl).holder != h.owner.key.task || (s.handleEntry vr).holder != h.owner.key.task) = true := by
    simp only [State.owns, Bool.or_eq_true, Bool.not_eq_true', bne_iff_ne, not_or, Bool.not_eq_false, ne_eq, not_not]
    tauto
  have hsib : s.siblings vl vr ↔ ¬ ((s.entryOf (s.handleEntry vl).parent).st != .split
      || (s.entryOf (s.handleEntry vl).parent).childL != (handleLidx vl).toNat
      || (s.entryOf (s.handleEntry vl).parent).childH != (handleLidx vr).toNat || (s.handleEntry vl).st != .live
      || (s.handleEntry vr).st != .live || (s.handleEntry vl).parent != (s.handleEntry vr).parent) = true := by
    simp only [State.siblings, Bool.or_eq_true, bne_iff_ne, not_or, ne_eq, not_not]
    tauto
  refine ⟨fun hq => ?_, fun hq hlost => ?_, fun hq hlost ho => ?_, fun hq hlost ho ho' hs => ?_, fun hq hlost ho ho' hs => ?_⟩
  · exact if_pos (not_not.mp (mt hquiet.mpr hq))
  · exact (if_neg (hquiet.mp hq)).trans (if_pos hlost)
  · exact (if_neg (hquiet.mp hq)).trans ((if_neg (ne_true_of_eq_false hlost)).trans (if_pos (not_not.mp (mt howns.mpr ho))))
  · exact (if_neg (hquiet.mp hq)).trans ((if_neg (ne_true_of_eq_false hlost)).trans ((if_neg (howns.mp ⟨ho, ho'⟩)).trans
      (if_pos (not_not.mp (mt hsib.mpr hs)))))
  · exact (if_neg (hquiet.mp hq)).trans ((if_neg (ne_true_of_eq_false hlost)).trans ((if_neg (howns.mp ⟨ho, ho'⟩)).trans
      (if_neg (hsib.mp hs))))

theorem setHandle_self (c : Core) (h : BitVec 4) (r : HReg) : (c.setHandle h r).ctx.getH h = r := by
  simp [Core.setHandle, Core.onCtx, Ctx.setH, Ctx.getH]

theorem setHandle_other (c : Core) {h k : BitVec 4} (r : HReg) (hk : k ≠ h) : (c.setHandle h r).ctx.getH k = c.ctx.getH k := by
  have hne : h.toNat ≠ k.toNat := fun he => hk (BitVec.eq_of_toNat_eq he.symm)
  simp [Core.setHandle, Core.onCtx, Ctx.setH, Ctx.getH, Vector.getElem_set_ne _ _ hne]

/-- A register that a rejoin may empty. -/
theorem emptied_other (c : Core) {h p k : BitVec 4} (hk : k ≠ h) :
    (if h = p then c else c.setHandle h HReg.reset).ctx.getH k = c.ctx.getH k := by
  split
  · rfl
  · exact setHandle_other c _ hk

theorem emptied_self (c : Core) {h p : BitVec 4} (hp : h ≠ p) :
    ((if h = p then c else c.setHandle h HReg.reset).ctx.getH h).st = .empty := by
  rw [if_neg hp, setHandle_self] <;> rfl

theorem rejoins_registers (c : Core) (v : BitVec 128) :
    (c.rejoins hp hl hr v).ctx.getH hp = ⟨v, .live⟩
    ∧ (hl ≠ hp → ((c.rejoins hp hl hr v).ctx.getH hl).st = .empty) ∧ (hr ≠ hp → ((c.rejoins hp hl hr v).ctx.getH hr).st = .empty)
    ∧ ∀ k, k ≠ hp → k ≠ hl → k ≠ hr → (c.rejoins hp hl hr v).ctx.getH k = c.ctx.getH k := by
  refine ⟨setHandle_self .., fun h => ?_, fun h => ?_, fun k hp' hl' hr' => ?_⟩
  · refine (congrArg HReg.st (setHandle_other _ _ h)).trans ?_
    by_cases he : hl = hr
    · rw [he] at h ⊢
      exact emptied_self _ h
    · exact (congrArg HReg.st (emptied_other _ he)).trans (emptied_self c h)
  · exact (congrArg HReg.st (setHandle_other _ _ h)).trans (emptied_self _ h)
  · exact (setHandle_other _ _ hp').trans ((emptied_other _ hr').trans (emptied_other c hl'))

/-- What a rejoin changes: the parent, and the halves, which are free. -/
theorem rejoined_entries (hsorted : assocAbove Lineage.free none s.lineage = true) (hlr : (handleLidx vl).toNat ≠ (handleLidx vr).toNat)
    (hpl : (s.handleEntry vl).parent ≠ (handleLidx vl).toNat) (hpr : (s.handleEntry vl).parent ≠ (handleLidx vr).toNat) :
    let a := s.handleEntry vl
    let u := s.rejoined h vl vr
    s.onlyEntries u [a.parent, (handleLidx vl).toNat, (handleLidx vr).toNat] ∧ u.core = s.core
      ∧ u.entryOf a.parent = { s.entryOf a.parent with st := .live, holder := h.owner.key.task }
      ∧ u.entryOf (handleLidx vl).toNat = { Lineage.free with gen := a.gen + 1 }
      ∧ u.entryOf (handleLidx vr).toNat = { Lineage.free with gen := (s.handleEntry vr).gen + 1 } := by
  intro a u
  refine ⟨?_, rfl, ?_, ?_, entryOf_setEntry_same _ (setEntry_above _ _ (setEntry_above _ _ hsorted))⟩
  · exact onlyEntries_setEntry (onlyEntries_setEntry (onlyEntries_setEntry (onlyEntries_refl s _) (by simp [a]) _) (by simp) _) (by simp) _
  · exact (entryOf_setEntry_other _ hpr).trans ((entryOf_setEntry_other _ hpl).trans (entryOf_setEntry_new nofun))
  · exact (entryOf_setEntry_other _ hlr).trans (entryOf_setEntry_same _ (setEntry_above _ _ hsorted))

end

/-! ### HPUT, HTAKE and HINFO -/

section
variable {h : HStep} {v : BitVec 128} {va : Word} {pa : Nat}

/-- The state that a deposit leaves. -/
def State.deposited (s : State) (v : BitVec 128) (pa : Nat) : State :=
  let t := s.setEntry (handleLidx v).toNat { s.handleEntry v with holder := 0 }
  { t with mailboxes := t.mailboxes ++ [(pa, v, s.time)] }

theorem putStep_cases :
    (¬ s.unused h v → s.putStep h v va = .wait s)
    ∧ (s.unused h v → ¬ s.holdsLive h v → s.putStep h v va = .fail .protection)
    ∧ (∀ w, s.unused h v → s.holdsLive h v → s.mailboxAt h va = .ok pa → s.mailbox pa = some w → s.putStep h v va = .fail .handleLeak)
    ∧ (s.unused h v → s.holdsLive h v → s.mailboxAt h va = .ok pa → s.mailbox pa = none → s.putStep h v va = .done (s.deposited v pa)) := by
  refine ⟨fun hu => ?_, fun hu hh => ?_, fun w hu hh hat hw => ?_, fun hu hh hat hw => ?_⟩
  · exact if_pos (not_not.mp (mt (unused_iff h v).mpr hu))
  · exact (if_neg ((unused_iff h v).mp hu)).trans (if_pos (not_not.mp (mt (holdsLive_iff h v).mpr hh)))
  · refine (if_neg ((unused_iff h v).mp hu)).trans ((if_neg ((holdsLive_iff h v).mp hh)).trans ?_)
    rw [hat]
    exact if_pos (by rw [hw] <;> rfl)
  · refine (if_neg ((unused_iff h v).mp hu)).trans ((if_neg ((holdsLive_iff h v).mp hh)).trans ?_)
    rw [hat]
    exact if_neg (by rw [hw]; decide)

theorem deposited_entries (hlive : (s.handleEntry v).st = .live) (hbox : s.mailbox pa = none) :
    s.onlyEntries (s.deposited v pa) [(handleLidx v).toNat] ∧ (s.deposited v pa).core = s.core
      ∧ (s.deposited v pa).entryOf (handleLidx v).toNat = { s.handleEntry v with holder := 0 } ∧ (s.deposited v pa).mailbox pa = some v := by
  obtain ⟨hread, hrest⟩ := onlyEntries_setEntry (onlyEntries_refl s [(handleLidx v).toNat]) List.mem_cons_self
    { s.handleEntry v with holder := 0 }
  refine ⟨⟨hread, ?_⟩, rfl, entryOf_setEntry_new (by rw [hlive]; nofun), ?_⟩
  · rfl
  · have hnone : (s.mailboxes.find? fun m => m.1 == pa) = none := by
      rwa [State.mailbox, Option.map_eq_none_iff] at hbox
    show Option.map _ (List.find? _ (s.mailboxes ++ [(pa, v, s.time)])) = _
    rw [List.find?_append, hnone]
    simp

/-- The state that a taking leaves. -/
def State.taken (s : State) (h : HStep) (v : BitVec 128) (pa : Nat) (hd : BitVec 4) (sa : BitVec 6) : State :=
  ({ (s.emptyMailbox pa).setEntry (handleLidx v).toNat { s.handleEntry v with holder := h.owner.key.task } with
    hwaits := s.hwaits.erase (h.request s.core.id.toNat pa) } : State).onCore fun c => (c.setHandle hd ⟨v, .live⟩).onCtx fun x => x.setS sa 1#64

theorem takeFrom_live {task : Nat} (hvalid : (s.handleEntry v).valid v = true) (hlive : (s.handleEntry v).st = .live)
    (hfree : (s.handleEntry v).holder = 0) :
    s.takeFrom pa v task = some ((s.emptyMailbox pa).setEntry (handleLidx v).toNat { s.handleEntry v with holder := task }) := by
  have hok : ((s.handleEntry v).valid v && (s.handleEntry v).st == .live && (s.handleEntry v).holder == 0) = true := by
    rw [hvalid, hlive, hfree]
    decide
  exact if_pos hok

theorem takeStep_takes {hd : BitVec 4} {sa : BitVec 6} {susp : Bool} (hat : s.mailboxAt h va = .ok pa) (hbox : s.mailbox pa = some v)
    (hfirst : (s.hwaits.find? fun w => w.1 == pa) = none) (htime : s.inTime h pa = true)
    (hsound : s.entryPoisoned (handleLidx v).toNat = false) (hvalid : (s.handleEntry v).valid v = true)
    (hlive : (s.handleEntry v).st = .live) (hfree : (s.handleEntry v).holder = 0) :
    s.takeStep h hd sa va susp = .done (s.taken h v pa hd sa) := by
  simp only [State.takeStep, hat, hbox, hfirst, htime, hsound, takeFrom_live hvalid hlive hfree, Bool.and_self, Bool.false_eq_true, if_false]
  rfl

theorem getS_setS (x : Ctx) (n : BitVec 6) (w : Word) : (x.setS n w).getS n = if n = 0#6 then 0#64 else w := by
  by_cases hn : n = 0#6
  · rw [if_pos hn, Ctx.getS, if_pos hn]
  · rw [if_neg hn, Ctx.getS_setS_same x n w hn]

theorem setS_getH (x : Ctx) (n : BitVec 6) (w : Word) (k : BitVec 4) : (x.setS n w).getH k = x.getH k := by
  rw [Ctx.setS]
  split <;> rfl

theorem taken_entries {hd : BitVec 4} {sa : BitVec 6} (hlive : (s.handleEntry v).st = .live) :
    s.onlyEntries (s.taken h v pa hd sa) [(handleLidx v).toNat]
      ∧ (s.taken h v pa hd sa).entryOf (handleLidx v).toNat = { s.handleEntry v with holder := h.owner.key.task }
      ∧ (s.taken h v pa hd sa).mailbox pa = none ∧ (s.taken h v pa hd sa).core.ctx.getH hd = ⟨v, .live⟩
      ∧ (s.taken h v pa hd sa).core.ctx.getS sa = if sa = 0#6 then 0#64 else 1#64 := by
  refine ⟨⟨fun j hj => entryOf_setEntry_other _ (by simpa using hj), rfl⟩, entryOf_setEntry_new (by rw [hlive]; nofun), ?_, ?_, getS_setS ..⟩
  · show Option.map _ (List.find? _ (s.mailboxes.filter fun m => m.1 != pa)) = none
    rw [Option.map_eq_none_iff, List.find?_eq_none]
    intro m hm
    simpa using (List.mem_filter.mp hm).2
  · exact (setS_getH ..).trans (setHandle_self ..)

theorem infoStep_cases {sa : BitVec 6} {ax : Nat} {t : Tsr} :
    ((s.handleEntry v).outst ≠ 0 → s.infoStep h v sa ax = .wait s)
    ∧ ((s.handleEntry v).outst = 0 → ¬ s.holdsLive h v → s.infoStep h v sa ax = .fail .protection)
    ∧ ((s.handleEntry v).outst = 0 → s.holdsLive h v → s.entryTsr h.owner (s.handleEntry v) = .ok t →
      s.infoStep h v sa ax = .done (s.onCore fun c => c.onCtx fun x => x.setS sa (BitVec.ofNat 64
        (if ax < t.rank then wrapInt 32 ((s.handleEntry v).lo.getD ax 0) + wrapInt 32 ((s.handleEntry v).hi.getD ax 1) * 2 ^ 32 else 0)))) := by
  refine ⟨fun ho => if_pos ho, fun ho hh => ?_, fun ho hh ht => ?_⟩
  · exact (if_neg (not_not.mpr ho)).trans (if_pos (not_not.mp (mt (holdsLive_iff h v).mpr hh)))
  · refine (if_neg (not_not.mpr ho)).trans ((if_neg ((holdsLive_iff h v).mp hh)).trans ?_)
    rw [show s.entryTsr h.owner (s.entryOf (handleLidx v).toNat) = .ok t from ht]
    by_cases hax : ax < t.rank
    · simp only [if_pos hax, if_neg (Nat.not_le.mpr hax)]
      rfl
    · simp only [if_neg hax, if_pos (Nat.not_lt.mp hax)]

end
/-! ### Steps whose entries are sound -/

section
variable {h : HStep} (hsound : (s.readEntries h.op).any s.entryPoisoned = false)
include hsound

theorem hopStep_split {v : BitVec 128} {ax low high : Nat} {point : Int} (hop : h.op = .split v ax point low high) :
    s.hopStep h = s.splitStep h v ax point low high := by
  rw [State.hopStep, if_neg (ne_true_of_eq_false hsound), hop]

theorem hopStep_rejoin {hp hl hr : BitVec 4} {vl vr : BitVec 128} {lost : Bool} (hop : h.op = .rejoin hp hl hr vl vr lost) :
    s.hopStep h = s.rejoinStep h hp hl hr vl vr lost := by
  rw [State.hopStep, if_neg (ne_true_of_eq_false hsound), hop]

theorem hopStep_put {v : BitVec 128} {va : Word} (hop : h.op = .put v va) : s.hopStep h = s.putStep h v va := by
  rw [State.hopStep, if_neg (ne_true_of_eq_false hsound), hop]

theorem hopStep_take {hd : BitVec 4} {sa : BitVec 6} {va : Word} {susp : Bool} (hop : h.op = .take hd sa va susp) :
    s.hopStep h = s.takeStep h hd sa va susp := by
  rw [State.hopStep, if_neg (ne_true_of_eq_false hsound), hop]

theorem hopStep_info {v : BitVec 128} {sa : BitVec 6} {ax : Nat} (hop : h.op = .info v sa ax) : s.hopStep h = s.infoStep h v sa ax := by
  rw [State.hopStep, if_neg (ne_true_of_eq_false hsound), hop]

end

/-! ### The oldest step of a core -/

section
variable {h : HStep} {rest : List HStep}

theorem undone_ctx (hrest : List HStep) (ht : s.core.task = some h.owner) :
    (h.undone { s.core with hsteps := hrest }).ctx = h.undo.foldl (fun x p => x.setH p.1 p.2) s.core.ctx := by
  rw [HStep.undone]
  exact congrArg Core.ctx (if_pos ht)

/-- The oldest handle operation is taken, waits, has nothing to take, or fails. -/
theorem exec_handleStep (hs : s.core.hsteps = h :: rest) :
    (∀ t, s.hopStep h = .done t → exec .handleStep s = .next (t.onCore fun c => { c with hsteps := rest }))
    ∧ (∀ t, s.hopStep h = .wait t → exec .handleStep s = .next t)
    ∧ (∀ t, s.hopStep h = .idle t →
      exec .handleStep s = .next (t.onCore fun c => { c with hsteps := { h with since := some (h.since.getD s.time) } :: rest }))
    ∧ (∀ f, s.hopStep h = .fail f →
      exec .handleStep s = .next ((s.onCore fun c => h.undone { c with hsteps := rest }).raiseLater h.owner f 7 h.pc)) := by
  have hrun : exec .handleStep s = .next s.handleStep := rfl
  refine ⟨fun t ht => ?_, fun t ht => ?_, fun t ht => ?_, fun f hf => ?_⟩
  · rw [hrun]
    simp only [State.handleStep, hs, ht]
  · rw [hrun]
    simp only [State.handleStep, hs, ht]
  · rw [hrun]
    simp only [State.handleStep, hs, ht]
  · rw [hrun]
    simp only [State.handleStep, hs, hf]

/-- An HTAKE whose bound has passed gets 0 and withdraws its request. -/
theorem exec_htakeBoundExpiry {hd : BitVec 4} {sa : BitVec 6} {va : Word} {t0 : Nat} (hs : s.core.hsteps = h :: rest)
    (hop : h.op = .take hd sa va false) (hsince : h.since = some t0) (hbound : t0 + 16384 * 24 ≤ s.time) (hnone : s.takeAnswered h va = false) :
    exec .htakeBoundExpiry s = .next (({ s with
      hwaits := s.hwaits.filter fun w => !(decide (w.2.1 = h.owner.key) && w.2.2 == (h.request s.core.id.toNat 0).2.2) } : State).onCore
        fun c => { c with hsteps := c.hsteps.tail }.onCtx fun x => x.setS sa 0#64) := by
  have hover : s.takeOver = some (h, sa) := by
    rw [State.takeOver, hs]
    simp only [hop, hsince]
    exact if_pos ⟨hbound, hnone⟩
  have hrun : exec .htakeBoundExpiry s = execHtakeBoundExpiry s := rfl
  rw [hrun, execHtakeBoundExpiry, hover]

end

/-- A deposit wakes the suspended task whose request is the earliest. -/
theorem depositWake_wakes {pa member m p : Nat} {key : TaskKey} {v : BitVec 128} {n : Node} {h : BitVec 4} {sa : BitVec 6} {t : State}
    (hw : (s.hwaits.find? fun w => w.1 == pa) = some (pa, key, member)) (hbox : s.mailbox pa = some v) (hn : s.nodeOfKey key = some n)
    (hst : n.st = .suspended)
    (hwait : (n.waits.find? fun w => match w with | .handle m _ _ p => m == member && p == pa | _ => false) = some (.handle m h sa p))
    (hsound : s.entryPoisoned (handleLidx v).toNat = false) (ht : s.takeFrom pa v key.task = some t) :
    s.depositWake pa = ({ t with hwaits := s.hwaits.erase (pa, key, member) } : State).wakeNode n (.handle m h sa p)
      (fun x => (x.setH h ⟨v, .live⟩).setS sa 1#64) member := by
  rw [State.depositWake, hw]
  simp only [hbox, hn]
  split
  · next m' h' sa' p' hfound =>
    obtain ⟨rfl, rfl, rfl, rfl⟩ := Wait.handle.inj (Option.some.inj (hfound.symm.trans hwait))
    rw [hst, hsound, ht]
    rfl
  · next hno => exact absurd hwait (hno m h sa p)

/-! ### Rows, streams and pins -/

theorem exec_tileAccessPerform {k : Nat} {a : TAcc} (hk : s.core.taccs[k]? = some a)
    (hfirst : ((s.core.taccs.take k).all fun b => b.lidx != a.lidx) = true)
    (hstreams : ∀ q st, st ∈ s.core.ctx.queue q → st.counted = true → st.id ∉ a.after) :
    exec (.tileAccessPerform k) s = .next (s.tileRowStep k a) := by
  have hno : ((s.core.taccs.take k).any fun b => b.lidx == a.lidx) = false :=
    List.any_eq_false.mpr fun b hb => by simpa using List.all_eq_true.mp hfirst b hb
  have hqueues : (s.core.ctx.queues.toList.any fun q => q.any fun st => st.counted && a.after.contains st.id) = false := by
    refine List.any_eq_false.mpr fun q hq => ?_
    rw [Bool.not_eq_true, List.any_eq_false]
    intro st hst hbad
    obtain ⟨hcounted, hafter⟩ := (Bool.and_eq_true ..).mp hbad
    obtain ⟨i, hi, rfl⟩ := List.getElem_of_mem hq
    have hi4 : i < 4 := by simpa using hi
    refine hstreams (BitVec.ofNat 2 i) st ?_ hcounted (List.contains_iff_mem.mp hafter)
    have hidx : (BitVec.ofNat 2 i).toNat = i := by
      rw [BitVec.toNat_ofNat]
      exact Nat.mod_eq_of_lt hi4
    rw [Vector.getElem_toList] at hst
    simpa only [Ctx.queue, hidx] using hst
  have hwaits : s.core.taccWaits k a = false := by rw [Core.taccWaits, hno, hqueues] <;> rfl
  have hrun : exec (.tileAccessPerform k) s = execTileAccessPerform k s := rfl
  rw [hrun, execTileAccessPerform, hk]
  exact congrArg Host.Outcome.next (if_neg (ne_true_of_eq_false hwaits))

theorem rowArrival_fetches {q : BitVec 2} {st : Stream}
    (hnext : nextFetch ((s.core.ctx.queue q).filter fun st => !s.core.ctx.landingFailed st.id) = some st)
    (hone : waitingFirst ((s.core.ctx.queue q).filter fun st => !s.core.ctx.landingFailed st.id) = none) :
    s.rowArrival q = s.fetchStream q st := by
  simp only [State.rowArrival, hnext, hone]

/-- A core that does not tick gives up its pins on the page that moves. -/
theorem pinDrop_one {q : BitVec 2} {va since : Nat} {to_ : Option Nat} {p : Mapping} (hfrozen : s.core.freeze ≠ 0#4)
    (hmoves : s.moves = [(s.core.space, va, to_, since)]) (hp : s.mappingOf s.core.space va = some p)
    (hno : ∀ c ∈ s.cores, ∀ e ∈ c.fifo, ∀ len, e.op ≠ .cacheinv len) :
    s.pinDrop q = s.onCore fun c => c.onCtx fun x => x.dropPins q p.va p.size := by
  have hwaits : s.pinWaits = [(s.core.space, p.va, p.size, since)] := by
    rw [State.pinWaits, hmoves, List.filterMap_cons, List.filterMap_nil, hp]
    refine congrArg (_ :: ·) (List.flatMap_eq_nil_iff.mpr fun c hc => List.filterMap_eq_nil_iff.mpr fun e he => ?_)
    split
    · next len _ _ _ hop _ => exact absurd hop (hno c hc e he len)
    · rfl
  have hdue : s.pinsDue = [(s.core.space, p.va, p.size, since)] := by
    rw [State.pinsDue, hwaits, List.filter_cons, if_pos, List.filter_nil]
    rw [bne_iff_ne.mpr hfrozen, decide_eq_true rfl] <;> rfl
  rw [State.pinDrop, hdue, List.foldl_cons, List.foldl_nil]

end
/-- Settles O52: each event by what its step answers. -/
theorem handleSteps : Obligations.HandleSteps := by
  unfold Obligations.HandleSteps
  intro s
  refine ⟨fun h rest hs => ?_, fun h v vl vr t pa va sa hsound => ?_, fun hd sa va o t0 pc undo rest hs hbound hnone => ?_,
    fun pa key member v n m h sa p t hw hbox hn hst hwait hsound ht => congrArg _ (depositWake_wakes hw hbox hn hst hwait hsound ht),
    fun k a hk hfirst hstreams => exec_tileAccessPerform hk hfirst hstreams,
    fun q st hnext hone => congrArg _ (rowArrival_fetches hnext hone),
    fun q va p to_ since hfrozen hmoves hp hno => congrArg _ (pinDrop_one hfrozen hmoves hp hno)⟩
  · obtain ⟨hdone, hwait, hidle, hfail⟩ := exec_handleStep hs
    exact ⟨hdone, hwait, hidle, fun f hf => ⟨hfail f hf, fun ht => undone_ctx rest ht⟩⟩
  · intro task idx mine only l still ready
    refine ⟨fun ax point low high hop => ?_, fun hp hl hr lost hop hsorted => ?_, fun hop => ?_,
      fun hd susp hop hat hbox hfirst htime hok hvalid hlive hfree => ?_, fun ax hop => ?_⟩
    · intro fits
      rw [hopStep_split hsound hop]
      obtain ⟨hbusy, hnot, hgo⟩ := splitStep_cases (s := s) (h := h) (v := v) (t := t) (ax := ax) (low := low) (high := high) (point := point)
      exact ⟨hbusy, hnot, fun hu hh ht hf => (hgo hu hh ht).1 hf,
        fun hu hh ht hf hlh hil hih => ⟨_, (hgo hu hh ht).2 hf, splitDone_entries hlh hil hih⟩⟩
    · intro a b p quiet siblings
      rw [hopStep_rejoin hsound hop]
      obtain ⟨hbusy, hlost, hnot, hno, hgo⟩ := rejoinStep_cases (s := s) (h := h) (hp := hp) (hl := hl) (hr := hr) (vl := vl) (vr := vr) (lost := lost)
      refine ⟨hbusy, hlost, hnot, hno, fun hq hl' ho ho' hs hlr hpl hpr => ?_⟩
      obtain ⟨honly, hcore, hparent, hlow, hhigh⟩ := rejoined_entries (h := h) hsorted hlr hpl hpr
      obtain ⟨hreg, hleft, hright, hrest⟩ := rejoins_registers (hp := hp) (hl := hl) (hr := hr) (s.rejoined h vl vr).core
        (makeHandle s.handleKey a.parent p.gen p.part)
      exact ⟨_, hgo hq hl' ho ho' hs, onlyEntries_onCore honly _, hparent, hlow, hhigh, hreg, hleft, hright,
        fun k hk hk' hk'' => (hrest k hk hk' hk'').trans (congrArg (fun c : Core => c.ctx.getH k) hcore)⟩
    · rw [hopStep_put hsound hop]
      obtain ⟨hbusy, hnot, hfull, hgo⟩ := putStep_cases (s := s) (h := h) (v := v) (va := va) (pa := pa)
      exact ⟨hbusy, hnot, hfull, fun hu hh hat hbox => ⟨_, hgo hu hh hat hbox, deposited_entries hh.2 hbox⟩⟩
    · rw [hopStep_take hsound hop]
      exact ⟨_, takeStep_takes hat hbox hfirst htime hok hvalid hlive hfree, taken_entries hlive⟩
    · rw [hopStep_info hsound hop]
      exact infoStep_cases
  · refine ⟨_, exec_htakeBoundExpiry hs rfl rfl hbound hnone, ?_, rfl, fun w => ?_⟩
    · simp only [State.onCore, hs, List.tail_cons]
      rfl
    · refine List.mem_filter.trans (and_congr_right fun _ => ?_)
      rw [Bool.not_eq_true', ← Bool.not_eq_true, Bool.and_eq_true, decide_eq_true_eq, beq_iff_eq]
      rfl
end Sys2Proof.Machine
end

section
/-! The perform step of loads, stores, atomics, arrivals, waits, commit lines and QFENCE (R220, R252 to R255, R261, R279 to R281, R284, R285). -/

namespace Sys2Proof.Machine

section
variable {s t : State} {e : Entry}

/-! ### The entry that performs -/

/-- The entry of an id is free to perform, and no commit goes before it. -/
def State.mayPerform (s : State) (e : Entry) (k : Nat) : Prop :=
  (s.core.fifo.find? fun f => f.id == k) = some e ∧ s.entryFree e = true ∧ e.commits = false
    ∧ (s.core.commit.any fun x => x.entry == some e.id) = false

theorem entryPerform_now {k : Nat} (h : s.mayPerform e k) (hr : s.opReady e = true) : s.entryPerform k = s.performNow e := by
  obtain ⟨hfind, hfree, hcommits, hnone⟩ := h
  rw [State.entryPerform, hfind]
  simp only [hfree, hr, hcommits, hnone, Bool.not_true, Bool.or_self, Bool.false_and, Bool.false_eq_true, if_false]

theorem opReady_of_load {size : Nat} (h : e.op = .load size) : s.opReady e = true := by rw [State.opReady, h]
theorem opReady_of_store {bytes : List Byte} (h : e.op = .store bytes) : s.opReady e = true := by rw [State.opReady, h]
theorem opReady_of_arrive {n : BitVec 24} (h : e.op = .arrive n) : s.opReady e = true := by rw [State.opReady, h]
theorem opReady_of_atom {op : AtomOp} {size : Nat} {a b : Word} {rm : RMode} {ftz : Bool} (h : e.op = .atom op size a b rm ftz) :
    s.opReady e = true := by rw [State.opReady, h]

/-- There is nothing to choose of one. -/
theorem choose_one (s : State) : s.choose 1 = (0, s) := by
  rw [State.choose, State.chooseFor, if_pos le_rfl]

/-! ### Views of a state -/

/-- What the order of memory consists of, with the current core. -/
def State.ordered (s : State) : Core × List Host.Cell × List Host.Cell × List HistWrite × List Version × Nat :=
  (s.core, s.mem, s.spm, s.hist, s.versions, s.now)

theorem homeTouch_ordered (pa : Nat) (w : Bool) : (s.homeTouch pa w).ordered = s.ordered := by
  rw [State.homeTouch]
  split
  · rfl
  · split
    · rfl
    · rw [State.l2Touch]; split <;> rfl
    · rw [State.llcTouch]; split <;> rfl

theorem l1Touch_ordered (core pa part : Nat) : (s.l1Touch core pa part).ordered = s.ordered := by
  rw [State.l1Touch]
  split
  · rfl
  · exact homeTouch_ordered ..

theorem sameButChoices_ordered (h : s.sameButChoices t) : t.ordered = s.ordered := by
  rw [State.sameButChoices] at h
  rw [h]
  rfl

theorem readAt_ordered (h : t.ordered = s.ordered) (u pa : Nat) : t.readAt u pa = s.readAt u pa := by
  simp only [State.ordered, Prod.mk.injEq] at h
  obtain ⟨-, hmem, -, hhist, -, -⟩ := h
  rw [State.readAt, State.readAt, hmem, hhist]

theorem ownByte_ordered (h : t.ordered = s.ordered) (m : Mapping) (va : Nat) : t.ownByte e m va = s.ownByte e m va := by
  simp only [State.ordered, Prod.mk.injEq] at h
  obtain ⟨-, -, -, -, hversions, -⟩ := h
  rw [State.ownByte, State.ownByte, State.versionByte, State.versionByte, State.versionOf, State.versionOf, hversions]

/-- The requests, the context, the task and the commit of a core. -/
def Core.requests (c : Core) : List Entry × Ctx × Option Running × Option Commit := (c.fifo, c.ctx, c.task, c.commit)

theorem acquire_requests (c : Core) (scope : Nat) (rels : List (Nat × Nat × Nat)) : (c.acquire scope rels).requests = c.requests := by
  refine foldl_view Core.requests (fun k r => ?_) rels c
  split <;> rfl

theorem noteRead_requests (c : Core) (cls : Nat) (rels : List (Nat × Nat × Nat)) : (c.noteRead cls rels).requests = c.requests := rfl

/-- What a core learns by a read leaves its requests. -/
theorem sees_requests {c d : Core} (h : d.requests = c.requests) (acq : Bool) (scope : Nat) (rels : List (Nat × Nat × Nat)) :
    (if acq then d.acquire scope rels else d).requests = c.requests := by
  split
  · exact (acquire_requests ..).trans h
  · exact h

/-- An answer leaves the queue, and lands where its task is still on the core. -/
theorem deliver_requests {l : Nat} {v : Row} (hl : e.landing = some l) (ht : s.core.task = some e.owner) :
    (s.deliver e v).core.requests = (s.core.fifo.filter fun f => f.id != e.id,
      s.core.ctx.mapLanding l fun r => { r with data := some v }, s.core.task, s.core.commit) := by
  have hrun : (s.deliver e v).core = (if s.core.task = some e.owner then
      (s.dropEntry e).core.onCtx fun x => x.mapLanding l fun r => { r with data := some v } else (s.dropEntry e).core) := by
    rw [State.deliver, hl]
    rfl
  rw [hrun, if_pos ht]
  rfl

/-! ### Loads -/

/-- The bytes of a unit are those of one instant that the core may see, or the task's own. -/
theorem readUnit_reads (e : Entry) (va pa : Nat) (m : Mapping) (n : Nat) : ∃ u,
    s.core.view (pa / 64) ≤ u ∧ u ≤ max (s.core.view (pa / 64)) s.now
      ∧ (s.readUnit e va pa m n).1 = (List.range n).map (fun i => (s.ownByte e m (va + i)).getD (s.readAt u (pa + i)))
      ∧ (s.readUnit e va pa m n).2.mem = s.mem ∧ (s.readUnit e va pa m n).2.spm = s.spm
      ∧ (s.readUnit e va pa m n).2.core.requests = s.core.requests := by
  have h1 : (if m.sync then s else s.l1Touch s.core.id.toNat pa m.space.part).ordered = s.ordered := by
    split
    · rfl
    · exact l1Touch_ordered ..
  rw [State.readUnit]
  generalize (if m.sync then s else s.l1Touch s.core.id.toNat pa m.space.part) = t at h1
  have h2 := sameButChoices_ordered (choose_same t (t.now - t.core.view (pa / 64) + 1))
  have hk := chooseFor_lt t t.core.space.part t.core.id.toNat (Nat.succ_pos (t.now - t.core.view (pa / 64)))
  rw [← State.choose] at hk
  generalize t.choose (t.now - t.core.view (pa / 64) + 1) = x at h2 hk
  obtain ⟨k, w⟩ := x
  have h3 : w.ordered = s.ordered := h2.trans h1
  have hown : ∀ i, w.ownByte e m (va + i) = s.ownByte e m (va + i) := fun i => ownByte_ordered h3 m _
  have hread : ∀ u i, w.readAt u (pa + i) = s.readAt u (pa + i) := fun u i => readAt_ordered h3 u _
  simp only [State.ordered, Prod.mk.injEq] at h1 h3
  obtain ⟨hcore, -, -, -, -, hnow⟩ := h1
  obtain ⟨hcore', hmem, hspm, -, -, -⟩ := h3
  rw [hcore, hnow] at hk
  refine ⟨s.core.view (pa / 64) + k, Nat.le_add_right .., ?_, ?_, hmem, hspm, ?_⟩
  · have hk := Nat.lt_succ_iff.mp hk
    omega
  · simp only [hcore, hown, hread]
  · rw [← hcore']
    exact sees_requests rfl _ _ _

/-- A load of one unit reads it and lands. -/
theorem performLoad_unit {size pa l : Nat} {m : Mapping} (hsize : size ≤ 16) (hleft : e.left = [0]) (hpart : e.part = [])
    (hl : e.landing = some l) (ht : s.core.task = some e.owner) (hreach : s.reach e.space e.va (e.access false) ⟨size == 8, false⟩ = .go pa m)
    (hsound : s.unitPoisoned e e.va.toNat pa m size = false) : ∃ u, s.core.view (pa / 64) ≤ u ∧ u ≤ max (s.core.view (pa / 64)) s.now
      ∧ (s.performLoad e size).mem = s.mem ∧ (s.performLoad e size).spm = s.spm
      ∧ (s.performLoad e size).core.requests = (s.core.fifo.filter fun f => f.id != e.id,
        s.core.ctx.mapLanding l fun r => { r with data := some (BitVec.ofNat 16384 (leNat ((List.range size).map fun i =>
          (s.ownByte e m (e.va.toNat + i)).getD (s.readAt u (pa + i))))) }, s.core.task, s.core.commit) := by
  obtain ⟨u, hlow, hhigh, hbytes, hmem, hspm, hreq⟩ := readUnit_reads (s := s) e e.va.toNat pa m size
  have hchoose : s.choose [0].length = (0, s) := choose_one s
  have hrun : s.performLoad e size = (s.readUnit e e.va.toNat pa m size).2.deliver
      { e with left := [], part := [(0, (s.readUnit e e.va.toNat pa m size).1)] }
      (rowFrom (joinParts size [(0, (s.readUnit e e.va.toNat pa m size).1)])) := by
    rw [State.performLoad, hleft, hchoose]
    simp only [List.getElem?_cons_zero, Nat.mul_zero, BitVec.add_zero, hreach, Nat.min_eq_left hsize, hsound, hpart,
      Bool.false_eq_true, if_false]
    rfl
  have hjoin : joinParts size [(0, (s.readUnit e e.va.toNat pa m size).1)] = (s.readUnit e e.va.toNat pa m size).1 := by
    rw [joinParts, if_neg (by omega)]
    simp
  rw [hrun, hjoin]
  simp only [Core.requests, Prod.mk.injEq] at hreq
  obtain ⟨hfifo, hctx, htask, hcommit⟩ := hreq
  refine ⟨u, hlow, hhigh, hmem, hspm, ?_⟩
  rw [deliver_requests (e := { e with left := [], part := [(0, (s.readUnit e e.va.toNat pa m size).1)] }) hl (htask.trans ht),
    hfifo, hctx, htask, hcommit, hbytes, rowFrom]

/-! ### Writes at the home -/

/-- A request of the queue once its wait has been tested against a write. -/
theorem retestEntry_congr (hnow : t.now = s.now) (hmaps : t.maps = s.maps) (pa v : Nat) : t.retestEntry pa v = s.retestEntry pa v := by
  funext e
  rw [State.retestEntry, State.retestEntry, hnow, physOf_maps hmaps]

theorem retestEntry_id (pa v : Nat) (e : Entry) : (s.retestEntry pa v e).id = e.id := by
  rw [State.retestEntry]
  split
  · split <;> rfl
  · rfl

/-- What a write leaves of a state: the current core's requests, the mappings and the scratchpads, in the next instant of its order. -/
def State.written (s t : State) : Prop :=
  t.core.requests = s.core.requests ∧ t.maps = s.maps ∧ t.now = s.now + 1

theorem wroteBy_requests (k : TaskKey) (pa : Nat) : (s.wroteBy k pa).core.requests = s.core.requests := by
  rw [State.wroteBy]
  show (ite _ _ _ : Core).requests = _
  (repeat' split) <;> rfl

theorem write_written (pa : Nat) (bs : List Byte) (atomic : Bool) (rels : List (Nat × Nat × Nat)) : s.written (s.write pa bs atomic rels) := by
  refine ⟨congrArg Core.requests (homeTouch_core s pa true), ?_, rfl⟩
  show (s.homeTouch pa true).maps = s.maps
  rw [(homeTouch_records s pa true).1]

theorem wroteBy_written (h : s.written t) (k : TaskKey) (pa : Nat) : s.written (t.wroteBy k pa) := by
  obtain ⟨hreq, hmaps, hnow⟩ := h
  exact ⟨(wroteBy_requests k pa).trans hreq, hmaps, hnow⟩

theorem retest_fifo (pa : Nat) :
    (s.retest pa).core.requests = (s.core.fifo.map (s.retestEntry pa (leNat (readBytes s.mem pa 8))), s.core.ctx, s.core.task, s.core.commit) :=
  rfl

/-- An entry leaves a queue whose waits have been tested, as it leaves the queue itself. -/
theorem retestEntry_filter (pa v id : Nat) (l : List Entry) :
    (l.map (s.retestEntry pa v)).filter (fun f => f.id != id) = (l.filter fun f => f.id != id).map (s.retestEntry pa v) := by
  rw [List.filter_map]
  congr 1
  refine List.filter_congr fun f _ => ?_
  rw [Function.comp_apply, retestEntry_id]

/-- A write of a task at its home, with the waits on a sync variable tested. -/
def State.homeWrite (s : State) (k : TaskKey) (pa : Nat) (bs : List Byte) (atomic sync : Bool) (rels : List (Nat × Nat × Nat)) : State :=
  let t := (s.write pa bs atomic rels).wroteBy k pa
  if sync then t.retest pa else t

theorem homeWrite_view (k : TaskKey) (pa : Nat) (bs : List Byte) (atomic sync : Bool) (rels : List (Nat × Nat × Nat)) :
    (s.homeWrite k pa bs atomic sync rels).mem = (s.write pa bs atomic rels).mem
      ∧ (s.homeWrite k pa bs atomic sync rels).spm = (s.write pa bs atomic rels).spm
      ∧ (s.homeWrite k pa bs atomic sync rels).now = s.now + 1 := by
  rw [State.homeWrite]
  split <;> exact ⟨rfl, rfl, rfl⟩

theorem homeWrite_requests (k : TaskKey) (pa : Nat) (bs : List Byte) (atomic sync : Bool) (rels : List (Nat × Nat × Nat)) :
    (s.homeWrite k pa bs atomic sync rels).core.requests = (if sync then s.core.fifo.map (({ s with now := s.now + 1 } : State).retestEntry pa
        (leNat (readBytes (s.write pa bs atomic rels).mem pa 8))) else s.core.fifo, s.core.ctx, s.core.task, s.core.commit) := by
  obtain ⟨hreq, hmaps, hnow⟩ := wroteBy_written (write_written (s := s) pa bs atomic rels) k pa
  have htest := fun v => retestEntry_congr (t := (s.write pa bs atomic rels).wroteBy k pa) (s := { s with now := s.now + 1 }) hnow hmaps pa v
  have hmem : ((s.write pa bs atomic rels).wroteBy k pa).mem = (s.write pa bs atomic rels).mem := rfl
  simp only [Core.requests, Prod.mk.injEq] at hreq
  obtain ⟨hfifo, hctx, htask, hcommit⟩ := hreq
  rw [State.homeWrite]
  split
  · rw [retest_fifo, htest, hfifo, hctx, htask, hcommit, hmem]
  · rw [← hfifo, ← hctx, ← htask, ← hcommit]
    rfl

/-- What a write at the home leaves once its request has left the queue. -/
theorem homeWrite_gone (k : TaskKey) (pa : Nat) (bs : List Byte) (atomic sync : Bool) (rels : List (Nat × Nat × Nat)) :
    (s.homeWrite k pa bs atomic sync rels).core.fifo.filter (fun f => f.id != e.id)
      = if sync then (s.core.fifo.filter fun f => f.id != e.id).map (({ s with now := s.now + 1 } : State).retestEntry pa
          (leNat (readBytes (s.write pa bs atomic rels).mem pa 8))) else s.core.fifo.filter fun f => f.id != e.id := by
  have hfifo : (s.homeWrite k pa bs atomic sync rels).core.fifo = _ := congrArg Prod.fst (homeWrite_requests (s := s) k pa bs atomic sync rels)
  rw [hfifo]
  split
  · exact retestEntry_filter ..
  · rfl

/-- A direct store of one unit changes the bytes at its address, and leaves its queue. -/
theorem performStore_direct {bytes : List Byte} {pa : Nat} {m : Mapping} (hm : Memory.wf s.mem) (hlen : bytes.length ≤ 16)
    (hleft : e.left = [0]) (hcls : 8 ≤ e.cls.toNat) (hreach : s.reach e.space e.va (e.access true) ⟨bytes.length == 8, false⟩ = .go pa m) :
    readBytes (s.performStore e bytes).mem pa bytes.length = bytes ∧ s.sameBytesBut (s.performStore e bytes) pa bytes.length
      ∧ (s.performStore e bytes).core.fifo = (if m.sync then (s.core.fifo.filter fun f => f.id != e.id).map
          (({ s with now := s.now + 1 } : State).retestEntry pa (leNat (readBytes (s.performStore e bytes).mem pa 8)))
        else s.core.fifo.filter fun f => f.id != e.id)
      ∧ (s.performStore e bytes).core.ctx = s.core.ctx ∧ (s.performStore e bytes).now = s.now + 1 := by
  have htake : (bytes.drop (16 * 0)).take 16 = bytes := List.take_of_length_le hlen
  have hchoose : s.choose [0].length = (0, s) := choose_one s
  have hrun : ∃ rels, s.performStore e bytes = (if ({ e with left := [] } : Entry).fillsLine bytes e.va
      then (s.homeWrite e.owner.key pa bytes false m.sync rels).cleanLine pa
      else s.homeWrite e.owner.key pa bytes false m.sync rels).dropEntry e := by
    refine ⟨s.core.relsOf e.cls.toNat (if e.rel then some e.scope.toNat else none) (s.now + 1), ?_⟩
    rw [State.performStore, hleft, hchoose]
    simp only [List.getElem?_cons_zero, Nat.not_lt.mpr hcls, decide_false, Bool.false_and, Bool.false_eq_true, if_false, Nat.mul_zero,
      BitVec.add_zero]
    rw [State.performDirect, hreach, hleft]
    simp only [htake]
    rfl
  obtain ⟨rels, hrun⟩ := hrun
  have hclean : s.performStore e bytes = ({ s.homeWrite e.owner.key pa bytes false m.sync rels with
      poison := (s.performStore e bytes).poison } : State).dropEntry e := by
    rw [hrun]
    split <;> rfl
  obtain ⟨hmem, hspm, hnow⟩ := homeWrite_view (s := s) e.owner.key pa bytes false m.sync rels
  have hreq := homeWrite_requests (s := s) e.owner.key pa bytes false m.sync rels
  have hgone := homeWrite_gone (s := s) (e := e) e.owner.key pa bytes false m.sync rels
  obtain ⟨hread, hrest⟩ := write_bytes s pa bytes false rels hm
  have hmem' : (s.performStore e bytes).mem = (s.write pa bytes false rels).mem := by
    rw [hclean]
    exact hmem
  refine ⟨by rw [hmem', hread], ⟨fun a ha => by rw [hmem', hrest.1 a ha], fun a => ?_⟩, ?_, ?_, ?_⟩
  · rw [hclean, ← hrest.2 a, ← hspm]
    rfl
  · rw [hmem', ← hgone, hclean]
    rfl
  · rw [hclean]
    exact congrArg (fun r => r.2.1) hreq
  · rw [hclean]
    exact hnow

/-- An atomic of one word replaces it, and delivers the old one. -/
theorem performAtomic_word {op : AtomOp} {size pa l : Nat} {a b : Word} {rm : RMode} {ftz : Bool} {m : Mapping} (hm : Memory.wf s.mem)
    (hl : e.landing = some l) (ht : s.core.task = some e.owner) (hreach : s.reach e.space e.va (e.access true) ⟨size == 8, false⟩ = .go pa m)
    (hsound : s.poisoned pa size = false) {t : State} (hrun : s.performAtomic e op size a b rm ftz = t) :
    t.core.fifo = (if m.sync then (s.core.fifo.filter fun f => f.id != e.id).map
        (({ s with now := s.now + 1 } : State).retestEntry pa (leNat (readBytes t.mem pa 8))) else s.core.fifo.filter fun f => f.id != e.id)
      ∧ s.sameBytesBut t pa size
      ∧ readBytes t.mem pa size = leBytes size (atomNew op size rm ftz (leNat (readBytes s.mem pa size)) (a.toNat % 2 ^ (8 * size))
          (b.toNat % 2 ^ (8 * size))).1
      ∧ t.core.ctx = s.core.ctx.mapLanding l fun r => { r with data := some (BitVec.ofNat 16384 (leNat (readBytes s.mem pa size))) } := by
  have hshape : ∃ rels chain, s.performAtomic e op size a b rm ftz = ((s.homeWrite e.owner.key pa (leBytes size (atomNew op size rm ftz
      (leNat (readBytes s.mem pa size)) (a.toNat % 2 ^ (8 * size)) (b.toNat % 2 ^ (8 * size))).1) true m.sync rels).onCore fun c =>
        if e.acq then (c.noteRead e.cls.toNat chain).acquire e.scope.toNat chain else c.noteRead e.cls.toNat chain).deliver e
          (BitVec.ofNat 16384 (leNat (readBytes s.mem pa size))) := by
    refine ⟨(s.core.relsOf e.cls.toNat (if e.rel then some e.scope.toNat else none) (s.now + 1) ++ s.relsAt pa size).dedup, s.relsAt pa size, ?_⟩
    rw [State.performAtomic, hreach]
    simp only [hsound, Bool.false_eq_true, if_false]
    rfl
  obtain ⟨rels, chain, hshape⟩ := hshape
  rw [hrun] at hshape
  generalize (atomNew op size rm ftz (leNat (readBytes s.mem pa size)) (a.toNat % 2 ^ (8 * size)) (b.toNat % 2 ^ (8 * size))).1 = new at *
  obtain ⟨hmem, hspm, -⟩ := homeWrite_view (s := s) e.owner.key pa (leBytes size new) true m.sync rels
  have hreq := homeWrite_requests (s := s) e.owner.key pa (leBytes size new) true m.sync rels
  have hgone := homeWrite_gone (s := s) (e := e) e.owner.key pa (leBytes size new) true m.sync rels
  obtain ⟨hread, hrest⟩ := write_bytes s pa (leBytes size new) true rels hm
  rw [leBytes_length] at hread hrest
  generalize s.homeWrite e.owner.key pa (leBytes size new) true m.sync rels = w at hshape hmem hspm hreq hgone
  have hsee := sees_requests (c := w.core) (noteRead_requests w.core e.cls.toNat chain) e.acq e.scope.toNat chain
  have hmem' : t.mem = (s.write pa (leBytes size new) true rels).mem := by
    rw [hshape]
    exact hmem
  simp only [Core.requests, Prod.mk.injEq] at hsee hreq
  obtain ⟨hfifo, hctx, htask, -⟩ := hsee
  obtain ⟨-, hctx', htask', -⟩ := hreq
  have hdeliver := deliver_requests (s := w.onCore fun c =>
      if e.acq then (c.noteRead e.cls.toNat chain).acquire e.scope.toNat chain else c.noteRead e.cls.toNat chain)
    (v := BitVec.ofNat 16384 (leNat (readBytes s.mem pa size))) hl (htask.trans (htask'.trans ht))
  rw [← hshape] at hdeliver
  simp only [Core.requests, Prod.mk.injEq] at hdeliver
  obtain ⟨hfifo', hctx'', -, -⟩ := hdeliver
  refine ⟨?_, ⟨fun x hx => by rw [hmem', hrest.1 x hx], fun x => ?_⟩, by rw [hmem', hread], ?_⟩
  · rw [hmem', ← hgone, hfifo']
    exact congrArg (List.filter fun f => f.id != e.id) hfifo
  · rw [hshape, ← hrest.2 x, ← hspm]
    rfl
  · rw [hctx'', ← hctx', ← hctx]
    rfl

/-- An arrival counts on its variable, tests the waits on it and leaves its queue. -/
theorem performArrive_counts {n : BitVec 24} {pa : Nat} {m : Mapping} (hm : Memory.wf s.mem)
    (hreach : s.reach e.space e.va (e.access true) ⟨true, true⟩ = .go pa m) {t : State} (hrun : s.performArrive e n = t) :
    t.core.fifo = (s.core.fifo.filter fun f => f.id != e.id).map
        (({ s with now := s.now + 1 } : State).retestEntry pa (leNat (readBytes t.mem pa 8)))
      ∧ t.core.ctx = s.core.ctx ∧ s.sameBytesBut t pa 8
      ∧ readBytes t.mem pa 8 = leBytes 8 (arriveNew (leNat (readBytes s.mem pa 8)) n.toNat) := by
  have hshape : ∃ rels, t = ((s.arriveAt pa n.toNat rels).wroteBy e.owner.key pa).dropEntry e := by
    refine ⟨fun u => s.core.relsOf e.cls.toNat (if e.rel then some e.scope.toNat else none) u, ?_⟩
    rw [← hrun, State.performArrive, hreach]
  obtain ⟨rels, hshape⟩ := hshape
  obtain ⟨hrest, hread⟩ := arriveAt_bytes s pa n.toNat rels hm
  have hbase := write_written (s := s) pa (leBytes 8 (arriveNew (leNat (readBytes s.mem pa 8)) n.toNat)) true
    ((rels (s.now + 1) ++ s.relsAt pa 8).dedup)
  have harrive : s.arriveAt pa n.toNat rels = (s.write pa (leBytes 8 (arriveNew (leNat (readBytes s.mem pa 8)) n.toNat)) true
    ((rels (s.now + 1) ++ s.relsAt pa 8).dedup)).retest pa := rfl
  have hmem : t.mem = (s.arriveAt pa n.toNat rels).mem := by rw [hshape]; rfl
  have hspm : t.spm = (s.arriveAt pa n.toNat rels).spm := by rw [hshape]; rfl
  have hreq := wroteBy_requests (s := s.arriveAt pa n.toNat rels) e.owner.key pa
  have hretest : (s.arriveAt pa n.toNat rels).core.requests = (s.core.fifo.map (({ s with now := s.now + 1 } : State).retestEntry pa
      (leNat (readBytes (s.arriveAt pa n.toNat rels).mem pa 8))), s.core.ctx, s.core.task, s.core.commit) := by
    have hmem' : (s.arriveAt pa n.toNat rels).mem = (s.write pa (leBytes 8 (arriveNew (leNat (readBytes s.mem pa 8)) n.toNat)) true
      ((rels (s.now + 1) ++ s.relsAt pa 8).dedup)).mem := rfl
    rw [hmem', harrive, retest_fifo]
    generalize s.write pa (leBytes 8 (arriveNew (leNat (readBytes s.mem pa 8)) n.toNat)) true
      ((rels (s.now + 1) ++ s.relsAt pa 8).dedup) = w at hbase
    obtain ⟨hreq', hmaps, hnow⟩ := hbase
    simp only [Core.requests, Prod.mk.injEq] at hreq'
    obtain ⟨hfifo, hctx, htask, hcommit⟩ := hreq'
    rw [retestEntry_congr (t := w) (s := { s with now := s.now + 1 }) hnow hmaps, hfifo, hctx, htask, hcommit]
  rw [hretest] at hreq
  simp only [Core.requests, Prod.mk.injEq] at hreq
  obtain ⟨hfifo, hctx, -, -⟩ := hreq
  refine ⟨?_, ?_, ⟨fun x hx => by rw [hmem, hrest.1 x hx], fun x => by rw [hspm, hrest.2 x]⟩, by rw [hmem, hread]⟩
  · rw [hmem, ← retestEntry_filter, ← hfifo, hshape]
    rfl
  · rw [← hctx, hshape]
    rfl

/-! ### Versions -/

theorem find?_putPair (l : List (Nat × Byte)) (a c : Nat) (b : Byte) :
    (putPair l a b).find? (fun p => p.1 == c) = if a = c then some (a, b) else l.find? fun p => p.1 == c := by
  induction l with
  | nil => by_cases h : a = c <;> simp [putPair, h]
  | cons p l ih =>
    obtain ⟨k, v⟩ := p
    rw [putPair]
    split
    · by_cases h : a = c <;> simp [h]
    · split
      · next hak =>
        subst hak
        by_cases h : a = c <;> simp [h]
      · next hak =>
        rw [List.find?_cons, List.find?_cons, ih]
        by_cases h : a = c
        · have hk : (k == c) = false := by simpa [h] using fun hkc : k = c => hak (h.trans hkc.symm)
          rw [hk, if_pos h]
        · rw [if_neg h, if_neg h]

/-- Bytes put at an address are found from there on, and what stood elsewhere is still found. -/
theorem find?_putPairs (l : List (Nat × Byte)) (a c : Nat) (bs : List Byte) :
    ((putPairs l a bs).find? fun p => p.1 == c).map Prod.snd
      = if c < a then (l.find? fun p => p.1 == c).map Prod.snd else
        (bs[c - a]?).or ((l.find? fun p => p.1 == c).map Prod.snd) := by
  induction bs generalizing l a with
  | nil => rw [putPairs, List.getElem?_nil, Option.none_or, ite_self]
  | cons b bs ih =>
    rw [putPairs, ih, find?_putPair]
    rcases lt_trichotomy c a with h | h | h
    · rw [if_pos (by omega), if_neg (by omega), if_pos h]
    · subst h
      rw [if_pos (by omega), if_pos rfl, if_neg (by omega), Nat.sub_self, List.getElem?_cons_zero]
      rfl
    · rw [if_neg (by omega), if_neg (by omega), if_neg (by omega), show c - a = (c - (a + 1)) + 1 by omega, List.getElem?_cons_succ]

theorem versionOf_setVersion (k : TaskKey) (bytes : List (Nat × Byte)) : (s.setVersion k bytes).versionOf k = bytes := by
  rw [State.versionOf, State.setVersion]
  by_cases h : bytes = []
  · have hnone : (s.versions.filter fun v => v.key != k).find? (fun v => v.key == k) = none :=
      List.find?_eq_none.mpr fun v hv => by simpa using (List.mem_filter.mp hv).2
    simp only [h, if_true, List.nil_append, hnone]
  · simp only [h, if_false, List.cons_append, List.nil_append, List.find?_cons, BEq.rfl]

/-- A change of a version's other fields leaves its bytes. -/
theorem versionOf_map {f : Version → Version} (hkey : ∀ v, (f v).key = v.key) (hbytes : ∀ v, (f v).bytes = v.bytes) (k : TaskKey) :
    ({ s with versions := s.versions.map f } : State).versionOf k = s.versionOf k := by
  have hfind : (s.versions.map f).find? (fun v => v.key == k) = (s.versions.find? fun v => v.key == k).map f := by
    rw [List.find?_map]
    simp only [Function.comp_def, hkey]
  rw [State.versionOf, State.versionOf]
  simp only [hfind]
  cases s.versions.find? fun v => v.key == k with
  | none => rfl
  | some v => exact hbytes v

theorem versionOf_putVersion (k : TaskKey) (va : Nat) (bs : List Byte) (rels : List (Nat × Nat × Nat)) :
    (s.putVersion k va bs rels).versionOf k = putPairs (s.versionOf k) va bs := by
  rw [State.putVersion]
  refine (versionOf_map (fun v => ?_) (fun v => ?_) k).trans (versionOf_setVersion ..)
  all_goals split <;> rfl

theorem onSync_of_reach {u : SyncUse} {a : Access} {pa : Nat} {m : Mapping} (h : s.reach e.space e.va a u = .go pa m) :
    s.onSync e e.va = m.sync := by
  rw [State.reach] at h
  rw [State.onSync]
  split at h
  · exact absurd h (by simp)
  · cases hm : s.mappingOf e.space e.va.toNat with
    | none =>
      rw [hm] at h
      exact absurd h (by simp)
    | some m' =>
      rw [hm] at h
      simp only at h
      split at h
      · exact absurd h (by simp)
      · split at h
        · split at h
          · cases h
            rfl
          · exact absurd h (by simp)
        · exact absurd h (by simp)

/-- A store of one unit that has room in the version of its task enters it. -/
theorem performStore_versioned {bytes : List Byte} {pa : Nat} {m : Mapping} (hlen : bytes.length ≤ 16) (hleft : e.left = [0])
    (hcls : e.cls.toNat < 8) (hrel : e.rel = false) (hsync : m.sync = false)
    (hreach : s.reach e.space e.va (e.access true) ⟨false, false⟩ = .go pa m) (hroom : s.storeOverflows e bytes 0 = false) :
    ∃ rels, s.performStore e bytes = (s.putVersion e.owner.key e.va.toNat bytes rels).dropEntry { e with left := [], done := false } := by
  have htake : (bytes.drop (16 * 0)).take 16 = bytes := List.take_of_length_le hlen
  have hchoose : s.choose [0].length = (0, s) := choose_one s
  refine ⟨s.core.relsOf e.cls.toNat none s.now, ?_⟩
  rw [State.performStore, hleft, hchoose]
  simp only [List.getElem?_cons_zero, hcls, decide_true, hrel, Bool.not_false, Bool.true_and, Nat.mul_zero, BitVec.add_zero,
    onSync_of_reach hreach, hsync, if_true]
  rw [State.performVersioned, hreach]
  simp only [hroom, Bool.false_eq_true, if_false]
  rw [State.enterVersion, hleft, htake]
  rfl

/-! ### Waits, commit lines and QFENCE -/

theorem exec_waitvSatisfied {k : Nat} {cond : Word} (hk : k < nodeWaitBase) (hfind : (s.core.fifo.find? fun f => f.id == k) = some e)
    (hop : e.op = .wait cond) (hfresh : e.fresh = false) : exec (.waitvSatisfied k) s = .next (s.performWait e cond false) := by
  show Host.Outcome.next _ = Host.Outcome.next _
  rw [if_neg (Nat.not_le.mpr hk), hfind]
  simp only [hop, hfresh, Bool.false_eq_true, if_false]

/-- A wait whose variable can be read ends with the value of a write since its test, or with the value that makes its condition hold. -/
theorem performWait_ends {cond : Word} {pa : Nat} {m : Mapping} (hreach : s.reach e.space e.va (e.access false) ⟨true, true⟩ = .go pa m)
    (hsound : s.poisoned pa 8 = false) :
    (e.part = [] → waitHolds cond (leNat (readBytes s.mem pa 8)) = true → s.performWait e cond false = s.endWait e pa)
      ∧ ∀ u bs rest, e.part = (u, bs) :: rest → s.performWait e cond false = s.endWaitAt e pa u (leNat bs) := by
  have hrun : s.performWait e cond false = match e.part with
      | (u, bs) :: _ => s.endWaitAt e pa u (leNat bs)
      | [] => if waitHolds cond (leNat (readBytes s.mem pa 8)) then s.endWait e pa else s.setEntryRec { e with fresh := false } := by
    rw [State.performWait, hreach]
    simp only [hsound, Bool.false_eq_true, if_false, Bool.false_or] <;> rfl
  refine ⟨fun hpart hcond => ?_, fun u bs rest hpart => ?_⟩ <;> rw [hrun, hpart]
  exact if_pos hcond

/-- A line of a commit writes its bytes and no others, and leaves the commit. -/
theorem commitStep_line {x : Commit} {line k pa : Nat} {n : Node} {m : Mapping} (hx : s.core.commit = some x) (hk : x.lines[k]? = some line)
    (hn : s.nodeOfKey x.key = some n)
    (hat : s.xlate ⟨x.key.part, n.vdev⟩ (BitVec.ofNat 64 (line * 64)) ⟨true, true, false, false, true⟩ = .at_ pa m)
    (hsound : ((s.versionBad x.key).any fun w => w / 8 == line) = false) (hline : lineBytes (s.versionOf x.key) line ≠ []) :
    s.sameBytesBut (s.commitStep k) pa 64
      ∧ (s.commitStep k).core.commit = some { x with
          lines := if x.lines.eraseIdx k = [] then linesOf ((s.versionOf x.key).filter fun p => p.1 / 64 != line) else x.lines.eraseIdx k }
      ∧ (s.commitStep k).mem = writeCells s.mem ((lineBytes (s.versionOf x.key) line).map fun p => (pa + p.1 % 64, p.2)) := by
  have hrun : ∃ w : State, w.mem = writeCells s.mem ((lineBytes (s.versionOf x.key) line).map fun p => (pa + p.1 % 64, p.2))
      ∧ w.spm = s.spm ∧ w.versionOf x.key = (s.versionOf x.key).filter (fun p => p.1 / 64 != line)
      ∧ s.commitStep k = w.onCore fun c => { c with commit := some { x with
          lines := if x.lines.eraseIdx k = [] then linesOf (w.versionOf x.key) else x.lines.eraseIdx k } } := by
    let w := (s.writeMasked pa (lineBytes (s.versionOf x.key) line) (s.byteRels x.key)).setVersion x.key
      ((s.versionOf x.key).filter fun p => p.1 / 64 != line)
    refine ⟨(w.coresOf x.key fun c => c.wrote pa w.now).tally x.key.part 15 0 1, rfl, ?_, ?_, ?_⟩
    · show (s.homeTouch pa true).spm = s.spm
      exact records_spm (homeTouch_records s pa true)
    · exact versionOf_setVersion ..
    · rw [State.commitStep, hx]
      simp only [hk, hn, hline, hsound, Bool.false_eq_true, if_false, hat]
      rfl
  obtain ⟨w, hmem, hspm, hversion, hrun⟩ := hrun
  rw [hrun, ← hversion]
  refine ⟨⟨fun a ha => ?_, fun a => ?_⟩, rfl, hmem⟩
  · show readByte w.mem a = _
    rw [hmem]
    refine readByte_writeCells_outside fun p hp => ?_
    obtain ⟨q, -, rfl⟩ := List.mem_map.mp hp
    show pa + q.1 % 64 ≠ a
    have hmod := Nat.mod_lt q.1 (show 0 < 64 by decide)
    omega
  · show readByte w.spm a = _
    rw [hspm]

/-- A QFENCE that heads each of its queues leaves them. -/
theorem qfenceLeave_leaves {q : BitVec 3} {mask : BitVec 8} {id : Nat} (hq : (s.core.equeues[q.toNat]'q.isLt).head? = some (.qfence mask id))
    (hall : ∀ j : Fin 8, mask.getLsbD j.val = true → s.core.equeues[j].head? = some (.qfence mask id)) :
    s.qfenceLeave q = s.onCore fun c => { c with
      equeues := Vector.ofFn fun j : Fin 8 => if mask.getLsbD j.val then c.equeues[j].tail else c.equeues[j] } := by
  have hheads : ((List.range 8).all fun j => !mask.getLsbD j || decide ((s.core.equeues.toList.getD j []).head? = some (.qfence mask id)))
      = true := by
    refine List.all_eq_true.mpr fun j hj => ?_
    have hj : j < 8 := List.mem_range.mp hj
    cases hb : mask.getLsbD j with
    | false => rfl
    | true =>
      have hget : s.core.equeues.toList.getD j [] = s.core.equeues[j] := by
        rw [List.getD_eq_getElem?_getD, Vector.getElem?_toList, Vector.getElem?_eq_getElem hj, Option.getD_some]
      rw [hget]
      exact decide_eq_true (hall ⟨j, hj⟩ hb)
  rw [State.qfenceLeave, hq]
  simp only [hheads, if_true]
  rfl

end

/-- Settles O50: each request performs by the rule of its operation, and the queue, the landings and the bytes are read off it. -/
theorem accessesPerform : Obligations.AccessesPerform := by
  unfold Obligations.AccessesPerform
  intro s e k pa m hs
  refine ⟨fun size l hqueued hop hsize hleft hpart hl ht hreach hsound => ?_, fun bytes hqueued hop hlen hleft hcls hreach => ?_,
    fun bytes hqueued hop hlen hleft hcls hrel hsync hreach hroom => ?_,
    fun op size a b rm ftz l hqueued hop _ hl ht hreach hsound => ?_, fun n hqueued hop hreach => ?_,
    fun cond hk hfind hop hfresh hreach hsound => ?_, fun x line n hx hk hn hat hsound hline => ?_, fun q mask id hq hall => ?_⟩
  · obtain ⟨u, hlow, hhigh, hmem, hspm, hreq⟩ := performLoad_unit hsize hleft hpart hl ht hreach hsound
    have hrun : s.entryPerform k = s.performLoad e size :=
      (entryPerform_now hqueued (opReady_of_load hop)).trans (by rw [State.performNow, hop])
    simp only [Core.requests, Prod.mk.injEq] at hreq
    obtain ⟨hfifo, hctx, -, -⟩ := hreq
    exact ⟨s.performLoad e size, u, congrArg Host.Outcome.next hrun, hlow, hhigh, hmem, hspm, hfifo, hctx⟩
  · have hrun : s.entryPerform k = s.performStore e bytes :=
      (entryPerform_now hqueued (opReady_of_store hop)).trans (by rw [State.performNow, hop])
    exact ⟨s.performStore e bytes, congrArg Host.Outcome.next hrun, performStore_direct hs.1 hlen hleft hcls hreach⟩
  · have hrun : s.entryPerform k = s.performStore e bytes :=
      (entryPerform_now hqueued (opReady_of_store hop)).trans (by rw [State.performNow, hop])
    obtain ⟨rels, hput⟩ := performStore_versioned hlen hleft hcls hrel hsync hreach hroom
    have hbyte : ∀ a, ((s.putVersion e.owner.key e.va.toNat bytes rels).dropEntry { e with left := [], done := false }).versionByte
        e.owner.key a = if a < e.va.toNat then s.versionByte e.owner.key a
          else (bytes[a - e.va.toNat]?).or (s.versionByte e.owner.key a) := fun a => by
      rw [State.versionByte, State.versionByte, ← find?_putPairs, ← versionOf_putVersion (s := s) e.owner.key e.va.toNat bytes rels]
      rfl
    refine ⟨_, congrArg Host.Outcome.next (hrun.trans hput), rfl, rfl, rfl, rfl, rfl, fun i b hi => ?_, fun a ha => ?_⟩
    · rw [hbyte, if_neg (by omega), Nat.add_sub_cancel_left, hi, Option.some_or]
    · rw [hbyte]
      rcases ha with ha | ha
      · rw [if_pos ha]
      · rw [if_neg (by omega), List.getElem?_eq_none (by omega), Option.none_or]
  · have hrun : s.entryPerform k = s.performAtomic e op size a b rm ftz :=
      (entryPerform_now hqueued (opReady_of_atom hop)).trans (by rw [State.performNow, hop])
    exact ⟨s.performAtomic e op size a b rm ftz, congrArg Host.Outcome.next hrun, performAtomic_word hs.1 hl ht hreach hsound rfl⟩
  · have hrun : s.entryPerform k = s.performArrive e n :=
      (entryPerform_now hqueued (opReady_of_arrive hop)).trans (by rw [State.performNow, hop])
    exact ⟨s.performArrive e n, congrArg Host.Outcome.next hrun, performArrive_counts hs.1 hreach rfl⟩
  · rw [exec_waitvSatisfied hk hfind hop hfresh]
    obtain ⟨hnow, hsince⟩ := performWait_ends (cond := cond) hreach hsound
    exact ⟨fun hpart hcond => congrArg Host.Outcome.next (hnow hpart hcond),
      fun u bs rest hpart => congrArg Host.Outcome.next (hsince u bs rest hpart)⟩
  · exact ⟨s.commitStep k, rfl, commitStep_line hx hk hn hat hsound hline⟩
  · exact congrArg Host.Outcome.next (qfenceLeave_leaves hq hall)

end Sys2Proof.Machine
end

section
/-! Copy engines, copy nodes, peers and their answers, and a host's own accesses (R258, R259, R288, R290, R348, R415). -/

namespace Sys2Proof.Machine

section
variable {s t : State} {e : Engine} {cp : Copy}

/-! ### What records leave -/

theorem copyPlace_records (h : s.records t) (write : Bool) (done a : Nat) :
    t.copyPlace e cp write done a = s.copyPlace e cp write done a := by
  rw [h.1]
  rfl

theorem reads_records (s : State) (ls : List Nat) : s.records (ls.foldl (fun s l => s.homeTouch (l * 64) false) s) :=
  List.foldlRecOn ls (motive := fun t => s.records t) (fun s l => s.homeTouch (l * 64) false) (records_refl s)
    fun _ ht l _ => records_trans ht (homeTouch_records _ (l * 64) false)

/-- Reads at their home change no byte. -/
theorem reads_mem (s : State) (ls : List Nat) : (ls.foldl (fun s l => s.homeTouch (l * 64) false) s).mem = s.mem :=
  foldl_view State.mem (f := fun s l => s.homeTouch (l * 64) false) (fun t l => congrArg (fun x => x.2.1) (homeTouch_ordered (s := t) (l * 64) false)) ls s

/-- With no trace of its space a copy emits no record. -/
theorem emitCopy_untraced (h : s.traceOf e.space = none) (c : Copy) (ty : Nat) : s.emitCopy e c ty = s := by
  rw [State.emitCopy, State.emitIf, h]

/-! ### The bytes of a unit -/

theorem firstStop_none {ps : List Place} (h : ∀ p ∈ ps, (∃ k, p = .spm k) ∨ (∃ pa, p = .mem pa) ∨ ∃ m pa, p = .peer m pa) : firstStop ps = none := by
  induction ps with
  | nil => rfl
  | cons p ps ih =>
    have hps := ih fun q hq => h q (List.mem_cons_of_mem _ hq)
    obtain ⟨k, rfl⟩ | ⟨pa, rfl⟩ | ⟨m, pa, rfl⟩ := h p (List.mem_cons_self ..)
    all_goals exact hps

/-- The address that byte `j` of a copy of bytes is read at. -/
def Copy.srcAt (c : Copy) (j : Nat) : Nat := (c.src.toNat + j) % 2 ^ 64

/-- Byte `j` of the copy is `v`: it stands in this module, or its peer has answered it (R288, R348). -/
def State.copyReads (s : State) (e : Engine) (c : Copy) (j : Nat) (v : Byte) : Prop :=
  (∃ pa, s.copyPlace e c false j (c.srcAt j) = .mem pa ∧ s.poisoned pa 1 = false ∧ v = readByte s.mem pa)
  ∨ ∃ m pa, s.copyPlace e c false j (c.srcAt j) = .peer m pa ∧ (c.got.find? fun g => g.1 == c.srcAt j) = some (c.srcAt j, v)

/-- Nothing is to be asked of a peer once its bytes have come. -/
theorem toAsk_none {l : List (Nat × Place)} (h : ∀ p ∈ l, ∀ m pa, p.2 = .peer m pa → (cp.got.any fun g => g.1 == p.1) = true) :
    cp.toAsk l = none := by
  unfold Copy.toAsk
  extract_lets need
  have hneed : need = [] := by
    refine List.filterMap_eq_nil_iff.mpr fun p hp => ?_
    split
    · next m pa hplace => exact if_pos (h p hp m pa hplace)
    · rfl
  rw [hneed]

/-- The engine reads the bytes of a unit that stand in this module or have come from peers. -/
theorem copyGet_reads {moved n : Nat} {b : Nat → Byte} (h : ∀ i, i < n → s.copyReads e cp (moved + i) (b i)) :
    s.copyGet e cp ((List.range n).map fun i => (moved + i, cp.srcAt (moved + i)))
      = .ok ((List.range n).map fun i => (cp.srcAt (moved + i), b i)) := by
  have hstop : firstStop ((((List.range n).map fun i => (moved + i, cp.srcAt (moved + i))).map
      fun x => (x.2, s.copyPlace e cp false x.1 x.2)).map Prod.snd) = none := by
    refine firstStop_none fun p hp => ?_
    simp only [List.map_map, List.mem_map, List.mem_range, Function.comp_apply] at hp
    obtain ⟨i, hi, rfl⟩ := hp
    obtain ⟨pa, hmem, -, -⟩ | ⟨m, pa, hpeer, -⟩ := h i hi
    · exact .inr (.inl ⟨pa, hmem⟩)
    · exact .inr (.inr ⟨m, pa, hpeer⟩)
  have hask : cp.toAsk (((List.range n).map fun i => (moved + i, cp.srcAt (moved + i))).map
      fun x => (x.2, s.copyPlace e cp false x.1 x.2)) = none := by
    refine toAsk_none fun p hp m pa hplace => ?_
    simp only [List.map_map, List.mem_map, List.mem_range, Function.comp_apply] at hp
    obtain ⟨i, hi, rfl⟩ := hp
    obtain ⟨pa', hmem, -, -⟩ | ⟨-, -, -, hgot⟩ := h i hi
    · exact absurd (hmem.symm.trans hplace) (by simp)
    · exact List.any_eq_true.mpr ⟨_, List.mem_of_find?_eq_some hgot, beq_self_eq_true _⟩
  have hsound : ((((List.range n).map fun i => (moved + i, cp.srcAt (moved + i))).map
      fun x => (x.2, s.copyPlace e cp false x.1 x.2)).any fun p => s.placePoisoned p.2) = false := by
    refine List.any_eq_false.mpr fun p hp => ?_
    simp only [List.map_map, List.mem_map, List.mem_range, Function.comp_apply] at hp
    obtain ⟨i, hi, rfl⟩ := hp
    obtain ⟨pa, hmem, hp, -⟩ | ⟨m, pa, hpeer, -⟩ := h i hi
    · simp only [hmem, State.placePoisoned, hp, Bool.false_eq_true, not_false_eq_true]
    · simp only [hpeer, State.placePoisoned, Bool.false_eq_true, not_false_eq_true]
  rw [State.copyGet]
  simp only [hstop, hask, hsound, Bool.false_eq_true, if_false]
  congr 1
  rw [List.map_map, List.map_map]
  refine List.map_congr_left fun i hi => ?_
  obtain ⟨pa, hmem, -, hb⟩ | ⟨m, pa, hpeer, hgot⟩ := h i (List.mem_range.mp hi)
  · simp only [Function.comp_apply, hmem, hb, State.placeByte]
    split <;> simp_all
  · simp only [Function.comp_apply, hpeer, hgot]

/-- The bytes of a unit are read at different addresses. -/
theorem srcAt_inj {moved i j : Nat} (hi : i < 16) (hj : j < 16) (h : cp.srcAt (moved + i) = cp.srcAt (moved + j)) : i = j := by
  rw [Copy.srcAt, Copy.srcAt] at h
  omega

theorem gotAt_srcAt {moved n i : Nat} (b : Nat → Byte) (hn : n ≤ 16) (hi : i < n) :
    gotAt ((List.range n).map fun j => (cp.srcAt (moved + j), b j)) (cp.srcAt (moved + i)) = b i := by
  rw [gotAt]
  have hmem : (cp.srcAt (moved + i), b i) ∈ (List.range n).map fun j => (cp.srcAt (moved + j), b j) :=
    List.mem_map.mpr ⟨i, List.mem_range.mpr hi, rfl⟩
  cases hfind : ((List.range n).map fun j => (cp.srcAt (moved + j), b j)).find? fun g => g.1 == cp.srcAt (moved + i) with
  | none => exact absurd (List.find?_eq_none.mp hfind _ hmem) (by simp)
  | some g =>
    obtain ⟨j, hj, rfl⟩ := List.mem_map.mp (List.mem_of_find?_eq_some hfind)
    have hkey := List.find?_some hfind
    have hji := srcAt_inj (by have := List.mem_range.mp hj; omega) (by omega) (eq_of_beq hkey)
    rw [hji]

/-- The addresses of a unit of a copy of bytes. -/
theorem addrs_linear (h : cp.tsr = none) (moved n : Nat) :
    ((List.range n).flatMap fun i => (cp.addrs (moved + i)).map fun a => (moved + i, a))
      = (List.range n).map fun i => (moved + i, cp.srcAt (moved + i)) := by
  have hone : (fun i => (cp.addrs (moved + i)).map fun a => (moved + i, a)) = fun i => [(moved + i, cp.srcAt (moved + i))] := by
    funext i
    rw [Copy.addrs, h]
    rfl
  rw [hone, List.map_eq_flatMap]

/-- A unit whose bytes are known, of a class that writes at the home, is written there. -/
theorem copyUnit_direct {moved dst n : Nat} {b : Nat → Byte} (htsr : cp.tsr = none) (hcls : 8 ≤ cp.cls.toNat)
    (hn : n = min (16 - (cp.dst.toNat + moved) % 2 ^ 64 % 16) (cp.len - moved))
    (hdst : s.copyPlace e cp true moved ((cp.dst.toNat + moved) % 2 ^ 64) = .mem dst)
    (h : ∀ i, i < n → s.copyReads e cp (moved + i) (b i)) :
    ∃ ls : List Nat, s.copyUnit e cp moved = .moved (((((ls.foldl (fun s l => s.homeTouch (l * 64) false) s).write dst ((List.range n).map b) false []).copyClean cp
      moved ((cp.dst.toNat + moved) % 2 ^ 64) dst n)).tally e.owner.key.part 7 0 n) n := by
  have hbytes : (List.range n).map (fun i => cp.byte (moved + i) (gotAt ((List.range n).map fun j => (cp.srcAt (moved + j), b j))))
      = (List.range n).map b := by
    refine List.map_congr_left fun i hi => ?_
    rw [Copy.byte, htsr]
    exact gotAt_srcAt b (by omega) (List.mem_range.mp hi)
  refine ⟨s.copyLines e cp ((List.range n).map fun i => (moved + i, cp.srcAt (moved + i))), ?_⟩
  rw [State.copyUnit]
  simp only [← hn, addrs_linear htsr, copyGet_reads h, hbytes]
  have hplace := (copyPlace_records (e := e) (cp := cp) (reads_records s (s.copyLines e cp
    ((List.range n).map fun i => (moved + i, cp.srcAt (moved + i))))) true moved ((cp.dst.toNat + moved) % 2 ^ 64)).trans hdst
  have hversioned : copyVersioned e cp = false := by
    rw [copyVersioned, decide_eq_false (Nat.not_lt.mpr hcls), Bool.and_false]
  rw [State.copyPut, hplace]
  simp only [hversioned, Bool.false_eq_true, if_false, List.length_map, List.length_range]


/-! ### Traces -/

theorem homeTouch_traces (s : State) (pa : Nat) (write : Bool) : (s.homeTouch pa write).traces = s.traces := by
  rw [State.homeTouch]
  split
  · rfl
  · split
    · rfl
    · rw [State.l2Touch]; split <;> rfl
    · rw [State.llcTouch]; split <;> rfl

theorem traceOf_traces (h : t.traces = s.traces) (sp : Space) : t.traceOf sp = s.traceOf sp := by
  rw [State.traceOf, State.traceOf, h]

theorem reads_traces (s : State) (ls : List Nat) : (ls.foldl (fun s l => s.homeTouch (l * 64) false) s).traces = s.traces :=
  foldl_view State.traces (f := fun s l => s.homeTouch (l * 64) false) (fun t l => homeTouch_traces t (l * 64) false) ls s

theorem write_traces (s : State) (pa : Nat) (bs : List Byte) (atomic : Bool) (rels : List (Nat × Nat × Nat)) :
    (s.write pa bs atomic rels).traces = s.traces := homeTouch_traces s pa true

theorem arriveAt_traces (s : State) (pa n : Nat) (rels : Nat → List (Nat × Nat × Nat)) : (s.arriveAt pa n rels).traces = s.traces := by
  rw [State.arriveAt]
  exact write_traces s pa (leBytes 8 (arriveNew (leNat (readBytes s.mem pa 8)) n)) true ((rels (s.now + 1) ++ s.relsAt pa 8).dedup)

/-! ### The step of a transfer -/

theorem copyClean_records (s : State) (c : Copy) (done va pa n : Nat) : s.records (s.copyClean c done va pa n) := by
  rw [State.copyClean]
  split
  · exact ⟨rfl, id⟩
  · exact records_refl s

theorem copyClean_view (s : State) (c : Copy) (done va pa n : Nat) :
    (s.copyClean c done va pa n).mem = s.mem ∧ (s.copyClean c done va pa n).spm = s.spm ∧ (s.copyClean c done va pa n).traces = s.traces := by
  rw [State.copyClean]
  split <;> exact ⟨rfl, rfl, rfl⟩

/-- A unit that has moved has its bytes at their destination, and leaves the core and the traces. -/
theorem unit_moved (hm : Memory.wf s.mem) (c : Copy) (ls : List Nat) (done va dst part n : Nat) {bs : List Byte} (hn : bs.length = n)
    (ht : (((ls.foldl (fun s l => s.homeTouch (l * 64) false) s).write dst bs false []).copyClean c done va dst n).tally part 7 0 n = t) :
    readBytes t.mem dst n = bs ∧ s.sameBytesBut t dst n ∧ t.core = s.core ∧ t.traces = s.traces := by
  subst hn ht
  have hrec := reads_records s ls
  have hspm := records_spm hrec
  have hmem := reads_mem s ls
  have htr := reads_traces s ls
  generalize ls.foldl (fun s l => s.homeTouch (l * 64) false) s = w at hrec hspm hmem htr
  have hw := write_records w dst bs false []
  have htr' := write_traces w dst bs false []
  obtain ⟨hread, hrest⟩ := write_bytes w dst bs false [] (hrec.2 hm)
  generalize w.write dst bs false [] = u at hw hread hrest htr'
  have hc := copyClean_records u c done va dst bs.length
  obtain ⟨cmem, cspm, ctr⟩ := copyClean_view u c done va dst bs.length
  generalize u.copyClean c done va dst bs.length = v at hc cmem cspm ctr
  refine ⟨?_, ⟨fun a ha => ?_, fun a => ?_⟩, ?_, ?_⟩
  · show readBytes v.mem dst bs.length = bs
    rw [cmem, hread]
  · show readByte v.mem a = _
    rw [cmem, hrest.1 a ha, hmem]
  · show readByte v.spm a = _
    rw [cspm, hrest.2 a, hspm]
  · exact records_core (records_trans (records_trans (records_trans hrec hw) hc) (tally_records v part 7 0 bs.length))
  · exact ctr.trans (htr'.trans htr)

/-- A copy of bytes that waits for no peer moves on. -/
theorem copyStep_linear {moved : Nat} (hpeers : s.peersOf e = []) (ht : cp.tensor = false) : s.copyStep e cp moved = s.moveOn e cp moved := by
  rw [State.copyStep, hpeers, Copy.unread, ht]
  rfl

theorem moveOn_moved {moved n : Nat} (hmore : moved < cp.len) (hunit : s.copyUnit e cp moved = .moved t n) (ht : t.traceOf e.space = none) :
    s.moveOn e cp moved = .ok (t, some ({ cp with got := [], room := false }, moved + n)) := by
  rw [State.moveOn]
  simp only [hmore, if_true, hunit, emitCopy_untraced ht, ite_self]

theorem moveOn_over {moved : Nat} (hover : cp.len ≤ moved) (hpeers : s.peersOf e = []) (htrace : s.traceOf e.space = none)
    (harr : cp.arr = false) : s.moveOn e cp moved = .ok (s, none) := by
  rw [State.moveOn]
  simp only [Nat.not_lt.mpr hover, if_false, hpeers, ne_eq, not_true_eq_false, emitCopy_untraced htrace, ite_self, harr, Bool.false_eq_true]

theorem moveOn_arrives {moved : Nat} (hover : cp.len ≤ moved) (hpeers : s.peersOf e = []) (htrace : s.traceOf e.space = none)
    (harr : cp.arr = true) (hmoved : s.copyArrive e cp = .moved t 0) (ht : t.traceOf e.space = none) : s.moveOn e cp moved = .ok (t, none) := by
  rw [State.moveOn]
  simp only [Nat.not_lt.mpr hover, if_false, hpeers, ne_eq, not_true_eq_false, emitCopy_untraced htrace, ite_self, harr, if_true, hmoved,
    emitCopy_untraced ht]

theorem copyArrive_here {pa : Nat} {m m' : Mapping} (hat : s.xlate e.space cp.arrv ⟨true, true, false, cp.sys, false⟩ = .at_ pa m)
    (hm : s.mappingOf e.space cp.arrv.toNat = some m') (hhere : m'.remote = false)
    (hsync : m'.syncBreach cp.arrv.toNat ⟨true, true⟩ = false) :
    s.copyArrive e cp = .moved (s.arriveAt pa 1 fun u => [(e.core, u, cp.scope.toNat)]) 0 := by
  rw [State.copyArrive, hat]
  simp only [hm, hhere, hsync, Bool.false_eq_true, if_false]

/-! ### The head of a queue -/

section
variable {q : BitVec 3} {moved : Nat} {o : Running} {pc : BitVec 58} {rest : List QEntry}

theorem exec_copyPerform (q : BitVec 3) : exec (.copyPerform q.toNat) s = .next (s.queueStep q) := by
  show Host.Outcome.next _ = _
  rw [if_pos q.isLt, BitVec.ofNat_toNat, BitVec.setWidth_eq]

theorem queueStep_moves {n : Nat} {c : Copy} (hhead : (s.core.equeues[q.toNat]'q.isLt) = .copy cp moved o pc :: rest)
    (hstep : s.copyStep (s.core.engine q o pc) cp moved = .ok (t, some (c, n))) :
    s.queueStep q = t.onCore fun k => k.setHead q (.copy c n o pc :: rest) := by
  rw [State.queueStep, hhead]
  simp only [hstep]

theorem queueStep_ends (hhead : (s.core.equeues[q.toNat]'q.isLt) = .copy cp moved o pc :: rest)
    (hstep : s.copyStep (s.core.engine q o pc) cp moved = .ok (t, none)) : s.queueStep q = t.onCore fun k => k.setHead q rest := by
  rw [State.queueStep, hhead]
  simp only [hstep]

theorem setHead_head (c : Core) (l : List QEntry) : ((c.setHead q l).equeues[q.toNat]'q.isLt) = l := Vector.getElem_set_self ..

/-- The head of a queue moves the next granule of its copy. -/
theorem queueStep_granule (hm : Memory.wf s.mem) (hhead : (s.core.equeues[q.toNat]'q.isLt) = .copy cp moved o pc :: rest)
    (htensor : cp.tensor = false) (htsr : cp.tsr = none) (htrace : s.traceOf (s.core.engine q o pc).space = none)
    (hpeers : s.peersOf (s.core.engine q o pc) = []) (hmore : moved < cp.len) (hcls : 8 ≤ cp.cls.toNat) {dst n : Nat} {b : Nat → Byte}
    (hn : n = min (16 - (cp.dst.toNat + moved) % 2 ^ 64 % 16) (cp.len - moved))
    (hdst : s.copyPlace (s.core.engine q o pc) cp true moved ((cp.dst.toNat + moved) % 2 ^ 64) = .mem dst)
    (h : ∀ i, i < n → s.copyReads (s.core.engine q o pc) cp (moved + i) (b i)) :
    readBytes (s.queueStep q).mem dst n = (List.range n).map b ∧ s.sameBytesBut (s.queueStep q) dst n
      ∧ ((s.queueStep q).core.equeues[q.toNat]'q.isLt) = .copy { cp with got := [], room := false } (moved + n) o pc :: rest
      ∧ (s.queueStep q).core.ctx = s.core.ctx := by
  obtain ⟨ls, hunit⟩ := copyUnit_direct htsr hcls hn hdst h
  have hlen : ((List.range n).map b).length = n := by rw [List.length_map, List.length_range]
  generalize hw : State.tally _ _ 7 0 n = w at hunit
  obtain ⟨hread, hrest, hcore, htraces⟩ := unit_moved hm _ _ _ _ _ _ _ hlen hw
  have hstep := (copyStep_linear hpeers htensor).trans (moveOn_moved hmore hunit ((traceOf_traces htraces _).trans htrace))
  have hctx : w.core.ctx = s.core.ctx := congrArg Core.ctx hcore
  rw [queueStep_moves hhead hstep]
  exact ⟨hread, hrest, setHead_head .., hctx⟩

/-- A copy that has moved its length leaves its queue. -/
theorem queueStep_over (hhead : (s.core.equeues[q.toNat]'q.isLt) = .copy cp moved o pc :: rest)
    (htensor : cp.tensor = false) (htrace : s.traceOf (s.core.engine q o pc).space = none)
    (hpeers : s.peersOf (s.core.engine q o pc) = []) (hover : cp.len ≤ moved) (harr : cp.arr = false) :
    s.queueStep q = s.onCore fun k => k.setHead q rest :=
  queueStep_ends hhead ((copyStep_linear hpeers htensor).trans (moveOn_over hover hpeers htrace harr))

/-- With it the arrival of the copy is counted on its variable. -/
theorem queueStep_arrives (hm : Memory.wf s.mem) (hhead : (s.core.equeues[q.toNat]'q.isLt) = .copy cp moved o pc :: rest)
    (htensor : cp.tensor = false) (htrace : s.traceOf (s.core.engine q o pc).space = none)
    (hpeers : s.peersOf (s.core.engine q o pc) = []) (hover : cp.len ≤ moved) (harr : cp.arr = true) {pa : Nat}
    (hmoved : ∃ rels, s.copyArrive (s.core.engine q o pc) cp = .moved (s.arriveAt pa 1 rels) 0) :
    ((s.queueStep q).core.equeues[q.toNat]'q.isLt) = rest ∧ s.sameBytesBut (s.queueStep q) pa 8
      ∧ readBytes (s.queueStep q).mem pa 8 = leBytes 8 (arriveNew (leNat (readBytes s.mem pa 8)) 1) := by
  obtain ⟨rels, hmoved⟩ := hmoved
  have ht := (traceOf_traces (arriveAt_traces s pa 1 rels) (s.core.engine q o pc).space).trans htrace
  have hstep := (copyStep_linear hpeers htensor).trans (moveOn_arrives hover hpeers htrace harr hmoved ht)
  obtain ⟨hrest, hread⟩ := arriveAt_bytes s pa 1 rels hm
  rw [queueStep_ends hhead hstep]
  exact ⟨setHead_head .., hrest, hread⟩

end


/-! ### Copy nodes -/

/-- A Ready copy node becomes a transfer on the engines of the base die that holds its descriptor. -/
theorem startNode_job {n : Node} {pa : Nat} (h : s.physOf n.space n.addr.toNat = some pa) : ∃ j : Job, (s.startNode n).jobs = s.jobs ++ [j]
    ∧ j.node = some n.addr ∧ j.die = homeDie pa ∧ j.moved = 0 ∧ j.copy = copyOf (readBytes s.mem pa 64) ∧ (s.startNode n).mem = s.mem := by
  rw [State.startNode, h]
  exact ⟨⟨s.nextJob, homeDie pa, copyOf (readBytes s.mem pa 64), 0, ⟨{ n.key with task := 0 }, n.vdev, false, 0#2, false⟩, some n.addr,
    none, n.resume⟩, rfl, rfl, rfl, rfl, rfl, rfl⟩

theorem exec_copyNode {k : Nat} {n : Node} (hk : s.nodes[k]? = some n) (hc : n.copy = true) (hst : n.st = .ready) :
    exec (.copyPerform (nodeCopyBase + k)) s = .next (s.startNode n) := by
  have hbase : ¬ nodeCopyBase + k < 8 := Nat.not_lt.mpr (Nat.le_trans (by decide : 8 ≤ nodeCopyBase) (Nat.le_add_right ..))
  show Host.Outcome.next _ = _
  rw [if_neg hbase, if_pos (Nat.le_add_right ..), Nat.add_sub_cancel_left, hk]
  simp only [hc, hst, BEq.rfl, Bool.and_self, if_true]

/-! ### Answers of peers -/

section
variable {id : Nat} {p : Peer}

theorem find?_id {f : Peer → Bool} (h : (s.peers.find? fun p => p.id == id && f p) = some p) : p.id = id ∧ f p = true := by
  have hp := List.find?_some h
  rw [Bool.and_eq_true] at hp
  exact ⟨eq_of_beq hp.1, hp.2⟩

theorem exec_peerAck (h : (s.peers.find? fun p => p.id == id && !p.read) = some p) : exec (.peerAck id) s = .next (s.peerAcked p) := by
  show Host.Outcome.next _ = _
  rw [h]

/-- A message goes out but in a replay whose messages are checked. -/
theorem sendFrom_unchecked {part : Nat} (m : Msg) (h : ∀ r, s.replayOf part = some r → r.mode ≠ 4) :
    s.sendFrom part m = { s with outbox := s.outbox ++ [m] } := by
  rw [State.sendFrom]
  cases hr : s.replayOf part with
  | none => rfl
  | some r => exact if_neg (by simpa using h r hr)

/-- The last answer to a host's write answers the host. -/
theorem hostTake_write {r : HostReq} (hreqs : s.hostReqs = [r]) (hids : r.ids = [p.id]) (hwrite : r.write = true)
    (hreplay : ∀ l, s.replayOf r.space.part = some l → l.mode ≠ 4) : s.hostTake p [] = { s with
      hostReqs := [], outbox := s.outbox ++ [⟨.part r.space.part, r.tag.port, r.tag.src, .reply r.tag.tag true, []⟩] } := by
  have hhere : r.ids.contains p.id = true := by
    rw [hids]
    exact List.contains_iff_mem.mpr (List.mem_singleton_self _)
  have hfind : s.hostReqs.find? (fun r => r.ids.contains p.id) = some r := by
    rw [hreqs, List.find?_cons_of_pos (p := fun r : HostReq => r.ids.contains p.id) hhere]
  have hids' : r.ids.filter (fun i => i != p.id) = [] := by simp [hids]
  have hgone : s.hostReqs.filter (fun q => !q.ids.contains p.id) = [] := by
    rw [hreqs, List.filter_cons_of_neg (by rw [hhere]; decide), List.filter_nil]
  rw [State.hostTake, hfind]
  simp only [hids', if_true, hgone, hwrite, State.replyHost]
  exact sendFrom_unchecked (s := { s with hostReqs := [] }) _ hreplay

/-- Bytes that a peer has answered are kept at the head of the queue that asked for them. -/
theorem exec_peerReadResponse {bs : List Byte} {moved : Nat} {o : Running} {pc : BitVec 58} {rest : List QEntry}
    (h : (s.peers.find? fun p => p.id == id && p.read) = some p) (hlen : bs.length = p.len) (hcore : p.core = s.core.id.toNat)
    (hmod : p.core < 64) (hhead : (s.core.equeues[p.q.toNat]'p.q.isLt) = .copy cp moved o pc :: rest) :
    ∃ t, exec (.peerReadResponse id bs) s = .next t ∧ t.peers = s.peers.filter (fun r => r.id != id) ∧ s.sameBytes t
      ∧ (t.core.equeues[p.q.toNat]'p.q.isLt) = .copy (cp.take p bs) moved o pc :: rest := by
  obtain ⟨rfl, -⟩ := find?_id (f := Peer.read) h
  have hexec : exec (.peerReadResponse p.id bs) s = .next (s.peerPut p bs) := by
    show Host.Outcome.next _ = _
    rw [h]
    simp only [hlen, if_true]
  refine ⟨_, hexec, ?_, ?_, ?_⟩
  · rw [State.peerPut, if_pos hmod]
    rfl
  · rw [State.peerPut, if_pos hmod]
    exact fun a => ⟨rfl, rfl⟩
  · rw [State.peerPut, if_pos hmod, hcore]
    simp only [State.onCoreId, State.mapCores, State.dropPeer, if_true, hhead]
    exact setHead_head ..

/-- A peer that has not answered in time faults the launch of its transfer. -/
theorem exec_peerTimeout {c : Core} {moved : Nat} {o : Running} {pc : BitVec 58} (h : (s.peers.find? fun p => p.id == id) = some p)
    (hmod : p.core < 64) (hc : s.coreOf p.core = some c)
    (hhead : (c.equeues[p.q.toNat]'p.q.isLt).head? = some (.copy cp moved o pc)) (hwatch : 0 < s.patience o)
    (hlate : p.since + s.patience o ≤ s.time) :
    exec (.peerTimeout id) s = .next ((s.dropPeer id).raiseLater o .timeout 7 pc) := by
  show Host.Outcome.next _ = _
  rw [h]
  simp only [hmod, if_true, hc, hhead, hwatch, hlate, decide_true, Bool.and_self]

theorem raiseLater_here {o : Running} {t : Trap} {slot : Nat} {pc : BitVec 58} (ho : s.core.task = some o) (hnone : s.core.lateFault = none) :
    (s.raiseLater o t slot pc).core.lateFault = some ⟨t, BitVec.ofNat 8 slot, addrOf pc, 0#16, 0#64⟩ := by
  rw [State.raiseLater, if_pos ho]
  show (ite _ _ _ : Core).lateFault = _
  rw [hnone]
  rfl

end

/-- A request for a page changes no byte. -/
theorem askModule_bytes (sp : Space) (va : Nat) : (s.askModule sp va).mem = s.mem ∧ (s.askModule sp va).spm = s.spm := by
  rw [State.askModule, State.askFor]
  (repeat' split) <;> exact ⟨rfl, rfl⟩

/-! ### The arrival of a peer -/

section
variable {sp : Space} {va : Word} {n : BitVec 24}

theorem exec_peerArrival_here {pa : Nat} {m : Mapping} (h : s.xlate sp va ⟨true, true, false, false, false⟩ = .at_ pa m)
    (hsync : m.syncBreach va.toNat ⟨true, true⟩ = false) (hword : va.toNat % 8 = 0) :
    exec (.peerArrival sp va n) s = .next (s.arriveAt pa n.toNat fun u => [(64, u, 4)]) := by
  show Host.Outcome.next _ = _
  rw [h]
  simp only [hsync, hword, bne_self_eq_false, Bool.or_self, Bool.false_eq_true, if_false]

theorem exec_peerArrival_trap {r : Trap} (h : s.xlate sp va ⟨true, true, false, false, false⟩ = .trap r) :
    exec (.peerArrival sp va n) s = .next s := by
  show Host.Outcome.next _ = _
  rw [h]

theorem exec_peerArrival_miss (h : s.xlate sp va ⟨true, true, false, false, false⟩ = .miss) :
    exec (.peerArrival sp va n) s = .next { s.askModule sp va.toNat with inbox := s.inbox ++ [.peerArrival sp va n] } := by
  show Host.Outcome.next _ = _
  rw [h]

end

/-! ### Accesses of a host -/

section
variable {sp : Space} {va : Word} {bs : List Byte} {tag : UetTag} {n : Nat}

theorem exec_hostUetWrite_refused (hs : s.serves sp = true) (h : s.hostReach sp va.toNat true bs.length = .error none) :
    exec (.hostUetWrite sp va bs tag) s = .next (s.replyHost sp tag false []) := by
  show Host.Outcome.next _ = _
  rw [hs, h]
  rfl

theorem exec_hostUetWrite_waits {a : Nat} (hs : s.serves sp = true) (h : s.hostReach sp va.toNat true bs.length = .error (some a)) :
    exec (.hostUetWrite sp va bs tag) s = .next { s.askModule sp a with inbox := s.inbox ++ [.hostUetWrite sp va bs tag] } := by
  show Host.Outcome.next _ = _
  rw [hs, h]
  rfl

theorem exec_hostUetWrite_here {l : List (Option Nat)} (hs : s.serves sp = true) (h : s.hostReach sp va.toNat true bs.length = .ok l)
    (hl : l.contains none = false) : exec (.hostUetWrite sp va bs tag) s = .next ((s.poke sp va.toNat bs).replyHost sp tag true []) := by
  show Host.Outcome.next _ = _
  rw [hs, h]
  simp only [hl, Bool.not_true, Bool.false_eq_true, if_false]

theorem exec_hostUetWrite_relays {l : List (Option Nat)} (hs : s.serves sp = true) (h : s.hostReach sp va.toNat true bs.length = .ok l)
    (hl : l.contains none = true) : exec (.hostUetWrite sp va bs tag) s = .next (s.hostRelay sp va.toNat bs.length true tag bs []) := by
  show Host.Outcome.next _ = _
  rw [hs, h]
  simp only [hl, Bool.not_true, Bool.false_eq_true, if_false, if_true]

theorem exec_hostUetRead_refused (hs : s.serves sp = true) (h : s.hostReach sp va.toNat false n = .error none) :
    exec (.hostUetRead sp va n tag) s = .next (s.replyHost sp tag false []) := by
  show Host.Outcome.next _ = _
  rw [hs, h]
  rfl

theorem exec_hostUetRead_waits {a : Nat} (hs : s.serves sp = true) (h : s.hostReach sp va.toNat false n = .error (some a)) :
    exec (.hostUetRead sp va n tag) s = .next { s.askModule sp a with inbox := s.inbox ++ [.hostUetRead sp va n tag] } := by
  show Host.Outcome.next _ = _
  rw [hs, h]
  rfl

theorem exec_hostUetRead_here {pas : List Nat} (hs : s.serves sp = true) (h : s.hostReach sp va.toNat false n = .ok (pas.map some))
    (hsound : (pas.any fun pa => s.poisoned pa 1) = false) :
    exec (.hostUetRead sp va n tag) s = .next (s.replyHost sp tag true (pas.map fun pa => readByte s.mem pa)) := by
  have hall : (pas.map some).filterMap id = pas := by simp
  have hnone : (pas.map some).contains none = false := by simp
  show Host.Outcome.next _ = _
  rw [hs, h]
  simp only [hall, hsound, hnone, Bool.not_true, Bool.false_eq_true, if_false]

/-- An answer changes no byte, and goes out but in a replay whose messages are checked. -/
theorem replyHost_answers (ok : Bool) (l : List Byte) : s.sameBytes (s.replyHost sp tag ok l)
    ∧ ((∀ r, s.replayOf sp.part = some r → r.mode ≠ 4) →
      (s.replyHost sp tag ok l).outbox = s.outbox ++ [⟨.part sp.part, tag.port, tag.src, .reply tag.tag ok, l⟩]) := by
  refine ⟨?_, fun h => ?_⟩
  · obtain ⟨ps, h⟩ := sendFrom_eq s sp.part ⟨.part sp.part, tag.port, tag.src, .reply tag.tag ok, l⟩
    rw [State.replyHost, h]
    exact fun a => ⟨rfl, rfl⟩
  · rw [State.replyHost, sendFrom_unchecked _ h]

/-- A host's write to this module is answered, and stands at the address that its page has. -/
theorem pokeReply_writes (hm : Memory.wf s.mem) :
    ((∀ r, s.replayOf sp.part = some r → r.mode ≠ 4) →
      ((s.poke sp va.toNat bs).replyHost sp tag true []).outbox = s.outbox ++ [⟨.part sp.part, tag.port, tag.src, .reply tag.tag true, []⟩])
    ∧ ∀ pa, bs.length ≤ 64 - va.toNat % 64 → s.physOf sp va.toNat = some pa →
      readBytes ((s.poke sp va.toNat bs).replyHost sp tag true []).mem pa bs.length = bs
        ∧ s.sameBytesBut ((s.poke sp va.toNat bs).replyHost sp tag true []) pa bs.length := by
  have hrec := poke_records s sp va.toNat bs
  refine ⟨fun hreplay => ?_, fun pa hlen hpa => ?_⟩
  · have hout : (s.poke sp va.toNat bs).outbox = s.outbox := by rw [hrec.1]
    have hreplays : ∀ r, (s.poke sp va.toNat bs).replayOf sp.part = some r → r.mode ≠ 4 := by
      rw [hrec.1]
      exact hreplay
    rw [(replyHost_answers (s := s.poke sp va.toNat bs) (sp := sp) (tag := tag) true []).2 hreplays, hout]
  · obtain ⟨hread, hrest⟩ := poke_bytes s (va := va.toNat) hm hpa hlen
    obtain ⟨ps, hsend⟩ := sendFrom_eq (s.poke sp va.toNat bs) sp.part ⟨.part sp.part, tag.port, tag.src, .reply tag.tag true, []⟩
    rw [State.replyHost, hsend]
    exact ⟨hread, hrest⟩

/-- Bytes of a peer's page are not poked. -/
theorem poke_remote {m : Mapping} {a : Nat} (hmap : s.mappingOf sp a = some m) (hremote : m.remote = true)
    (hlen : bs.length ≤ 64 - a % 64) : s.poke sp a bs = s := by
  have hphys : s.physOf sp a = none := by
    rw [State.physOf, hmap]
    simp only [hremote, Bool.true_or, if_true]
  rw [State.poke, State.pokeLines, hphys]
  simp only [hlen, if_true, ite_self]

/-- A request to a peer changes no byte, and waits for its answer. -/
theorem askPeer_asks (e : Engine) (m : Mapping) (a : Nat) (read : Bool) (dst : Word) (n : Nat) (l : List Byte)
    {t : State} (ht : s.askPeer e m a read dst n l = t) : t.mem = s.mem ∧ t.spm = s.spm ∧ t.hostReqs = s.hostReqs
      ∧ t.peers = s.peers ++ [⟨s.nextPeer, e.space, e.core, e.q, read, dst, n, s.time, routePort m.peer.toNat⟩] := by
  obtain ⟨ps, hsend⟩ := sendFrom_eq s e.owner.key.part ⟨.part e.owner.key.part, routePort m.peer.toNat, m.peer.toNat,
    if read then .read s.nextPeer m.peerPart.toNat a n else .write s.nextPeer m.peerPart.toNat a, l⟩
  rw [State.askPeer] at ht
  simp only [hsend] at ht
  rw [← ht]
  exact ⟨rfl, rfl, rfl, rfl⟩

/-- A host's write within a line of a peer's page is one request to the peer. -/
theorem hostRelay_line {m : Mapping} (hmap : s.mappingOf sp va.toNat = some m) (hremote : m.remote = true)
    (hne : bs ≠ []) (hlen : bs.length ≤ 64 - va.toNat % 64) {t : State} (ht : s.hostRelay sp va.toNat bs.length true tag bs [] = t) :
    t.mem = s.mem ∧ t.spm = s.spm
      ∧ t.peers = s.peers ++ [⟨s.nextPeer, sp, hostEngine, 0#3, false, va, bs.length, s.time, routePort m.peer.toNat⟩]
      ∧ t.hostReqs = s.hostReqs ++ [⟨sp, va.toNat, bs.length, true, tag, [s.nextPeer], []⟩] := by
  have hpos : bs.length ≠ 0 := fun h => hne (List.length_eq_zero_iff.mp h)
  have hask : s.hostAsk sp true va.toNat bs.length bs (bs.length / 64 + 2)
      = (s.askPeer ⟨hostEngine, 0#3, ⟨⟨sp.part, 0, 0⟩, sp.vdev, false, 0#2, false⟩, 0, 0#58⟩ m (m.pa + (va.toNat - m.va)) false va
        bs.length bs, [s.nextPeer]) := by
    rw [State.hostAsk, if_neg hpos]
    simp only [hmap, hremote, Nat.min_eq_right hlen, List.take_length, Nat.sub_self, State.hostAsk, if_true, BitVec.ofNat_toNat,
      BitVec.setWidth_eq, Bool.not_true, List.append_nil]
  rw [State.hostRelay, poke_remote hmap hremote hlen, hask] at ht
  generalize hu : s.askPeer _ _ _ _ _ _ _ = u at ht
  obtain ⟨hmem, hspm, hreqs, hpeers⟩ := askPeer_asks _ _ _ _ _ _ _ hu
  rw [← ht, ← hreqs]
  exact ⟨hmem, hspm, hpeers, rfl⟩

end
end

/-- Settles O51: engines, nodes, peers and hosts step by step, with the bytes that each step writes. -/
theorem transfersOfEngines : Obligations.TransfersOfEngines := by
  unfold Obligations.TransfersOfEngines
  intro s hs
  refine ⟨fun q cp moved o pc rest hhead htensor htsr htrace hpeers => ⟨?_, fun hover harr => ?_, ?_⟩, ?_, ?_, ?_, ?_, ?_, ?_⟩
  · intro b dst hmore hcls hdst h
    exact ⟨_, exec_copyPerform q, queueStep_granule hs.1 hhead htensor htsr htrace hpeers hmore hcls rfl hdst h⟩
  · refine ⟨_, exec_copyPerform q, ?_⟩
    rw [queueStep_over hhead htensor htrace hpeers hover harr]
    exact ⟨setHead_head .., rfl, rfl⟩
  · intro pa m hover harr hat hm hhere hsync
    exact ⟨_, exec_copyPerform q, queueStep_arrives hs.1 hhead htensor htrace hpeers hover harr ⟨_, copyArrive_here hat hm hhere hsync⟩⟩
  · intro k n pa hk hc hst hpa
    obtain ⟨j, hj⟩ := startNode_job hpa
    exact ⟨s.startNode n, j, exec_copyNode hk hc hst, hj⟩
  · intro id p h
    obtain ⟨rfl, -⟩ := find?_id (f := fun p => !p.read) h
    refine ⟨fun hne => ⟨_, exec_peerAck h, if_neg hne⟩, fun r hhost hreqs hids hwrite hreplay => (exec_peerAck h).trans ?_⟩
    have hacked : s.peerAcked p = (s.dropPeer p.id).hostTake p [] := if_pos hhost
    rw [hacked]
    exact congrArg Host.Outcome.next (hostTake_write (s := s.dropPeer p.id) hreqs hids hwrite hreplay)
  · exact fun id p bs cp moved o pc rest h hlen hcore hmod hhead => exec_peerReadResponse h hlen hcore hmod hhead
  · exact fun id p c cp moved o pc h hmod hc hhead hwatch hlate => ⟨exec_peerTimeout h hmod hc hhead hwatch hlate,
      fun ho hnone => raiseLater_here (s := s.dropPeer id) ho hnone⟩
  · intro sp va n
    refine ⟨fun pa m h hsync hword => ⟨_, exec_peerArrival_here h hsync hword, arriveAt_bytes s pa n.toNat _ hs.1⟩,
      fun r h => exec_peerArrival_trap h, fun h => ⟨_, exec_peerArrival_miss h, ?_, rfl⟩⟩
    obtain ⟨hmem, hspm⟩ := askModule_bytes (s := s) sp va.toNat
    exact fun a => ⟨congrArg (readByte · a) hmem, congrArg (readByte · a) hspm⟩
  · intro sp va bs tag n hserves
    refine ⟨fun pa pas h hnone => ?_, fun m h hne hlen hm hremote => ?_, fun pas h hsound => ?_, fun h => ?_, fun h => ?_,
      fun a h => ?_, fun a h => ?_⟩
    · obtain ⟨hreply, hwrite⟩ := pokeReply_writes (s := s) (sp := sp) (va := va) (bs := bs) (tag := tag) hs.1
      exact ⟨_, exec_hostUetWrite_here hserves h (by simpa using hnone), hreply, hwrite pa⟩
    · have hnone : (List.replicate bs.length (none : Option Nat)).contains none = true :=
        List.contains_iff_mem.mpr (List.mem_replicate.mpr ⟨fun hz => hne (List.length_eq_zero_iff.mp hz), rfl⟩)
      exact ⟨_, exec_hostUetWrite_relays hserves h hnone, hostRelay_line hm hremote hne hlen rfl⟩
    · exact ⟨_, exec_hostUetRead_here hserves h hsound, replyHost_answers ..⟩
    · exact ⟨_, exec_hostUetWrite_refused hserves h, replyHost_answers ..⟩
    · exact ⟨_, exec_hostUetRead_refused hserves h, replyHost_answers ..⟩
    · obtain ⟨hmem, hspm⟩ := askModule_bytes (s := s) sp a
      exact ⟨_, exec_hostUetWrite_waits hserves h, fun x => ⟨congrArg (readByte · x) hmem, congrArg (readByte · x) hspm⟩, rfl⟩
    · obtain ⟨hmem, hspm⟩ := askModule_bytes (s := s) sp a
      exact ⟨_, exec_hostUetRead_waits hserves h, fun x => ⟨congrArg (readByte · x) hmem, congrArg (readByte · x) hspm⟩, rfl⟩

end Sys2Proof.Machine
end
